-- ==== Sys2Proof/Word.lean ====
section
/-! DEFINITION. The word types, the plainest arithmetic on them, and the association table that holds every sparse
piece of state. -/

namespace Sys2Proof

/-- A 64-bit register value (R16, R17). -/
abbrev Word := BitVec 64
/-- One byte of memory (R10). -/
abbrev Byte := BitVec 8
/-- A 96-bit lane instruction word (R53); also one bit per lane (R16). -/
abbrev Bits96 := BitVec 96
/-- The 96 lane values of one vector name, 32 bits each (R16); lane `l` is entry `l`. -/
abbrev LaneVec := List (BitVec 32)

/-- Bits [hi:lo] of `x` as a number (Table 4 of 00_scope). -/
def bits {w : Nat} (x : BitVec w) (hi lo : Nat) : Nat := x.toNat / 2 ^ lo % 2 ^ (hi + 1 - lo)

/-- Bits [hi:lo] of a number. -/
def nbitsOf (x hi lo : Nat) : Nat := x / 2 ^ lo % 2 ^ (hi + 1 - lo)

/-- A table keyed by numbers, kept with strictly rising keys. -/
abbrev Tbl (α : Type) := List (Nat × α)

namespace Tbl

/-- The entry at key `k`, if there is one. -/
def find {α : Type} : Tbl α → Nat → Option α
  | [], _ => none
  | (j, a) :: r, k => if j = k then some a else find r k

/-- The table with `a` at key `k`. -/
def put {α : Type} : Tbl α → Nat → α → Tbl α
  | [], k, a => [(k, a)]
  | (j, b) :: r, k, a =>
    if k < j then (k, a) :: (j, b) :: r
    else if k = j then (k, a) :: r
    else (j, b) :: put r k a

/-- The table with nothing at key `k`. -/
def del {α : Type} : Tbl α → Nat → Tbl α
  | [], _ => []
  | (j, b) :: r, k => if j = k then del r k else (j, b) :: del r k

/-- The keys listed, in order. -/
def keys {α : Type} (t : Tbl α) : List Nat := t.map Prod.fst

/-- The value at `k`, or `d` where the table lists none. -/
def getOr {α : Type} (t : Tbl α) (d : α) (k : Nat) : α := (t.find k).getD d

/-- Write `a` at `k` where an unlisted key reads as `d`: writing `d` removes the entry, so that equal
contents are equal tables. -/
def setOr {α : Type} [DecidableEq α] (t : Tbl α) (d : α) (k : Nat) (a : α) : Tbl α :=
  if a = d then t.del k else t.put k a

/-- Change the entry at `k`, where there is one. -/
def modify {α : Type} (t : Tbl α) (k : Nat) (f : α → α) : Tbl α :=
  match t.find k with
  | none => t
  | some a => t.put k (f a)

/-- Change every entry, given its key. -/
def mapV {α : Type} (f : Nat → α → α) : Tbl α → Tbl α
  | [] => []
  | (k, a) :: r => (k, f k a) :: mapV f r

/-- Keys strictly rising. -/
def sorted {α : Type} : Tbl α → Bool
  | [] => true
  | [_] => true
  | (j, _) :: (k, b) :: r => decide (j < k) && sorted ((k, b) :: r)

end Tbl

end Sys2Proof
end

