-- ==== Sys2Proof/Types.lean ====
section
/-! DEFINITION. The operand records the constructors of Instr carry: the two layouts of a lane word (R58 to R60) and
the records that a request, a packet or a device event hands to the package. -/

namespace Sys2Proof

/-- Bits [79:0] of a lane word in the register layout R (Table 3 of 02, R59), field by field. -/
structure LaneR where
  dst  : BitVec 10
  a    : BitVec 10
  b    : BitVec 10
  c    : BitVec 10
  d    : BitVec 10
  g1   : BitVec 5
  g2   : BitVec 5
  fe   : BitVec 4
  hint : BitVec 3
  yd   : BitVec 1
  nr   : BitVec 1
  rsv  : BitVec 2
  rnd  : BitVec 3
  ty   : BitVec 6
  deriving DecidableEq, Repr

/-- Bits [79:0] of a lane word in the immediate layout I (Tables 3 and 4 of 02, R60). -/
structure LaneI where
  dst  : BitVec 10
  a    : BitVec 10
  b    : BitVec 10
  g1   : BitVec 5
  g2   : BitVec 5
  imm  : BitVec 20
  fe   : BitVec 4
  hint : BitVec 3
  yd   : BitVec 1
  nr   : BitVec 1
  rsv  : BitVec 2
  rnd  : BitVec 3
  ty   : BitVec 6
  deriving DecidableEq, Repr

/-- The low 80 bits of a lane word in one of the two layouts (R58). -/
inductive LaneBody where
  | r (f : LaneR)
  | i (f : LaneI)
  deriving DecidableEq, Repr

/-- Which stream an instruction belongs to; `event` is a platform or device event, which has no word. -/
inductive Stream where
  | scalar | lane | mcf | event
  deriving DecidableEq, Repr

/-- How a remote operation is answered: with a value, with a NACK that is not retryable and its NACKWHY (Table 4 of 20),
with an uncorrectable error (R307), or with a retryable NACK for a page not present (R399). -/
inductive Reply where
  | ok (value : Nat)
  | nack (why : Nat)
  | ue
  | retry
  deriving DecidableEq, Repr

/-- A row of the member table (R322, R257, Table 1 of 13). -/
structure MemberRow where
  pkg   : Nat
  bar   : Nat
  rank  : Nat
  buddy : Nat
  dest  : Nat
  deriving DecidableEq, Repr

/-- Alias-window parameters of an entry (R324). -/
structure AliasWin where
  base : Nat
  half : Nat
  size : Nat
  kind : Nat
  root : Nat
  deriving DecidableEq, Repr

/-- A context's share of one core (R28, Table 6 of 01). -/
structure Share where
  regs     : Nat
  tiles    : List Nat
  handles  : List Nat
  cbufs    : List Nat
  barriers : List Nat
  mailboxes : List Nat
  deriving DecidableEq, Repr

/-- What a load-collective request names (R380): context, index, image and MCF section; element type (true for f32),
operation, CB, length; the member and hop tables, the window, the mask of the local ports, and each port's XMASK. -/
structure CollReq where
  ctx     : Nat
  entry   : Nat
  image   : Nat
  sect    : Nat
  wide    : Bool
  op      : Nat
  cb      : Nat
  length  : Nat
  rows    : List MemberRow
  hops    : List (Nat × Nat)
  win     : Option AliasWin
  ports   : Nat
  xmask   : List (Nat × Nat)
  deriving DecidableEq, Repr

/-- What a configure request writes: a port's record (Table 11 of 19) or a route mask. -/
inductive PortCfg where
  | port (n word : Nat)
  | route (pkg mask : Nat)
  deriving DecidableEq, Repr

/-- An image for the boot flash (R418, R420): an identity of its contents, its security version, whether its signature
verifies, its size in bytes. -/
structure FwImage where
  digest  : Nat
  version : Nat
  valid   : Bool
  bytes   : Nat
  deriving DecidableEq, Repr

/-- How a bring-up step ends (Table 1 of 19): the host link is trained; a die is in service or has failed; DDR and ports are
trained, with the bytes of DIMMs that the package does not support (R306) and the mask of ports that failed; the service is
ready. -/
inductive StepDone where
  | hostLink
  | die (d : Nat) (ok : Bool)
  | ddr (unused : Nat) (ok : Bool)
  | ports (failed : Nat)
  | ready
  deriving DecidableEq, Repr

/-- What the driver does with a request ring: it opens it with its base and log2 size, or writes a new tail (R363). -/
inductive RingMsg where
  | opens (base log2 : Nat)
  | tail (value : Nat)
  deriving DecidableEq, Repr

/-- The delivery mode of a packet (Table 13 of 19). -/
inductive Delivery where
  | ordered | unordered | idempotent | unreliable
  deriving DecidableEq, Repr

/-- How a packet of another package comes in: the port, the key epoch it was sealed under, whether its tag is authentic
(R334, R415), and its delivery mode; epoch and tag mean nothing on a link without a session. -/
structure Via where
  port  : Nat
  epoch : Nat
  tag   : Bool
  mode  : Delivery := .unordered
  deriving DecidableEq, Repr

/-- The place of a packet under reliable ordered delivery: its delivery context and its number there (R378, Table 13 of
19). -/
structure SeqNo where
  pdc : Nat
  n   : Nat
  deriving DecidableEq, Repr

/-- A collective packet (Table 3 of 09); FRESH belongs to the packet register. -/
structure Packet where
  member : Nat
  chunk  : Nat
  inst   : Nat
  kind   : Nat
  srcpkg : Nat
  payload : List Byte
  deriving DecidableEq, Repr

/-- A collective packet as it reaches this package: port, source context, target context and entry, and whether it is a copy
for the buddy store (R242, R255, R257). -/
structure CollIn where
  via    : Via
  srcctx : Nat
  ctx    : Nat
  entry  : Nat
  store  : Bool
  pkt    : Packet
  deriving DecidableEq, Repr

/-- A takeover request as it reaches a buddy's package, with the port that asks (R255, R257). -/
structure Takeover where
  via    : Via
  srcpkg : Nat
  srcctx : Nat
  asker  : Nat
  ctx    : Nat
  entry  : Nat
  member : Nat
  chunk  : Nat
  inst   : Nat
  deriving DecidableEq, Repr

/-- What an inbound window access does at an address of its target context (R318). -/
inductive WinReq where
  | load (addr size : Nat)
  /-- Bytes at addresses of one aligned 8-byte word, in lane order, or one posted write. -/
  | store (parts : List (Nat × List Byte))
  /-- The lanes of one atomic in one aligned 8-byte word, in lane order: address, operand, second operand of acas. -/
  | atomic (size minor ty : Nat) (parts : List (Nat × Nat × Nat))
  | append (addr : Nat) (row : List Byte)
  deriving DecidableEq, Repr

/-- A window access of another package as it reaches this one. -/
structure WinIn where
  via    : Via
  srcpkg : Nat
  srcctx : Nat
  req    : WinReq
  deriving DecidableEq, Repr

/-- A mailbox message at its slot: a remote operation of this package by number, or a message of another package
(R224, R225). -/
inductive MailMsg where
  | own (op : Nat)
  | inbound (via : Via) (srcpkg srcctx ctx core slot : Nat) (bytes : List Byte) (seq : SeqNo)
  deriving DecidableEq, Repr

/-- Permit traffic (R376): a request at the destination, in its order; at the sender the answers to a request of a number:
a permit with its lease, none free, and the refusal by the destination's table. -/
inductive PermitMsg where
  | ask (via : Via) (srcpkg srcctx queue : Nat) (seq : SeqNo)
  | granted (op id lease : Nat)
  | later (op : Nat)
  | denied (op : Nat)
  deriving DecidableEq, Repr

/-- A renewal of one permit: due at the sender, or arriving at the destination (R376). -/
inductive RenewMsg where
  | due (ctx pkg id : Nat)
  | arrives (via : Via) (srcpkg srcctx id : Nat) (seq : SeqNo)
  deriving DecidableEq, Repr

/-- A peer launch packet at its destination, or the answer to one at its sender: placed, or refused with its reason
(R377). -/
inductive PeerMsg where
  | arrives (via : Via) (srcpkg srcctx queue pkt permit : Nat) (seq : SeqNo)
  | placed (op : Nat)
  | refused (op why : Nat)
  deriving DecidableEq, Repr

/-- Why members become absent here (R333): the service declares a package failed, or another package says that a member is
absent. DEDUCED (assumption log 35). -/
inductive AbsentMsg where
  | package (pkg : Nat)
  | member (ctx entry member : Nat)
  deriving DecidableEq, Repr

end Sys2Proof
end

