-- ==== Sys2Proof/Syntax.lean ====
section
/-! DEFINITION. Instr: one constructor for each row of spec/opcode_table.json, in the table's order: the scalar
instructions (s…), the lane instructions (v…), the MCF instructions (m…) and the platform and device events (e…). -/

namespace Sys2Proof

/-- The instructions and events of the X2, one per row of the opcode table. -/
inductive Instr where
  /-- PACKAGE_RESET (R360): A reset or power-good starts bring-up: the boot ROM verifies the image and the partitions bring the package up in the order of Table 1. -/
  | ePackageReset
  /-- LOSS_OF_POWER (R2): Loss of power; no data of any context survives it. -/
  | eLossOfPower (writing : Bool)
  /-- BRING_UP_STEP_DONE (R360): A timed bring-up step such as HBM or DDR training ends, setting DIEUP, DEGRADED, BOOTERR or READY as it turns out. -/
  | eBringUpStepDone (d : StepDone)
  /-- RECOVERY_IMAGE_TRANSFER (R418): In recovery the boot ROM takes an image over MCTP vendor messages, verifies it, writes it to the boot flash and boots it. -/
  | eRecoveryImageTransfer (img : FwImage)
  /-- FIRMWARE_STAGING (R418): An image staged while the package runs is verified and written to the boot flash, and takes effect at the next reset. -/
  | eFirmwareStaging (img : FwImage)
  /-- SECURITY_VERSION_ADVANCE (R418): A booted image asks for the fused security-version counter to be advanced to its V. -/
  | eSecurityVersionAdvance
  /-- DEBUG_TOKEN_UNLOCK (R419): A signed debug token opens JTAG, after zeroing all key slots and halting every context with FATALWHY 2. -/
  | eDebugTokenUnlock (serial : Nat) (signed : Bool)
  /-- SET_PCAP (R423): A management message sets the package power cap. -/
  | eSetPcap (watts : Nat)
  /-- TELEMETRY_READ (R424): A Quoman vendor MCTP message reads telemetry counters. -/
  | eTelemetryRead (bus : Nat)
  /-- MCTP_CONTROL (R424): An MCTP control message is answered by the endpoint. -/
  | eMctpControl (bus : Nat) (command : Nat)
  /-- POWER_WINDOW_EXPIRY (R423): At the end of each 1 ms window, issue gating is adjusted to hold average power at or below PCAP. -/
  | ePowerWindowExpiry (watts : Nat)
  /-- THERMAL_GATING (R423): A junction temperature of 100 °C applies issue gating whatever PCAP is. -/
  | eThermalGating (celsius : Nat)
  /-- THERMAL_TRIP (R423): At 110 °C all work stops and the package resets, losing every context. -/
  | eThermalTrip (celsius : Nat)
  /-- GET_VERSION (R416): SPDM GET_VERSION request to the security processor. -/
  | eGetVersion (bus : Nat)
  /-- GET_CAPABILITIES (R416): SPDM GET_CAPABILITIES request. -/
  | eGetCapabilities (bus : Nat) (version : Nat)
  /-- NEGOTIATE_ALGORITHMS (R416): SPDM NEGOTIATE_ALGORITHMS request. -/
  | eNegotiateAlgorithms (bus : Nat) (offered : Bool)
  /-- GET_DIGESTS (R416): SPDM GET_DIGESTS request. -/
  | eGetDigests (bus : Nat)
  /-- GET_CERTIFICATE (R416): SPDM GET_CERTIFICATE request for the chain from the Quoman root to the alias certificate. -/
  | eGetCertificate (bus : Nat) (off : Nat) (len : Nat)
  /-- CHALLENGE (R416): SPDM CHALLENGE request answered with the alias key. -/
  | eChallenge (bus : Nat) (nonce : Nat)
  /-- GET_MEASUREMENTS (R416): SPDM GET_MEASUREMENTS request for boot ROM, firmware, security configuration and partition images. -/
  | eGetMeasurements (bus : Nat) (index : Nat) (nonce : Nat)
  /-- KEY_EXCHANGE (R415): SPDM KEY_EXCHANGE opens a secure session, including the per-link session keys of an enclave. -/
  | eKeyExchange (bus : Nat) (peer : Nat) (bothAuth : Bool) (link : Option Nat)
  /-- FINISH (R416): SPDM FINISH request completing session set-up. -/
  | eFinish (bus : Nat) (n : Nat)
  /-- HEARTBEAT (R416): SPDM HEARTBEAT request keeping a session alive. -/
  | eHeartbeat (bus : Nat) (n : Nat)
  /-- KEY_UPDATE (R416): SPDM KEY_UPDATE request for a session. -/
  | eKeyUpdate (bus : Nat) (n : Nat)
  /-- END_SESSION (R416): SPDM END_SESSION request closing a session. -/
  | eEndSession (bus : Nat) (n : Nat)
  /-- KEY_IMPORT (R410): A vendor message over a mutually authenticated session imports a key and its isolation domain into an empty slot. -/
  | eKeyImport (bus : Nat) (n : Nat) (slot : Nat) (domain : Nat) (key : Nat)
  /-- KEY_EXPORT (R410): A vendor message returns the wrapped export of a slot key to its owner's session. -/
  | eKeyExport (bus : Nat) (n : Nat) (slot : Nat)
  /-- REVOKE (R413): A participant revokes its slot over its SPDM session, with the steps of revocation. -/
  | eRevoke (bus : Nat) (n : Nat) (slot : Nat)
  /-- CONTEXT_REPORT (R417): A vendor message returns a signed context report. -/
  | eContextReport (bus : Nat) (ctx : Nat) (nonce : Nat)
  /-- LINK_REKEY (R415): A link is re-keyed when its packet counter nears 2^48 or a participant's slot is revoked; its packets are NACKed retryable meanwhile. -/
  | eLinkRekey (port : Nat) (done : Bool)
  /-- CONTROL_SPACE_WRITE (R362): A write to a control-space region without a row of its own is applied, or discarded when the writer may not write the region. -/
  | eControlSpaceWrite (off : Nat) (value : Nat) (byService : Bool)
  /-- SERVICE_RING_DOORBELL (R363): The driver writes a new tail to a partition's request-ring doorbell, and the partition takes the new requests. -/
  | eServiceRingDoorbell (part : Nat) (m : RingMsg)
  /-- CREATE_CONTEXT (R411): Request 0x01 creates a context bound to a key slot and domain, refused with status 3 on a bad slot or domain. -/
  | eCreateContext (part : Nat) (k : Nat) (domain : Nat) (slot : Nat) (base : Nat) (size : Nat)
  /-- RESET_CONTEXT (R425): Request 0x02 mode 0 halts the context's work and returns its objects to their state at creation, keeping its mappings, images, queues and shares. -/
  | eResetContext (part : Nat) (k : Nat) (ctx : Nat)
  /-- DESTROY_CONTEXT (R425): Request 0x02 mode 1 resets the context and then frees its frames, images, queues, shares, collective entries and number. -/
  | eDestroyContext (part : Nat) (k : Nat) (ctx : Nat)
  /-- LOAD_IMAGE (R272): Request 0x03 loads a KZO image, binds load-bound symbols, applies load relocations and maps the pool and constants read-only. -/
  | eLoadImage (part : Nat) (k : Nat) (ctx : Nat) (kzo : Nat) (va : Nat) (binds : List (Nat × Nat))
  /-- CREATE_OR_CHANGE_QUEUE (R364): Request 0x04 writes a queue descriptor, refused if it breaks the queue rules. -/
  | eCreateOrChangeQueue (part : Nat) (k : Nat) (queue : Nat) (desc : Nat) (page : Option Nat)
  /-- SET_SRAM_BANKS_TILES_BARRIERS (R308): Request 0x05 sets a core's bank control words and a context's share of per-core resources. -/
  | eSetSramBanksTilesBarriers (part : Nat) (k : Nat) (ctx : Nat) (core : Nat) (words : List (Nat × Nat)) (share : Share)
  /-- MAP (R386): Request 0x06 operation 0 maps pages, zeroing frames of kinds 0 and 1 before the entries become valid. -/
  | eMap (part : Nat) (k : Nat)
  /-- UNMAP (R388): Request 0x06 operation 1 clears entries, queues a shoot-down and frees the frames once it completes. -/
  | eUnmap (part : Nat) (k : Nat)
  /-- PROTECT (R388): Request 0x06 operation 2 sets rights; a reduction waits for its shoot-down. -/
  | eProtect (part : Nat) (k : Nat)
  /-- RESERVE (R426): Request 0x06 operation 3 makes the tables of a range and writes reserved leaves. -/
  | eReserve (part : Nat) (k : Nat)
  /-- UNRESERVE (R426): Request 0x06 operation 4 zeroes every leaf of the range that is still reserved. -/
  | eUnreserve (part : Nat) (k : Nat)
  /-- SET_NOTIFIER_RING (R390): Request 0x06 operation 5 sets the driver's notifier ring. -/
  | eSetNotifierRing (part : Nat) (k : Nat)
  /-- SET_TRAP_HANDLER (R393): Request 0x06 operation 6 names the trap handler image, entry and frame base. -/
  | eSetTrapHandler (part : Nat) (k : Nat)
  /-- SIZE_TRAP_QUEUE (R394): Request 0x06 operation 7 reallocates the trap queue empty, refused while a record is unread. -/
  | eSizeTrapQueue (part : Nat) (k : Nat)
  /-- SET_PACKAGE_IDENTIFIER (R363): Request 0x10 sets the package identifier, refused while any port is enabled. -/
  | eSetPackageIdentifier (part : Nat) (k : Nat) (id : Nat)
  /-- CONFIGURE_PORT_OR_ROUTE (R378): Request 0x11 writes a port configuration record or a route-table entry. -/
  | eConfigurePortOrRoute (part : Nat) (k : Nat) (m : PortCfg)
  /-- WRITE_ACCESS_CONTROL_ENTRY (R375): Request 0x12 writes an access-control entry. -/
  | eWriteAccessControlEntry (part : Nat) (k : Nat) (idx : Nat) (word : Nat)
  /-- LOAD_COLLECTIVE_ENTRY (R380): Request 0x13 checks a collective entry and its MCF program and installs them on the named port engines, or refuses with the first failing word and cause. -/
  | eLoadCollectiveEntry (part : Nat) (k : Nat) (r : CollReq)
  /-- DESTROY_COLLECTIVE_ENTRY (R381): Request 0x14 stops the entry's threads, gives unarrived members status 0x08 and discards staged stores. -/
  | eDestroyCollectiveEntry (part : Nat) (k : Nat) (ctx : Nat) (entry : Nat)
  /-- QUERY_SLOT (R412): Request 0x20 returns a key slot's status word. -/
  | eQuerySlot (part : Nat) (k : Nat) (slot : Nat)
  /-- GENERATE_KEY (R410): Request 0x21 generates a key with a domain into an empty slot. -/
  | eGenerateKey (part : Nat) (k : Nat) (slot : Nat) (domain : Nat)
  /-- REVOKE_SLOT (R413): Request 0x22 revokes a slot: accesses refused, lines dropped, contexts halted and made absent, key zeroed. -/
  | eRevokeSlot (part : Nat) (k : Nat) (slot : Nat)
  /-- RECLAIM_SLOT (R412): Request 0x23 scrubs a revoked slot with no contexts and returns it to empty. -/
  | eReclaimSlot (part : Nat) (k : Nat) (slot : Nat)
  /-- ATTESTATION_REPORT (R417): Request 0x24 returns a signed context report for a nonce. -/
  | eAttestationReport (part : Nat) (k : Nat) (ctx : Nat) (addr : Nat)
  /-- QUEUE_DOORBELL (R365): A write of a new tail to a queue doorbell sets TAIL, or is discarded and sets DBERR. -/
  | eQueueDoorbell (q : Nat) (tail : Nat)
  /-- PACKET_INTAKE (R371): A graph engine takes a launch packet from the chosen ready queue into its pool, checks it and records its dependences. -/
  | ePacketIntake (die : Nat)
  /-- NODE_DISPATCH (R373): A node whose predecessors have all completed is dispatched, or cancelled with 0x05 if one failed. -/
  | eNodeDispatch (die : Nat)
  /-- SOUNDER_ADMISSION (R280): A waiting sounder is admitted when a bank slot and its pool charge are free. -/
  | eSounderAdmission (ctx : Nat) (core : Nat)
  /-- CORESIDENT_ADMISSION (R281): All sounders of a co-resident launch are admitted in one step once every slot and charge is free at once. -/
  | eCoresidentAdmission (l : Nat)
  /-- LAUNCH_COMPLETION (R301): A launch whose sounders, commands and log entries are all done performs its release, fires its events and releases its dependants. -/
  | eLaunchCompletion (l : Nat)
  /-- RECORD_QUEUE_FULL_TILE (R299): When T consecutive slots from NEXT are ready, the graph engine launches them. -/
  | eRecordQueueFullTile (node : Nat)
  /-- FLUSH_TIMER_EXPIRY (R299): The flush timer expires and the engine launches the consecutive ready slots from NEXT. -/
  | eFlushTimerExpiry (node : Nat)
  /-- PEER_LAUNCH_SEND (R377): The sending switch die takes a packet from a peer-send queue and sends it under a permit. -/
  | ePeerLaunchSend (queue : Nat)
  /-- PERMIT_REQUEST (R376): A destination switch die grants a permit within MAXPERM and the queue's free slots. -/
  | ePermitRequest (m : PermitMsg)
  /-- PERMIT_RENEWAL (R376): The sending switch die renews each permit every LEASE/2 µs while its context exists. -/
  | ePermitRenewal (m : RenewMsg)
  /-- PERMIT_EXPIRY (R376): A permit not renewed expires and its slot is reclaimed. -/
  | ePermitExpiry (srcpkg : Nat) (srcctx : Nat) (queue : Nat)
  /-- PEER_LAUNCH_ARRIVAL (R377): A peer launch packet is placed in its reserved slot, or refused with a record in the sender's trap queue. -/
  | ePeerLaunchArrival (m : PeerMsg)
  /-- INBOUND_WINDOW_ACCESS (R318): An inbound window access is checked against access control, translated in the target context and applied, or NACKed. -/
  | eInboundWindowAccess (w : WinIn)
  /-- WINDOW_ACK_ARRIVAL (R161): A target's acknowledgement of a posted window store arrives, performing it at system scope. -/
  | eWindowAckArrival (op : Nat) (reply : Reply)
  /-- RETRANSMISSION_TIMEOUT (R379): A retransmission timer expires; the packet is resent, or after RETRYMAX the operation fails by kind. -/
  | eRetransmissionTimeout (op : Nat)
  /-- DIRECT_PLACEMENT_RETRY (R399): A backoff expires and an inbound write NACKed for a page not present is retried. -/
  | eDirectPlacementRetry (op : Nat)
  /-- LINK_FAILURE (R378): A link fails; ordered traffic moves to the next port up in the route mask. -/
  | eLinkFailure (port : Nat)
  /-- PORT_LANE_FAILURE (R422): A port lane fails and the port moves to its spare fifth lane. -/
  | ePortLaneFailure (port : Nat)
  /-- MEMORY_LANE_FAILURE (R422): An HBM or DDR data lane fails and the channel moves to a spare lane. -/
  | eMemoryLaneFailure (channel : Nat)
  /-- CORE_FAILURE (R422): A core fails; its logical core migrates to a spare, or launches reaching it complete with 0x07. -/
  | eCoreFailure (core : Nat) (spare : Nat) (lost : Nat)
  /-- CORE_MIGRATION (R407): The service saves both resident contexts, binds the logical core to a spare and fills it. -/
  | eCoreMigration (core : Nat) (spare : Nat) (lost : Nat)
  /-- COLLECTIVE_PACKET_ARRIVAL (R243): A collective packet is queued, placed in overflow, NACKed or discarded by its instance distance. -/
  | eCollectivePacketArrival (c : CollIn)
  /-- TAKEOVER_REQUEST_ARRIVAL (R257): A buddy switch die answers a takeover request from its store with a KIND 1 or KIND 4 packet. -/
  | eTakeoverRequestArrival (r : Takeover)
  /-- MATCH_TIMEOUT (R249): A match's timeout expires with no packet; xd := 1. -/
  | eMatchTimeout (port : Nat) (ctx : Nat) (cid : Nat)
  /-- ALIAS_STORE_ACCEPT (R326): The switch die accepts an alias store into staging, discards it as a duplicate, or NACKs it. -/
  | eAliasStoreAccept (ctx : Nat) (core : Nat) (slot : Nat) (entry : Nat) (lane : Nat)
  /-- LANE_BLOCK_START (R128): The next queued lane block starts when the previous one is finished. -/
  | eLaneBlockStart (ctx : Nat) (core : Nat) (slot : Nat)
  /-- LANE_LOAD_FILL (R33): Returning data fills a load's destination lanes and the name becomes full. -/
  | eLaneLoadFill (ctx : Nat) (core : Nat) (slot : Nat) (fill : Nat)
  /-- ACCESS_PERFORMED (R161): An issued access is performed and its operand-log entry released. -/
  | eAccessPerformed (ctx : Nat) (core : Nat) (slot : Nat) (entry : Nat) (count : Nat) (ue : Bool)
  /-- DEFERRED_FAULT_DELIVERY (R163): A fault found at access is held in the operand log and delivered at the next instruction boundary. -/
  | eDeferredFaultDelivery (ctx : Nat) (core : Nat) (slot : Nat) (entry : Nat)
  /-- SOUNDER_PARK (R48): On pool exhaustion the youngest unparked sounder is parked after its fills complete, its names saved to the sett. -/
  | eSounderPark (ctx : Nat) (core : Nat) (n : Nat)
  /-- SOUNDER_RESUME (R49): A parked sounder resumes when the share has enough free registers, its names restored full. -/
  | eSounderResume (ctx : Nat) (core : Nat)
  /-- QUADRANT_ARBITRATION (R286): A free quadrant port chooses a ready join set by WAIT, age and yield. -/
  | eQuadrantArbitration (core : Nat) (quad : Nat) (lane : Bool)
  /-- DETERMINISTIC_RELEASE (R293): A synchronising operation in deterministic mode takes effect once its stamp is lowest among counted parties. -/
  | eDeterministicRelease (ctx : Nat) (core : Nat) (slot : Nat)
  /-- EVENT_TIMER_EXPIRY (R219): An armed kind-4 timer expires and sets PENDING. -/
  | eEventTimerExpiry (ctx : Nat) (core : Nat) (slot : Nat) (n : Nat)
  /-- MAILBOX_MESSAGE_ARRIVAL (R224): A message enters a posted slot and the slot becomes arrived, or it is refused with status 1. -/
  | eMailboxMessageArrival (m : MailMsg)
  /-- MAILBOX_STATUS_RETURN (R225): The destination's answer returns and mbsend retires with its status. -/
  | eMailboxStatusReturn (op : Nat) (status : Nat)
  /-- WAITANY_WAKE (R220): A parked waitany finds an eligible slot, takes it and transfers to its handler. -/
  | eWaitanyWake (ctx : Nat) (core : Nat) (slot : Nat)
  /-- BARRIER_WAIT_RELEASE (R216): A waiting bar.wait or bar.sync retires once PHASE passes its token. -/
  | eBarrierWaitRelease (ctx : Nat) (core : Nat) (slot : Nat)
  /-- HWAIT_RETURN (R196): A waiting hwait retires once the handle's state is in its set. -/
  | eHwaitReturn (ctx : Nat) (core : Nat) (slot : Nat) (slices : Nat)
  /-- REGANG_JOIN (R232): When every unfinished slice waits at a regang, slices at one index become joined. -/
  | eRegangJoin (ctx : Nat) (core : Nat) (slot : Nat)
  /-- COPY_LAST_BYTE (R192): A copy's last byte lands; REL is performed and the handle moves to full. -/
  | eCopyLastByte (ctx : Nat) (core : Nat) (id : Nat) (n : Nat)
  /-- ENGINE_COMMAND_FIRE (R198): A waiting engine command fires when its input rows are present and its output rows free. -/
  | eEngineCommandFire (ctx : Nat) (core : Nat) (unit : Nat)
  /-- ARRAY_COMMAND_COMPLETE (R205): An array command completes, updating tiles or planes and clearing INFLIGHT. -/
  | eArrayCommandComplete (ctx : Nat) (core : Nat)
  /-- ARRAY_TRANSIENT_ERROR (R103): A detected transient error re-executes a matrix command from its retained operands. -/
  | eArrayTransientError (ctx : Nat) (core : Nat)
  /-- ROUTE_COMPLETE (R208): A route finishes its writes, performs REL and moves its handle to full. -/
  | eRouteComplete (die : Nat) (n : Nat)
  /-- ENGINE_ACCESS_FAULT (R185): An engine meets a fault after issue; it writes a record and suspends or ends the command, or halts the context. -/
  | eEngineAccessFault (ctx : Nat) (core : Nat) (unit : Nat) (id : Nat) (ue : Bool)
  /-- SLICE_END (R401): A slice's L cycles expire; a new slice starts or the context is held for a safe point. -/
  | eSliceEnd (core : Nat)
  /-- SAFE_POINT (R402): A held context reaches a safe point and its overrun is added to its debt. -/
  | eSafePoint (core : Nat)
  /-- BADGER_SAVE_DONE (R403): The badger finishes saving a displaced context to its sett, header last. -/
  | eBadgerSaveDone (core : Nat) (ue : Bool)
  /-- BADGER_FILL_DONE (R403): The badger finishes filling the shadow bank with a context. -/
  | eBadgerFillDone (ctx : Nat) (core : Nat) (ue : Bool)
  /-- BANK_CONTROL_WRITE (R308): The service writes a bank control entry; it is ignored with ERR or accepted and sets BUSY. -/
  | eBankControlWrite (core : Nat) (b : Nat) (value : Nat)
  /-- BANK_CHANGE_COMPLETE (R310): After the drain, a bank takes its new mode and owner, its write count advances and BUSY clears. -/
  | eBankChangeComplete (core : Nat) (b : Nat)
  /-- SHOOT_DOWN_COMPLETE (R388): A shoot-down completes once no unit holds the old translation and old accesses are performed or held. -/
  | eShootDownComplete (ctx : Nat)
  /-- SENT_UP_RECORD_SERVICE (R392): The service handles a sent-up or suspended record: maps a reserved page and resumes, or ends and forwards. -/
  | eSentUpRecordService (ctx : Nat) (resume : Nat)
  /-- ADD (R115): 64-bit wrapping add. -/
  | sAdd (d : BitVec 6) (a : BitVec 6) (b : BitVec 6)
  /-- ADD_32 (R115): 32-bit wrapping add, sign-extended. -/
  | sAdd32 (d : BitVec 6) (a : BitVec 6) (b : BitVec 6)
  /-- SUB (R115): 64-bit wrapping subtract. -/
  | sSub (d : BitVec 6) (a : BitVec 6) (b : BitVec 6)
  /-- SUB_32 (R115): 32-bit wrapping subtract. -/
  | sSub32 (d : BitVec 6) (a : BitVec 6) (b : BitVec 6)
  /-- AND (R115): 64-bit AND. -/
  | sAnd (d : BitVec 6) (a : BitVec 6) (b : BitVec 6)
  /-- AND_32 (R115): 32-bit AND. -/
  | sAnd32 (d : BitVec 6) (a : BitVec 6) (b : BitVec 6)
  /-- OR (R115): 64-bit OR. -/
  | sOr (d : BitVec 6) (a : BitVec 6) (b : BitVec 6)
  /-- OR_32 (R115): 32-bit OR. -/
  | sOr32 (d : BitVec 6) (a : BitVec 6) (b : BitVec 6)
  /-- XOR (R115): 64-bit XOR. -/
  | sXor (d : BitVec 6) (a : BitVec 6) (b : BitVec 6)
  /-- XOR_32 (R115): 32-bit XOR. -/
  | sXor32 (d : BitVec 6) (a : BitVec 6) (b : BitVec 6)
  /-- SHL (R115): 64-bit shift left by b[5:0]. -/
  | sShl (d : BitVec 6) (a : BitVec 6) (b : BitVec 6)
  /-- SHL_32 (R115): 32-bit shift left by b[4:0]. -/
  | sShl32 (d : BitVec 6) (a : BitVec 6) (b : BitVec 6)
  /-- SHR (R115): 64-bit logical shift right. -/
  | sShr (d : BitVec 6) (a : BitVec 6) (b : BitVec 6)
  /-- SHR_32 (R115): 32-bit logical shift right. -/
  | sShr32 (d : BitVec 6) (a : BitVec 6) (b : BitVec 6)
  /-- SRA (R115): 64-bit arithmetic shift right. -/
  | sSra (d : BitVec 6) (a : BitVec 6) (b : BitVec 6)
  /-- SRA_32 (R115): 32-bit arithmetic shift right. -/
  | sSra32 (d : BitVec 6) (a : BitVec 6) (b : BitVec 6)
  /-- MUL (R115): Low 64 bits of the product. -/
  | sMul (d : BitVec 6) (a : BitVec 6) (b : BitVec 6)
  /-- MUL_32 (R115): Low 32 bits of the product. -/
  | sMul32 (d : BitVec 6) (a : BitVec 6) (b : BitVec 6)
  /-- MULH (R115): High half of the signed product at 64 bits. -/
  | sMulh (d : BitVec 6) (a : BitVec 6) (b : BitVec 6)
  /-- MULH_32 (R115): High half of the signed product at 32 bits. -/
  | sMulh32 (d : BitVec 6) (a : BitVec 6) (b : BitVec 6)
  /-- MULHN (R115): High half of the unsigned product at 64 bits. -/
  | sMulhn (d : BitVec 6) (a : BitVec 6) (b : BitVec 6)
  /-- MULHN_32 (R115): High half of the unsigned product at 32 bits. -/
  | sMulhn32 (d : BitVec 6) (a : BitVec 6) (b : BitVec 6)
  /-- DIV (R115): Signed 64-bit division truncated toward zero. -/
  | sDiv (d : BitVec 6) (a : BitVec 6) (b : BitVec 6)
  /-- DIV_32 (R115): Signed 32-bit division. -/
  | sDiv32 (d : BitVec 6) (a : BitVec 6) (b : BitVec 6)
  /-- DIVN (R115): Unsigned 64-bit division. -/
  | sDivn (d : BitVec 6) (a : BitVec 6) (b : BitVec 6)
  /-- DIVN_32 (R115): Unsigned 32-bit division. -/
  | sDivn32 (d : BitVec 6) (a : BitVec 6) (b : BitVec 6)
  /-- REM (R115): Signed 64-bit remainder. -/
  | sRem (d : BitVec 6) (a : BitVec 6) (b : BitVec 6)
  /-- REM_32 (R115): Signed 32-bit remainder. -/
  | sRem32 (d : BitVec 6) (a : BitVec 6) (b : BitVec 6)
  /-- REMN (R115): Unsigned 64-bit remainder. -/
  | sRemn (d : BitVec 6) (a : BitVec 6) (b : BitVec 6)
  /-- REMN_32 (R115): Unsigned 32-bit remainder. -/
  | sRemn32 (d : BitVec 6) (a : BitVec 6) (b : BitVec 6)
  /-- MIN (R115): Signed 64-bit minimum. -/
  | sMin (d : BitVec 6) (a : BitVec 6) (b : BitVec 6)
  /-- MIN_32 (R115): Signed 32-bit minimum. -/
  | sMin32 (d : BitVec 6) (a : BitVec 6) (b : BitVec 6)
  /-- MAX (R115): Signed 64-bit maximum. -/
  | sMax (d : BitVec 6) (a : BitVec 6) (b : BitVec 6)
  /-- MAX_32 (R115): Signed 32-bit maximum. -/
  | sMax32 (d : BitVec 6) (a : BitVec 6) (b : BitVec 6)
  /-- MINN (R115): Unsigned 64-bit minimum. -/
  | sMinn (d : BitVec 6) (a : BitVec 6) (b : BitVec 6)
  /-- MINN_32 (R115): Unsigned 32-bit minimum. -/
  | sMinn32 (d : BitVec 6) (a : BitVec 6) (b : BitVec 6)
  /-- MAXN (R115): Unsigned 64-bit maximum. -/
  | sMaxn (d : BitVec 6) (a : BitVec 6) (b : BitVec 6)
  /-- MAXN_32 (R115): Unsigned 32-bit maximum. -/
  | sMaxn32 (d : BitVec 6) (a : BitVec 6) (b : BitVec 6)
  /-- ADDI (R116): Add a sign-extended 14-bit immediate. -/
  | sAddi (d : BitVec 6) (a : BitVec 6) (i : BitVec 14)
  /-- ANDI (R116): AND with a sign-extended immediate. -/
  | sAndi (d : BitVec 6) (a : BitVec 6) (i : BitVec 14)
  /-- ORI (R116): OR with a sign-extended immediate. -/
  | sOri (d : BitVec 6) (a : BitVec 6) (i : BitVec 14)
  /-- XORI (R116): XOR with a sign-extended immediate. -/
  | sXori (d : BitVec 6) (a : BitVec 6) (i : BitVec 14)
  /-- SHLI (R117): Shift left by an immediate count. -/
  | sShli (d : BitVec 6) (a : BitVec 6) (n : BitVec 6)
  /-- SHRI (R117): Logical shift right by an immediate count. -/
  | sShri (d : BitVec 6) (a : BitVec 6) (n : BitVec 6)
  /-- SRAI (R117): Arithmetic shift right by an immediate count. -/
  | sSrai (d : BitVec 6) (a : BitVec 6) (n : BitVec 6)
  /-- LUI (R118): Load sext(imm20) × 2^14. -/
  | sLui (d : BitVec 6) (i : BitVec 20)
  /-- PCREL (R119): Form a scalar code offset relative to the instruction. -/
  | sPcrel (d : BitVec 6) (i : BitVec 20)
  /-- CMP (R120): Compare two registers and write a condition. -/
  | sCmp (d : BitVec 3) (c : BitVec 3) (a : BitVec 6) (b : BitVec 6)
  /-- CMPI (R120): Compare a register with an immediate and write a condition. -/
  | sCmpi (d : BitVec 3) (c : BitVec 3) (a : BitVec 6) (i : BitVec 14)
  /-- BC (R121): Conditional PC-relative branch. -/
  | sBc (c : BitVec 3) (n : BitVec 1) (o : BitVec 22)
  /-- JMP (R121): PC-relative jump. -/
  | sJmp (o : BitVec 26)
  /-- CALL (R121): PC-relative call, return offset to s63. -/
  | sCall (o : BitVec 26)
  /-- JMPR (R122): Jump to a register target. -/
  | sJmpr (a : BitVec 6)
  /-- CALLR (R122): Call a register target. -/
  | sCallr (a : BitVec 6)
  /-- RET (R122): Return to s63. -/
  | sRet
  /-- SLD_I8 (R124): Scalar load of a sign-extended byte. -/
  | sSldI8 (d : BitVec 6) (a : BitVec 6) (i : BitVec 14)
  /-- SLD_N8 (R124): Scalar load of a zero-extended byte. -/
  | sSldN8 (d : BitVec 6) (a : BitVec 6) (i : BitVec 14)
  /-- SLD_I16 (R124): Scalar load of a sign-extended halfword. -/
  | sSldI16 (d : BitVec 6) (a : BitVec 6) (i : BitVec 14)
  /-- SLD_N16 (R124): Scalar load of a zero-extended halfword. -/
  | sSldN16 (d : BitVec 6) (a : BitVec 6) (i : BitVec 14)
  /-- SLD_I32 (R124): Scalar load of a sign-extended word. -/
  | sSldI32 (d : BitVec 6) (a : BitVec 6) (i : BitVec 14)
  /-- SLD_N32 (R124): Scalar load of a zero-extended word. -/
  | sSldN32 (d : BitVec 6) (a : BitVec 6) (i : BitVec 14)
  /-- SLD_I64 (R124): Scalar load of 64 bits. -/
  | sSldI64 (d : BitVec 6) (a : BitVec 6) (i : BitVec 14)
  /-- SST_N8 (R124): Scalar store of a byte. -/
  | sSstN8 (v : BitVec 6) (a : BitVec 6) (i : BitVec 14)
  /-- SST_N16 (R124): Scalar store of a halfword. -/
  | sSstN16 (v : BitVec 6) (a : BitVec 6) (i : BitVec 14)
  /-- SST_N32 (R124): Scalar store of a word. -/
  | sSstN32 (v : BitVec 6) (a : BitVec 6) (i : BitVec 14)
  /-- SST_N64 (R124): Scalar store of 64 bits. -/
  | sSstN64 (v : BitVec 6) (a : BitVec 6) (i : BitVec 14)
  /-- LRUN (R127): Queue a lane block with the current activity mask and block constants. -/
  | sLrun (k : BitVec 3) (b : BitVec 12)
  /-- LSYNC (R129): Wait until earlier blocks finish and their accesses are performed. -/
  | sLsync
  /-- SYSRD (R227): Read a system register. -/
  | sSysrd (d : BitVec 6) (r : BitVec 12)
  /-- SYSWR (R227): Write a system register field by field. -/
  | sSyswr (a : BitVec 6) (r : BitVec 12)
  /-- EVARM (R217): Bind and arm an event slot. -/
  | sEvarm (j : BitVec 6) (a : BitVec 6)
  /-- EVDISARM (R218): Disarm and clear an event slot. -/
  | sEvdisarm (j : BitVec 6)
  /-- WAITANY (R220): Take the lowest eligible pending event slot, or park until one is. -/
  | sWaitany (d : BitVec 6)
  /-- JOIN (R214): Join a drey, creating it if needed, and take a rank. -/
  | sJoin (d : BitVec 6) (a : BitVec 6)
  /-- LEAVE (R215): Leave a drey, withdrawing arrivals and dissolving it if last. -/
  | sLeave (a : BitVec 6)
  /-- BAR_ARRIVE (R216): Arrive n times on a barrier, or read the phase with n = 0. -/
  | sBarArrive (d : BitVec 6) (a : BitVec 6) (b : BitVec 6)
  /-- BAR_WAIT (R216): Wait until the barrier's phase passes a token. -/
  | sBarWait (d : BitVec 6) (a : BitVec 6) (b : BitVec 6)
  /-- BAR_SYNC (R216): Arrive once and wait on the returned token. -/
  | sBarSync (d : BitVec 6) (a : BitVec 6)
  /-- MBPOST (R223): Post a buffer in a mailbox slot. -/
  | sMbpost (a : BitVec 6) (b : BitVec 6)
  /-- MBSEND (R225): Release and send a mailbox message. -/
  | sMbsend (d : BitVec 6) (a : BitVec 6) (b : BitVec 6)
  /-- MBRECV (R226): Receive an arrived message's record and close the slot. -/
  | sMbrecv (d : BitVec 6) (a : BitVec 6)
  /-- SFENCE_LOCAL (R130): Order the scalar stream before later lane blocks. -/
  | sSfenceLocal
  /-- SFENCE_CORE (R131): Wait until earlier accesses are performed for the core. -/
  | sSfenceCore
  /-- SFENCE_PKG (R131): Wait until earlier accesses are performed for the package. -/
  | sSfencePkg
  /-- SFENCE_SYS (R131): System-scope release and acquire, waiting for posted fabric writes. -/
  | sSfenceSys
  /-- SVC (R237): Raise the service-call trap. -/
  | sSvc (a : BitVec 6)
  /-- SNDEND (R238): End the sounder after lsync and log release. -/
  | sSndend
  /-- TRET (R236): Leave handler mode acting on RESUME. -/
  | sTret
  /-- OPLRD (R239): Read a word of an operand-log entry. -/
  | sOplrd (d : BitVec 6) (a : BitVec 6) (b : BitVec 6)
  /-- OPLREP (R239): Replay or discard an entry's held lanes. -/
  | sOplrep (d : BitVec 6) (a : BitVec 6)
  /-- RDTIME (R229): Read the package cycle counter. -/
  | sRdtime (d : BitVec 6)
  /-- IADD (R137): Lane wrapping add. -/
  | vIadd (f : LaneR)
  /-- ISUB (R137): Lane wrapping subtract. -/
  | vIsub (f : LaneR)
  /-- IADDSAT (R137): Lane saturating add. -/
  | vIaddsat (f : LaneR)
  /-- ISUBSAT (R137): Lane saturating subtract. -/
  | vIsubsat (f : LaneR)
  /-- IMUL (R137): Lane low product. -/
  | vImul (f : LaneR)
  /-- IMULHI (R137): Lane high product. -/
  | vImulhi (f : LaneR)
  /-- IMAD (R137): Lane multiply-add, one wrap. -/
  | vImad (f : LaneR)
  /-- IMIN (R137): Lane integer minimum. -/
  | vImin (f : LaneR)
  /-- IMAX (R137): Lane integer maximum. -/
  | vImax (f : LaneR)
  /-- IABS (R137): Lane absolute value. -/
  | vIabs (f : LaneR)
  /-- INEG (R137): Lane negation. -/
  | vIneg (f : LaneR)
  /-- IDIV (R137): Lane integer division. -/
  | vIdiv (f : LaneR)
  /-- IREM (R137): Lane integer remainder. -/
  | vIrem (f : LaneR)
  /-- IAVG (R137): Lane rounded-up average. -/
  | vIavg (f : LaneR)
  /-- ISAD (R137): Lane absolute difference plus c. -/
  | vIsad (f : LaneR)
  /-- AND_V (R138): Lane bitwise AND. -/
  | vAnd (f : LaneR)
  /-- OR_V (R138): Lane bitwise OR. -/
  | vOr (f : LaneR)
  /-- XOR_V (R138): Lane bitwise XOR. -/
  | vXor (f : LaneR)
  /-- NOT_V (R138): Lane bitwise NOT. -/
  | vNot (f : LaneR)
  /-- ANDN (R138): Lane a AND NOT b. -/
  | vAndn (f : LaneR)
  /-- SHL_V (R138): Lane shift left. -/
  | vShl (f : LaneR)
  /-- SHR_V (R138): Lane logical shift right. -/
  | vShr (f : LaneR)
  /-- SRA_V (R138): Lane arithmetic shift right. -/
  | vSra (f : LaneR)
  /-- ROTL (R138): Lane rotate left. -/
  | vRotl (f : LaneR)
  /-- POPC (R138): Lane population count. -/
  | vPopc (f : LaneR)
  /-- CLZ (R138): Lane count leading zeros. -/
  | vClz (f : LaneR)
  /-- CTZ (R138): Lane count trailing zeros. -/
  | vCtz (f : LaneR)
  /-- BREV (R138): Lane bit reverse. -/
  | vBrev (f : LaneR)
  /-- BFEXT (R138): Lane bit-field extract. -/
  | vBfext (f : LaneR)
  /-- BFINS (R138): Lane bit-field insert. -/
  | vBfins (f : LaneR)
  /-- TLUT (R138): Lane three-input table lookup. -/
  | vTlut (f : LaneR)
  /-- ICMP_EQ (R139): Lane integer equal, writing a predicate. -/
  | vIcmpEq (f : LaneR)
  /-- ICMP_NE (R139): Lane integer not equal. -/
  | vIcmpNe (f : LaneR)
  /-- ICMP_LT (R139): Lane integer less than. -/
  | vIcmpLt (f : LaneR)
  /-- ICMP_LE (R139): Lane integer less or equal. -/
  | vIcmpLe (f : LaneR)
  /-- ICMP_GT (R139): Lane integer greater than. -/
  | vIcmpGt (f : LaneR)
  /-- ICMP_GE (R139): Lane integer greater or equal. -/
  | vIcmpGe (f : LaneR)
  /-- FADD (R140): Lane float add. -/
  | vFadd (f : LaneR)
  /-- FSUB (R140): Lane float subtract. -/
  | vFsub (f : LaneR)
  /-- FMUL (R140): Lane float multiply. -/
  | vFmul (f : LaneR)
  /-- FFMA (R140): Lane fused multiply-add. -/
  | vFfma (f : LaneR)
  /-- FMIN (R140): Lane IEEE minimum. -/
  | vFmin (f : LaneR)
  /-- FMAX (R140): Lane IEEE maximum. -/
  | vFmax (f : LaneR)
  /-- FMINNUM (R140): Lane minimumNumber. -/
  | vFminnum (f : LaneR)
  /-- FMAXNUM (R140): Lane maximumNumber. -/
  | vFmaxnum (f : LaneR)
  /-- FABS (R140): Lane clear sign. -/
  | vFabs (f : LaneR)
  /-- FNEG (R140): Lane invert sign. -/
  | vFneg (f : LaneR)
  /-- FCOPYSIGN (R140): Lane copy sign. -/
  | vFcopysign (f : LaneR)
  /-- FCLASS (R141): Lane class mask. -/
  | vFclass (f : LaneR)
  /-- FCMP_EQ (R142): Lane float equal. -/
  | vFcmpEq (f : LaneR)
  /-- FCMP_NE (R142): Lane float not equal or unordered. -/
  | vFcmpNe (f : LaneR)
  /-- FCMP_LT (R142): Lane float less than. -/
  | vFcmpLt (f : LaneR)
  /-- FCMP_LE (R142): Lane float less or equal. -/
  | vFcmpLe (f : LaneR)
  /-- FCMP_GT (R142): Lane float greater than. -/
  | vFcmpGt (f : LaneR)
  /-- FCMP_GE (R142): Lane float greater or equal. -/
  | vFcmpGe (f : LaneR)
  /-- FCMP_UN (R142): Lane float unordered. -/
  | vFcmpUn (f : LaneR)
  /-- FCMP_ORD (R142): Lane float ordered. -/
  | vFcmpOrd (f : LaneR)
  /-- RCP (R143): Lane correctly rounded reciprocal. -/
  | vRcp (f : LaneR)
  /-- RSQ (R143): Lane correctly rounded reciprocal square root. -/
  | vRsq (f : LaneR)
  /-- SQRT (R143): Lane square root. -/
  | vSqrt (f : LaneR)
  /-- DIV_V (R143): Lane float division. -/
  | vDiv (f : LaneR)
  /-- EXP2 (R143): Lane 2^a. -/
  | vExp2 (f : LaneR)
  /-- LOG2 (R143): Lane log2 a. -/
  | vLog2 (f : LaneR)
  /-- CVT (R144): Lane conversion between type codes. -/
  | vCvt (src : BitVec 8) (f : LaneR)
  /-- FRINT (R145): Lane round to integral float. -/
  | vFrint (f : LaneR)
  /-- QNT (R147): Quantise 192 f32 elements into narrow codes with block scales. -/
  | vQnt (f : LaneR)
  /-- DQNT (R147): Decode narrow codes with scales to f32. -/
  | vDqnt (f : LaneR)
  /-- QSCALE (R147): Choose block scales of 192 f32 elements. -/
  | vQscale (f : LaneR)
  /-- PAND (R148): Predicate AND. -/
  | vPand (f : LaneR)
  /-- POR (R148): Predicate OR. -/
  | vPor (f : LaneR)
  /-- PXOR (R148): Predicate XOR. -/
  | vPxor (f : LaneR)
  /-- PANDN (R148): Predicate AND NOT. -/
  | vPandn (f : LaneR)
  /-- PNOT (R148): Predicate NOT. -/
  | vPnot (f : LaneR)
  /-- PMOV (R148): Predicate move. -/
  | vPmov (f : LaneR)
  /-- PFROMV (R148): Predicate from non-zero lanes. -/
  | vPfromv (f : LaneR)
  /-- PVEC (R148): Vector of all-ones or zero from a predicate. -/
  | vPvec (f : LaneR)
  /-- PFIRST (R148): Predicate of the lowest set lane in the mask. -/
  | vPfirst (f : LaneR)
  /-- MOV_V (R149): Lane move. -/
  | vMov (f : LaneR)
  /-- SEL (R149): Lane select by predicate. -/
  | vSel (f : LaneR)
  /-- LIDX (R150): Cross-lane read by index. -/
  | vLidx (f : LaneR)
  /-- LXOR (R150): Cross-lane read by XOR distance. -/
  | vLxor (f : LaneR)
  /-- LROT (R150): Cross-lane rotate. -/
  | vLrot (f : LaneR)
  /-- BCAST (R150): Broadcast one lane. -/
  | vBcast (f : LaneR)
  /-- RADD (R152): Tree sum reduction. -/
  | vRadd (f : LaneR)
  /-- RMIN (R152): Tree minimum reduction. -/
  | vRmin (f : LaneR)
  /-- RMAX (R152): Tree maximum reduction. -/
  | vRmax (f : LaneR)
  /-- RAND (R152): Tree AND reduction. -/
  | vRand (f : LaneR)
  /-- ROR (R152): Tree OR reduction. -/
  | vRor (f : LaneR)
  /-- RXOR (R152): Tree XOR reduction. -/
  | vRxor (f : LaneR)
  /-- DP4 (R153): Four-element integer dot product plus c. -/
  | vDp4 (f : LaneR)
  /-- DP2 (R153): Two-element half-precision dot product plus c, one rounding. -/
  | vDp2 (f : LaneR)
  /-- IADD_I (R137): Lane add immediate. -/
  | vIaddI (f : LaneI)
  /-- ISUB_I (R137): Lane subtract immediate. -/
  | vIsubI (f : LaneI)
  /-- IADDSAT_I (R137): Lane saturating add immediate. -/
  | vIaddsatI (f : LaneI)
  /-- ISUBSAT_I (R137): Lane saturating subtract immediate. -/
  | vIsubsatI (f : LaneI)
  /-- IMUL_I (R137): Lane multiply immediate. -/
  | vImulI (f : LaneI)
  /-- IMIN_I (R137): Lane minimum with immediate. -/
  | vIminI (f : LaneI)
  /-- IMAX_I (R137): Lane maximum with immediate. -/
  | vImaxI (f : LaneI)
  /-- AND_I (R138): Lane AND immediate. -/
  | vAndI (f : LaneI)
  /-- OR_I (R138): Lane OR immediate. -/
  | vOrI (f : LaneI)
  /-- XOR_I (R138): Lane XOR immediate. -/
  | vXorI (f : LaneI)
  /-- SHL_I (R138): Lane shift left by immediate. -/
  | vShlI (f : LaneI)
  /-- SHR_I (R138): Lane logical shift right by immediate. -/
  | vShrI (f : LaneI)
  /-- SRA_I (R138): Lane arithmetic shift right by immediate. -/
  | vSraI (f : LaneI)
  /-- ROTL_I (R138): Lane rotate left by immediate. -/
  | vRotlI (f : LaneI)
  /-- BFEXT_I (R138): Lane bit-field extract with immediate field. -/
  | vBfextI (f : LaneI)
  /-- ICMP_EQ_I (R139): Lane integer equal with immediate. -/
  | vIcmpEqI (f : LaneI)
  /-- ICMP_NE_I (R139): Lane integer not equal with immediate. -/
  | vIcmpNeI (f : LaneI)
  /-- ICMP_LT_I (R139): Lane integer less than immediate. -/
  | vIcmpLtI (f : LaneI)
  /-- ICMP_LE_I (R139): Lane integer less or equal immediate. -/
  | vIcmpLeI (f : LaneI)
  /-- ICMP_GT_I (R139): Lane integer greater than immediate. -/
  | vIcmpGtI (f : LaneI)
  /-- ICMP_GE_I (R139): Lane integer greater or equal immediate. -/
  | vIcmpGeI (f : LaneI)
  /-- FADD_I (R140): Lane float add immediate. -/
  | vFaddI (f : LaneI)
  /-- FMUL_I (R140): Lane float multiply immediate. -/
  | vFmulI (f : LaneI)
  /-- FFMA_I (R140): Lane fused multiply-add with immediate addend. -/
  | vFfmaI (f : LaneI)
  /-- FMIN_I (R140): Lane IEEE minimum with immediate. -/
  | vFminI (f : LaneI)
  /-- FMAX_I (R140): Lane IEEE maximum with immediate. -/
  | vFmaxI (f : LaneI)
  /-- FCMP_EQ_I (R142): Lane float equal with immediate. -/
  | vFcmpEqI (f : LaneI)
  /-- FCMP_NE_I (R142): Lane float not equal with immediate. -/
  | vFcmpNeI (f : LaneI)
  /-- FCMP_LT_I (R142): Lane float less than immediate. -/
  | vFcmpLtI (f : LaneI)
  /-- FCMP_LE_I (R142): Lane float less or equal immediate. -/
  | vFcmpLeI (f : LaneI)
  /-- FCMP_GT_I (R142): Lane float greater than immediate. -/
  | vFcmpGtI (f : LaneI)
  /-- FCMP_GE_I (R142): Lane float greater or equal immediate. -/
  | vFcmpGeI (f : LaneI)
  /-- FCMP_UN_I (R142): Lane float unordered with immediate. -/
  | vFcmpUnI (f : LaneI)
  /-- FCMP_ORD_I (R142): Lane float ordered with immediate. -/
  | vFcmpOrdI (f : LaneI)
  /-- MOV_I (R149): Lane move immediate. -/
  | vMovI (f : LaneI)
  /-- SEL_I (R149): Lane select between a register and an immediate. -/
  | vSelI (f : LaneI)
  /-- LIDX_I (R150): Cross-lane group read with immediate group and lane. -/
  | vLidxI (f : LaneI)
  /-- LXOR_I (R150): Cross-lane read by immediate XOR distance. -/
  | vLxorI (f : LaneI)
  /-- LROT_I (R150): Cross-lane rotate by immediate. -/
  | vLrotI (f : LaneI)
  /-- BCAST_I (R150): Broadcast an immediate lane. -/
  | vBcastI (f : LaneI)
  /-- SPLD (R164): Scratchpad load. -/
  | vSpld (f : LaneI)
  /-- SPST (R164): Scratchpad store. -/
  | vSpst (f : LaneI)
  /-- GLD (R165): Global load through a record or flat address. -/
  | vGld (f : LaneI)
  /-- GST (R165): Global store through a record or flat address. -/
  | vGst (f : LaneI)
  /-- GPREFETCH (R166): Prefetch lines toward the core. -/
  | vGprefetch (f : LaneI)
  /-- AADD (R172): Atomic add returning old values. -/
  | vAadd (scope : BitVec 2) (f : LaneI)
  /-- AMIN (R172): Atomic minimum. -/
  | vAmin (scope : BitVec 2) (f : LaneI)
  /-- AMAX (R172): Atomic maximum. -/
  | vAmax (scope : BitVec 2) (f : LaneI)
  /-- AAND (R172): Atomic AND. -/
  | vAand (scope : BitVec 2) (f : LaneI)
  /-- AOR (R172): Atomic OR. -/
  | vAor (scope : BitVec 2) (f : LaneI)
  /-- AXOR (R172): Atomic XOR. -/
  | vAxor (scope : BitVec 2) (f : LaneI)
  /-- AXCHG (R172): Atomic exchange. -/
  | vAxchg (scope : BitVec 2) (f : LaneI)
  /-- ACAS (R172): Atomic compare and swap. -/
  | vAcas (scope : BitVec 2) (f : LaneI)
  /-- AFADD (R172): Atomic float add. -/
  | vAfadd (scope : BitVec 2) (f : LaneI)
  /-- APPEND (R176): Append one row to a queue, bumping its tail at its home. -/
  | vAppend (f : LaneI)
  /-- FENCE_CORE (R177): Lane fence at core scope. -/
  | vFenceCore (f : LaneR)
  /-- FENCE_PKG (R177): Lane fence at package scope. -/
  | vFencePkg (f : LaneR)
  /-- FENCE_SYS (R177): Lane fence at system scope. -/
  | vFenceSys (f : LaneR)
  /-- FENCE_ENG (R177): Lane fence with the engines. -/
  | vFenceEng (f : LaneR)
  /-- COPY (R192): Issue a copy described by a layout record under a handle. -/
  | vCopy (f : LaneR)
  /-- COPY_FO (R193): Issue a copy with a matrix follow-on handed to the array at full. -/
  | vCopyFo (f : LaneR)
  /-- CBSET (R197): Configure or clear a circular buffer. -/
  | vCbset (f : LaneR)
  /-- CBPUSH (R199): Append one row from lanes to a circular buffer. -/
  | vCbpush (f : LaneR)
  /-- CBPOP (R199): Claim one row of a circular buffer into lanes. -/
  | vCbpop (f : LaneR)
  /-- CBSTAT (R199): Read a circular buffer's status. -/
  | vCbstat (f : LaneR)
  /-- MLDW (R204): Load 64 weight columns and scales into the shadow plane. -/
  | vMldw (f : LaneR)
  /-- MSWAP (R204): Exchange active and shadow planes. -/
  | vMswap (f : LaneR)
  /-- MSTREAM (R205): Stream activation rows through the active plane into a tile. -/
  | vMstream (f : LaneR)
  /-- MDRAIN (R206): Convert tile rows and append them to an output buffer. -/
  | vMdrain (f : LaneR)
  /-- MCLEAR (R204): Clear a tile's VALID and DIRTY. -/
  | vMclear (f : LaneR)
  /-- MPERM (R204): Load the channel permutation table. -/
  | vMperm (f : LaneR)
  /-- ROUTE (R208): Issue a top-k routing command. -/
  | vRoute (f : LaneR)
  /-- CSTART (R209): Start this member's part of the next collective instance. -/
  | vCstart (f : LaneR)
  /-- HWAIT (R196): Wait until a handle is in a set of states. -/
  | vHwait (f : LaneR)
  /-- HREL (R196): Release a handle to draining or free. -/
  | vHrel (f : LaneR)
  /-- HSTAT (R196): Read a handle's status word. -/
  | vHstat (f : LaneR)
  /-- LEND (R80): Finish the issuing slices for the block. -/
  | vLend (f : LaneI)
  /-- LNOP (R81): Lane no-operation, optionally yielding. -/
  | vLnop (f : LaneI)
  /-- LBR_ANY (R231): Lane branch of each slice with some lane set. -/
  | vLbrAny (f : LaneI)
  /-- LBR_ALL (R231): Lane branch of each slice with every lane set. -/
  | vLbrAll (f : LaneI)
  /-- LJMP (R231): Lane jump of slices with active lanes. -/
  | vLjmp (f : LaneI)
  /-- REGANG (R232): Wait to rejoin diverged slices. -/
  | vRegang (f : LaneI)
  /-- LTRAP (R231): Raise the lane trap with a code. -/
  | vLtrap (f : LaneI)
  /-- MCF_LI (R247): MCF load immediate. -/
  | mLi (d : BitVec 4) (imm : BitVec 32)
  /-- MCF_ADDI (R247): MCF add immediate. -/
  | mAddi (d : BitVec 4) (a : BitVec 4) (imm : BitVec 32)
  /-- MCF_ADD (R247): MCF register add. -/
  | mAdd (d : BitVec 4) (a : BitVec 4) (b : BitVec 4)
  /-- MCF_SUB (R247): MCF register subtract. -/
  | mSub (d : BitVec 4) (a : BitVec 4) (b : BitVec 4)
  /-- MCF_AND (R247): MCF register AND. -/
  | mAnd (d : BitVec 4) (a : BitVec 4) (b : BitVec 4)
  /-- MCF_OR (R247): MCF register OR. -/
  | mOr (d : BitVec 4) (a : BitVec 4) (b : BitVec 4)
  /-- MCF_XOR (R247): MCF register XOR. -/
  | mXor (d : BitVec 4) (a : BitVec 4) (b : BitVec 4)
  /-- MCF_SHL (R247): MCF shift left. -/
  | mShl (d : BitVec 4) (a : BitVec 4) (b : BitVec 4)
  /-- MCF_SHR (R247): MCF shift right. -/
  | mShr (d : BitVec 4) (a : BitVec 4) (b : BitVec 4)
  /-- MCF_MINN (R247): MCF unsigned minimum. -/
  | mMinn (d : BitVec 4) (a : BitVec 4) (b : BitVec 4)
  /-- B_AL (R248): MCF unconditional branch. -/
  | mBAl (off : BitVec 32)
  /-- B_EQ (R248): MCF branch if equal. -/
  | mBEq (a : BitVec 4) (b : BitVec 4) (off : BitVec 32)
  /-- B_NE (R248): MCF branch if not equal. -/
  | mBNe (a : BitVec 4) (b : BitVec 4) (off : BitVec 32)
  /-- B_LTN (R248): MCF branch if unsigned less. -/
  | mBLtn (a : BitVec 4) (b : BitVec 4) (off : BitVec 32)
  /-- B_GEN (R248): MCF branch if unsigned greater or equal. -/
  | mBGen (a : BitVec 4) (b : BitVec 4) (off : BitVec 32)
  /-- B_LT (R248): MCF branch if signed less. -/
  | mBLt (a : BitVec 4) (b : BitVec 4) (off : BitVec 32)
  /-- B_GE (R248): MCF branch if signed greater or equal. -/
  | mBGe (a : BitVec 4) (b : BitVec 4) (off : BitVec 32)
  /-- MATCH (R249): Take the oldest queued packet of accepted kinds, or wait with a timeout. -/
  | mMatch (d : BitVec 4) (pk : BitVec 2) (kinds : BitVec 5) (tmo : BitVec 32)
  /-- RDH (R250): Read a packet header field. -/
  | mRdh (d : BitVec 4) (pk : BitVec 2) (f : BitVec 3)
  /-- RDM (R250): Read a field of a member. -/
  | mRdm (d : BitVec 4) (a : BitVec 4) (f : BitVec 3)
  /-- MARK (R250): Set the member bit of the packet's chunk and mark the packet FRESH if new. -/
  | mMark (d : BitVec 4) (pk : BitVec 2)
  /-- HOLD (R250): Place a FRESH contribution in the chunk's hold area. -/
  | mHold (pk : BitVec 2)
  /-- DROP (R250): Acknowledge and discard a packet. -/
  | mDrop (pk : BitVec 2)
  /-- STREAM (R252): Read a local member's source chunk into the hold area. -/
  | mStream (a : BitVec 4) (b : BitVec 4)
  /-- FOLD_SUM (R253): Fold held contributions by sum in ascending member order. -/
  | mFoldSum (d : BitVec 4) (b : BitVec 4)
  /-- FOLD_MIN (R253): Fold held contributions by minimum. -/
  | mFoldMin (d : BitVec 4) (b : BitVec 4)
  /-- FOLD_MAX (R253): Fold held contributions by maximum. -/
  | mFoldMax (d : BitVec 4) (b : BitVec 4)
  /-- FOLD_Q (R253): Read a chunk's NEXT. -/
  | mFoldQ (d : BitVec 4) (b : BitVec 4)
  /-- COMB_SUM (R254): Combine a packet with a local operand by sum in flight. -/
  | mCombSum (pk : BitVec 2) (b : BitVec 4) (lo : BitVec 1)
  /-- COMB_MIN (R254): Combine a packet with a local operand by minimum. -/
  | mCombMin (pk : BitVec 2) (b : BitVec 4) (lo : BitVec 1)
  /-- COMB_MAX (R254): Combine a packet with a local operand by maximum. -/
  | mCombMax (pk : BitVec 2) (b : BitVec 4) (lo : BitVec 1)
  /-- FWD (R255): Send a packet's payload to hops. -/
  | mFwd (pk : BitVec 2) (k : BitVec 3) (a : BitVec 4) (c : BitVec 4)
  /-- FWD_ACC (R255): Send a chunk's accumulator to hops. -/
  | mFwdAcc (b : BitVec 4) (k : BitVec 3) (a : BitVec 4) (c : BitVec 4)
  /-- DLV (R255): Write a chunk's accumulator to a member's destination. -/
  | mDlv (a : BitVec 4) (b : BitVec 4)
  /-- DLV_PK (R255): Write a packet's payload to a member's destination. -/
  | mDlvPk (a : BitVec 4) (pk : BitVec 2)
  /-- DLV_G (R255): Write a packet's payload to a member's gather position. -/
  | mDlvG (a : BitVec 4) (pk : BitVec 2)
  /-- TKREQ (R255): Send a takeover request to a member's buddy. -/
  | mTkreq (a : BitVec 4) (b : BitVec 4)
  /-- ARRIVE (R256): Make a local member's completion arrival on its barrier. -/
  | mArrive (a : BitVec 4) (status : BitVec 8)
  /-- MCF_END (R247): End the instance and start the next. -/
  | mEnd
  /-- CORE_POWER_GATE (R290): A core whose resident contexts all have every sounder waiting in waitany, bar.wait or mbrecv is power-gated with its banks kept. -/
  | eCorePowerGate (core : Nat)
  /-- LINK_UP (R378): A port's link finishes training and its UP bit becomes 1, so traffic to packages in the route mask may use it again. -/
  | eLinkUp (port : Nat)
  /-- PACKAGE_DECLARED_FAILED (R333): The service declares a peer package failed and sets ABSENT for its members on every switch die of their collectives. -/
  | ePackageDeclaredFailed (m : AbsentMsg)
  /-- HBM_CHANNEL_OR_DIMM_FAILURE (R422): A whole HBM channel or DIMM fails, its frames are retired, its lines read as poisoned and DEGRADED is set. -/
  | eHbmChannelOrDimmFailure (pool : Nat) (base : Nat) (size : Nat)
  /-- SPARE_LANE_SWITCH_DONE (R422): After about 50 µs for a memory channel or 20 µs for a port, the move to the spare lane completes and waiting or NACKed accesses proceed. -/
  | eSpareLaneSwitchDone (isPort : Bool) (n : Nat)
  deriving DecidableEq, Repr

end Sys2Proof
end

