-- ==== Sys2Proof/Decode.lean ====
section
/-! DEFINITION. Decoding and encoding: the scalar word (R53 to R57, R73), the lane word (R58 to R68, R74) and the MCF
word (R245, R246), with every cause of the illegal-instruction trap that a word carries (Table 9 of 02, R69) and every
refusal cause of an MCF word (Table 14 of 19). The encoders stand after the decoders they undo. -/

namespace Sys2Proof

/-- What a decoder answers: an instruction, or the lowest cause for which the word is none (Table 9 of 02 for scalar
and lane words, Table 14 of 19 for MCF words). -/
inductive Decoded where
  | ok (i : Instr)
  | illegal (cause : Nat)
  deriving DecidableEq, Repr

/-- The stream an instruction belongs to. -/
def Instr.stream : Instr → Stream
  | .ePackageReset => .event
  | .eLossOfPower _ => .event
  | .eBringUpStepDone _ => .event
  | .eRecoveryImageTransfer _ => .event
  | .eFirmwareStaging _ => .event
  | .eSecurityVersionAdvance => .event
  | .eDebugTokenUnlock _ _ => .event
  | .eSetPcap _ => .event
  | .eTelemetryRead _ => .event
  | .eMctpControl _ _ => .event
  | .ePowerWindowExpiry _ => .event
  | .eThermalGating _ => .event
  | .eThermalTrip _ => .event
  | .eGetVersion _ => .event
  | .eGetCapabilities _ _ => .event
  | .eNegotiateAlgorithms _ _ => .event
  | .eGetDigests _ => .event
  | .eGetCertificate _ _ _ => .event
  | .eChallenge _ _ => .event
  | .eGetMeasurements _ _ _ => .event
  | .eKeyExchange _ _ _ _ => .event
  | .eFinish _ _ => .event
  | .eHeartbeat _ _ => .event
  | .eKeyUpdate _ _ => .event
  | .eEndSession _ _ => .event
  | .eKeyImport _ _ _ _ _ => .event
  | .eKeyExport _ _ _ => .event
  | .eRevoke _ _ _ => .event
  | .eContextReport _ _ _ => .event
  | .eLinkRekey _ _ => .event
  | .eControlSpaceWrite _ _ _ => .event
  | .eServiceRingDoorbell _ _ => .event
  | .eCreateContext _ _ _ _ _ _ => .event
  | .eResetContext _ _ _ => .event
  | .eDestroyContext _ _ _ => .event
  | .eLoadImage _ _ _ _ _ _ => .event
  | .eCreateOrChangeQueue _ _ _ _ _ => .event
  | .eSetSramBanksTilesBarriers _ _ _ _ _ _ => .event
  | .eMap _ _ => .event
  | .eUnmap _ _ => .event
  | .eProtect _ _ => .event
  | .eReserve _ _ => .event
  | .eUnreserve _ _ => .event
  | .eSetNotifierRing _ _ => .event
  | .eSetTrapHandler _ _ => .event
  | .eSizeTrapQueue _ _ => .event
  | .eSetPackageIdentifier _ _ _ => .event
  | .eConfigurePortOrRoute _ _ _ => .event
  | .eWriteAccessControlEntry _ _ _ _ => .event
  | .eLoadCollectiveEntry _ _ _ => .event
  | .eDestroyCollectiveEntry _ _ _ _ => .event
  | .eQuerySlot _ _ _ => .event
  | .eGenerateKey _ _ _ _ => .event
  | .eRevokeSlot _ _ _ => .event
  | .eReclaimSlot _ _ _ => .event
  | .eAttestationReport _ _ _ _ => .event
  | .eQueueDoorbell _ _ => .event
  | .ePacketIntake _ => .event
  | .eNodeDispatch _ => .event
  | .eSounderAdmission _ _ => .event
  | .eCoresidentAdmission _ => .event
  | .eLaunchCompletion _ => .event
  | .eRecordQueueFullTile _ => .event
  | .eFlushTimerExpiry _ => .event
  | .ePeerLaunchSend _ => .event
  | .ePermitRequest _ => .event
  | .ePermitRenewal _ => .event
  | .ePermitExpiry _ _ _ => .event
  | .ePeerLaunchArrival _ => .event
  | .eInboundWindowAccess _ => .event
  | .eWindowAckArrival _ _ => .event
  | .eRetransmissionTimeout _ => .event
  | .eDirectPlacementRetry _ => .event
  | .eLinkFailure _ => .event
  | .ePortLaneFailure _ => .event
  | .eMemoryLaneFailure _ => .event
  | .eCoreFailure _ _ _ => .event
  | .eCoreMigration _ _ _ => .event
  | .eCollectivePacketArrival _ => .event
  | .eTakeoverRequestArrival _ => .event
  | .eMatchTimeout _ _ _ => .event
  | .eAliasStoreAccept _ _ _ _ _ => .event
  | .eLaneBlockStart _ _ _ => .event
  | .eLaneLoadFill _ _ _ _ => .event
  | .eAccessPerformed _ _ _ _ _ _ => .event
  | .eDeferredFaultDelivery _ _ _ _ => .event
  | .eSounderPark _ _ _ => .event
  | .eSounderResume _ _ => .event
  | .eQuadrantArbitration _ _ _ => .event
  | .eDeterministicRelease _ _ _ => .event
  | .eEventTimerExpiry _ _ _ _ => .event
  | .eMailboxMessageArrival _ => .event
  | .eMailboxStatusReturn _ _ => .event
  | .eWaitanyWake _ _ _ => .event
  | .eBarrierWaitRelease _ _ _ => .event
  | .eHwaitReturn _ _ _ _ => .event
  | .eRegangJoin _ _ _ => .event
  | .eCopyLastByte _ _ _ _ => .event
  | .eEngineCommandFire _ _ _ => .event
  | .eArrayCommandComplete _ _ => .event
  | .eArrayTransientError _ _ => .event
  | .eRouteComplete _ _ => .event
  | .eEngineAccessFault _ _ _ _ _ => .event
  | .eSliceEnd _ => .event
  | .eSafePoint _ => .event
  | .eBadgerSaveDone _ _ => .event
  | .eBadgerFillDone _ _ _ => .event
  | .eBankControlWrite _ _ _ => .event
  | .eBankChangeComplete _ _ => .event
  | .eShootDownComplete _ => .event
  | .eSentUpRecordService _ _ => .event
  | .sAdd _ _ _ => .scalar
  | .sAdd32 _ _ _ => .scalar
  | .sSub _ _ _ => .scalar
  | .sSub32 _ _ _ => .scalar
  | .sAnd _ _ _ => .scalar
  | .sAnd32 _ _ _ => .scalar
  | .sOr _ _ _ => .scalar
  | .sOr32 _ _ _ => .scalar
  | .sXor _ _ _ => .scalar
  | .sXor32 _ _ _ => .scalar
  | .sShl _ _ _ => .scalar
  | .sShl32 _ _ _ => .scalar
  | .sShr _ _ _ => .scalar
  | .sShr32 _ _ _ => .scalar
  | .sSra _ _ _ => .scalar
  | .sSra32 _ _ _ => .scalar
  | .sMul _ _ _ => .scalar
  | .sMul32 _ _ _ => .scalar
  | .sMulh _ _ _ => .scalar
  | .sMulh32 _ _ _ => .scalar
  | .sMulhn _ _ _ => .scalar
  | .sMulhn32 _ _ _ => .scalar
  | .sDiv _ _ _ => .scalar
  | .sDiv32 _ _ _ => .scalar
  | .sDivn _ _ _ => .scalar
  | .sDivn32 _ _ _ => .scalar
  | .sRem _ _ _ => .scalar
  | .sRem32 _ _ _ => .scalar
  | .sRemn _ _ _ => .scalar
  | .sRemn32 _ _ _ => .scalar
  | .sMin _ _ _ => .scalar
  | .sMin32 _ _ _ => .scalar
  | .sMax _ _ _ => .scalar
  | .sMax32 _ _ _ => .scalar
  | .sMinn _ _ _ => .scalar
  | .sMinn32 _ _ _ => .scalar
  | .sMaxn _ _ _ => .scalar
  | .sMaxn32 _ _ _ => .scalar
  | .sAddi _ _ _ => .scalar
  | .sAndi _ _ _ => .scalar
  | .sOri _ _ _ => .scalar
  | .sXori _ _ _ => .scalar
  | .sShli _ _ _ => .scalar
  | .sShri _ _ _ => .scalar
  | .sSrai _ _ _ => .scalar
  | .sLui _ _ => .scalar
  | .sPcrel _ _ => .scalar
  | .sCmp _ _ _ _ => .scalar
  | .sCmpi _ _ _ _ => .scalar
  | .sBc _ _ _ => .scalar
  | .sJmp _ => .scalar
  | .sCall _ => .scalar
  | .sJmpr _ => .scalar
  | .sCallr _ => .scalar
  | .sRet => .scalar
  | .sSldI8 _ _ _ => .scalar
  | .sSldN8 _ _ _ => .scalar
  | .sSldI16 _ _ _ => .scalar
  | .sSldN16 _ _ _ => .scalar
  | .sSldI32 _ _ _ => .scalar
  | .sSldN32 _ _ _ => .scalar
  | .sSldI64 _ _ _ => .scalar
  | .sSstN8 _ _ _ => .scalar
  | .sSstN16 _ _ _ => .scalar
  | .sSstN32 _ _ _ => .scalar
  | .sSstN64 _ _ _ => .scalar
  | .sLrun _ _ => .scalar
  | .sLsync => .scalar
  | .sSysrd _ _ => .scalar
  | .sSyswr _ _ => .scalar
  | .sEvarm _ _ => .scalar
  | .sEvdisarm _ => .scalar
  | .sWaitany _ => .scalar
  | .sJoin _ _ => .scalar
  | .sLeave _ => .scalar
  | .sBarArrive _ _ _ => .scalar
  | .sBarWait _ _ _ => .scalar
  | .sBarSync _ _ => .scalar
  | .sMbpost _ _ => .scalar
  | .sMbsend _ _ _ => .scalar
  | .sMbrecv _ _ => .scalar
  | .sSfenceLocal => .scalar
  | .sSfenceCore => .scalar
  | .sSfencePkg => .scalar
  | .sSfenceSys => .scalar
  | .sSvc _ => .scalar
  | .sSndend => .scalar
  | .sTret => .scalar
  | .sOplrd _ _ _ => .scalar
  | .sOplrep _ _ => .scalar
  | .sRdtime _ => .scalar
  | .vIadd _ => .lane
  | .vIsub _ => .lane
  | .vIaddsat _ => .lane
  | .vIsubsat _ => .lane
  | .vImul _ => .lane
  | .vImulhi _ => .lane
  | .vImad _ => .lane
  | .vImin _ => .lane
  | .vImax _ => .lane
  | .vIabs _ => .lane
  | .vIneg _ => .lane
  | .vIdiv _ => .lane
  | .vIrem _ => .lane
  | .vIavg _ => .lane
  | .vIsad _ => .lane
  | .vAnd _ => .lane
  | .vOr _ => .lane
  | .vXor _ => .lane
  | .vNot _ => .lane
  | .vAndn _ => .lane
  | .vShl _ => .lane
  | .vShr _ => .lane
  | .vSra _ => .lane
  | .vRotl _ => .lane
  | .vPopc _ => .lane
  | .vClz _ => .lane
  | .vCtz _ => .lane
  | .vBrev _ => .lane
  | .vBfext _ => .lane
  | .vBfins _ => .lane
  | .vTlut _ => .lane
  | .vIcmpEq _ => .lane
  | .vIcmpNe _ => .lane
  | .vIcmpLt _ => .lane
  | .vIcmpLe _ => .lane
  | .vIcmpGt _ => .lane
  | .vIcmpGe _ => .lane
  | .vFadd _ => .lane
  | .vFsub _ => .lane
  | .vFmul _ => .lane
  | .vFfma _ => .lane
  | .vFmin _ => .lane
  | .vFmax _ => .lane
  | .vFminnum _ => .lane
  | .vFmaxnum _ => .lane
  | .vFabs _ => .lane
  | .vFneg _ => .lane
  | .vFcopysign _ => .lane
  | .vFclass _ => .lane
  | .vFcmpEq _ => .lane
  | .vFcmpNe _ => .lane
  | .vFcmpLt _ => .lane
  | .vFcmpLe _ => .lane
  | .vFcmpGt _ => .lane
  | .vFcmpGe _ => .lane
  | .vFcmpUn _ => .lane
  | .vFcmpOrd _ => .lane
  | .vRcp _ => .lane
  | .vRsq _ => .lane
  | .vSqrt _ => .lane
  | .vDiv _ => .lane
  | .vExp2 _ => .lane
  | .vLog2 _ => .lane
  | .vCvt _ _ => .lane
  | .vFrint _ => .lane
  | .vQnt _ => .lane
  | .vDqnt _ => .lane
  | .vQscale _ => .lane
  | .vPand _ => .lane
  | .vPor _ => .lane
  | .vPxor _ => .lane
  | .vPandn _ => .lane
  | .vPnot _ => .lane
  | .vPmov _ => .lane
  | .vPfromv _ => .lane
  | .vPvec _ => .lane
  | .vPfirst _ => .lane
  | .vMov _ => .lane
  | .vSel _ => .lane
  | .vLidx _ => .lane
  | .vLxor _ => .lane
  | .vLrot _ => .lane
  | .vBcast _ => .lane
  | .vRadd _ => .lane
  | .vRmin _ => .lane
  | .vRmax _ => .lane
  | .vRand _ => .lane
  | .vRor _ => .lane
  | .vRxor _ => .lane
  | .vDp4 _ => .lane
  | .vDp2 _ => .lane
  | .vIaddI _ => .lane
  | .vIsubI _ => .lane
  | .vIaddsatI _ => .lane
  | .vIsubsatI _ => .lane
  | .vImulI _ => .lane
  | .vIminI _ => .lane
  | .vImaxI _ => .lane
  | .vAndI _ => .lane
  | .vOrI _ => .lane
  | .vXorI _ => .lane
  | .vShlI _ => .lane
  | .vShrI _ => .lane
  | .vSraI _ => .lane
  | .vRotlI _ => .lane
  | .vBfextI _ => .lane
  | .vIcmpEqI _ => .lane
  | .vIcmpNeI _ => .lane
  | .vIcmpLtI _ => .lane
  | .vIcmpLeI _ => .lane
  | .vIcmpGtI _ => .lane
  | .vIcmpGeI _ => .lane
  | .vFaddI _ => .lane
  | .vFmulI _ => .lane
  | .vFfmaI _ => .lane
  | .vFminI _ => .lane
  | .vFmaxI _ => .lane
  | .vFcmpEqI _ => .lane
  | .vFcmpNeI _ => .lane
  | .vFcmpLtI _ => .lane
  | .vFcmpLeI _ => .lane
  | .vFcmpGtI _ => .lane
  | .vFcmpGeI _ => .lane
  | .vFcmpUnI _ => .lane
  | .vFcmpOrdI _ => .lane
  | .vMovI _ => .lane
  | .vSelI _ => .lane
  | .vLidxI _ => .lane
  | .vLxorI _ => .lane
  | .vLrotI _ => .lane
  | .vBcastI _ => .lane
  | .vSpld _ => .lane
  | .vSpst _ => .lane
  | .vGld _ => .lane
  | .vGst _ => .lane
  | .vGprefetch _ => .lane
  | .vAadd _ _ => .lane
  | .vAmin _ _ => .lane
  | .vAmax _ _ => .lane
  | .vAand _ _ => .lane
  | .vAor _ _ => .lane
  | .vAxor _ _ => .lane
  | .vAxchg _ _ => .lane
  | .vAcas _ _ => .lane
  | .vAfadd _ _ => .lane
  | .vAppend _ => .lane
  | .vFenceCore _ => .lane
  | .vFencePkg _ => .lane
  | .vFenceSys _ => .lane
  | .vFenceEng _ => .lane
  | .vCopy _ => .lane
  | .vCopyFo _ => .lane
  | .vCbset _ => .lane
  | .vCbpush _ => .lane
  | .vCbpop _ => .lane
  | .vCbstat _ => .lane
  | .vMldw _ => .lane
  | .vMswap _ => .lane
  | .vMstream _ => .lane
  | .vMdrain _ => .lane
  | .vMclear _ => .lane
  | .vMperm _ => .lane
  | .vRoute _ => .lane
  | .vCstart _ => .lane
  | .vHwait _ => .lane
  | .vHrel _ => .lane
  | .vHstat _ => .lane
  | .vLend _ => .lane
  | .vLnop _ => .lane
  | .vLbrAny _ => .lane
  | .vLbrAll _ => .lane
  | .vLjmp _ => .lane
  | .vRegang _ => .lane
  | .vLtrap _ => .lane
  | .mLi _ _ => .mcf
  | .mAddi _ _ _ => .mcf
  | .mAdd _ _ _ => .mcf
  | .mSub _ _ _ => .mcf
  | .mAnd _ _ _ => .mcf
  | .mOr _ _ _ => .mcf
  | .mXor _ _ _ => .mcf
  | .mShl _ _ _ => .mcf
  | .mShr _ _ _ => .mcf
  | .mMinn _ _ _ => .mcf
  | .mBAl _ => .mcf
  | .mBEq _ _ _ => .mcf
  | .mBNe _ _ _ => .mcf
  | .mBLtn _ _ _ => .mcf
  | .mBGen _ _ _ => .mcf
  | .mBLt _ _ _ => .mcf
  | .mBGe _ _ _ => .mcf
  | .mMatch _ _ _ _ => .mcf
  | .mRdh _ _ _ => .mcf
  | .mRdm _ _ _ => .mcf
  | .mMark _ _ => .mcf
  | .mHold _ => .mcf
  | .mDrop _ => .mcf
  | .mStream _ _ => .mcf
  | .mFoldSum _ _ => .mcf
  | .mFoldMin _ _ => .mcf
  | .mFoldMax _ _ => .mcf
  | .mFoldQ _ _ => .mcf
  | .mCombSum _ _ _ => .mcf
  | .mCombMin _ _ _ => .mcf
  | .mCombMax _ _ _ => .mcf
  | .mFwd _ _ _ _ => .mcf
  | .mFwdAcc _ _ _ _ => .mcf
  | .mDlv _ _ => .mcf
  | .mDlvPk _ _ => .mcf
  | .mDlvG _ _ => .mcf
  | .mTkreq _ _ => .mcf
  | .mArrive _ _ => .mcf
  | .mEnd => .mcf
  | .eCorePowerGate _ => .event
  | .eLinkUp _ => .event
  | .ePackageDeclaredFailed _ => .event
  | .eHbmChannelOrDimmFailure _ _ _ => .event
  | .eSpareLaneSwitchDone _ _ => .event

/-- A scalar word: the fixed bits `m` and one field at bit `p`. -/
def sw1 (p m x : Nat) : Nat := m + x * 2 ^ p
/-- The fixed bits `m` and two fields at bits `p` and `q`. -/
def sw2 (p q m x y : Nat) : Nat := m + x * 2 ^ p + y * 2 ^ q
/-- The fixed bits `m` and three fields. -/
def sw3 (p q r m x y z : Nat) : Nat := m + x * 2 ^ p + y * 2 ^ q + z * 2 ^ r
/-- The fixed bits `m` and four fields. -/
def sw4 (p q r t m x y z u : Nat) : Nat := m + x * 2 ^ p + y * 2 ^ q + z * 2 ^ r + u * 2 ^ t

/-- The scalar word of an instruction, from the formats of Table 1 and the map of Table 10 of 02 (R55, R73). -/
def scalarNat : Instr → Nat
  | .sAdd d a b => sw3 20 14 8 0x04000000 d.toNat a.toNat b.toNat
  | .sAdd32 d a b => sw3 20 14 8 0x04000080 d.toNat a.toNat b.toNat
  | .sSub d a b => sw3 20 14 8 0x04000001 d.toNat a.toNat b.toNat
  | .sSub32 d a b => sw3 20 14 8 0x04000081 d.toNat a.toNat b.toNat
  | .sAnd d a b => sw3 20 14 8 0x04000002 d.toNat a.toNat b.toNat
  | .sAnd32 d a b => sw3 20 14 8 0x04000082 d.toNat a.toNat b.toNat
  | .sOr d a b => sw3 20 14 8 0x04000003 d.toNat a.toNat b.toNat
  | .sOr32 d a b => sw3 20 14 8 0x04000083 d.toNat a.toNat b.toNat
  | .sXor d a b => sw3 20 14 8 0x04000004 d.toNat a.toNat b.toNat
  | .sXor32 d a b => sw3 20 14 8 0x04000084 d.toNat a.toNat b.toNat
  | .sShl d a b => sw3 20 14 8 0x04000005 d.toNat a.toNat b.toNat
  | .sShl32 d a b => sw3 20 14 8 0x04000085 d.toNat a.toNat b.toNat
  | .sShr d a b => sw3 20 14 8 0x04000006 d.toNat a.toNat b.toNat
  | .sShr32 d a b => sw3 20 14 8 0x04000086 d.toNat a.toNat b.toNat
  | .sSra d a b => sw3 20 14 8 0x04000007 d.toNat a.toNat b.toNat
  | .sSra32 d a b => sw3 20 14 8 0x04000087 d.toNat a.toNat b.toNat
  | .sMul d a b => sw3 20 14 8 0x04000008 d.toNat a.toNat b.toNat
  | .sMul32 d a b => sw3 20 14 8 0x04000088 d.toNat a.toNat b.toNat
  | .sMulh d a b => sw3 20 14 8 0x04000009 d.toNat a.toNat b.toNat
  | .sMulh32 d a b => sw3 20 14 8 0x04000089 d.toNat a.toNat b.toNat
  | .sMulhn d a b => sw3 20 14 8 0x0400000A d.toNat a.toNat b.toNat
  | .sMulhn32 d a b => sw3 20 14 8 0x0400008A d.toNat a.toNat b.toNat
  | .sDiv d a b => sw3 20 14 8 0x0400000B d.toNat a.toNat b.toNat
  | .sDiv32 d a b => sw3 20 14 8 0x0400008B d.toNat a.toNat b.toNat
  | .sDivn d a b => sw3 20 14 8 0x0400000C d.toNat a.toNat b.toNat
  | .sDivn32 d a b => sw3 20 14 8 0x0400008C d.toNat a.toNat b.toNat
  | .sRem d a b => sw3 20 14 8 0x0400000D d.toNat a.toNat b.toNat
  | .sRem32 d a b => sw3 20 14 8 0x0400008D d.toNat a.toNat b.toNat
  | .sRemn d a b => sw3 20 14 8 0x0400000E d.toNat a.toNat b.toNat
  | .sRemn32 d a b => sw3 20 14 8 0x0400008E d.toNat a.toNat b.toNat
  | .sMin d a b => sw3 20 14 8 0x0400000F d.toNat a.toNat b.toNat
  | .sMin32 d a b => sw3 20 14 8 0x0400008F d.toNat a.toNat b.toNat
  | .sMax d a b => sw3 20 14 8 0x04000010 d.toNat a.toNat b.toNat
  | .sMax32 d a b => sw3 20 14 8 0x04000090 d.toNat a.toNat b.toNat
  | .sMinn d a b => sw3 20 14 8 0x04000011 d.toNat a.toNat b.toNat
  | .sMinn32 d a b => sw3 20 14 8 0x04000091 d.toNat a.toNat b.toNat
  | .sMaxn d a b => sw3 20 14 8 0x04000012 d.toNat a.toNat b.toNat
  | .sMaxn32 d a b => sw3 20 14 8 0x04000092 d.toNat a.toNat b.toNat
  | .sAddi d a i => sw3 20 14 0 0x08000000 d.toNat a.toNat i.toNat
  | .sAndi d a i => sw3 20 14 0 0x0C000000 d.toNat a.toNat i.toNat
  | .sOri d a i => sw3 20 14 0 0x10000000 d.toNat a.toNat i.toNat
  | .sXori d a i => sw3 20 14 0 0x14000000 d.toNat a.toNat i.toNat
  | .sShli d a n => sw3 20 14 0 0x18000000 d.toNat a.toNat n.toNat
  | .sShri d a n => sw3 20 14 0 0x18001000 d.toNat a.toNat n.toNat
  | .sSrai d a n => sw3 20 14 0 0x18002000 d.toNat a.toNat n.toNat
  | .sLui d i => sw2 20 0 0x1C000000 d.toNat i.toNat
  | .sPcrel d i => sw2 20 0 0x20000000 d.toNat i.toNat
  | .sCmp d c a b => sw4 23 20 14 8 0x24000000 d.toNat c.toNat a.toNat b.toNat
  | .sCmpi d c a i => sw4 23 20 14 0 0x28000000 d.toNat c.toNat a.toNat i.toNat
  | .sBc c n o => sw3 23 22 0 0x2C000000 c.toNat n.toNat o.toNat
  | .sJmp o => sw1 0 0x30000000 o.toNat
  | .sCall o => sw1 0 0x34000000 o.toNat
  | .sJmpr a => sw1 14 0x38000000 a.toNat
  | .sCallr a => sw1 14 0x38000001 a.toNat
  | .sRet => 0x38000002
  | .sSldI8 d a i => sw3 20 14 0 0x40000000 d.toNat a.toNat i.toNat
  | .sSldN8 d a i => sw3 20 14 0 0x44000000 d.toNat a.toNat i.toNat
  | .sSldI16 d a i => sw3 20 14 0 0x48000000 d.toNat a.toNat i.toNat
  | .sSldN16 d a i => sw3 20 14 0 0x4C000000 d.toNat a.toNat i.toNat
  | .sSldI32 d a i => sw3 20 14 0 0x50000000 d.toNat a.toNat i.toNat
  | .sSldN32 d a i => sw3 20 14 0 0x54000000 d.toNat a.toNat i.toNat
  | .sSldI64 d a i => sw3 20 14 0 0x58000000 d.toNat a.toNat i.toNat
  | .sSstN8 v a i => sw3 20 14 0 0x60000000 v.toNat a.toNat i.toNat
  | .sSstN16 v a i => sw3 20 14 0 0x64000000 v.toNat a.toNat i.toNat
  | .sSstN32 v a i => sw3 20 14 0 0x68000000 v.toNat a.toNat i.toNat
  | .sSstN64 v a i => sw3 20 14 0 0x6C000000 v.toNat a.toNat i.toNat
  | .sLrun k b => sw2 23 8 0x80000000 k.toNat b.toNat
  | .sLsync => 0x84000000
  | .sSysrd d r => sw2 20 0 0x90000000 d.toNat r.toNat
  | .sSyswr a r => sw2 14 0 0x90001000 a.toNat r.toNat
  | .sEvarm j a => sw2 20 14 0x94000000 j.toNat a.toNat
  | .sEvdisarm j => sw1 20 0x94000001 j.toNat
  | .sWaitany d => sw1 20 0x94000002 d.toNat
  | .sJoin d a => sw2 20 14 0x98000000 d.toNat a.toNat
  | .sLeave a => sw1 14 0x98000001 a.toNat
  | .sBarArrive d a b => sw3 20 14 8 0x98000002 d.toNat a.toNat b.toNat
  | .sBarWait d a b => sw3 20 14 8 0x98000003 d.toNat a.toNat b.toNat
  | .sBarSync d a => sw2 20 14 0x98000004 d.toNat a.toNat
  | .sMbpost a b => sw2 14 8 0x9C000000 a.toNat b.toNat
  | .sMbsend d a b => sw3 20 14 8 0x9C000001 d.toNat a.toNat b.toNat
  | .sMbrecv d a => sw2 20 14 0x9C000002 d.toNat a.toNat
  | .sSfenceLocal => 0xA0000000
  | .sSfenceCore => 0xA0000001
  | .sSfencePkg => 0xA0000002
  | .sSfenceSys => 0xA0000003
  | .sSvc a => sw1 14 0xA4000000 a.toNat
  | .sSndend => 0xA4000001
  | .sTret => 0xA4000002
  | .sOplrd d a b => sw3 20 14 8 0xA4000003 d.toNat a.toNat b.toNat
  | .sOplrep d a => sw2 20 14 0xA4000004 d.toNat a.toNat
  | .sRdtime d => sw1 20 0xA8000000 d.toNat
  | _ => 0

/-- The instruction a scalar word names, its must-be-zero fields not yet checked: cause 1 where the major opcode is
not assigned, cause 2 where the func is not (Table 10 of 02, R69). -/
noncomputable def scalarCand (w : Nat) : Decoded :=
  match w / 2 ^ 26 % 64 with
  | 1 =>
    match w % 256 with
    | 0 => .ok (.sAdd (BitVec.ofNat 6 (w / 2 ^ 20)) (BitVec.ofNat 6 (w / 2 ^ 14)) (BitVec.ofNat 6 (w / 2 ^ 8)))
    | 128 => .ok (.sAdd32 (BitVec.ofNat 6 (w / 2 ^ 20)) (BitVec.ofNat 6 (w / 2 ^ 14)) (BitVec.ofNat 6 (w / 2 ^ 8)))
    | 1 => .ok (.sSub (BitVec.ofNat 6 (w / 2 ^ 20)) (BitVec.ofNat 6 (w / 2 ^ 14)) (BitVec.ofNat 6 (w / 2 ^ 8)))
    | 129 => .ok (.sSub32 (BitVec.ofNat 6 (w / 2 ^ 20)) (BitVec.ofNat 6 (w / 2 ^ 14)) (BitVec.ofNat 6 (w / 2 ^ 8)))
    | 2 => .ok (.sAnd (BitVec.ofNat 6 (w / 2 ^ 20)) (BitVec.ofNat 6 (w / 2 ^ 14)) (BitVec.ofNat 6 (w / 2 ^ 8)))
    | 130 => .ok (.sAnd32 (BitVec.ofNat 6 (w / 2 ^ 20)) (BitVec.ofNat 6 (w / 2 ^ 14)) (BitVec.ofNat 6 (w / 2 ^ 8)))
    | 3 => .ok (.sOr (BitVec.ofNat 6 (w / 2 ^ 20)) (BitVec.ofNat 6 (w / 2 ^ 14)) (BitVec.ofNat 6 (w / 2 ^ 8)))
    | 131 => .ok (.sOr32 (BitVec.ofNat 6 (w / 2 ^ 20)) (BitVec.ofNat 6 (w / 2 ^ 14)) (BitVec.ofNat 6 (w / 2 ^ 8)))
    | 4 => .ok (.sXor (BitVec.ofNat 6 (w / 2 ^ 20)) (BitVec.ofNat 6 (w / 2 ^ 14)) (BitVec.ofNat 6 (w / 2 ^ 8)))
    | 132 => .ok (.sXor32 (BitVec.ofNat 6 (w / 2 ^ 20)) (BitVec.ofNat 6 (w / 2 ^ 14)) (BitVec.ofNat 6 (w / 2 ^ 8)))
    | 5 => .ok (.sShl (BitVec.ofNat 6 (w / 2 ^ 20)) (BitVec.ofNat 6 (w / 2 ^ 14)) (BitVec.ofNat 6 (w / 2 ^ 8)))
    | 133 => .ok (.sShl32 (BitVec.ofNat 6 (w / 2 ^ 20)) (BitVec.ofNat 6 (w / 2 ^ 14)) (BitVec.ofNat 6 (w / 2 ^ 8)))
    | 6 => .ok (.sShr (BitVec.ofNat 6 (w / 2 ^ 20)) (BitVec.ofNat 6 (w / 2 ^ 14)) (BitVec.ofNat 6 (w / 2 ^ 8)))
    | 134 => .ok (.sShr32 (BitVec.ofNat 6 (w / 2 ^ 20)) (BitVec.ofNat 6 (w / 2 ^ 14)) (BitVec.ofNat 6 (w / 2 ^ 8)))
    | 7 => .ok (.sSra (BitVec.ofNat 6 (w / 2 ^ 20)) (BitVec.ofNat 6 (w / 2 ^ 14)) (BitVec.ofNat 6 (w / 2 ^ 8)))
    | 135 => .ok (.sSra32 (BitVec.ofNat 6 (w / 2 ^ 20)) (BitVec.ofNat 6 (w / 2 ^ 14)) (BitVec.ofNat 6 (w / 2 ^ 8)))
    | 8 => .ok (.sMul (BitVec.ofNat 6 (w / 2 ^ 20)) (BitVec.ofNat 6 (w / 2 ^ 14)) (BitVec.ofNat 6 (w / 2 ^ 8)))
    | 136 => .ok (.sMul32 (BitVec.ofNat 6 (w / 2 ^ 20)) (BitVec.ofNat 6 (w / 2 ^ 14)) (BitVec.ofNat 6 (w / 2 ^ 8)))
    | 9 => .ok (.sMulh (BitVec.ofNat 6 (w / 2 ^ 20)) (BitVec.ofNat 6 (w / 2 ^ 14)) (BitVec.ofNat 6 (w / 2 ^ 8)))
    | 137 => .ok (.sMulh32 (BitVec.ofNat 6 (w / 2 ^ 20)) (BitVec.ofNat 6 (w / 2 ^ 14)) (BitVec.ofNat 6 (w / 2 ^ 8)))
    | 10 => .ok (.sMulhn (BitVec.ofNat 6 (w / 2 ^ 20)) (BitVec.ofNat 6 (w / 2 ^ 14)) (BitVec.ofNat 6 (w / 2 ^ 8)))
    | 138 => .ok (.sMulhn32 (BitVec.ofNat 6 (w / 2 ^ 20)) (BitVec.ofNat 6 (w / 2 ^ 14)) (BitVec.ofNat 6 (w / 2 ^ 8)))
    | 11 => .ok (.sDiv (BitVec.ofNat 6 (w / 2 ^ 20)) (BitVec.ofNat 6 (w / 2 ^ 14)) (BitVec.ofNat 6 (w / 2 ^ 8)))
    | 139 => .ok (.sDiv32 (BitVec.ofNat 6 (w / 2 ^ 20)) (BitVec.ofNat 6 (w / 2 ^ 14)) (BitVec.ofNat 6 (w / 2 ^ 8)))
    | 12 => .ok (.sDivn (BitVec.ofNat 6 (w / 2 ^ 20)) (BitVec.ofNat 6 (w / 2 ^ 14)) (BitVec.ofNat 6 (w / 2 ^ 8)))
    | 140 => .ok (.sDivn32 (BitVec.ofNat 6 (w / 2 ^ 20)) (BitVec.ofNat 6 (w / 2 ^ 14)) (BitVec.ofNat 6 (w / 2 ^ 8)))
    | 13 => .ok (.sRem (BitVec.ofNat 6 (w / 2 ^ 20)) (BitVec.ofNat 6 (w / 2 ^ 14)) (BitVec.ofNat 6 (w / 2 ^ 8)))
    | 141 => .ok (.sRem32 (BitVec.ofNat 6 (w / 2 ^ 20)) (BitVec.ofNat 6 (w / 2 ^ 14)) (BitVec.ofNat 6 (w / 2 ^ 8)))
    | 14 => .ok (.sRemn (BitVec.ofNat 6 (w / 2 ^ 20)) (BitVec.ofNat 6 (w / 2 ^ 14)) (BitVec.ofNat 6 (w / 2 ^ 8)))
    | 142 => .ok (.sRemn32 (BitVec.ofNat 6 (w / 2 ^ 20)) (BitVec.ofNat 6 (w / 2 ^ 14)) (BitVec.ofNat 6 (w / 2 ^ 8)))
    | 15 => .ok (.sMin (BitVec.ofNat 6 (w / 2 ^ 20)) (BitVec.ofNat 6 (w / 2 ^ 14)) (BitVec.ofNat 6 (w / 2 ^ 8)))
    | 143 => .ok (.sMin32 (BitVec.ofNat 6 (w / 2 ^ 20)) (BitVec.ofNat 6 (w / 2 ^ 14)) (BitVec.ofNat 6 (w / 2 ^ 8)))
    | 16 => .ok (.sMax (BitVec.ofNat 6 (w / 2 ^ 20)) (BitVec.ofNat 6 (w / 2 ^ 14)) (BitVec.ofNat 6 (w / 2 ^ 8)))
    | 144 => .ok (.sMax32 (BitVec.ofNat 6 (w / 2 ^ 20)) (BitVec.ofNat 6 (w / 2 ^ 14)) (BitVec.ofNat 6 (w / 2 ^ 8)))
    | 17 => .ok (.sMinn (BitVec.ofNat 6 (w / 2 ^ 20)) (BitVec.ofNat 6 (w / 2 ^ 14)) (BitVec.ofNat 6 (w / 2 ^ 8)))
    | 145 => .ok (.sMinn32 (BitVec.ofNat 6 (w / 2 ^ 20)) (BitVec.ofNat 6 (w / 2 ^ 14)) (BitVec.ofNat 6 (w / 2 ^ 8)))
    | 18 => .ok (.sMaxn (BitVec.ofNat 6 (w / 2 ^ 20)) (BitVec.ofNat 6 (w / 2 ^ 14)) (BitVec.ofNat 6 (w / 2 ^ 8)))
    | 146 => .ok (.sMaxn32 (BitVec.ofNat 6 (w / 2 ^ 20)) (BitVec.ofNat 6 (w / 2 ^ 14)) (BitVec.ofNat 6 (w / 2 ^ 8)))
    | _ => .illegal 2
  | 2 => .ok (.sAddi (BitVec.ofNat 6 (w / 2 ^ 20)) (BitVec.ofNat 6 (w / 2 ^ 14)) (BitVec.ofNat 14 (w / 2 ^ 0)))
  | 3 => .ok (.sAndi (BitVec.ofNat 6 (w / 2 ^ 20)) (BitVec.ofNat 6 (w / 2 ^ 14)) (BitVec.ofNat 14 (w / 2 ^ 0)))
  | 4 => .ok (.sOri (BitVec.ofNat 6 (w / 2 ^ 20)) (BitVec.ofNat 6 (w / 2 ^ 14)) (BitVec.ofNat 14 (w / 2 ^ 0)))
  | 5 => .ok (.sXori (BitVec.ofNat 6 (w / 2 ^ 20)) (BitVec.ofNat 6 (w / 2 ^ 14)) (BitVec.ofNat 14 (w / 2 ^ 0)))
  | 6 =>
    match w / 2 ^ 12 % 4 with
    | 0 => .ok (.sShli (BitVec.ofNat 6 (w / 2 ^ 20)) (BitVec.ofNat 6 (w / 2 ^ 14)) (BitVec.ofNat 6 (w / 2 ^ 0)))
    | 1 => .ok (.sShri (BitVec.ofNat 6 (w / 2 ^ 20)) (BitVec.ofNat 6 (w / 2 ^ 14)) (BitVec.ofNat 6 (w / 2 ^ 0)))
    | 2 => .ok (.sSrai (BitVec.ofNat 6 (w / 2 ^ 20)) (BitVec.ofNat 6 (w / 2 ^ 14)) (BitVec.ofNat 6 (w / 2 ^ 0)))
    | _ => .illegal 2
  | 7 => .ok (.sLui (BitVec.ofNat 6 (w / 2 ^ 20)) (BitVec.ofNat 20 (w / 2 ^ 0)))
  | 8 => .ok (.sPcrel (BitVec.ofNat 6 (w / 2 ^ 20)) (BitVec.ofNat 20 (w / 2 ^ 0)))
  | 9 => .ok (.sCmp (BitVec.ofNat 3 (w / 2 ^ 23)) (BitVec.ofNat 3 (w / 2 ^ 20)) (BitVec.ofNat 6 (w / 2 ^ 14)) (BitVec.ofNat 6 (w / 2 ^ 8)))
  | 10 => .ok (.sCmpi (BitVec.ofNat 3 (w / 2 ^ 23)) (BitVec.ofNat 3 (w / 2 ^ 20)) (BitVec.ofNat 6 (w / 2 ^ 14)) (BitVec.ofNat 14 (w / 2 ^ 0)))
  | 11 => .ok (.sBc (BitVec.ofNat 3 (w / 2 ^ 23)) (BitVec.ofNat 1 (w / 2 ^ 22)) (BitVec.ofNat 22 (w / 2 ^ 0)))
  | 12 => .ok (.sJmp (BitVec.ofNat 26 (w / 2 ^ 0)))
  | 13 => .ok (.sCall (BitVec.ofNat 26 (w / 2 ^ 0)))
  | 14 =>
    match w % 256 with
    | 0 => .ok (.sJmpr (BitVec.ofNat 6 (w / 2 ^ 14)))
    | 1 => .ok (.sCallr (BitVec.ofNat 6 (w / 2 ^ 14)))
    | 2 => .ok (.sRet)
    | _ => .illegal 2
  | 16 => .ok (.sSldI8 (BitVec.ofNat 6 (w / 2 ^ 20)) (BitVec.ofNat 6 (w / 2 ^ 14)) (BitVec.ofNat 14 (w / 2 ^ 0)))
  | 17 => .ok (.sSldN8 (BitVec.ofNat 6 (w / 2 ^ 20)) (BitVec.ofNat 6 (w / 2 ^ 14)) (BitVec.ofNat 14 (w / 2 ^ 0)))
  | 18 => .ok (.sSldI16 (BitVec.ofNat 6 (w / 2 ^ 20)) (BitVec.ofNat 6 (w / 2 ^ 14)) (BitVec.ofNat 14 (w / 2 ^ 0)))
  | 19 => .ok (.sSldN16 (BitVec.ofNat 6 (w / 2 ^ 20)) (BitVec.ofNat 6 (w / 2 ^ 14)) (BitVec.ofNat 14 (w / 2 ^ 0)))
  | 20 => .ok (.sSldI32 (BitVec.ofNat 6 (w / 2 ^ 20)) (BitVec.ofNat 6 (w / 2 ^ 14)) (BitVec.ofNat 14 (w / 2 ^ 0)))
  | 21 => .ok (.sSldN32 (BitVec.ofNat 6 (w / 2 ^ 20)) (BitVec.ofNat 6 (w / 2 ^ 14)) (BitVec.ofNat 14 (w / 2 ^ 0)))
  | 22 => .ok (.sSldI64 (BitVec.ofNat 6 (w / 2 ^ 20)) (BitVec.ofNat 6 (w / 2 ^ 14)) (BitVec.ofNat 14 (w / 2 ^ 0)))
  | 24 => .ok (.sSstN8 (BitVec.ofNat 6 (w / 2 ^ 20)) (BitVec.ofNat 6 (w / 2 ^ 14)) (BitVec.ofNat 14 (w / 2 ^ 0)))
  | 25 => .ok (.sSstN16 (BitVec.ofNat 6 (w / 2 ^ 20)) (BitVec.ofNat 6 (w / 2 ^ 14)) (BitVec.ofNat 14 (w / 2 ^ 0)))
  | 26 => .ok (.sSstN32 (BitVec.ofNat 6 (w / 2 ^ 20)) (BitVec.ofNat 6 (w / 2 ^ 14)) (BitVec.ofNat 14 (w / 2 ^ 0)))
  | 27 => .ok (.sSstN64 (BitVec.ofNat 6 (w / 2 ^ 20)) (BitVec.ofNat 6 (w / 2 ^ 14)) (BitVec.ofNat 14 (w / 2 ^ 0)))
  | 32 => .ok (.sLrun (BitVec.ofNat 3 (w / 2 ^ 23)) (BitVec.ofNat 12 (w / 2 ^ 8)))
  | 33 =>
    match w % 256 with
    | 0 => .ok (.sLsync)
    | _ => .illegal 2
  | 36 =>
    match w / 2 ^ 12 % 4 with
    | 0 => .ok (.sSysrd (BitVec.ofNat 6 (w / 2 ^ 20)) (BitVec.ofNat 12 (w / 2 ^ 0)))
    | 1 => .ok (.sSyswr (BitVec.ofNat 6 (w / 2 ^ 14)) (BitVec.ofNat 12 (w / 2 ^ 0)))
    | _ => .illegal 2
  | 37 =>
    match w % 256 with
    | 0 => .ok (.sEvarm (BitVec.ofNat 6 (w / 2 ^ 20)) (BitVec.ofNat 6 (w / 2 ^ 14)))
    | 1 => .ok (.sEvdisarm (BitVec.ofNat 6 (w / 2 ^ 20)))
    | 2 => .ok (.sWaitany (BitVec.ofNat 6 (w / 2 ^ 20)))
    | _ => .illegal 2
  | 38 =>
    match w % 256 with
    | 0 => .ok (.sJoin (BitVec.ofNat 6 (w / 2 ^ 20)) (BitVec.ofNat 6 (w / 2 ^ 14)))
    | 1 => .ok (.sLeave (BitVec.ofNat 6 (w / 2 ^ 14)))
    | 2 => .ok (.sBarArrive (BitVec.ofNat 6 (w / 2 ^ 20)) (BitVec.ofNat 6 (w / 2 ^ 14)) (BitVec.ofNat 6 (w / 2 ^ 8)))
    | 3 => .ok (.sBarWait (BitVec.ofNat 6 (w / 2 ^ 20)) (BitVec.ofNat 6 (w / 2 ^ 14)) (BitVec.ofNat 6 (w / 2 ^ 8)))
    | 4 => .ok (.sBarSync (BitVec.ofNat 6 (w / 2 ^ 20)) (BitVec.ofNat 6 (w / 2 ^ 14)))
    | _ => .illegal 2
  | 39 =>
    match w % 256 with
    | 0 => .ok (.sMbpost (BitVec.ofNat 6 (w / 2 ^ 14)) (BitVec.ofNat 6 (w / 2 ^ 8)))
    | 1 => .ok (.sMbsend (BitVec.ofNat 6 (w / 2 ^ 20)) (BitVec.ofNat 6 (w / 2 ^ 14)) (BitVec.ofNat 6 (w / 2 ^ 8)))
    | 2 => .ok (.sMbrecv (BitVec.ofNat 6 (w / 2 ^ 20)) (BitVec.ofNat 6 (w / 2 ^ 14)))
    | _ => .illegal 2
  | 40 =>
    match w % 256 with
    | 0 => .ok (.sSfenceLocal)
    | 1 => .ok (.sSfenceCore)
    | 2 => .ok (.sSfencePkg)
    | 3 => .ok (.sSfenceSys)
    | _ => .illegal 2
  | 41 =>
    match w % 256 with
    | 0 => .ok (.sSvc (BitVec.ofNat 6 (w / 2 ^ 14)))
    | 1 => .ok (.sSndend)
    | 2 => .ok (.sTret)
    | 3 => .ok (.sOplrd (BitVec.ofNat 6 (w / 2 ^ 20)) (BitVec.ofNat 6 (w / 2 ^ 14)) (BitVec.ofNat 6 (w / 2 ^ 8)))
    | 4 => .ok (.sOplrep (BitVec.ofNat 6 (w / 2 ^ 20)) (BitVec.ofNat 6 (w / 2 ^ 14)))
    | _ => .illegal 2
  | 42 =>
    match w % 256 with
    | 0 => .ok (.sRdtime (BitVec.ofNat 6 (w / 2 ^ 20)))
    | _ => .illegal 2
  | _ => .illegal 1

/-- MAJOR, MINOR and the rest of a lane instruction's word (Table 11 of 02, R74). -/
def laneHead : Instr → Option (Nat × Nat × LaneBody)
  | .vIadd f => some (1, 0, .r f)
  | .vIsub f => some (1, 1, .r f)
  | .vIaddsat f => some (1, 2, .r f)
  | .vIsubsat f => some (1, 3, .r f)
  | .vImul f => some (1, 4, .r f)
  | .vImulhi f => some (1, 5, .r f)
  | .vImad f => some (1, 6, .r f)
  | .vImin f => some (1, 7, .r f)
  | .vImax f => some (1, 8, .r f)
  | .vIabs f => some (1, 9, .r f)
  | .vIneg f => some (1, 10, .r f)
  | .vIdiv f => some (1, 11, .r f)
  | .vIrem f => some (1, 12, .r f)
  | .vIavg f => some (1, 13, .r f)
  | .vIsad f => some (1, 14, .r f)
  | .vAnd f => some (2, 0, .r f)
  | .vOr f => some (2, 1, .r f)
  | .vXor f => some (2, 2, .r f)
  | .vNot f => some (2, 3, .r f)
  | .vAndn f => some (2, 4, .r f)
  | .vShl f => some (2, 5, .r f)
  | .vShr f => some (2, 6, .r f)
  | .vSra f => some (2, 7, .r f)
  | .vRotl f => some (2, 8, .r f)
  | .vPopc f => some (2, 9, .r f)
  | .vClz f => some (2, 10, .r f)
  | .vCtz f => some (2, 11, .r f)
  | .vBrev f => some (2, 12, .r f)
  | .vBfext f => some (2, 13, .r f)
  | .vBfins f => some (2, 14, .r f)
  | .vTlut f => some (2, 15, .r f)
  | .vIcmpEq f => some (3, 0, .r f)
  | .vIcmpNe f => some (3, 1, .r f)
  | .vIcmpLt f => some (3, 2, .r f)
  | .vIcmpLe f => some (3, 3, .r f)
  | .vIcmpGt f => some (3, 4, .r f)
  | .vIcmpGe f => some (3, 5, .r f)
  | .vFadd f => some (4, 0, .r f)
  | .vFsub f => some (4, 1, .r f)
  | .vFmul f => some (4, 2, .r f)
  | .vFfma f => some (4, 3, .r f)
  | .vFmin f => some (4, 4, .r f)
  | .vFmax f => some (4, 5, .r f)
  | .vFminnum f => some (4, 6, .r f)
  | .vFmaxnum f => some (4, 7, .r f)
  | .vFabs f => some (4, 8, .r f)
  | .vFneg f => some (4, 9, .r f)
  | .vFcopysign f => some (4, 10, .r f)
  | .vFclass f => some (4, 11, .r f)
  | .vFcmpEq f => some (5, 0, .r f)
  | .vFcmpNe f => some (5, 1, .r f)
  | .vFcmpLt f => some (5, 2, .r f)
  | .vFcmpLe f => some (5, 3, .r f)
  | .vFcmpGt f => some (5, 4, .r f)
  | .vFcmpGe f => some (5, 5, .r f)
  | .vFcmpUn f => some (5, 6, .r f)
  | .vFcmpOrd f => some (5, 7, .r f)
  | .vRcp f => some (6, 0, .r f)
  | .vRsq f => some (6, 1, .r f)
  | .vSqrt f => some (6, 2, .r f)
  | .vDiv f => some (6, 3, .r f)
  | .vExp2 f => some (6, 4, .r f)
  | .vLog2 f => some (6, 5, .r f)
  | .vCvt src f => some (7, src.toNat, .r f)
  | .vFrint f => some (7, 64, .r f)
  | .vQnt f => some (8, 0, .r f)
  | .vDqnt f => some (8, 1, .r f)
  | .vQscale f => some (8, 2, .r f)
  | .vPand f => some (9, 0, .r f)
  | .vPor f => some (9, 1, .r f)
  | .vPxor f => some (9, 2, .r f)
  | .vPandn f => some (9, 3, .r f)
  | .vPnot f => some (9, 4, .r f)
  | .vPmov f => some (9, 5, .r f)
  | .vPfromv f => some (9, 6, .r f)
  | .vPvec f => some (9, 7, .r f)
  | .vPfirst f => some (9, 8, .r f)
  | .vMov f => some (10, 0, .r f)
  | .vSel f => some (10, 1, .r f)
  | .vLidx f => some (11, 0, .r f)
  | .vLxor f => some (11, 1, .r f)
  | .vLrot f => some (11, 2, .r f)
  | .vBcast f => some (11, 3, .r f)
  | .vRadd f => some (12, 0, .r f)
  | .vRmin f => some (12, 1, .r f)
  | .vRmax f => some (12, 2, .r f)
  | .vRand f => some (12, 3, .r f)
  | .vRor f => some (12, 4, .r f)
  | .vRxor f => some (12, 5, .r f)
  | .vDp4 f => some (13, 0, .r f)
  | .vDp2 f => some (13, 1, .r f)
  | .vIaddI f => some (17, 0, .i f)
  | .vIsubI f => some (17, 1, .i f)
  | .vIaddsatI f => some (17, 2, .i f)
  | .vIsubsatI f => some (17, 3, .i f)
  | .vImulI f => some (17, 4, .i f)
  | .vIminI f => some (17, 7, .i f)
  | .vImaxI f => some (17, 8, .i f)
  | .vAndI f => some (18, 0, .i f)
  | .vOrI f => some (18, 1, .i f)
  | .vXorI f => some (18, 2, .i f)
  | .vShlI f => some (18, 5, .i f)
  | .vShrI f => some (18, 6, .i f)
  | .vSraI f => some (18, 7, .i f)
  | .vRotlI f => some (18, 8, .i f)
  | .vBfextI f => some (18, 13, .i f)
  | .vIcmpEqI f => some (19, 0, .i f)
  | .vIcmpNeI f => some (19, 1, .i f)
  | .vIcmpLtI f => some (19, 2, .i f)
  | .vIcmpLeI f => some (19, 3, .i f)
  | .vIcmpGtI f => some (19, 4, .i f)
  | .vIcmpGeI f => some (19, 5, .i f)
  | .vFaddI f => some (20, 0, .i f)
  | .vFmulI f => some (20, 2, .i f)
  | .vFfmaI f => some (20, 3, .i f)
  | .vFminI f => some (20, 4, .i f)
  | .vFmaxI f => some (20, 5, .i f)
  | .vFcmpEqI f => some (21, 0, .i f)
  | .vFcmpNeI f => some (21, 1, .i f)
  | .vFcmpLtI f => some (21, 2, .i f)
  | .vFcmpLeI f => some (21, 3, .i f)
  | .vFcmpGtI f => some (21, 4, .i f)
  | .vFcmpGeI f => some (21, 5, .i f)
  | .vFcmpUnI f => some (21, 6, .i f)
  | .vFcmpOrdI f => some (21, 7, .i f)
  | .vMovI f => some (26, 0, .i f)
  | .vSelI f => some (26, 1, .i f)
  | .vLidxI f => some (27, 0, .i f)
  | .vLxorI f => some (27, 1, .i f)
  | .vLrotI f => some (27, 2, .i f)
  | .vBcastI f => some (27, 3, .i f)
  | .vSpld f => some (32, 0, .i f)
  | .vSpst f => some (32, 1, .i f)
  | .vGld f => some (33, 0, .i f)
  | .vGst f => some (33, 1, .i f)
  | .vGprefetch f => some (33, 2, .i f)
  | .vAadd scope f => some (34, scope.toNat * 16 + 0, .i f)
  | .vAmin scope f => some (34, scope.toNat * 16 + 1, .i f)
  | .vAmax scope f => some (34, scope.toNat * 16 + 2, .i f)
  | .vAand scope f => some (34, scope.toNat * 16 + 3, .i f)
  | .vAor scope f => some (34, scope.toNat * 16 + 4, .i f)
  | .vAxor scope f => some (34, scope.toNat * 16 + 5, .i f)
  | .vAxchg scope f => some (34, scope.toNat * 16 + 6, .i f)
  | .vAcas scope f => some (34, scope.toNat * 16 + 7, .i f)
  | .vAfadd scope f => some (34, scope.toNat * 16 + 8, .i f)
  | .vAppend f => some (35, 0, .i f)
  | .vFenceCore f => some (36, 0, .r f)
  | .vFencePkg f => some (36, 1, .r f)
  | .vFenceSys f => some (36, 2, .r f)
  | .vFenceEng f => some (36, 3, .r f)
  | .vCopy f => some (48, 0, .r f)
  | .vCopyFo f => some (48, 0, .r f)
  | .vCbset f => some (49, 0, .r f)
  | .vCbpush f => some (49, 1, .r f)
  | .vCbpop f => some (49, 2, .r f)
  | .vCbstat f => some (49, 3, .r f)
  | .vMldw f => some (50, 0, .r f)
  | .vMswap f => some (50, 1, .r f)
  | .vMstream f => some (50, 2, .r f)
  | .vMdrain f => some (50, 3, .r f)
  | .vMclear f => some (50, 4, .r f)
  | .vMperm f => some (50, 5, .r f)
  | .vRoute f => some (51, 0, .r f)
  | .vCstart f => some (52, 0, .r f)
  | .vHwait f => some (53, 0, .r f)
  | .vHrel f => some (53, 1, .r f)
  | .vHstat f => some (53, 2, .r f)
  | .vLend f => some (56, 0, .i f)
  | .vLnop f => some (56, 1, .i f)
  | .vLbrAny f => some (56, 2, .i f)
  | .vLbrAll f => some (56, 2, .i f)
  | .vLjmp f => some (56, 3, .i f)
  | .vRegang f => some (56, 4, .i f)
  | .vLtrap f => some (56, 5, .i f)
  | _ => none

/-- The lane instruction that MAJOR, MINOR and the fields name: cause 1 where the major is not assigned, cause 2 where
the minor is not (Table 11 of 02, R69, R74). -/
noncomputable def laneCand (maj min : Nat) (fr : LaneR) (fi : LaneI) : Decoded :=
  match maj with
  | 1 =>
    match min with
    | 0 => .ok (.vIadd fr)
    | 1 => .ok (.vIsub fr)
    | 2 => .ok (.vIaddsat fr)
    | 3 => .ok (.vIsubsat fr)
    | 4 => .ok (.vImul fr)
    | 5 => .ok (.vImulhi fr)
    | 6 => .ok (.vImad fr)
    | 7 => .ok (.vImin fr)
    | 8 => .ok (.vImax fr)
    | 9 => .ok (.vIabs fr)
    | 10 => .ok (.vIneg fr)
    | 11 => .ok (.vIdiv fr)
    | 12 => .ok (.vIrem fr)
    | 13 => .ok (.vIavg fr)
    | 14 => .ok (.vIsad fr)
    | _ => .illegal 2
  | 2 =>
    match min with
    | 0 => .ok (.vAnd fr)
    | 1 => .ok (.vOr fr)
    | 2 => .ok (.vXor fr)
    | 3 => .ok (.vNot fr)
    | 4 => .ok (.vAndn fr)
    | 5 => .ok (.vShl fr)
    | 6 => .ok (.vShr fr)
    | 7 => .ok (.vSra fr)
    | 8 => .ok (.vRotl fr)
    | 9 => .ok (.vPopc fr)
    | 10 => .ok (.vClz fr)
    | 11 => .ok (.vCtz fr)
    | 12 => .ok (.vBrev fr)
    | 13 => .ok (.vBfext fr)
    | 14 => .ok (.vBfins fr)
    | 15 => .ok (.vTlut fr)
    | _ => .illegal 2
  | 3 =>
    match min with
    | 0 => .ok (.vIcmpEq fr)
    | 1 => .ok (.vIcmpNe fr)
    | 2 => .ok (.vIcmpLt fr)
    | 3 => .ok (.vIcmpLe fr)
    | 4 => .ok (.vIcmpGt fr)
    | 5 => .ok (.vIcmpGe fr)
    | _ => .illegal 2
  | 4 =>
    match min with
    | 0 => .ok (.vFadd fr)
    | 1 => .ok (.vFsub fr)
    | 2 => .ok (.vFmul fr)
    | 3 => .ok (.vFfma fr)
    | 4 => .ok (.vFmin fr)
    | 5 => .ok (.vFmax fr)
    | 6 => .ok (.vFminnum fr)
    | 7 => .ok (.vFmaxnum fr)
    | 8 => .ok (.vFabs fr)
    | 9 => .ok (.vFneg fr)
    | 10 => .ok (.vFcopysign fr)
    | 11 => .ok (.vFclass fr)
    | _ => .illegal 2
  | 5 =>
    match min with
    | 0 => .ok (.vFcmpEq fr)
    | 1 => .ok (.vFcmpNe fr)
    | 2 => .ok (.vFcmpLt fr)
    | 3 => .ok (.vFcmpLe fr)
    | 4 => .ok (.vFcmpGt fr)
    | 5 => .ok (.vFcmpGe fr)
    | 6 => .ok (.vFcmpUn fr)
    | 7 => .ok (.vFcmpOrd fr)
    | _ => .illegal 2
  | 6 =>
    match min with
    | 0 => .ok (.vRcp fr)
    | 1 => .ok (.vRsq fr)
    | 2 => .ok (.vSqrt fr)
    | 3 => .ok (.vDiv fr)
    | 4 => .ok (.vExp2 fr)
    | 5 => .ok (.vLog2 fr)
    | _ => .illegal 2
  | 7 =>
    if min = 0x40 then .ok (.vFrint fr)
    else if 1 ≤ min ∧ min ≤ 0x0C ∧ min ≠ fr.ty.toNat then .ok (.vCvt (BitVec.ofNat 8 min) fr)
    else .illegal 2
  | 8 =>
    match min with
    | 0 => .ok (.vQnt fr)
    | 1 => .ok (.vDqnt fr)
    | 2 => .ok (.vQscale fr)
    | _ => .illegal 2
  | 9 =>
    match min with
    | 0 => .ok (.vPand fr)
    | 1 => .ok (.vPor fr)
    | 2 => .ok (.vPxor fr)
    | 3 => .ok (.vPandn fr)
    | 4 => .ok (.vPnot fr)
    | 5 => .ok (.vPmov fr)
    | 6 => .ok (.vPfromv fr)
    | 7 => .ok (.vPvec fr)
    | 8 => .ok (.vPfirst fr)
    | _ => .illegal 2
  | 10 =>
    match min with
    | 0 => .ok (.vMov fr)
    | 1 => .ok (.vSel fr)
    | _ => .illegal 2
  | 11 =>
    match min with
    | 0 => .ok (.vLidx fr)
    | 1 => .ok (.vLxor fr)
    | 2 => .ok (.vLrot fr)
    | 3 => .ok (.vBcast fr)
    | _ => .illegal 2
  | 12 =>
    match min with
    | 0 => .ok (.vRadd fr)
    | 1 => .ok (.vRmin fr)
    | 2 => .ok (.vRmax fr)
    | 3 => .ok (.vRand fr)
    | 4 => .ok (.vRor fr)
    | 5 => .ok (.vRxor fr)
    | _ => .illegal 2
  | 13 =>
    match min with
    | 0 => .ok (.vDp4 fr)
    | 1 => .ok (.vDp2 fr)
    | _ => .illegal 2
  | 17 =>
    match min with
    | 0 => .ok (.vIaddI fi)
    | 1 => .ok (.vIsubI fi)
    | 2 => .ok (.vIaddsatI fi)
    | 3 => .ok (.vIsubsatI fi)
    | 4 => .ok (.vImulI fi)
    | 7 => .ok (.vIminI fi)
    | 8 => .ok (.vImaxI fi)
    | _ => .illegal 2
  | 18 =>
    match min with
    | 0 => .ok (.vAndI fi)
    | 1 => .ok (.vOrI fi)
    | 2 => .ok (.vXorI fi)
    | 5 => .ok (.vShlI fi)
    | 6 => .ok (.vShrI fi)
    | 7 => .ok (.vSraI fi)
    | 8 => .ok (.vRotlI fi)
    | 13 => .ok (.vBfextI fi)
    | _ => .illegal 2
  | 19 =>
    match min with
    | 0 => .ok (.vIcmpEqI fi)
    | 1 => .ok (.vIcmpNeI fi)
    | 2 => .ok (.vIcmpLtI fi)
    | 3 => .ok (.vIcmpLeI fi)
    | 4 => .ok (.vIcmpGtI fi)
    | 5 => .ok (.vIcmpGeI fi)
    | _ => .illegal 2
  | 20 =>
    match min with
    | 0 => .ok (.vFaddI fi)
    | 2 => .ok (.vFmulI fi)
    | 3 => .ok (.vFfmaI fi)
    | 4 => .ok (.vFminI fi)
    | 5 => .ok (.vFmaxI fi)
    | _ => .illegal 2
  | 21 =>
    match min with
    | 0 => .ok (.vFcmpEqI fi)
    | 1 => .ok (.vFcmpNeI fi)
    | 2 => .ok (.vFcmpLtI fi)
    | 3 => .ok (.vFcmpLeI fi)
    | 4 => .ok (.vFcmpGtI fi)
    | 5 => .ok (.vFcmpGeI fi)
    | 6 => .ok (.vFcmpUnI fi)
    | 7 => .ok (.vFcmpOrdI fi)
    | _ => .illegal 2
  | 26 =>
    match min with
    | 0 => .ok (.vMovI fi)
    | 1 => .ok (.vSelI fi)
    | _ => .illegal 2
  | 27 =>
    match min with
    | 0 => .ok (.vLidxI fi)
    | 1 => .ok (.vLxorI fi)
    | 2 => .ok (.vLrotI fi)
    | 3 => .ok (.vBcastI fi)
    | _ => .illegal 2
  | 32 =>
    match min with
    | 0 => .ok (.vSpld fi)
    | 1 => .ok (.vSpst fi)
    | _ => .illegal 2
  | 33 =>
    match min with
    | 0 => .ok (.vGld fi)
    | 1 => .ok (.vGst fi)
    | 2 => .ok (.vGprefetch fi)
    | _ => .illegal 2
  | 34 =>
    if 3 ≤ min / 16 then .illegal 2
    else
      match min % 16 with
      | 0 => .ok (.vAadd (BitVec.ofNat 2 (min / 16)) fi)
      | 1 => .ok (.vAmin (BitVec.ofNat 2 (min / 16)) fi)
      | 2 => .ok (.vAmax (BitVec.ofNat 2 (min / 16)) fi)
      | 3 => .ok (.vAand (BitVec.ofNat 2 (min / 16)) fi)
      | 4 => .ok (.vAor (BitVec.ofNat 2 (min / 16)) fi)
      | 5 => .ok (.vAxor (BitVec.ofNat 2 (min / 16)) fi)
      | 6 => .ok (.vAxchg (BitVec.ofNat 2 (min / 16)) fi)
      | 7 => .ok (.vAcas (BitVec.ofNat 2 (min / 16)) fi)
      | 8 => .ok (.vAfadd (BitVec.ofNat 2 (min / 16)) fi)
      | _ => .illegal 2
  | 35 =>
    match min with
    | 0 => .ok (.vAppend fi)
    | _ => .illegal 2
  | 36 =>
    match min with
    | 0 => .ok (.vFenceCore fr)
    | 1 => .ok (.vFencePkg fr)
    | 2 => .ok (.vFenceSys fr)
    | 3 => .ok (.vFenceEng fr)
    | _ => .illegal 2
  | 48 => if min = 0 then (if fr.dst.toNat % 2 = 1 then .ok (.vCopyFo fr) else .ok (.vCopy fr)) else .illegal 2
  | 49 =>
    match min with
    | 0 => .ok (.vCbset fr)
    | 1 => .ok (.vCbpush fr)
    | 2 => .ok (.vCbpop fr)
    | 3 => .ok (.vCbstat fr)
    | _ => .illegal 2
  | 50 =>
    match min with
    | 0 => .ok (.vMldw fr)
    | 1 => .ok (.vMswap fr)
    | 2 => .ok (.vMstream fr)
    | 3 => .ok (.vMdrain fr)
    | 4 => .ok (.vMclear fr)
    | 5 => .ok (.vMperm fr)
    | _ => .illegal 2
  | 51 =>
    match min with
    | 0 => .ok (.vRoute fr)
    | _ => .illegal 2
  | 52 =>
    match min with
    | 0 => .ok (.vCstart fr)
    | _ => .illegal 2
  | 53 =>
    match min with
    | 0 => .ok (.vHwait fr)
    | 1 => .ok (.vHrel fr)
    | 2 => .ok (.vHstat fr)
    | _ => .illegal 2
  | 56 =>
    match min with
    | 0 => .ok (.vLend fi)
    | 1 => .ok (.vLnop fi)
    | 2 => if fi.imm.toNat / 2 ^ 16 % 2 = 1 then .ok (.vLbrAll fi) else .ok (.vLbrAny fi)
    | 3 => .ok (.vLjmp fi)
    | 4 => .ok (.vRegang fi)
    | 5 => .ok (.vLtrap fi)
    | _ => .illegal 2
  | _ => .illegal 1
/-- The value that little-endian bytes hold (R10). -/
def leNat : List Byte → Nat
  | [] => 0
  | b :: r => b.toNat + 256 * leNat r

/-- The `n` little-endian bytes of a value (R10). -/
def leBytes : Nat → Nat → List Byte
  | 0, _ => []
  | n + 1, v => BitVec.ofNat 8 v :: leBytes n (v / 256)

/-! ## System registers -/

/-- System-register numbers of Table 2 of 01 (R26). -/
def sysregListed (r : Nat) : Bool :=
  r ≤ 3 || (8 ≤ r && r ≤ 0x13) || (0x20 ≤ r && r ≤ 0x24) || (0x40 ≤ r && r ≤ 0x4F)

/-- System registers whose access is not RO (Table 2 of 01, R26): FPCTL, FPSTAT, RUCTL, EVSTAT (per field) and the
five reuse counters. -/
def sysregWritable (r : Nat) : Bool := r ≤ 3 || (0x20 ≤ r && r ≤ 0x24)

/-! ## Scalar words -/

/-- Cause 4 of a system-register instruction: a number not listed, or a write to a read-only one (R26, R227). -/
def sysregCause : Instr → Option Nat
  | .sSysrd _ r => if sysregListed r.toNat then none else some 4
  | .sSyswr _ r => if sysregWritable r.toNat then none else some 4
  | _ => none

/-- Decode a scalar word, or name the lowest cause of the illegal-instruction trap it carries (R69). -/
noncomputable def decodeScalar (w : BitVec 32) : Decoded :=
  match scalarCand w.toNat with
  | .illegal c => .illegal c
  | .ok i =>
    if scalarNat i = w.toNat then
      match sysregCause i with
      | none => .ok i
      | some c => .illegal c
    else .illegal 3

/-! ## Lane words -/

/-- What a lane instruction does with one source field (R61 to R63). -/
inductive SrcKind where
  /-- Not used: must be zero. -/
  | unused
  /-- A predicate source, 656 to 671. -/
  | pred
  /-- A vector source read as 32 bits. -/
  | v32
  /-- A vector source read as a 64-bit pair. -/
  | v64
  /-- The operand of a 32-bit acas: `c` in `vb`, `n` in `vb + 1` (R172). -/
  | v32x2
  /-- The operand of a 64-bit acas: two pairs, `vb` a multiple of 4 (R172). -/
  | v64x2
  deriving DecidableEq, Repr

/-- What a lane instruction does with DST (R59, R63). -/
inductive DstKind where
  | unused
  /-- A predicate index in DST[73:70]. -/
  | pred
  /-- The `.fo` flag of copy in DST[0] (R192). -/
  | flag
  | v32
  | v64
  deriving DecidableEq, Repr

/-- How one lane instruction reads its fields, with its TYPE and IMM already given. -/
structure LaneSpec where
  imm   : Bool
  dst   : DstKind
  a     : SrcKind
  b     : SrcKind
  c     : SrcKind
  d     : SrcKind
  /-- TYPE is accepted (R65). -/
  tyOk  : Bool
  /-- The instruction rounds, and so accepts RND 1 to 4 and 7 (R66, R135). -/
  rnd   : Bool
  /-- The instruction accepts a cache hint (R67, R154). -/
  hint  : Bool
  /-- IMM and the other fields hold a value the instruction allows; cause 3 otherwise. -/
  immOk : Bool
  deriving DecidableEq, Repr

/-- The set S of integer types (Table 2 of 05). -/
def tyS (t : Nat) : Bool := 1 ≤ t && t ≤ 8
/-- The set P of packed integer types (Table 2 of 05). -/
def tyP (t : Nat) : Bool := 0x10 ≤ t && t ≤ 0x13
/-- The set B of bit-operation types (Table 3 of 05). -/
def tyB (t : Nat) : Bool := t == 3 || t == 4 || t == 7 || t == 8
/-- The set F of float types (Table 4 of 05). -/
def tyF (t : Nat) : Bool := (9 ≤ t && t ≤ 0xC) || t == 0x14 || t == 0x15
/-- The unpacked float types. -/
def tyF1 (t : Nat) : Bool := 9 ≤ t && t ≤ 0xC
/-- The types of mov, sel and the cross-lane reads (R149, R150). -/
def tyMov (t : Nat) : Bool := tyB t || t == 0xB || t == 0xC
/-- The signed types of S and P (Table 2 of 05). -/
def tyI (t : Nat) : Bool := (1 ≤ t && t ≤ 4) || t == 0x10 || t == 0x12
/-- The access types of Table 3 of 06 (R159). -/
def tyMem (t : Nat) : Bool := (1 ≤ t && t ≤ 0xC) || (0x10 ≤ t && t ≤ 0x15)
/-- The types that occupy an even/odd pair (R65). -/
def ty64 (t : Nat) : Bool := t == 4 || t == 8 || t == 0xC

/-- A source of the width of type code `t`. -/
def srcT (t : Nat) : SrcKind := if ty64 t then .v64 else .v32
/-- A destination of the width of type code `t`. -/
def dstT (t : Nat) : DstKind := if ty64 t then .v64 else .v32

/-- A register form of the arithmetic chapter: destination and the first `n` sources of TYPE's width. -/
def specArith (n t : Nat) (ok rnd : Bool) : LaneSpec :=
  { imm := false, dst := dstT t, a := srcT t, b := if 2 ≤ n then srcT t else .unused,
    c := if 3 ≤ n then srcT t else .unused, d := if 4 ≤ n then srcT t else .unused,
    tyOk := ok, rnd := rnd, hint := false, immOk := true }

/-- An immediate form of the arithmetic chapter with source a of TYPE's width. -/
def specImm (t : Nat) (ok rnd immOk : Bool) : LaneSpec :=
  { imm := true, dst := dstT t, a := srcT t, b := .unused, c := .unused, d := .unused,
    tyOk := ok, rnd := rnd, hint := false, immOk := immOk }

/-- An engine instruction of majors 0x30 to 0x35 (R180). -/
def specEngine (dst : DstKind) (a b c d : SrcKind) (tyOk rnd : Bool) : LaneSpec :=
  { imm := false, dst := dst, a := a, b := b, c := c, d := d, tyOk := tyOk, rnd := rnd, hint := false, immOk := true }

/-- IMM of gld, gst, gprefetch and the atomics (Table 1 of 06, R156). -/
def addrImmOk (imm : Nat) (atomic : Bool) : Bool :=
  let mode := imm / 2 ^ 18
  mode ≤ 2 && (atomic || mode != 2) && (mode != 0 || imm % 16 == 0)

/-- The address source of those instructions: a pair in flat mode (R156). -/
def addrSrc (imm : Nat) : SrcKind := if imm / 2 ^ 18 = 1 then .v64 else .v32

/-- How the lane instruction with this major, minor, TYPE and IMM reads its fields (Table 11 of 02 and the
descriptions of 05 to 08); none where the code point is not assigned. mdrain rounds
with its float types alone, so with its integer types RND is 0 (R66, R206). DEDUCED (assumption log 69). DESIGN CHOICE: a shift
immediate is held to the element width only where its TYPE is accepted, so a TYPE that is not takes cause 7 alone (R138;
assumption log 71); a displacement above 0xB_FFFF is a good word whose access the probe refuses (R164; assumption log 71). -/
def laneSpec (maj min t imm : Nat) : Option LaneSpec :=
  match maj with
  | 1 =>
    match min with
    | 6 | 0xE => some (specArith 3 t (tyS t || tyP t) false)
    | 5 | 0xB | 0xC => some (specArith 2 t (tyS t) false)
    | 9 => some (specArith 1 t (tyI t) false)
    | 0xA => some (specArith 1 t (tyS t || tyP t) false)
    | _ => if min ≤ 0xE then some (specArith 2 t (tyS t || tyP t) false) else none
  | 2 =>
    match min with
    | 3 | 9 | 0xA | 0xB | 0xC => some (specArith 1 t (tyB t) false)
    | 5 | 6 | 7 | 8 => some (specArith 2 t (tyB t || tyP t) false)
    | 0xE => some (specArith 3 t (tyB t) false)
    | 0xF => some (specArith 4 t (tyB t) false)
    | _ => if min ≤ 0xF then some (specArith 2 t (tyB t) false) else none
  | 3 => if min ≤ 5 then some { specArith 2 t (tyS t) false with dst := .pred } else none
  | 4 =>
    match min with
    | 0 | 1 | 2 => some (specArith 2 t (tyF t) true)
    | 3 => some (specArith 3 t (tyF t) true)
    | 8 | 9 => some (specArith 1 t (tyF t) false)
    | 0xB => some { specArith 1 t (tyF1 t) false with dst := .v32 }
    | _ => if min ≤ 0xB then some (specArith 2 t (tyF t) false) else none
  | 5 => if min ≤ 7 then some { specArith 2 t (tyF1 t) false with dst := .pred } else none
  | 6 => if min ≤ 5 then some (specArith (if min = 3 then 2 else 1) t (tyF t) true) else none
  | 7 =>
    if min = 0x40 then some (specArith 1 t (tyF t) true)
    else if 1 ≤ min ∧ min ≤ 0x0C ∧ min ≠ t then
      some { specArith 1 t (1 ≤ t && t ≤ 0x0C) (!(tyS t && tyS min)) with a := srcT min }
    else none
  | 8 =>
    if min ≤ 2 then
      some { imm := false, dst := .v32, a := .v32, b := .v32, c := .v64, d := .unused,
             tyOk := t == 0x18, rnd := min != 2, hint := false, immOk := true }
    else none
  | 9 =>
    match min with
    | 0 | 1 | 2 | 3 => some { specArith 1 t (t == 0) false with dst := .pred, a := .pred, b := .pred }
    | 4 | 5 | 8 => some { specArith 1 t (t == 0) false with dst := .pred, a := .pred }
    | 6 => some { specArith 1 t (tyB t) false with dst := .pred }
    | 7 => some { specArith 1 t (t == 7) false with dst := .v32, a := .pred }
    | _ => none
  | 0xA =>
    match min with
    | 0 => some (specArith 1 t (tyMov t) false)
    | 1 => some { specArith 2 t (tyMov t) false with c := .pred }
    | _ => none
  | 0xB => if min ≤ 3 then some { specArith 1 t (tyMov t) false with b := .v32 } else none
  | 0xC =>
    if min ≤ 2 then some { specArith 1 t (tyB t || tyF1 t) (min == 0 && tyF1 t) with b := .pred }
    else if min ≤ 5 then some { specArith 1 t (tyB t) false with b := .pred } else none
  | 0xD =>
    match min with
    | 0 => some (specArith 3 t (t == 0x10 || t == 0x11) false)
    | 1 => some (specArith 3 t (t == 0x14 || t == 0x15) true)
    | _ => none
  | 0x11 =>
    if min ≤ 4 ∨ min = 7 ∨ min = 8 then some (specImm t (tyS t) false true) else none
  | 0x12 =>
    match min with
    | 0 | 1 | 2 => some (specImm t (tyB t) false true)
    | 5 | 6 | 7 | 8 => some (specImm t (tyB t) false (!(tyB t) || imm < (if ty64 t then 64 else 32)))
    | 0xD => some (specImm t (tyB t) false (imm / 2 ^ 16 == 0))
    | _ => none
  | 0x13 => if min ≤ 5 then some { specImm t (tyS t) false true with dst := .pred } else none
  | 0x14 =>
    match min with
    | 0 | 2 => some (specImm t (t == 0xB || t == 0xC) true true)
    | 3 => some { specImm t (t == 0xB || t == 0xC) true true with b := srcT t }
    | 4 | 5 => some (specImm t (t == 0xB || t == 0xC) false true)
    | _ => none
  | 0x15 => if min ≤ 7 then some { specImm t (t == 0xB || t == 0xC) false true with dst := .pred } else none
  | 0x1A =>
    match min with
    | 0 => some { specImm t (tyMov t) false true with a := .unused }
    | 1 => some { specImm t (tyMov t) false true with b := .pred }
    | _ => none
  | 0x1B =>
    match min with
    | 0 => some (specImm t (tyMov t) false (imm % 8 ≤ 5 && imm / 8 % 32 < 2 ^ (imm % 8) && imm / 256 == 0))
    | 1 => some (specImm t (tyMov t) false (imm / 32 == 0))
    | 2 | 3 => some (specImm t (tyMov t) false (imm < 96))
    | _ => none
  | 0x20 =>
    match min with
    | 0 => some { specImm t (tyMem t) false true with a := .v32 }
    | 1 => some { specImm t (tyMem t) false true with dst := .unused, a := .v32, b := srcT t }
    | _ => none
  | 0x21 =>
    match min with
    | 0 => some { specImm t (tyMem t) false (addrImmOk imm false) with a := addrSrc imm, hint := true }
    | 1 => some { specImm t (tyMem t) false (addrImmOk imm false) with
                  dst := .unused, a := addrSrc imm, b := srcT t, hint := true }
    | 2 => some { specImm t (t == 0) false (addrImmOk imm false) with
                  dst := .unused, a := addrSrc imm, hint := true }
    | _ => none
  | 0x22 =>
    if 48 ≤ min then none
    else
      match min % 16 with
      | 6 => some { specImm t (tyMov t) false (addrImmOk imm true) with a := addrSrc imm, b := srcT t }
      | 7 => some { specImm t (tyMov t) false (addrImmOk imm true) with
                    a := addrSrc imm, b := if ty64 t then .v64x2 else .v32x2 }
      | 8 => some { specImm t (t == 0xB || t == 0xC) false (addrImmOk imm true) with a := addrSrc imm, b := srcT t }
      | _ =>
        if min % 16 ≤ 5 then some { specImm t (tyB t) false (addrImmOk imm true) with a := addrSrc imm, b := srcT t }
        else none
  | 0x23 =>
    if min = 0 then some { specImm t (t == 7) false (imm ≤ 95) with dst := .v64, a := .v64, b := .v32 } else none
  | 0x24 => if min ≤ 3 then some { specArith 0 t true false with dst := .unused, a := .unused } else none
  | 0x30 => if min = 0 then some (specEngine .flag .v32 .v32 .v64 .v64 (t == 0) false) else none
  | 0x31 =>
    match min with
    | 0 => some (specEngine .unused .v32 .v32 .unused .unused (t == 0) false)
    | 1 => some (specEngine .unused .v32 .v32 .unused .unused (t == 7) false)
    | 2 => some (specEngine .v32 .v32 .unused .unused .unused (t == 7) false)
    | 3 => some (specEngine .v64 .v32 .unused .unused .unused (t == 8) false)
    | _ => none
  | 0x32 =>
    match min with
    | 0 | 2 | 5 => some (specEngine .unused .v32 .v32 .unused .unused (t == 0) false)
    | 1 | 4 => some (specEngine .unused .v32 .unused .unused .unused (t == 0) false)
    | 3 => some (specEngine .unused .v32 .unused .unused .unused (tyF1 t || t == 3 || t == 4) (tyF1 t))
    | _ => none
  | 0x33 => if min = 0 then some (specEngine .unused .v32 .v32 .unused .unused (t == 0) false) else none
  | 0x34 => if min = 0 then some (specEngine .unused .v32 .v32 .v64 .v64 (t == 0) false) else none
  | 0x35 =>
    match min with
    | 0 | 1 => some (specEngine .unused .v32 .v32 .unused .unused (t == 0) false)
    | 2 => some (specEngine .v64 .v32 .unused .unused .unused (t == 8) false)
    | _ => none
  | 0x38 =>
    match min with
    | 0 | 1 => some { specImm t true false true with dst := .unused, a := .unused }
    | 2 => some { specImm t true false (imm / 2 ^ 17 == 0) with dst := .unused, a := .pred }
    | 3 | 5 => some { specImm t true false (imm / 2 ^ 16 == 0) with dst := .unused, a := .unused }
    | 4 => some { specImm t true false (imm == 0) with dst := .unused, a := .unused }
    | _ => none
  | _ => none

/-- The bits of a lane word that its instruction requires to be zero over and above the field rules: everything but
YIELD in a fence and in lnop, everything in lend, and TYPE, RND, HINT, YIELD, NOREUSE and (regang) the guards of the
other control instructions (R80, R81, R154, R231). -/
def laneMustZero (maj min : Nat) (low : Nat) : Bool :=
  match maj with
  | 0x24 => low % 2 ^ 12 == 0 && low / 2 ^ 13 == 0
  | 0x38 =>
    match min with
    | 0 => low == 0
    | 1 => low % 2 ^ 12 == 0 && low / 2 ^ 13 == 0
    | 4 => low % 2 ^ 16 == 0 && low / 2 ^ 40 % 2 ^ 10 == 0
    | _ => low % 2 ^ 16 == 0
  | _ => true

/-- Causes that one source field carries: `v` its value, `fe` its full/empty bit (R61 to R63). -/
def srcCauses (k : SrcKind) (v fe n : Nat) : List Nat :=
  (if fe = 1 ∧ (k = .unused ∨ 640 ≤ v) then [3] else []) ++
  match k with
  | .unused => if v = 0 then [] else [3]
  | .pred => if 656 ≤ v ∧ v ≤ 671 then [] else [5]
  | .v32 => if v < 640 then (if v < n then [] else [4]) else if v ≤ 653 then [] else [5]
  | .v64 | .v32x2 =>
    if v < 640 then (if v < n then [] else [4]) ++ (if v % 2 = 0 then [] else [6])
    else if v ≤ 653 then [] else [5]
  | .v64x2 =>
    if v < 640 then (if v < n then [] else [4]) ++ (if v % 4 = 0 then [] else [6])
    else if v ≤ 653 then [] else [5]

/-- Causes that DST carries (R20, R21, R63). -/
def dstCauses (k : DstKind) (v n : Nat) : List Nat :=
  match k with
  | .unused => if v = 0 then [] else [3]
  | .pred => if v < 16 then [] else [3]
  | .flag => if v < 2 then [] else [3]
  | .v32 => if v < n ∧ v ≤ 639 then [] else [4]
  | .v64 => (if v < n ∧ v ≤ 639 then [] else [4]) ++ (if v % 2 = 0 then [] else [6])

/-- Fields of a lane word given as a number, layout R. -/
def laneRof (w : Nat) : LaneR :=
  { dst := BitVec.ofNat 10 (w / 2 ^ 70), a := BitVec.ofNat 10 (w / 2 ^ 60), b := BitVec.ofNat 10 (w / 2 ^ 50),
    c := BitVec.ofNat 10 (w / 2 ^ 40), d := BitVec.ofNat 10 (w / 2 ^ 30), g1 := BitVec.ofNat 5 (w / 2 ^ 25),
    g2 := BitVec.ofNat 5 (w / 2 ^ 20), fe := BitVec.ofNat 4 (w / 2 ^ 16), hint := BitVec.ofNat 3 (w / 2 ^ 13),
    yd := BitVec.ofNat 1 (w / 2 ^ 12), nr := BitVec.ofNat 1 (w / 2 ^ 11), rsv := BitVec.ofNat 2 (w / 2 ^ 9),
    rnd := BitVec.ofNat 3 (w / 2 ^ 6), ty := BitVec.ofNat 6 w }

/-- Fields of a lane word given as a number, layout I. -/
def laneIof (w : Nat) : LaneI :=
  { dst := BitVec.ofNat 10 (w / 2 ^ 70), a := BitVec.ofNat 10 (w / 2 ^ 60), b := BitVec.ofNat 10 (w / 2 ^ 50),
    g1 := BitVec.ofNat 5 (w / 2 ^ 45), g2 := BitVec.ofNat 5 (w / 2 ^ 40), imm := BitVec.ofNat 20 (w / 2 ^ 20),
    fe := BitVec.ofNat 4 (w / 2 ^ 16), hint := BitVec.ofNat 3 (w / 2 ^ 13), yd := BitVec.ofNat 1 (w / 2 ^ 12),
    nr := BitVec.ofNat 1 (w / 2 ^ 11), rsv := BitVec.ofNat 2 (w / 2 ^ 9), rnd := BitVec.ofNat 3 (w / 2 ^ 6),
    ty := BitVec.ofNat 6 w }

/-- Bits [79:0] of a word in layout R. -/
def LaneR.nat (f : LaneR) : Nat :=
  f.dst.toNat * 2 ^ 70 + f.a.toNat * 2 ^ 60 + f.b.toNat * 2 ^ 50 + f.c.toNat * 2 ^ 40 + f.d.toNat * 2 ^ 30 +
  f.g1.toNat * 2 ^ 25 + f.g2.toNat * 2 ^ 20 + f.fe.toNat * 2 ^ 16 + f.hint.toNat * 2 ^ 13 + f.yd.toNat * 2 ^ 12 +
  f.nr.toNat * 2 ^ 11 + f.rsv.toNat * 2 ^ 9 + f.rnd.toNat * 2 ^ 6 + f.ty.toNat

/-- Bits [79:0] of a word in layout I. -/
def LaneI.nat (f : LaneI) : Nat :=
  f.dst.toNat * 2 ^ 70 + f.a.toNat * 2 ^ 60 + f.b.toNat * 2 ^ 50 + f.g1.toNat * 2 ^ 45 + f.g2.toNat * 2 ^ 40 +
  f.imm.toNat * 2 ^ 20 + f.fe.toNat * 2 ^ 16 + f.hint.toNat * 2 ^ 13 + f.yd.toNat * 2 ^ 12 +
  f.nr.toNat * 2 ^ 11 + f.rsv.toNat * 2 ^ 9 + f.rnd.toNat * 2 ^ 6 + f.ty.toNat

/-- Bits [79:0] of a word. -/
def LaneBody.nat : LaneBody → Nat
  | .r f => f.nat
  | .i f => f.nat

/-- Causes 3 to 9 of an assigned lane word (Table 9 of 02): `n` is the sounder's N (R20), `fpr` FPCTL[10:8] at issue,
against which RND = 7 is resolved (R66, R69). -/
def laneCauses (maj min w n fpr : Nat) : List Nat :=
  let f := laneRof w
  let fi := laneIof w
  let t := f.ty.toNat
  match laneSpec maj min t fi.imm.toNat with
  | none => []
  | some sp =>
    let fe := f.fe.toNat
    let r := f.rnd.toNat
    let h := f.hint.toNat
    (if f.rsv.toNat = 0 then [] else [3]) ++
    (if laneMustZero maj min (w % 2 ^ 80) && sp.immOk then [] else [3]) ++
    dstCauses sp.dst f.dst.toNat n ++
    srcCauses sp.a f.a.toNat (fe / 8) n ++ srcCauses sp.b f.b.toNat (fe / 4 % 2) n ++
    (if sp.imm then (if fe % 4 = 0 then [] else [3])
     else srcCauses sp.c f.c.toNat (fe / 2 % 2) n ++ srcCauses sp.d f.d.toNat (fe % 2) n) ++
    (if sp.tyOk then [] else [7]) ++
    (if r = 5 ∨ r = 6 ∨ (r ≠ 0 ∧ sp.rnd = false) ∨ (r = 7 ∧ 5 ≤ fpr) then [8] else []) ++
    (if 5 ≤ h ∨ (h ≠ 0 ∧ sp.hint = false) then [9] else [])

/-- The lowest of some causes (R69). -/
def lowest : List Nat → Option Nat
  | [] => none
  | c :: r =>
    match lowest r with
    | none => some c
    | some d => some (min c d)

/-- The instruction a lane word names, before causes 3 to 9 are looked at. -/
noncomputable def laneWordCand (w : BitVec 96) : Decoded :=
  laneCand (w.toNat / 2 ^ 88) (w.toNat / 2 ^ 80 % 256) (laneRof w.toNat) (laneIof w.toNat)

/-- Lane majors that Table 11 of 02 assigns (R74). -/
def laneMajorOk (maj : Nat) : Bool :=
  (1 ≤ maj && maj ≤ 0x0D) || (0x11 ≤ maj && maj ≤ 0x15) || maj == 0x1A || maj == 0x1B ||
  (0x20 ≤ maj && maj ≤ 0x24) || (0x30 ≤ maj && maj ≤ 0x35) || maj == 0x38

/-- The lowest cause a lane word carries for a sounder with `n` names and FPCTL[10:8] = `fpr` (R69). -/
def laneIllegal (w : BitVec 96) (n fpr : Nat) : Option Nat :=
  let maj := w.toNat / 2 ^ 88
  let min := w.toNat / 2 ^ 80 % 256
  if laneMajorOk maj = false then some 1
  else if laneSpec maj min (w.toNat % 64) (w.toNat / 2 ^ 20 % 2 ^ 20) = none then some 2
  else lowest (laneCauses maj min w.toNat n fpr)

/-- Decode a lane word, or name its lowest cause that depends on the word alone (N and FPCTL enter at issue). -/
noncomputable def decodeLane (w : BitVec 96) : Decoded :=
  match laneIllegal w 640 0 with
  | some c => .illegal c
  | none => laneWordCand w

/-! ## MCF words -/

/-- An MCF word from its fields (Table 4 of 09, R245). -/
def mcfPack (op d a b c f imm : Nat) : Nat :=
  op * 2 ^ 56 + d * 2 ^ 52 + a * 2 ^ 48 + b * 2 ^ 44 + c * 2 ^ 40 + f * 2 ^ 32 + imm

/-- The word of an MCF instruction (Tables 5 to 8 of 09). -/
def mcfNat : Instr → Nat
  | .mLi d imm => mcfPack 1 d.toNat 0 0 0 0 imm.toNat
  | .mAddi d a imm => mcfPack 2 d.toNat a.toNat 0 0 0 imm.toNat
  | .mAdd d a b => mcfPack 3 d.toNat a.toNat b.toNat 0 0 0
  | .mSub d a b => mcfPack 3 d.toNat a.toNat b.toNat 0 1 0
  | .mAnd d a b => mcfPack 3 d.toNat a.toNat b.toNat 0 2 0
  | .mOr d a b => mcfPack 3 d.toNat a.toNat b.toNat 0 3 0
  | .mXor d a b => mcfPack 3 d.toNat a.toNat b.toNat 0 4 0
  | .mShl d a b => mcfPack 3 d.toNat a.toNat b.toNat 0 5 0
  | .mShr d a b => mcfPack 3 d.toNat a.toNat b.toNat 0 6 0
  | .mMinn d a b => mcfPack 3 d.toNat a.toNat b.toNat 0 7 0
  | .mBAl off => mcfPack 4 0 0 0 0 0 off.toNat
  | .mBEq a b off => mcfPack 4 0 a.toNat b.toNat 0 1 off.toNat
  | .mBNe a b off => mcfPack 4 0 a.toNat b.toNat 0 2 off.toNat
  | .mBLtn a b off => mcfPack 4 0 a.toNat b.toNat 0 3 off.toNat
  | .mBGen a b off => mcfPack 4 0 a.toNat b.toNat 0 4 off.toNat
  | .mBLt a b off => mcfPack 4 0 a.toNat b.toNat 0 5 off.toNat
  | .mBGe a b off => mcfPack 4 0 a.toNat b.toNat 0 6 off.toNat
  | .mMatch d pk kinds tmo => mcfPack 5 d.toNat pk.toNat 0 0 kinds.toNat tmo.toNat
  | .mRdh d pk f => mcfPack 6 d.toNat pk.toNat 0 0 f.toNat 0
  | .mRdm d a f => mcfPack 7 d.toNat a.toNat 0 0 f.toNat 0
  | .mMark d pk => mcfPack 8 d.toNat pk.toNat 0 0 0 0
  | .mHold pk => mcfPack 9 0 pk.toNat 0 0 0 0
  | .mStream a b => mcfPack 0x0A 0 a.toNat b.toNat 0 0 0
  | .mFoldSum d b => mcfPack 0x0B d.toNat 0 b.toNat 0 0 0
  | .mFoldMin d b => mcfPack 0x0B d.toNat 0 b.toNat 0 1 0
  | .mFoldMax d b => mcfPack 0x0B d.toNat 0 b.toNat 0 2 0
  | .mFoldQ d b => mcfPack 0x0B d.toNat 0 b.toNat 0 16 0
  | .mCombSum pk b lo => mcfPack 0x0C 0 pk.toNat b.toNat 0 (lo.toNat * 8) 0
  | .mCombMin pk b lo => mcfPack 0x0C 0 pk.toNat b.toNat 0 (1 + lo.toNat * 8) 0
  | .mCombMax pk b lo => mcfPack 0x0C 0 pk.toNat b.toNat 0 (2 + lo.toNat * 8) 0
  | .mFwd pk k a c => mcfPack 0x0D 0 a.toNat 0 c.toNat (pk.toNat * 4 + k.toNat * 16) 0
  | .mFwdAcc b k a c => mcfPack 0x0D 0 a.toNat b.toNat c.toNat (1 + k.toNat * 16) 0
  | .mDlv a b => mcfPack 0x0E 0 a.toNat b.toNat 0 0 0
  | .mDlvPk a pk => mcfPack 0x0E 0 a.toNat 0 pk.toNat 1 0
  | .mDlvG a pk => mcfPack 0x0E 0 a.toNat 0 pk.toNat 2 0
  | .mArrive a st => mcfPack 0x0F 0 a.toNat 0 0 0 st.toNat
  | .mDrop pk => mcfPack 0x10 0 pk.toNat 0 0 0 0
  | .mTkreq a b => mcfPack 0x11 0 a.toNat b.toNat 0 0 0
  | .mEnd => mcfPack 0x12 0 0 0 0 0 0
  | _ => 0

/-- Which of D, A, B, C, F and IMM the instruction with this opcode and F uses (Tables 6 to 8 of 09). -/
def mcfUses (op f : Nat) : Bool × Bool × Bool × Bool × Bool × Bool :=
  match op with
  | 1 => (true, false, false, false, false, true)
  | 2 => (true, true, false, false, false, true)
  | 3 => (true, true, true, false, true, false)
  | 4 => (false, f != 0, f != 0, false, true, true)
  | 5 => (true, true, false, false, true, true)
  | 6 => (true, true, false, false, true, false)
  | 7 => (true, true, false, false, true, false)
  | 8 => (true, true, false, false, false, false)
  | 9 => (false, true, false, false, false, false)
  | 0xA => (false, true, true, false, false, false)
  | 0xB => (true, false, true, false, true, false)
  | 0xC => (false, true, true, false, true, false)
  | 0xD => (false, true, f % 2 == 1, true, true, false)
  | 0xE => (false, true, f % 4 == 0, f % 4 != 0, true, false)
  | 0xF => (false, true, false, false, false, true)
  | 0x10 => (false, true, false, false, false, false)
  | 0x11 => (false, true, true, false, false, false)
  | _ => (false, false, false, false, false, false)

/-- F and IMM hold values the instruction with this opcode allows (Tables 6 to 8 of 09, R247 to R256). -/
def mcfFOk (op f imm : Nat) : Bool :=
  match op with
  | 3 => f ≤ 7
  | 4 => f ≤ 6
  | 5 => f < 32 && f != 0
  | 6 => f ≤ 6
  | 7 => f ≤ 5
  | 0xB => f ≤ 2 || f == 16
  | 0xC => f % 8 ≤ 2 && f < 16
  | 0xD =>
    let k := f / 16 % 8
    f / 2 % 2 == 0 && f / 128 == 0 && (k == 0 || k == 2 || k == 3) && (f % 2 == 0 || f / 4 % 4 == 0)
  | 0xE => f ≤ 2
  | 0xF => imm == 0 || imm == 1 || imm == 8 || imm == 9
  | _ => true

/-- The lowest refusal cause, 1 to 4 of Table 14 of 19, of an MCF word (R246), none where a load accepts the word. -/
def mcfCause (w : Nat) : Option Nat :=
  let op := w / 2 ^ 56 % 256
  let d := w / 2 ^ 52 % 16
  let a := w / 2 ^ 48 % 16
  let b := w / 2 ^ 44 % 16
  let c := w / 2 ^ 40 % 16
  let f := w / 2 ^ 32 % 256
  let imm := w % 2 ^ 32
  let (ud, ua, ub, uc, uf, ui) := mcfUses op f
  let pkA := op = 5 ∨ op = 6 ∨ op = 8 ∨ op = 9 ∨ op = 0xC ∨ op = 0x10
  if op = 0 ∨ 0x13 ≤ op then some 1
  else if (!ud && d != 0) || (!ua && a != 0) || (!ub && b != 0) || (!uc && c != 0) || (!uf && f != 0)
      || (!ui && imm != 0) then some 2
  else if mcfFOk op f imm = false then some 3
  else if (pkA ∧ 3 < a) ∨ (op = 0xE ∧ f ≠ 0 ∧ 3 < c) then some 4
  else none

/-- The MCF instruction a word names by its opcode and F (Table 5 of 09). -/
noncomputable def mcfCand (w : Nat) : Option Instr :=
  let d := BitVec.ofNat 4 (w / 2 ^ 52)
  let a := BitVec.ofNat 4 (w / 2 ^ 48)
  let b := BitVec.ofNat 4 (w / 2 ^ 44)
  let c := BitVec.ofNat 4 (w / 2 ^ 40)
  let pa := BitVec.ofNat 2 (w / 2 ^ 48)
  let pc := BitVec.ofNat 2 (w / 2 ^ 40)
  let pf := BitVec.ofNat 2 (w / 2 ^ 34)
  let k := BitVec.ofNat 3 (w / 2 ^ 36)
  let f := w / 2 ^ 32 % 256
  let imm := BitVec.ofNat 32 w
  match w / 2 ^ 56 % 256 with
  | 1 => some (.mLi d imm)
  | 2 => some (.mAddi d a imm)
  | 3 =>
    match f with
    | 0 => some (.mAdd d a b) | 1 => some (.mSub d a b) | 2 => some (.mAnd d a b) | 3 => some (.mOr d a b)
    | 4 => some (.mXor d a b) | 5 => some (.mShl d a b) | 6 => some (.mShr d a b) | 7 => some (.mMinn d a b)
    | _ => none
  | 4 =>
    match f with
    | 0 => some (.mBAl imm) | 1 => some (.mBEq a b imm) | 2 => some (.mBNe a b imm) | 3 => some (.mBLtn a b imm)
    | 4 => some (.mBGen a b imm) | 5 => some (.mBLt a b imm) | 6 => some (.mBGe a b imm)
    | _ => none
  | 5 => some (.mMatch d pa (BitVec.ofNat 5 f) imm)
  | 6 => some (.mRdh d pa (BitVec.ofNat 3 f))
  | 7 => some (.mRdm d a (BitVec.ofNat 3 f))
  | 8 => some (.mMark d pa)
  | 9 => some (.mHold pa)
  | 0xA => some (.mStream a b)
  | 0xB =>
    match f with
    | 0 => some (.mFoldSum d b) | 1 => some (.mFoldMin d b) | 2 => some (.mFoldMax d b) | 16 => some (.mFoldQ d b)
    | _ => none
  | 0xC =>
    match f % 8 with
    | 0 => some (.mCombSum pa b (BitVec.ofNat 1 (f / 8)))
    | 1 => some (.mCombMin pa b (BitVec.ofNat 1 (f / 8)))
    | 2 => some (.mCombMax pa b (BitVec.ofNat 1 (f / 8)))
    | _ => none
  | 0xD => if f % 2 = 0 then some (.mFwd pf k a c) else some (.mFwdAcc b k a c)
  | 0xE =>
    match f with
    | 0 => some (.mDlv a b) | 1 => some (.mDlvPk a pc) | 2 => some (.mDlvG a pc)
    | _ => none
  | 0xF => some (.mArrive a (BitVec.ofNat 8 w))
  | 0x10 => some (.mDrop pa)
  | 0x11 => some (.mTkreq a b)
  | 0x12 => some .mEnd
  | _ => none

/-- Decode an MCF word, or name the cause with which a load refuses it (R246). -/
noncomputable def decodeMcf (w : BitVec 64) : Decoded :=
  match mcfCause w.toNat with
  | some c => .illegal c
  | none =>
    match mcfCand w.toNat with
    | none => .illegal 3
    | some i => .ok i

/-! ## Words and bytes -/

/-- The 96-bit word of a lane instruction. -/
def laneNat (i : Instr) : Nat :=
  match laneHead i with
  | none => 0
  | some (maj, min, b) => maj * 2 ^ 88 + min * 2 ^ 80 + b.nat

/-- The width in bits of the words of a stream (R53, R245). -/
def Stream.width : Stream → Nat
  | .scalar => 32
  | .lane => 96
  | .mcf => 64
  | .event => 0

/-- The word of an instruction as a number: of 32 bits for a scalar instruction, 96 for a lane instruction, 64 for an
MCF instruction; 0 for an event, which has none. -/
def wordOf (i : Instr) : Nat :=
  match i.stream with
  | .scalar => scalarNat i
  | .lane => laneNat i
  | .mcf => mcfNat i
  | .event => 0

/-- The bytes of an instruction's word at increasing addresses (R10, R53, R245). -/
def encode (i : Instr) : List Byte := leBytes (i.stream.width / 8) (wordOf i)

/-- Decode the bytes of one word of a stream: none where the word is not an instruction of it. -/
noncomputable def decode (st : Stream) (bs : List Byte) : Decoded :=
  match st with
  | .scalar => decodeScalar (BitVec.ofNat 32 (leNat (bs.take 4)))
  | .lane => decodeLane (BitVec.ofNat 96 (leNat (bs.take 12)))
  | .mcf => decodeMcf (BitVec.ofNat 64 (leNat (bs.take 8)))
  | .event => .illegal 1

/-- The stream whose words are `nbits` wide in the opcode table. -/
def tableStream (nbits : Nat) : Stream := if nbits ≤ 32 then .scalar else if nbits ≤ 64 then .mcf else .lane

/-- The instruction the decoder reads from a table word of `nbits` bits, laid out as the hardware stores it. -/
noncomputable def decodeTableWord (nbits w : Nat) : Option Instr :=
  let st := tableStream nbits
  match decode st (leBytes (st.width / 8) w) with
  | .ok i => some i
  | .illegal _ => none

end Sys2Proof
end

