-- ==== Sys2Proof/Machine/Float.lean ====
section
/-! DEFINITION. Exact float arithmetic: formats, unpacking, one rounding (R84 to R91), the arithmetic of R140 to R145,
and the five exception flags (R86). Values are bit patterns given as numbers; every operation answers the pattern
and the flags it raises. -/

namespace Sys2Proof.Fl

/-- An IEEE-shaped binary format (Table 1 of 03, R84). -/
structure Fmt where
  /-- Width in bits. -/
  w : Nat
  /-- Exponent bits. -/
  e : Nat
  /-- Fraction bits. -/
  m : Nat
  bias : Int
  deriving DecidableEq, Repr

def f16 : Fmt := ⟨16, 5, 10, 15⟩
def bf16 : Fmt := ⟨16, 8, 7, 127⟩
def f32 : Fmt := ⟨32, 8, 23, 127⟩
def f64 : Fmt := ⟨64, 11, 52, 1023⟩

/-- Flags of FPSTAT and FPCTL, by bit (R86). -/
def fNone : Nat := 0
def fInvalid : Nat := 1
def fDivZero : Nat := 2
def fOverflow : Nat := 4
def fUnderflow : Nat := 8
def fInexact : Nat := 16

/-- Rounding modes, coded as RND is (Table 6 of 02). -/
inductive Mode where
  | rn | rz | rp | rm | ra
  deriving DecidableEq, Repr

/-- The mode a resolved RND code names. -/
def modeOf : Nat → Mode
  | 1 => .rz
  | 2 => .rp
  | 3 => .rm
  | 4 => .ra
  | _ => .rn

/-- A value a pattern stands for; `fin s m e` is (−1)^s · m · 2^e. -/
inductive Val where
  | nan (s : Bool) (signalling : Bool) (frac : Nat)
  | inf (s : Bool)
  | fin (s : Bool) (m : Nat) (e : Int)
  deriving DecidableEq, Repr

def Fmt.signBit (f : Fmt) : Nat := 2 ^ (f.w - 1)
/-- Exponent of the least significant bit of a subnormal. -/
def Fmt.qmin (f : Fmt) : Int := 1 - f.bias - f.m
/-- Pattern of +∞. -/
def Fmt.infCode (f : Fmt) : Nat := (2 ^ f.e - 1) * 2 ^ f.m
/-- The default NaN (Table 1 of 03). -/
def Fmt.defNan (f : Fmt) : Nat := f.infCode + 2 ^ (f.m - 1)
def Fmt.sgn (f : Fmt) (x : Nat) : Bool := x / f.signBit % 2 == 1
/-- A pattern with its sign put in. -/
def Fmt.withSign (f : Fmt) (s : Bool) (mag : Nat) : Nat := if s then f.signBit + mag else mag

/-- What a pattern stands for (R84, R85). -/
def Fmt.unpack (f : Fmt) (x : Nat) : Val :=
  let s := f.sgn x
  let ex := x / 2 ^ f.m % 2 ^ f.e
  let fr := x % 2 ^ f.m
  if ex = 2 ^ f.e - 1 then
    if fr = 0 then .inf s else .nan s (fr / 2 ^ (f.m - 1) == 0) fr
  else if ex = 0 then .fin s fr f.qmin
  else .fin s (2 ^ f.m + fr) (f.qmin + (ex - 1 : Int))

/-- The pattern of a NaN of this format, its quiet bit set (R85). -/
def Fmt.quiet (f : Fmt) (s : Bool) (frac : Nat) : Nat :=
  f.withSign s (f.infCode + 2 ^ (f.m - 1) + frac % 2 ^ (f.m - 1))

def isNan : Val → Bool
  | .nan _ _ _ => true
  | _ => false

def isSnan : Val → Bool
  | .nan _ g _ => g
  | _ => false

def isZero : Val → Bool
  | .fin _ 0 _ => true
  | _ => false

def valSign : Val → Bool
  | .nan s _ _ => s
  | .inf s => s
  | .fin s _ _ => s

/-- Number of bits of a number. -/
def bitLen (n : Nat) : Nat := if n = 0 then 0 else Nat.log2 n + 1

/-- One if the rounding of a magnitude goes up: `n` the kept value, the discarded part compared with a half. At a tie of two powers of two
in a format without significand bits (R95) both have an odd significand, and the larger magnitude is taken. DESIGN CHOICE
(assumption log 89). -/
def roundUp (mode : Mode) (s : Bool) (n rem half : Nat) (sticky : Bool) : Bool :=
  let inexact := rem != 0 || sticky
  match mode with
  | .rn => half < rem || (rem == half && half != 0 && (sticky || n % 2 == 1))
  | .ra => half < rem || (rem == half && half != 0)
  | .rz => false
  | .rp => inexact && !s
  | .rm => inexact && s

/-- A magnitude m·2^e (a little more where `sticky`) rounded to units of 2^q: the count of units and whether it is
inexact. -/
def roundUnits (mode : Mode) (s : Bool) (m : Nat) (e q : Int) (sticky : Bool) : Nat × Bool :=
  if q ≤ e then (m * 2 ^ (e - q).toNat + (if roundUp mode s m 0 0 sticky then 1 else 0), sticky)
  else
    let sh := (q - e).toNat
    let n := m / 2 ^ sh
    let rem := m % 2 ^ sh
    (n + (if roundUp mode s n rem (2 ^ (sh - 1)) sticky then 1 else 0), rem != 0 || sticky)

/-- The rounding of a non-zero magnitude into a format of precision `mb + 1` whose subnormals have units 2^qmin and
whose greatest finite magnitude has code `maxCode`: the magnitude's code, none on overflow, and the flags underflow
and inexact (R86, R89; tininess is detected after rounding). -/
def roundMag (mb : Nat) (qmin : Int) (maxCode : Nat) (mode : Mode) (s : Bool) (m : Nat) (e : Int) (sticky : Bool) :
    Option Nat × Nat :=
  let q0 : Int := (bitLen m : Int) + e - (mb + 1)
  let q := if q0 < qmin then qmin else q0
  let (n, nx) := roundUnits mode s m e q sticky
  let code := (q - qmin).toNat * 2 ^ mb + n
  if maxCode < code then (none, fOverflow + fInexact)
  else
    let tiny :=
      if q0 < qmin then
        let (n0, _) := roundUnits mode s m e q0 sticky
        n0 < 2 ^ (qmin + mb - q0).toNat
      else false
    (some code, if nx then (if tiny then fUnderflow + fInexact else fInexact) else 0)

/-- Whether overflow delivers infinity under a mode (R89). -/
def overflowInf (mode : Mode) (s : Bool) : Bool :=
  match mode with
  | .rn => true
  | .ra => true
  | .rz => false
  | .rp => !s
  | .rm => s

/-- round(x, t, m) of a signed magnitude (R89). A zero magnitude keeps the sign given. -/
def Fmt.round (f : Fmt) (mode : Mode) (s : Bool) (m : Nat) (e : Int) (sticky : Bool) : Nat × Nat :=
  if m = 0 ∧ sticky = false then (f.withSign s 0, 0)
  else
    match roundMag f.m f.qmin (f.infCode - 1) mode s m e sticky with
    | (some c, fl) => (f.withSign s c, fl)
    | (none, fl) => (f.withSign s (if overflowInf mode s then f.infCode else f.infCode - 1), fl)

/-- The first NaN of some operands in source-field order, quieted (R85). -/
def Fmt.firstNan (f : Fmt) : List Val → Option Nat
  | [] => none
  | .nan s _ fr :: _ => some (f.quiet s fr)
  | _ :: r => f.firstNan r

/-- The NaN an operation delivers when an operand is NaN, and invalid where one signals (R85, R86). DESIGN CHOICE: for the elementary
functions too, where Table 7 of 05 names R85 and the line under it the default NaN (R143; assumption log 70). -/
def Fmt.nanOf (f : Fmt) (vs : List Val) : Option (Nat × Nat) :=
  match f.firstNan vs with
  | none => none
  | some n => some (n, if vs.any isSnan then fInvalid else 0)

/-- A signed dyadic number as an integer count of units 2^q. -/
def sInt (s : Bool) (m : Nat) (e q : Int) : Int :=
  let n : Int := m * 2 ^ (e - q).toNat
  if s then -n else n

/-- The exact sum of two finite values, rounded once (R89): the sign of an exact zero is that of both operands where
they agree, else + (− under .rm). -/
def Fmt.addFin (f : Fmt) (mode : Mode) (s1 : Bool) (m1 : Nat) (e1 : Int) (s2 : Bool) (m2 : Nat) (e2 : Int) :
    Nat × Nat :=
  let q := if e1 < e2 then e1 else e2
  let t := sInt s1 m1 e1 q + sInt s2 m2 e2 q
  if t = 0 then (f.withSign (if s1 = s2 then s1 else mode == .rm) 0, 0)
  else f.round mode (decide (t < 0)) t.natAbs q false

def Fmt.addV (f : Fmt) (mode : Mode) (a b : Val) : Nat × Nat :=
  match f.nanOf [a, b] with
  | some r => r
  | none =>
    match a, b with
    | .inf s, .inf t => if s = t then (f.withSign s f.infCode, 0) else (f.defNan, fInvalid)
    | .inf s, _ => (f.withSign s f.infCode, 0)
    | _, .inf t => (f.withSign t f.infCode, 0)
    | .fin s1 m1 e1, .fin s2 m2 e2 => f.addFin mode s1 m1 e1 s2 m2 e2
    | _, _ => (f.defNan, 0)

def negV : Val → Val
  | .nan s g fr => .nan s g fr
  | .inf s => .inf (!s)
  | .fin s m e => .fin (!s) m e

/-- a + b (R140). -/
def Fmt.add (f : Fmt) (mode : Mode) (a b : Nat) : Nat × Nat := f.addV mode (f.unpack a) (f.unpack b)
/-- a − b (R140); a NaN operand is delivered with its own sign (R85). -/
def Fmt.sub (f : Fmt) (mode : Mode) (a b : Nat) : Nat × Nat := f.addV mode (f.unpack a) (negV (f.unpack b))

/-- a × b (R140). -/
def Fmt.mul (f : Fmt) (mode : Mode) (a b : Nat) : Nat × Nat :=
  let va := f.unpack a
  let vb := f.unpack b
  match f.nanOf [va, vb] with
  | some r => r
  | none =>
    let s := valSign va != valSign vb
    match va, vb with
    | .fin _ m1 e1, .fin _ m2 e2 => f.round mode s (m1 * m2) (e1 + e2) false
    | _, _ => if isZero va || isZero vb then (f.defNan, fInvalid) else (f.withSign s f.infCode, 0)

/-- Whether a product is 0 × ∞. -/
def zeroTimesInf (a b : Val) : Bool :=
  match a, b with
  | .inf _, .fin _ 0 _ => true
  | .fin _ 0 _, .inf _ => true
  | _, _ => false

/-- a × b + c with one rounding (R140); 0 × ∞ raises invalid whatever c is. -/
def Fmt.fma (f : Fmt) (mode : Mode) (a b c : Nat) : Nat × Nat :=
  let va := f.unpack a
  let vb := f.unpack b
  let vc := f.unpack c
  match f.nanOf [va, vb, vc] with
  | some (n, fl) => (n, if zeroTimesInf va vb then fInvalid else fl)
  | none =>
    let s := valSign va != valSign vb
    match va, vb, vc with
    | .fin _ m1 e1, .fin _ m2 e2, .fin s3 m3 e3 => f.addFin mode s (m1 * m2) (e1 + e2) s3 m3 e3
    | .fin _ _ _, .fin _ _ _, .inf s3 => (f.withSign s3 f.infCode, 0)
    | _, _, .inf s3 =>
      if zeroTimesInf va vb || s != s3 then (f.defNan, fInvalid) else (f.withSign s f.infCode, 0)
    | _, _, _ => if zeroTimesInf va vb then (f.defNan, fInvalid) else (f.withSign s f.infCode, 0)

/-- totalOrder key of a pattern (R109). -/
def Fmt.key (f : Fmt) (x : Nat) : Nat := if f.sgn x then 2 ^ f.w - 1 - x % 2 ^ f.w else x + f.signBit

/-- a < b by value with −0 below +0, for two patterns that are no NaN: their totalOrder keys compared (R106, R140). -/
def Fmt.ltOrd (f : Fmt) (a b : Nat) : Bool := f.key a < f.key b

/-- IEEE 754 minimum or maximum (R140, R106): a NaN if an operand is one. -/
def Fmt.minmax (f : Fmt) (isMax : Bool) (a b : Nat) : Nat × Nat :=
  match f.nanOf [f.unpack a, f.unpack b] with
  | some r => r
  | none => (if f.ltOrd a b != isMax then a else b, 0)

/-- IEEE 754 minimumNumber or maximumNumber (R140): exactly one NaN delivers the other operand unchanged. -/
def Fmt.minmaxNum (f : Fmt) (isMax : Bool) (a b : Nat) : Nat × Nat :=
  let va := f.unpack a
  let vb := f.unpack b
  let fl := if isSnan va || isSnan vb then fInvalid else 0
  if isNan va && isNan vb then ((f.firstNan [va, vb]).getD f.defNan, fl)
  else if isNan va then (b, fl)
  else if isNan vb then (a, fl)
  else (if f.ltOrd a b != isMax then a else b, 0)

/-- The class mask of fclass (Table 5 of 05, R141). -/
def Fmt.classify (f : Fmt) (a : Nat) : Nat :=
  match f.unpack a with
  | .inf true => 2 ^ 0
  | .inf false => 2 ^ 7
  | .nan _ true _ => 2 ^ 8
  | .nan _ false _ => 2 ^ 9
  | .fin s m _ =>
    let normal := 2 ^ f.m ≤ m
    if m = 0 then (if s then 2 ^ 3 else 2 ^ 4)
    else if normal then (if s then 2 ^ 1 else 2 ^ 6)
    else (if s then 2 ^ 2 else 2 ^ 5)

/-- Order of two values that are no NaN: less, equal or greater, −0 equal to +0 (R142). -/
def Fmt.cmpVal (f : Fmt) (a b : Nat) : Ordering :=
  if isZero (f.unpack a) && isZero (f.unpack b) then .eq else compare (f.key a) (f.key b)

/-- The relation cc of fcmp (Table 6 of 05, R142), coded as its minor, with the flags raised. -/
def Fmt.fcmp (f : Fmt) (cc : Nat) (a b : Nat) : Bool × Nat :=
  let va := f.unpack a
  let vb := f.unpack b
  let un := isNan va || isNan vb
  let snan := isSnan va || isSnan vb
  let fl := if (2 ≤ cc && cc ≤ 5 && un) || snan then fInvalid else 0
  let o := f.cmpVal a b
  let r :=
    match cc with
    | 0 => !un && o == .eq
    | 1 => un || o != .eq
    | 2 => !un && o == .lt
    | 3 => !un && o != .gt
    | 4 => !un && o == .gt
    | 5 => !un && o != .lt
    | 6 => un
    | _ => !un
  (r, fl)

/-! ## Division, roots, exp2 and log2 (R90, R143) -/

/-- The integer part of the square root, one bit at a time from bit `k − 1` down. -/
def isqrtAux : Nat → Nat → Nat → Nat
  | 0, r, _ => r
  | k + 1, r, n => isqrtAux k (if (r + 2 ^ k) * (r + 2 ^ k) ≤ n then r + 2 ^ k else r) n

def isqrt (n : Nat) : Nat := isqrtAux (bitLen n / 2 + 1) 0 n

/-- m1·2^e1 ÷ m2·2^e2 to `p` bits and more, as a magnitude, an exponent and whether a remainder is left. -/
def divMag (p m1 : Nat) (e1 : Int) (m2 : Nat) (e2 : Int) : Nat × Int × Bool :=
  let k := p + bitLen m2 - bitLen m1
  let n := m1 * 2 ^ k
  (n / m2, e1 - e2 - k, n % m2 != 0)

/-- a ÷ b (R143). -/
def Fmt.div (f : Fmt) (mode : Mode) (a b : Nat) : Nat × Nat :=
  let va := f.unpack a
  let vb := f.unpack b
  match f.nanOf [va, vb] with
  | some r => r
  | none =>
    let s := valSign va != valSign vb
    match va, vb with
    | .inf _, .inf _ => (f.defNan, fInvalid)
    | .inf _, _ => (f.withSign s f.infCode, 0)
    | _, .inf _ => (f.withSign s 0, 0)
    | .fin _ m1 e1, .fin _ m2 e2 =>
      if m2 = 0 then (if m1 = 0 then (f.defNan, fInvalid) else (f.withSign s f.infCode, fDivZero))
      else if m1 = 0 then (f.withSign s 0, 0)
      else
        let (n, e, st) := divMag (f.m + 5) m1 e1 m2 e2
        f.round mode s n e st
    | _, _ => (f.defNan, 0)

/-- 1 ÷ a (R143, Table 7 of 05). -/
def Fmt.rcp (f : Fmt) (mode : Mode) (a : Nat) : Nat × Nat := f.div mode (f.bias.toNat * 2 ^ f.m) a

/-- √a (R143). -/
def Fmt.sqrt (f : Fmt) (mode : Mode) (a : Nat) : Nat × Nat :=
  let va := f.unpack a
  match f.nanOf [va] with
  | some r => r
  | none =>
    match va with
    | .inf s => if s then (f.defNan, fInvalid) else (f.infCode, 0)
    | .fin s m e =>
      if m = 0 then (f.withSign s 0, 0)
      else if s then (f.defNan, fInvalid)
      else
        let k := 2 * (f.m + 4) + (if e % 2 = 0 then 0 else 1)
        let n := m * 2 ^ k
        let r := isqrt n
        f.round mode false r ((e - k) / 2) (r * r != n)
    | .nan _ _ _ => (f.defNan, 0)

/-- 1 ÷ √a (R143, Table 7 of 05). -/
def Fmt.rsq (f : Fmt) (mode : Mode) (a : Nat) : Nat × Nat :=
  let va := f.unpack a
  match f.nanOf [va] with
  | some r => r
  | none =>
    match va with
    | .inf s => if s then (f.defNan, fInvalid) else (0, 0)
    | .fin s m e =>
      if m = 0 then (f.withSign s f.infCode, fDivZero)
      else if s then (f.defNan, fInvalid)
      else
        -- 1/√(m·2^e) = √(2^j ÷ m) · 2^(−(e + j)/2) with e + j even
        let j0 := 2 * (f.m + 5) + bitLen m
        let j := if (e + j0) % 2 = 0 then j0 else j0 + 1
        let n := 2 ^ j / m
        let r := isqrt n
        f.round mode false r (-((e + j) / 2)) (r * r * m != 2 ^ j)
    | .nan _ _ _ => (f.defNan, 0)

/-- Bounds of a number between two fixed-point values. -/
structure Iv where
  lo : Nat
  hi : Nat
  deriving DecidableEq, Repr

/-- Sum of the series z + z³/3 + z⁵/5 + … at `p` fraction bits: `t` bounds the current power, `z2` bounds z². -/
def atanhSum (p : Nat) (z2 : Iv) : Nat → Nat → Iv → Iv → Iv
  | 0, _, t, acc => ⟨acc.lo, acc.hi + 2 * t.hi + 2⟩
  | k + 1, d, t, acc =>
    atanhSum p z2 k (d + 2) ⟨t.lo * z2.lo / 2 ^ p, t.hi * z2.hi / 2 ^ p + 1⟩
      ⟨acc.lo + t.lo / d, acc.hi + t.hi / d + 1⟩

/-- Bounds of ln(num ÷ den) for den ≤ num ≤ 2·den at `p` fraction bits, by 2·atanh((num − den) ÷ (num + den)). -/
def lnRatio (p num den : Nat) : Iv :=
  let zl := (num - den) * 2 ^ p / (num + den)
  let zh := zl + 1
  let s := atanhSum p ⟨zl * zl / 2 ^ p, zh * zh / 2 ^ p + 1⟩ (p / 3 + 2) 1 ⟨zl, zh⟩ ⟨0, 0⟩
  ⟨2 * s.lo, 2 * s.hi⟩

/-- Bounds of ln 2. -/
def ln2 (p : Nat) : Iv := lnRatio p 2 1

/-- Sum of the terms of exp(y) from the current one on, for 0 ≤ y < 1. -/
def expSum (p : Nat) (y : Iv) : Nat → Nat → Iv → Iv → Iv
  | 0, _, t, acc => ⟨acc.lo, acc.hi + 2 * t.hi + 2⟩
  | n + 1, k, t, acc =>
    expSum p y n (k + 1) ⟨t.lo * y.lo / 2 ^ p / k, t.hi * y.hi / 2 ^ p / k + 1⟩ ⟨acc.lo + t.lo, acc.hi + t.hi⟩

/-- Bounds of 2^f at `p` fraction bits, for f = fr ÷ 2^fb in (0, 1). -/
def exp2Frac (p fr fb : Nat) : Iv :=
  let l := ln2 p
  expSum p ⟨fr * l.lo / 2 ^ fb, fr * l.hi / 2 ^ fb + 1⟩ (p / 3 + 12) 1 ⟨2 ^ p, 2 ^ p⟩ ⟨0, 0⟩

/-- Round the irrational number within bounds (units 2^e), with more bits while the two ends round apart. -/
def Fmt.settle (f : Fmt) (mode : Mode) (s : Bool) (bnd : Nat → Iv × Int) : Nat → Nat → Nat × Nat
  | 0, p => f.round mode s (bnd p).1.lo (bnd p).2 true
  | k + 1, p =>
    let (iv, e) := bnd p
    let a := f.round mode s iv.lo e true
    let b := f.round mode s (iv.hi - 1) e true
    if a = b ∧ f.m + 4 ≤ bitLen iv.lo then a else f.settle mode s bnd k (2 * p)

/-- 2^a (R143, Table 7 of 05): exact where a is an integer. -/
def Fmt.exp2 (f : Fmt) (mode : Mode) (a : Nat) : Nat × Nat :=
  let va := f.unpack a
  match f.nanOf [va] with
  | some r => r
  | none =>
    match va with
    | .inf s => if s then (0, 0) else (f.infCode, 0)
    | .nan _ _ _ => (f.defNan, 0)
    | .fin s m e =>
      let one := f.bias.toNat * 2 ^ f.m
      if m = 0 then (one, 0)
      else if 12 < (bitLen m : Int) + e then
        -- 4096 and more in magnitude: beyond the range of every format
        f.round mode false 1 (if s then -4096 else 4096) true
      else if (bitLen m : Int) + e < -(f.m + 10 : Int) then
        -- within 2^−(M+10) of 1, above or below it
        if s then f.round mode false (2 ^ (f.m + 10) - 1) (-(f.m + 10 : Int)) true
        else f.round mode false (2 ^ (f.m + 10)) (-(f.m + 10 : Int)) true
      else
        let fb := if e < 0 then (-e).toNat else 0
        let u : Int := if 0 ≤ e then m * 2 ^ e.toNat else m
        let u := if s then -u else u
        let n := u / 2 ^ fb
        let fr := (u % 2 ^ fb).toNat
        if fr = 0 then f.round mode false 1 n false
        else f.settle mode false (fun p => (exp2Frac p fr fb, n - p)) 7 64

/-- Bounds of |E + log2(num ÷ 2^k)| at `p` fraction bits, 1 ≤ num ÷ 2^k < 2; the sign is that of E. -/
def log2Bound (E : Int) (num k p : Nat) : Iv :=
  let l2 := ln2 p
  let l := lnRatio p num (2 ^ k)
  let lo := l.lo * 2 ^ p / l2.hi
  let hi := l.hi * 2 ^ p / l2.lo + 1
  if 0 ≤ E then ⟨E.toNat * 2 ^ p + lo, E.toNat * 2 ^ p + hi⟩
  else ⟨(-E).toNat * 2 ^ p - hi, (-E).toNat * 2 ^ p - lo⟩

/-- log2 a (R143, Table 7 of 05): exact where a is a power of two, and log2 1 is +0. -/
def Fmt.log2 (f : Fmt) (mode : Mode) (a : Nat) : Nat × Nat :=
  let va := f.unpack a
  match f.nanOf [va] with
  | some r => r
  | none =>
    match va with
    | .inf s => if s then (f.defNan, fInvalid) else (f.infCode, 0)
    | .nan _ _ _ => (f.defNan, 0)
    | .fin s m e =>
      if m = 0 then (f.withSign true f.infCode, fDivZero)
      else if s then (f.defNan, fInvalid)
      else
        let k := bitLen m - 1
        let E : Int := e + k
        if m = 2 ^ k then f.round mode (decide (E < 0)) E.natAbs 0 false
        else f.settle mode (decide (E < 0)) (fun p => (log2Bound E m k p, -(p : Int))) 7 64

/-! ## Conversions (R85, R91, R144, R145) -/

/-- A float pattern converted to another float format (R144): NaN payloads as R85 places them. DESIGN CHOICE: between f16 and bf16,
neither of which is the narrower, the fraction keeps its top bits and the quiet bit is set (R85, R144; assumption log 70). -/
def cvtFF (src dst : Fmt) (mode : Mode) (a : Nat) : Nat × Nat :=
  match src.unpack a with
  | .inf s => (dst.withSign s dst.infCode, 0)
  | .fin s m e => dst.round mode s m e false
  | .nan s g fr =>
    let fr' := if dst.m ≤ src.m then fr / 2 ^ (src.m - dst.m) else fr * 2 ^ (dst.m - src.m)
    (dst.quiet s fr', if g then fInvalid else 0)

/-- An integer rounded to a float format (R91). -/
def cvtIF (dst : Fmt) (mode : Mode) (v : Int) : Nat × Nat :=
  dst.round mode (decide (v < 0)) v.natAbs 0 false

/-- A finite value rounded to an integer under a mode: the magnitude and whether it is inexact. -/
def roundInt (mode : Mode) (s : Bool) (m : Nat) (e : Int) : Nat × Bool := roundUnits mode s m e 0 false

/-- A float converted to an integer with least and greatest values `lo` and `hi` (R91). -/
def cvtFI (src : Fmt) (mode : Mode) (lo hi : Int) (a : Nat) : Int × Nat :=
  match src.unpack a with
  | .nan _ _ _ => (0, fInvalid)
  | .inf s => (if s then lo else hi, fInvalid)
  | .fin s m e =>
    let (n, nx) := roundInt mode s m e
    let v : Int := if s then -n else n
    if v < lo then (lo, fInvalid)
    else if hi < v then (hi, fInvalid)
    else (v, if nx then fInexact else 0)

/-- frint (R145): the integral value the mode selects, invalid on a signalling NaN and nothing else. -/
def Fmt.frint (f : Fmt) (mode : Mode) (a : Nat) : Nat × Nat :=
  match f.unpack a with
  | .nan s g fr => (f.quiet s fr, if g then fInvalid else 0)
  | .inf _ => (a, 0)
  | .fin s m e => ((f.round mode s (roundInt mode s m e).1 0 false).1, 0)

/-! ## Sums of several terms -/

/-- A finite sum over exact dyadic terms, in units of 2^q for the least exponent among them. -/
def sumTerms : List (Bool × Nat × Int) → Int × Int
  | [] => (0, 0)
  | [(s, m, e)] => (sInt s m e e, e)
  | (s, m, e) :: r =>
    let (t, q) := sumTerms r
    let q' := if e < q then e else q
    (t * 2 ^ (q - q').toNat + sInt s m e q', q')

/-- p0 + p1 + c rounded once (R104), the products of exact f16 or bf16 values and c an f32; NaN operands are taken in
the order a0, b0, a1, b1, c, already widened to f32 (R85, R153). -/
def dp2 (src : Fmt) (mode : Mode) (a0 b0 a1 b1 c : Nat) : Nat × Nat :=
  let wide := fun x => f32.unpack (cvtFF src f32 .rn x).1
  let raw := [src.unpack a0, src.unpack b0, src.unpack a1, src.unpack b1, f32.unpack c]
  let va0 := wide a0
  let vb0 := wide b0
  let va1 := wide a1
  let vb1 := wide b1
  let vc := f32.unpack c
  let zi := zeroTimesInf va0 vb0 || zeroTimesInf va1 vb1
  match f32.firstNan [va0, vb0, va1, vb1, vc] with
  | some n => (n, if raw.any isSnan || zi then fInvalid else 0)
  | none =>
    if zi then (f32.defNan, fInvalid)
    else
      let s0 := valSign va0 != valSign vb0
      let s1 := valSign va1 != valSign vb1
      let isInf : Val → Bool := fun v => match v with | .inf _ => true | _ => false
      let infs := (if isInf va0 || isInf vb0 then [s0] else []) ++ (if isInf va1 || isInf vb1 then [s1] else []) ++
        (if isInf vc then [valSign vc] else [])
      match infs with
      | s :: r => if r.all (· == s) then (f32.withSign s f32.infCode, 0) else (f32.defNan, fInvalid)
      | [] =>
        match va0, vb0, va1, vb1, vc with
        | .fin _ m0 e0, .fin _ n0 g0, .fin _ m1 e1, .fin _ n1 g1, .fin s3 m3 e3 =>
          let (t, q) := sumTerms [(s0, m0 * n0, e0 + g0), (s1, m1 * n1, e1 + g1), (s3, m3, e3)]
          if t = 0 then
            (f32.withSign (if s0 = s1 ∧ s1 = s3 then s0 else mode == .rm) 0, 0)
          else f32.round mode (decide (t < 0)) t.natAbs q false
        | _, _, _, _, _ => (f32.defNan, 0)

end Sys2Proof.Fl
end

