-- ==== Sys2Proof/Machine/Alu.lean ====
section
/-! DEFINITION. Integer and bit arithmetic at a width, shared by the scalar stream (R115), the lanes (R137 to R139) and
the MCF threads (R247); and how a lane's 32 or 64 bits hold the elements of a type (R82). -/

namespace Sys2Proof.Alu

/-- A value of `w` bits read as signed or unsigned. -/
def toI (sg : Bool) (w x : Nat) : Int :=
  let v := x % 2 ^ w
  if sg && decide (2 ^ w ≤ 2 * v) then (v : Int) - 2 ^ w else v

/-- The exact value wrapped to `w` bits (R83). -/
def wrap (w : Nat) (v : Int) : Nat := (v % 2 ^ w).toNat

/-- Least and greatest value of an integer type. -/
def iMin (sg : Bool) (w : Nat) : Int := if sg then -(2 ^ (w - 1)) else 0
def iMax (sg : Bool) (w : Nat) : Int := if sg then 2 ^ (w - 1) - 1 else 2 ^ w - 1

/-- The exact value saturated to a type (R137). -/
def sat (sg : Bool) (w : Nat) (v : Int) : Nat :=
  wrap w (if v < iMin sg w then iMin sg w else if iMax sg w < v then iMax sg w else v)

/-- `n` copies of the top bit of a `w`-bit value entering from the left. -/
def sraN (w x n : Nat) : Nat := wrap w (toI true w x / 2 ^ n)

/-- Division truncated toward zero; all ones for a zero divisor; the least value for least ÷ −1 (R115, R137). -/
def divT (sg : Bool) (w a b : Nat) : Nat :=
  if b % 2 ^ w = 0 then 2 ^ w - 1 else wrap w ((toI sg w a).tdiv (toI sg w b))

/-- Remainder with the sign of the dividend; the dividend for a zero divisor; 0 for least rem −1 (R115, R137). -/
def remT (sg : Bool) (w a b : Nat) : Nat :=
  if b % 2 ^ w = 0 then a % 2 ^ w else wrap w ((toI sg w a).tmod (toI sg w b))

/-- High `w` bits of the exact double-width product. -/
def mulH (sg : Bool) (w a b : Nat) : Nat := wrap w (toI sg w a * toI sg w b / 2 ^ w)

def iLess (sg : Bool) (w a b : Nat) : Bool := toI sg w a < toI sg w b
def minI (sg : Bool) (w a b : Nat) : Nat := (if iLess sg w b a then b else a) % 2 ^ w
def maxI (sg : Bool) (w a b : Nat) : Nat := (if iLess sg w a b then b else a) % 2 ^ w

def popCount : Nat → Nat → Nat
  | 0, _ => 0
  | k + 1, x => x % 2 + popCount k (x / 2)

/-- Leading zeros of a `w`-bit value; w for 0. -/
def clz (w x : Nat) : Nat := w - Fl.bitLen (x % 2 ^ w)

/-- Trailing zeros among the low `w` bits; w for 0. -/
def ctz : Nat → Nat → Nat
  | 0, _ => 0
  | k + 1, x => if x % 2 = 1 then 0 else 1 + ctz k (x / 2)

/-- The low `w` bits in reverse order. -/
def brev : Nat → Nat → Nat
  | 0, _ => 0
  | k + 1, x => x % 2 * 2 ^ k + brev k (x / 2)

def rotl (w x n : Nat) : Nat := (x * 2 ^ n) % 2 ^ w + x / 2 ^ (w - n)

def notW (w x : Nat) : Nat := 2 ^ w - 1 - x % 2 ^ w
def andN (a b : Nat) : Nat := a &&& b
def orN (a b : Nat) : Nat := a ||| b
def xorN (a b : Nat) : Nat := a ^^^ b

/-- Bits kept of a field at `pos` of `len` bits in a `w`-bit value, cut at bit w − 1 (R138). -/
def fieldLen (w pos len : Nat) : Nat := if w ≤ pos then 0 else min len (w - pos)

/-- The field of a, extended (R138). -/
def bfext (sg : Bool) (w a pos len : Nat) : Nat :=
  let n := fieldLen w pos len
  if n = 0 then 0 else wrap w (toI sg n (a / 2 ^ pos))

/-- a with the field replaced by the low bits of c (R138). -/
def bfins (w a pos len c : Nat) : Nat :=
  let n := fieldLen w pos len
  if n = 0 then a else a % 2 ^ pos + (c % 2 ^ n) * 2 ^ pos + a / 2 ^ (pos + n) * 2 ^ (pos + n)

/-- Bit by bit table look-up of three inputs (R138). -/
def tlut : Nat → Nat → Nat → Nat → Nat → Nat
  | 0, _, _, _, _ => 0
  | k + 1, a, b, c, t =>
    t / 2 ^ (a % 2 + 2 * (b % 2) + 4 * (c % 2)) % 2 + 2 * tlut k (a / 2) (b / 2) (c / 2) t

/-- log2 of an element width. -/
def logW (w : Nat) : Nat := Nat.log2 w

/-- The integer operations of Tables 2 and 3 of 05 that take up to three operands. -/
inductive Op where
  | add | sub | addSat | subSat | mul | mulHi | mad | min | max | abs | neg | div | rem | avg | sad
  | and | or | xor | not | andn | shl | shr | sra | rotl | popc | clz | ctz | brev
  deriving DecidableEq, Repr

/-- One element of an integer or bit operation at width `w` (Tables 2 and 3 of 05). -/
def elem (op : Op) (sg : Bool) (w a b c : Nat) : Nat :=
  let x := toI sg w a
  let y := toI sg w b
  let z := toI sg w c
  let au := a % 2 ^ w
  let bu := b % 2 ^ w
  let n := b % 2 ^ logW w
  match op with
  | .add => wrap w (x + y)
  | .sub => wrap w (x - y)
  | .addSat => sat sg w (x + y)
  | .subSat => sat sg w (x - y)
  | .mul => wrap w (x * y)
  | .mulHi => mulH sg w a b
  | .mad => wrap w (x * y + z)
  | .min => minI sg w a b
  | .max => maxI sg w a b
  | .abs => wrap w x.natAbs
  | .neg => wrap w (-x)
  | .div => divT sg w a b
  | .rem => remT sg w a b
  | .avg => wrap w ((x + y + 1) / 2)
  | .sad => wrap w ((x - y).natAbs + z)
  | .and => au &&& bu
  | .or => au ||| bu
  | .xor => au ^^^ bu
  | .not => notW w a
  | .andn => au &&& notW w b
  | .shl => au * 2 ^ n % 2 ^ w
  | .shr => au / 2 ^ n
  | .sra => sraN w a n
  | .rotl => rotl w au n
  | .popc => popCount w a
  | .clz => clz w a
  | .ctz => ctz w a
  | .brev => brev w a

/-- The relation cc of icmp, coded as its minor (R139). -/
def icmp (cc : Nat) (sg : Bool) (w a b : Nat) : Bool :=
  let x := toI sg w a
  let y := toI sg w b
  match cc with
  | 0 => x == y
  | 1 => x != y
  | 2 => x < y
  | 3 => x ≤ y
  | 4 => y < x
  | _ => y ≤ x

/-! ## Elements of a lane (R82, Table 5 of 02) -/

/-- Element width and element count of a type code. -/
def shape (t : Nat) : Nat × Nat :=
  match t with
  | 1 => (8, 1) | 2 => (16, 1) | 3 => (32, 1) | 4 => (64, 1)
  | 5 => (8, 1) | 6 => (16, 1) | 7 => (32, 1) | 8 => (64, 1)
  | 9 => (16, 1) | 0xA => (16, 1) | 0xB => (32, 1) | 0xC => (64, 1)
  | 0x10 => (8, 4) | 0x11 => (8, 4) | 0x12 => (16, 2) | 0x13 => (16, 2) | 0x14 => (16, 2) | 0x15 => (16, 2)
  | _ => (32, 1)

/-- The type reads its elements as signed. -/
def signedT (t : Nat) : Bool := (1 ≤ t && t ≤ 4) || t == 0x10 || t == 0x12

/-- The float format of the type's elements. -/
def fmtT (t : Nat) : Fl.Fmt :=
  match t with
  | 9 => Fl.f16 | 0x14 => Fl.f16
  | 0xA => Fl.bf16 | 0x15 => Fl.bf16
  | 0xC => Fl.f64
  | _ => Fl.f32

/-- Width in bits of the register operand of a type: a 64-bit type takes a pair (R65). -/
def regW (t : Nat) : Nat := if (shape t).1 = 64 then 64 else 32

/-- A result element of a single-element type extended to its register (R82): sign-extended for i8 and i16, else
zero-extended. -/
def extend (t r : Nat) : Nat :=
  let w := (shape t).1
  if signedT t && w < 32 then wrap 32 (toI true w r) else r % 2 ^ w

/-- Apply an element operation to elements i, i + 1, … of packed operands, each apart, joining the flags (R82). -/
def packed (w : Nat) (f : Nat → Nat → Nat → Nat → Nat × Nat) : Nat → Nat → Nat → Nat → Nat → Nat × Nat
  | 0, _, _, _, _ => (0, 0)
  | n + 1, a, b, c, d =>
    let m := 2 ^ w
    let (r, fl) := f (a % m) (b % m) (c % m) (d % m)
    let (q, g) := packed w f n (a / m) (b / m) (c / m) (d / m)
    (r % m + m * q, fl ||| g)

/-- One lane of an operation that works element by element on type `t` (R82, R132). -/
def perLane (t : Nat) (f : Nat → Nat → Nat → Nat → Nat × Nat) (a b c d : Nat) : Nat × Nat :=
  let (w, n) := shape t
  if n = 1 then
    let m := 2 ^ w
    let (r, fl) := f (a % m) (b % m) (c % m) (d % m)
    (extend t r, fl)
  else packed w f n a b c d

/-- One lane of an integer or bit operation. -/
def intLane (op : Op) (t a b c _d : Nat) : Nat × Nat :=
  perLane t (fun x y z _ => (elem op (signedT t) (shape t).1 x y z, 0)) a b c 0

end Sys2Proof.Alu
end

