-- ==== Sys2Proof/Config.lean ====
section
/-! DEFINITION. What an implementation fixes and the manual does not, and the free values: constants without a body, so
that nothing can be proved about which value they have. -/

namespace Sys2Proof

/-- Who takes the next step. The manual fixes no order among the agents (R3, R4); the agenda of the state, or the free
choice `Config.nextAgent`, says which one moves (assumption logs 1, 2). -/
inductive Agent where
  /-- The scalar port of a core's quadrant issues the scalar stream it has chosen (R284). -/
  | scalar (core quad : Nat)
  /-- The lane port of a core's quadrant issues the join set it has chosen (R283, R286). -/
  | lane (core quad : Nat)
  /-- The MCF thread of an entry on a port's engine executes its next word (R240). -/
  | mcf (port ctx entry : Nat)
  /-- A platform, device or service event. -/
  | event (i : Instr)
  /-- The package cycle counter advances (R229). -/
  | time (cycles : Nat)
  /-- The host writes its own memory, in which request rings, images and notifier rings lie (R363, R390). -/
  | host (addr : Nat) (bytes : List (BitVec 8))
  /-- A posted write of the host port to package memory, at an address of a context (R312, R365). -/
  | hostPort (ctx va : Nat) (bytes : List (BitVec 8))
  /-- A read by the host of package memory, at an address of a context (R312). -/
  | hostRead (ctx va n : Nat)
  /-- A line of memory is found to hold an uncorrectable error, whoever reads it: a physical one, or one of a scratchpad
  (R307, R421). -/
  | lineError (line : Nat)
  /-- Rows of HBM or DDR fail: lines from one on, so many of them (R422). -/
  | rowFailure (line n : Nat)
  /-- An SPDM request on a bus, by its code, that the responder does not support (Table 4 of 21). -/
  | spdmOther (bus code : Nat)
  deriving DecidableEq, Repr, Inhabited

namespace Config

/-- The next agent where the agenda is empty: any agent may be next (assumption log 2). -/
opaque nextAgent : Nat → Agent

/-- A free bit: a choice the manual leaves to the device (assumption log 3). -/
opaque freeBit : Nat → Bool

/-- A free 64-bit value (assumption log 3). -/
opaque freeWord : Nat → BitVec 64

/-- A free number: a depth, a size or an order that is not architectural (assumption log 3). -/
opaque freeNat : Nat → Nat

/-- Whether the memo table still holds an entry that matches (R36: an implementation may omit the table; assumption
log 4). -/
opaque memoHeld : Nat → Bool

/-- One less than the packets that the receive queue and the overflow area of an MCF thread hold (R243: not architectural;
assumption log 37). -/
opaque receiveDepth : Nat

/-- Three less than the contributions that the hold area of a chunk holds (R250; assumption log 37). -/
opaque holdDepth : Nat

/-- 256 less than the bytes of staging for alias stores per entry (R326; assumption log 37). -/
opaque stagingBytes : Nat

/-- One less than the commands that the queue of a copy engine, an array, a routing engine holds (R181: not architectural;
assumption log 37). -/
opaque engineDepth : Nat

/-- What a collective takes for an element or byte that is not stated: a function of its inputs alone, so that equal inputs give equal
bytes (R331; assumption log 43). -/
opaque padding : List Nat → BitVec 64

/-- Handles that the buffer-record table of a graph engine holds (R371; assumption log 37). -/
opaque bufRecords : Nat

/-- The byte form of fields for which the manual states none, over which a digest is made (R417; assumption log 30). -/
opaque fieldBytes : List Nat → List (BitVec 8)

/-- Signature under the alias key of the firmware with a digest (R416, R417), left uninterpreted: 64 bytes as a number. -/
opaque sign : Nat → List (BitVec 8) → Nat

/-- The key a slot takes when the security processor generates one (R410). -/
opaque genKey : Nat → Nat

/-- The wrapped export of a slot key (R410). -/
opaque wrapKey : Nat → Nat → Nat

/-- The certificate chain from the root to the alias certificate (R416). -/
opaque certChain : Nat → List Nat

/-- The measurement of an index (Table 4 of 21). -/
opaque measure : Nat → Nat → Nat

/-- DDR bytes installed in the second tier (Table 3 of 12: up to 3 TiB; assumption log 37). -/
opaque ddrBytes : Nat

/-- The version that page 0 of the control space holds (R362). -/
opaque version : Nat

/-- The device serial number (R417). -/
opaque serial : Nat

end Config

end Sys2Proof
end

