-- ==== Sys2Proof/Machine/CoreState.lean ====
section
/-! DEFINITION. The plain data of one sounder (Table 1 of 01), of a context's objects on one core (Table 6 of 01,
Table 9 of 20) and of one core (R284, R308, R401). -/

namespace Sys2Proof.Machine

open Sys2Proof

/-- Where an access lands once it is translated (Table 1 of 12, R158). -/
inductive Loc where
  /-- HBM or second tier: a physical byte address; `far` for the second tier. -/
  | mem (far : Bool) (pa : Nat)
  /-- Fabric window: package and address in its target context. -/
  | window (pkg : Nat) (addr : Nat)
  /-- Alias window: collective entry and byte offset in the window. -/
  | aliasWin (entry : Nat) (va : Nat)
  /-- Scratchpad of the issuing context's core. -/
  | sp (addr : Nat)
  /-- The control space, by offset: a doorbell page mapped into a context (R362). -/
  | control (off : Nat)
  deriving DecidableEq, Repr

/-- What a byte held before a write: the write's number, the place (a physical address, or that of a scratchpad byte) and the
old value. An engine's read may still return it (R316). `engine` is the core and the launch of an engine's write with no
release at package scope: parties of other cores, but for those `seen` lists, may still read the old value (R317). -/
structure Past where
  stamp  : Nat
  place  : Nat
  old    : Byte
  engine : Option (Nat × Nat)
  seen   : List Nat
  deriving DecidableEq, Repr

/-- One lane's access of an operand-log entry (R161, R162): the value stored or the operand, the second operand of
acas, and whether a posted store has left the package and waits for its acknowledgement. -/
structure LaneAcc where
  lane : Nat
  va   : Nat
  loc  : Loc
  data : Nat
  new  : Nat
  sent : Bool
  /-- The value an atomic of scope .core has read, while its write is still to come (R173). -/
  got  : Option Nat := none
  deriving DecidableEq, Repr

/-- Kinds of operand-log entry, coded as oplrd reads them (R239). -/
inductive LogKind where
  | load | store | atomic | append | scalarStore | aliasStore
  deriving DecidableEq, Repr

/-- One operand-log entry (R162, R163, R239). -/
structure LogEntry where
  /-- Issue order among the sounder's accesses. -/
  seq    : Nat
  /-- Slices of the issue, bit per slice; 0 for the scalar stream. -/
  slices : Nat
  kind   : LogKind
  word   : Nat
  mask   : Nat
  ty     : Nat
  /-- MINOR of the word: the atomic operation and its scope. -/
  minor  : Nat
  addrs  : Tbl Nat
  datas  : Tbl Nat
  /-- Lanes not yet performed, ascending. -/
  todo   : List LaneAcc
  /-- Lanes held for a fault. -/
  held   : List LaneAcc
  cause  : Nat
  detail : Nat
  /-- The fault has been delivered to the handler. -/
  told   : Bool
  /-- The fills the returned values go to: one name, or the two of a pair. -/
  fills  : List Nat
  /-- Lane program counter and block of the instruction, for the frame of a deferred fault (Table 8 of 08). -/
  lpc    : Nat
  block  : Nat
  /-- Issued in handler mode. -/
  hand   : Bool
  /-- Writing identity of its stores (R296): 0 outside deterministic mode. -/
  wid    : Nat
  /-- The row of an append. -/
  row    : List Byte
  /-- Lanes that a tret is replaying: the sounder resumes once they are performed or held again (R236). -/
  again  : List Nat := []
  deriving DecidableEq, Repr

/-- A memo entry (R38, R41): key, result registers, recorded flags; the context that installed it (R50), and for a load
through a const record the launch that bound the record, with which the entry ends (R45). -/
structure Memo where
  key    : List Nat
  /-- Physical registers that the key names. -/
  names  : List Nat
  result : List Nat
  flags  : Nat
  owner  : Nat
  launch : Option Nat
  deriving DecidableEq, Repr

/-- A fill in progress of one vector name (R33, R35). -/
structure Fill where
  name   : Nat
  /-- Takes bits [63:32] of the returned values: the second name of a pair. -/
  hi     : Bool
  /-- Lanes whose value has not returned. -/
  want   : List Nat
  /-- Values that have returned and are not yet written, by lane. -/
  got    : Tbl Nat
  /-- Lanes the name still takes from this fill; a later write to the name withdraws its lanes (R35). The name is empty
  while a fill of it has lanes here. -/
  keep   : List Nat
  /-- Made by a copy into the register file, which lsync does not wait for (R129). -/
  engine : Bool
  /-- Made in handler mode. -/
  hand   : Bool
  /-- The physical register being filled. -/
  phys   : Nat
  /-- The memo entry that a reusable load installs once its names are full (R41). -/
  memo   : Option Memo
  /-- The result may share storage (R42). -/
  share  : Bool
  /-- The lowest number of a write, made while slices were parted, that comes after the instruction that made this fill: the fill
  is a write of that instruction's place (R151). -/
  after  : Nat := 0
  deriving DecidableEq, Repr

/-- A tensor layout record (Table 3 of 07). -/
structure Layout where
  sbase : Nat
  dbase : Nat
  sstride : List Nat
  dstride : List Nat
  ext   : List Nat
  size  : List Nat
  idxbase : Nat
  esize : Nat
  skind : Nat
  dkind : Nat
  unaligned : Bool
  gather : Bool
  isp   : Bool
  dreg  : Nat
  dsnd  : Nat
  rsv   : Bool
  deriving DecidableEq, Repr

/-- A format block (Table 9 of 07). -/
structure FmtBlock where
  desca : Nat
  descw : Nat
  kinda : Nat
  kindw : Nat
  lcode : Nat
  perm  : Bool
  scalea : Nat
  scalew : Nat
  rsv   : Bool
  deriving DecidableEq, Repr

/-- Kinds of matrix command (Table 11 of 07). -/
inductive MatKind where
  | mldw | mswap | mstream | mdrain | mclear | mperm
  deriving DecidableEq, Repr

/-- A matrix command in array order (R200, R204): its control word, format block, drain type and mode, the table of
mperm, and once it has fired the rows it claimed. -/
structure MatCmd where
  id    : Nat
  kind  : MatKind
  ctl   : Nat
  fb    : FmtBlock
  ty    : Nat
  rnd   : Nat
  table : List Nat
  word  : Nat
  /-- The issuing sounder and slices, and their writing identity. -/
  snd   : Nat
  slices : Nat
  wid   : Nat
  /-- Handle of the copy that handed it over (R193). -/
  handle : Option Nat
  fired : Bool
  rows  : List (List Byte)
  /-- Rows of its input buffer it holds claimed, and of its output buffer it has reserved. -/
  claim : Nat
  after : Nat
  /-- Number of memory writes from which its reads may take a value (R316). -/
  since : Nat
  /-- Times a transient error had it executed again (R103). -/
  retries : Nat
  /-- Scratchpad address at which its block or table met an uncorrectable error at issue (R185, R307). -/
  spoilt : Option Nat
  deriving DecidableEq, Repr

/-- The parameter record of a route taken apart (Table 12 of 07): IDXOUT, WOUT, HISTOUT, k, HADD, SREC and whether
reserved bits are set. -/
structure RoutePar where
  idxout  : Nat
  wout    : Nat
  histout : Nat
  k       : Nat
  hadd    : Bool
  srec    : Nat
  rsv     : Bool
  deriving DecidableEq, Repr

/-- An engine command as an instruction that has passed every check makes it: a copy with its record, its coordinates and its
follow-on; a matrix command; a route with its records; a cstart with its entry, source and destination. -/
inductive EngCmd where
  | copy (ctl : Nat) (lay : Layout) (coord : List Int) (follow : Option MatCmd)
  | mat (m : MatCmd)
  | route (ctl : Nat) (par : RoutePar) (lay : Layout)
  | start (ctl cid src dst : Nat)
  /-- A copy or a route (unit 1 or 3) whose record met an uncorrectable error at an address (R185, R307). -/
  | lost (unit ctl addr : Nat)
  deriving DecidableEq, Repr

/-- An engine instruction that has passed every check and waits for the end of a slice's hold: its slices, lane program counter,
block and mode, and its command (R402). -/
structure Passed where
  slices : Nat
  lpc    : Nat
  block  : Nat
  hand   : Bool
  cmd    : EngCmd
  deriving DecidableEq, Repr

/-- A queued lane block (R127): table entry, activity mask, block constants, and FPCTL and RUCTL as they stood when
it was queued (R130). -/
structure Block where
  index : Nat
  entry : Nat
  len   : Nat
  mask  : Nat
  k     : List Word
  fpctl : Word
  ructl : Word
  deriving DecidableEq, Repr

/-- One slice of a sounder in the running block (R76, R230). -/
structure Slice where
  pc       : Nat
  done     : Bool
  atRegang : Bool
  /-- Lowest slice of its join set. -/
  join     : Nat
  deriving DecidableEq, Repr

/-- What the scalar stream waits for in an instruction that parks it. -/
inductive SWait where
  | ready
  | waitany (d : Nat)
  /-- bar.wait, and the wait of bar.sync (`arrived` in deterministic mode holds its stamp's clock). -/
  | bar (d ref token : Nat)
  | mbrecv (d slot : Nat)
  /-- mbsend whose message is on its way. -/
  | mbsend (d : Nat)
  /-- A synchronising operation of deterministic mode, waiting for its turn: its word (R293). -/
  | det (word : Nat)
  /-- mbsend reading its message through a fabric window, or with no byte left waiting for its release: destination word, next
  address, bytes left, bytes read. -/
  | mbread (d dest addr left : Nat) (got : List Byte)
  /-- oplrep whose lanes of log entry `k` are on their way. -/
  | replay (d k : Nat)
  /-- A scalar load of a fabric window: destination, type code, package, virtual address. -/
  | load (d code pkg va : Nat)
  deriving DecidableEq, Repr

/-- The lane state held aside in handler mode (R233), with the interrupted stream and the cause code. -/
structure Aside where
  pc      : Nat
  queue   : List Block
  running : Bool
  slices  : Tbl Slice
  /-- What the scalar stream was waiting for. -/
  wait    : SWait
  stream  : Nat
  /-- Trapping word's slices; 0 for a scalar trap. -/
  issue   : Nat
  /-- Words of the trapping lane instruction: two for a copy with its follow-on (R193). -/
  words   : Nat
  /-- Where the slices of the interrupted block were last joined (R151). -/
  joins   : Tbl Nat
  deriving DecidableEq, Repr

/-- One sounder (R16 to R27, R127, R162, R233). -/
structure Snd where
  launch  : Nat
  idx     : Nat
  image   : Nat
  /-- N, the declared vector names (R20). -/
  n       : Nat
  /-- Admission order, the age of R283. -/
  age     : Nat
  /-- Admitted as part of a co-resident launch (R281). -/
  cores   : Bool
  /-- Deterministic mode (R292). -/
  determ  : Bool
  s       : Tbl Word
  c       : BitVec 8
  pc      : Nat
  q       : Tbl Bits96
  v       : Tbl LaneVec
  /-- Values that names had before writes made while slices were parted, newest first: (number, name, old lanes); a
  slice outside the issuing gang may still be seen at any of them (R151). -/
  past    : List (Nat × Nat × LaneVec)
  /-- For two slices, keyed 24·low + high: how many writes `past` listed when they were last joined (R151). -/
  joins   : Tbl Nat
  fills   : Tbl Fill
  nextFill : Nat
  fpctl   : Word
  fpstat  : Word
  ructl   : Word
  /-- FPCTL and RUCTL as the last lsync or sfence.local left them for later blocks (R130). -/
  fpctlSeen : Word
  ructlSeen : Word
  masked  : BitVec 8
  pending : BitVec 8
  armed   : BitVec 8
  evbind  : Tbl Word
  /-- Cycle at which an armed timer slot expires (R217). -/
  timers  : Tbl Nat
  lclock  : Word
  rlook   : Word
  rhits   : Word
  rshare  : Word
  rsatur  : Word
  rpark   : Word
  queue   : List Block
  running : Bool
  slices  : Tbl Slice
  /-- For two slices, keyed 24·low + high: the value of `seq` when a lane branch last parted them or a regang last put them
  into new join sets (R314 item 3). -/
  parts   : Tbl Nat
  seq     : Nat
  /-- Value of `seq` at the last lsync: earlier lane accesses count as the scalar stream's (R129). -/
  joined  : Nat
  oplog   : Tbl LogEntry
  /-- Issues that have passed their probe and wait for an entry of the operand log (R162). -/
  probed  : List LogEntry
  /-- Engine instructions that have passed their checks and are held at the end of a slice (R402). -/
  passed  : List Passed
  /-- Number of memory writes at the start of its launch, and at the last fence.eng of each slice (R316). -/
  born    : Nat
  engAt   : Tbl Nat
  wait    : SWait
  /-- Handler mode (R233). -/
  handler : Bool
  aside   : Option Aside
  /-- Suspended with its trap sent up, and the token that releases it (R236, R397). -/
  suspended : Option Nat
  parked  : Bool
  /-- WAIT counts of its join sets and of the scalar stream (key 24) (R285). -/
  waits   : Tbl Nat
  /-- Join sets whose last issue carried YIELD (R68, R286). -/
  yielded : List Nat
  /-- Physical register of each name; unlisted names are bound to the zero register (R30, R31). -/
  bound   : Tbl Nat
  /-- Barrier references it belongs to, the one most recently joined or arrived at first (R296). -/
  wids    : List Nat
  deriving DecidableEq, Repr

/-- One barrier (Table 2 of 08). -/
structure Barrier where
  drey     : Bool
  formed   : Bool
  size     : Nat
  extra    : Nat
  members  : Nat
  /-- rank ↦ (member's key, arrivals in the open phase, greatest clock among them). -/
  ranks    : Tbl (Nat × Nat × Nat)
  arrived  : Nat
  phase    : BitVec 56
  openStat : BitVec 8
  lastStat : BitVec 8
  deriving DecidableEq, Repr

/-- A mailbox slot (R222 to R226). -/
inductive Mailbox where
  | closed
  | posted (addr len : Nat)
  | arrived (record : Word)
  deriving DecidableEq, Repr

/-- A copy handle (R194, R195). -/
structure Handle where
  state : Nat
  bytes : Nat
  err   : Nat
  deriving DecidableEq, Repr

/-- A row of a circular buffer: reserved, and present once its producer has written all of it (R198). -/
structure Row where
  bytes   : List Byte
  present : Bool
  /-- The command that reserved it. -/
  owner   : Nat
  deriving DecidableEq, Repr

/-- A circular buffer (R197, R198): configuration word, rows in reservation order, rows claimed and not released. -/
structure CBuf where
  cfg     : Nat
  rows    : List Row
  claimed : Nat
  deriving DecidableEq, Repr

/-- A copy command (R192, R193): what is left to move, and where it stands. -/
structure CopyCmd where
  /-- Place in the issue order of the core. -/
  id     : Nat
  ctl    : Nat
  handle : Nat
  lay    : Layout
  coord  : List Int
  follow : Option MatCmd
  /-- The issuing sounder and slices, their writing identity, and the image whose records bound its writes. -/
  snd    : Nat
  slices : Nat
  wid    : Nat
  image  : Nat
  /-- Target bank slot of a register-file copy and the sounder that held it. -/
  target : Nat
  tsnd   : Nat
  /-- Fills of the names it marked empty, in ascending name. -/
  fills  : List Nat
  fired  : Bool
  /-- Bytes of the rows claimed from its source buffer, and how many rows they are. -/
  input  : List Byte
  claim  : Nat
  /-- The element in hand in linear order: its gathered index, its bytes read so far, its bytes already written. -/
  next   : Nat
  idx    : Option Nat
  /-- Bytes read so far of an index that is not aligned. -/
  idxPart : List Byte := []
  part   : List Byte
  wrote  : Nat
  /-- Bytes whose writes are performed. -/
  bytes  : Nat
  /-- A window load of the element in hand has not returned. -/
  await  : Bool
  /-- Stores sent through a window and not acknowledged. -/
  unacked : Nat
  /-- Suspended on a replayable fault, and the token that releases it. -/
  suspended : Option Nat
  /-- Log entries of the issuing slices before this number are performed before its first read (ACQ, R183). -/
  after  : Nat
  /-- Number of memory writes from which its reads may take a value (R316); a later one for what a page held that was mapped only
  while the command was suspended at it: address, size, number (R392). -/
  since  : Nat
  fresh  : List (Nat × Nat × Nat) := []
  deriving DecidableEq, Repr

/-- A cbpop that has marked its name empty and waits for a row (Table 8 of 07). -/
structure PopCmd where
  id     : Nat
  buf    : Nat
  slot   : Nat
  snd    : Nat
  slices : Nat
  lanes  : List Nat
  fills  : List Nat
  deriving DecidableEq, Repr

/-- A routing command (R207, R208). -/
structure RouteCmd where
  id     : Nat
  core   : Nat
  ctx    : Nat
  ctl    : Nat
  handle : Nat
  score  : Layout
  k      : Nat
  hadd   : Bool
  idxout : Nat
  wout   : Nat
  histout : Nat
  snd    : Nat
  slices : Nat
  wid    : Nat
  image  : Nat
  fired  : Bool
  /-- The token in hand, its scores read so far with the bytes and gathered index of the next, and its words already
  written. -/
  next   : Nat
  scores : List Nat
  idx    : Option Nat
  /-- Bytes read so far of an index that is not aligned. -/
  idxPart : List Byte := []
  part   : List Byte
  wrote  : Nat
  /-- Selections per expert. -/
  hist   : Tbl Nat
  bytes  : Nat
  await  : Bool
  unacked : Nat
  suspended : Option Nat
  after  : Nat
  since  : Nat
  fresh  : List (Nat × Nat × Nat) := []
  deriving DecidableEq, Repr

/-- A weight plane and what it records (R200, R204). -/
structure Plane where
  loaded : Bool
  kind   : Nat
  desc   : Nat
  blockL : Nat
  perm   : Bool
  depth  : Nat
  scales : Tbl Nat
  weights : Tbl Nat
  deriving DecidableEq, Repr

/-- A tile register and its TSTAT bits (Table 7 of 01); elements keyed 64·row + column, unlisted ones zero. -/
structure Tile where
  isInt    : Bool
  inflight : Nat
  dirty    : Bool
  valid    : Bool
  elems    : Tbl Nat
  deriving DecidableEq, Repr

/-- Where a context's objects on a core lie: in the sett, or in a bank (R276, R403). -/
inductive Place where
  | away
  | bank (bank : Nat)
  deriving DecidableEq, Repr

/-- A context's objects on one core, wherever they lie: in a bank or in the sett segment (R289, R405). -/
structure CtxCore where
  share    : Share
  place    : Place
  /-- Physical address of its segment of the sett, which is allocated with the first share: 0 where there is none (R405). -/
  seg      : Nat
  /-- Modes of its SRAM banks as the sett keeps them while it is away (R311, R405). -/
  saved    : Tbl Nat
  quantum  : Nat
  debt     : Nat
  sounders : Tbl Snd
  /-- Sounders waiting for admission, in admission order: (launch, SNDIDX). -/
  waiting  : List (Nat × Nat)
  nextAge  : Nat
  barriers : Tbl Barrier
  mail     : Tbl Mailbox
  handles  : Tbl Handle
  cbufs    : Tbl CBuf
  perm     : List Nat
  active   : Plane
  shadow   : Plane
  tiles    : Tbl Tile
  sram     : Tbl Byte
  copies   : List CopyCmd
  pops     : List PopCmd
  array    : List MatCmd
  nextCmd  : Nat
  deriving DecidableEq, Repr

/-- A bank control entry (Table 4 of 12), the write count of R46, and a change in progress. -/
structure BankEntry where
  mode   : Nat
  owner  : Nat
  busy   : Bool
  err    : Nat
  wcount : Nat
  next   : Option (Nat × Nat)
  deriving DecidableEq, Repr

/-- One logical core (R284 to R286, R308, R401 to R403). -/
structure Core where
  /-- Physical core that carries the logical index. -/
  phys    : Nat
  failed  : Bool
  gated   : Bool
  /-- The active bank, 0 or 1 (R308). -/
  active  : Nat
  /-- Contexts in bank 0 and bank 1. -/
  bank0   : Option Nat
  bank1   : Option Nat
  entries : Tbl BankEntry
  /-- Cycle at which the active slice ends (R401), and whether the core holds for a safe point. -/
  sliceEnd : Nat
  sliceAt  : Nat
  holding : Bool
  /-- Contexts in the order in which the service last rotated them in, oldest first (R401); and a spare physical core to which
  the core is being moved, while its contexts are held for safe points (R407). -/
  turns   : List Nat
  moveTo  : Option Nat
  /-- Join set chosen for each quadrant's lane port: slot·32 + lowest slice; and for its scalar port: slot. -/
  lanePort : Tbl Nat
  scalPort : Tbl Nat
  memo    : List Memo
  /-- Dropped completions of its members and copy engine (R290). -/
  dropped : Nat
  /-- The next physical register to be named: no number is given twice, so that a memo entry never names a register of another
  value (R39). A register is told by its number and the context whose share is charged. -/
  nextPhys : Nat
  deriving DecidableEq, Repr

/-! Reset values of these records. -/

def LaneVec.zero : LaneVec := List.replicate 96 0

def Barrier.reset : Barrier :=
  { drey := false, formed := false, size := 0, extra := 0, members := 0, ranks := [], arrived := 0, phase := 0,
    openStat := 0, lastStat := 0 }
def Handle.reset : Handle := { state := 0, bytes := 0, err := 0 }
def CBuf.reset : CBuf := { cfg := 0, rows := [], claimed := 0 }
def Plane.reset : Plane :=
  { loaded := false, kind := 0, desc := 0, blockL := 0, perm := false, depth := 0, scales := [], weights := [] }
def Tile.reset : Tile := { isInt := false, inflight := 0, dirty := false, valid := false, elems := [] }
def Share.none : Share := { regs := 0, tiles := [], handles := [], cbufs := [], barriers := [], mailboxes := [] }
def BankEntry.reset : BankEntry := { mode := 0, owner := 0, busy := false, err := 0, wcount := 0, next := .none }
def Slice.reset : Slice := { pc := 0, done := true, atRegang := false, join := 0 }
def RUCTL_RESET : Word := 0x1F

/-- What a context has on a core before its first share. DESIGN CHOICE: quantum and debt 0 (assumption log 44). -/
def CtxCore.reset : CtxCore :=
  { share := Share.none, place := .away, seg := 0, saved := [], quantum := 0, debt := 0, sounders := [], waiting := [],
    nextAge := 0, barriers := [], mail := [], handles := [], cbufs := [], perm := List.range 128,
    active := Plane.reset, shadow := Plane.reset, tiles := [], sram := [], copies := [], pops := [], array := [], nextCmd := 0 }

def Core.reset (i : Nat) : Core :=
  { phys := i, failed := false, gated := false, active := 0, bank0 := .none, bank1 := .none, entries := [],
    sliceEnd := 0, sliceAt := 0, holding := false, turns := [], moveTo := .none, lanePort := [], scalPort := [], memo := [], dropped := 0, nextPhys := 1 }

/-- A sounder as its launch starts it (R24), its registers s0 to s7, s59, s60 and s62 given. -/
def Snd.fresh (launch idx image n age : Nat) (cores determ : Bool) (s : Tbl Word) (pc : Nat) (born : Nat := 0) : Snd :=
  { launch := launch, idx := idx, image := image, n := n, age := age, cores := cores, determ := determ, s := s,
    c := 0, pc := pc, q := [], v := [], past := [], joins := [], fills := [], nextFill := 0, fpctl := 0, fpstat := 0,
    ructl := RUCTL_RESET, fpctlSeen := 0, ructlSeen := RUCTL_RESET, masked := 0, pending := 0, armed := 0, evbind := [], timers := [], lclock := 0, rlook := 0,
    rhits := 0, rshare := 0, rsatur := 0, rpark := 0, queue := [], running := false, slices := [], parts := [], seq := 0, joined := 0,
    oplog := [], probed := [], passed := [], born := born, engAt := [], wait := .ready, handler := false, aside := .none, suspended := .none, parked := false,
    waits := [], yielded := [], bound := [], wids := [] }

end Sys2Proof.Machine
end

