-- ==== Sys2Proof/Machine/FabricState.lean ====
section
/-! DEFINITION. The plain data of contexts, images and launches (R276, R277, R364 to R373, R382, R394), of the switch die
and its port engines (R240, R322 to R327, R375 to R380), and of the security processor and the platform (R360, R408,
R415 to R424). -/

namespace Sys2Proof.Machine

open Sys2Proof

/-! ## Collectives and port engines -/

/-- A packet register that is not empty (Table 1 of 09). -/
structure PkReg where
  pkt   : Packet
  fresh : Bool
  deriving DecidableEq, Repr

/-- Chunk state of a thread (Table 1 of 09): the bitmaps, NEXT, DONE, the accumulator as f32 codes with whether a
member has been folded, and the hold area. -/
structure Chunk where
  bits   : BitVec 64
  held   : BitVec 64
  absent : BitVec 64
  next   : Nat
  done   : Bool
  folded : Bool
  acc    : List Nat
  hold   : Tbl (List Byte)
  deriving DecidableEq, Repr

/-- One MCF thread (R240, R243): registers, packet registers, chunks, PC; instance number, receive queue, overflow
area; of a match in progress the cycle at which it times out and, once that has passed, how many queued packets were in
time; local members that have arrived; bytes of a source chunk read so far, with a window load on its way; dlv writes of the instance not
acknowledged, by member; a fault that an answer has brought: cause, detail, address and member; and of a dlv that met a page
not present how often it has been tried and the cycle of the next try (R399). -/
structure Thread where
  x        : Tbl Word
  pk       : Tbl PkReg
  chunks   : Tbl Chunk
  pc       : Nat
  inst     : Nat
  rq       : List Packet
  overflow : List Packet
  matchEnd : Option Nat
  cut      : Option Nat
  arrived  : List Nat
  got      : List Byte
  await    : Bool
  unacked  : Tbl Nat
  failed   : Option (Nat × Nat × Nat × Nat)
  again    : Option (Nat × Nat)
  deriving DecidableEq, Repr

/-- A local member's parts of instances (R323): the number of its lowest instance not completed locally, whether it
has started that part, and what the start gave: addresses, control word, barrier, the issuing sounder, its slices and
writing identity, and the log number before which ACQ waits; the status bits that its arrivals will carry, by instance; and
the instances that ended in a program error before it started them, whose arrival it is still owed (R258). -/
structure Part where
  inst    : Nat
  started : Bool
  src     : Nat
  dst     : Nat
  ctl     : Nat
  bar     : Nat
  snd     : Nat
  slices  : Nat
  wid     : Nat
  after   : Nat
  /-- Number of memory writes from which its reads may take a value (R316). -/
  since   : Nat := 0
  core    : Nat
  stat    : Tbl Nat
  owed    : List Nat
  deriving DecidableEq, Repr

/-- The staging of one member's contribution to one instance (R326): bytes by offset, chunks that were ready and have been
released, the ports whose threads have folded or combined a chunk (64·chunk + port), and the sounder that stored: its
identity number, slices, writing identity and core. -/
structure Stage where
  bytes    : Tbl Byte
  released : List Nat
  taken    : List Nat
  snd      : Nat
  slices   : Nat
  wid      : Nat
  core     : Nat
  deriving DecidableEq, Repr

/-- An entry of a context's collective table (R241, R322, R324, R354, R380). -/
structure CollEntry where
  /-- Element type: true for f32, false for bf16. -/
  wide   : Bool
  op     : Nat
  cb     : Nat
  length : Nat
  rows   : List MemberRow
  hops   : Tbl (Nat × Nat)
  win    : Option AliasWin
  ports  : List Nat
  xmask  : Tbl Nat
  prog   : List Nat
  image  : Nat
  /-- Members made absent (R333). -/
  absent : Nat
  parts  : Tbl Part
  /-- Members' parts of instances that they have completed here while a thread still stands at the instance: (member, part). -/
  ended  : List (Nat × Part)
  /-- Staged alias stores, keyed 2^32·member + instance (R326). -/
  staging : Tbl Stage
  /-- Contributions kept for buddies: (member, chunk, instance, payload) (R257). -/
  store  : List (Nat × Nat × Nat × List Byte)
  deriving DecidableEq, Repr

/-! ## Messages that leave the package -/

/-- Who issued a remote operation: a lane of an operand-log entry, a scalar load, a copy element, a mailbox send. -/
inductive Origin where
  | lane (ctx core slot entry lane : Nat)
  | scalar (ctx core slot : Nat)
  /-- A copy's access: the command with its issuing sounder and handle, and the address (R185). -/
  | copy (ctx core id snd handle va : Nat)
  | route (ctx core id snd handle va : Nat)
  | mail (ctx core slot : Nat)
  /-- A port engine's access for a member in an instance, and the address. -/
  | thread (port ctx entry member inst va : Nat)
  /-- The graph engine's completion word, with the queue of its node and its address, and the packet and status of the node,
  whose other signals go after it (R370). -/
  | peer (ctx queue addr pkt status : Nat)
  /-- The graph engine's read of a node's count or argument bytes. -/
  | node (ctx id : Nat)
  deriving DecidableEq, Repr

/-- The context an origin belongs to; none for a port engine's thread. -/
def Origin.ctx : Origin → Nat
  | .lane c _ _ _ _ => c
  | .scalar c _ _ => c
  | .copy c _ _ _ _ _ => c
  | .route c _ _ _ _ _ => c
  | .mail c _ _ => c
  | .thread _ c _ _ _ _ => c
  | .peer c _ _ _ _ => c
  | .node c _ => c

/-- What the package sends out: to another package, to the host or on a management bus. -/
inductive OutMsg where
  | load (pkg addr size : Nat) (o : Origin)
  /-- Bytes to store at addresses of one aligned 8-byte word, in lane order (R318), or one posted write. -/
  | store (pkg : Nat) (parts : List (Nat × List Byte)) (o : Origin)
  /-- The lanes of one atomic in one aligned 8-byte word, in lane order: address, operand, second operand of acas (R318). -/
  | atomic (pkg size minor ty : Nat) (parts : List (Nat × Nat × Nat)) (o : Origin)
  | append (pkg addr : Nat) (row : List Byte) (o : Origin)
  | mail (pkg ctx core slot srcctx : Nat) (bytes : List Byte) (o : Origin) (seq : SeqNo)
  | coll (pkg port ctx entry : Nat) (p : Packet)
  | buddy (pkg ctx entry : Nat) (p : Packet)
  | takeover (pkg port ctx entry member chunk inst : Nat)
  | permitAsk (pkg queue srcctx : Nat) (seq : SeqNo)
  | permitRenew (pkg id srcctx : Nat) (seq : SeqNo)
  | launch (pkg queue srcctx pkt permit : Nat) (seq : SeqNo)
  /-- Answer to an inbound request: status 0 done, 1 retryable NACK, 2 non-retryable NACK with its reason. -/
  | answer (pkg : Nat) (status why : Nat) (bytes : List Byte)
  /-- Answer to a permit request: the permit and its lease, or none. -/
  | permit (pkg queue srcctx : Nat) (given : Option (Nat × Nat))
  | refuseLaunch (pkg srcctx queue why : Nat)
  | tellAbsent (pkg ctx entry member : Nat)
  | msix (vec : Nat)
  | completion (part tag status : Nat) (value : Nat)
  /-- What a read of package memory by the host brings (R312). -/
  | hostData (ctx va : Nat) (bytes : List Byte)
  | spdm (bus : Nat) (code : Nat) (body : List Nat)
  | mctp (bus : Nat) (body : List Nat)
  /-- A message on the link of a port (R378). -/
  | over (port : Nat) (m : OutMsg)
  deriving DecidableEq, Repr

/-- The origin of a message that is answered. -/
def OutMsg.origin? : OutMsg → Option Origin
  | .load _ _ _ o => some o
  | .store _ _ o => some o
  | .atomic _ _ _ _ _ o => some o
  | .append _ _ _ o => some o
  | .mail _ _ _ _ _ _ o _ => some o
  | _ => none

/-- The package that a message goes to. -/
def OutMsg.pkg : OutMsg → Nat
  | .load p _ _ _ => p
  | .store p _ _ => p
  | .atomic p _ _ _ _ _ => p
  | .append p _ _ _ => p
  | .mail p _ _ _ _ _ _ _ => p
  | .coll p _ _ _ _ => p
  | .buddy p _ _ _ => p
  | .takeover p _ _ _ _ _ _ => p
  | .permitAsk p _ _ _ => p
  | .permitRenew p _ _ _ => p
  | .launch p _ _ _ _ _ => p
  | .answer p _ _ _ => p
  | .permit p _ _ _ => p
  | .refuseLaunch p _ _ _ => p
  | .tellAbsent p _ _ _ => p
  | _ => 0

def OutMsg.isLoad : OutMsg → Bool
  | .load _ _ _ _ => true
  | _ => false

/-- Messages under reliable ordered delivery: mailbox messages, peer launch packets and permit traffic (Table 13 of 19). -/
def OutMsg.ordered : OutMsg → Bool
  | .mail _ _ _ _ _ _ _ _ | .permitAsk _ _ _ _ | .permitRenew _ _ _ _ | .launch _ _ _ _ _ _ => true
  | _ => false

/-- Keys of ordered streams: launches and requests for permits by the other package, the sending context and the destination queue;
messages by both contexts and the slot; renewals by package and sending context (R376, R377, R378). DESIGN CHOICE (assumption
log 64). -/
def streamKey (pkg ctx queue : Nat) : Nat := (pkg * 4096 + ctx) * 1024 + queue
def mailKey (pkg srcctx ctx core slot : Nat) : Nat := 2 ^ 60 + ((pkg * 4096 + srcctx) * 4096 + ctx) * 2 ^ 14 + core * 32 + slot
def renewKey (pkg ctx : Nat) : Nat := 2 ^ 61 + pkg * 4096 + ctx

/-- The stream of a message that goes in order, and the message under another number. -/
def OutMsg.stream? : OutMsg → Option (Nat × SeqNo)
  | .mail p x k j c _ _ n => some (mailKey p c x k j, n)
  | .permitAsk p q c n => some (streamKey p c q, n)
  | .permitRenew p _ c n => some (renewKey p c, n)
  | .launch p q c _ _ n => some (streamKey p c q, n)
  | _ => none
def OutMsg.renumber (n : SeqNo) : OutMsg → OutMsg
  | .mail p x k j c b o _ => .mail p x k j c b o n
  | .permitAsk p q c _ => .permitAsk p q c n
  | .permitRenew p i c _ => .permitRenew p i c n
  | .launch p q c k i _ => .launch p q c k i n
  | m => m

/-- One port (Table 11 of 19, R415, R422), the messages kept while its link is re-keyed, and the counters of its engine. -/
structure Port where
  cfg       : Word
  up        : Bool
  err       : Bool
  /-- Its PHY failed in bring-up: the port stays down until the next reset (R360). -/
  dead      : Bool
  /-- A link session is open to this package (R334, R415). -/
  session   : Option Nat
  /-- Key epoch of the link, and the packet counters of its two directions: packets that came in, packets sent (R415). -/
  epoch     : Nat
  counter   : Nat
  sealed    : Nat
  rekeying  : Bool
  kept      : List OutMsg
  /-- Lanes moved to the spare, and a move in progress (R422). -/
  spareUsed : Bool
  moving    : Bool
  stale     : Nat
  duplicate : Nat
  malformed : Nat
  dropped   : Nat
  /-- Packets dropped because their delivery mode is not supported (Table 13 of 19). -/
  unsupported : Nat
  deriving DecidableEq, Repr

/-- A remote operation that waits for its answer (R161, R378, R379). -/
structure Pending where
  msg     : OutMsg
  /-- The port over which it was last sent. -/
  port    : Option Nat
  /-- Times it has been sent again on a timeout, and the cycle at which it was last sent (R379). -/
  retries : Nat
  sentAt  : Nat
  /-- Retries after a NACK for a page not present, and the cycle at which the next is due (R399). -/
  placed  : Nat
  backoff : Option Nat
  /-- The status that a message of this package has met and that has not returned to its sender (R225). -/
  status  : Option Nat
  deriving DecidableEq, Repr

/-! ## Queues, nodes, launches -/

/-- A queue descriptor (Table 6 of 19), the intake that served it last and the last node taken from it. -/
structure Queue where
  ring    : Nat
  en      : Bool
  peerin  : Bool
  peerout : Bool
  dberr   : Bool
  prio    : Nat
  die     : Nat
  ctx     : Nat
  cap     : Nat
  tail    : Nat
  head    : Nat
  /-- A permit for its head packet has been asked for and not answered (R377). -/
  asked   : Bool
  served  : Option Nat
  lastNode : Option Nat
  /-- That node has completed with a failure status. -/
  lastFail : Bool
  deriving DecidableEq, Repr

/-- How far a node has got (R371, R373, R370). -/
inductive NodeSt where
  | waiting
  /-- Its count is being read from another package (R300). -/
  | counting
  /-- Its argument bytes are being read from another package, so many of them so far (R367). -/
  | reading
  | running
  | done (status : Nat)
  deriving DecidableEq, Repr

/-- A node of a graph engine's ready pool (R371). -/
structure Node where
  die    : Nat
  queue  : Nat
  qindex : Nat
  pkt    : Nat
  preds  : List Nat
  /-- A predecessor completed with a failure status. -/
  failed : Bool
  st     : NodeSt
  /-- The count that such a read has brought, and the argument bytes. -/
  count  : Option Nat
  args   : List Byte
  deriving DecidableEq, Repr

/-- A handle of the buffer-record table (R372). -/
structure BufRec where
  ctx     : Nat
  handle  : Nat
  writer  : Option Nat
  readers : List Nat
  deriving DecidableEq, Repr

/-- A launch in progress (R277, R301): the node it serves, what it started with, and what has not ended. -/
structure Launch where
  node    : Option Nat
  /-- Record queue it came from, with the count of its records (R299). -/
  rq      : Option (Nat × Nat)
  ctx     : Nat
  image   : Nat
  z       : Nat
  n       : Nat
  f       : Nat
  cores   : Bool
  determ  : Bool
  sysrel  : Bool
  cbase   : Nat
  ccount  : Nat
  per     : Nat
  header  : Nat
  hdrLen  : Nat
  pkt     : Nat
  /-- Sounders not yet ended. -/
  left    : Nat
  /-- Handle that completes a copy or route node: (core, handle) (R369). -/
  handle  : Option (Nat × Nat)
  /-- Admitted whole; until then a co-residency launch waits (R281). -/
  admitted : Bool
  /-- Number of memory writes at its start (R316). -/
  since   : Nat := 0
  deriving DecidableEq, Repr

/-- An armed record queue (R297 to R299). -/
structure RecQueue where
  node    : Nat
  ctx     : Nat
  hdr     : Nat
  pkt     : Nat
  next    : Nat
  flushAt : Option Nat
  /-- Launches not yet retired, oldest first: (launch, records, completed). -/
  runs    : List (Nat × Nat × Bool)
  deriving DecidableEq, Repr

/-- A loaded image (R272, R367): physical places and sizes of its sections. -/
structure Image where
  ctx      : Nat
  scalarPA : Nat
  scalarSize : Nat
  lanePA   : Nat
  laneCount : Nat
  tablePA  : Nat
  tableCount : Nat
  recPA    : Nat
  recCount : Nat
  constVA  : Nat
  entry    : Nat
  /-- Words of each MCF section. -/
  mcf      : List (List Nat)
  /-- SHA-256 of the file, and the frames that hold the sections: address and size (R417). -/
  digest   : Nat
  frames   : Nat × Nat
  deriving DecidableEq, Repr

/-- A context's trap queue (Table 5 of 20): the physical addresses of its header and of slot 0 in memory that the service owns,
0 where a context has none; the unread records with their slot order, and the fatal register. -/
structure TrapQueue where
  hdr    : Nat
  ring   : Nat
  cap    : Nat
  head   : Nat
  tail   : Nat
  lost   : Nat
  recs   : List Nat
  fatal  : Option Nat
  fatals : Nat
  deriving DecidableEq, Repr

/-- A permit this package holds as a sender, or has granted as a destination (R376). -/
structure Permit where
  /-- Its number at the destination. -/
  id     : Nat
  pkg    : Nat
  ctx    : Nat
  queue  : Nat
  expiry : Nat
  lease  : Nat
  deriving DecidableEq, Repr

/-- An ordered stream of another package as it reaches this one (R378): its delivery context, the number that comes next, and
the answers given, which a packet that comes again gets again. -/
structure InStream where
  pdc     : Nat
  next    : Nat
  answers : List (SeqNo × OutMsg)
  deriving DecidableEq, Repr

/-- A context (R276, R382, R393, R394, R411). -/
structure Ctx where
  domain   : Nat
  slot     : Nat
  die      : Nat
  troot    : Nat
  /-- Physical address of the directory of its sett: 0 where it has none (R405). -/
  sett     : Nat
  areaBase : Nat
  areaSize : Nat
  area     : List (Nat × Nat)
  trapq    : TrapQueue
  /-- Handler image, entry, FRAMEBASE (R393). -/
  handler  : Option (Nat × Nat × Nat)
  halted   : Bool
  /-- Epoch of R296, and the reports written in it and withheld from it. -/
  epoch    : Nat
  reports  : Nat
  withheld : Nat
  /-- Lines written in a deterministic launch: line ↦ (epoch, identity, reported). -/
  lines    : Tbl (Nat × Nat × Bool)
  /-- Pages marked placement-refused and pages with a type-5 record pending (R399). -/
  refused  : List Nat
  placing  : List Nat
  /-- Reservations: address, size, pool of their frames (R426, R386). -/
  resv     : List (Nat × Nat × Nat)
  colls    : Tbl CollEntry
  permits  : List Permit
  nextImage : Nat
  images   : Tbl Image
  deriving DecidableEq, Repr

/-- An access-control entry (Table 9 of 19). -/
structure Acl where
  en : Bool
  launch : Bool
  mbox : Bool
  coll : Bool
  win : Bool
  srcpkg : Nat
  srcctx : Nat
  dstctx : Nat
  qlo : Nat
  qhi : Nat
  maxperm : Nat
  lease : Nat
  deriving DecidableEq, Repr

/-- The frame pool of one die's HBM or of the second tier (R386, R422): next unused frame, end, freed frames by size,
retired ranges. -/
structure Pool where
  next    : Nat
  last    : Nat
  free    : List (Nat × Nat)
  retired : List (Nat × Nat)
  deriving DecidableEq, Repr

/-- A pending shoot-down (R388): the context, the page ranges, the frames freed when it completes, the completion it
owes: (partition, tag, value). -/
structure Shoot where
  ctx    : Nat
  va     : Nat
  size   : Nat
  frames : List (Nat × Nat × Nat)
  reply  : Nat × Nat × Nat
  deriving DecidableEq, Repr

/-- A service request ring of a partition and its notifier ring (R363, R390). -/
structure Ring where
  base   : Nat
  log2   : Nat
  isOpen : Bool
  head   : Nat
  tail   : Nat
  /-- Requests taken and not yet completed, as 512-bit numbers, oldest first, and completions written. -/
  taken  : List Nat
  done   : Nat
  /-- A notifier ring is set, and where (R386, R390). -/
  notifyOn : Bool
  notifyBase : Nat
  notifyLog2 : Nat
  notifyTail : Nat
  notifyLost : Nat
  /-- Notifications that wait for room. -/
  waiting : List (List Byte)
  deriving DecidableEq, Repr

/-! ## Security and platform -/

/-- A key slot (Table 1 of 21); `key` stands for the key material, `owner` for the peer that imported it (R410). Memory is held as
those who have the key see it. DESIGN CHOICE (assumption log 63). -/
structure KeySlot where
  domain   : Nat
  contexts : Nat
  epoch    : BitVec 16
  origin   : Nat
  state    : Nat
  key      : Nat
  owner    : Option Nat
  /-- Tag of the reclaim request whose scrubbing is under way (R412). -/
  scrub    : Option Nat
  deriving DecidableEq, Repr

/-- An SPDM session (R416): bus, peer, whether mutually authenticated, established by FINISH, its key generation, heartbeats
seen, and the port whose link key it carries (R415). -/
structure Session where
  bus    : Nat
  peer   : Nat
  bothAuth : Bool
  ready  : Bool
  gen    : Nat
  beats  : Nat
  link   : Option Nat
  deriving DecidableEq, Repr

/-- The SPDM connection of one bus (R416, R424): how far negotiation has gone. -/
structure Spdm where
  version : Nat
  stage   : Nat
  deriving DecidableEq, Repr

/-- An image in the boot flash (R418, R420): an identity of its contents, its security version, its signature. -/
structure FlashImage where
  digest  : Nat
  version : Nat
  valid   : Bool
  deriving DecidableEq, Repr

/-- Management, firmware and thermal state (R360, R361, R418 to R424). -/
structure Platform where
  cycle     : Nat
  /-- Bring-up step reached: 0 held in reset, 1 to 5 as Table 1 of 19. -/
  step      : Nat
  /-- Units whose step has ended: dies 0 to 3, DDR (4), ports (5). -/
  ended     : BitVec 6
  /-- The second tier failed its bring-up step and stays down, and the bytes of its DIMMs that are left unused (R306, R360). -/
  ddrDown   : Bool
  ddrUnused : Nat
  alive     : Bool
  ready     : Bool
  degraded  : Bool
  recovery  : Bool
  booterr   : Nat
  dieup     : BitVec 4
  pkgid     : Nat
  flash     : Option FlashImage
  /-- The image booted at the last reset, and the fused security-version counter. -/
  booted    : Option FlashImage
  fuse      : Nat
  serial    : Nat
  debugOpen : Bool
  jtag      : Bool
  pcap      : Nat
  temp      : Nat
  gating    : Bool
  thermal   : Bool
  /-- Error and retry counters read by telemetry. -/
  errors    : Tbl Nat
  /-- Spare physical cores that are free on each die, keyed by die. -/
  spares    : Tbl (List Nat)
  /-- Memory channels moving to a spare lane, and those that have used theirs. -/
  moving    : List Nat
  lanesUsed : List Nat
  deriving DecidableEq, Repr

def Chunk.reset : Chunk :=
  { bits := 0, held := 0, absent := 0, next := 0, done := false, folded := false, acc := [], hold := [] }
def Thread.reset : Thread :=
  { x := [], pk := [], chunks := [], pc := 0, inst := 0, rq := [], overflow := [], matchEnd := .none,
    cut := .none, arrived := [], got := [], await := false, unacked := [], failed := .none, again := .none }
def Part.reset : Part :=
  { inst := 0, started := false, src := 0, dst := 0, ctl := 0, bar := 0, snd := 0, slices := 0, wid := 0, after := 0,
    core := 0, stat := [], owed := [] }
def Port.reset : Port :=
  { cfg := 0x0000008008000020, up := false, err := false, dead := false, session := .none, epoch := 0, counter := 0, sealed := 0,
    rekeying := false, kept := [], spareUsed := false, moving := false, stale := 0, duplicate := 0, malformed := 0, dropped := 0, unsupported := 0 }
def Queue.reset : Queue :=
  { ring := 0, en := false, peerin := false, peerout := false, dberr := false, prio := 0, die := 0, ctx := 0, cap := 0,
    tail := 0, head := 0, asked := false, served := .none, lastNode := .none, lastFail := false }
def TrapQueue.reset : TrapQueue :=
  { hdr := 0, ring := 0, cap := 6, head := 0, tail := 0, lost := 0, recs := [], fatal := .none, fatals := 0 }
def Acl.reset : Acl :=
  { en := false, launch := false, mbox := false, coll := false, win := false, srcpkg := 0, srcctx := 0, dstctx := 0,
    qlo := 0, qhi := 0, maxperm := 0, lease := 0 }
def Ring.reset : Ring :=
  { base := 0, log2 := 0, isOpen := false, head := 0, tail := 0, taken := [], done := 0, notifyOn := false, notifyBase := 0, notifyLog2 := 0, notifyTail := 0,
    notifyLost := 0, waiting := [] }
def KeySlot.reset : KeySlot := { domain := 0, contexts := 0, epoch := 0, origin := 0, state := 0, key := 0, owner := .none, scrub := .none }
def Spdm.reset : Spdm := { version := 0, stage := 0 }

end Sys2Proof.Machine
end

