-- ==== Sys2Proof/Machine/State.lean ====
section
/-! DEFINITION. The machine's state: one X2 package, its memories, contexts, cores, engines, switch die and security
processor; the reasons a step can stop; and the state right after reset. -/

namespace Sys2Proof.Machine

open Sys2Proof

/-- Whose instruction exec is executing. -/
inductive Cur where
  | none
  /-- The scalar stream of a sounder: context, core, bank slot. -/
  | scalar (ctx core slot : Nat)
  /-- A join set of a sounder: its slices, bit per slice, at their common lane program counter. -/
  | lane (ctx core slot slices : Nat)
  /-- An MCF thread. -/
  | mcf (port ctx entry : Nat)
  deriving DecidableEq, Repr

/-- The state of one package. -/
structure State where
  plat     : Platform
  slots    : Tbl KeySlot
  spdm     : Tbl Spdm
  sessions : Tbl Session
  nextSession : Nat
  /-- Physical memory: HBM and second tier. An unlisted byte reads 0: frames are zeroed before use (R386). -/
  pmem     : Tbl Byte
  /-- The external host's memory, reached over PCIe. -/
  hmem     : Tbl Byte
  /-- Memory owned by the service, mapped in no context, by physical address: trap queues and setts (R394, R405). -/
  smem     : Tbl Byte
  /-- Poisoned 64-byte lines, by line number (R307). -/
  poison   : List Nat
  /-- Rows of HBM or DDR that have failed: how many lines, by the first; they stay poisoned until the next reset (R422). -/
  rows     : Tbl Nat
  pools    : Tbl Pool
  ctxs     : Tbl Ctx
  /-- Objects of context x on logical core c, keyed 512·x + c. -/
  cc       : Tbl CtxCore
  cores    : Tbl Core
  queues   : Tbl Queue
  nodes    : Tbl Node
  nextNode : Nat
  bufs     : List BufRec
  recqs    : Tbl RecQueue
  launches : Tbl Launch
  nextLaunch : Nat
  /-- Route table: port mask by package identifier. -/
  routes   : Tbl Nat
  ports    : Tbl Port
  acl      : Tbl Acl
  /-- Permits granted to other packages, and the number of the next (R376). -/
  granted  : List Permit
  nextPermit : Nat
  /-- Reliable ordered delivery, by package, context and queue: delivery context and number of the next packet to send, and the
  streams that come in (R377, R378). -/
  sent     : Tbl SeqNo
  inOrder  : Tbl InStream
  /-- Commands of each die's routing engine, and its dropped completions. -/
  routeQ   : Tbl (List RouteCmd)
  routeDropped : Tbl Nat
  nextRoute : Nat
  /-- MCF threads, keyed (port·4096 + context)·4096 + entry. -/
  threads  : Tbl Thread
  rings    : Tbl Ring
  shoots   : Tbl (List Shoot)
  /-- Remote operations waiting for an answer, and the number of the next. -/
  pend     : Tbl Pending
  nextOp   : Nat
  /-- Messages sent, newest first. -/
  out      : List OutMsg
  nextToken : Nat
  /-- What writes to device memory and scratchpad have replaced, newest first, and the number of the next write (R316). -/
  history  : List Past
  writes   : Nat
  /-- Agents that take the next steps, first first. -/
  agenda   : List Agent
  /-- The model's own counter: each free value is read at the next number. -/
  freeCtr  : Nat
  cur      : Cur
  deriving DecidableEq, Repr

/-- The canonical form of a memory: its addresses rise strictly, and no listed byte is what an unlisted address reads as. -/
def Memory.wf (t : Tbl Byte) : Bool := t.sorted && t.all (fun e => e.2 != 0)

/-- Why a step stops. -/
inductive Fault where
  /-- An instruction of a sounder or of an MCF thread is executed where no such party is current: raised by the meanings
  of words when exec is called outside a step. Safe: no run reaches it, a step sets the party first. -/
  | noParty
  deriving DecidableEq, Repr

/-- Why an instruction is refused. -/
inductive Refusal where
  /-- The arm of exec has no meaning for the instruction yet. Safe. -/
  | notModelled (mnemonic : String)
  deriving DecidableEq, Repr

/-- Bytes of HBM on one compute die: four stacks of 48 GiB (Table 3 of 12). -/
def hbmBytes : Nat := 4 * 48 * 2 ^ 30

/-- Bytes of DDR installed in the second tier: up to 3 TiB (Table 3 of 12, assumption log 37). -/
def ddrBytes : Nat := min Config.ddrBytes (3 * 2 ^ 40)

/-- First physical address of a die's HBM, and of the second tier for 4 (assumption log 8). -/
def poolBase (p : Nat) : Nat := (p + 1) * 2 ^ 44

/-- The frame pool of a die or of the second tier with nothing taken. -/
def Pool.reset (p : Nat) : Pool :=
  { next := poolBase p, last := poolBase p + (if p < 4 then hbmBytes else ddrBytes), free := [], retired := [] }

/-- The platform as the first reset finds it. DESIGN CHOICE: the temperature (assumption log 25), the numbers of the
spare cores (assumption log 77), the empty flash and the
fused version 0 (assumption log 26). -/
def Platform.reset : Platform :=
  { cycle := 0, step := 0, ended := 0, ddrDown := false, ddrUnused := 0, alive := false, ready := false, degraded := false, recovery := false, booterr := 0,
    dieup := 0, pkgid := 0, flash := none, booted := none, fuse := 0, serial := Config.serial, debugOpen := false,
    jtag := false, pcap := 3200, temp := 25, gating := false, thermal := false, errors := [],
    spares := (List.range 4).map (fun d => (d, (List.range 8).map (512 + 8 * d + ·))), moving := [], lanesUsed := [] }

namespace State

/-- The machine right after reset: nothing brought up, no context, every register at its reset value (R2, R360).
DESIGN CHOICE: unlisted host memory reads 0 (assumption log 7), new names count up from 0 (assumption log 9). -/
def reset : State :=
  { plat := Platform.reset, slots := [], spdm := [], sessions := [], nextSession := 0, pmem := [], hmem := [],
    smem := [], rows := [], poison := [], pools := [], ctxs := [], cc := [], cores := [], queues := [], nodes := [], nextNode := 0, bufs := [],
    recqs := [], launches := [], nextLaunch := 0, routes := [], ports := [], acl := [], granted := [], nextPermit := 0, sent := [],
    inOrder := [], routeQ := [],
    routeDropped := [], nextRoute := 0, threads := [], rings := [], shoots := [], pend := [], nextOp := 0, out := [],
    nextToken := 0, history := [], writes := 0, agenda := [], freeCtr := 0, cur := .none }

end State

end Sys2Proof.Machine
end

