-- ==== Sys2Proof/Machine/Ops.lean ====
section
/-! DEFINITION. The named operations over the state: the homes of contexts, cores and sounders, registers and system
registers, free values, physical memory, page-table walks (R382 to R385), events, barriers, handles, trap-queue
records, halts, taking a trap and returning from one (R234, R236). -/

namespace Sys2Proof.Machine

open Sys2Proof

/-! ## Where things live -/

/-- Key of a context's objects on a core. -/
def ccKey (ctx core : Nat) : Nat := 512 * ctx + core

namespace State

def ccOf (s : State) (ctx core : Nat) : CtxCore := s.cc.getOr CtxCore.reset (ccKey ctx core)
def putCC (s : State) (ctx core : Nat) (x : CtxCore) : State := { s with cc := s.cc.put (ccKey ctx core) x }
def modCC (s : State) (ctx core : Nat) (f : CtxCore → CtxCore) : State := s.putCC ctx core (f (s.ccOf ctx core))

def coreOf (s : State) (c : Nat) : Core := s.cores.getOr (Core.reset c) c
def putCore (s : State) (c : Nat) (x : Core) : State := { s with cores := s.cores.put c x }
def modCore (s : State) (c : Nat) (f : Core → Core) : State := s.putCore c (f (s.coreOf c))

/-- The sounder in a bank slot of a context on a core. -/
def snd? (s : State) (ctx core slot : Nat) : Option Snd := (s.ccOf ctx core).sounders.find slot
def putSnd (s : State) (ctx core slot : Nat) (x : Snd) : State :=
  s.modCC ctx core (fun cc => { cc with sounders := cc.sounders.put slot x })
def modSnd (s : State) (ctx core slot : Nat) (f : Snd → Snd) : State :=
  match s.snd? ctx core slot with
  | none => s
  | some x => s.putSnd ctx core slot (f x)

def ctx? (s : State) (ctx : Nat) : Option Ctx := s.ctxs.find ctx
def putCtx (s : State) (ctx : Nat) (x : Ctx) : State := { s with ctxs := s.ctxs.put ctx x }
def modCtx (s : State) (ctx : Nat) (f : Ctx → Ctx) : State := { s with ctxs := s.ctxs.modify ctx f }

def launch? (s : State) (l : Nat) : Option Launch := s.launches.find l
def modLaunch (s : State) (l : Nat) (f : Launch → Launch) : State := { s with launches := s.launches.modify l f }

def port (s : State) (p : Nat) : Port := s.ports.getOr Port.reset p
def putPort (s : State) (p : Nat) (x : Port) : State := { s with ports := s.ports.put p x }
def modPort (s : State) (p : Nat) (f : Port → Port) : State := s.putPort p (f (s.port p))

/-- Key of an MCF thread. -/
def threadKey (port ctx entry : Nat) : Nat := (port * 4096 + ctx) * 4096 + entry
def thread? (s : State) (port ctx entry : Nat) : Option Thread := s.threads.find (threadKey port ctx entry)
def putThread (s : State) (port ctx entry : Nat) (t : Thread) : State :=
  { s with threads := s.threads.put (threadKey port ctx entry) t }
def modThread (s : State) (port ctx entry : Nat) (f : Thread → Thread) : State :=
  { s with threads := s.threads.modify (threadKey port ctx entry) f }

def entry? (s : State) (ctx entry : Nat) : Option CollEntry := (s.ctx? ctx).bind (fun c => c.colls.find entry)
def modEntry (s : State) (ctx entry : Nat) (f : CollEntry → CollEntry) : State :=
  s.modCtx ctx (fun c => { c with colls := c.colls.modify entry f })

def image? (s : State) (ctx h : Nat) : Option Image := (s.ctx? ctx).bind (fun c => c.images.find h)

/-- The free bit at the next number, and the state that has used it. -/
def freeBit (s : State) : Bool × State := (Config.freeBit s.freeCtr, { s with freeCtr := s.freeCtr + 1 })
def freeWord (s : State) : BitVec 64 × State := (Config.freeWord s.freeCtr, { s with freeCtr := s.freeCtr + 1 })
/-- The free word `k` of those that one use reads together, apart from the words read at the counter. -/
def freeAt (s : State) (k : Nat) : BitVec 64 := Config.freeWord (s.freeCtr + 2 ^ 64 * (k + 1))

def cycle (s : State) : Nat := s.plat.cycle

/-- Send a message. -/
def send (s : State) (m : OutMsg) : State := { s with out := m :: s.out }

/-- The ports of a package's route mask that are up, ascending (R378). -/
def upPorts (s : State) (pkg : Nat) : List Nat :=
  (List.range 64).filter (fun p => s.routes.getOr 0 pkg / 2 ^ p % 2 == 1 && (s.port p).up)

/-- The port that a message to another package takes: the lowest-numbered one that is up under reliable ordered delivery,
any of those that are up under unordered delivery; none where no port is up (R378). DESIGN CHOICE (assumption log 64). -/
def portFor (s : State) (m : OutMsg) : Option Nat :=
  let ps := s.upPorts m.pkg
  if m.ordered then ps.head? else ps[Config.freeNat (s.freeCtr + 2 ^ 64 * (s.nextOp + 1)) % ps.length]?

/-- The packet counter of a link goes on; before it reaches 2^48 the link is re-keyed (R415). -/
def countSealed (s : State) (p : Nat) : State :=
  s.modPort p fun x =>
    if x.session.isNone then x
    else { x with sealed := x.sealed + 1, rekeying := x.rekeying || decide (2 ^ 48 ≤ x.sealed + 2) }

/-- A message goes out over a port, where one is up; what a package sends to itself uses no link. Under an epoch that is ending no
packet is sealed: while the link of its port is re-keyed the message is kept, and goes out again after that (R334, R415). -/
def emit (s : State) (m : OutMsg) : State :=
  if m.pkg = s.plat.pkgid then s.send m
  else
    match s.portFor m with
    | some p =>
      if (s.port p).rekeying then s.modPort p (fun x => { x with kept := x.kept ++ [m] }) else (s.countSealed p).send (.over p m)
    | none => s

/-- The messages that a port has kept go out: its link has a new key, or the session or the link is gone (R415). -/
def emitKept (s : State) (p : Nat) : State :=
  (s.port p).kept.foldl emit (s.modPort p (fun x => { x with kept := [] }))

/-- Send a message that waits for an answer; its number is the one before the new `nextOp`. -/
def sendOp (s : State) (m : OutMsg) : State :=
  { s.emit m with
      pend := s.pend.put s.nextOp { msg := m, port := if m.pkg = s.plat.pkgid then none else s.portFor m, retries := 0, sentAt := s.cycle,
                                    placed := 0, backoff := none, status := none },
      nextOp := s.nextOp + 1 }

/-- The number of the next packet of an ordered stream, in a delivery context that p4 allocates (Table 13 of 19). DESIGN CHOICE
(assumption log 64). -/
def nextSeq (s : State) (key : Nat) : SeqNo × State :=
  let q := s.sent.getOr { pdc := Config.freeNat s.freeCtr % 65536, n := 0 } key
  (q, { s with sent := s.sent.put key { q with n := q.n + 1 } })

/-- Send a message that goes in order, with its number in its stream (R378). -/
def sendNext (s : State) (m : OutMsg) : State :=
  match m.stream? with
  | some (k, _) => (s.nextSeq k).2.sendOp (m.renumber (s.nextSeq k).1)
  | none => s.sendOp m

end State

/-! ## Registers of a sounder -/

namespace Snd

/-- s0 to s63 (R17). -/
def sreg (x : Snd) (r : Nat) : Word := x.s.getOr 0 r
def setS (x : Snd) (r : Nat) (v : Word) : Snd := { x with s := x.s.setOr 0 r v }

/-- Condition c; c0 reads 1 (R18). -/
def cond (x : Snd) (c : Nat) : Bool := if c = 0 then true else x.c.getLsbD c
/-- Write a condition; a write to c0 has no effect (R18). -/
def setCond (x : Snd) (c : Nat) (b : Bool) : Snd :=
  if c = 0 then x
  else { x with c := if b then x.c ||| ((1 : BitVec 8) <<< c) else x.c &&& ~~~((1 : BitVec 8) <<< c) }

/-- Lane predicate; q0 reads all ones (R22). -/
def qreg (x : Snd) (i : Nat) : Bits96 := if i = 0 then BitVec.allOnes 96 else x.q.getOr 0 i
/-- Write a predicate; a write to q0 has no effect (R22). -/
def setQ (x : Snd) (i : Nat) (v : Bits96) : Snd := if i = 0 then x else { x with q := x.q.setOr 0 i v }

/-- The 96 lanes of a vector name (R16, R24). -/
def vreg (x : Snd) (n : Nat) : LaneVec := x.v.getOr LaneVec.zero n
def setV (x : Snd) (n : Nat) (v : LaneVec) : Snd := { x with v := x.v.setOr LaneVec.zero n v }

/-- The image whose code the sounder runs and whether it is the handler's (R233). -/
def codeImage (x : Snd) (c : Ctx) : Nat :=
  if x.handler then (match c.handler with | some (h, _, _) => h | none => x.image) else x.image

end Snd

/-! ## Physical memory -/

namespace State

def readPA (s : State) (pa : Nat) : Byte := s.pmem.getOr 0 pa
/-- A write keeps what it replaces, since an engine's read may still return it (R316). -/
def writePA (s : State) (pa : Nat) (b : Byte) : State :=
  { s with pmem := s.pmem.setOr 0 pa b, history := { stamp := s.writes, place := pa, old := s.readPA pa, engine := none, seen := [] } :: s.history }

/-- Forget what some places held: a frame handed on is zeroed and a bank handed on reads 0 (R386, R311). -/
def forget (s : State) (lo n : Nat) : State :=
  { s with history := s.history.filter (fun e => !(decide (lo ≤ e.place) && decide (e.place < lo + n))) }

/-- What a byte that reads `now` held when write number `t` was still to come. -/
def heldAt (s : State) (t place : Nat) (now : Byte) : Byte :=
  match (s.history.filter (fun e => e.place == place && decide (t ≤ e.stamp))).getLast? with
  | some e => e.old
  | none => now

/-- Some bytes as they were when write number `t` was still to come. -/
def bytesHeld (s : State) (t place : Nat) (bs : List Byte) : List Byte := bs.zipIdx.map fun (b, i) => s.heldAt t (place + i) b

/-- A point from write number `since` to now, any of them: the `k`-th that this step takes. DESIGN CHOICE (assumption log 61). -/
def readPoint (s : State) (since k : Nat) : Nat :=
  if s.writes ≤ since then since else since + Config.freeNat (s.freeCtr + 2 ^ 64 * (k + 1)) % (s.writes + 1 - since)

/-- The writes from number `since` on were made by a command of an engine of a core: without a release at package scope
other cores may not see them yet (R183, R317). -/
def veil (s : State) (since : Nat) (released : Bool) (core launch : Nat) : State :=
  if released then s
  else { s with history := s.history.map fun e => if since ≤ e.stamp then { e with engine := some (core, launch) } else e }

/-- A launch that has completed has released the writes of its commands (R301). -/
def unveil (s : State) (launch : Nat) : State :=
  { s with history := s.history.map fun e =>
      match e.engine with
      | some (_, l) => if l = launch then { e with engine := none } else e
      | none => e }

/-- The newest writes of a byte, as far as a party of a core may not have seen them (R317). -/
def unseen (s : State) (core place : Nat) : List Past :=
  (s.history.filter (fun e => e.place == place)).takeWhile fun e =>
    match e.engine with
    | some (k, _) => k != core && !e.seen.contains core
    | none => false

/-- Some of `n` bytes may read as they were before an engine of another core wrote them. -/
def lags (s : State) (core pa n : Nat) : Bool := (List.range n).any fun i => !(s.unseen core (pa + i)).isEmpty

/-- Bytes of memory as they were before such writes. -/
def bytesBefore (s : State) (core pa n : Nat) : List Byte :=
  (List.range n).map fun i => match (s.unseen core (pa + i)).getLast? with | some e => e.old | none => s.readPA (pa + i)

/-- A party of a core has read the newest values: an element of an engine of which it has read a byte is seen whole (R313). -/
def sees (s : State) (core pa n : Nat) : State :=
  let read := (s.history.filter (fun e => e.engine.isSome && decide (pa ≤ e.place) && decide (e.place < pa + n))).map (·.stamp)
  { s with history := s.history.map fun e =>
      if e.engine.isSome && read.contains e.stamp then { e with seen := core :: e.seen } else e }

/-- `n` bytes at a physical address, as a little-endian number (R10). -/
def readN (s : State) (pa : Nat) : Nat → Nat
  | 0 => 0
  | n + 1 => (s.readPA pa).toNat + 256 * s.readN (pa + 1) n

def bytesAt (s : State) (pa : Nat) : Nat → List Byte
  | 0 => []
  | n + 1 => s.readPA pa :: s.bytesAt (pa + 1) n

/-- A load of a party of a core: an engine's write on another core that is not released at package scope may still be
unseen (R317). -/
def readAs (s : State) (core pa n : Nat) : State × Nat :=
  if s.lags core pa n then
    if Config.freeBit s.freeCtr then ({ s with freeCtr := s.freeCtr + 1 }, leNat (s.bytesBefore core pa n))
    else ({ s.sees core pa n with freeCtr := s.freeCtr + 1 }, s.readN pa n)
  else (s, s.readN pa n)

/-- One write of some bytes. -/
def writeBytes (s : State) (pa : Nat) : List Byte → State
  | [] => { s with writes := s.writes + 1 }
  | b :: r => (s.writePA pa b).writeBytes (pa + 1) r

/-- A write of `n` bytes from `lo` on replaces the whole of line `k`. -/
def wholeLine (lo n k : Nat) : Bool := decide (lo ≤ 64 * k) && decide (64 * k + 64 ≤ lo + n)

/-- A write of `n` bytes, by the line numbers of its place: the poisoned lines that it replaces whole are good again (R307). -/
def cleanLines (s : State) (lo n : Nat) : State := { s with poison := s.poison.filter (fun k => !wholeLine lo n k) }

/-- A row of HBM or DDR that has failed holds the line (R422). -/
def inBadRow (s : State) (line : Nat) : Bool := s.rows.any (fun r => decide (r.1 ≤ line) && decide (line < r.1 + r.2))

/-- A line holds an uncorrectable error (R307), or lies in memory that has failed (R422). -/
def lineBad (s : State) (line : Nat) : Bool :=
  s.poison.contains line || s.inBadRow line || s.pools.any (fun p => p.2.retired.any (fun r => decide (r.1 ≤ 64 * line) && decide (64 * line < r.1 + r.2)))
def poisoned (s : State) (pa : Nat) : Bool := s.lineBad (pa / 64)

/-- Host memory. -/
def readHost (s : State) (a n : Nat) : Nat :=
  match n with
  | 0 => 0
  | n + 1 => (s.hmem.getOr 0 a).toNat + 256 * s.readHost (a + 1) n
def writeHost (s : State) (a : Nat) : List Byte → State
  | [] => s
  | b :: r => ({ s with hmem := s.hmem.setOr 0 a b } : State).writeHost (a + 1) r

end State

/-- The low `n` bytes of a value (R10). -/
abbrev toBytes (n v : Nat) : List Byte := leBytes n v

/-! ## Page tables (R382 to R385, R426) -/

/-- How a walk ends. -/
inductive Walk where
  | leaf (level entry : Nat)
  /-- An entry with V = 0: its level and its L bit. -/
  | absent (level : Nat) (reserved : Bool)
  | malformed (level : Nat)
  deriving DecidableEq, Repr

/-- Lowest VA bit that a level indexes (Table 1 of 20). -/
def levelShift (l : Nat) : Nat := 12 + 9 * l
/-- Entries of a table. -/
def levelSize (l : Nat) : Nat := if l = 4 then 256 else 512

/-- Fields of a page-table entry (Table 2 of 20). -/
def pteKind (e : Nat) : Nat := e / 2 ^ 62 % 4
def ptePkg (e : Nat) : Nat := e / 2 ^ 50 % 4096
def pteFrame (e : Nat) : Nat := e / 2 ^ 6 % 2 ^ 44
def ptePin (e : Nat) : Bool := e / 2 ^ 5 % 2 == 1
def pteC (e : Nat) : Bool := e / 2 ^ 4 % 2 == 1
def pteW (e : Nat) : Bool := e / 2 ^ 3 % 2 == 1
def pteR (e : Nat) : Bool := e / 2 ^ 2 % 2 == 1
def pteL (e : Nat) : Bool := e / 2 % 2 == 1
def pteV (e : Nat) : Bool := e % 2 == 1

/-- Log2 of the size a leaf maps. -/
def leafShift (level : Nat) (e : Nat) : Nat := if level = 0 ∧ pteC e then 16 else levelShift level

/-- An entry with V = 1 is malformed (R384). -/
def pteMalformed (level e : Nat) : Bool :=
  let k := pteKind e
  (level == 0 && !pteL e) || (3 ≤ level && pteL e) || (level != 0 && pteC e) ||
  (!pteL e && k != 0) || (k != 2 && ptePkg e != 0) || (k ≤ 2 && pteW e && !pteR e) ||
  (pteL e && pteFrame e * 4096 % 2 ^ leafShift level e != 0) ||
  (pteL e && k == 3 && pteFrame e / 4096 != 0)

/-- The walk of a virtual address from the table of a level down (R382). -/
def walkFrom (s : State) (va : Nat) : Nat → Nat → Walk
  | 0, table =>
    let e := s.readN (table + 8 * (va / 2 ^ levelShift 0 % levelSize 0)) 8
    if !pteV e then .absent 0 (pteL e) else if pteMalformed 0 e then .malformed 0 else .leaf 0 e
  | l + 1, table =>
    let e := s.readN (table + 8 * (va / 2 ^ levelShift (l + 1) % levelSize (l + 1))) 8
    if !pteV e then .absent (l + 1) (pteL e)
    else if pteMalformed (l + 1) e then .malformed (l + 1)
    else if pteL e then .leaf (l + 1) e
    else walkFrom s va l (pteFrame e * 4096)

/-- What a translation answers: a place, or the fault detail word (Table 4 of 20). -/
inductive Trans where
  | ok (loc : Loc)
  | fail (detail : Nat)
  deriving DecidableEq, Repr

/-- The detail word without its cause-0x51 fields (Table 4 of 20). -/
def detailWord (malformed write read present inres : Bool) (level : Nat) : Nat :=
  (if malformed then 128 else 0) + (if write then 64 else 0) + (if read then 32 else 0) + (if present then 16 else 0) +
  (if inres then 8 else 0) + level

/-- Where a leaf sends an address (R383). The control space lies below every memory pool (assumption log 8). -/
def leafLoc (level e va : Nat) : Loc :=
  let a := pteFrame e * 4096 + va % 2 ^ leafShift level e
  match pteKind e with
  | 0 => if a < 2 ^ 30 then .control a else .mem false a
  | 1 => .mem true a
  | 2 => .window (ptePkg e) a
  | _ => .aliasWin (pteFrame e % 4096) va

/-- Translate an access of a context (R385). No page lies at 2^56 or above (R156, R382). -/
def translate (s : State) (ctx va : Nat) (read write : Bool) : Trans :=
  match s.ctx? ctx with
  | none => .fail (detailWord false write read false false 4)
  | some c =>
    if 2 ^ 56 ≤ va then .fail (detailWord false write read false false 4)
    else
    match walkFrom s va 4 c.troot with
    | .absent l r => .fail (detailWord false write read false r l)
    | .malformed l => .fail (detailWord true write read false false l)
    | .leaf l e =>
      if (read && !pteR e) || (write && !pteW e) then .fail (detailWord false write read true false l)
      else .ok (leafLoc l e va)

/-- The level at which the walk of an address ends (LEVEL of Table 4 of 20). -/
def walkLevel (s : State) (ctx va : Nat) : Nat :=
  match s.ctx? ctx with
  | none => 4
  | some c => match walkFrom s va 4 c.troot with | .leaf l _ | .absent l _ | .malformed l => l

/-- The physical address of a virtual one in local memory, whatever its rights: for reads and writes of pinned areas
(R385). -/
def physOf (s : State) (ctx va : Nat) : Option Nat :=
  match translate s ctx va false false with
  | .ok (.mem _ pa) => some pa
  | _ => none

/-- Write bytes at a virtual address of pinned local memory, byte by byte. -/
def writeVirt (s : State) (ctx : Nat) : Nat → List Byte → State
  | _, [] => { s with writes := s.writes + 1 }
  | va, b :: r =>
    match physOf s ctx va with
    | some pa => writeVirt ((s.writePA pa b).cleanLines pa 1) ctx (va + 1) r
    | none => writeVirt s ctx (va + 1) r

def readVirt (s : State) (ctx : Nat) : Nat → Nat → List Byte
  | _, 0 => []
  | va, n + 1 =>
    (match physOf s ctx va with | some pa => s.readPA pa | none => 0) :: readVirt s ctx (va + 1) n

/-! ## Grants (R28) -/

/-- The bank a context holds on a core, if it is resident there. -/
def residentBank (s : State) (ctx core : Nat) : Option Nat :=
  let c := s.coreOf core
  if c.bank0 = some ctx then some 0 else if c.bank1 = some ctx then some 1 else none

/-- A context holds the active bank of a core (R276). -/
def isActive (s : State) (ctx core : Nat) : Bool :=
  let c := s.coreOf core
  (if c.active = 0 then c.bank0 else c.bank1) == some ctx

/-- Number under which the line of a scratchpad byte is recorded as poisoned, apart from every physical line. -/
def spLine (ctx core addr : Nat) : Nat := 2 ^ 62 + (ccKey ctx core) * 2 ^ 14 + addr / 64

/-- The mode an SRAM bank has for a context: none where it is not granted (R158, R308). While the context is away the
sett keeps it. -/
def bankMode (s : State) (ctx core b : Nat) : Option Nat :=
  if 24 ≤ b then none
  else
    match (s.ccOf ctx core).place with
    | .away => (s.ccOf ctx core).saved.find b
    | .bank k =>
      let e := (s.coreOf core).entries.getOr BankEntry.reset b
      if e.owner = k + 1 ∧ e.mode ≠ 0 then some e.mode else none

/-- A byte of scratchpad is reachable: its bank is granted and in scratchpad mode (R158). -/
def spMapped (s : State) (ctx core addr : Nat) : Bool :=
  decide (addr < 0xC0000) && bankMode s ctx core (addr / 2 ^ 15) == some 1

def readSP (s : State) (ctx core addr : Nat) : Byte := (s.ccOf ctx core).sram.getOr 0 addr

/-- The place of a scratchpad byte among those whose replaced values are kept, apart from every physical address. -/
def spPlace (ctx core addr : Nat) : Nat := 2 ^ 64 + ccKey ctx core * 2 ^ 20 + addr

/-- The write count of a bank advances on every write into it (R46). -/
def bumpBank (s : State) (core b : Nat) : State :=
  s.modCore core (fun c =>
    let e := c.entries.getOr BankEntry.reset b
    { c with entries := c.entries.put b { e with wcount := e.wcount + 1 } })

def writeSP (s : State) (ctx core addr : Nat) (bs : List Byte) : State :=
  let rec go (t : Tbl Byte) (a : Nat) : List Byte → Tbl Byte
    | [] => t
    | b :: r => go (t.setOr 0 a b) (a + 1) r
  let old := (bs.zipIdx.map fun (_, i) => { stamp := s.writes, place := spPlace ctx core (addr + i), old := readSP s ctx core (addr + i), engine := none, seen := [] : Past })
  let s := { s with history := old ++ s.history, writes := s.writes + 1 }
  let s := s.cleanLines (64 * spLine ctx core addr + addr % 64) bs.length
  bumpBank (s.modCC ctx core (fun cc => { cc with sram := go cc.sram addr bs })) core (addr / 2 ^ 15)

def spBytes (s : State) (ctx core : Nat) : Nat → Nat → List Byte
  | _, 0 => []
  | a, n + 1 => readSP s ctx core a :: spBytes s ctx core (a + 1) n

def spN (s : State) (ctx core a n : Nat) : Nat := leNat (spBytes s ctx core a n)

/-! ## Counters of corrections and retries (R421, R424) -/

/-- Keys of telemetry counters in the platform's table: alias stores discarded, array commands executed again, packets sent
again, lines with an uncorrectable error, and one counter of corrections for each structure of Table 6 of 21. DEDUCED
(assumption log 36). -/
def aliasDuplicates : Nat := 1
def arrayRetries : Nat := 2
def packetRetries : Nat := 3
def poisonedLines : Nat := 4
def corrections : Nat := 8

def countError (s : State) (k : Nat) : State :=
  { s with plat := { s.plat with errors := s.plat.errors.put k (s.plat.errors.getOr 0 k + 1) } }

/-! ## Events (R219) -/

/-- KIND and OBJECT of an event binding (Table 4 of 01). -/
def bindKind (b : Word) : Nat := bits b 31 28
def bindObject (b : Word) : Nat := bits b 27 0
def bindHandler (b : Word) : Nat := bits b 63 32

/-- Set PENDING in every slot of one sounder that is armed with an object (R219). -/
def latch (kind obj : Nat) (x : Snd) : Snd :=
  let hit := fun j => x.armed.getLsbD j && bindKind (x.evbind.getOr 0 j) == kind &&
    bindObject (x.evbind.getOr 0 j) == obj
  { x with pending := (List.range 8).foldl (fun p j => if hit j then p ||| ((1 : BitVec 8) <<< j) else p) x.pending }

/-- An event occurs at an object of a context on a core (R219); in the sett as in a bank (R290). -/
def occur (s : State) (ctx core kind obj : Nat) : State :=
  s.modCC ctx core (fun cc => { cc with sounders := cc.sounders.mapV (fun _ x => latch kind obj x) })

/-! ## Trap-queue records (R394 to R396) -/

/-- The header fields of a record (Table 6 of 20). -/
structure RecHdr where
  type   : Nat
  fatal  : Bool
  replay : Bool
  snd    : Nat
  core   : Nat
  unit   : Nat
  why    : Nat
  token  : Nat
  deriving DecidableEq, Repr

/-- The 2048 bits of a record written at a slot index (Tables 6 and 7 of 20). -/
def recordWord (h : RecHdr) (seq time body : Nat) : Nat :=
  body % 2 ^ 1024 + seq % 2 ^ 64 * 2 ^ 1024 + h.type * 2 ^ 1088 + (if h.fatal then 2 ^ 1096 else 0) +
  (if h.replay then 2 ^ 1097 else 0) + h.snd % 2 ^ 24 * 2 ^ 1104 + h.core * 2 ^ 1128 + h.unit * 2 ^ 1137 +
  h.why * 2 ^ 1144 + h.token % 2 ^ 64 * 2 ^ 1152 + time % 2 ^ 64 * 2 ^ 1216

/-- Whether a non-fatal record has room (R395). -/
def TrapQueue.room (q : TrapQueue) : Bool := q.tail - q.head < 2 ^ q.cap - 4

/-- The 512 bits of the header (Table 5 of 20). -/
def TrapQueue.header (q : TrapQueue) : Nat :=
  q.tail % 2 ^ 64 + q.head % 2 ^ 64 * 2 ^ 64 + q.ring * 2 ^ 128 + q.cap * 2 ^ 192 + q.lost % 2 ^ 64 * 2 ^ 256

/-- Write bytes of memory that the service owns. -/
def writeService (s : State) (pa : Nat) (bs : List Byte) : State :=
  { s with smem := bs.zipIdx.foldl (fun t (b, i) => t.setOr 0 (pa + i) b) s.smem }

/-- A context's trap queue as it stands now, with its header in memory (R394). -/
def putTrapq (s : State) (ctx : Nat) (c : Ctx) (q : TrapQueue) : State :=
  let t := s.putCtx ctx { c with trapq := q }
  if q.hdr = 0 then t else writeService t q.hdr (toBytes 64 q.header)

/-- A record lies in its slot of the ring (R394, R395). -/
def writeSlot (s : State) (q : TrapQueue) (w : Nat) : State :=
  if q.ring = 0 then s else writeService s (q.ring + 256 * (q.tail % 2 ^ q.cap)) (toBytes 256 w)

/-- A queue with one more record. -/
def TrapQueue.push (q : TrapQueue) (w : Nat) : TrapQueue :=
  { q with tail := q.tail + 1, recs := q.recs ++ [w] }
/-- A full queue keeps the first fatal record in its fatal register and counts later ones (R395). -/
def TrapQueue.keepFatal (q : TrapQueue) (w : Nat) : TrapQueue :=
  match q.fatal with
  | none => { q with fatal := some w }
  | some _ => { q with fatals := q.fatals + 1 }

/-- Put a record into a context's queue; none where a record that is not fatal has no room (R395). -/
def putRecord (s : State) (ctx : Nat) (h : RecHdr) (body : Nat) : Option State :=
  match s.ctx? ctx with
  | none => none
  | some c =>
    let q := c.trapq
    let w := recordWord h (q.tail + 1) s.cycle body
    if h.fatal then
      if q.tail - q.head < 2 ^ q.cap then some (putTrapq (writeSlot s q w) ctx c (q.push w))
      else some (putTrapq s ctx c (q.keepFatal w))
    else if q.room then some (putTrapq (writeSlot s q w) ctx c (q.push w))
    else none

/-- Write an informational record, or count it in LOST where there is no room (R395). -/
def noteRecord (s : State) (ctx : Nat) (h : RecHdr) (body : Nat) : State :=
  match putRecord s ctx h body with
  | some t => t
  | none => match s.ctx? ctx with
    | some c => putTrapq s ctx c { c.trapq with lost := c.trapq.lost + 1 }
    | none => s

/-- Body of a type-2 or type-3 record (Table 7 of 20). -/
def engineBody (cause handle queue addr detail : Nat) : Nat :=
  cause + handle % 256 * 2 ^ 128 + queue % 2 ^ 16 * 2 ^ 144 + addr * 2 ^ 384 + detail * 2 ^ 448

/-- A 512-byte notification (R390). -/
def notification (type action ctx va page count seq : Nat) (recw : Nat) : List Byte :=
  [BitVec.ofNat 8 type, BitVec.ofNat 8 action] ++ toBytes 2 ctx ++ toBytes 4 0 ++ toBytes 8 va ++
  toBytes 4 page ++ toBytes 4 count ++ toBytes 8 seq ++ toBytes 32 0 ++ toBytes 256 recw ++ toBytes 192 0

/-- Write a notification into a partition's ring, hold it back, or count it (R390). -/
def notify (s : State) (part type action ctx va page count recw : Nat) : State :=
  let r := s.rings.getOr Ring.reset part
  if !r.notifyOn then s
  else
    let head := s.readHost r.notifyBase 8
    if r.notifyTail - head < 2 ^ r.notifyLog2 then
      let bs := notification type action ctx va page count (r.notifyTail + 1) recw
      let s := s.writeHost (r.notifyBase + 4096 + 512 * (r.notifyTail % 2 ^ r.notifyLog2)) bs
      { s with rings := s.rings.put part { r with notifyTail := r.notifyTail + 1 } }
    else if type = 1 ∨ type = 2 ∨ (type = 4 ∧ action = 0) then
      let s := s.writeHost (r.notifyBase + 8) (toBytes 8 (r.notifyLost + 1))
      { s with rings := s.rings.put part { r with notifyLost := r.notifyLost + 1 } }
    else
      let r' := { r with waiting := r.waiting ++ [notification type action ctx va page count 0 recw] }
      { s with rings := s.rings.put part r' }

/-- The notifications of a list that a partition's ring has room for are written, in order, each with its SEQ; the rest go
on waiting (R390). -/
def flushNotes (s : State) (part : Nat) : List (List Byte) → State
  | [] => { s with rings := s.rings.modify part (fun r => { r with waiting := [] }) }
  | b :: l =>
    let r := s.rings.getOr Ring.reset part
    if r.notifyTail - s.readHost r.notifyBase 8 < 2 ^ r.notifyLog2 then
      let s := s.writeHost (r.notifyBase + 4096 + 512 * (r.notifyTail % 2 ^ r.notifyLog2))
        (b.take 24 ++ toBytes 8 (r.notifyTail + 1) ++ b.drop 32)
      flushNotes { s with rings := s.rings.put part { r with notifyTail := r.notifyTail + 1 } } part l
    else { s with rings := s.rings.put part { r with waiting := b :: l } }

/-- The notifications that wait for room in any partition's ring. -/
def flushRings (s : State) : State := s.rings.foldl (fun s e => flushNotes s e.1 e.2.waiting) s

/-- The host writes its own memory: what it writes is seen by the next read of it, and where it has moved the HEAD of a
notifier ring the notifications that waited are written (R363, R390). DESIGN CHOICE (assumption log 7). -/
def hostWrite (s : State) (a : Nat) (bs : List Byte) : State := flushRings (s.writeHost a bs)

/-! ## Completions aimed at a context (R290) -/

/-- The unit that sends a completion, for its dropped-completion counter (R290). -/
inductive Sender where
  | core (c : Nat)
  | route (die : Nat)
  | port (p : Nat)
  | other
  deriving DecidableEq, Repr

/-- Count a dropped completion in the unit that sent it; the counters wrap (R290, R362). -/
def dropCompletion (s : State) : Sender → State
  | .core c => s.modCore c (fun x => { x with dropped := (x.dropped + 1) % 2 ^ 64 })
  | .route d => { s with routeDropped := s.routeDropped.put d ((s.routeDropped.getOr 0 d + 1) % 2 ^ 64) }
  | .port p => s.modPort p (fun x => { x with dropped := (x.dropped + 1) % 2 ^ 64 })
  | .other => s

/-- The context exists and is not halted. -/
def ctxLive (s : State) (ctx : Nat) : Bool :=
  match s.ctx? ctx with
  | none => false
  | some c => !c.halted

/-- The key slot of a context is revoked: every memory controller refuses a read or write under it (R413). -/
def revoked (s : State) (ctx : Nat) : Bool :=
  match s.ctx? ctx with
  | none => false
  | some c => (s.slots.getOr KeySlot.reset c.slot).state == 2

/-- A sounder may issue at all: it is neither parked nor suspended, and no replay of its tret is under way (R48, R236). -/
def Snd.mayIssue (x : Snd) : Bool := !x.parked && x.suspended.isNone && x.oplog.all (·.2.again.isEmpty)

/-- A sounder that waits may go on: its context is live and holds the core. -/
def mayWake (s : State) (ctx core : Nat) (x : Snd) : Bool := x.mayIssue && isActive s ctx core && ctxLive s ctx

/-- A power-gated core is woken for a completion of a resident context (R290). -/
def wake (s : State) (ctx core : Nat) : State :=
  if (residentBank s ctx core).isSome && (s.coreOf core).gated then
    s.modCore core (fun c => { c with gated := false })
  else s

/-! ## Writing identities (R296) -/

/-- Identity of a barrier reference, of a sounder's own index, of a package; 0 stands for no identity. -/
def widBar (ref : Nat) : Nat := 2 ^ 33 + ref % 2 ^ 18
def widOwn (idx : Nat) : Nat := 2 ^ 32 + idx
def widPkg (pkg : Nat) : Nat := 2 ^ 34 + pkg

/-- The writing identity of a sounder: 0 outside deterministic mode. -/
def Snd.identity (x : Snd) : Nat :=
  if x.determ then (match x.wids with | r :: _ => widBar r | [] => widOwn x.idx) else 0

/-- The launch and index of a sounder as one number, which no other sounder ever has. -/
def Snd.uid (x : Snd) : Nat := x.launch * 2 ^ 24 + x.idx

/-- The record header of an informational record of a unit. -/
def infoHdr (type unit core snd : Nat) : RecHdr :=
  { type := type, fatal := false, replay := false, snd := snd, core := core, unit := unit, why := 0, token := 0 }

/-- Body of a multi-writer record (Table 7 of 20). -/
def multiBody (addr epoch a b lost : Nat) : Nat :=
  epoch % 2 ^ 64 + a * 2 ^ 64 + b * 2 ^ 128 + lost % 2 ^ 64 * 2 ^ 192 + addr * 2 ^ 384

/-- The newest multi-writer record of an epoch with its count of reports not written set to `n` (R296). -/
def amendMulti (epoch n : Nat) : List Nat → List Nat
  | [] => []
  | w :: r =>
    if w / 2 ^ 1088 % 256 = 6 ∧ w % 2 ^ 64 = epoch % 2 ^ 64 then
      (w - w / 2 ^ 192 % 2 ^ 64 * 2 ^ 192 + n % 2 ^ 64 * 2 ^ 192) :: r
    else w :: amendMulti epoch n r

/-- The slots of the unread records hold them as they stand now. -/
def rewriteRecs (s : State) (q : TrapQueue) : State :=
  if q.ring = 0 then s
  else q.recs.zipIdx.foldl (fun s (w, i) => writeService s (q.ring + 256 * ((q.head + i) % 2 ^ q.cap)) (toBytes 256 w)) s

/-- A write of an identity to a line of a context (R296). DEDUCED (assumption log 59). -/
def noteLine (s : State) (ctx line wid : Nat) : State :=
  if wid = 0 then s
  else
    match s.ctx? ctx with
    | none => s
    | some c =>
      match c.lines.find line with
      | none => s.putCtx ctx { c with lines := c.lines.put line (c.epoch, wid, false) }
      | some (ep, id, told) =>
        if ep ≠ c.epoch then s.putCtx ctx { c with lines := c.lines.put line (c.epoch, wid, false) }
        else if id = wid ∨ told then s
        else
          let c' := { c with lines := c.lines.put line (ep, id, true), reports := c.reports + 1 }
          if c.reports < 256 then
            noteRecord (s.putCtx ctx c') ctx (infoHdr 6 8 0 0) (multiBody (64 * line) ep id wid 0)
          else
            let q := { c.trapq with recs := (amendMulti ep (c.withheld + 1) c.trapq.recs.reverse).reverse }
            rewriteRecs (s.putCtx ctx { c' with withheld := c.withheld + 1, trapq := q }) q

/-- The writes of an identity to `n` lines from a line on. -/
def noteLines (s : State) (ctx line wid : Nat) : Nat → State
  | 0 => s
  | n + 1 => noteLines (noteLine s ctx line wid) ctx (line + 1) wid n

/-- Store bytes at a physical address under a writing identity, which every line they touch takes (R296, R307). -/
def storeMem (s : State) (ctx pa wid : Nat) (bs : List Byte) : State :=
  noteLines ((s.writeBytes pa bs).cleanLines pa bs.length) ctx (pa / 64) wid
    (if bs.isEmpty then 0 else (pa + bs.length - 1) / 64 - pa / 64 + 1)

/-! ## Barriers (R212) -/

def barrierOf (s : State) (ctx core b : Nat) : Barrier := (s.ccOf ctx core).barriers.getOr Barrier.reset b
def putBarrier (s : State) (ctx core b : Nat) (x : Barrier) : State :=
  s.modCC ctx core (fun cc => { cc with barriers := cc.barriers.put b x })

/-- Fields of a barrier reference (Table 1 of 08). -/
def refCore (r : Nat) : Nat := r / 2 ^ 9 % 2 ^ 9
def refNumber (r : Nat) : Nat := r % 2 ^ 9
/-- The reference names a barrier in the context's share on its core (R211). -/
def refGranted (s : State) (ctx r : Nat) : Bool := (s.ccOf ctx (refCore r)).share.barriers.contains (refNumber r)

/-- NEED of R212. -/
def Barrier.need (b : Barrier) : Nat := b.members + b.extra

/-- The greatest clock among the member arrivals of the open phase (R294). -/
def Barrier.clock (b : Barrier) : Nat := b.ranks.foldl (fun m r => max m r.2.2.2) 0

/-- The barrier reference and token that a sounder waits for: also in handler mode, where a trap has set its wait aside, which goes
on (R234). -/
def SWait.barrier? : SWait → Option (Nat × Nat)
  | .bar _ r t => some (r, t)
  | _ => none
def Snd.barWait (x : Snd) : Option (Nat × Nat) := (x.wait.barrier?).orElse fun _ => x.aside.bind fun a => a.wait.barrier?

/-- A sounder waits for the phase of a number of a barrier (R216). -/
def Snd.waitsOn (x : Snd) (ref phase : Nat) : Bool :=
  match x.barWait with
  | some (r, t) => r % 2 ^ 18 == ref % 2 ^ 18 && t % 2 ^ 56 == phase
  | none => false

/-- A scalar stream that its port may issue: at an instruction, or at an mbsend that has read its message and waits for its
release (R225). -/
def SWait.issues : SWait → Bool
  | .ready => true
  | .mbread _ _ _ left _ => left == 0
  | _ => false

/-- The one indivisible step of a completed phase (R212), with the events, the context's epoch (R296) and the clocks of
the waiters in deterministic mode (R294). -/
def completePhase (s : State) (ctx core b : Nat) : State :=
  let x := barrierOf s ctx core b
  let y := { x with lastStat := x.openStat, phase := x.phase + 1, arrived := 0, openStat := 0,
                    ranks := x.ranks.mapV (fun _ r => (r.1, 0, 0)) }
  let ref := core * 2 ^ 9 + b
  let release := fun z : Snd =>
    if z.determ && z.waitsOn ref x.phase.toNat then { z with lclock := BitVec.ofNat 64 (max z.lclock.toNat x.clock) } else z
  let t := putBarrier s ctx core b y
  let t := t.modCtx ctx (fun c => { c with epoch := c.epoch + 1, reports := 0, withheld := 0 })
  let t := { t with cc := t.cc.mapV (fun k cc =>
    if k / 512 = ctx then { cc with sounders := cc.sounders.mapV (fun _ z => release z) } else cc) }
  occur t ctx core 1 b

/-- The test made after every arrival, join and departure (R212). -/
def testPhase (s : State) (ctx core b : Nat) : State :=
  let x := barrierOf s ctx core b
  if x.formed ∧ x.need ≤ x.arrived then completePhase s ctx core b else s

/-- An arrival of an engine with its status (R212, R290). -/
def engineArrive (s : State) (ctx ref status : Nat) (from_ : Sender) : State :=
  if !ctxLive s ctx then dropCompletion s from_
  else
    let s := wake s ctx (refCore ref)
    let x := barrierOf s ctx (refCore ref) (refNumber ref)
    if !x.drey then
      noteRecord s ctx (infoHdr 8 0 (refCore ref) 0) (ref % 2 ^ 18 + status % 256 * 2 ^ 32)
    else
      let y := { x with arrived := x.arrived + 1, openStat := x.openStat ||| BitVec.ofNat 8 status }
      testPhase (putBarrier s ctx (refCore ref) (refNumber ref) y) ctx (refCore ref) (refNumber ref)

/-! ## Copy handles (R194) -/

def handleOf (s : State) (ctx core h : Nat) : Handle := (s.ccOf ctx core).handles.getOr Handle.reset h

/-- Move a handle, which is a kind-2 event (R194). -/
def moveHandle (s : State) (ctx core h : Nat) (x : Handle) : State :=
  let s := wake s ctx core
  occur (s.modCC ctx core (fun cc => { cc with handles := cc.handles.put h x })) ctx core 2 h

/-- A completion's move of a handle: dropped where the context is halted (R290). -/
def completeHandle (s : State) (ctx core h : Nat) (x : Handle) (from_ : Sender) : State :=
  if ctxLive s ctx then moveHandle s ctx core h x else dropCompletion s from_

/-! ## Nodes and launches (R301, R370) -/

/-- Fields of a launch packet (Table 7 of 19). -/
def pktF (pkt hi lo : Nat) : Nat := pkt / 2 ^ lo % 2 ^ (hi + 1 - lo)

/-- Length of a packet's argument bytes, and how many of them one read through a window brings from an address on. -/
def pktArgLen (p : Nat) : Nat := pktF p 127 116
def argChunk (a left : Nat) : Nat := min (8 - a % 8) left

/-- The PKG and NACKWHY fields of a fault detail (Table 4 of 20). -/
def nackDetail (pkg why : Nat) (read write : Bool) : Nat :=
  (if write then 64 else 0) + (if read then 32 else 0) + why % 16 * 2 ^ 16 + pkg % 4096 * 2 ^ 20

/-- Permits outstanding for a queue (R376). -/
def permitsOf (s : State) (queue : Nat) : Nat := (s.granted.filter (fun p => p.queue == queue)).length

/-- A doorbell write (R365): a value below TAIL or more than the ring above HEAD is discarded and sets DBERR; slots that permits
reserve are not the writer's (R376). DEDUCED (assumption log 65). -/
def doorbell (s : State) (q tail : Nat) : State :=
  if 1024 ≤ q then s
  else
    let x := s.queues.getOr Queue.reset q
    let y := if tail < x.tail ∨ x.head + 2 ^ x.cap < tail + (if x.tail < tail then permitsOf s q else 0) then { x with dberr := true } else { x with tail := tail }
    { s with queues := s.queues.put q y }

/-- A device party's write to a doorbell page (R362): an n64 at the page's start rings it; other bytes change nothing. -/
def ringControl (s : State) (off : Nat) (bs : List Byte) : State :=
  if 0x1000000 ≤ off ∧ off < 0x1400000 ∧ off % 0x1000 = 0 ∧ bs.length = 8 then
    doorbell s ((off - 0x1000000) / 0x1000) (leNat bs)
  else s

/-- How the completion word is written. -/
inductive StatWrite where
  | done
  /-- On its way to another package. -/
  | sent
  | failed (cause detail : Nat)
  deriving DecidableEq, Repr

/-- Write the completion word of a node with a packet and a status (R370). Whether a write of part of a poisoned line meets
the error is left open. Under a revoked key the memory controller refuses it (R413). -/
def writeStat (s : State) (ctx queue addr v pkt status : Nat) : State × StatWrite :=
  if revoked s ctx then (s, .done)
  else
  match translate s ctx addr false true with
  | .fail d => (s, .failed 0x1B d)
  | .ok (.mem _ pa) =>
    let (bad, s) := if s.poisoned pa then s.freeBit else (false, s)
    if bad then (s, .failed 0x50 (nackDetail 0 0 false true + walkLevel s ctx addr)) else (storeMem s ctx pa 0 (toBytes 8 v), .done)
  | .ok (.window pkg a) => (s.sendOp (.store pkg [(a, toBytes 8 v)] (.peer ctx queue addr pkt status)), .sent)
  | .ok (.control off) => (ringControl s off (toBytes 8 v), .done)
  | .ok _ => (s, .failed 0x13 0)

/-- The signals of a completed node that follow its completion word: BARV arrival, MSI-X message (R370). -/
def signalRest (s : State) (ctx pkt status : Nat) : State :=
  let s := if pktF pkt 383 383 = 1 then
      engineArrive s ctx (pktF pkt 337 320) (if status = 0 then 0 else 0x10) .other else s
  if pktF pkt 382 382 = 1 then s.send (.msix (pktF pkt 381 371)) else s

/-- The signals of a completed node: completion word, then BARV arrival and MSI-X message, which wait until a word that goes to
another package has been written there (R370). -/
def signalNode (s : State) (ctx queue qindex pkt status : Nat) : State :=
  let addr := pktF pkt 311 256
  if addr = 0 then signalRest s ctx pkt status
  else
    match writeStat s ctx queue addr (status + qindex % 2 ^ 32 * 2 ^ 32) pkt status with
    | (t, .done) => signalRest t ctx pkt status
    | (t, .sent) => t
    | (t, .failed c d) => signalRest (noteRecord t ctx (infoHdr 3 5 0 0) (engineBody c 0 queue addr d)) ctx pkt status

/-- A node completes: its signals, and its dependants and the buffer records let it go (R370 to R373). -/
def completeNode (s : State) (id status : Nat) : State :=
  match s.nodes.find id with
  | none => s
  | some n =>
    let ctx := pktF n.pkt 63 52
    let s := signalNode s ctx n.queue n.qindex n.pkt status
    let free := fun m : Node =>
      if m.preds.contains id then
        { m with preds := m.preds.filter (· != id), failed := m.failed || status != 0 }
      else m
    let nodes := (s.nodes.del id).mapV (fun _ m => free m)
    let bufs := (s.bufs.map (fun b => { b with writer := if b.writer = some id then none else b.writer,
                                               readers := b.readers.filter (· != id) })).filter
                  (fun b => b.writer.isSome || !b.readers.isEmpty)
    let queues := s.queues.modify n.queue (fun q =>
      if q.lastNode = some id then { q with lastFail := status != 0 } else q)
    { s with nodes := nodes, bufs := bufs, queues := queues, recqs := s.recqs.del id }

/-! ## Absence, halt and reset (R333, R398) -/

/-- Members of an entry whose sounders are on a package. -/
def membersOn (e : CollEntry) (pkg : Nat) : List Nat :=
  (List.range e.rows.length).filter (fun m => (e.rows.getD m { pkg := 0, bar := 0, rank := 0, buddy := 0, dest := 0 }).pkg == pkg)

/-- Set ABSENT for a member in one chunk: what is held and not folded is discarded (R257). -/
def Chunk.makeAbsent (m : Nat) (c : Chunk) : Chunk :=
  { c with absent := c.absent ||| ((1 : BitVec 64) <<< m), held := c.held &&& ~~~((1 : BitVec 64) <<< m),
           hold := c.hold.del m }

/-- Make a member of an entry absent on this package's port engines (R257, R333). -/
def absentMember (s : State) (ctx entry m : Nat) : State :=
  let s := s.modEntry ctx entry (fun e => { e with absent := e.absent ||| 2 ^ m })
  { s with threads := s.threads.mapV (fun k t =>
      if k / 4096 % 4096 = ctx ∧ k % 4096 = entry then { t with chunks := t.chunks.mapV (fun _ c => c.makeAbsent m) }
      else t) }

/-- A context's members on this package are made absent in all its collectives, here and on the other packages of each
collective (R333). -/
def makeAbsent (s : State) (ctx : Nat) : State :=
  match s.ctx? ctx with
  | none => s
  | some c =>
    c.colls.foldl (fun s (k, e) =>
      (membersOn e s.plat.pkgid).foldl (fun s m =>
        let s := absentMember s ctx k m
        ((e.rows.map (·.pkg)).eraseDups.filter (· != s.plat.pkgid)).foldl
          (fun s p => s.send (.tellAbsent p ctx k m)) s) s) s

/-- What a halt or reset does to a context's objects on one core (R398): logs discarded, engine commands ended with
ERR 2. -/
def CtxCore.stop (cc : CtxCore) : CtxCore :=
  let hs := (cc.copies.map (fun x => (x.handle, x.bytes))) ++ (cc.array.filterMap (fun m => m.handle.map (·, 0)))
  { cc with sounders := cc.sounders.mapV (fun _ x => { x with oplog := [], fills := x.fills.filter (·.2.engine) }),
            handles := hs.foldl (fun t (h, b) => t.put h { state := 2, bytes := b, err := 2 }) cc.handles,
            copies := [], pops := [], array := [] }

/-- The effects of R398 that a halt and a reset share. -/
def stopCtx (s : State) (ctx : Nat) : State :=
  let s := s.modCtx ctx (fun c => { c with halted := true })
  let s := { s with cc := s.cc.mapV (fun k cc => if k / 512 = ctx then cc.stop else cc) }
  let mine := fun r : RouteCmd => r.ctx == ctx
  let routes : List RouteCmd := (s.routeQ.map (fun e => e.2.filter mine)).flatten
  let s := { s with routeQ := s.routeQ.mapV (fun _ q => q.filter (fun r => !mine r)) }
  let s := routes.foldl (fun s r => s.modCC ctx r.core (fun cc =>
    { cc with handles := cc.handles.put r.handle { state := 2, bytes := r.bytes, err := 2 } })) s
  let s := makeAbsent s ctx
  let ids := (s.nodes.filter (fun (_, n) => pktF n.pkt 63 52 == ctx)).map (·.1)
  let gone := fun p : Pending => match p.msg.origin? with | some (.peer _ _ _ _ _) => false | some o => o.ctx == ctx | none => false
  let s := { s with launches := s.launches.filter (fun e => e.2.ctx != ctx),
                    pend := s.pend.filter (fun e => !gone e.2) }
  ids.foldl (fun s i => completeNode s i 0x06) s

/-- Halt a context with a fatal record and its notification (R395, R398). -/
def haltCtx (s : State) (ctx : Nat) (why snd core unit body : Nat) : State :=
  let h : RecHdr := { type := 4, fatal := true, replay := false, snd := snd, core := core, unit := unit, why := why,
                      token := 0 }
  match s.ctx? ctx with
  | none => s
  | some c =>
    let w := recordWord h (c.trapq.tail + 1) s.cycle body
    let s := (putRecord s ctx h body).getD s
    if c.halted then s
    else notify (stopCtx s ctx) c.die 3 0 ctx 0 0 0 w

/-- An access under a revoked key is refused: its party receives cause 0x53, and the context halts with FATALWHY 2 (R185, R413). -/
def haltRevoked (s : State) (ctx snd core unit addr : Nat) : State := haltCtx s ctx 2 snd core unit (0x53 + addr % 2 ^ 64 * 2 ^ 384)

/-! ## Accesses of lanes and of the scalar stream (R161 to R163, R172, R176) -/

/-- Bytes of an access of a type (Table 3 of 06). -/
def tySize (t : Nat) : Nat :=
  match t with
  | 1 | 5 => 1
  | 2 | 6 | 9 | 0xA => 2
  | 4 | 8 | 0xC => 8
  | _ => 4

/-- How a loaded value is written (Table 3 of 06, R159). -/
def loadExt (t v : Nat) : Nat :=
  if t = 1 then Alu.wrap 32 (Alu.toI true 8 v) else if t = 2 then Alu.wrap 32 (Alu.toI true 16 v) else v

/-- The new value of an atomic from the old value `o` and the operands `v` and, for acas, `n` (Table 5 of 06). -/
def atomNew (op t o v n : Nat) : Nat :=
  let w := 8 * tySize t
  let sg := t == 3 || t == 4
  match op with
  | 0 => (o + v) % 2 ^ w
  | 1 => Alu.minI sg w o v
  | 2 => Alu.maxI sg w o v
  | 3 => Alu.andN o v % 2 ^ w
  | 4 => Alu.orN o v % 2 ^ w
  | 5 => Alu.xorN o v % 2 ^ w
  | 6 => v % 2 ^ w
  | 7 => if o = v % 2 ^ w then n % 2 ^ w else o
  | _ => ((if t = 0xC then Fl.f64 else Fl.f32).add .rn o (v % 2 ^ w)).1

/-- The line of a local place, where it has one (R307). -/
def locLine (ctx core : Nat) : Loc → Option Nat
  | .mem _ pa => some (pa / 64)
  | .sp a => some (spLine ctx core a)
  | _ => none

/-- Read a local place. -/
def readLoc (s : State) (ctx core : Nat) (n : Nat) : Loc → Nat
  | .mem _ pa => s.readN pa n
  | .sp a => spN s ctx core a n
  | _ => 0

/-- Store to a local place under a writing identity. -/
def storeLoc (s : State) (ctx core wid : Nat) (bs : List Byte) : Loc → State
  | .mem _ pa => storeMem s ctx pa wid bs
  | .sp a => writeSP s ctx core a bs
  | .control off => ringControl s off bs
  | _ => s

/-- Mark the line of a place as poisoned (R307). -/
def poisonLoc (s : State) (ctx core : Nat) (l : Loc) : State :=
  match locLine ctx core l with
  | some n =>
    if s.poison.contains n then s else countError { s with poison := n :: s.poison } poisonedLines
  | none => s

/-- Write one type-5 record for a page that is not present, unless one is pending (R399). -/
def placementRecord (s : State) (ctx va pkg : Nat) : State :=
  match s.ctx? ctx with
  | none => s
  | some c =>
    if c.placing.contains (va / 4096) then s
    else
      let h : RecHdr := { type := 5, fatal := false, replay := true, snd := 0, core := 0, unit := 6, why := 0,
                          token := va / 4096 * 4096 }
      match putRecord s ctx h (engineBody 0x1B 0 0 va (pkg % 4096)) with
      | some t => t.modCtx ctx (fun c => { c with placing := va / 4096 :: c.placing })
      | none => s

/-- What an inbound kind of write meets at a virtual address (R399): a place, a page to wait for, or a NACKWHY. -/
inductive Placement where
  | ok (loc : Loc)
  | wait
  | nack (why : Nat)
  deriving DecidableEq, Repr

/-- Translate a write that direct placement covers (R399). -/
def placement (s : State) (ctx va : Nat) : Placement :=
  match translate s ctx va false true with
  | .ok l => .ok l
  | .fail d =>
    if d / 16 % 2 = 1 then .nack 7
    else
      match s.ctx? ctx with
      | none => .nack 1
      | some c => if c.refused.contains (va / 4096) then .nack 2 else .wait

/-- How one access ends. -/
inductive LaneRes where
  | done (v : Nat)
  | fault (cause detail : Nat)
  /-- Not performed yet; it is tried again. -/
  | wait
  deriving DecidableEq, Repr

/-- Write a row of an append word by word; the virtual address of a word that is not placed, with what it met. A word that is not
aligned, as ROWBASE and STRIDE give it, is written where its first byte lies. DESIGN CHOICE (assumption log 90). -/
def placeRow (s : State) (ctx wid : Nat) : Nat → List Byte → Nat → Except (Nat × Placement) State
  | 0, _, _ => .ok s
  | n + 1, row, va =>
    match placement s ctx va with
    | .ok (.mem _ pa) => placeRow (storeMem s ctx pa wid (row.take 4)) ctx wid n (row.drop 4) (va + 4)
    | .ok (.control _) => placeRow s ctx wid n (row.drop 4) (va + 4)
    | .ok _ => .error (va, .nack 7)
    | p => .error (va, p)

/-- One append at the home of its header (R175, R176). -/
def appendAt (s : State) (ctx hdr wid pkg : Nat) (row : List Byte) : State × LaneRes :=
  let h := s.readN hdr 32
  let tail := h % 2 ^ 64
  let base := h / 2 ^ 128 % 2 ^ 64
  let stride := h / 2 ^ 192 % 2 ^ 16
  if h / 2 ^ 208 ≠ 0 then (s, .fault 0x51 (nackDetail pkg 6 true true))
  else if h / 2 ^ 64 % 2 ^ 64 ≤ tail then (s, .done (2 ^ 64 - 1))
  else if stride < row.length then (s, .fault 0x51 (nackDetail pkg 5 true true))
  else
    match placeRow s ctx wid (row.length / 4) row (base + tail * stride) with
    | .ok t => (storeMem t ctx hdr wid (toBytes 8 (tail + 1)), .done tail)
    | .error (_, .nack w) => (s, .fault 0x51 (nackDetail pkg w true true))
    | .error (va, _) => (placementRecord s ctx va pkg, .wait)

/-- Perform one access at a local place; `ue` says that it meets an uncorrectable error (R161, R172, R307). -/
def accessLocal (s : State) (ctx core : Nat) (e : LogEntry) (la : LaneAcc) (ue : Bool) : State × LaneRes :=
  let n := tySize e.ty
  let s := if ue then poisonLoc s ctx core la.loc else s
  let bad := match locLine ctx core la.loc with | some k => s.lineBad k | none => false
  match e.kind with
  | .load =>
    if bad then (s, .fault 0x50 (nackDetail 0 0 true false))
    else
      match la.loc with
      | .mem _ pa => ((s.readAs core pa n).1, .done (loadExt e.ty (s.readAs core pa n).2))
      | _ => (s, .done (loadExt e.ty (readLoc s ctx core n la.loc)))
  | .store | .scalarStore | .aliasStore =>
    if ue then (s, .fault 0x50 (nackDetail 0 0 false true))
    else (storeLoc s ctx core e.wid (toBytes n la.data) la.loc, .done 0)
  | .atomic =>
    if bad && la.got.isNone then (s, .fault 0x50 (nackDetail 0 0 true true))
    else
      let o := la.got.getD (readLoc s ctx core n la.loc)
      (storeLoc s ctx core e.wid (toBytes n (atomNew (e.minor % 16) e.ty o la.data la.new)) la.loc, .done o)
  | .append =>
    if bad then (s, .fault 0x50 (nackDetail 0 0 true true))
    else
      match la.loc with
      | .mem _ pa => appendAt s ctx pa e.wid s.plat.pkgid e.row
      | _ => (s, .fault 0x51 (nackDetail 0 7 true true))

namespace Snd

/-- A returned value goes to the fills of its entry (R33). -/
def give (x : Snd) (fills : List Nat) (lane v : Nat) : Snd :=
  fills.foldl (fun x k =>
    { x with fills := x.fills.modify k (fun f =>
        { f with want := f.want.filter (· != lane),
                 got := f.got.put lane (if f.hi then v / 2 ^ 32 % 2 ^ 32 else v % 2 ^ 32) }) }) x

/-- A name is empty while a fill has lanes to bring to it (R33). -/
def isEmpty (x : Snd) (n : Nat) : Bool := x.fills.any (fun (_, f) => f.name == n && !f.keep.isEmpty)

/-- Log entry at an index, and its removal once nothing is left of it (R162); a lane that is performed or held is no longer
being replayed. -/
def putEntry (x : Snd) (k : Nat) (e : LogEntry) : Snd :=
  if e.todo.isEmpty && e.held.isEmpty then { x with oplog := x.oplog.del k }
  else { x with oplog := x.oplog.put k { e with again := e.again.filter (fun l => e.todo.any (·.lane == l)) } }

/-- A value of a lane of an entry has been fixed: the lane leaves the entry, a load's or atomic's value goes to its
fills, an append's to every lane of its mask. -/
def finishLane (x : Snd) (k : Nat) (e : LogEntry) (la : LaneAcc) (v : Nat) : Snd :=
  let e' := { e with todo := e.todo.filter (·.lane != la.lane) }
  let x :=
    match e.kind with
    | .append => (List.range 96).foldl (fun (x : Snd) l => if e.mask / 2 ^ l % 2 = 1 then x.give e.fills l v else x) x
    | _ => x.give e.fills la.lane v
  x.putEntry k e'

/-- Accesses in ascending lane index. -/
def byLane (as : List LaneAcc) : List LaneAcc := (List.range 96).flatMap fun n => as.filter (·.lane == n)

/-- A lane of an entry faults: it is held with every later lane of the same aligned 8 bytes; what is held stands in ascending
lane index, in which it is replayed (R163). -/
def holdLane (x : Snd) (k : Nat) (e : LogEntry) (la : LaneAcc) (cause detail : Nat) : Snd :=
  let stop := fun b : LaneAcc => b.lane == la.lane || (decide (la.lane < b.lane) && !b.sent && b.va / 8 == la.va / 8)
  x.putEntry k { e with todo := e.todo.filter (fun b => !stop b),
                        held := byLane (e.held ++ (e.todo.filter stop).map (fun b => { b with sent := false })),
                        cause := cause, detail := detail, told := false }

end Snd

/-- Slices as a set of bits. -/
def sliceBit (sl i : Nat) : Bool := sl / 2 ^ i % 2 == 1

/-- Key of two slices. -/
def pairKey (a b : Nat) : Nat := 24 * min a b + max a b

/-- Two slices that are in both sets and, by a table of their last partings, have not parted since a number (R314 item 3). -/
def together (parts : Tbl Nat) (since sl tl : Nat) : Bool :=
  (List.range 24).any fun a => (List.range 24).any fun b =>
    decide (a < b) && sliceBit sl a && sliceBit sl b && sliceBit tl a && sliceBit tl b &&
    decide (parts.getOr 0 (pairKey a b) ≤ since)

/-- A place behind a fabric window, or in an alias window, whose stores are posted stores too (R318, R320). -/
def Loc.away : Loc → Bool
  | .window _ _ | .aliasWin _ _ => true
  | _ => false

/-- An access of the package itself that is still to be performed. -/
def LaneAcc.ahead (a : LaneAcc) : Bool := !a.sent && !a.loc.away

/-- The accesses of an older entry that are still to be performed hold back an access of a later one (R314), given when slices
were last parted; accesses through windows are ordered by fences only (R318). -/
def holdsBack (parts : Tbl Nat) (old e : LogEntry) (la : LaneAcc) : Bool :=
  !la.loc.away && old.seq < e.seq &&
  (if e.slices = 0 then old.slices == 0 && old.todo.any LaneAcc.ahead
   else old.slices != 0 &&
     (old.todo.any (fun a => a.ahead && a.lane / 4 == la.lane / 4) ||
      (together parts old.seq old.slices e.slices && old.todo.any LaneAcc.ahead)))

/-- The first access of an entry that may be performed or sent now: those of the package itself in ascending lane index and
in program order (R161, R314), those through a window in any order (R318). -/
def Snd.dueLane (x : Snd) (e : LogEntry) : Option LaneAcc :=
  let first := (e.todo.find? LaneAcc.ahead).map (·.lane)
  e.todo.find? fun a =>
    !a.sent && (a.loc.away || (first == some a.lane && !x.oplog.any (fun o => holdsBack x.parts o.2 e a)))

/-- A pending shoot-down covers an address (R388). -/
def racing (s : State) (ctx va : Nat) : Bool :=
  (s.shoots.getOr [] ctx).any (fun h => h.va ≤ va && va < h.va + h.size)

/-- The fault detail of an access held by a shoot-down: what a translation under the entries of now gives; where they permit the
access, the level of its leaf (R389, R391). -/
def raceDetail (s : State) (ctx : Nat) (e : LogEntry) (va : Nat) : Nat :=
  let wr := e.kind != .load
  let rd := e.kind == .load || e.kind == .atomic || e.kind == .append
  match translate s ctx va rd wr with
  | .fail d => d
  | .ok _ => detailWord false wr rd false false (walkLevel s ctx va)

/-- LEVEL of the detail of a deferred fault that an access meets (R391). -/
def LaneAcc.level (a : LaneAcc) (s : State) (ctx : Nat) : Nat :=
  match a.loc with
  | .sp _ => 0
  | _ => walkLevel s ctx a.va

/-- What a shoot-down that completes makes of an issue that has passed its probe and waits for a log entry: its accesses to
the range are held (R162, R388). DESIGN CHOICE (assumption log 46). -/
def LogEntry.raced (e : LogEntry) (s : State) (ctx va size : Nat) : LogEntry :=
  let hit := fun a : LaneAcc =>
    (match a.loc with | .sp _ => false | _ => true) && decide (va ≤ a.va) && decide (a.va < va + size)
  match e.todo.find? hit with
  | none => e
  | some la =>
    { e with todo := e.todo.filter (fun a => !hit a), held := e.held ++ e.todo.filter hit, cause := 0x52,
             detail := raceDetail s ctx e la.va }

/-- The message of a window access: all the lanes of the instruction in one aligned 8-byte word are one access (R318). -/
def windowMsg (e : LogEntry) (group : List LaneAcc) (o : Origin) (pkg addr : Nat) : OutMsg :=
  match e.kind with
  | .load => .load pkg (addr / 8 * 8) 8 o
  | .atomic => .atomic pkg (tySize e.ty) e.minor e.ty
      (group.map (fun g => (match g.loc with | .window _ a => a | _ => addr, g.data, g.new))) o
  | .append => .append pkg addr e.row o
  | _ => .store pkg (group.map (fun g => (match g.loc with | .window _ a => a | _ => addr, toBytes (tySize e.ty) g.data))) o

/-- Lanes of an entry in the aligned 8-byte window word of a lane. -/
def windowGroup (e : LogEntry) (la : LaneAcc) (sent : Bool) : List LaneAcc :=
  match e.kind with
  | .append => [la]
  | _ =>
    match la.loc with
    | .window p a => e.todo.filter (fun g =>
        g.sent == sent && (match g.loc with | .window q b => q == p && b / 8 == a / 8 | _ => false))
    | _ => [la]

/-- An atomic of scope .core on this core has read and not yet written: no party of the core comes between (R173). -/
def coreSplit (s : State) (core : Nat) : Bool :=
  s.cc.any fun e => e.1 % 512 == core && e.2.sounders.any fun x => x.2.oplog.any fun l => l.2.todo.any (·.got.isSome)

/-- The read of an atomic of scope .core in memory may be made apart from its write: parties of other cores may come between
(R173). -/
def splits (s : State) (e : LogEntry) (la : LaneAcc) (ue : Bool) : Bool :=
  e.kind == .atomic && e.minor / 16 % 4 == 0 && la.got.isNone && !ue &&
  (match la.loc with | .mem _ pa => !s.poisoned pa | _ => false)

/-- Perform, or send, the first lane of an entry that is due (R161, R173, R314, R318). -/
def performNext (s : State) (ctx core slot k : Nat) (ue : Bool) : State :=
  match s.snd? ctx core slot with
  | none => s
  | some x =>
    match x.oplog.find k with
    | none => s
    | some e =>
      match x.dueLane e with
      | none => s
      | some la =>
        if revoked s ctx && (match la.loc with | .mem _ _ => true | _ => false) then haltRevoked s ctx x.idx core 0 la.va
        else if la.got.isNone && coreSplit s core then s
        else
          let race := match la.loc with | .sp _ => false | _ => la.got.isNone && racing s ctx la.va
          let (stop, s) := if race then s.freeBit else (false, s)
          if stop then s.putSnd ctx core slot (x.holdLane k e la 0x52 (raceDetail s ctx e la.va))
          else
          match la.loc with
          | .window pkg addr =>
            let group := windowGroup e la false
            let o := if e.kind = .scalarStore then Origin.lane ctx core slot k 0 else Origin.lane ctx core slot k la.lane
            let hit := fun b : LaneAcc => group.any (fun g => g.lane == b.lane)
            let e' := { e with todo := e.todo.map (fun b => if hit b then { b with sent := true } else b) }
            (s.putSnd ctx core slot (x.putEntry k e')).sendOp (windowMsg e group o pkg addr)
          | .aliasWin _ _ =>
            let e' := { e with todo := e.todo.map (fun b => if b.lane = la.lane then { b with sent := true } else b) }
            s.putSnd ctx core slot (x.putEntry k e')
          | _ =>
            let (split, s) := if splits s e la ue then s.freeBit else (false, s)
            if split then
              let o := readLoc s ctx core (tySize e.ty) la.loc
              let half := fun b : LaneAcc => if b.lane = la.lane then { b with got := some o } else b
              s.putSnd ctx core slot (x.putEntry k { e with todo := e.todo.map half })
            else
            match accessLocal s ctx core e la ue with
            | (t, .done v) => t.modSnd ctx core slot (fun x => x.finishLane k e la v)
            | (t, .fault c d) => t.modSnd ctx core slot (fun x => x.holdLane k e la c (d + la.level s ctx))
            | (t, .wait) => t

/-- Perform up to `n` lanes of an entry. -/
def performLanes (s : State) (ctx core slot k : Nat) : Nat → State
  | 0 => s
  | n + 1 => performLanes (performNext s ctx core slot k false) ctx core slot k n

/-- The answer to the window access of a lane (R161, R163). -/
def answerLane (s : State) (ctx core slot k lane : Nat) (r : Reply) : State :=
  match s.snd? ctx core slot with
  | none => s
  | some x =>
    match x.oplog.find k with
    | none => s
    | some e =>
      match e.todo.find? (fun a => a.lane == lane && a.sent) with
      | none => s
      | some la =>
        let wr := e.kind != .load
        let rd := e.kind == .load || e.kind == .atomic || e.kind == .append
        let pkg := match la.loc with | .window p _ => p | _ => 0
        let each := fun (x : Snd) (g : LaneAcc × Nat) =>
          let (g, n) := g
          match x.oplog.find k with
          | none => x
          | some e =>
            match r with
            | .ok v =>
              let sh := match e.kind, g.loc with | .load, .window _ a => 8 * (a % 8) | .atomic, _ => 64 * n | _, _ => 0
              x.finishLane k e g
                (match e.kind with
                 | .load => loadExt e.ty (v / 2 ^ sh % 2 ^ (8 * tySize e.ty))
                 | .atomic => v / 2 ^ sh % 2 ^ 64
                 | _ => v)
            | .nack w => x.holdLane k e g 0x51 (nackDetail pkg w rd wr + g.level s ctx)
            | .ue => x.holdLane k e g 0x51 (nackDetail pkg 3 rd wr + g.level s ctx)
            | .retry => x
        s.putSnd ctx core slot ((windowGroup e la true).zipIdx.foldl each x)

/-- Translate every held lane of an entry again and put those that pass back among the lanes to perform, in ascending lane
index; a lane that fails again stays held, and its fault is a new one (R389, R239). With `again` the sounder waits until
the lanes are performed or held (R236). -/
def rehearse (s : State) (ctx core slot k : Nat) (again : Bool) : State :=
  match s.snd? ctx core slot with
  | none => s
  | some x =>
    match x.oplog.find k with
    | none => s
    | some e =>
      let wr := e.kind != .load
      let rd := e.kind == .load || e.kind == .atomic || e.kind == .append
      let tried := e.held.map fun a =>
        match a.loc with
        | .sp _ => (a, none)
        | _ =>
          match translate s ctx a.va rd wr with
          | .ok l => ({ a with loc := l }, none)
          | .fail d => (a, some d)
      let good := (tried.filter (fun p => p.2.isNone)).map (·.1)
      let bad := (tried.filter (fun p => p.2.isSome))
      let e' := { e with todo := Snd.byLane (good ++ e.todo), held := bad.map (·.1),
                         again := if again then good.map (·.lane) else e.again }
      let e' := match bad with | (_, some d) :: _ => { e' with cause := 0x1B, detail := d, told := false } | _ => e'
      s.putSnd ctx core slot { x with oplog := x.oplog.put k e' }

/-! ## Ending a sounder (R215, R238) -/

/-- The barriers of the context that a sounder is a member of, in ascending reference: (reference, rank). -/
def dreysOf (s : State) (ctx core slot : Nat) : List (Nat × Nat) :=
  (s.cc.filter (fun e => e.1 / 512 == ctx)).flatMap fun e =>
    e.2.barriers.flatMap fun (b, x) =>
      (x.ranks.filter (fun r => r.2.1 == 16 * core + slot)).map fun r => (e.1 % 512 * 512 + b, r.1)

/-- A member leaves a drey; `status` is ORed into OPENSTAT first (R215). -/
def leaveDrey (s : State) (ctx ref rank : Nat) (status : BitVec 8) : State :=
  let core := refCore ref
  let b := refNumber ref
  let x := barrierOf s ctx core b
  let n := match x.ranks.find rank with | some (_, n, _) => n | none => 0
  let y := { x with ranks := x.ranks.del rank, members := x.members - 1, arrived := x.arrived - n,
                    openStat := x.openStat ||| status }
  if y.members = 0 ∧ y.formed then
    let s := completePhase (putBarrier s ctx core b { y with openStat := y.openStat ||| 2 }) ctx core b
    let z := barrierOf s ctx core b
    putBarrier s ctx core b { z with drey := false, formed := false, size := 0, extra := 0 }
  else testPhase (putBarrier s ctx core b y) ctx core b

/-- A sounder ends: it leaves its dreys and its slot, and its launch counts it out (R43, R238, R301). -/
def endSounder (s : State) (ctx core slot : Nat) (status : BitVec 8) : State :=
  match s.snd? ctx core slot with
  | none => s
  | some x =>
    let s := (dreysOf s ctx core slot).foldl (fun s (r, k) => leaveDrey s ctx r k status) s
    let s := s.modCC ctx core (fun cc => { cc with sounders := cc.sounders.del slot })
    s.modLaunch x.launch (fun l => { l with left := l.left - 1 })

/-! ## Traps (R234 to R236) -/

/-- What a trap frame records (Table 8 of 08) besides SREG and SPC; `words` is the length of the trapping lane
instruction. -/
structure TrapInfo where
  cause  : Nat
  ill    : Nat := 0
  stream : Nat := 0
  oplog  : Option Nat := none
  src    : Nat := 0
  fpexc  : Nat := 0
  lpc    : Nat := 0
  slices : Nat := 0
  lane   : Option Nat := none
  block  : Nat := 0
  word   : Nat := 0
  addr   : Nat := 0
  info   : Nat := 0
  words  : Nat := 1
  deriving DecidableEq, Repr

/-- s0 to s7 as SREG holds them. -/
def sregNat (x : Snd) : Nat := (List.range 8).foldl (fun a i => a + (x.sreg i).toNat * 2 ^ (64 * i)) 0

/-- The 2048 bits of a trap frame (Table 8 of 08). -/
def frameNat (x : Snd) (t : TrapInfo) : Nat :=
  t.cause + t.ill * 2 ^ 8 + t.stream * 2 ^ 12 + (match t.oplog with | some k => k % 8 * 2 ^ 16 + 2 ^ 19 | none => 0) +
  t.src % 4 * 2 ^ 20 + t.fpexc % 32 * 2 ^ 24 + x.pc % 2 ^ 32 * 2 ^ 64 + t.lpc % 2 ^ 32 * 2 ^ 96 + t.slices % 2 ^ 24 * 2 ^ 128 +
  (match t.lane with | some l => l % 128 * 2 ^ 152 + 2 ^ 159 | none => 0) + t.block % 2 ^ 16 * 2 ^ 160 +
  t.word % 2 ^ 96 * 2 ^ 256 + t.addr % 2 ^ 64 * 2 ^ 384 + t.info % 2 ^ 64 * 2 ^ 448 + sregNat x * 2 ^ 512

/-- Address of the frame of the sounder in a bank slot of a core (R393). -/
def frameAddr (base core slot : Nat) : Nat := base + 256 * (16 * core + slot)

/-- What a scalar stream waits for once a trap of its lanes is taken: an instruction that has no effect yet is given up and
executes again (R234); a wait of bar.sync whose arrival is made goes on. -/
def SWait.keep : SWait → SWait
  | .bar d r t => .bar d r t
  | .mbsend d => .mbsend d
  | .replay d k => .replay d k
  | _ => .ready

/-- The state held aside in handler mode (R233). -/
def Snd.setAside (x : Snd) (t : TrapInfo) : Aside :=
  { pc := x.pc, queue := x.queue, running := x.running, slices := x.slices, wait := x.wait.keep, stream := t.stream,
    issue := t.slices, words := t.words, joins := x.joins }

/-- The window loads of a scalar stream that are on their way are given up: their answers go nowhere. -/
def dropScalarLoads (s : State) (ctx core slot : Nat) : State :=
  let mine := fun p : Pending => match p.msg with
    | .load _ _ _ (.scalar c k j) => c == ctx && k == core && j == slot
    | .load _ _ _ (.mail c k j) => c == ctx && k == core && j == slot
    | _ => false
  { s with pend := s.pend.filter (fun e => !mine e.2) }

/-- The scalar stream stands inside an mbsend whose message is on its way: it reaches its next instruction boundary only
when the status returns, and a trap of the lanes or of an access waits for that. DEDUCED (assumption log 38). -/
def Snd.midSend (x : Snd) : Bool := match x.wait with | .mbsend _ => true | _ => false

/-- The waiting issues that a trap leaves: not those of slices that trap themselves, whose instruction starts again. -/
def Snd.stillProbed (x : Snd) (t : TrapInfo) : List LogEntry :=
  x.probed.filter (fun e => !e.hand && (t.oplog.isSome || Alu.andN e.slices t.slices == 0))

/-- Trap entry (R234): the frame is written, s0 and s1 are set, and the sounder enters handler mode at the handler's
entry. Without a handler, or in handler mode, the context is halted (R236, R393). -/
def takeTrap (s : State) (ctx core slot : Nat) (t : TrapInfo) : State :=
  match s.ctx? ctx, s.snd? ctx core slot with
  | some c, some x =>
    let f := frameNat x t
    if x.midSend then s
    else if x.handler then
      haltCtx (s.putSnd ctx core slot { x with handler := false }) ctx 1 x.idx core 0 (f % 2 ^ 1024)
    else
      match c.handler with
      | none => haltCtx s ctx 4 x.idx core 0 (f % 2 ^ 1024)
      | some (_, entry, base) =>
        let a := frameAddr base core slot
        let y := (x.setS 0 (BitVec.ofNat 64 a)).setS 1 (BitVec.ofNat 64 f)
        let y := { y with handler := true, aside := some (x.setAside t), pc := entry, queue := [], running := false,
                          slices := [], wait := .ready, probed := x.stillProbed t }
        (writeVirt (dropScalarLoads s ctx core slot) ctx a (toBytes 256 f)).putSnd ctx core slot y
  | _, _ => s

/-- s0 to s7 and the lane state held aside come back, and the sounder leaves handler mode (R236). -/
def Snd.restore (x : Snd) (a : Aside) (sreg : Nat) : Snd :=
  let x := (List.range 8).foldl (fun x i => x.setS i (BitVec.ofNat 64 (sreg / 2 ^ (64 * i)))) x
  { x with pc := a.pc, queue := a.queue, running := a.running, slices := a.slices, joins := a.joins, wait := a.wait,
           handler := false, aside := none, suspended := none }

/-- Resume after the trapping instruction: the scalar stream, or the trapping slices, go past it (R236). -/
def Snd.skip (x : Snd) (a : Aside) : Snd :=
  if a.stream = 0 then { x with pc := x.pc + 4, wait := .ready }
  else { x with slices := x.slices.mapV (fun i sl => if sliceBit a.issue i then { sl with pc := sl.pc + a.words } else sl) }

/-- Replay every entry that still holds lanes; the sounder goes on once that is done (R236, R239). -/
def replayHeld (s : State) (ctx core slot : Nat) : State :=
  match s.snd? ctx core slot with
  | none => s
  | some x =>
    (x.oplog.filter (fun e => !e.2.held.isEmpty)).foldl (fun s (k, _) =>
      performLanes (rehearse s ctx core slot k true) ctx core slot k 96) s

/-- Discard the lanes an entry still holds (R238, R239): held loads are filled with 0. -/
def Snd.discardHeld (x : Snd) (k : Nat) : Snd :=
  match x.oplog.find k with
  | none => x
  | some e =>
    let x :=
      match e.kind with
      | .append => if e.held.isEmpty then x
                   else (List.range 96).foldl (fun (x : Snd) l => if e.mask / 2 ^ l % 2 = 1 then x.give e.fills l 0 else x) x
      | _ => e.held.foldl (fun (x : Snd) (a : LaneAcc) => x.give e.fills a.lane 0) x
    let keepOut := fun f : Fill => { f with memo := none }
    { x with fills := e.fills.foldl (fun t n => t.modify n keepOut) x.fills }.putEntry k { e with held := [] }

/-- What tret does for the RESUME read from the frame, or placed by the service (R236, R397): 0 resume at the trapping
instruction, 1 after it, 2 end the sounder. -/
def tretAct (s : State) (ctx core slot resume : Nat) : State :=
  match s.ctx? ctx, s.snd? ctx core slot with
  | some c, some x =>
    match x.aside, c.handler with
    | some a, some (_, _, base) =>
      let sreg := leNat ((readVirt s ctx (frameAddr base core slot) 128).drop 64)
      let y := x.restore a sreg
      match resume with
      | 0 =>
        let s := s.putSnd ctx core slot y
        if a.stream = 2 then replayHeld s ctx core slot else s
      | 1 =>
        if a.stream = 2 then replayHeld (s.putSnd ctx core slot y) ctx core slot
        else s.putSnd ctx core slot (y.skip a)
      | _ => endSounder s ctx core slot 4
    | _, _ => s
  | _, _ => s

/-- A trap is sent up (R236): a copy of the frame goes into a record and the sounder is suspended; without room the
state is unchanged and the instruction is tried again (R395). -/
def sendUp (s : State) (ctx core slot : Nat) : State :=
  match s.ctx? ctx, s.snd? ctx core slot with
  | some c, some x =>
    match c.handler with
    | none => s
    | some (_, _, base) =>
      let f := leNat (readVirt s ctx (frameAddr base core slot) 128)
      let h : RecHdr := { type := 1, fatal := false, replay := true, snd := x.idx, core := core, unit := 0, why := 0,
                          token := s.nextToken + 1 }
      match putRecord s ctx h f with
      | none => s
      | some t =>
        ({ t with nextToken := t.nextToken + 1 } : State).putSnd ctx core slot
          { x with suspended := some (s.nextToken + 1) }
  | _, _ => s

end Sys2Proof.Machine
end

