-- ==== Sys2Proof/Machine/Flags.lean ====
section
/-! DEFINITION. Conditions of the scalar stream (R18, R120) and the floating-point flags of the lanes: the union of an
issue, the trap enables and FPSTAT (R87, R132). -/

namespace Sys2Proof.Machine

open Sys2Proof

/-- The condition of a compare with code `cc`, in the order of Table 2 of 02: eq, ne, lt, ge, ltn, gen, tst, tstn
(R57, R120). -/
def condHolds (cc : BitVec 3) (a b : Word) : Bool :=
  match cc.toNat with
  | 0 => a == b
  | 1 => a != b
  | 2 => a.slt b
  | 3 => b.sle a
  | 4 => a.ult b
  | 5 => b.ule a
  | 6 => (a &&& b) != 0
  | _ => (a &&& b) == 0

/-- The flags of the lanes of a mask, joined (R132). -/
def unionFlags (mask : Bits96) (rs : List (Nat × Nat)) : Nat :=
  (rs.zipIdx).foldl (fun u (r, l) => if mask.getLsbD l then u ||| r.2 else u) 0

/-- Some flag of `u` is trap-enabled in FPCTL[4:0] (R87). -/
def trapEnabled (fpctl : Word) (u : Nat) : Bool := Alu.andN u (bits fpctl 4 0) != 0

/-- FPSTAT takes the union of the flags of an instruction (R132). -/
def Snd.raise (x : Snd) (u : Nat) : Snd := { x with fpstat := x.fpstat ||| BitVec.ofNat 64 (u % 32) }

end Sys2Proof.Machine
end

