-- ==== Sys2Proof/Machine/Operands.lean ====
section
/-! DEFINITION. The frame of an instruction: who issues it, what it reads and how its results are written. For the scalar
stream: the current sounder and its traps. For the lanes: one issue with its effective mask (R64), its checks in order
(R70), its source operands and special operands (R61, Table 8 of 02), the writes of its results (R23, R30, R132), and
the reuse of R36 to R43. -/

namespace Sys2Proof.Machine

open Sys2Proof

abbrev Out := Host.Outcome State Fault Refusal

/-! ## The scalar stream -/

/-- Run an effect on the sounder whose scalar stream is current. -/
def scalarStep (s : State) (f : Nat → Nat → Nat → Snd → State) : Out :=
  match s.cur with
  | .scalar c k j =>
    match s.snd? c k j with
    | some x => .next (f c k j x)
    | none => .fault .noParty
  | _ => .fault .noParty

/-- The scalar program counter goes on to the next word. -/
def Snd.adv (x : Snd) : Snd := { x with pc := x.pc + 4 }

/-- The image whose code a sounder runs (R233). -/
def codeOf (s : State) (ctx : Nat) (x : Snd) : Option Image :=
  match s.ctx? ctx with
  | none => none
  | some c => c.images.find (x.codeImage c)

/-- The scalar word at a sounder's program counter. -/
def scalarWord (s : State) (ctx : Nat) (x : Snd) : Nat :=
  match codeOf s ctx x with
  | none => 0
  | some im => s.readN (im.scalarPA + x.pc) 4

/-- An exact trap of the scalar stream (R113, R234). -/
def scalarTrap (s : State) (c k j : Nat) (x : Snd) (cause : Nat) (ill : Nat := 0) (addr : Nat := 0) (info : Nat := 0) :
    State :=
  takeTrap s c k j { cause := cause, ill := ill, stream := 0, word := scalarWord s c x, addr := addr, info := info }

/-- Length of the scalar code section a sounder runs. -/
def scalarSize (s : State) (ctx : Nat) (x : Snd) : Nat :=
  match codeOf s ctx x with
  | none => 0
  | some im => im.scalarSize

/-- A transfer of the scalar stream: "misaligned target" where the target is not a word of the section (R54). -/
def transfer (s : State) (c k j : Nat) (x y : Snd) (target : Word) : State :=
  if target.toNat % 4 = 0 ∧ target.toNat < scalarSize s c x then s.putSnd c k j { y with pc := target.toNat }
  else scalarTrap s c k j x 0x05

/-- A posted access has left the package for its target; an alias store has not until the switch die accepts it (R161,
R170). -/
def LaneAcc.posted (a : LaneAcc) : Bool := a.sent && (match a.loc with | .aliasWin _ _ => false | _ => true)

/-- An entry's accesses are performed for the package, or with `sys` for the system (R161): a posted store counts for the
package once it has left; any other access, and every held one, only once nothing of it is left. -/
def LogEntry.settled (e : LogEntry) (sys : Bool) : Bool :=
  e.held.isEmpty &&
  (match e.kind with
   | .store | .scalarStore | .aliasStore => if sys then e.todo.isEmpty else e.todo.all LaneAcc.posted
   | _ => e.todo.isEmpty)

/-- An entry's accesses are performed as far as a sounder may wait for them: in handler mode it does not wait for an access of
the interrupted stream or block that is held, since its fault is handled only after tret (R234). DEDUCED (assumption log
62). -/
def Snd.settledFor (x : Snd) (e : LogEntry) (sys : Bool) : Bool :=
  if x.handler && !e.hand then ({ e with held := [] } : LogEntry).settled sys else e.settled sys

/-! ## One lane issue -/

/-- One issue of a join set (R283): the sounder, its running block, the word and its fields, and the effective mask. -/
structure Issue where
  ctx    : Nat
  core   : Nat
  slot   : Nat
  slices : Nat
  x      : Snd
  blk    : Block
  maj    : Nat
  min    : Nat
  word   : Nat
  spec   : LaneSpec
  dst    : Nat
  fa     : Nat
  fb     : Nat
  fc     : Nat
  fd     : Nat
  imm    : Nat
  fe     : Nat
  yd     : Nat
  nr     : Nat
  ty     : Nat
  rnd    : Nat
  mask   : Bits96
  /-- FPCTL and RUCTL as this issue sees them (R130). -/
  fpctl  : Word
  ructl  : Word
  lpc    : Nat
  deriving DecidableEq, Repr

/-- The lanes of some slices (R6). -/
def sliceLanes (slices : Nat) : Bits96 :=
  BitVec.ofNat 96 ((List.range 24).foldl (fun a i => if sliceBit slices i then a + 15 * 2 ^ (4 * i) else a) 0)

/-- The lanes a guard passes (R64). -/
def Snd.guard (x : Snd) (g : BitVec 5) : Bits96 :=
  let q := x.qreg (g.toNat % 16)
  if g.toNat / 16 = 1 then ~~~q else q

/-- The lowest slice of a set. -/
def lowSlice (slices : Nat) : Nat := Alu.ctz 24 slices

/-- FPCTL (`k` 0) and RUCTL (1) as a lane instruction of a block sees them: where a write since the last lsync or
sfence.local makes the old and the new value differ, either (R130). DESIGN CHOICE (assumption log 46). -/
def seenCtl (s : State) (k : Nat) (old cur : Word) : Word :=
  if old = cur then cur else if Config.freeBit (s.freeCtr + 2 ^ 64 * (k + 1)) then old else cur

/-- The issue that a word with the given major, minor and fields makes. -/
def Issue.of (s : State) (ctx core slot slices : Nat) (x : Snd) (blk : Block) (maj min : Nat) (b : LaneBody) : Issue :=
  let word := maj * 2 ^ 88 + min * 2 ^ 80 + b.nat
  let fpctl := seenCtl s 0 blk.fpctl x.fpctl
  let ructl := seenCtl s 1 blk.ructl x.ructl
  let imm := match b with | .r _ => 0 | .i f => f.imm.toNat
  let ty := match b with | .r f => f.ty.toNat | .i f => f.ty.toNat
  let rnd := match b with | .r f => f.rnd.toNat | .i f => f.rnd.toNat
  let g1 := match b with | .r f => f.g1 | .i f => f.g1
  let g2 := match b with | .r f => f.g2 | .i f => f.g2
  let none_ : LaneSpec := specImm ty false false false
  { ctx := ctx, core := core, slot := slot, slices := slices, x := x, blk := blk, maj := maj, min := min, word := word,
    spec := (laneSpec maj min ty imm).getD none_,
    dst := match b with | .r f => f.dst.toNat | .i f => f.dst.toNat,
    fa := match b with | .r f => f.a.toNat | .i f => f.a.toNat,
    fb := match b with | .r f => f.b.toNat | .i f => f.b.toNat,
    fc := match b with | .r f => f.c.toNat | .i _ => 0,
    fd := match b with | .r f => f.d.toNat | .i _ => 0,
    imm := imm,
    fe := match b with | .r f => f.fe.toNat | .i f => f.fe.toNat,
    yd := match b with | .r f => f.yd.toNat | .i f => f.yd.toNat,
    nr := match b with | .r f => f.nr.toNat | .i f => f.nr.toNat,
    ty := ty,
    rnd := if rnd = 7 then bits fpctl 10 8 else rnd,
    mask := BitVec.ofNat 96 blk.mask &&& sliceLanes slices &&& x.guard g1 &&& x.guard g2,
    fpctl := fpctl, ructl := ructl,
    lpc := (x.slices.getOr Slice.reset (lowSlice slices)).pc }

namespace Issue

/-- An exact trap of a lane issue (R234). -/
def trap (i : Issue) (s : State) (cause : Nat) (ill src fpexc : Nat := 0) (lane : Option Nat := none)
    (addr info : Nat := 0) (words : Nat := 1) : State :=
  takeTrap s i.ctx i.core i.slot
    { cause := cause, ill := ill, stream := 1, src := src, fpexc := fpexc, lpc := i.lpc, slices := i.slices, lane := lane,
      block := i.blk.index, word := i.word, addr := addr, info := info, words := words }

/-- The lanes of the effective mask, ascending. -/
def lanes (i : Issue) : List Nat := (List.range 96).filter (fun l => i.mask.getLsbD l)

/-- The command lane: the lowest lane of the mask (R181). -/
def cmdLane (i : Issue) : Nat := i.lanes.headD 0

/-! ### Source operands -/

/-- The value lane `l` of a name had at number `t` of the writes made while slices were parted (R151). -/
def pastLane (x : Snd) (n l t : Nat) : Nat :=
  (x.past.foldl (fun v (k, m, old) => if t ≤ k ∧ m = n then (old.getD l 0) else v) ((x.vreg n).getD l 0)).toNat

/-- The number of the first write that a gang's reader of slice `b` need not have seen: those made before a regang or a block
start joined `b` with a slice of the gang are seen (R151). -/
def joinPoint (i : Issue) (b : Nat) : Nat :=
  ((List.range 24).filter (sliceBit i.slices)).foldl (fun m a => max m (i.x.joins.getOr 0 (pairKey a b))) 0

/-- Lane `l` of a name as this issue reads it: the stored contents (R23), or, for a slice outside the issuing gang, what
some write of it since the two were last joined left (R151); the two names of a pair, whose first is `base`, at the same
write. DESIGN CHOICE (assumption log 74): the four lanes of one slice are read at the same write. -/
def lane (i : Issue) (s : State) (base n l : Nat) : Nat :=
  if i.x.past.isEmpty ∨ sliceBit i.slices (l / 4) then ((i.x.vreg n).getD l 0).toNat
  else
    let lo := i.joinPoint (l / 4)
    pastLane i.x n l (lo + Config.freeNat (s.freeCtr + 2 ^ 64 * (32 * base + l / 4 + 1)) % (i.x.past.length + 1 - lo))

/-- A special operand in lane `l`, as 64 bits (Table 8 of 02). -/
def special (i : Issue) (v l : Nat) : Nat :=
  if v ≤ 647 then (i.blk.k.getD (v - 640) 0).toNat
  else
    match v with
    | 649 => l
    | 650 => i.x.idx
    | 651 => l / 4
    | 652 => l / 32
    | 653 => l % 4
    | _ => 0

/-- The 96 lanes of a source field (R61, R65). -/
def source (i : Issue) (s : State) (k : SrcKind) (v : Nat) : List Nat :=
  match k with
  | .unused => List.replicate 96 0
  | .pred => (List.range 96).map (fun l => if (i.x.qreg (v - 656)).getLsbD l then 1 else 0)
  | .v32 =>
    if v < 640 then (List.range 96).map (fun l => i.lane s v v l)
    else (List.range 96).map (fun l => i.special v l % 2 ^ 32)
  | _ =>
    if v < 640 then (List.range 96).map (fun l => i.lane s v v l + 2 ^ 32 * i.lane s v (v + 1) l)
    else (List.range 96).map (fun l => i.special v l)

def srcA (i : Issue) (s : State) : List Nat := i.source s i.spec.a i.fa
def srcB (i : Issue) (s : State) : List Nat := i.source s i.spec.b i.fb
def srcC (i : Issue) (s : State) : List Nat := i.source s i.spec.c i.fc
def srcD (i : Issue) (s : State) : List Nat := i.source s i.spec.d i.fd

/-- The vector names that a source field reads. -/
def fieldNames (k : SrcKind) (v : Nat) : List Nat :=
  if 640 ≤ v then []
  else
    match k with
    | .unused | .pred => []
    | .v32 => [v]
    | .v64 | .v32x2 => [v, v + 1]
    | .v64x2 => [v, v + 1, v + 2, v + 3]

/-- The source fields in order, each with its number and policy bit (R34). -/
def fields (i : Issue) : List (Nat × SrcKind × Nat × Bool) :=
  [(0, i.spec.a, i.fa, i.fe / 8 % 2 == 1), (1, i.spec.b, i.fb, i.fe / 4 % 2 == 1), (2, i.spec.c, i.fc, i.fe / 2 % 2 == 1),
   (3, i.spec.d, i.fd, i.fe % 2 == 1)]

/-- The empty names among the sources: field, name and policy bit (R34). -/
def empties (i : Issue) : List (Nat × Nat × Bool) :=
  i.fields.flatMap fun (k, kind, v, te) => ((fieldNames kind v).filter i.x.isEmpty).map fun n => (k, n, te)

/-- The names a destination stands for. -/
def dstNames (i : Issue) : List Nat :=
  match i.spec.dst with
  | .v32 => [i.dst]
  | .v64 => [i.dst, i.dst + 1]
  | _ => []

/-! ### Reuse (R36 to R43) -/

/-- A value is held in a physical register of a core: every (context, sounder, name) bound to it. -/
def holders (s : State) (core p : Nat) : List (Nat × Nat) :=
  (s.cc.filter (fun e => e.1 % 512 == core)).flatMap fun e =>
    e.2.sounders.flatMap fun (_, x) => (x.bound.filter (fun b => b.2 == p)).map fun b => (e.1 / 512, b.1)

/-- Live physical registers charged to a context's share on a core (R43): names bound to them, and fills in progress. -/
def charged (s : State) (ctx core : Nat) : List Nat :=
  ((s.cc.filter (fun e => e.1 % 512 == core)).flatMap fun e =>
    e.2.sounders.flatMap fun (_, x) => (x.bound.map (·.2)) ++ (x.fills.map (·.2.phys))).eraseDups.filter
      (fun p => p != 0 && p % 4096 == ctx)

/-- The share of the pool has room for `n` more registers (R48). -/
def poolRoom (s : State) (ctx core n : Nat) : Bool :=
  decide ((charged s ctx core).length + n ≤ (s.ccOf ctx core).share.regs)

/-- The instruction is reusable (R37, R134): the lane arithmetic but compares and predicates, and pvec. -/
def reusable (i : Issue) : Bool :=
  (decide (i.maj ≤ 0x0D) || (decide (0x11 ≤ i.maj) && decide (i.maj ≤ 0x1B))) && i.maj != 3 && i.maj != 0x13 &&
  i.maj != 5 && i.maj != 0x15 && (i.maj != 9 || i.min == 7)

/-- The identity of the physical register that a name of this issue is bound to (R30): the number of a pool register, all of
which are at least 4096, or 1 or 2 for the zero register of bank 0 or bank 1 (R31). -/
def phys (i : Issue) (s : State) (n : Nat) : Nat :=
  match i.x.bound.find n with
  | some p => p
  | none => (residentBank s i.ctx i.core).getD 0 + 1

/-- Physical registers among the sources, with the destination's where lanes are merged (R38). -/
def keyNames (i : Issue) (s : State) : List Nat :=
  (i.fields.flatMap fun (_, kind, v, _) => (fieldNames kind v).map (i.phys s)) ++
  (if i.mask = BitVec.allOnes 96 then [] else i.dstNames.map (i.phys s))

/-- What one source field puts into the memo key (R38): the identities of its names, its predicate's value, or the code of
its special operand with the value where that is not the same for every sounder; each with a mark of its kind. -/
def keyField (i : Issue) (s : State) (kind : SrcKind) (v : Nat) : List Nat :=
  if kind = .unused then [0]
  else if kind = .pred then [1, (i.x.qreg (v - 656)).toNat]
  else if v < 640 then 2 :: (fieldNames kind v).map (i.phys s)
  else if v ≤ 647 then [3, v, i.special v 0]
  else if v = 650 then [3, v, i.x.idx]
  else [4, v]

/-- No name among the sources has a write that this issue may not have seen: what it reads is what its names hold now (R151). -/
def settledSources (i : Issue) : Bool :=
  i.fields.all fun (_, kind, v, _) => (fieldNames kind v).all fun n => i.x.past.all (fun w => w.2.1 != n)

/-- The memo key (R38), the source fields in order; `extra` holds the record number or bank write counts of R45 and R46. -/
def memoKey (i : Issue) (s : State) (extra : List Nat) : List Nat :=
  let dom := match s.ctx? i.ctx with | some c => c.domain | none => 0
  [i.maj, i.min, i.ty, i.rnd, i.imm, i.mask.toNat, dom] ++ i.fields.flatMap (fun (_, kind, v, _) => i.keyField s kind v) ++
  (if i.mask = BitVec.allOnes 96 then [] else i.dstNames.map (i.phys s)) ++ extra

/-- What a memo lookup finds (R40, R41). -/
inductive Lookup where
  | off
  | miss
  | saturated
  | hit (m : Memo)
  deriving DecidableEq, Repr

/-- A register named by an entry is live: a zero register always is. -/
def livePhys (s : State) (core p : Nat) : Bool := decide (p < 4096) || !(holders s core p).isEmpty

/-- The memo lookup of an issue. An entry with a freed register has ended (R39), and one of a const load belongs to the launch
that bound the record (R45). Whether the table still holds an entry is free (R36). -/
def lookup (i : Issue) (s : State) (key : List Nat) : Lookup :=
  if !i.ructl.getLsbD 0 || i.nr == 1 then .off
  else
    let ok := fun m : Memo => m.key == key && (m.names ++ m.result).all (livePhys s i.core) &&
      m.launch.all (· == i.x.launch) && Config.memoHeld s.freeCtr
    match (s.coreOf i.core).memo.find? ok with
    | none => .miss
    | some m =>
      if trapEnabled i.fpctl m.flags then .miss
      else if m.result.all (fun p => decide ((holders s i.core p).length < 255)) then .hit m else .saturated

/-- The registers that an execution needs are there: none on a memo hit or without a vector destination (R40, R48). -/
def room (i : Issue) (s : State) (use : Bool) (key : List Nat) : Bool :=
  i.dstNames.isEmpty || (match (if use then i.lookup s key else .off) with | .hit _ => true | _ => false) ||
  poolRoom s i.ctx i.core i.dstNames.length

/-- Another live register of the domain, full and with the 96 lanes of a value, of a context resident in either bank of the core
(R42, R47), with whether its count allows sharing; `p` is the register just written. DESIGN CHOICE: a result equal to zero, which R42 lets an
implementation bind to the zero register of the sounder's own bank, is never bound to it (assumption log 4). -/
def twin (s : State) (ctx core p : Nat) (v : LaneVec) : Option (Nat × Bool) :=
  let dom := fun c => match s.ctx? c with | some c => c.domain | none => 0
  let all := (s.cc.filter (fun e => e.1 % 512 == core && (residentBank s (e.1 / 512) core).isSome && dom (e.1 / 512) == dom ctx)).flatMap fun e =>
    e.2.sounders.flatMap fun (_, y) => (y.bound.filter (fun b => b.2 != p && !y.isEmpty b.1 && y.vreg b.1 == v)).map (·.2)
  match all.find? (fun q => decide ((holders s core q).length < 255)) with
  | some q => some (q, true)
  | none => all.head?.map (·, false)

/-- The full result of a name in register `p` shares storage with an equal live register of its domain (R42): the name is
bound to that register and the newly written one is freed. DESIGN CHOICE (assumption log 75): RSHARE and RSATUR count each name of
a pair. -/
def shareFull (s : State) (ctx core slot n p : Nat) : State :=
  match s.snd? ctx core slot with
  | none => s
  | some x =>
    if x.bound.getOr 0 n ≠ p ∨ x.isEmpty n then s
    else
      match twin s ctx core p (x.vreg n) with
      | some (q, true) => s.putSnd ctx core slot { x with bound := x.bound.setOr 0 n q, rshare := x.rshare + 1 }
      | some (_, false) => s.putSnd ctx core slot { x with rsatur := x.rsatur + 1 }
      | none => s

/-- Store a name's lanes of a mask: other lanes keep their contents (R23), fills lose those lanes (R35), and while
slices are parted the old lanes are remembered under the number of the write (R151). DESIGN CHOICE (assumption log 76): a name that
was empty stays so until the lanes that the mask leaves out have come from the fill. -/
def writeName (x : Snd) (number : Option Nat) (n : Nat) (mask : Bits96) (vals : List Nat) : Snd :=
  let old := x.vreg n
  let new := (List.range 96).map fun l => if mask.getLsbD l then BitVec.ofNat 32 (vals.getD l 0) else old.getD l 0
  let x := match number with | some t => { x with past := (t, n, old) :: x.past } | none => x
  let drop := fun f : Fill => if f.name = n then { f with keep := f.keep.filter (fun l => !mask.getLsbD l) } else f
  { x.setV n new with fills := x.fills.mapV (fun _ f => drop f) }

/-- The slices that run the block: those with a lane in its activity mask (R76). -/
def runners (blk : Block) : Nat :=
  (List.range 24).foldl (fun a i => if blk.mask / 2 ^ (4 * i) % 16 ≠ 0 then a + 2 ^ i else a) 0

/-- Slices of the block are parted from those of this issue. -/
def parted (i : Issue) : Bool := i.slices != runners i.blk

/-- The number that a write of this issue takes, where slices are parted; the two names of a pair take the same (R151). -/
def writeNumber (i : Issue) (x : Snd) : Option Nat := if i.parted then some x.past.length else none

/-- The next physical register of a core, charged to a context's share, and the core with it named (R39). -/
def freshPhys (s : State) (ctx core : Nat) : State × Nat :=
  (s.modCore core (fun c => { c with nextPhys := c.nextPhys + 1 }), 4096 * (s.coreOf core).nextPhys + ctx)

/-- Bind a name to a fresh register of the share (R30). -/
def bindNew (s : State) (ctx core slot n : Nat) : State × Nat :=
  let (s, p) := freshPhys s ctx core
  (s.modSnd ctx core slot (fun x => { x with bound := x.bound.setOr 0 n p }), p)

/-- Bind names to fresh registers, one each, in order. -/
def bindEach (s : State) (ctx core slot : Nat) : List Nat → State × List Nat
  | [] => (s, [])
  | n :: r =>
    let (s, p) := bindNew s ctx core slot n
    let (s, ps) := bindEach s ctx core slot r
    (s, p :: ps)

/-- Bind the destination names of an executed result: first each to a fresh register, which drops the references of the old
bindings (R30, R43), then where sharing is on each to an equal live register (R42). The registers they end with. DESIGN CHOICE: the old binding is dropped before the comparison
(assumption log 4). DESIGN CHOICE (assumption log 75): a result of cbpop, hstat or cbstat
is compared too, and NOREUSE keeps it from that. -/
def bindResult (i : Issue) (s : State) : State × List Nat :=
  let (s, ps) := bindEach s i.ctx i.core i.slot i.dstNames
  let s := if i.ructl.getLsbD 2 && i.nr == 0 then
      (i.dstNames.zip ps).foldl (fun s (n, p) => shareFull s i.ctx i.core i.slot n p) s
    else s
  (s, match s.snd? i.ctx i.core i.slot with
      | some x => i.dstNames.map (x.bound.getOr 0 ·)
      | none => ps)

/-- On a memo hit the destination names are full and bound to the entry's registers (R40). -/
def bindHit (i : Issue) (m : Memo) (x : Snd) : Snd :=
  let full := fun f : Fill => if i.dstNames.contains f.name then { f with keep := [] } else f
  { x with rlook := x.rlook + 1, rhits := x.rhits + 1, fills := x.fills.mapV (fun _ f => full f),
           bound := (i.dstNames.zip m.result).foldl (fun b (n, p) => b.setOr 0 n p) x.bound }

/-- What a lookup that did not hit adds to RLOOK and RSATUR (R41). -/
def Lookup.counts : Lookup → Word × Word
  | .off => (0, 0)
  | .saturated => (1, 1)
  | _ => (1, 0)

/-- The bookkeeping of reuse once an issue has written its destination (R40 to R43): counters, bindings, and a memo entry
where the result is full (R41). A result that may come from a value its source no longer holds is not kept, since its key names
the register of the newer one (R36, R151). -/
def book (i : Issue) (s : State) (use : Bool) (key : List Nat) (flags : Nat) : State :=
  match (if use then i.lookup s key else .off) with
  | .hit m => s.modSnd i.ctx i.core i.slot (i.bindHit m)
  | r =>
    let names := i.keyNames s
    let s := s.modSnd i.ctx i.core i.slot (fun x => { x with rlook := x.rlook + r.counts.1, rsatur := x.rsatur + r.counts.2 })
    let full := match s.snd? i.ctx i.core i.slot with | some x => i.dstNames.all (!x.isEmpty ·) | none => false
    let (s, ps) := i.bindResult s
    if use && full && i.settledSources && i.ructl.getLsbD 1 && i.nr == 0 then
      s.modCore i.core (fun c =>
        { c with memo := { key := key, names := names, result := ps, flags := flags, owner := i.ctx, launch := none } :: c.memo })
    else s

/-! ### Fills (R33, R35) -/

/-- The slices of a sounder stand in more than one join set. -/
def partedNow (x : Snd) : Bool := (x.slices.map (fun e => e.2.join)).eraseDups.length > 1

/-- The writes remembered as a name is marked empty: its contents under the number of the next write, which for the second name
of a pair is that of the first (R151). -/
def pastAtFill (x : Snd) (n : Nat) (hi : Bool) : List (Nat × Nat × LaneVec) :=
  if partedNow x then ((if hi then x.past.length - 1 else x.past.length), n, x.vreg n) :: x.past else x.past

/-- Mark a name empty in some lanes: it is bound to a fresh register, and earlier fills lose those lanes (R33, R35). While slices
are parted the write has its place here, not where the fill comes (R151). -/
def openFill (s : State) (ctx core slot n : Nat) (hi : Bool) (lanes : List Nat) (engine hand : Bool) (memo : Option Memo)
    (share : Bool) : State × Nat :=
  let (s, p) := freshPhys s ctx core
  match s.snd? ctx core slot with
  | none => (s, 0)
  | some x =>
    let drop := fun f : Fill => if f.name = n then { f with keep := f.keep.filter (fun l => !lanes.contains l) } else f
    let past := pastAtFill x n hi
    let f : Fill := { name := n, hi := hi, want := lanes, got := [], keep := lanes, engine := engine, hand := hand,
                      phys := p, memo := memo, share := share, after := past.length }
    (s.putSnd ctx core slot { x with nextFill := x.nextFill + 1, bound := x.bound.setOr 0 n p, past := past,
                                     fills := (x.fills.mapV (fun _ g => drop g)).put x.nextFill f }, x.nextFill)

/-- The 96 lanes that a live register holds. -/
def physValue (s : State) (core p : Nat) : LaneVec :=
  let all := (s.cc.filter (fun e => e.1 % 512 == core)).flatMap fun e =>
    e.2.sounders.flatMap fun (_, x) => (x.bound.filter (fun b => b.2 == p && p != 0)).map fun b => x.vreg b.1
  all.headD LaneVec.zero

/-- The fills of the two names of a pair, or the one fill of a single name: the two are opened one after the other. -/
def fillPair (x : Snd) (k : Nat) : List Nat :=
  let hi := fun k => match x.fills.find k with | some f => f.hi | none => false
  if hi k && decide (0 < k) then [k - 1, k] else if hi (k + 1) then [k, k + 1] else [k]

/-- The memo entry of a reusable load, in which the register `p` has become `q`, is installed once all its names are full and
while its registers are live (R39, R41). -/
def installLoad (s : State) (ctx core slot p q : Nat) (m : Option Memo) : State :=
  match m with
  | none => s
  | some m =>
    let ren := fun m : Memo => { m with result := m.result.map (fun r => if r = p then q else r) }
    let s := s.modSnd ctx core slot (fun x => { x with fills := x.fills.mapV (fun _ f => { f with memo := f.memo.map ren }) })
    let open_ := match s.snd? ctx core slot with | some x => x.fills.any (fun e => (ren m).result.contains e.2.phys) | none => true
    if open_ || !((ren m).names ++ (ren m).result).all (livePhys s core) then s else s.modCore core (fun c => { c with memo := ren m :: c.memo })

/-- What a name held before each write that comes after a fill has the fill's values in the lanes that it gives (R151). -/
def pastFilled (f : Fill) (mask : Bits96) (vals : List Nat) (past : List (Nat × Nat × LaneVec)) : List (Nat × Nat × LaneVec) :=
  past.map fun (t, n, old) =>
    if n = f.name ∧ f.after ≤ t then
      (t, n, (List.range 96).map fun l => if mask.getLsbD l then BitVec.ofNat 32 (vals.getD l 0) else old.getD l 0)
    else (t, n, old)

/-- The values a fill has are written to the lanes its name still takes from it, at the place of the instruction that made it
(R151); a fill with nothing more to come ends: its result may share storage, and its memo entry is installed (R33, R35, R41,
R42). -/
def fillOne (s : State) (ctx core slot : Nat) (k : Nat) : State :=
  match s.snd? ctx core slot with
  | none => s
  | some x =>
    match x.fills.find k with
    | none => s
    | some f =>
      let lanes := (f.got.map (·.1)).filter f.keep.contains
      let mask : Bits96 := BitVec.ofNat 96 (lanes.foldl (fun a l => a + 2 ^ l) 0)
      let vals := (List.range 96).map fun l => f.got.getOr 0 l
      let g : Fill := { f with got := [], keep := f.keep.filter (fun l => !lanes.contains l) }
      let y := writeName { x with fills := x.fills.del k, past := pastFilled f mask vals x.past } none f.name mask vals
      if !g.want.isEmpty then s.putSnd ctx core slot { y with fills := y.fills.put k g }
      else
        let s := s.putSnd ctx core slot y
        let s := if f.share then shareFull s ctx core slot f.name f.phys else s
        let q := match s.snd? ctx core slot with
          | some z => if y.bound.getOr 0 f.name = f.phys then z.bound.getOr 0 f.name else f.phys
          | none => f.phys
        { installLoad s ctx core slot f.phys q f.memo with freeCtr := s.freeCtr + 1 }

/-- LANE_LOAD_FILL of a fill: the two names of a pair take their words together (R33, R151). -/
def fillWrite (s : State) (ctx core slot k : Nat) : State :=
  match s.snd? ctx core slot with
  | none => s
  | some x => (fillPair x k).foldl (fun s k => fillOne s ctx core slot k) s

/-! ### Retirement -/

/-- The issue retires: its slices go on by `n` words, the clock of deterministic mode counts it (R292), and YIELD is
noted (R68). -/
def retire (i : Issue) (s : State) (n : Nat := 1) : State :=
  let f := fun x : Snd =>
    { x with slices := x.slices.mapV (fun k sl => if sliceBit i.slices k then { sl with pc := sl.pc + n } else sl),
             lclock := if x.determ && !x.handler then x.lclock + 1 else x.lclock,
             yielded := if i.yd = 1 then lowSlice i.slices :: x.yielded.filter (· != lowSlice i.slices)
                        else x.yielded.filter (· != lowSlice i.slices) }
  let s := s.modSnd i.ctx i.core i.slot f
  { s with freeCtr := s.freeCtr + 1 }

/-- A trap of an instruction as it executes: its lookup, which did not hit, still counts (R40, R41). -/
def execTrap (i : Issue) (s : State) (cause : Nat) (fpexc : Nat := 0) : State :=
  let r := if i.reusable then i.lookup s (i.memoKey s []) else .off
  i.trap (s.modSnd i.ctx i.core i.slot (fun x => { x with rlook := x.rlook + r.counts.1, rsatur := x.rsatur + r.counts.2 }))
    cause (fpexc := fpexc)

/-- The trap of an enabled exception of a lane operation (R87). -/
def fpTrap (i : Issue) (s : State) (u : Nat) : State := i.execTrap s 0x07 u

/-- The predicate whose lanes hold the results that are not 0. -/
def predOf (vals : List Nat) : Bits96 :=
  BitVec.ofNat 96 ((List.range 96).foldl (fun a l => if vals.getD l 0 = 0 then a else a + 2 ^ l) 0)

/-- The destination takes the values in the lanes of the effective mask: other lanes keep their contents (R23, R132). -/
def writeDst (i : Issue) (vals : List Nat) (x : Snd) : Snd :=
  match i.spec.dst with
  | .pred => x.setQ i.dst ((predOf vals &&& i.mask) ||| (x.qreg i.dst &&& ~~~i.mask))
  | .v64 =>
    writeName (writeName x (i.writeNumber x) i.dst i.mask (vals.map (· % 2 ^ 32))) (i.writeNumber x) (i.dst + 1) i.mask
      (vals.map (· / 2 ^ 32))
  | _ => writeName x (i.writeNumber x) i.dst i.mask vals

/-- An arithmetic instruction writes its results and flags and retires (R132). -/
def commit (i : Issue) (s : State) (rs : List (Nat × Nat)) : State :=
  let u := unionFlags i.mask rs
  let s1 := s.modSnd i.ctx i.core i.slot (fun x => (i.writeDst (rs.map (·.1)) x).raise u)
  let s2 := if i.spec.dst = .pred then s1 else i.book s1 i.reusable (i.memoKey s []) u
  i.retire s2

/-- The results of an arithmetic instruction: the trap of an enabled exception comes first (R87), then the wait for a free
register (R48), then the write and the retirement (R132). -/
def finish (i : Issue) (s : State) (rs : List (Nat × Nat)) : State :=
  if trapEnabled i.fpctl (unionFlags i.mask rs) then i.fpTrap s (unionFlags i.mask rs)
  else if !i.room s i.reusable (i.memoKey s []) then s
  else i.commit s rs

end Issue

/-- The running block of a sounder. -/
def Snd.runningBlock (x : Snd) : Option Block := if x.running then x.queue.head? else none

/-- The word is an engine instruction (R180). -/
def Issue.isEngine (i : Issue) : Bool := decide (0x30 ≤ i.maj) && decide (i.maj ≤ 0x35)

/-- The issue, where it passed its checks before and is held (R402). -/
def Issue.passed (i : Issue) : Option EngCmd :=
  (i.x.passed.find? fun p => p.slices == i.slices && p.lpc == i.lpc && p.block == i.blk.index && p.hand == i.x.handler).map (·.cmd)

/-- The empty operands that an issue waits for or traps on (R34): none of an engine instruction whose mask is empty, which makes
only the decoding checks (R181), or which has passed its checks and is held (R402). -/
def Issue.emptyNow (i : Issue) : List (Nat × Nat × Bool) :=
  if i.isEngine && (i.mask == 0 || i.passed.isSome) then [] else i.empties

/-- The operand values of the command lane (R181). -/
def Issue.opA (i : Issue) (s : State) : Nat := (i.srcA s).getD i.cmdLane 0
def Issue.opB (i : Issue) (s : State) : Nat := (i.srcB s).getD i.cmdLane 0
def Issue.opC (i : Issue) (s : State) : Nat := (i.srcC s).getD i.cmdLane 0
def Issue.opD (i : Issue) (s : State) : Nat := (i.srcD s).getD i.cmdLane 0

/-- Tile, rows and first row of a matrix control word (Table 10 of 07). -/
def matTile (c : Nat) : Nat := c / 2 ^ 4 % 16
def matRows (c : Nat) : Nat := c / 2 ^ 16 % 64 + 1
def matTrow (c : Nat) : Nat := c / 2 ^ 22 % 64

/-- Every resource that SRCA of an engine instruction names lies in the share: its handle, tile and buffers, barrier or buffer
(R28; check 3 of Table 2 of 07). A number that is none of its kind is not looked up here. -/
def Issue.granted (i : Issue) (s : State) : Bool :=
  let a := i.opA s
  let sh := (s.ccOf i.ctx i.core).share
  let tile := sh.tiles.contains (matTile a)
  let inp := sh.cbufs.contains (a / 2 ^ 8 % 16)
  let outp := sh.cbufs.contains (a / 2 ^ 12 % 16)
  match i.maj, i.min with
  | 0x31, _ => decide (16 ≤ a) || sh.cbufs.contains a
  | 0x32, 0 => inp
  | 0x32, 2 => tile && inp
  | 0x32, 3 => tile && outp
  | 0x32, 4 => tile
  | 0x32, _ => true
  | 0x34, _ => sh.barriers.contains (a % 2 ^ 9)
  | 0x35, _ => decide (256 ≤ a) || sh.handles.contains a
  | _, _ => sh.handles.contains (a % 256)

/-- An engine instruction with an empty operand names, in a SRCA that is full, a resource that is not granted: that check comes
before the empty operand (R70). DEDUCED (assumption log 15). -/
def Issue.notMine (i : Issue) (s : State) : Bool :=
  i.isEngine && !i.emptyNow.isEmpty && i.emptyNow.all (fun e => e.1 != 0) && !i.granted s

/-- Words of the trapping instruction: two for a copy with its follow-on (R193). -/
def Issue.words (i : Issue) : Nat := if i.maj = 0x30 ∧ i.min = 0 ∧ i.dst % 2 = 1 then 2 else 1

/-- One issue of a lane word (R70): the illegal-instruction trap with its lowest cause (R69), a resource that is not granted
(R28), empty operands (R34), then the instruction's own effect. -/
def laneIssue (s : State) (i : Issue) (eff : Issue → State → State) : Out :=
  match laneIllegal (BitVec.ofNat 96 i.word) i.x.n (bits i.fpctl 10 8) with
  | some cause => .next (i.trap s 0x01 (ill := cause))
  | none =>
    if i.notMine s then .next (i.trap s 0x03 (words := i.words))
    else
      match i.emptyNow.find? (fun e => e.2.2) with
      | some (f, n, _) => .next (i.trap s 0x04 (src := f) (info := n) (words := i.words))
      | none => if !i.emptyNow.isEmpty then .next s else .next (eff i s)

/-- The issue of a lane word by the join set whose turn it is. DEDUCED (assumption log 10). -/
def laneStep (s : State) (maj min : Nat) (b : LaneBody) (eff : Issue → State → State) : Out :=
  match s.cur with
  | .lane c k j slices =>
    match s.snd? c k j with
    | none => .fault .noParty
    | some x =>
      match x.runningBlock with
      | none => .fault .noParty
      | some blk => laneIssue s (Issue.of s c k j slices x blk maj min b) eff
  | _ => .fault .noParty

/-- A lane instruction that computes every lane's result and flags from its sources' lanes (R132). -/
def laneArith (s : State) (maj min : Nat) (b : LaneBody)
    (op : Issue → List Nat → List Nat → List Nat → List Nat → List (Nat × Nat)) : Out :=
  laneStep s maj min b fun i s => i.finish s (op i (i.srcA s) (i.srcB s) (i.srcC s) (i.srcD s))

/-- The same operation in each lane. -/
def eachLane (f : Nat → Nat → Nat → Nat → Nat × Nat) (as bs cs ds : List Nat) : List (Nat × Nat) :=
  (List.range 96).map fun l => f (as.getD l 0) (bs.getD l 0) (cs.getD l 0) (ds.getD l 0)

end Sys2Proof.Machine
end

