-- ==== Sys2Proof/Machine/LaneCtl.lean ====
section
/-! DEFINITION. The lane control instructions (R80, R81, R231, R232), the start of a block (R128) and the joining of slices
at a regang (R232). -/

namespace Sys2Proof.Machine

open Sys2Proof

/-- Change the slices of an issue. -/
def Issue.modSlices (i : Issue) (s : State) (f : Nat → Slice → Slice) : State :=
  s.modSnd i.ctx i.core i.slot fun x =>
    { x with slices := x.slices.mapV (fun k sl => if sliceBit i.slices k then f k sl else sl) }

/-- A block whose slices have all finished leaves the queue (R78, R128). What names held before is forgotten then, but for a
block of the handler, which the interrupted one outlives (R151, R233). -/
def Snd.endBlock (x : Snd) : Snd :=
  if x.running && x.slices.all (fun e => e.2.done) then
    { x with queue := x.queue.tail, running := false, slices := [], past := if x.handler then x.past else [],
             joins := if x.handler then x.joins else [], yielded := [],
             fills := if x.handler then x.fills else x.fills.mapV (fun _ f => { f with after := 0 }) }
  else x

/-- A table of slice pairs with a number at the pairs that a test picks out. -/
def stampPairs (t : Tbl Nat) (n : Nat) (p : Nat → Nat → Bool) : Tbl Nat :=
  (List.range 24).foldl (fun t a => (List.range 24).foldl (fun t b =>
    if decide (a < b) && p a b then t.put (pairKey a b) n else t) t) t

/-- Slices of one set part from those of another (R230, R314 item 3). -/
def Snd.part (x : Snd) (a b : Nat) : Snd :=
  if a = 0 ∨ b = 0 then x
  else { x with parts := stampPairs x.parts x.seq fun k l => (sliceBit a k && sliceBit b l) || (sliceBit a l && sliceBit b k) }

/-- lend: the executing slices are finished for the block (R80). -/
def execVLend (f : LaneI) (s : State) : Out :=
  laneStep s 0x38 0 (.i f) fun i s =>
    let s := i.modSlices (i.retire s 0) (fun _ sl => { sl with done := true })
    s.modSnd i.ctx i.core i.slot Snd.endBlock

/-- lnop (R81). -/
def execVLnop (f : LaneI) (s : State) : Out := laneStep s 0x38 1 (.i f) fun i s => i.retire s

/-- The slices of an issue that have a lane of a set. -/
def slicesWith (slices : Nat) (m : Bits96) : Nat :=
  (List.range 24).foldl (fun a i => if sliceBit slices i && m.toNat / 2 ^ (4 * i) % 16 != 0 then a + 2 ^ i else a) 0

/-- A lane branch: the target must lie in the block, whoever transfers (R77); the slices of `taken` transfer, the others
go on, and the two sets are parted (R230). -/
def Issue.branch (i : Issue) (s : State) (taken : Nat) : State :=
  let t := (i.lpc : Int) + Alu.toI true 16 i.imm
  if t < i.blk.entry ∨ ((i.blk.entry + i.blk.len : Nat) : Int) ≤ t then i.trap s 0x06
  else
    let fall := i.slices - taken
    let s := (i.retire s 0).modSnd i.ctx i.core i.slot (fun x => x.part (Alu.andN taken i.slices) fall)
    i.modSlices s fun k sl =>
      if sliceBit taken k then { sl with pc := t.toNat, join := lowSlice taken } else { sl with pc := sl.pc + 1, join := lowSlice fall }

/-- The bits of a lane branch's predicate. -/
def Issue.branchPred (i : Issue) : Bits96 := i.x.qreg (i.fa - 656)

/-- lbr.any: a slice transfers if the predicate is set in some of its lanes in the mask (R231). -/
def execVLbrAny (f : LaneI) (s : State) : Out :=
  laneStep s 0x38 2 (.i f) fun i s => i.branch s (slicesWith i.slices (i.mask &&& i.branchPred))

/-- lbr.all: a slice transfers if it has lanes in the mask and the predicate is set in all of them (R231). -/
def execVLbrAll (f : LaneI) (s : State) : Out :=
  laneStep s 0x38 2 (.i f) fun i s =>
    i.branch s (slicesWith i.slices i.mask - slicesWith i.slices (i.mask &&& ~~~i.branchPred))

/-- ljmp: a slice transfers if it has lanes in the mask; with no guards every slice does (R231). -/
def execVLjmp (f : LaneI) (s : State) : Out :=
  laneStep s 0x38 3 (.i f) fun i s =>
    i.branch s (if f.g1 = 0 ∧ f.g2 = 0 then i.slices else slicesWith i.slices i.mask)

/-- regang: the slices wait at it (R232). -/
def execVRegang (f : LaneI) (s : State) : Out :=
  laneStep s 0x38 4 (.i f) fun i s => i.modSlices (i.retire s 0) (fun _ sl => { sl with atRegang := true })

/-- ltrap: the trap "lane trap" where the mask has a lane (R231). -/
def execVLtrap (f : LaneI) (s : State) : Out :=
  laneStep s 0x38 5 (.i f) fun i s => if i.mask = 0 then i.retire s else i.trap s 0x0A (info := i.imm % 2 ^ 16)

/-- Join the slices that wait at one index, and send them on: every join set is a new one (R314 item 3), and the slices of one
see each other's writes (R151, R232). -/
def Snd.rejoin (x : Snd) : Snd :=
  let open_ := x.slices.filter (fun e => !e.2.done)
  let lead := fun pc => ((open_.filter (fun e => e.2.pc == pc)).map (·.1)).headD 0
  let at_ := fun (k : Nat) => (Tbl.find open_ k).map (·.pc)
  { x with slices := x.slices.mapV (fun _ sl => if sl.done then sl else { sl with pc := sl.pc + 1, atRegang := false, join := lead sl.pc }),
           parts := stampPairs x.parts x.seq (fun a b => (at_ a).isSome && (at_ b).isSome),
           joins := if x.past.isEmpty then x.joins else stampPairs x.joins x.past.length (fun a b => (at_ a).isSome && at_ a == at_ b),
           yielded := [] }

/-- REGANG_JOIN: every unfinished slice waits at a regang (R232). -/
def execERegangJoin (ctx core slot : Nat) (s : State) : Out :=
  .next (s.modSnd ctx core slot fun x =>
    if x.running && x.slices.all (fun e => e.2.done || e.2.atRegang) && x.slices.any (fun e => !e.2.done) then x.rejoin else x)

/-- The slices as a block starts: all at its first instruction, joined; a slice without a lane in the activity mask is
finished at once (R76). -/
def startSlices (b : Block) : Tbl Slice :=
  let run := Issue.runners b
  (List.range 24).map fun k => (k, { pc := b.entry, done := !sliceBit run k, atRegang := false, join := lowSlice run })

/-- The next queued block starts; one whose mask is all zeros is finished at once (R128). -/
def Snd.startBlock (x : Snd) : Snd :=
  if x.running then x
  else
    match x.queue with
    | [] => x
    | b :: _ =>
      ({ x with running := true, slices := startSlices b, yielded := [],
                joins := if x.past.isEmpty then x.joins else stampPairs x.joins x.past.length (fun _ _ => true) }).endBlock

/-- LANE_BLOCK_START (R128). -/
def execELaneBlockStart (ctx core slot : Nat) (s : State) : Out := .next (s.modSnd ctx core slot Snd.startBlock)

end Sys2Proof.Machine
end

