-- ==== Sys2Proof/Machine/Scalar.lean ====
section
/-! DEFINITION. The instructions of the scalar stream of chapter 04: integer operations, compares, transfers, loads and
stores, lane blocks and scalar fences. -/

namespace Sys2Proof.Machine

open Sys2Proof

/-! ## Integer operations (R115 to R119) -/

/-- The operations of Table 1 of 04 at a width. -/
inductive SOp where
  | add_ | sub_ | and_ | or_ | xor_ | shl_ | shr_ | sra_ | mul_ | mulh_ | mulhn_ | div_ | divn_ | rem_ | remn_ | min_ | max_ | minn_ | maxn_
  deriving DecidableEq, Repr

/-- The result of an operation of Table 1 of 04 at width `w` (R115). -/
def SOp.eval (op : SOp) (w : Nat) (a b : BitVec w) : BitVec w :=
  match op with
  | .add_ => a + b
  | .sub_ => a - b
  | .and_ => a &&& b
  | .or_ => a ||| b
  | .xor_ => a ^^^ b
  | .shl_ => a <<< (b.toNat % w)
  | .shr_ => a >>> (b.toNat % w)
  | .sra_ => a.sshiftRight (b.toNat % w)
  | .mul_ => a * b
  | .mulh_ => BitVec.ofInt w (a.toInt * b.toInt / 2 ^ w)
  | .mulhn_ => BitVec.ofNat w (a.toNat * b.toNat / 2 ^ w)
  | .div_ => if b = 0 then BitVec.allOnes w else BitVec.ofInt w (a.toInt.tdiv b.toInt)
  | .divn_ => if b = 0 then BitVec.allOnes w else a / b
  | .rem_ => if b = 0 then a else BitVec.ofInt w (a.toInt.tmod b.toInt)
  | .remn_ => if b = 0 then a else a % b
  | .min_ => if b.slt a then b else a
  | .max_ => if a.slt b then b else a
  | .minn_ => if b.ult a then b else a
  | .maxn_ => if a.ult b then b else a

/-- A scalar instruction that writes one register and goes on to the next word (R110). -/
def scalarWrite (s : State) (d : BitVec 6) (f : Snd → Word) : Out :=
  scalarStep s fun c k j x => s.putSnd c k j (x.setS d.toNat (f x)).adv

/-- The 64-bit form: two registers in, one out (R115). -/
def scalarAlu (op : SOp) (d a b : BitVec 6) (s : State) : Out :=
  scalarWrite s d fun x => op.eval 64 (x.sreg a.toNat) (x.sreg b.toNat)

/-- The .32 form: the low halves in, the result sign-extended (R115). -/
def scalarAlu32 (op : SOp) (d a b : BitVec 6) (s : State) : Out :=
  scalarWrite s d fun x =>
    (op.eval 32 ((x.sreg a.toNat).setWidth 32) ((x.sreg b.toNat).setWidth 32)).signExtend 64

/-- add (R115). -/
def execSAdd (d a b : BitVec 6) (s : State) : Out := scalarAlu .add_ d a b s
/-- add.32 (R115). -/
def execSAdd32 (d a b : BitVec 6) (s : State) : Out := scalarAlu32 .add_ d a b s
/-- sub (R115). -/
def execSSub (d a b : BitVec 6) (s : State) : Out := scalarAlu .sub_ d a b s
/-- sub.32 (R115). -/
def execSSub32 (d a b : BitVec 6) (s : State) : Out := scalarAlu32 .sub_ d a b s
/-- and (R115). -/
def execSAnd (d a b : BitVec 6) (s : State) : Out := scalarAlu .and_ d a b s
/-- and.32 (R115). -/
def execSAnd32 (d a b : BitVec 6) (s : State) : Out := scalarAlu32 .and_ d a b s
/-- or (R115). -/
def execSOr (d a b : BitVec 6) (s : State) : Out := scalarAlu .or_ d a b s
/-- or.32 (R115). -/
def execSOr32 (d a b : BitVec 6) (s : State) : Out := scalarAlu32 .or_ d a b s
/-- xor (R115). -/
def execSXor (d a b : BitVec 6) (s : State) : Out := scalarAlu .xor_ d a b s
/-- xor.32 (R115). -/
def execSXor32 (d a b : BitVec 6) (s : State) : Out := scalarAlu32 .xor_ d a b s
/-- shl (R115). -/
def execSShl (d a b : BitVec 6) (s : State) : Out := scalarAlu .shl_ d a b s
/-- shl.32 (R115). -/
def execSShl32 (d a b : BitVec 6) (s : State) : Out := scalarAlu32 .shl_ d a b s
/-- shr (R115). -/
def execSShr (d a b : BitVec 6) (s : State) : Out := scalarAlu .shr_ d a b s
/-- shr.32 (R115). -/
def execSShr32 (d a b : BitVec 6) (s : State) : Out := scalarAlu32 .shr_ d a b s
/-- sra (R115). -/
def execSSra (d a b : BitVec 6) (s : State) : Out := scalarAlu .sra_ d a b s
/-- sra.32 (R115). -/
def execSSra32 (d a b : BitVec 6) (s : State) : Out := scalarAlu32 .sra_ d a b s
/-- mul (R115). -/
def execSMul (d a b : BitVec 6) (s : State) : Out := scalarAlu .mul_ d a b s
/-- mul.32 (R115). -/
def execSMul32 (d a b : BitVec 6) (s : State) : Out := scalarAlu32 .mul_ d a b s
/-- mulh (R115). -/
def execSMulh (d a b : BitVec 6) (s : State) : Out := scalarAlu .mulh_ d a b s
/-- mulh.32 (R115). -/
def execSMulh32 (d a b : BitVec 6) (s : State) : Out := scalarAlu32 .mulh_ d a b s
/-- mulhn (R115). -/
def execSMulhn (d a b : BitVec 6) (s : State) : Out := scalarAlu .mulhn_ d a b s
/-- mulhn.32 (R115). -/
def execSMulhn32 (d a b : BitVec 6) (s : State) : Out := scalarAlu32 .mulhn_ d a b s
/-- div (R115). -/
def execSDiv (d a b : BitVec 6) (s : State) : Out := scalarAlu .div_ d a b s
/-- div.32 (R115). -/
def execSDiv32 (d a b : BitVec 6) (s : State) : Out := scalarAlu32 .div_ d a b s
/-- divn (R115). -/
def execSDivn (d a b : BitVec 6) (s : State) : Out := scalarAlu .divn_ d a b s
/-- divn.32 (R115). -/
def execSDivn32 (d a b : BitVec 6) (s : State) : Out := scalarAlu32 .divn_ d a b s
/-- rem (R115). -/
def execSRem (d a b : BitVec 6) (s : State) : Out := scalarAlu .rem_ d a b s
/-- rem.32 (R115). -/
def execSRem32 (d a b : BitVec 6) (s : State) : Out := scalarAlu32 .rem_ d a b s
/-- remn (R115). -/
def execSRemn (d a b : BitVec 6) (s : State) : Out := scalarAlu .remn_ d a b s
/-- remn.32 (R115). -/
def execSRemn32 (d a b : BitVec 6) (s : State) : Out := scalarAlu32 .remn_ d a b s
/-- min (R115). -/
def execSMin (d a b : BitVec 6) (s : State) : Out := scalarAlu .min_ d a b s
/-- min.32 (R115). -/
def execSMin32 (d a b : BitVec 6) (s : State) : Out := scalarAlu32 .min_ d a b s
/-- max (R115). -/
def execSMax (d a b : BitVec 6) (s : State) : Out := scalarAlu .max_ d a b s
/-- max.32 (R115). -/
def execSMax32 (d a b : BitVec 6) (s : State) : Out := scalarAlu32 .max_ d a b s
/-- minn (R115). -/
def execSMinn (d a b : BitVec 6) (s : State) : Out := scalarAlu .minn_ d a b s
/-- minn.32 (R115). -/
def execSMinn32 (d a b : BitVec 6) (s : State) : Out := scalarAlu32 .minn_ d a b s
/-- maxn (R115). -/
def execSMaxn (d a b : BitVec 6) (s : State) : Out := scalarAlu .maxn_ d a b s
/-- maxn.32 (R115). -/
def execSMaxn32 (d a b : BitVec 6) (s : State) : Out := scalarAlu32 .maxn_ d a b s
/-- addi: the immediate is sign-extended (R116). -/
def execSAddi (d a : BitVec 6) (i : BitVec 14) (s : State) : Out :=
  scalarWrite s d fun x => SOp.eval .add_ 64 (x.sreg a.toNat) (i.signExtend 64)
/-- andi: the immediate is sign-extended (R116). -/
def execSAndi (d a : BitVec 6) (i : BitVec 14) (s : State) : Out :=
  scalarWrite s d fun x => SOp.eval .and_ 64 (x.sreg a.toNat) (i.signExtend 64)
/-- ori: the immediate is sign-extended (R116). -/
def execSOri (d a : BitVec 6) (i : BitVec 14) (s : State) : Out :=
  scalarWrite s d fun x => SOp.eval .or_ 64 (x.sreg a.toNat) (i.signExtend 64)
/-- xori: the immediate is sign-extended (R116). -/
def execSXori (d a : BitVec 6) (i : BitVec 14) (s : State) : Out :=
  scalarWrite s d fun x => SOp.eval .xor_ 64 (x.sreg a.toNat) (i.signExtend 64)
/-- shli (R117). -/
def execSShli (d a n : BitVec 6) (s : State) : Out :=
  scalarWrite s d fun x => SOp.eval .shl_ 64 (x.sreg a.toNat) (n.setWidth 64)
/-- shri (R117). -/
def execSShri (d a n : BitVec 6) (s : State) : Out :=
  scalarWrite s d fun x => SOp.eval .shr_ 64 (x.sreg a.toNat) (n.setWidth 64)
/-- srai (R117). -/
def execSSrai (d a n : BitVec 6) (s : State) : Out :=
  scalarWrite s d fun x => SOp.eval .sra_ 64 (x.sreg a.toNat) (n.setWidth 64)
/-- lui: sext(imm20) × 2^14 (R118). -/
def execSLui (d : BitVec 6) (i : BitVec 20) (s : State) : Out :=
  scalarWrite s d fun _ => i.signExtend 64 <<< 14
/-- pcrel: PC + 4 × sext(imm20) (R119). -/
def execSPcrel (d : BitVec 6) (i : BitVec 20) (s : State) : Out :=
  scalarWrite s d fun x => BitVec.ofNat 64 x.pc + (i.signExtend 64 <<< 2)

/-! ## Compares and transfers (R120 to R122) -/

/-- A compare writes one condition (R120). -/
def scalarCmp (s : State) (d cc : BitVec 3) (f : Snd → Word × Word) : Out :=
  scalarStep s fun c k j x => s.putSnd c k j (x.setCond d.toNat (condHolds cc (f x).1 (f x).2)).adv

/-- cmp (R120). -/
def execSCmp (d c : BitVec 3) (a b : BitVec 6) (s : State) : Out :=
  scalarCmp s d c fun x => (x.sreg a.toNat, x.sreg b.toNat)
/-- cmpi: the immediate is sign-extended (R120). -/
def execSCmpi (d c : BitVec 3) (a : BitVec 6) (i : BitVec 14) (s : State) : Out :=
  scalarCmp s d c fun x => (x.sreg a.toNat, i.signExtend 64)

/-- The target of a PC-relative transfer (R121). -/
def pcTarget (x : Snd) {w : Nat} (o : BitVec w) : Word := BitVec.ofNat 64 x.pc + (o.signExtend 64 <<< 2)

/-- bc: transfer if c[n] XOR neg (R121). -/
def execSBc (c : BitVec 3) (n : BitVec 1) (o : BitVec 22) (s : State) : Out :=
  scalarStep s fun cx k j x =>
    if x.cond c.toNat ^^ (n == 1) then transfer s cx k j x x (pcTarget x o) else s.putSnd cx k j x.adv
/-- jmp (R121). -/
def execSJmp (o : BitVec 26) (s : State) : Out :=
  scalarStep s fun c k j x => transfer s c k j x x (pcTarget x o)
/-- call: s63 takes the return offset (R121). -/
def execSCall (o : BitVec 26) (s : State) : Out :=
  scalarStep s fun c k j x => transfer s c k j x (x.setS 63 (BitVec.ofNat 64 (x.pc + 4))) (pcTarget x o)
/-- jmpr (R122). -/
def execSJmpr (a : BitVec 6) (s : State) : Out :=
  scalarStep s fun c k j x => transfer s c k j x x (x.sreg a.toNat)
/-- callr: the target is read before s63 is written (R122). -/
def execSCallr (a : BitVec 6) (s : State) : Out :=
  scalarStep s fun c k j x => transfer s c k j x (x.setS 63 (BitVec.ofNat 64 (x.pc + 4))) (x.sreg a.toNat)
/-- ret (R122). -/
def execSRet (s : State) : Out :=
  scalarStep s fun c k j x => transfer s c k j x x (x.sreg 63)

/-! ## Loads and stores (R124 to R126) -/

/-- Record b of a buffer-record pool (R157, Table 2 of 06). -/
def poolRecord (s : State) (im : Image) (b : Nat) : Nat := s.readN (im.recPA + 16 * b) 16

/-- An access falls into a record of the launch that is marked CONST (R45). -/
def constHit (s : State) (ctx image va n : Nat) : Bool :=
  match s.image? ctx image with
  | none => false
  | some im =>
    (List.range im.recCount).any fun b =>
      let r := poolRecord s im b
      r / 2 ^ 107 % 2 == 1 && r / 2 ^ 64 % 2 ^ 42 != 0 && decide (r % 2 ^ 56 < va + n) &&
      decide (va < r % 2 ^ 56 + r / 2 ^ 64 % 2 ^ 42)

/-- The address lies in an alias window (R124, R170). -/
def inAlias (s : State) (ctx va : Nat) : Bool :=
  match translate s ctx va false false with
  | .ok (.aliasWin _ _) => true
  | _ => false

/-- The checks of a scalar access, in order: the place, or the cause of the exact trap (R124). -/
def scalarProbe (s : State) (ctx : Nat) (x : Snd) (ea n : Nat) (write : Bool) : Except Nat Loc :=
  if 2 ^ 56 ≤ ea then .error 0x10
  else if ea % n ≠ 0 then .error 0x11
  else if inAlias s ctx ea then .error 0x12
  else
    match translate s ctx ea (!write) write with
    | .fail _ => .error 0x1B
    | .ok l => if write && constHit s ctx x.image ea n then .error 0x14 else .ok l

/-- The stream's stores that are not performed (R110, R126), those before a trap among them. -/
def Snd.scalarPending (x : Snd) : Bool :=
  x.oplog.any (fun e => e.2.slices == 0 && !x.settledFor e.2 false)

/-- A loaded value as a scalar load of type code `t` writes it (R124). -/
def scalarExt (t v : Nat) : Word :=
  let w := 8 * tySize t
  if t ≤ 4 then BitVec.ofInt 64 (Alu.toI true w v) else BitVec.ofNat 64 (v % 2 ^ w)

/-- The effective address of a scalar access (R124). -/
def scalarEA (x : Snd) (a : BitVec 6) (i : BitVec 14) : Nat := (x.sreg a.toNat + i.signExtend 64).toNat

/-- A scalar load of type code `t`: it follows the stream's earlier stores, and retires with its data (R124 to R126). -/
def scalarLoad (t : Nat) (d a : BitVec 6) (i : BitVec 14) (s : State) : Out :=
  scalarStep s fun c k j x =>
    let ea := scalarEA x a i
    match scalarProbe s c x ea (tySize t) false with
    | .error e => scalarTrap s c k j x e (addr := ea)
    | .ok loc =>
      if x.scalarPending || coreSplit s k then s
      else
        match loc with
        | .mem _ pa =>
          if revoked s c then haltRevoked s c x.idx k 0 ea
          else if s.poisoned pa then scalarTrap s c k j x 0x50 (addr := ea) (info := nackDetail 0 0 true false + walkLevel s c ea)
          else (s.readAs k pa (tySize t)).1.putSnd c k j (x.setS d.toNat (scalarExt t (s.readAs k pa (tySize t)).2)).adv
        | .window pkg addr =>
          (s.putSnd c k j { x with wait := .load d.toNat t pkg ea }).sendOp (.load pkg addr (tySize t) (.scalar c k j))
        | .control _ => s.putSnd c k j (x.setS d.toNat 0).adv
        | _ => s

/-- The entry of the operand log that an access takes: the free one of the lowest index (R162). DESIGN CHOICE (assumption log 80). -/
def Snd.freeEntry (x : Snd) : Option Nat := (List.range 8).find? (fun k => (x.oplog.find k).isNone)

/-- A scalar store of `n` bytes: it retires once it has an entry of the operand log (R124, R125). -/
def scalarStore (t : Nat) (v a : BitVec 6) (i : BitVec 14) (s : State) : Out :=
  scalarStep s fun c k j x =>
    let ea := scalarEA x a i
    match scalarProbe s c x ea (tySize t) true with
    | .error e => scalarTrap s c k j x e (addr := ea)
    | .ok loc =>
      match x.freeEntry with
      | none => s
      | some n =>
        let w := (x.sreg v.toNat).toNat % 2 ^ (8 * tySize t)
        let e : LogEntry :=
          { seq := x.seq, slices := 0, kind := .scalarStore, word := scalarWord s c x, mask := 1, ty := t,
            minor := 0, addrs := [(0, ea)], datas := [(0, w)],
            todo := [{ lane := 0, va := ea, loc := loc, data := w, new := 0, sent := false }], held := [], cause := 0,
            detail := 0, told := false, fills := [], lpc := 0, block := 0, hand := x.handler, wid := x.identity,
            row := [] }
        s.putSnd c k j { x with oplog := x.oplog.put n e, seq := x.seq + 1, pc := x.pc + 4 }

/-- sld.i8 (R124). -/
def execSSldI8 (d a : BitVec 6) (i : BitVec 14) (s : State) : Out := scalarLoad 1 d a i s
/-- sld.n8 (R124). -/
def execSSldN8 (d a : BitVec 6) (i : BitVec 14) (s : State) : Out := scalarLoad 5 d a i s
/-- sld.i16 (R124). -/
def execSSldI16 (d a : BitVec 6) (i : BitVec 14) (s : State) : Out := scalarLoad 2 d a i s
/-- sld.n16 (R124). -/
def execSSldN16 (d a : BitVec 6) (i : BitVec 14) (s : State) : Out := scalarLoad 6 d a i s
/-- sld.i32 (R124). -/
def execSSldI32 (d a : BitVec 6) (i : BitVec 14) (s : State) : Out := scalarLoad 3 d a i s
/-- sld.n32 (R124). -/
def execSSldN32 (d a : BitVec 6) (i : BitVec 14) (s : State) : Out := scalarLoad 7 d a i s
/-- sld.i64 (R124). -/
def execSSldI64 (d a : BitVec 6) (i : BitVec 14) (s : State) : Out := scalarLoad 4 d a i s
/-- sst.n8 (R124). -/
def execSSstN8 (v a : BitVec 6) (i : BitVec 14) (s : State) : Out := scalarStore 5 v a i s
/-- sst.n16 (R124). -/
def execSSstN16 (v a : BitVec 6) (i : BitVec 14) (s : State) : Out := scalarStore 6 v a i s
/-- sst.n32 (R124). -/
def execSSstN32 (v a : BitVec 6) (i : BitVec 14) (s : State) : Out := scalarStore 7 v a i s
/-- sst.n64 (R124). -/
def execSSstN64 (v a : BitVec 6) (i : BitVec 14) (s : State) : Out := scalarStore 8 v a i s

/-! ## Lane blocks and fences (R127 to R131) -/

/-- Entry b of the lane code table a sounder runs, where it passes the checks of R79: first instruction and length. -/
def tableEntry (s : State) (ctx : Nat) (x : Snd) (b : Nat) : Option (Nat × Nat) :=
  match codeOf s ctx x with
  | none => none
  | some im =>
    if im.tableCount ≤ b then none
    else
      let e := s.readN (im.tablePA + 8 * b) 8
      let entry := e % 2 ^ 32
      let len := e / 2 ^ 32 % 2 ^ 16
      if len = 0 ∨ e / 2 ^ 48 ≠ 0 ∨ im.laneCount < entry + len then none else some (entry, len)

/-- The activity mask in s56 to s58 (R7, R19). -/
def Snd.activity (x : Snd) : Nat :=
  bits (x.sreg 56) 31 0 + bits (x.sreg 57) 31 0 * 2 ^ 32 + bits (x.sreg 58) 31 0 * 2 ^ 64

/-- lrun: check the entry, wait for room among four blocks, append (R127). -/
def execSLrun (k : BitVec 3) (b : BitVec 12) (s : State) : Out :=
  scalarStep s fun c core j x =>
    match tableEntry s c x b.toNat with
    | none => scalarTrap s c core j x 0x01 (ill := 4)
    | some (entry, len) =>
      if 4 ≤ x.queue.length then s
      else
        let blk : Block := { index := b.toNat, entry := entry, len := len, mask := x.activity,
                             k := (List.range 8).map (fun i => x.sreg (8 * k.toNat + i)),
                             fpctl := x.fpctlSeen, ructl := x.ructlSeen }
        s.putSnd c core j { x with queue := x.queue ++ [blk], pc := x.pc + 4 }

/-- In handler mode: a fill of the interrupted blocks has nothing left to bring but what held accesses of theirs will bring, whose
fault is handled only after tret (R234). DEDUCED (assumption log 62). -/
def Snd.fillHeld (x : Snd) (k : Nat) (f : Fill) : Bool :=
  x.handler && !f.hand && f.keep.all fun l =>
    f.want.contains l && x.oplog.any fun e => e.2.fills.contains k && (e.2.held.any (·.lane == l) || (e.2.kind == .append && !e.2.held.isEmpty))

/-- What lsync waits for (R129): blocks finished, names full, lane stores and atomics performed at package scope, held
accesses replayed or ended; in handler mode not for the held accesses of the interrupted blocks. DEDUCED (assumption log 62). -/
def Snd.lsyncDone (x : Snd) : Bool :=
  x.queue.isEmpty && !x.running &&
  x.fills.all (fun f => f.2.engine || f.2.keep.isEmpty || x.fillHeld f.1 f.2) &&
  x.oplog.all (fun e => e.2.slices == 0 ||
    (if e.2.kind = .load then e.2.held.isEmpty || (x.handler && !e.2.hand) else x.settledFor e.2 false))

/-- lsync has its effect: later scalar fences cover the lanes' accesses, and later blocks see the control registers
(R129, R130). -/
def Snd.join (x : Snd) : Snd :=
  { x with joined := x.seq, fpctlSeen := x.fpctl, ructlSeen := x.ructl }

/-- lsync (R129); scalar stores come before every later block's accesses, for which it waits until they are performed. DESIGN CHOICE
(assumption log 81). -/
def execSLsync (s : State) : Out :=
  scalarStep s fun c k j x => if x.lsyncDone && !x.scalarPending then s.putSnd c k j x.join.adv else s

/-- sfence.local: the stream's accesses and register writes come before later blocks (R130); it waits until its stores are performed.
DESIGN CHOICE (assumption log 81). -/
def execSSfenceLocal (s : State) : Out :=
  scalarStep s fun c k j x =>
    if x.scalarPending then s else s.putSnd c k j { x with fpctlSeen := x.fpctl, ructlSeen := x.ructl, pc := x.pc + 4 }

/-- The stream's own log entries and those of lane accesses joined to it (R131). -/
def Snd.mine (x : Snd) : List LogEntry :=
  (x.oplog.map (·.2)).filter (fun e => e.slices == 0 || decide (e.seq < x.joined))

/-- Earlier accesses are performed for the package and their entries released, or their faults taken; with `sys`, every
posted store is acknowledged (R131). -/
def Snd.fenceDone (x : Snd) (sys : Bool) : Bool :=
  x.mine.all (fun e => x.settledFor e sys)

/-- A scalar fence (R131). -/
def scalarFence (sys : Bool) (s : State) : Out :=
  scalarStep s fun c k j x => if x.fenceDone sys then s.putSnd c k j x.adv else s

/-- sfence.core (R131). -/
def execSSfenceCore (s : State) : Out := scalarFence false s
/-- sfence.pkg (R131). -/
def execSSfencePkg (s : State) : Out := scalarFence false s
/-- sfence.sys (R131). -/
def execSSfenceSys (s : State) : Out := scalarFence true s

end Sys2Proof.Machine
end

