-- ==== Sys2Proof/Machine/LaneMem.lean ====
section
/-! DEFINITION. The lane memory instructions of chapter 06: addresses and the probe (R156 to R160), the operand-log entry
(R162), scratchpad and global loads and stores, prefetch, atomics, append and the lane fences. -/

namespace Sys2Proof.Machine

open Sys2Proof

/-! ## Addresses and the probe -/

/-- Address modes of Table 1 of 06, with their displacement, record number and scale. -/
inductive AMode where
  | rec_ (b sc : Nat)
  | flat (disp : Int)
  | sp (disp : Nat)
  deriving DecidableEq, Repr

/-- What a memory instruction asks of the probe: its size, whether it reads and writes, the scope of an atomic, and
whether it is a gst, which alone may reach an alias window (R170). -/
structure Ask where
  kind  : LogKind
  size  : Nat
  rd    : Bool
  wr    : Bool
  scope : Option Nat
  gst   : Bool
  deriving DecidableEq, Repr

/-- Members of the table of entry `k` that a sounder of this package holds the rank of (R322). -/
def membersOf (s : State) (ctx core slot : Nat) (e : CollEntry) : List Nat :=
  (membersOn e s.plat.pkgid).filter fun m =>
    let row := e.rows.getD m { pkg := 0, bar := 0, rank := 0, buddy := 0, dest := 0 }
    match (barrierOf s ctx (refCore row.bar) (refNumber row.bar)).ranks.find row.rank with
    | some (key, _, _) => key == 16 * core + slot
    | none => false

/-- The member whose contribution a sounder's alias store is: ROOT of a multicast window, else the member whose rank the sounder
holds when it issues the store (R325). -/
def aliasMember (s : State) (ctx core slot cid : Nat) : Nat :=
  match s.entry? ctx cid with
  | some e => (match e.win with
    | some w => if w.kind = 0 then w.root else (membersOf s ctx core slot e).headD 0
    | none => 0)
  | none => 0

namespace Issue

/-- The address mode of the instruction (R156, R164, R176). -/
def amode (i : Issue) : AMode :=
  if i.maj = 0x20 then .sp i.imm
  else if i.maj = 0x23 then .flat 0
  else
    match i.imm / 2 ^ 18 with
    | 0 => .rec_ (i.imm / 2 ^ 6 % 2 ^ 12) (i.imm / 2 ^ 4 % 4)
    | 1 => .flat (Alu.toI true 18 i.imm)
    | _ => .sp (i.imm % 2 ^ 18)

/-- Record b of the launch's buffer-record pool, none at or beyond its entry count (R157). -/
def record (i : Issue) (s : State) (b : Nat) : Option Nat :=
  match s.image? i.ctx i.x.image with
  | none => none
  | some im => if im.recCount ≤ b then none else some (poolRecord s im b)

/-- BASE, LIMIT, NOWRITE, CONST and the reserved bits of a record (Table 2 of 06). -/
def recBase (r : Nat) : Nat := r % 2 ^ 56
def recLimit (r : Nat) : Nat := r / 2 ^ 64 % 2 ^ 42
def recNoWrite (r : Nat) : Bool := r / 2 ^ 106 % 2 == 1
def recConst (r : Nat) : Bool := r / 2 ^ 107 % 2 == 1
def recBad (r : Nat) : Bool := r / 2 ^ 108 != 0 || r / 2 ^ 56 % 2 ^ 8 != 0

/-- The lane address from the lane's address operand, exact (R156). -/
def lea (i : Issue) (s : State) (av : Nat) : Int :=
  match i.amode with
  | .rec_ b sc => (recBase ((i.record s b).getD 0) + av % 2 ^ 32 * 2 ^ sc : Nat)
  | .flat d => (av : Int) + d
  | .sp d => (av % 2 ^ 32 + d : Nat)

/-- A store may use an alias window (R170, R325). -/
def aliasOk (i : Issue) (s : State) (q : Ask) (entry ea : Nat) : Bool :=
  match s.entry? i.ctx entry with
  | none => false
  | some e =>
    match e.win with
    | none => false
    | some w =>
      let ms := membersOf s i.ctx i.core i.slot e
      q.gst && q.size == w.size && w.base ≤ ea && decide (ea < w.base + 2 * w.half) &&
      decide ((ea - w.base) % w.half < e.length) && !ms.isEmpty && (w.kind != 0 || ms.contains w.root)

/-- The first check of Table 4 of 06 that a lane fails: the trap's cause. DESIGN CHOICE: a flat address whose exact sum is negative is
out of range like one at 2^56 or above (R156; assumption log 71). -/
def failCheck (i : Issue) (s : State) (q : Ask) (av : Nat) : Option Nat :=
  let ea := i.lea s av
  let a := ea.toNat
  let t := translate s i.ctx a q.rd q.wr
  let place := match translate s i.ctx a false false with | .ok l => some l | .fail _ => none
  let common : Option Nat :=
    if a % q.size ≠ 0 then some 0x11
    else
      match i.amode with
      | .sp _ => if spMapped s i.ctx i.core a then none else some 0x19
      | m =>
        let aliasBad := match place with | some (.aliasWin e _) => !i.aliasOk s q e a | _ => false
        let scopeBad :=
          match q.scope, place with
          | some sc, some (.window _ _) => sc != 2
          | some sc, some (.mem true _) => sc == 0
          | _, _ => false
        if aliasBad then some 0x13
        else if scopeBad then some 0x1A
        else
          match t with
          | .fail _ => some 0x1B
          | .ok _ =>
            let noWrite := match m with | .rec_ b _ => recNoWrite ((i.record s b).getD 0) | _ => false
            if q.wr && noWrite then some 0x18
            else if q.wr && constHit s i.ctx i.x.image a q.size then some 0x14 else none
  match i.amode with
  | .rec_ b sc =>
    match i.record s b with
    | none => some 0x15
    | some r =>
      if recBad r then some 0x16
      else if ea < 0 ∨ 2 ^ 56 ≤ ea then some 0x10
      else if recLimit r < av % 2 ^ 32 * 2 ^ sc + q.size then some 0x17
      else common
  | .flat _ => if ea < 0 ∨ 2 ^ 56 ≤ ea then some 0x10 else common
  | .sp _ => common

/-- Where a lane that passes the probe goes. -/
def place (i : Issue) (s : State) (q : Ask) (a : Nat) : Loc :=
  match i.amode with
  | .sp _ => .sp a
  | _ => match translate s i.ctx a q.rd q.wr with | .ok l => l | .fail _ => .sp a

/-- An address names a scratchpad bank whose mode is changing: the instruction waits at the probe (R310). -/
def bankBusy (i : Issue) (s : State) (av : Nat) : Bool :=
  match i.amode with
  | .sp _ =>
    let a := (i.lea s av).toNat
    decide (a < 0xC0000) && ((s.coreOf i.core).entries.getOr BankEntry.reset (a / 2 ^ 15)).busy
  | _ => false

/-- The lanes that make an access: those of the mask, or the lowest of them for an append (R176). -/
def accessLanes (i : Issue) : List Nat := if i.maj = 0x23 then i.lanes.take 1 else i.lanes

/-- The operand-log entry of an issue that has passed its probe (R162). -/
def entryOf (i : Issue) (s : State) (q : Ask) (av : List Nat) (data new : Nat → Nat) (fills : List Nat)
    (row : List Byte) : LogEntry :=
  let ea := fun l => (i.lea s (av.getD l 0)).toNat
  let acc := fun l =>
    { lane := l, va := ea l, loc := i.place s q (ea l), data := data l,
      new := match i.place s q (ea l) with | .aliasWin cid _ => aliasMember s i.ctx i.core i.slot cid | _ => new l, sent := false : LaneAcc }
  { seq := i.x.seq, slices := i.slices,
    kind := match q.kind, i.accessLanes.head?.map (fun l => i.place s q (ea l)) with
            | .store, some (.aliasWin _ _) => .aliasStore
            | k, _ => k,
    word := i.word, mask := i.mask.toNat, ty := i.ty, minor := i.min,
    addrs := i.accessLanes.map (fun l => (l, ea l)), datas := i.accessLanes.map (fun l => (l, data l)),
    todo := i.accessLanes.map acc, held := [], cause := 0, detail := 0, told := false, fills := fills, lpc := i.lpc,
    block := i.blk.index, hand := i.x.handler, wid := i.x.identity, row := row }

/-- A scratchpad store or atomic of the sounder that is still to be performed goes to a bank that the load's lanes touch: its
advance of the bank's write count is still to come (R36, R46). -/
def behindStore (i : Issue) (s : State) (av : List Nat) : Bool :=
  i.maj == 0x20 && i.x.oplog.any fun e => e.2.kind != .load && e.2.todo.any fun a =>
    match a.loc with
    | .sp b => i.lanes.any fun l => (i.lea s (av.getD l 0)).toNat / 2 ^ 15 == b / 2 ^ 15
    | _ => false

/-- Extra memo key of a load that may be reused (R45, R46); none where it may not, as through a fabric window (R44). -/
def loadKey (i : Issue) (s : State) (av : List Nat) : Option (List Nat) :=
  if i.maj = 0x20 then
    if i.ructl.getLsbD 4 then
      let banks := (i.lanes.map (fun l => (i.lea s (av.getD l 0)).toNat / 2 ^ 15)).eraseDups
      some (banks.flatMap fun b => [b, ((s.coreOf i.core).entries.getOr BankEntry.reset b).wcount])
    else none
  else
    match i.amode with
    | .rec_ b _ =>
      let away := i.lanes.any fun l =>
        match translate s i.ctx (i.lea s (av.getD l 0)).toNat true false with | .ok (.window _ _) => true | _ => false
      if i.maj = 0x21 && i.ructl.getLsbD 3 && recConst ((i.record s b).getD 0) && !away then some [b] else none
    | _ => none

/-- The memo lookup of a load (R40): an entry that an earlier store of the sounder is about to end is not taken. -/
def loadLookup (i : Issue) (s : State) (av : List Nat) (extra : Option (List Nat)) : Lookup :=
  match extra with
  | none => .off
  | some e =>
    match i.lookup s (i.memoKey s e) with
    | .hit m => if i.behindStore s av then .miss else .hit m
    | r => r

/-- Mark the destination empty and start its fills (R33). -/
def startFills (i : Issue) (s : State) (memo : Option (List Nat)) : State × List Nat :=
  let phys := i.dstNames.zipIdx.map (fun (_, n) => 4096 * ((s.coreOf i.core).nextPhys + n) + i.ctx)
  let inst := i.ructl.getLsbD 1 && i.nr == 0 && i.settledSources
  let m : Option Memo := if inst then memo.map (fun k =>
      { key := k, names := i.keyNames s, result := phys, flags := 0, owner := i.ctx,
        launch := if i.maj = 0x21 then some i.x.launch else none }) else none
  let share := i.ructl.getLsbD 2 && i.nr == 0
  i.dstNames.zipIdx.foldl (fun (s, ks) (n, hi) =>
    let (t, k) := openFill s i.ctx i.core i.slot n (hi == 1) i.lanes false i.x.handler m share
    (t, ks ++ [k])) (s, [])

/-- A hit of a reusable load: the names take the lanes of the entry's registers and are full (R40). -/
def takeHit (i : Issue) (s : State) (m : Memo) : State :=
  (i.dstNames.zip m.result).foldl (fun s (n, p) =>
    s.modSnd i.ctx i.core i.slot (fun x =>
      writeName x (if n = i.dst then i.writeNumber x else (i.writeNumber x).map (· - 1)) n (BitVec.allOnes 96) ((physValue s i.core p).map (·.toNat)))) s

/-- The issue, where it passed its probe before and waits for a log entry (R162). -/
def probed (i : Issue) : Option LogEntry :=
  i.x.probed.find? fun e =>
    e.slices == i.slices && e.word == i.word && e.lpc == i.lpc && e.block == i.blk.index && e.hand == i.x.handler

/-- The waiting issues of other slices. -/
def others (i : Issue) (x : Snd) : List LogEntry := x.probed.filter (fun e => Alu.andN e.slices i.slices == 0)

/-- The issue has passed its probe and waits for a log entry (R162). -/
def hold (i : Issue) (s : State) (e : LogEntry) : State :=
  s.modSnd i.ctx i.core i.slot (fun x => { x with probed := e :: i.others x })

/-- The operand log takes an entry at its lowest free index. -/
def logEntry (i : Issue) (s : State) (k : Nat) (e : LogEntry) : State :=
  s.modSnd i.ctx i.core i.slot (fun x => { x with oplog := x.oplog.put k e, seq := x.seq + 1, probed := i.others x })

/-- The issue of a memory instruction: an empty mask does nothing (R155); a bank whose mode is changing holds it (R310);
the probe (R160), once (R162); the memo lookup of a reusable load (R40); registers and a log entry, waited for (R48,
R162); the destination marked empty (R33). -/
def access (i : Issue) (s : State) (q : Ask) (data new : Nat → Nat) (row : List Byte) : State :=
  let av := i.srcA s
  if i.mask = 0 then i.retire s
  else if i.probed.isNone && i.accessLanes.any (fun l => i.bankBusy s (av.getD l 0)) then s
  else
    match (if i.probed.isSome then none else i.accessLanes.find? (fun l => (i.failCheck s q (av.getD l 0)).isSome)) with
    | some l =>
      i.trap s ((i.failCheck s q (av.getD l 0)).getD 0) (lane := some l) (addr := (i.lea s (av.getD l 0) % 2 ^ 64).toNat)
    | none =>
      let extra := if q.kind = .load then i.loadKey s av else none
      let key := i.memoKey s (extra.getD [])
      match i.loadLookup s av extra with
      | .hit m => i.retire ((i.takeHit s m).modSnd i.ctx i.core i.slot (fun x => i.bindHit m { x with probed := i.others x }))
      | r =>
        if !i.room s false key then s
        else
          let e := i.probed.getD (i.entryOf s q av data new [] row)
          match i.x.freeEntry with
          | none => i.hold s e
          | some k =>
            let (t, fills) := i.startFills s (extra.map fun _ => key)
            let t := t.modSnd i.ctx i.core i.slot (fun x => { x with rlook := x.rlook + r.counts.1, rsatur := x.rsatur + r.counts.2 })
            i.retire (i.logEntry t k { e with seq := i.x.seq, fills := fills })

/-- The kind of access that a memory instruction makes. -/
def logKind (i : Issue) : LogKind :=
  if i.maj = 0x22 then .atomic else if i.maj = 0x23 then .append else if i.min = 0 then .load else .store

/-- What a memory instruction asks of the probe: the bytes of its type, or the 32 of an append's header, which is probed as
a write (R159, R176). -/
def ask (i : Issue) : Ask :=
  let k := i.logKind
  { kind := k, size := if k = .append then 32 else tySize i.ty, rd := k == .load || k == .atomic, wr := k != .load,
    scope := if k = .atomic then some (i.min / 16) else none, gst := k == .store && i.maj == 0x21 }

/-- The data of each lane: the low bytes of b for a store or an atomic (R159, R172). -/
def dataOf (i : Issue) (s : State) : Nat → Nat :=
  if i.logKind = .load ∨ i.logKind = .append then fun _ => 0 else fun l => (i.srcB s).getD l 0 % 2 ^ (8 * tySize i.ty)

/-- The new value of each lane of an acas: the names v + 1, or the pair v + 2 (R172). Of a special operand it is left open
(assumption log 43). -/
def newOf (i : Issue) (s : State) : Nat → Nat :=
  if i.logKind = .atomic ∧ i.min % 16 = 7 then
    let hi := if 640 ≤ i.fb then (List.range 96).map fun l => (s.freeAt l).toNat
      else if ty64 i.ty then i.source s .v64 (i.fb + 2) else (i.srcB s).map (· / 2 ^ 32)
    fun l => hi.getD l 0 % 2 ^ (if ty64 i.ty then 64 else 32)
  else fun _ => 0

/-- The row of an append: lanes 0 to n − 1 of b (R176). -/
def rowOf (i : Issue) (s : State) : List Byte :=
  if i.logKind = .append then (List.range (i.imm % 128 + 1)).flatMap (fun l => toBytes 4 ((i.srcB s).getD l 0)) else []

/-- The issue waits for an entry of the operand log: all eight are in use, it has passed its probe, and no memo entry
answers it (R162, R285). The entry that it waits with. -/
def waitsLog (i : Issue) (s : State) : Option LogEntry :=
  let av := i.srcA s
  let extra := if i.logKind = .load then i.loadKey s av else none
  if i.maj < 0x20 ∨ 0x23 < i.maj ∨ i.maj = 0x21 ∧ i.min = 2 ∨ i.mask = 0 ∨ i.x.freeEntry.isSome then none
  else if (laneIllegal (BitVec.ofNat 96 i.word) i.x.n (bits i.fpctl 10 8)).isSome then none
  else if (match i.loadLookup s av extra with | .hit _ => true | _ => false) then none
  else if i.probed.isSome then i.probed
  else if i.accessLanes.any (fun l => i.bankBusy s (av.getD l 0) || (i.failCheck s i.ask (av.getD l 0)).isSome) then none
  else some (i.entryOf s i.ask av (i.dataOf s) (i.newOf s) [] (i.rowOf s))

end Issue

/-- A lane memory instruction of majors 0x20 to 0x23 (R164, R165, R171, R176). -/
def laneMemory (s : State) (maj min : Nat) (f : LaneI) : Out :=
  laneStep s maj min (.i f) fun i s => i.access s i.ask (i.dataOf s) (i.newOf s) (i.rowOf s)

/-! ## The instructions -/

/-- spld (R164). -/
def execVSpld (f : LaneI) (s : State) : Out := laneMemory s 0x20 0 f
/-- spst (R164). -/
def execVSpst (f : LaneI) (s : State) : Out := laneMemory s 0x20 1 f
/-- gld (R165). -/
def execVGld (f : LaneI) (s : State) : Out := laneMemory s 0x21 0 f
/-- gst (R165). -/
def execVGst (f : LaneI) (s : State) : Out := laneMemory s 0x21 1 f
/-- gprefetch changes no architectural state and raises no trap (R166). -/
def execVGprefetch (f : LaneI) (s : State) : Out := laneStep s 0x21 2 (.i f) fun i s => i.retire s
/-- aadd (R171). -/
def execVAadd (scope : BitVec 2) (f : LaneI) (s : State) : Out := laneMemory s 0x22 (scope.toNat * 16 + 0) f
/-- amin (R171). -/
def execVAmin (scope : BitVec 2) (f : LaneI) (s : State) : Out := laneMemory s 0x22 (scope.toNat * 16 + 1) f
/-- amax (R171). -/
def execVAmax (scope : BitVec 2) (f : LaneI) (s : State) : Out := laneMemory s 0x22 (scope.toNat * 16 + 2) f
/-- aand (R171). -/
def execVAand (scope : BitVec 2) (f : LaneI) (s : State) : Out := laneMemory s 0x22 (scope.toNat * 16 + 3) f
/-- aor (R171). -/
def execVAor (scope : BitVec 2) (f : LaneI) (s : State) : Out := laneMemory s 0x22 (scope.toNat * 16 + 4) f
/-- axor (R171). -/
def execVAxor (scope : BitVec 2) (f : LaneI) (s : State) : Out := laneMemory s 0x22 (scope.toNat * 16 + 5) f
/-- axchg (R171). -/
def execVAxchg (scope : BitVec 2) (f : LaneI) (s : State) : Out := laneMemory s 0x22 (scope.toNat * 16 + 6) f
/-- acas (R172). -/
def execVAcas (scope : BitVec 2) (f : LaneI) (s : State) : Out := laneMemory s 0x22 (scope.toNat * 16 + 7) f
/-- afadd (R172). -/
def execVAfadd (scope : BitVec 2) (f : LaneI) (s : State) : Out := laneMemory s 0x22 (scope.toNat * 16 + 8) f

/-- append: the header address is that of the lowest lane of the mask, probed as a 32-byte write; the row is lanes 0 to
n − 1 of b (R176). -/
def execVAppend (f : LaneI) (s : State) : Out := laneMemory s 0x23 0 f

/-! ## Fences (R177 to R179) -/

/-- The earlier accesses of the issuing slices are performed for the package, or with `sys` for the system (R177). -/
def Issue.fenced (i : Issue) (sys : Bool) : Bool :=
  i.x.oplog.all fun e => e.2.slices == 0 || Alu.andN e.2.slices i.slices == 0 || i.x.settledFor e.2 sys

/-- Every engine command that the issuing slices issued earlier has completed (R177): copies and matrix commands of the
core, routing commands and parts of collectives. -/
def Issue.enginesDone (i : Issue) (s : State) : Bool :=
  let mine := fun (u sl : Nat) => u == i.x.uid && Alu.andN sl i.slices != 0
  let cc := s.ccOf i.ctx i.core
  cc.copies.all (fun c => !mine c.snd c.slices) && cc.array.all (fun m => !mine m.snd m.slices) &&
  s.routeQ.all (fun q => q.2.all (fun r => !mine r.snd r.slices)) &&
  (match s.ctx? i.ctx with
   | none => true
   | some c => c.colls.all (fun e => e.2.parts.all (fun p => !(p.2.started && mine p.2.snd p.2.slices))))

/-- Later engine commands of the fencing slices read nothing older than now (R177, R316). -/
def Issue.engFence (i : Issue) (s : State) : State :=
  s.modSnd i.ctx i.core i.slot (fun x =>
    { x with engAt := ((List.range 24).filter (sliceBit i.slices)).foldl (fun t n => t.put n s.writes) x.engAt })

/-- fence.core (R177). -/
def execVFenceCore (f : LaneR) (s : State) : Out :=
  laneStep s 0x24 0 (.r f) fun i s => if i.fenced false then i.retire s else s
/-- fence.pkg (R177). -/
def execVFencePkg (f : LaneR) (s : State) : Out :=
  laneStep s 0x24 1 (.r f) fun i s => if i.fenced false then i.retire s else s
/-- fence.sys (R177). -/
def execVFenceSys (f : LaneR) (s : State) : Out :=
  laneStep s 0x24 2 (.r f) fun i s => if i.fenced true then i.retire s else s
/-- fence.eng (R177). -/
def execVFenceEng (f : LaneR) (s : State) : Out :=
  laneStep s 0x24 3 (.r f) fun i s => if i.fenced false && i.enginesDone s then i.retire (i.engFence s) else s

end Sys2Proof.Machine
end

