-- ==== Sys2Proof/Machine/Narrow.lean ====
section
/-! DEFINITION. Narrow formats (R92 to R95), block scales and quantisation (R96, R97, R146, R147), and the exact block
sums of the matrix array (R100 to R102). -/

namespace Sys2Proof.Nr

open Sys2Proof.Fl

/-- A format descriptor taken apart (Table 2 of 03, R92). -/
structure Desc where
  sign : Bool
  exp  : Nat
  mant : Nat
  spec : Nat
  bias : Int
  deriving DecidableEq, Repr

def descOf (d : Nat) : Desc :=
  { sign := d % 2 == 1, exp := d / 2 ^ 4 % 16, mant := d / 2 ^ 8 % 8, spec := d / 2 ^ 16 % 4,
    bias := Alu.toI true 8 (d / 2 ^ 24) }

/-- Element width W = SIGN + EXP + MANT (R92). -/
def Desc.w (x : Desc) : Nat := (if x.sign then 1 else 0) + x.exp + x.mant

/-- A descriptor is valid (R92). -/
def descValid (d : Nat) : Bool :=
  let x := descOf d
  d / 2 % 8 == 0 && d / 2 ^ 11 % 32 == 0 && d / 2 ^ 18 % 64 == 0 && x.spec ≤ 1 && 2 ≤ x.w && x.w ≤ 8 && x.exp ≤ 8 &&
  (x.spec != 0 || (2 ≤ x.exp && 1 ≤ x.mant))

/-- Exponent of the units of a subnormal code. -/
def Desc.qmin (x : Desc) : Int := 1 - x.bias - x.mant
/-- Magnitude code of the largest finite value (R93). -/
def Desc.maxCode (x : Desc) : Nat :=
  if x.spec = 0 then (2 ^ x.exp - 1) * 2 ^ x.mant - 1 else 2 ^ (x.exp + x.mant) - 1
/-- A magnitude code with its sign bit. -/
def Desc.withSign (x : Desc) (s : Bool) (c : Nat) : Nat := if s && x.sign then 2 ^ (x.w - 1) + c else c
/-- The NaN code of SPECIALS = 0 (R95). -/
def Desc.nanCode (x : Desc) : Nat := (2 ^ x.exp - 1) * 2 ^ x.mant + 2 ^ (x.mant - 1)

/-- The value of a code (R93). -/
def Desc.decode (x : Desc) (code : Nat) : Val :=
  let c := code % 2 ^ x.w
  let s := x.sign && c / 2 ^ (x.w - 1) % 2 == 1
  let mag := c % 2 ^ (x.exp + x.mant)
  let e := mag / 2 ^ x.mant
  let m := mag % 2 ^ x.mant
  if x.spec = 0 ∧ e = 2 ^ x.exp - 1 then (if m = 0 then .inf s else .nan s false m)
  else if e = 0 then .fin s m x.qmin
  else .fin s (2 ^ x.mant + m) (x.qmin + (e - 1 : Int))

/-- Encoding a value under a mode (R95); with `clamp`, a finite magnitude above the largest finite value delivers that
value and raises inexact only, as qnt has it (R97). -/
def Desc.encode (x : Desc) (mode : Mode) (clamp : Bool) (v : Val) : Nat × Nat :=
  match v with
  | .nan _ g _ => if x.spec = 1 then (0, fInvalid) else (x.nanCode, if g then fInvalid else 0)
  | .inf s =>
    if s && !x.sign then (if x.spec = 1 then 0 else x.nanCode, fInvalid)
    else if x.spec = 1 then (x.withSign s x.maxCode, fInvalid)
    else (x.withSign s ((2 ^ x.exp - 1) * 2 ^ x.mant), 0)
  | .fin s m e =>
    if m = 0 then (x.withSign s 0, 0)
    else
      let r := roundMag x.mant x.qmin x.maxCode mode s m e false
      if s && !x.sign then
        match r with
        | (some 0, fl) => (0, fl)
        | _ => (if x.spec = 1 then 0 else x.nanCode, fInvalid)
      else
        let big :=
          match x.decode x.maxCode with
          | .fin _ mm me =>
            let q := if e < me then e else me
            decide (mm * 2 ^ (me - q).toNat < m * 2 ^ (e - q).toNat)
          | _ => false
        if clamp && big then (x.withSign s x.maxCode, fInexact)
        else
          match r with
          | (some c, fl) => (x.withSign s c, fl)
          | (none, fl) =>
            if x.spec = 1 then (x.withSign s x.maxCode, fl)
            else (x.withSign s (if overflowInf mode s then (2 ^ x.exp - 1) * 2 ^ x.mant else x.maxCode), fl)

/-- floor(log2 v) of a positive finite value. -/
def floorLog2 : Val → Int
  | .fin _ m e => (bitLen m : Int) - 1 + e
  | _ => 0

/-- Magnitude order of two finite values. -/
def magLess : Val → Val → Bool
  | .fin _ m e, .fin _ n g =>
    let q := if e < g then e else g
    m * 2 ^ (e - q).toNat < n * 2 ^ (g - q).toNat
  | _, _ => false

/-- The block's scale X (R97). -/
def blockScale (x : Desc) (vs : List Val) : Int :=
  let fins := vs.filter (fun v => match v with | .fin _ _ _ => true | _ => false)
  match fins.foldl (fun a v => if magLess a v then v else a) (.fin false 0 0) with
  | .fin s m e =>
    if m = 0 then 0
    else
      let k := floorLog2 (.fin s m e) - floorLog2 (x.decode x.maxCode)
      if k < -128 then -128 else if 127 < k then 127 else k
  | _ => 0

/-- A value times 2^k. -/
def scaleV (v : Val) (k : Int) : Val :=
  match v with
  | .fin s m e => .fin s m (e + k)
  | v => v

/-- Block length of an LCODE (Table 8 of 05). -/
def blockLen (lcode : Nat) : Nat := if lcode = 0 then 16 else if lcode = 1 then 32 else 64

/-- The quantisation control is valid (R146); `q` is true for qnt and qscale, which need HALF = 0. -/
def ctlValid (c : Nat) (q : Bool) : Bool :=
  descValid (c % 2 ^ 32) && c / 2 ^ 32 % 4 != 3 && c / 2 ^ 35 == 0 && (!q || c / 2 ^ 34 % 2 == 0)

/-- Bits of the container of a code (R94). -/
def contW (x : Desc) : Nat := if x.w ≤ 4 then 4 else 8

/-- The 192 elements of a group: lanes of va, then lanes of vb (R147). -/
def groupElems (a b : List Nat) : List Val := (a ++ b).map f32.unpack

/-- The scale of each block of a group. -/
def groupScales (x : Desc) (l : Nat) (es : List Val) : List Int :=
  (List.range (192 / l)).map (fun k => blockScale x ((es.drop (k * l)).take l))

/-- qscale (R147): lane k holds the scale of block k as an i32, 0 above. -/
def qscale (ctl : Nat) (a b : List Nat) : List Nat :=
  let x := descOf (ctl % 2 ^ 32)
  let l := blockLen (ctl / 2 ^ 32 % 4)
  let xs := groupScales x l (groupElems a b)
  (List.range 96).map (fun k => Alu.wrap 32 (xs.getD k 0))

/-- qnt (R147): lane k holds the codes of its elements packed by R94, with the flags of those elements. -/
def qnt (ctl : Nat) (mode : Mode) (a b : List Nat) : List (Nat × Nat) :=
  let x := descOf (ctl % 2 ^ 32)
  let l := blockLen (ctl / 2 ^ 32 % 4)
  let es := groupElems a b
  let xs := groupScales x l es
  let n := 32 / contW x
  (List.range 96).map fun k =>
    (List.range n).foldl (fun (acc : Nat × Nat) i =>
      let j := n * k + i
      if j < 192 then
        let (c, fl) := x.encode mode true (scaleV (es.getD j (.fin false 0 0)) (-(xs.getD (j / l) 0)))
        (acc.1 + c * 2 ^ (contW x * i), acc.2 ||| fl)
      else acc) (0, 0)

/-- dqnt (R147): lane l decodes code 96·HALF + l with its scale. -/
def dqnt (ctl : Nat) (mode : Mode) (codes scales : List Nat) : List (Nat × Nat) :=
  let x := descOf (ctl % 2 ^ 32)
  let l := blockLen (ctl / 2 ^ 32 % 4)
  let half := ctl / 2 ^ 34 % 2
  let n := 32 / contW x
  (List.range 96).map fun k =>
    let j := 96 * half + k
    let c := codes.getD (j / n) 0 / 2 ^ (contW x * (j % n)) % 2 ^ x.w
    let sc := Alu.toI true 8 (scales.getD (j / l) 0)
    match x.decode c with
    | .nan s _ _ => (f32.withSign s f32.defNan, 0)
    | .inf s => (f32.withSign s f32.infCode, 0)
    | .fin s m e => f32.round mode s m (e + sc) false

/-! ## Matrix sums -/

/-- Kinds of a matrix operand (Table 9 of 07): 0 narrow, 1 f16, 2 bf16, 3 i8, 4 n8. -/
def narrowKind (k : Nat) : Bool := k == 0
def floatKind (k : Nat) : Bool := k == 1 || k == 2
def intKind (k : Nat) : Bool := k == 3 || k == 4

/-- The block partial Pj (R100) of products of decoded values, already scaled by 2^(Xa + Xb), as a value to add. -/
def blockPartial (ps : List (Val × Val)) (k : Int) : Val :=
  let bad := ps.any (fun (a, b) => isNan a || isNan b || zeroTimesInf a b)
  let isInf : Val → Bool := fun v => match v with | .inf _ => true | _ => false
  let infs := ps.filterMap (fun (a, b) => if isInf a || isInf b then some (valSign a != valSign b) else none)
  if bad then .nan false false (2 ^ 51)
  else
    match infs with
    | s :: r => if r.all (· == s) then .inf s else .nan false false (2 ^ 51)
    | [] =>
      let terms := ps.map fun (a, b) =>
        match a, b with
        | .fin s m e, .fin t n g => (s != t, m * n, e + g)
        | _, _ => (false, 0, 0)
      let (t, q) := sumTerms terms
      if t = 0 then .fin false 0 0 else .fin (decide (t < 0)) t.natAbs (q + k)

/-- One block of a narrow accumulation: accumulator := round(accumulator + Pj, f64, .rn) (R100). -/
def accBlock (acc : Nat) (ps : List (Val × Val)) (k : Int) : Nat :=
  (f64.addV .rn (f64.unpack acc) (blockPartial ps k)).1

/-- One product of f16 or bf16 elements added to an f64 accumulator (R101). -/
def accFloat (ka kw : Nat) (acc a w : Nat) : Nat :=
  let wide := fun k x => (cvtFF (if k = 1 then f16 else bf16) f64 .rn x).1
  let p := (f64.mul .rn (wide ka a) (wide kw w)).1
  (f64.add .rn acc p).1

/-- One product of integer elements added to an i64 accumulator (R102). -/
def accInt (ka kw : Nat) (acc a w : Nat) : Nat :=
  Alu.wrap 64 (acc + Alu.toI (ka == 3) 8 a * Alu.toI (kw == 3) 8 w)

end Sys2Proof.Nr
end

