-- ==== Sys2Proof/Machine/Engine.lean ====
section
/-! DEFINITION. The engine instructions of chapter 07: control words, records, handles, circular buffers, copies with
their follow-on, matrix commands, routes and cstart, with the checks each makes at issue (Table 2 of 07). -/

namespace Sys2Proof.Machine

open Sys2Proof

/-! ## What an engine command works for -/

/-- The party that issues an engine command: a gang of a sounder, or the graph engine for a node of kind 4 or 5
(R369). -/
structure EngReq where
  ctx    : Nat
  core   : Nat
  launch : Nat
  image  : Nat
  uid    : Nat
  slices : Nat
  wid    : Nat
  seq    : Nat
  /-- Number of memory writes from which its reads may take a value (R316). -/
  since  : Nat
  deriving DecidableEq, Repr

/-- The start of the interval of R316: the last fence.eng of the issuing slices, or the start of the launch. -/
def Issue.since (i : Issue) : Nat :=
  let at_ := fun n => i.x.engAt.getOr i.x.born n
  ((List.range 24).filter (sliceBit i.slices)).foldl (fun m n => Nat.min m (at_ n)) (at_ (lowSlice i.slices))

def Issue.req (i : Issue) : EngReq :=
  { ctx := i.ctx, core := i.core, launch := i.x.launch, image := i.x.image, uid := i.x.uid, slices := i.slices,
    wid := i.x.identity, seq := i.x.seq, since := i.since }

/-- Fields of an engine control word (Table 1 of 07). -/
def ctlAcq (c : Nat) : Bool := c / 2 ^ 31 % 2 == 1
def ctlRel (c : Nat) : Bool := c / 2 ^ 30 % 2 == 1
def ctlScope (c : Nat) : Nat := c / 2 ^ 28 % 4

/-- The command's writes are performed at package scope before it completes (R183). -/
def ctlWide (ctl : Nat) : Bool := ctlRel ctl && decide (1 ≤ ctlScope ctl)

/-- What a check finds: nothing, or a trap's cause and faulting address. -/
abbrev Check := Option (Nat × Nat)

/-- A check that raises `cause` where `bad` holds. -/
def raiseIf (bad : Bool) (cause : Nat) (addr : Nat := 0) : Check := if bad then some (cause, addr) else none

/-- The first check that raises. -/
def firstCheck : List Check → Check
  | [] => none
  | some c :: _ => some c
  | none :: r => firstCheck r

/-- The first of `n` bytes of scratchpad that is not mapped (R158). -/
def unmapped (s : State) (ctx core a : Nat) : Nat → Option Nat
  | 0 => none
  | n + 1 => if spMapped s ctx core a then unmapped s ctx core (a + 1) n else some a

/-- Check 4 of Table 2 of 07 on `n` bytes aligned to `al`. -/
def spCheck (s : State) (ctx core a n al : Nat) : Check :=
  match unmapped s ctx core a n with
  | some b => some (0x19, b)
  | none => raiseIf (a % al != 0) 0x11 a

/-- A scratchpad address names a bank whose mode is changing (R310). -/
def spBusy (s : State) (core a : Nat) : Bool :=
  decide (a < 0xC0000) && ((s.coreOf core).entries.getOr BankEntry.reset (a / 2 ^ 15)).busy

/-- Some bytes of scratchpad, by address and number, lie in an SRAM bank. -/
def spanIn (b : Nat) (sp : Nat × Nat) : Bool := sp.2 != 0 && decide (sp.1 / 2 ^ 15 ≤ b) && decide (b ≤ (sp.1 + sp.2 - 1) / 2 ^ 15)

/-- Some of them lie in a bank whose mode is changing (R310). -/
def spanBusy (s : State) (core : Nat) (sp : Nat × Nat) : Bool :=
  (List.range 24).any fun b => spanIn b sp && ((s.coreOf core).entries.getOr BankEntry.reset b).busy

/-- ACQ of a command is met: the earlier accesses of its slices are performed (R183). -/
def acqMet (s : State) (ctx core uid slices after : Nat) (sys : Bool) : Bool :=
  (s.ccOf ctx core).sounders.all fun e =>
    e.2.uid != uid ||
      e.2.oplog.all (fun l => after ≤ l.2.seq || Alu.andN l.2.slices slices == 0 || l.2.settled sys)

/-! ## Circular buffers (R197, R198) -/

def cbOf (s : State) (ctx core b : Nat) : CBuf := (s.ccOf ctx core).cbufs.getOr CBuf.reset b
def putCB (s : State) (ctx core b : Nat) (x : CBuf) : State :=
  s.modCC ctx core (fun cc => { cc with cbufs := cc.cbufs.put b x })

namespace CBuf

/-- EN, row size, capacity and banks of a configuration word (Table 7 of 07). -/
def en (x : CBuf) : Bool := x.cfg / 2 ^ 31 % 2 == 1
def rowSize (x : CBuf) : Nat := 16 * (x.cfg / 2 ^ 8 % 256 + 1)
def capacity (x : CBuf) : Nat := 32768 * (x.cfg / 2 ^ 5 % 8 + 1) / x.rowSize
def banks (x : CBuf) : List Nat := (List.range (x.cfg / 2 ^ 5 % 8 + 1)).map (· + x.cfg % 32)
/-- Rows a producer may still reserve, and rows a consumer may claim: those present with every earlier one. -/
def free (x : CBuf) : Nat := x.capacity - x.rows.length - x.claimed
def ready (x : CBuf) : Nat := (x.rows.takeWhile (·.present)).length
/-- Rows that are present (Table 8 of 07). -/
def present (x : CBuf) : Nat := x.ready

/-- Claim `n` rows. -/
def claim (x : CBuf) (n : Nat) : CBuf × List (List Byte) :=
  ({ x with rows := x.rows.drop n, claimed := x.claimed + n }, (x.rows.take n).map (·.bytes))
/-- Reserve `n` rows for a command. -/
def reserve (x : CBuf) (n owner : Nat) : CBuf :=
  { x with rows := x.rows ++ List.replicate n { bytes := [], present := false, owner := owner } }
def release (x : CBuf) (n : Nat) : CBuf := { x with claimed := x.claimed - n }

/-- A producer writes bytes to the first of its rows that is not full. -/
def fillRow (size owner : Nat) (bs : List Byte) : List Row → List Row
  | [] => []
  | r :: t =>
    if r.owner = owner ∧ !r.present then
      { r with bytes := r.bytes ++ bs, present := decide (size ≤ r.bytes.length + bs.length) } :: t
    else r :: fillRow size owner bs t
def write (x : CBuf) (owner : Nat) (bs : List Byte) : CBuf := { x with rows := fillRow x.rowSize owner bs x.rows }

/-- The rows of an ended producer become present with zero bytes where it wrote none (R185). -/
def close (x : CBuf) (owner : Nat) : CBuf :=
  { x with rows := x.rows.map fun r =>
      if r.owner = owner ∧ !r.present then
        { r with bytes := r.bytes ++ List.replicate (x.rowSize - r.bytes.length) 0, present := true }
      else r }

end CBuf

/-- The buffers that a matrix command consumes from and produces to. -/
def MatCmd.inBuf (m : MatCmd) : Option Nat :=
  match m.kind with
  | .mldw | .mstream => some (m.ctl / 2 ^ 8 % 16)
  | _ => none
def MatCmd.outBuf (m : MatCmd) : Option Nat :=
  match m.kind with
  | .mdrain => some (m.ctl / 2 ^ 12 % 16)
  | _ => none

/-- The buffers of a copy. -/
def CopyCmd.inBuf (c : CopyCmd) : Option Nat := if c.lay.skind = 2 then some (c.lay.sbase % 16) else none
def CopyCmd.outBuf (c : CopyCmd) : Option Nat := if c.lay.dkind = 2 then some (c.lay.dbase % 16) else none

/-- No command issued before `id` still has to claim from (reserve in) a buffer (R198). -/
def consumerTurn (cc : CtxCore) (b id : Nat) : Bool :=
  cc.copies.all (fun c => c.fired || id ≤ c.id || c.inBuf != some b) &&
  cc.array.all (fun m => m.fired || id ≤ m.id || m.inBuf != some b) &&
  cc.pops.all (fun p => id ≤ p.id || p.buf != b)
def producerTurn (cc : CtxCore) (b id : Nat) : Bool :=
  cc.copies.all (fun c => c.fired || id ≤ c.id || c.outBuf != some b) &&
  cc.array.all (fun m => m.fired || id ≤ m.id || m.outBuf != some b)

/-! ## Tensor layout records (R187 to R191) -/

/-- A layout record taken apart (Table 3 of 07). -/
def layoutOf (r : Nat) : Layout :=
  let f := nbitsOf r
  { sbase := f 55 0, dbase := f 119 64, sstride := [f 159 128, f 191 160, f 223 192],
    dstride := [f 255 224, f 287 256, f 319 288], ext := [f 335 320, f 351 336, f 367 352, f 383 368],
    size := [f 415 384, f 447 416, f 479 448, f 511 480], idxbase := f 567 512, esize := 2 ^ f 577 576,
    skind := f 579 578, dkind := f 582 580, unaligned := f 583 583 == 1, gather := f 584 584 == 1,
    isp := f 585 585 == 1, dreg := f 601 592, dsnd := f 639 608,
    rsv := f 63 56 != 0 || f 127 120 != 0 || f 575 568 != 0 || f 591 586 != 0 || f 607 602 != 0 || f 1023 640 != 0 }

namespace Layout

def e (l : Layout) (d : Nat) : Nat := l.ext.getD d 0
/-- Elements and bytes of the box. -/
def total (l : Layout) : Nat := l.e 0 * l.e 1 * l.e 2 * l.e 3
def boxBytes (l : Layout) : Nat := l.total * l.esize

/-- Box indices of element `k` of the linear order, i0 fastest. -/
def index (l : Layout) (k : Nat) : Nat × Nat × Nat × Nat :=
  (k % l.e 0, k / l.e 0 % l.e 1, k / (l.e 0 * l.e 1) % l.e 2, k / (l.e 0 * l.e 1 * l.e 2))

/-- A position lies inside the source bounds (R189). -/
def inside (l : Layout) (x0 x1 x2 x3 : Int) : Bool :=
  let ok := fun (x : Int) (d : Nat) => decide (0 ≤ x) && decide (x < (l.size.getD d 0 : Nat))
  ok x0 0 && ok x1 1 && ok x2 2 && ok x3 3

/-- Source address of a position inside the bounds (R189). -/
def srcAddr (l : Layout) (x0 x1 x2 x3 : Int) : Nat :=
  l.sbase + x0.toNat * l.esize + x1.toNat * l.sstride.getD 0 0 + x2.toNat * l.sstride.getD 1 0 +
  x3.toNat * l.sstride.getD 2 0

/-- Destination address of a box element (R190). -/
def dstAddr (l : Layout) (i0 i1 i2 i3 : Nat) : Nat :=
  l.dbase + i0 * l.esize + i1 * l.dstride.getD 0 0 + i2 * l.dstride.getD 1 0 + i3 * l.dstride.getD 2 0

/-- Address of the index of box row `i1` (R189). -/
def idxAddr (l : Layout) (o1 : Int) (i1 : Nat) : Int := (l.idxbase : Int) + 4 * (o1 + i1)

/-- Names a register-file destination touches (R190). -/
def regs (l : Layout) : Nat := (l.total + 95) / 96 * (if l.esize = 8 then 2 else 1)

/-- The rows of dimension 0, by their other indices. -/
def rows (l : Layout) : List (Nat × Nat × Nat) :=
  (List.range (l.e 3)).flatMap fun i3 => (List.range (l.e 2)).flatMap fun i2 => (List.range (l.e 1)).map fun i1 => (i1, i2, i3)

end Layout

/-- The index a gather would read now, where it can be read locally. -/
def indexNow (s : State) (ctx core : Nat) (l : Layout) (o1 : Int) (i1 : Nat) : Option Nat :=
  let a := l.idxAddr o1 i1
  if a < 0 then none
  else if l.isp then some (spN s ctx core a.toNat 4)
  else
    match translate s ctx a.toNat true false with
    | .ok (.mem _ pa) => some (s.readN pa 4)
    | _ => none

/-- The scratchpad spans (address, length) of a source box that lie inside the bounds. -/
def srcSpans (s : State) (ctx core : Nat) (l : Layout) (o : List Int) : List (Nat × Nat) :=
  l.rows.flatMap fun (i1, i2, i3) =>
    let x1 : Option Int :=
      if l.gather then (indexNow s ctx core l (o.getD 1 0) i1).map (fun n => (n : Int)) else some (o.getD 1 0 + i1)
    match x1 with
    | none => []
    | some x1 =>
      let x2 := o.getD 2 0 + i2
      let x3 := o.getD 3 0 + i3
      let lo := max (o.getD 0 0) 0
      let hi := min (o.getD 0 0 + l.e 0) (l.size.getD 0 0)
      if lo < hi ∧ l.inside lo x1 x2 x3 then [(l.srcAddr lo x1 x2 x3, (hi - lo).toNat * l.esize)] else []

/-- The scratchpad spans of a destination box. -/
def dstSpans (l : Layout) : List (Nat × Nat) :=
  l.rows.map fun (i1, i2, i3) => (l.dstAddr 0 i1 i2 i3, l.e 0 * l.esize)

/-- The first unmapped byte of some spans. -/
def spansCheck (s : State) (ctx core : Nat) (sp : List (Nat × Nat)) : Check :=
  (sp.findSome? (fun (a, n) => unmapped s ctx core a n)).map (0x19, ·)

/-- The bank slot of the target sounder of a register-file copy: the launch's sounder of that index on the same core
(R191). -/
def targetSlot (s : State) (q : EngReq) (dsnd : Nat) : Option (Nat × Snd) :=
  (s.ccOf q.ctx q.core).sounders.find? (fun e => e.2.launch == q.launch && e.2.idx == dsnd)

/-- The index list of a gather in scratchpad, which a source in memory reads (R189). -/
def Layout.idxSpans (l : Layout) (o : List Int) : List (Nat × Nat) :=
  if l.gather && l.isp && decide (l.skind ≤ 1) then
    (List.range (l.e 1)).map (fun i1 => ((l.idxAddr (o.getD 1 0) i1 % 2 ^ 56).toNat, 4))
  else []

/-- Checks of R191 from step 3 on; an index list in scratchpad is checked with the source box. DEDUCED (assumption log 15). -/
def layoutRest (s : State) (q : EngReq) (l : Layout) (o : List Int) : Check :=
  let ds := fun d => l.dstride.getD d 0
  let mem := fun k : Nat => k ≤ 1
  let overlap := mem l.dkind &&
    ((1 < l.e 1 && ds 0 < l.e 0 * l.esize) || (1 < l.e 2 && ds 1 < ds 0 * l.e 1) || (1 < l.e 3 && ds 2 < ds 1 * l.e 2))
  let off := fun a : Nat => a % l.esize != 0
  let skew := !l.unaligned &&
    ((mem l.skind && off l.sbase) || (mem l.dkind && off l.dbase) || l.sstride.any off || l.dstride.any off)
  let cbs := (if l.skind = 2 then [l.sbase % 16] else []) ++ (if l.dkind = 2 then [l.dbase % 16] else [])
  let cb := fun (bad : Nat → Bool) (cause : Nat) => raiseIf (cbs.any bad) cause
  let target :=
    if l.dkind ≠ 3 then none
    else
      match targetSlot s q l.dsnd with
      | none => some (0x29, 0)
      | some (_, x) => raiseIf (l.esize < 4 || (l.esize == 8 && l.dreg % 2 == 1) || x.n < l.dreg + l.regs) 0x29
  firstCheck [raiseIf overlap 0x23, raiseIf skew 0x24,
    (if l.dkind = 1 then spansCheck s q.ctx q.core (dstSpans l) else none),
    spansCheck s q.ctx q.core (l.idxSpans o),
    (if l.skind = 1 then spansCheck s q.ctx q.core (srcSpans s q.ctx q.core l o) else none),
    cb (fun b => !(s.ccOf q.ctx q.core).share.cbufs.contains b) 0x03, cb (fun b => !(cbOf s q.ctx q.core b).en) 0x25,
    cb (fun b => l.boxBytes % (cbOf s q.ctx q.core b).rowSize != 0) 0x26, target]

/-- Step 1 of R191. -/
def layoutForm (l : Layout) : Check := raiseIf (l.rsv || l.skind == 3 || 4 ≤ l.dkind) 0x22

/-- Some extent is 0: a copy of the box is a zero copy (R191). -/
def Layout.isZero (l : Layout) : Bool := l.ext.any (· == 0)

/-- A record that an engine reads at issue: each aligned 8-byte word as it was at some point since the last fence.eng
(R188). -/
def engRecord (s : State) (q : EngReq) (a n : Nat) : Nat :=
  leNat ((List.range (n / 8)).flatMap fun w =>
    s.bytesHeld (s.readPoint q.since w) (spPlace q.ctx q.core (a + 8 * w)) (spBytes s q.ctx q.core (a + 8 * w) 8))

/-- The first of `n` scratchpad bytes that lies in a poisoned line (R307). -/
def padBad (s : State) (ctx core a n : Nat) : Option Nat :=
  ((List.range n).map (a + ·)).find? fun b => s.poison.contains (spLine ctx core b)

/-- The record at a scratchpad address (R188). -/
def layoutAt (s : State) (q : EngReq) (a : Nat) : Layout := layoutOf (engRecord s q a 128)

/-- Coordinates from two 64-bit operands (R192). -/
def coords (xy zw : Nat) : List Int :=
  [Alu.toI true 32 xy, Alu.toI true 32 (xy / 2 ^ 32), Alu.toI true 32 zw, Alu.toI true 32 (zw / 2 ^ 32)]

/-! ## Matrix commands: format blocks and the state before a command (R200 to R206) -/

/-- A format block taken apart (Table 9 of 07). -/
def fmtOf (r : Nat) : FmtBlock :=
  let f := nbitsOf r
  { desca := f 31 0, descw := f 63 32, kinda := f 67 64, kindw := f 71 68, lcode := f 73 72, perm := f 74 74 == 1,
    scalea := f 95 76, scalew := f 115 96, rsv := f 75 75 != 0 || f 255 116 != 0 }

namespace FmtBlock

def narrow (b : FmtBlock) : Bool := b.kinda == 0 && b.kindw == 0
/-- R202. -/
def valid (b : FmtBlock) : Bool :=
  !b.rsv && b.kinda ≤ 4 && b.kindw ≤ 4 &&
  (b.narrow || (Nr.floatKind b.kinda && Nr.floatKind b.kindw) || (Nr.intKind b.kinda && Nr.intKind b.kindw)) &&
  (!b.narrow || (Nr.descValid b.desca && Nr.descValid b.descw && b.lcode != 3))
/-- K, the reduction depth (R202). -/
def depth (b : FmtBlock) : Nat :=
  if b.narrow ∧ (Nr.descOf b.desca).w ≤ 4 ∧ (Nr.descOf b.descw).w ≤ 4 then 256 else 128
/-- Bytes of a row of an operand of a kind and descriptor (R94, R202). -/
def rowBytes (b : FmtBlock) (kind desc : Nat) : Nat :=
  if kind = 0 then b.depth * Nr.contW (Nr.descOf desc) / 8 else if Nr.floatKind kind then 2 * b.depth else b.depth
/-- Scale bytes of a row or column: K ÷ L. -/
def blocks (b : FmtBlock) : Nat := b.depth / Nr.blockLen b.lcode
def isInt (b : FmtBlock) : Bool := Nr.intKind b.kinda

end FmtBlock

def FmtBlock.none : FmtBlock :=
  { desca := 0, descw := 0, kinda := 0, kindw := 0, lcode := 0, perm := false, scalea := 0, scalew := 0, rsv := false }

/-- A plane as an mldw of a block leaves it, its contents aside. -/
def planeOf (b : FmtBlock) : Plane :=
  { Plane.reset with loaded := true, kind := b.kindw, desc := b.descw, blockL := Nr.blockLen b.lcode, perm := b.perm, depth := b.depth }

/-- Planes and tiles as a matrix command leaves them, contents aside (R200). -/
structure MatView where
  active : Plane
  shadow : Plane
  tiles  : Tbl Tile
  deriving DecidableEq, Repr

def MatView.after (v : MatView) (m : MatCmd) : MatView :=
  if m.spoilt.isSome then v else
  match m.kind with
  | .mldw => { v with shadow := planeOf m.fb }
  | .mswap => { v with active := v.shadow, shadow := v.active }
  | .mstream => { v with tiles := v.tiles.put (matTile m.ctl) { Tile.reset with isInt := m.fb.isInt, valid := true } }
  | .mdrain =>
    if m.ctl / 8 % 2 = 1 then { v with tiles := v.tiles.modify (matTile m.ctl) (fun t => { t with valid := false }) } else v
  | .mclear => { v with tiles := v.tiles.modify (matTile m.ctl) (fun t => { t with valid := false }) }
  | .mperm => v

/-- The state that the commands in the array order leave to the next one (R200). -/
def viewNow (cc : CtxCore) : MatView :=
  cc.array.foldl MatView.after { active := cc.active, shadow := cc.shadow, tiles := cc.tiles }

/-- Check 6 of Table 2 of 07 for a matrix command at its place in array order (R202, R205, R206). -/
def matPlace (cc : CtxCore) (m : MatCmd) : Check :=
  let v := viewNow cc
  let buf := fun b => cc.cbufs.getOr CBuf.reset b
  let tile := v.tiles.getOr Tile.reset (matTile m.ctl)
  let inp := fun (kind desc : Nat) =>
    let x := buf (m.ctl / 2 ^ 8 % 16)
    [raiseIf (!x.en) 0x25, raiseIf (m.spoilt.isNone && x.rowSize < m.fb.rowBytes kind desc) 0x26]
  match m.kind with
  | .mldw => firstCheck (inp m.fb.kindw m.fb.descw)
  | .mstream =>
    let p := v.active
    let same := p.kind == m.fb.kindw && p.perm == m.fb.perm && p.depth == m.fb.depth &&
      (m.fb.kindw != 0 || (p.desc == m.fb.descw && p.blockL == Nr.blockLen m.fb.lcode))
    firstCheck (inp m.fb.kinda m.fb.desca ++
      if m.spoilt.isSome then [] else [raiseIf (!p.loaded) 0x2B, raiseIf (!same) 0x2C, raiseIf (tile.valid && tile.isInt != m.fb.isInt) 0x2D])
  | .mdrain =>
    let x := buf (m.ctl / 2 ^ 12 % 16)
    firstCheck [raiseIf (!x.en) 0x25, raiseIf (tile.valid && !tile.isInt && (m.ty == 3 || m.ty == 4)) 0x2D,
      raiseIf (x.rowSize < 64 * tySize m.ty) 0x26]
  | _ => none

/-- The bits of [27:0] that a matrix instruction uses (Table 10 of 07). -/
def matUsed (k : MatKind) : Nat :=
  match k with
  | .mldw => 0xF00
  | .mstream => 0xFFF0FF0
  | .mdrain => 0xFFFF0F8
  | .mclear => 0xF0
  | _ => 0

/-- Check 2 of Table 2 of 07 for a matrix command (R182, R203). -/
def matCtlBad (k : MatKind) (c : Nat) : Bool :=
  let flags := match k with | .mldw | .mstream => false | _ => ctlAcq c || ctlRel c
  let low := c % 2 ^ 28
  ctlScope c == 3 || flags || Alu.andN low (2 ^ 28 - 1 - matUsed k) != 0 ||
  ((k == .mstream || k == .mdrain) && 64 < matTrow c + matRows c)

/-- Check 3 of Table 2 of 07 for a matrix command: its tile and buffers lie in the share (R204). -/
def matShare (sh : Share) (k : MatKind) (c : Nat) : Check :=
  let tile := raiseIf (!sh.tiles.contains (matTile c)) 0x03
  let inp := raiseIf (!sh.cbufs.contains (c / 2 ^ 8 % 16)) 0x03
  let outp := raiseIf (!sh.cbufs.contains (c / 2 ^ 12 % 16)) 0x03
  match k with
  | .mldw => inp
  | .mstream => firstCheck [tile, inp]
  | .mdrain => firstCheck [tile, outp]
  | .mclear => tile
  | _ => none

/-- Checks 4 and 5 of Table 2 of 07 for mldw and mstream: the block, the scales it names, its contents (R201, R202). Check 4 comes first
and takes the number of scale bytes from the descriptors as they stand, valid or not (R184). DESIGN CHOICE (assumption log 88). -/
def fmtChecks (s : State) (ctx core : Nat) (k : MatKind) (c fba : Nat) : Check :=
  let b := fmtOf (spN s ctx core fba 32)
  let scales :=
    if b.narrow ∧ b.lcode ≠ 3 then
      match k with
      | .mldw => spCheck s ctx core b.scalew (64 * b.blocks) 1
      | _ => spCheck s ctx core b.scalea (matRows c * b.blocks) 1
    else none
  firstCheck ([spCheck s ctx core fba 32 32] ++
    if (padBad s ctx core fba 32).isSome then [] else [scales, raiseIf (!b.valid) 0x08])

/-- Checks 2 to 5 of a matrix command, which depend on nothing but its operands; `arg` is SRCB. -/
def matChecks (s : State) (ctx core : Nat) (k : MatKind) (c arg : Nat) : Check :=
  let tail :=
    match k with
    | .mldw | .mstream => fmtChecks s ctx core k c arg
    | .mperm =>
      let t := (spBytes s ctx core arg 128).map (·.toNat)
      firstCheck [spCheck s ctx core arg 128 1,
        raiseIf ((padBad s ctx core arg 128).isNone && !(List.range 128).all t.contains) 0x2E]
    | _ => none
  firstCheck [raiseIf (matCtlBad k c) 0x21, matShare (s.ccOf ctx core).share k c, tail]

/-- The command a matrix instruction makes. A block or table that meets an uncorrectable error is not checked, and the command ends with
a record. DESIGN CHOICE (assumption log 86). -/
def matCmd (s : State) (q : EngReq) (k : MatKind) (c arg ty rnd word : Nat) (handle : Option Nat) : MatCmd :=
  let needFb := k == .mldw || k == .mstream
  { id := (s.ccOf q.ctx q.core).nextCmd, kind := k, ctl := c,
    fb := if needFb then fmtOf (spN s q.ctx q.core arg 32) else FmtBlock.none,
    ty := ty, rnd := rnd, table := if k = .mperm then (spBytes s q.ctx q.core arg 128).map (·.toNat) else [], word := word,
    snd := q.uid, slices := q.slices, wid := q.wid, handle := handle, fired := false, rows := [], claim := 0,
    after := if ctlAcq c then q.seq else 0, since := q.since, retries := 0,
    spoilt := if needFb then padBad s q.ctx q.core arg 32 else if k = .mperm then padBad s q.ctx q.core arg 128 else none }

/-- The tile that a matrix command names. -/
def MatCmd.tile (m : MatCmd) : Option Nat :=
  match m.kind with
  | .mstream | .mdrain | .mclear => some (matTile m.ctl)
  | _ => none

/-- A command takes its place in the array order: INFLIGHT of its tile is set (R204). -/
def joinArray (s : State) (ctx core : Nat) (m : MatCmd) : State :=
  s.modCC ctx core fun cc =>
    let m := { m with id := cc.nextCmd }
    { cc with array := cc.array ++ [m], nextCmd := cc.nextCmd + 1,
              tiles := match m.tile with
                       | some t => cc.tiles.put t { cc.tiles.getOr Tile.reset t with inflight := (cc.tiles.getOr Tile.reset t).inflight + 1 }
                       | none => cc.tiles }

/-- A full copy hands its follow-on to the array: it takes its place, or fails a check there and is dropped with a
record (R193). -/
def handOver (s : State) (ctx core h : Nat) (m : MatCmd) : State :=
  let x := handleOf s ctx core h
  let s := moveHandle s ctx core h { x with state := 3 }
  match matPlace (s.ccOf ctx core) m with
  | none => joinArray s ctx core m
  | some (c, _) =>
    let s := noteRecord s ctx (infoHdr 10 2 core (m.snd % 2 ^ 24)) (c + h % 256 * 2 ^ 128)
    moveHandle s ctx core h { x with state := 2, err := 3 }

/-! ## Accepting copies and routes -/

/-- Names of a register-file destination, each with its half and the lanes the box covers (R190). -/
def copyNames (l : Layout) : List (Nat × Bool × List Nat) :=
  (List.range ((l.total + 95) / 96)).flatMap fun k =>
    let lanes := List.range (min 96 (l.total - 96 * k))
    if l.esize = 8 then [(l.dreg + 2 * k, false, lanes), (l.dreg + 2 * k + 1, true, lanes)] else [(l.dreg + k, false, lanes)]

/-- Checks 2 to 6 of a copy (R184, R191, R192); a record that cannot be read is not checked. -/
def copyChecks (s : State) (q : EngReq) (c rec_ : Nat) (o : List Int) : Check :=
  let l := layoutAt s q rec_
  firstCheck [raiseIf (c / 2 ^ 8 % 2 ^ 20 != 0 || ctlScope c == 3) 0x21,
    raiseIf (!(s.ccOf q.ctx q.core).share.handles.contains (c % 256)) 0x03, spCheck s q.ctx q.core rec_ 128 128,
    if (padBad s q.ctx q.core rec_ 128).isSome then none
    else firstCheck [layoutForm l, if l.isZero then none else layoutRest s q l o]]

/-- A scratchpad bank or FIFO bank that the layout of a copy or route names is changing its mode (R310). -/
def copyBusy (s : State) (q : EngReq) (l : Layout) (o : List Int) : Bool :=
  let sp := fun (used : Bool) (spans : List (Nat × Nat)) => used && spans.any (spanBusy s q.core)
  let cb := fun (used : Bool) (base : Nat) =>
    used && (cbOf s q.ctx q.core (base % 16)).banks.any (fun b => spBusy s q.core (b * 2 ^ 15))
  sp (l.skind == 1) (srcSpans s q.ctx q.core l o) || sp (l.dkind == 1) (dstSpans l) || sp true (l.idxSpans o) ||
  cb (l.skind == 2) l.sbase || cb (l.dkind == 2) l.dbase

/-- The registers that a copy's destination names take (R48). -/
def Layout.needs (l : Layout) : Nat := if l.dkind = 3 ∧ !l.isZero then l.regs else 0

/-- The waits of a copy that has passed its checks (R181, R195, R310, R48). -/
def copyWaits (s : State) (q : EngReq) (c : Nat) (l : Layout) (o : List Int) : Bool :=
  let cc := s.ccOf q.ctx q.core
  (handleOf s q.ctx q.core (c % 256)).state != 0 || decide (Config.engineDepth + 1 ≤ cc.copies.length) ||
  copyBusy s q l o || (l.needs != 0 && !Issue.poolRoom s q.ctx q.core l.needs)

/-- A copy is accepted: its handle goes to filling, its destination names are marked empty; a zero copy completes at
once (R192). -/
def acceptCopy (s : State) (q : EngReq) (c : Nat) (l : Layout) (o : List Int) (follow : Option MatCmd) : State :=
  let h := c % 256
  let s := moveHandle s q.ctx q.core h { state := 1, bytes := 0, err := 0 }
  if l.isZero then
    let s := moveHandle s q.ctx q.core h { state := 2, bytes := 0, err := 0 }
    match follow with
    | some m => handOver s q.ctx q.core h m
    | none => s
  else
    let tgt := if l.dkind = 3 then targetSlot s q l.dsnd else none
    let slot := match tgt with | some (j, _) => j | none => 0
    let opens := if l.dkind = 3 then copyNames l else []
    let (s, fills) := opens.foldl (fun (s, ks) (n, hi, lanes) =>
      let (t, k) := Issue.openFill s q.ctx q.core slot n hi lanes true false none false
      (t, ks ++ [k])) (s, ([] : List Nat))
    s.modCC q.ctx q.core fun cc =>
      let cmd : CopyCmd :=
        { id := cc.nextCmd, ctl := c, handle := h, lay := l, coord := o, follow := follow, snd := q.uid,
          slices := q.slices, wid := q.wid, image := q.image, target := slot,
          tsnd := (match tgt with | some (_, x) => x.uid | none => 0), fills := fills, fired := false, input := [],
          claim := 0, next := 0, idx := none, part := [], wrote := 0, bytes := 0, await := false, unacked := 0,
          suspended := none, after := if ctlAcq c then q.seq else 0, since := q.since }
      { cc with copies := cc.copies ++ [cmd], nextCmd := cc.nextCmd + 1 }

/-- The compute die of a logical core (R359). -/
def dieOf (core : Nat) : Nat := core / 128

/-- The fields of a route's parameter record (Table 12 of 07). -/
def routeOf (r : Nat) : RoutePar :=
  let f := nbitsOf r
  { idxout := f 119 64, wout := f 183 128, histout := f 247 192, k := f 34 32 + 1, hadd := f 37 37 == 1, srec := f 19 0,
    rsv := f 31 20 != 0 || f 36 35 != 0 || f 63 38 != 0 || f 127 120 != 0 || f 191 184 != 0 || f 511 248 != 0 }

/-- Checks 2 to 5 of a route (R208). -/
def routeChecks (s : State) (q : EngReq) (c pr : Nat) : Check :=
  let p := routeOf (engRecord s q pr 64)
  let l := layoutAt s q p.srec
  firstCheck [raiseIf (c / 2 ^ 8 % 2 ^ 20 != 0 || ctlScope c == 3) 0x21,
    raiseIf (!(s.ccOf q.ctx q.core).share.handles.contains (c % 256)) 0x03, spCheck s q.ctx q.core pr 64 64,
    if (padBad s q.ctx q.core pr 64).isSome then none
    else firstCheck [spCheck s q.ctx q.core p.srec 128 128, raiseIf p.rsv 0x2F,
    if (padBad s q.ctx q.core p.srec 128).isSome then none
    else firstCheck [layoutForm l, layoutRest s q l [0, 0, 0, 0],
    raiseIf (l.e 2 != 1 || l.e 3 != 1 || l.e 0 < 2 || 1024 < l.e 0 || l.e 0 < p.k || !(l.esize == 2 || l.esize == 4) ||
      2 ≤ l.skind) 0x2F]]]

/-- The parameter record of a route, and the layout record it names (R188). -/
def routeRecs (s : State) (q : EngReq) (pr : Nat) : RoutePar × Layout :=
  let p := routeOf (engRecord s q pr 64)
  (p, layoutAt s q p.srec)

/-- The waits of a route that has passed its checks. -/
def routeWaits (s : State) (q : EngReq) (c : Nat) (l : Layout) : Bool :=
  (handleOf s q.ctx q.core (c % 256)).state != 0 ||
  decide (Config.engineDepth + 1 ≤ (s.routeQ.getOr [] (dieOf q.core)).length) || copyBusy s q l [0, 0, 0, 0]

/-- A route is accepted by the engine of its die (R208). -/
def acceptRoute (s : State) (q : EngReq) (c : Nat) (p : RoutePar) (l : Layout) : State :=
  let s := moveHandle s q.ctx q.core (c % 256) { state := 1, bytes := 0, err := 0 }
  let cmd : RouteCmd :=
    { id := s.nextRoute, core := q.core, ctx := q.ctx, ctl := c, handle := c % 256, score := l, k := p.k, hadd := p.hadd,
      idxout := p.idxout, wout := p.wout, histout := p.histout, snd := q.uid, slices := q.slices, wid := q.wid,
      image := q.image, fired := false, next := 0, scores := [], idx := none, part := [], wrote := 0, hist := [],
      bytes := 0, await := false, unacked := 0, suspended := none, after := if ctlAcq c then q.seq else 0, since := q.since }
  { s with routeQ := s.routeQ.put (dieOf q.core) (s.routeQ.getOr [] (dieOf q.core) ++ [cmd]), nextRoute := s.nextRoute + 1 }

/-! ## The instructions -/

/-- The exact trap of a failed check. -/
def Issue.trapCheck (i : Issue) (s : State) (c : Nat × Nat) (ill : Nat := 0) (words : Nat := 1) : State :=
  i.trap s c.1 (ill := ill) (addr := c.2) (words := words)

/-- An engine instruction whose mask is not empty: while a bank that it names is changing its mode it waits and does not trap
(R310); then the checks of Table 2 in order (R184), the waits, the effect. -/
def engineIssue (i : Issue) (s : State) (busy : Bool) (check : Check) (waits : Bool) (eff : State) : State :=
  if busy then s
  else
    match check with
    | some c => i.trapCheck s c
    | none => if waits then s else i.retire eff

/-- A circular-buffer or handle instruction: an empty mask issues nothing (R181). -/
def engineStep (s : State) (maj min : Nat) (f : LaneR) (busy : Issue → State → Bool) (check : Issue → State → Check)
    (waits : Issue → State → Bool) (eff : Issue → State → State) : Out :=
  laneStep s maj min (.r f) fun i s =>
    if i.mask = 0 then i.retire s else engineIssue i s (busy i s) (check i s) (waits i s) (eff i s)

/-- The command lane reads a format block or a permutation table at issue, as an ordinary access (R201, R204). -/
def MatKind.readsPad (k : MatKind) : Bool := k == .mldw || k == .mstream || k == .mperm

/-- Earlier accesses of the issuing slices are still to be performed: program order places an ordinary access of the
command lane after them (R182, R315). -/
def Issue.ahead (i : Issue) : Bool :=
  i.x.oplog.any fun e => e.2.slices != 0 && e.2.todo.any (fun a => !a.sent && sliceBit i.slices (a.lane / 4))

/-- The handle or buffer number in SRCA: bits above it must be zero, and it must lie in the share (R196, R199). -/
def numCheck (v lim : Nat) (mine : List Nat) : Check :=
  firstCheck [raiseIf (lim ≤ v) 0x21, raiseIf (!mine.contains v) 0x03]

/-- The handle's state is not in the set that hwait waits for (R196). -/
def Issue.hwaitWaits (i : Issue) (s : State) : Bool := i.opB s / 2 ^ (handleOf s i.ctx i.core (i.opA s)).state % 2 == 0

/-- hwait: wait until the handle's state is in the set (R196). -/
def execVHwait (f : LaneR) (s : State) : Out :=
  engineStep s 0x35 0 f (fun _ _ => false)
    (fun i s => firstCheck [raiseIf (256 ≤ i.opA s || i.opB s % 2 ^ 32 == 0 || 16 ≤ i.opB s) 0x21,
      numCheck (i.opA s) 256 (s.ccOf i.ctx i.core).share.handles])
    Issue.hwaitWaits (fun _ s => s)

/-- hrel: the moves of Table 4 of 07 (R196). -/
def execVHrel (f : LaneR) (s : State) : Out :=
  engineStep s 0x35 1 f (fun _ _ => false)
    (fun i s =>
      let st := (handleOf s i.ctx i.core (i.opA s)).state
      firstCheck [raiseIf (256 ≤ i.opA s || 2 ≤ i.opB s) 0x21,
        numCheck (i.opA s) 256 (s.ccOf i.ctx i.core).share.handles,
        raiseIf (!(st == 2 || (st == 3 && i.opB s == 1))) 0x2A])
    (fun _ _ => false)
    (fun i s =>
      let h := handleOf s i.ctx i.core (i.opA s)
      moveHandle s i.ctx i.core (i.opA s) { h with state := if i.opB s = 0 then 3 else 0 })

/-- The status word of a handle (Table 5 of 07). -/
def Handle.word (h : Handle) : Nat := h.bytes % 2 ^ 32 * 2 ^ 32 + h.err % 16 * 16 + h.state % 4

/-- An instruction that writes one 64-bit status to every lane of the mask. -/
def statusStep (s : State) (maj min : Nat) (f : LaneR) (check : Issue → State → Check) (val : Issue → State → Nat) : Out :=
  laneStep s maj min (.r f) fun i s =>
    if i.mask = 0 then i.retire s
    else
      match check i s with
      | some c => i.trapCheck s c
      | none => i.finish s (List.replicate 96 (val i s, 0))

/-- hstat (R196). -/
def execVHstat (f : LaneR) (s : State) : Out :=
  statusStep s 0x35 2 f (fun i s => numCheck (i.opA s) 256 (s.ccOf i.ctx i.core).share.handles)
    (fun i s => (handleOf s i.ctx i.core (i.opA s)).word)

/-- The checks of R197 on a configuration word for buffer `b`. -/
def cbConfigBad (s : State) (ctx core b cfg : Nat) : Bool :=
  let x : CBuf := { CBuf.reset with cfg := cfg }
  let taken := fun n => (s.ccOf ctx core).cbufs.any (fun e => e.1 != b && e.2.en && e.2.banks.contains n)
  cfg / 2 ^ 16 % 2 ^ 15 != 0 || (x.en && x.banks.any (fun n => bankMode s ctx core n != some 2 || taken n))

/-- The buffer has rows, or an issued command that names it has not completed (Table 8 of 07). -/
def cbBusy (s : State) (ctx core b : Nat) : Bool :=
  let cc := s.ccOf ctx core
  let x := cbOf s ctx core b
  !x.rows.isEmpty || x.claimed != 0 || cc.copies.any (fun c => c.inBuf == some b || c.outBuf == some b) ||
  cc.array.any (fun m => m.inBuf == some b || m.outBuf == some b) || cc.pops.any (fun p => p.buf == b) ||
  cc.copies.any (fun c => match c.follow with | some m => m.inBuf == some b | none => false)

/-- A bank that a cbset names is changing its mode (R310). -/
def Issue.cbsetBusy (i : Issue) (s : State) : Bool :=
  (CBuf.banks { CBuf.reset with cfg := i.opB s }).any (fun b => i.opB s / 2 ^ 31 % 2 == 1 && spBusy s i.core (b * 2 ^ 15))

/-- A bank of the buffer that a cbpush or cbpop names is changing its mode (R310). -/
def Issue.cbBankBusy (i : Issue) (s : State) : Bool :=
  (cbOf s i.ctx i.core (i.opA s % 16)).banks.any (fun b => spBusy s i.core (b * 2 ^ 15))

/-- cbset (R197, R199). -/
def execVCbset (f : LaneR) (s : State) : Out :=
  engineStep s 0x31 0 f Issue.cbsetBusy
    (fun i s => firstCheck [numCheck (i.opA s) 16 (s.ccOf i.ctx i.core).share.cbufs,
      raiseIf (cbConfigBad s i.ctx i.core (i.opA s) (i.opB s)) 0x27, raiseIf (cbBusy s i.ctx i.core (i.opA s)) 0x28])
    (fun _ _ => false)
    (fun i s =>
      let cfg := i.opB s % 2 ^ 32
      putCB s i.ctx i.core (i.opA s) { CBuf.reset with cfg := if cfg / 2 ^ 31 = 1 then cfg else 0 })

/-- The buffer of cbpush and cbpop: named, granted, configured, of rows of at most 384 bytes (R199). -/
def cbRowChecks (i : Issue) (s : State) : Check :=
  let x := cbOf s i.ctx i.core (i.opA s)
  firstCheck [numCheck (i.opA s) 16 (s.ccOf i.ctx i.core).share.cbufs, raiseIf (!x.en) 0x25, raiseIf (384 < x.rowSize) 0x26]

/-- A cbpush finds no free row, or earlier producers have still to reserve (R198, R199). -/
def Issue.cbpushWaits (i : Issue) (s : State) : Bool :=
  (cbOf s i.ctx i.core (i.opA s)).free == 0 || !producerTurn (s.ccOf i.ctx i.core) (i.opA s) (s.ccOf i.ctx i.core).nextCmd

/-- cbpush: wait for a free row and its turn, then append a row of stored lanes (R199). -/
def execVCbpush (f : LaneR) (s : State) : Out :=
  engineStep s 0x31 1 f Issue.cbBankBusy cbRowChecks Issue.cbpushWaits
    (fun i s =>
      let x := cbOf s i.ctx i.core (i.opA s)
      let b := i.srcB s
      let row := (List.range (x.rowSize / 4)).flatMap (fun l => toBytes 4 (b.getD l 0))
      let id := (s.ccOf i.ctx i.core).nextCmd
      let s := s.modCC i.ctx i.core (fun cc => { cc with nextCmd := cc.nextCmd + 1 })
      putCB s i.ctx i.core (i.opA s) ((x.reserve 1 id).write id row))

/-- cbpop: the name is marked empty, and a row is claimed in its turn (R199). -/
def execVCbpop (f : LaneR) (s : State) : Out :=
  engineStep s 0x31 2 f Issue.cbBankBusy cbRowChecks
    (fun i s => !i.room s false [])
    (fun i s =>
      let buf := i.opA s
      let (s, fills) := i.startFills s none
      s.modCC i.ctx i.core (fun cc =>
        { cc with nextCmd := cc.nextCmd + 1,
                  pops := cc.pops ++ [{ id := cc.nextCmd, buf := buf, slot := i.slot, snd := i.x.uid, slices := i.slices,
                                        lanes := i.lanes, fills := fills }] }))

/-- cbstat (R199): of a buffer that is not configured the status is 0. DESIGN CHOICE (assumption log 87). -/
def execVCbstat (f : LaneR) (s : State) : Out :=
  statusStep s 0x31 3 f (fun i s => numCheck (i.opA s) 16 (s.ccOf i.ctx i.core).share.cbufs)
    (fun i s =>
      let x := cbOf s i.ctx i.core (i.opA s)
      if x.en then x.present % 2 ^ 16 + x.free % 2 ^ 16 * 2 ^ 16 + x.capacity % 2 ^ 16 * 2 ^ 32 + 2 ^ 48 else 0)

/-- The first scratchpad address of the scale bytes that a matrix command reads, and how many they are (R204, R205). -/
def MatCmd.scales (m : MatCmd) : Nat × Nat :=
  if !m.fb.narrow then (0, 0)
  else
    match m.kind with
    | .mldw => (m.fb.scalew, 64 * m.fb.blocks)
    | .mstream => (m.fb.scalea, matRows m.ctl * m.fb.blocks)
    | _ => (0, 0)

/-- The scratchpad bytes that a matrix instruction reads at issue at `a`: its format block or its permutation table (R201, R204). -/
def MatKind.padAt (k : MatKind) (a : Nat) : Nat × Nat :=
  match k with
  | .mldw | .mstream => (a, 32)
  | .mperm => (a, 128)
  | _ => (0, 0)

/-- A bank that a matrix command names is changing its mode: of its buffers, its scale bytes, or the block or table it reads at `arg`
(R310). -/
def matBusy (s : State) (core ctx : Nat) (m : MatCmd) (arg : Option Nat) : Bool :=
  let cb := fun b : Option Nat => match b with
    | some b => (cbOf s ctx core b).banks.any (fun n => spBusy s core (n * 2 ^ 15))
    | none => false
  cb m.inBuf || cb m.outBuf || spanBusy s core m.scales ||
  (match arg with | some a => spanBusy s core (m.kind.padAt a) | none => false)

/-- The member of a collective entry that a sounder starts with cstart: the first of its ranks (R322). -/
def startMember (i : Issue) (s : State) (e : CollEntry) : Option Nat := (membersOf s i.ctx i.core i.slot e).head?

/-- A member supplies its data by alias stores (R327). -/
def storingMember (e : CollEntry) (m : Nat) : Bool :=
  match e.win with
  | none => false
  | some w => w.kind != 0 || m == w.root

/-- The row of a member. -/
def CollEntry.row (e : CollEntry) (m : Nat) : MemberRow := e.rows.getD m { pkg := 0, bar := 0, rank := 0, buddy := 0, dest := 0 }
/-- A member's part. -/
def CollEntry.part (e : CollEntry) (m : Nat) : Part := e.parts.getOr Part.reset m

/-- Key of a member's staging for an instance. -/
def stageKey (m inst : Nat) : Nat := 2 ^ 32 * m + inst
/-- Instance `b` is later than `a`, by less than 2^31 (R243). -/
def laterInst (a b : Nat) : Bool :=
  let d := (b + 2 ^ 32 - a) % 2 ^ 32
  d != 0 && decide (d < 2 ^ 31)

/-- A storing member's part starts with its first accepted alias store of the instance (R327): DEST and BAR are its row's,
ACQ is clear, REL at SCOPE 2; its source address is not stated and is free. DESIGN CHOICE (assumption log 45). -/
def startByStore (s : State) (ctx cid m : Nat) : State :=
  match s.entry? ctx cid with
  | none => s
  | some e =>
    let p := e.part m
    match e.staging.find (stageKey m p.inst) with
    | none => s
    | some g =>
      if p.started || !storingMember e m then s
      else
        let (w, s) := s.freeWord
        let q : Part := { p with started := true, src := w.toNat, dst := (e.row m).dest, ctl := 2 ^ 30 + 2 * 2 ^ 28, bar := (e.row m).bar,
                                 snd := g.snd, slices := g.slices, wid := g.wid, after := 0, core := g.core }
        s.modEntry ctx cid (fun e => { e with parts := e.parts.put m q })

/-- The part of an instance that a member has started and, where it has completed it here, that a thread may still need. -/
def CollEntry.partAt (e : CollEntry) (m inst : Nat) : Option Part :=
  if (e.part m).started && (e.part m).inst == inst then some (e.part m)
  else (e.ended.find? (fun p => p.1 == m && p.2.inst == inst)).map (·.2)

/-- The one engine arrival of a member's part on its barrier, with the bits its discarded stores have left (R256, R326, R329);
the member's next instance is open. -/
def arriveFor (s : State) (ctx cid m status bar port : Nat) (p : Part) : State :=
  let s := engineArrive s ctx bar (Alu.orN status (p.stat.getOr 0 p.inst)) (.port port)
  let q : Part := { p with inst := (p.inst + 1) % 2 ^ 32, started := false, stat := p.stat.del p.inst,
                           owed := p.owed.filter (· != p.inst) }
  s.modEntry ctx cid (fun e => { e with parts := e.parts.put m q, ended := if p.started then (m, p) :: e.ended else e.ended })

/-- A member whose open instance a program error had ended before it started it receives its arrival as soon as it has started
it, by its cstart or by a store already staged; so do up to `n` such instances in turn (R258, R257). DEDUCED (assumption log 49). -/
def settleParts (s : State) (ctx cid m : Nat) : Nat → State
  | 0 => s
  | n + 1 =>
    let s := startByStore s ctx cid m
    match s.entry? ctx cid with
    | none => s
    | some e =>
      let p := e.part m
      if p.started && p.owed.contains p.inst then
        settleParts (arriveFor s ctx cid m (if e.absent = 0 then 8 else 9) p.bar 0 p) ctx cid m n
      else s

/-- What follows a start of a member's part. -/
def settleOwed (s : State) (ctx cid m : Nat) : State :=
  settleParts s ctx cid m (match s.entry? ctx cid with | some e => (e.part m).owed.length + 1 | none => 0)

/-- A member's part of its open instance completes locally; a part of the next instance starts where a store of it was
accepted. -/
def partDone (s : State) (ctx cid m status port : Nat) : State :=
  match s.entry? ctx cid with
  | none => s
  | some e => settleOwed (arriveFor s ctx cid m status (e.part m).bar port (e.part m)) ctx cid m

/-- Checks of cstart (R209, R327). -/
def cstartChecks (i : Issue) (s : State) : Check :=
  let c := i.opA s
  let cid := i.opB s
  firstCheck [raiseIf (c / 2 ^ 9 % 2 ^ 19 != 0 || ctlScope c == 3) 0x21,
    raiseIf (!(s.ccOf i.ctx i.core).share.barriers.contains (c % 2 ^ 9)) 0x03, raiseIf (4096 ≤ cid) 0x21,
    match s.entry? i.ctx cid with
    | none => some (0x30, 0)
    | some e =>
      match startMember i s e with
      | none => some (0x31, 0)
      | some m => raiseIf (storingMember e m) 0x30]

/-- The lane word at an index of the code a sounder runs. -/
def laneWordAt (s : State) (ctx : Nat) (x : Snd) (idx : Nat) : Nat :=
  match codeOf s ctx x with
  | none => 0
  | some im => s.readN (im.lanePA + 12 * idx) 12

/-- The follow-on of an issue: its kind and operand fields, or the ILLCAUSE of the trap "invalid follow-on" (R193). -/
def Issue.follow (i : Issue) (s : State) : Except Nat (MatKind × LaneR × Nat) :=
  if i.blk.entry + i.blk.len ≤ i.lpc + 1 then .error 0
  else
    let w := laneWordAt s i.ctx i.x (i.lpc + 1)
    match laneIllegal (BitVec.ofNat 96 w) i.x.n (bits i.fpctl 10 8) with
    | some cause => .error cause
    | none =>
      let r := laneRof w
      let min := w / 2 ^ 80 % 256
      if w / 2 ^ 88 = 0x32 ∧ (min = 0 ∨ min = 2) ∧ r.g1 = 0 ∧ r.g2 = 0 then
        .ok (if min = 0 then .mldw else .mstream, r, w)
      else .error 0

/-- An operand of the follow-on, read from the command lane (R193). -/
def Issue.followOp (i : Issue) (s : State) (v : Nat) : Nat := (i.source s .v32 v).getD i.cmdLane 0

/-- The empty names among the follow-on's operands: field, name and policy bit (R34). -/
def Issue.followEmpties (i : Issue) (r : LaneR) : List (Nat × Nat × Bool) :=
  [(0, r.a.toNat, r.fe.toNat / 8 % 2 == 1), (1, r.b.toNat, r.fe.toNat / 4 % 2 == 1)].filter
    (fun (_, n, _) => n < 640 && i.x.isEmpty n)

/-! ## Commands of the copy engine, the array, the routing engine and the switch die -/

/-- The start of a member's part by a cstart (R209, R323). -/
def startPart (s : State) (i : Issue) (q : EngReq) (c cid src dst : Nat) : State :=
  let start := fun e : CollEntry =>
    match startMember i s e with
    | none => e
    | some m =>
      let p := e.parts.getOr Part.reset m
      let q : Part := { p with started := true, src := src, dst := dst, ctl := c, bar := q.core * 2 ^ 9 + c % 2 ^ 9, snd := q.uid,
                               slices := q.slices, wid := q.wid, after := if ctlAcq c then q.seq else 0, since := q.since,
                               core := q.core }
      { e with parts := e.parts.put m q }
  let m := (s.entry? q.ctx cid).bind (startMember i s)
  settleOwed (s.modEntry q.ctx cid start) q.ctx cid (m.getD 0)

/-- What a command that has passed its checks waits for, the hold at the end of a slice aside (R181, R195, R212, R310). -/
def Issue.cmdWaits (i : Issue) (s : State) : EngCmd → Bool
  | .copy c l o _ => copyWaits s i.req c l o
  | .mat m => decide (Config.engineDepth + 1 ≤ (s.ccOf i.ctx i.core).array.length) || matBusy s i.core i.ctx m none
  | .route c _ l => routeWaits s i.req c l
  | .lost _ c _ => (handleOf s i.ctx i.core (c % 256)).state != 0
  | .start _ cid _ _ =>
    match (s.entry? i.ctx cid).bind (fun e => (startMember i s e).map (e.parts.getOr Part.reset ·)) with
    | some p => p.started
    | none => false

/-- A copy or route whose record cannot be read is ended: the record of the fault, and the handle full with ERR 1 (R185, R307). -/
def loseCommand (s : State) (q : EngReq) (unit c a : Nat) : State :=
  let s := moveHandle s q.ctx q.core (c % 256) { state := 1, bytes := 0, err := 0 }
  let s := noteRecord s q.ctx (infoHdr 3 unit q.core (q.uid % 2 ^ 24)) (engineBody 0x50 (c % 256) 0 a (nackDetail 0 0 true false))
  moveHandle s q.ctx q.core (c % 256) { state := 2, bytes := 0, err := 1 }

/-- A command is accepted. -/
def Issue.accept (i : Issue) (s : State) : EngCmd → State
  | .copy c l o m => acceptCopy s i.req c l o m
  | .mat m => joinArray s i.ctx i.core m
  | .route c p l => acceptRoute s i.req c p l
  | .lost u c a => loseCommand s i.req u c a
  | .start c cid src dst => startPart s i i.req c cid src dst

/-- The issue has passed its checks and is held, or is held no longer. -/
def Issue.notePassed (i : Issue) (s : State) (c : Option EngCmd) : State :=
  s.modSnd i.ctx i.core i.slot fun x =>
    let rest := x.passed.filter (fun p => p.hand != i.x.handler || Alu.andN p.slices i.slices == 0)
    { x with passed := (c.map (fun c => { slices := i.slices, lpc := i.lpc, block := i.blk.index, hand := i.x.handler, cmd := c })).toList ++ rest }

/-- An instruction of majors 0x30 and 0x32 to 0x34 whose mask is not empty: while a bank that it names is changing it waits
(R310); the checks in order; from the end of a slice to the safe point one that has passed them is held with its command
and makes none of them again (R402); the waits; the command is accepted. `words` is the length of the instruction. -/
def Issue.engineQueue (i : Issue) (s : State) (busy : Bool) (check : Check) (cmd : EngCmd) (words : Nat := 1) : State :=
  let go := fun c : EngCmd =>
    if (s.coreOf i.core).holding || i.cmdWaits s c then s
    else i.retire (i.accept (if i.passed.isSome then i.notePassed s none else s) c) words
  match i.passed with
  | some c => go c
  | none =>
    if busy then s
    else
      match check with
      | some c => i.trapCheck s c (words := words)
      | none => if (s.coreOf i.core).holding then i.notePassed s (some cmd) else go cmd

/-- The command of a copy. -/
def Issue.copyCmd (i : Issue) (s : State) (follow : Option MatCmd) : EngCmd :=
  match padBad s i.ctx i.core (i.opB s) 128 with
  | some a => .lost 1 (i.opA s) a
  | none => .copy (i.opA s) (layoutAt s i.req (i.opB s)) (coords (i.opC s) (i.opD s)) follow
/-- The checks of a copy. -/
def Issue.copyCheck (i : Issue) (s : State) : Check := copyChecks s i.req (i.opA s) (i.opB s) (coords (i.opC s) (i.opD s))
/-- A bank that a copy names is changing its mode. -/
def Issue.copyBanks (i : Issue) (s : State) : Bool :=
  spanBusy s i.core (i.opB s, 128) || copyBusy s i.req (layoutAt s i.req (i.opB s)) (coords (i.opC s) (i.opD s))

/-- copy (R192). -/
def execVCopy (f : LaneR) (s : State) : Out :=
  laneStep s 0x30 0 (.r f) fun i s =>
    if i.mask = 0 then i.retire s else i.engineQueue s (i.copyBanks s) (i.copyCheck s) (i.copyCmd s none)

/-- copy.fo: the copy and the follow-on are one instruction of two words (R193). The follow-on's own checks and its empty operands come
after all checks of the copy. DESIGN CHOICE (assumption log 84). -/
def execVCopyFo (f : LaneR) (s : State) : Out :=
  laneStep s 0x30 0 (.r f) fun i s =>
    if i.mask = 0 then i.retire s 2
    else
      match i.follow s with
      | .error ill => i.trap s 0x20 (ill := ill) (words := 2)
      | .ok (k, r, w) =>
        let fb := i.followOp s r.b.toNat
        let m := matCmd s i.req k (i.followOp s r.a.toNat) fb 0 0 w (some (i.opA s % 256))
        if i.passed.isSome then i.engineQueue s false none (i.copyCmd s (some m)) 2
        else if i.copyBanks s || matBusy s i.core i.ctx m (some fb) then s
        else
          match i.copyCheck s with
          | some t => i.trapCheck s t (words := 2)
          | none =>
            match (i.followEmpties r).find? (fun e => e.2.2) with
            | some (fld, n, _) => i.trap s 0x04 (src := fld) (info := n) (words := 2)
            | none =>
              if !(i.followEmpties r).isEmpty || (k.readsPad && i.ahead) then s
              else i.engineQueue s false (matChecks s i.ctx i.core k (i.followOp s r.a.toNat) fb) (i.copyCmd s (some m)) 2

/-- The command of a matrix instruction. -/
def Issue.matCmdOf (i : Issue) (s : State) (k : MatKind) : MatCmd :=
  matCmd s i.req k (i.opA s) (i.opB s) i.ty i.rnd i.word none
/-- The checks of a matrix instruction. -/
def Issue.matCheck (i : Issue) (s : State) (k : MatKind) : Check :=
  firstCheck [matChecks s i.ctx i.core k (i.opA s) (i.opB s), matPlace (s.ccOf i.ctx i.core) (i.matCmdOf s k)]

/-- A matrix instruction: its block or table is read after the earlier accesses of its slices (R182, R201), then its
checks, and its command at the end of the array order (R200, R204). -/
def matStep (s : State) (min : Nat) (k : MatKind) (f : LaneR) : Out :=
  laneStep s 0x32 min (.r f) fun i s =>
    if i.mask = 0 then i.retire s
    else if i.passed.isNone && k.readsPad && i.ahead then s
    else i.engineQueue s (matBusy s i.core i.ctx (i.matCmdOf s k) (some (i.opB s))) (i.matCheck s k) (.mat (i.matCmdOf s k))

/-- mldw (R204). -/
def execVMldw (f : LaneR) (s : State) : Out := matStep s 0 .mldw f
/-- mswap (R204). -/
def execVMswap (f : LaneR) (s : State) : Out := matStep s 1 .mswap f
/-- mstream (R205). -/
def execVMstream (f : LaneR) (s : State) : Out := matStep s 2 .mstream f
/-- mdrain (R206). -/
def execVMdrain (f : LaneR) (s : State) : Out := matStep s 3 .mdrain f
/-- mclear (R204). -/
def execVMclear (f : LaneR) (s : State) : Out := matStep s 4 .mclear f
/-- mperm (R204, R99). -/
def execVMperm (f : LaneR) (s : State) : Out := matStep s 5 .mperm f

/-- The command of a route. -/
def Issue.routeCmd (i : Issue) (s : State) : EngCmd :=
  match padBad s i.ctx i.core (i.opB s) 64, padBad s i.ctx i.core (routeRecs s i.req (i.opB s)).1.srec 128 with
  | some a, _ | none, some a => .lost 3 (i.opA s) a
  | none, none => .route (i.opA s) (routeRecs s i.req (i.opB s)).1 (routeRecs s i.req (i.opB s)).2
/-- A bank that a route names is changing its mode. -/
def Issue.routeBanks (i : Issue) (s : State) : Bool :=
  spanBusy s i.core (i.opB s, 64) || spanBusy s i.core ((routeRecs s i.req (i.opB s)).1.srec, 128) ||
  copyBusy s i.req (routeRecs s i.req (i.opB s)).2 [0, 0, 0, 0]

/-- route (R208). -/
def execVRoute (f : LaneR) (s : State) : Out :=
  laneStep s 0x33 0 (.r f) fun i s =>
    if i.mask = 0 then i.retire s
    else i.engineQueue s (i.routeBanks s) (routeChecks s i.req (i.opA s) (i.opB s)) (i.routeCmd s)

/-- cstart: this member's part of its next instance starts, once its previous one has completed locally (R209, R212,
R323). -/
def execVCstart (f : LaneR) (s : State) : Out :=
  laneStep s 0x34 0 (.r f) fun i s =>
    if i.mask = 0 then i.retire s
    else i.engineQueue s false (cstartChecks i s) (.start (i.opA s) (i.opB s) (i.opC s) (i.opD s))

/-- An engine instruction cannot issue now: a bank that it names is changing, or it has passed its checks and waits (R181,
R285, R310, R402). -/
def Issue.engineWaits (i : Issue) (s : State) : Bool :=
  let queue := fun (early busy : Bool) (check : Check) (cmd : EngCmd) =>
    match i.passed with
    | some c => (s.coreOf i.core).holding || i.cmdWaits s c
    | none => early || busy || (check.isNone && ((s.coreOf i.core).holding || i.cmdWaits s cmd))
  let step := fun (busy : Bool) (check : Check) (waits : Bool) => busy || (check.isNone && waits)
  let mat := fun k : MatKind =>
    queue (k.readsPad && i.ahead) (matBusy s i.core i.ctx (i.matCmdOf s k) (some (i.opB s))) (i.matCheck s k) (.mat (i.matCmdOf s k))
  if !i.isEngine || i.mask == 0 then false
  else
    match i.maj, i.min with
    | 0x30, _ =>
      if i.dst % 2 = 0 then queue false (i.copyBanks s) (i.copyCheck s) (i.copyCmd s none)
      else
        match i.follow s with
        | .error _ => false
        | .ok (k, r, w) =>
          let fb := i.followOp s r.b.toNat
          let m := matCmd s i.req k (i.followOp s r.a.toNat) fb 0 0 w (some (i.opA s % 256))
          let late := !(i.followEmpties r).any (fun e => e.2.2) && (!(i.followEmpties r).isEmpty || (k.readsPad && i.ahead))
          queue ((i.copyCheck s).isNone && late) (i.copyBanks s || matBusy s i.core i.ctx m (some fb))
            (firstCheck [i.copyCheck s, raiseIf ((i.followEmpties r).any (fun e => e.2.2)) 0x04,
              matChecks s i.ctx i.core k (i.followOp s r.a.toNat) fb]) (i.copyCmd s (some m))
    | 0x31, 0 => i.cbsetBusy s
    | 0x31, 1 => step (i.cbBankBusy s) (cbRowChecks i s) (i.cbpushWaits s)
    | 0x31, 2 => step (i.cbBankBusy s) (cbRowChecks i s) (!i.room s false [])
    | 0x32, 0 => mat .mldw
    | 0x32, 1 => mat .mswap
    | 0x32, 2 => mat .mstream
    | 0x32, 3 => mat .mdrain
    | 0x32, 4 => mat .mclear
    | 0x32, 5 => mat .mperm
    | 0x33, _ => queue false (i.routeBanks s) (routeChecks s i.req (i.opA s) (i.opB s)) (i.routeCmd s)
    | 0x34, _ => queue false false (cstartChecks i s) (.start (i.opA s) (i.opB s) (i.opC s) (i.opD s))
    | 0x35, 0 =>
      step false (firstCheck [raiseIf (256 ≤ i.opA s || i.opB s % 2 ^ 32 == 0 || 16 ≤ i.opB s) 0x21,
        numCheck (i.opA s) 256 (s.ccOf i.ctx i.core).share.handles]) (i.hwaitWaits s)
    | _, _ => false

end Sys2Proof.Machine
end

