-- ==== Sys2Proof/Machine/EngineRun.lean ====
section
/-! DEFINITION. How the engines carry out their commands (chapter 07): firing (R198), the elements of a copy (R189, R190),
the array's arithmetic (R200 to R206), routes (R208), faults met after issue (R185), and the events that drive them. -/

namespace Sys2Proof.Machine

open Sys2Proof

/-- What the next piece of a command's work comes to. -/
inductive Move where
  | go (s : State)
  | bad (cause detail addr : Nat)
  | wait
  | done

/-- What an engine read meets. -/
inductive EngRead where
  | data (bs : List Byte)
  | remote (pkg addr : Nat)
  | bad (cause detail addr : Nat)
  deriving DecidableEq, Repr

/-- An engine's read of up to 8 bytes within a page, as they were when write number `t` was still to come, or before writes of
other cores' engines that are not released (R185, R316, R317). -/
def engRead1 (s : State) (ctx core : Nat) (sp : Bool) (t a n : Nat) : EngRead :=
  if sp then
    match unmapped s ctx core a n with
    | some _ => .bad 0x19 0 a
    | none =>
      if s.poison.contains (spLine ctx core a) then .bad 0x50 (nackDetail 0 0 true false) a
      else .data (s.bytesHeld t (spPlace ctx core a) (spBytes s ctx core a n))
  else if 2 ^ 56 ≤ a then .bad 0x10 0 a
  else
    match translate s ctx a true false with
    | .fail d => .bad 0x1B d a
    | .ok (.mem _ pa) =>
      if revoked s ctx then .bad 0x53 0 a
      else if s.poisoned pa then .bad 0x50 (nackDetail 0 0 true false + walkLevel s ctx a) a
      else if s.lags core pa n && Config.freeBit (s.freeCtr + 2 ^ 64) then .data (s.bytesBefore core pa n)
      else .data (s.bytesHeld t pa (s.bytesAt pa n))
    | .ok (.window p w) => .remote p w
    | .ok (.control _) => .data (List.replicate n 0)
    | .ok _ => .bad 0x13 0 a

/-- An engine's read, in two parts where it crosses a page. -/
def engRead (s : State) (ctx core : Nat) (sp : Bool) (t a n : Nat) : EngRead :=
  let k := 4096 - a % 4096
  if n ≤ k then engRead1 s ctx core sp t a n
  else
    match engRead1 s ctx core sp t a k, engRead1 s ctx core sp t (a + k) (n - k) with
    | .data x, .data y => .data (x ++ y)
    | .data _, r => r
    | r, _ => r

/-- Bytes of local memory as they are now, from an address on, whatever pages they lie in. -/
def bytesNow (s : State) (ctx a n : Nat) : List Byte :=
  (List.range n).map fun i => match translate s ctx (a + i) true false with | .ok (.mem _ pa) => s.readPA pa | _ => 0

/-- What an engine write meets: it is made, with so many posted stores sent, or fails. -/
inductive EngWrite where
  | done (s : State) (sent : Nat)
  | bad (cause detail addr : Nat)

/-- An engine's write of bytes within a page: a const record and an alias window refuse it (R185, R45). -/
def engWrite1 (s : State) (ctx core wid image : Nat) (o : Origin) (sp : Bool) (a : Nat) (bs : List Byte) : EngWrite :=
  if sp then
    match unmapped s ctx core a bs.length with
    | some _ => .bad 0x19 0 a
    | none => .done (writeSP s ctx core a bs) 0
  else if 2 ^ 56 ≤ a then .bad 0x10 0 a
  else
    match translate s ctx a false true with
    | .fail d => .bad 0x1B d a
    | .ok (.aliasWin _ _) => .bad 0x13 0 a
    | .ok l =>
      if constHit s ctx image a bs.length then .bad 0x14 0 a
      else
        match l with
        | .mem _ pa => if revoked s ctx then .bad 0x53 0 a else .done (storeMem s ctx pa wid bs) 0
        | .control off => .done (ringControl s off bs) 0
        | .window p w => .done (s.sendOp (.store p [(w, bs)] o)) 1
        | _ => .bad 0x13 0 a

/-- An engine's write, in two parts where it crosses a page; nothing is written where either part fails. -/
def engWrite (s : State) (ctx core wid image : Nat) (o : Origin) (sp : Bool) (a : Nat) (bs : List Byte) : EngWrite :=
  let k := 4096 - a % 4096
  if bs.length ≤ k then engWrite1 s ctx core wid image o sp a bs
  else
    match engWrite1 s ctx core wid image o sp (a + k) (bs.drop k) with
    | .bad c d e => .bad c d e
    | .done t n =>
      match engWrite1 t ctx core wid image o sp a (bs.take k) with
      | .bad c d e => .bad c d e
      | .done u m => .done u (n + m)

/-! ## Copies -/

/-- Replace a copy of the list. -/
def putCopy (s : State) (ctx core : Nat) (c : CopyCmd) : State :=
  s.modCC ctx core fun cc => { cc with copies := cc.copies.map (fun d => if d.id = c.id then c else d) }
def dropCopy (s : State) (ctx core id : Nat) : State :=
  s.modCC ctx core fun cc => { cc with copies := cc.copies.filter (fun d => d.id != id) }

/-- Bytes of an access of the element in hand: single bytes under UNALIGNED (R313). -/
def CopyCmd.unit (c : CopyCmd) : Nat := if c.lay.unaligned then 1 else c.lay.esize

/-- The fault detail of an engine's access that has been translated (R391): a scratchpad access has no walk. -/
def memDetail (s : State) (ctx : Nat) (sp : Bool) (a pkg why : Nat) (rd wr : Bool) : Nat :=
  nackDetail pkg why rd wr + (if sp then 0 else walkLevel s ctx a)

/-- Where the next read of a gathered row's index is made, `got` bytes of it read, and its size: the whole of an aligned word, single
bytes of another (R189, R313). DEDUCED (assumption log 82). -/
def idxAt (l : Layout) (o1 : Int) (i1 got : Nat) : Nat := (l.idxAddr o1 i1 % 2 ^ 64).toNat + got
def idxUnit (l : Layout) (o1 : Int) (i1 : Nat) : Nat := if l.idxAddr o1 i1 % 4 = 0 then 4 else 1

/-- The index of a gathered row, or its next byte (R189). -/
def readIdx (s : State) (ctx core : Nat) (l : Layout) (t : Nat) (o1 : Int) (i1 got : Nat) : EngRead :=
  if l.idxAddr o1 i1 < 0 then .bad 0x10 0 (idxAt l o1 i1 got)
  else engRead1 s ctx core l.isp t (idxAt l o1 i1 got) (idxUnit l o1 i1)

/-- Number of memory writes from which a read at an address may take a value (R316, R392). -/
def sinceAt (since : Nat) (fresh : List (Nat × Nat × Nat)) (a : Nat) : Nat :=
  fresh.foldl (fun n e => if e.1 ≤ a ∧ a < e.1 + e.2.1 then max n e.2.2 else n) since

/-- Where a box element is read (R189): it is outside the bounds and reads as zero, its index has to be read first, or
its address. -/
inductive ElemSrc where
  | zero
  | index
  | at_ (a : Nat)
  deriving DecidableEq, Repr

def elemSrc (l : Layout) (o : List Int) (k : Nat) (idx : Option Nat) : ElemSrc :=
  let (i0, i1, i2, i3) := l.index k
  let x0 := o.getD 0 0 + i0
  let x2 := o.getD 2 0 + i2
  let x3 := o.getD 3 0 + i3
  let x1 : Int := if l.gather then (match idx with | some n => n | none => 0) else o.getD 1 0 + i1
  if !l.inside x0 x1 x2 x3 then .zero
  else if l.gather && idx.isNone then .index
  else .at_ (l.srcAddr x0 x1 x2 x3)

/-- Give an element to the lanes of a register-file destination (R190). -/
def giveElem (s : State) (ctx core : Nat) (c : CopyCmd) : State :=
  let e := c.next
  let ks := if c.lay.esize = 8 then [c.fills.getD (2 * (e / 96)) 0, c.fills.getD (2 * (e / 96) + 1) 0] else [c.fills.getD (e / 96) 0]
  s.modSnd ctx core c.target fun x => if x.uid = c.tsnd then x.give ks (e % 96) (leNat c.part) else x

/-- The element in hand, `n` more of its bytes written. -/
def CopyCmd.wroteMore (c : CopyCmd) (n : Nat) : CopyCmd :=
  if c.lay.esize ≤ c.wrote + n then { c with next := c.next + 1, idx := none, part := [], wrote := 0, bytes := c.bytes + n }
  else { c with wrote := c.wrote + n, bytes := c.bytes + n }

/-- What is read for the element in hand is its index, where the row is gathered, until that is whole; then its bytes (R189). -/
def CopyCmd.took (c : CopyCmd) (bs : List Byte) : CopyCmd :=
  if c.lay.gather && c.idx.isNone then
    if (c.idxPart ++ bs).length < 4 then { c with idxPart := c.idxPart ++ bs }
    else { c with idx := some (leNat (c.idxPart ++ bs)), idxPart := [] }
  else { c with part := c.part ++ bs }

/-- Bytes of the read that is under way for the element in hand. -/
def CopyCmd.reading (c : CopyCmd) : Nat :=
  if c.lay.gather && c.idx.isNone then idxUnit c.lay (c.coord.getD 1 0) (c.lay.index c.next).2.1 else c.unit

/-- The next piece of a copy: a read or a write of the element in hand (R189, R190, R192). Its BYTES count a store through a window
when it leaves. DESIGN CHOICE (assumption log 83). -/
def copyStep (s : State) (ctx core : Nat) (c : CopyCmd) : Move :=
  let l := c.lay
  let me := Origin.copy ctx core c.id c.snd c.handle
  if !c.fired || c.suspended.isSome || (l.dkind == 3 && !isActive s ctx core) then .wait
  else if l.total ≤ c.next then .done
  else if c.await || coreSplit s core then .wait
  else if c.part.length < l.esize then
    let have_ := fun bs => Move.go { putCopy s ctx core { c with part := c.part ++ bs } with freeCtr := s.freeCtr + 1 }
    if l.skind = 2 then have_ ((c.input.drop (c.next * l.esize)).take l.esize)
    else
      let (_, i1, _, _) := l.index c.next
      let o1 := c.coord.getD 1 0
      match elemSrc l c.coord c.next c.idx with
      | .zero => have_ (List.replicate l.esize 0)
      | .index =>
        let a := idxAt l o1 i1 c.idxPart.length
        match readIdx s ctx core l (s.readPoint (sinceAt c.since c.fresh a) 0) o1 i1 c.idxPart.length with
        | .data bs => .go { putCopy s ctx core (c.took bs) with freeCtr := s.freeCtr + 1 }
        | .remote p w => .go ((putCopy s ctx core { c with await := true }).sendOp (.load p w c.reading (me a)))
        | .bad k d a => .bad k d a
      | .at_ a =>
        let a := a + c.part.length
        match engRead s ctx core (l.skind == 1) (s.readPoint (sinceAt c.since c.fresh a) 0) a c.unit with
        | .data bs => have_ bs
        | .remote p w => .go ((putCopy s ctx core { c with await := true }).sendOp (.load p w c.unit (me a)))
        | .bad k d a => .bad k d a
  else
    match l.dkind with
    | 2 =>
      let b := l.dbase % 16
      let s := putCB s ctx core b ((cbOf s ctx core b).write c.id c.part)
      .go (putCopy s ctx core (c.wroteMore l.esize))
    | 3 => .go (putCopy (giveElem s ctx core c) ctx core (c.wroteMore l.esize))
    | k =>
      let (i0, i1, i2, i3) := l.index c.next
      let a := l.dstAddr i0 i1 i2 i3 + c.wrote
      match engWrite s ctx core c.wid c.image (me a) (k == 1) a ((c.part.drop c.wrote).take c.unit) with
      | .done t n =>
        .go (putCopy (t.veil s.writes (ctlWide c.ctl) core (c.snd / 2 ^ 24)) ctx core { c.wroteMore c.unit with unacked := c.unacked + n })
      | .bad x d a => .bad x d a

/-- The rows a copy claimed are released, and the lanes its fills brought are written or withdrawn. -/
def settleCopy (s : State) (ctx core : Nat) (c : CopyCmd) (ended : Bool) : State :=
  let s := match c.inBuf with | some b => putCB s ctx core b ((cbOf s ctx core b).release c.claim) | none => s
  let s := match c.outBuf, ended with | some b, true => putCB s ctx core b ((cbOf s ctx core b).close c.id) | _, _ => s
  match s.snd? ctx core c.target with
  | none => s
  | some x =>
    if x.uid ≠ c.tsnd then s
    else
      c.fills.foldl (fun s k =>
        let s := if ended then s.modSnd ctx core c.target (fun x =>
            { x with fills := x.fills.modify k (fun f => { f with want := [], keep := f.keep.filter (fun l => f.got.any (·.1 == l)) }) })
          else s
        Issue.fillWrite s ctx core c.target k) s

/-- The last byte has landed: REL, the handle to full, and the follow-on to the array (R192, R193). -/
def finishCopy (s : State) (ctx core : Nat) (c : CopyCmd) : State :=
  if ctlRel c.ctl && ctlScope c.ctl == 2 && c.unacked != 0 then s
  else
    let s := dropCopy (settleCopy s ctx core c false) ctx core c.id
    let s := completeHandle s ctx core c.handle { state := 2, bytes := c.bytes, err := 0 } (.core core)
    match c.follow with
    | some m => handOver s ctx core c.handle m
    | none => s

/-- A copy is ended before its last byte (R185). DEDUCED (assumption log 58). -/
def endCopy (s : State) (ctx core : Nat) (c : CopyCmd) (err : Nat) : State :=
  let s := dropCopy (settleCopy s ctx core c true) ctx core c.id
  completeHandle s ctx core c.handle { state := 2, bytes := c.bytes, err := err } (.core core)

/-- Up to `n` pieces of a copy, and its completion once nothing is left. -/
def runCopy (s : State) (ctx core id : Nat) : Nat → State
  | 0 => s
  | n + 1 =>
    match (s.ccOf ctx core).copies.find? (fun c => c.id == id) with
    | none => s
    | some c =>
      match copyStep s ctx core c with
      | .go t => runCopy t ctx core id n
      | .done => finishCopy s ctx core c
      | _ => s

/-! ## Firing (R198) -/

/-- The head of what an engine has not started fires once its rows are there (R198); a waiting cbpop likewise. -/
def fireCopy (s : State) (ctx core : Nat) : State :=
  let cc := s.ccOf ctx core
  match cc.copies.find? (fun c => !c.fired) with
  | none => s
  | some c =>
    let rows := fun b => c.lay.boxBytes / (cbOf s ctx core b).rowSize
    let inOk := match c.inBuf with | some b => consumerTurn cc b c.id && rows b ≤ (cbOf s ctx core b).ready | none => true
    let outOk := match c.outBuf with | some b => producerTurn cc b c.id && rows b ≤ (cbOf s ctx core b).free | none => true
    if !(inOk && outOk && acqMet s ctx core c.snd c.slices c.after (ctlScope c.ctl == 2)) then s
    else
      let (s, input, n) :=
        match c.inBuf with
        | some b =>
          let (x, rs) := (cbOf s ctx core b).claim (rows b)
          (putCB s ctx core b x, (rs.map (fun r => r.take (cbOf s ctx core b).rowSize)).flatten, rows b)
        | none => (s, [], 0)
      let s := match c.outBuf with | some b => putCB s ctx core b ((cbOf s ctx core b).reserve (rows b) c.id) | none => s
      putCopy s ctx core { c with fired := true, input := input, claim := n, since := if ctlAcq c.ctl then s.writes else c.since }

def putMat (s : State) (ctx core : Nat) (m : MatCmd) : State :=
  s.modCC ctx core fun cc => { cc with array := cc.array.map (fun d => if d.id = m.id then m else d) }

/-- Input rows and output rows of a matrix command (R198, R204 to R206). -/
def MatCmd.need (m : MatCmd) : Nat :=
  match m.kind with
  | .mldw => 64
  | .mstream | .mdrain => matRows m.ctl
  | _ => 0

/-- The first array command that has not fired fires; while its context is not active it is kept as it stands (R186,
R402). -/
def fireArray (s : State) (ctx core : Nat) : State :=
  let cc := s.ccOf ctx core
  match cc.array.find? (fun m => !m.fired) with
  | none => s
  | some m =>
    let inOk := match m.inBuf with | some b => consumerTurn cc b m.id && m.need ≤ (cbOf s ctx core b).ready | none => true
    let outOk := match m.outBuf with | some b => producerTurn cc b m.id && m.need ≤ (cbOf s ctx core b).free | none => true
    if !(isActive s ctx core && inOk && outOk && acqMet s ctx core m.snd m.slices m.after (ctlScope m.ctl == 2)) then s
    else
      let m := { m with since := if ctlAcq m.ctl then s.writes else m.since }
      match m.inBuf, m.outBuf with
      | some b, _ =>
        let (x, rs) := (cbOf s ctx core b).claim m.need
        putMat (putCB s ctx core b x) ctx core { m with fired := true, rows := rs, claim := m.need }
      | none, some b =>
        putMat (putCB s ctx core b ((cbOf s ctx core b).reserve m.need m.id)) ctx core { m with fired := true, claim := m.need }
      | none, none => putMat s ctx core { m with fired := true }

/-- A cbpop takes its row: its lanes receive the row's words, 0 beyond it (R199). -/
def firePop (s : State) (ctx core : Nat) : State :=
  let cc := s.ccOf ctx core
  match cc.pops.find? (fun p => isActive s ctx core && consumerTurn cc p.buf p.id && 1 ≤ (cbOf s ctx core p.buf).ready) with
  | none => s
  | some p =>
    let (x, rs) := (cbOf s ctx core p.buf).claim 1
    let row := rs.headD []
    let s := putCB s ctx core p.buf (x.release 1)
    let s := s.modCC ctx core (fun cc => { cc with pops := cc.pops.filter (fun q => q.id != p.id) })
    match s.snd? ctx core p.slot with
    | none => s
    | some y =>
      if y.uid ≠ p.snd then s
      else
        let y := p.lanes.foldl (fun (y : Snd) l => y.give p.fills l (leNat ((row.drop (4 * l)).take 4))) y
        p.fills.foldl (fun s k => Issue.fillWrite s ctx core p.slot k) (s.putSnd ctx core p.slot y)

def fireRoute (s : State) (die : Nat) : State :=
  match s.routeQ.getOr [] die with
  | [] => s
  | r :: t =>
    if r.fired || !acqMet s r.ctx r.core r.snd r.slices r.after (ctlScope r.ctl == 2) then s
    else { s with routeQ := s.routeQ.put die ({ r with fired := true, since := if ctlAcq r.ctl then s.writes else r.since } :: t) }

/-! ## The array (R200 to R206) -/

/-- Element `c` of an operand row of a kind and descriptor, as its code (R94, R202). -/
def rowElem (kind desc : Nat) (row : List Byte) (c : Nat) : Nat :=
  if kind = 0 then
    if Nr.contW (Nr.descOf desc) = 4 then (row.getD (c / 2) 0).toNat / 16 ^ (c % 2) % 16 else (row.getD c 0).toNat
  else if Nr.floatKind kind then leNat ((row.drop (2 * c)).take 2)
  else (row.getD c 0).toNat

/-- The channel of reduction position p (R99, R205). -/
def channel (perm : Bool) (table : List Nat) (p : Nat) : Nat :=
  if perm then 128 * (p / 128) + table.getD (p % 128) 0 else p

/-- A scale byte as a matrix command reads it, the `k`-th of them (R204, R205, R316). -/
def scaleByte (s : State) (ctx core : Nat) (m : MatCmd) (k a : Nat) : Byte :=
  s.heldAt (s.readPoint m.since k) (spPlace ctx core a) (readSP s ctx core a)

/-- Where a command has met an uncorrectable error: its block or table, or the first of its scale bytes in a poisoned line
(R185, R307). -/
def badScale (s : State) (ctx core : Nat) (m : MatCmd) : Option Nat :=
  match m.spoilt with
  | some a => some a
  | none => padBad s ctx core m.scales.1 m.scales.2

/-- The weights of 64 rows and their scale bytes, as mldw loads them (R204). -/
def loadPlane (s : State) (ctx core : Nat) (m : MatCmd) : Plane :=
  let b := m.fb
  let ws := (List.range 64).flatMap fun n =>
    (List.range b.depth).map fun p => (256 * n + p, rowElem b.kindw b.descw (m.rows.getD n []) p)
  let xs := if b.narrow then
      (List.range 64).flatMap fun n => (List.range b.blocks).map fun j =>
        (16 * n + j, (scaleByte s ctx core m (n * b.blocks + j) (b.scalew + n * b.blocks + j)).toNat)
    else []
  { planeOf b with weights := ws, scales := xs }

/-- The accumulation of one tile element over a row of activations and a column of weights (R100 to R102, R205). -/
def accumulate (b : FmtBlock) (pl : Plane) (table : List Nat) (row : List Byte) (n : Nat) (xa : List Nat) (acc : Nat) : Nat :=
  let ch := channel b.perm table
  let a := fun p => rowElem b.kinda b.desca row (ch p)
  let w := fun p => pl.weights.getOr 0 (256 * n + ch p)
  if b.narrow then
    let l := Nr.blockLen b.lcode
    let da := Nr.descOf b.desca
    let dw := Nr.descOf b.descw
    (List.range b.blocks).foldl (fun acc j =>
      let ps := (List.range l).map fun t => (da.decode (a (j * l + t)), dw.decode (w (j * l + t)))
      Nr.accBlock acc ps (Alu.toI true 8 (xa.getD j 0) + Alu.toI true 8 (pl.scales.getOr 0 (16 * n + j)))) acc
  else if Nr.floatKind b.kinda then
    (List.range b.depth).foldl (fun acc p => Nr.accFloat b.kinda b.kindw acc (a p) (w p)) acc
  else (List.range b.depth).foldl (fun acc p => Nr.accInt b.kinda b.kindw acc (a p) (w p)) acc

/-- A tile after an mstream (R205). -/
def streamTile (s : State) (ctx core : Nat) (m : MatCmd) (t : Tile) : Tile :=
  let cc := s.ccOf ctx core
  let b := m.fb
  let elems := (List.range (matRows m.ctl)).foldl (fun es i =>
    let xa := if b.narrow then (List.range b.blocks).map (fun j => (scaleByte s ctx core m (i * b.blocks + j) (b.scalea + i * b.blocks + j)).toNat) else []
    (List.range 64).foldl (fun (es : Tbl Nat) n =>
      let k := 64 * (matTrow m.ctl + i) + n
      let old := if t.valid then t.elems.getOr 0 k else 0
      es.setOr 0 k (accumulate b cc.active cc.perm (m.rows.getD i []) n xa old)) es) (if t.valid then t.elems else [])
  { t with elems := elems, valid := true, dirty := true, isInt := b.isInt }

/-- A tile element converted by mdrain to type `ty` (R206). -/
def drainElem (isInt : Bool) (ty : Nat) (mode : Fl.Mode) (v : Nat) : Nat :=
  if isInt then
    let x := Alu.toI true 64 v
    if ty = 4 then v else if ty = 3 then Alu.sat true 32 x else (Fl.cvtIF (Alu.fmtT ty) mode x).1
  else (Fl.cvtFF Fl.f64 (Alu.fmtT ty) mode v).1

/-- The rows an mdrain appends; bytes of a row beyond its 64 elements are not stated and are free. DESIGN CHOICE (assumption log 43). -/
def drainRows (s : State) (m : MatCmd) (t : Tile) (size : Nat) : List (List Byte) :=
  (List.range (matRows m.ctl)).map fun i =>
    let es := (List.range 64).flatMap fun n =>
      let v := if t.valid then drainElem t.isInt m.ty (Fl.modeOf m.rnd) (t.elems.getOr 0 (64 * (matTrow m.ctl + i) + n)) else 0
      toBytes (tySize m.ty) v
    es ++ (List.range (size - es.length)).map fun k => (s.freeAt (i * 4096 + k)).setWidth 8

/-- A tile with one command fewer in flight. -/
def Tile.land (t : Tile) : Tile := { t with inflight := t.inflight - 1 }

/-- The head of the array order leaves it: its input rows are released, INFLIGHT is cleared, and the handle of a
follow-on goes free (R193, R204), also where a fault has ended it. DESIGN CHOICE (assumption log 85). -/
def leaveArray (s : State) (ctx core : Nat) (m : MatCmd) : State :=
  let s := match m.inBuf with | some b => putCB s ctx core b ((cbOf s ctx core b).release m.claim) | none => s
  let s := s.modCC ctx core fun cc =>
    { cc with array := cc.array.filter (fun d => d.id != m.id),
              tiles := match m.tile with | some t => cc.tiles.modify t Tile.land | none => cc.tiles }
  match m.handle with
  | some h => if (handleOf s ctx core h).state = 3 then completeHandle s ctx core h { handleOf s ctx core h with state := 0 } (.core core) else s
  | none => s

/-- The effect of a matrix command (R204 to R206). -/
def matEffect (s : State) (ctx core : Nat) (m : MatCmd) : State :=
  let cc := s.ccOf ctx core
  let tile := fun (f : Tile → Tile) => s.modCC ctx core fun cc =>
    { cc with tiles := cc.tiles.put (matTile m.ctl) (f (cc.tiles.getOr Tile.reset (matTile m.ctl))) }
  match m.kind with
  | .mldw => s.modCC ctx core fun cc => { cc with shadow := loadPlane s ctx core m }
  | .mswap => s.modCC ctx core fun cc => { cc with active := cc.shadow, shadow := cc.active }
  | .mstream => tile (streamTile s ctx core m)
  | .mclear => tile fun t => { t with valid := false, dirty := false, elems := [] }
  | .mperm => s.modCC ctx core fun cc => { cc with perm := m.table }
  | .mdrain =>
    let b := m.ctl / 2 ^ 12 % 16
    let x := cbOf s ctx core b
    let rows := drainRows s m (cc.tiles.getOr Tile.reset (matTile m.ctl)) x.rowSize
    let s := putCB s ctx core b (rows.foldl (fun x r => x.write m.id r) x)
    let s := s.modCC ctx core fun cc =>
      { cc with tiles := cc.tiles.put (matTile m.ctl)
                  (let t := cc.tiles.getOr Tile.reset (matTile m.ctl)
                   if m.ctl / 8 % 2 = 1 then { t with dirty := false, valid := false, elems := [] } else { t with dirty := false }) }
    { s with freeCtr := s.freeCtr + 1 }

/-- The first command of the array order, where it has fired. -/
def arrayHead (s : State) (ctx core : Nat) : Option MatCmd :=
  match (s.ccOf ctx core).array with
  | m :: _ => if m.fired then some m else none
  | [] => none

/-! ## Routes (R208) -/

/-- The expert with the greatest key among those not taken, the lower index first (R109, R208). -/
def bestExpert (f : Fl.Fmt) (scores : List Nat) (taken : List Nat) : Nat :=
  ((scores.zipIdx.filter (fun (_, e) => !taken.contains e)).foldl (fun (b : Option (Nat × Nat)) (v, e) =>
    match b with
    | none => some (v, e)
    | some (w, d) => if f.key w < f.key v then some (v, e) else some (w, d)) none).elim 0 (·.2)

/-- The k experts of a token, best first. -/
def topK (f : Fl.Fmt) (scores : List Nat) : Nat → List Nat → List Nat
  | 0, taken => taken
  | k + 1, taken => topK f scores k (taken ++ [bestExpert f scores taken])

/-- The k weights of a token (R208): a positive NaN or +∞ in s[0] makes each of them the default NaN. -/
def routeWeights (f : Fl.Fmt) (scores sel : List Nat) : List Nat :=
  let s := sel.map fun e => let v := scores.getD e 0; if f.w = 16 then (Fl.cvtFF f Fl.f32 .rn v).1 else v
  let m := s.headD 0
  let xs := s.map fun v =>
    let d := (Fl.f32.sub .rn v m).1
    let y := (Fl.f32.mul .rn d 0x3FB8AA3B).1
    (Fl.f32.exp2 .rn y).1
  let sum := (xs.drop 1).foldl (fun a x => (Fl.f32.add .rn a x).1) (xs.headD 0)
  if 0x7F800000 ≤ m ∧ m < 0x80000000 then xs.map fun _ => 0x7FC00000
  else xs.map fun x => (Fl.f32.div .rn x sum).1

def putRoute (s : State) (r : RouteCmd) : State :=
  { s with routeQ := s.routeQ.modify (dieOf r.core) (fun q => q.map (fun d => if d.id = r.id then r else d)) }

/-- What is read for a route is the index of a gathered row until that is whole, then the bytes of the score in hand (R189, R208); after
the last token, those of a histogram entry. -/
def RouteCmd.took (r : RouteCmd) (bs : List Byte) : RouteCmd :=
  let p := r.part ++ bs
  if r.score.e 1 ≤ r.next then { r with part := p }
  else if r.score.gather && r.idx.isNone then
    if (r.idxPart ++ bs).length < 4 then { r with idxPart := r.idxPart ++ bs }
    else { r with idx := some (leNat (r.idxPart ++ bs)), idxPart := [] }
  else if r.score.esize ≤ p.length then { r with scores := r.scores ++ [leNat p], part := [], idx := none }
  else { r with part := p }

/-- Bytes of the read that is under way. -/
def RouteCmd.reading (r : RouteCmd) : Nat :=
  if r.score.e 1 ≤ r.next then 1
  else if r.score.gather && r.idx.isNone then idxUnit r.score 0 r.next
  else if r.score.unaligned then 1 else r.score.esize

/-- The next piece of a route: a score, a result word, a histogram entry (R208). An entry that is not aligned and lies behind a window
in part is read byte by byte before its sum is stored. DEDUCED (assumption log 82). -/
def routeStep (s : State) (r : RouteCmd) : Move :=
  let l := r.score
  let e := l.e 0
  let f := if l.esize = 2 then Fl.bf16 else Fl.f32
  let me := Origin.route r.ctx r.core r.id r.snd r.handle
  let store := fun (a v : Nat) (next : RouteCmd) (wide : Bool) =>
    match engWrite s r.ctx r.core r.wid r.image (me a) false a (toBytes 4 v) with
    | .done t n => Move.go (putRoute (t.veil s.writes wide r.core (r.snd / 2 ^ 24)) { next with unacked := next.unacked + n })
    | .bad k d a => Move.bad k d a
  if !r.fired || r.suspended.isSome then .wait
  else if r.next < l.e 1 then
    if r.await then .wait
    else if r.scores.length < e then
      let k := r.next * e + r.scores.length
      let take := fun (x : RouteCmd) bs => Move.go { putRoute s (x.took bs) with freeCtr := s.freeCtr + 1 }
      let far := fun (p w a : Nat) => Move.go ((putRoute s { r with await := true }).sendOp (.load p w r.reading (me a)))
      match elemSrc l [0, 0, 0, 0] k r.idx with
      | .zero => take { r with idx := some 0 } (List.replicate (l.esize - r.part.length) 0)
      | .index =>
        let a := idxAt l 0 r.next r.idxPart.length
        match readIdx s r.ctx r.core l (s.readPoint (sinceAt r.since r.fresh a) 0) 0 r.next r.idxPart.length with
        | .data bs => take r bs
        | .remote p w => far p w a
        | .bad c d a => .bad c d a
      | .at_ a =>
        let a := a + r.part.length
        match engRead s r.ctx r.core (l.skind == 1) (s.readPoint (sinceAt r.since r.fresh a) 0) a r.reading with
        | .data bs => take r bs
        | .remote p w => far p w a
        | .bad c d a => .bad c d a
    else
      let sel := topK f r.scores r.k []
      let j := r.wrote / 2
      let a := 4 * (r.next * r.k + j)
      let next : RouteCmd := { r with wrote := r.wrote + 1, bytes := r.bytes + 4 }
      let next : RouteCmd :=
        if r.wrote + 1 < 2 * r.k then next
        else { next with next := r.next + 1, wrote := 0, scores := [],
                         hist := sel.foldl (fun h x => h.put x (h.getOr 0 x + 1)) r.hist }
      if r.wrote % 2 = 0 then store (r.idxout + a) (sel.getD j 0) next (ctlWide r.ctl)
      else store (r.wout + a) ((routeWeights f r.scores sel).getD j 0) next (ctlWide r.ctl)
  else if r.wrote < e then
    let a := r.histout + 4 * r.wrote
    let n := r.hist.getOr 0 r.wrote
    let next : RouteCmd := { r with wrote := r.wrote + 1, bytes := r.bytes + 4 }
    if !r.hadd then store a n next (ctlWide r.ctl)
    else
      match engRead s r.ctx r.core false s.writes a 4 with
      | .data _ => store a ((leNat (bytesNow s r.ctx a 4) + n) % 2 ^ 32) next true
      | .remote p w =>
        if a % 4 = 0 then
          match engWrite s r.ctx r.core r.wid r.image (me a) false a [] with
          | .bad c d a => .bad c d a
          | _ => .go ((putRoute s { next with unacked := next.unacked + 1 }).sendOp (.atomic p 4 0x20 7 [(w, n, 0)] (me a)))
        else if r.await then .wait
        else if r.part.length < 4 then
          let b := a + r.part.length
          match engRead1 s r.ctx r.core false s.writes b 1 with
          | .data _ => .go (putRoute s (r.took (bytesNow s r.ctx b 1)))
          | .remote p w => .go ((putRoute s { r with await := true }).sendOp (.load p w 1 (me b)))
          | .bad c d b => .bad c d b
        else store a ((leNat r.part + n) % 2 ^ 32) { next with part := [] } true
      | .bad c d a => .bad c d a
  else .done

/-- A route leaves its engine with its handle full (R208, R185). -/
def leaveRoute (s : State) (r : RouteCmd) (err : Nat) : State :=
  let s := { s with routeQ := s.routeQ.modify (dieOf r.core) (fun q => q.filter (fun d => d.id != r.id)) }
  completeHandle s r.ctx r.core r.handle { state := 2, bytes := r.bytes, err := err } (.route (dieOf r.core))

/-- Up to `n` pieces of the first route of a die, and its completion. -/
def runRoute (s : State) (die : Nat) : Nat → State
  | 0 => s
  | n + 1 =>
    match s.routeQ.getOr [] die with
    | [] => s
    | r :: _ =>
      match routeStep s r with
      | .go t => runRoute t die n
      | .done => if ctlRel r.ctl && ctlScope r.ctl == 2 && r.unacked != 0 then s else leaveRoute s r 0
      | _ => s

/-! ## Faults after issue (R185) -/

/-- The record of a fault met by an engine: replayable where a page is missing or not permitted, none where it has no
room (R185, R395). -/
def engineRecord (s : State) (ctx core unit snd cause handle addr detail : Nat) : Option State :=
  if cause = 0x1B then
    let h : RecHdr := { type := 2, fatal := false, replay := true, snd := snd % 2 ^ 24, core := core, unit := unit, why := 0,
                        token := s.nextToken + 1 }
    (putRecord s ctx h (engineBody cause handle 0 addr detail)).map fun t => { t with nextToken := t.nextToken + 1 }
  else some (noteRecord s ctx (infoHdr 3 unit core (snd % 2 ^ 24)) (engineBody cause handle 0 addr detail))

/-- A copy meets a fault: it is suspended, or ended with ERR 1; a revoked key halts the context (R185). -/
def faultCopy (s : State) (ctx core : Nat) (c : CopyCmd) (cause detail addr : Nat) : State :=
  if cause = 0x53 then haltRevoked s ctx (c.snd % 2 ^ 24) core 1 addr
  else
  match engineRecord s ctx core 1 c.snd cause c.handle addr detail with
  | none => s
  | some t =>
    if cause = 0x1B then putCopy t ctx core { c with suspended := some t.nextToken }
    else endCopy t ctx core c 1

/-- A route meets a fault. -/
def faultRoute (s : State) (r : RouteCmd) (cause detail addr : Nat) : State :=
  if cause = 0x53 then haltRevoked s r.ctx (r.snd % 2 ^ 24) r.core 3 addr
  else
  match engineRecord s r.ctx r.core 3 r.snd cause r.handle addr detail with
  | none => s
  | some t => if cause = 0x1B then putRoute t { r with suspended := some t.nextToken } else leaveRoute t r 1

/-- A matrix command meets an uncorrectable error: its tile stays as it was, its input rows are released, its output rows
become present filled with zero bytes (R185). -/
def faultArray (s : State) (ctx core : Nat) (m : MatCmd) (addr : Nat) : State :=
  let s := noteRecord s ctx (infoHdr 3 2 core (m.snd % 2 ^ 24)) (engineBody 0x50 (m.handle.getD 0) 0 addr (nackDetail 0 0 true false))
  let s := match m.outBuf with | some b => putCB s ctx core b ((cbOf s ctx core b).close m.id) | none => s
  leaveArray s ctx core m

/-- Where the access in hand of a copy goes: whether to scratchpad, its address, and whether it writes; none where the element
comes from or goes to a buffer, a register file or nowhere. -/
def copyAt (c : CopyCmd) : Option (Bool × Nat × Bool) :=
  let l := c.lay
  let (i0, i1, i2, i3) := l.index c.next
  if l.esize ≤ c.part.length then
    if l.dkind ≤ 1 then some (l.dkind == 1, l.dstAddr i0 i1 i2 i3 + c.wrote, true) else none
  else if l.skind = 2 then none
  else
    match elemSrc l c.coord c.next c.idx with
    | .zero => none
    | .index => some (l.isp, idxAt l (c.coord.getD 1 0) i1 c.idxPart.length, false)
    | .at_ a => some (l.skind == 1, a + c.part.length, false)

/-- Likewise of a route. -/
def routeAt (r : RouteCmd) : Option (Bool × Nat × Bool) :=
  let l := r.score
  let e := l.e 0
  if r.next < l.e 1 then
    if r.scores.length < e then
      match elemSrc l [0, 0, 0, 0] (r.next * e + r.scores.length) r.idx with
      | .zero => none
      | .index => some (l.isp, idxAt l 0 r.next r.idxPart.length, false)
      | .at_ a => some (l.skind == 1, a + r.part.length, false)
    else some (false, (if r.wrote % 2 = 0 then r.idxout else r.wout) + 4 * (r.next * r.k + r.wrote / 2), true)
  else some (false, r.histout + 4 * r.wrote, true)

/-- The line that an engine accesses holds an uncorrectable error from now on (R307). -/
def poisonAt (s : State) (ctx core : Nat) (sp : Bool) (a : Nat) (wr : Bool) : State :=
  if sp then poisonLoc s ctx core (.sp a)
  else match translate s ctx a (!wr) wr with | .ok l => poisonLoc s ctx core l | .fail _ => s

/-! ## Answers to engine accesses through windows -/

/-- A store of a command that has completed without a release is refused at its target: the record stands without the command
(R183, R185). -/
def lateFault (s : State) (ctx core unit snd handle va pkg : Nat) (r : Reply) : State :=
  let note := fun w => noteRecord s ctx (infoHdr 3 unit core (snd % 2 ^ 24)) (engineBody 0x51 handle 0 va (memDetail s ctx false va pkg w false true))
  match r with
  | .nack w => note w
  | .ue => note 3
  | _ => s

/-- The answer to a copy's load or store through a window (R161, R185). -/
def answerCopy (s : State) (ctx core id snd handle va pkg : Nat) (load : Bool) (r : Reply) : State :=
  match (s.ccOf ctx core).copies.find? (fun c => c.id == id) with
  | none => if load then s else lateFault s ctx core 1 snd handle va pkg r
  | some c =>
    let bad := fun w => faultCopy s ctx core c 0x51 (memDetail s ctx false va pkg w load (!load)) va
    match r, load with
    | .ok v, true => putCopy s ctx core { c.took (toBytes c.reading v) with await := false }
    | .ok _, false => putCopy s ctx core { c with unacked := c.unacked - 1 }
    | .nack w, _ => bad w
    | .ue, _ => bad 3
    | .retry, _ => s

/-- The answer to a route's load, store or atomic through a window. -/
def answerRoute (s : State) (ctx core id snd handle va pkg : Nat) (load : Bool) (r : Reply) : State :=
  match (s.routeQ.getOr [] (dieOf core)).find? (fun c => c.id == id) with
  | none => if load then s else lateFault s ctx core 3 snd handle va pkg r
  | some c =>
    let bad := fun w => faultRoute s c 0x51 (memDetail s ctx false va pkg w load (!load)) va
    match r, load with
    | .ok v, true => putRoute s { c.took (toBytes c.reading v) with await := false }
    | .ok _, false => putRoute s { c with unacked := c.unacked - 1 }
    | .nack w, _ => bad w
    | .ue, _ => bad 3
    | .retry, _ => s

/-! ## The events -/

/-- ENGINE_COMMAND_FIRE: unit 0 the copy engine of a core, 1 its array, 2 the routing engine of die `core`, 3 a waiting
cbpop (R198). -/
def execEEngineCommandFire (ctx core unit : Nat) (s : State) : Out :=
  .next (match unit with
    | 0 => fireCopy s ctx core
    | 1 => fireArray s ctx core
    | 2 => fireRoute s core
    | _ => firePop s ctx core)

/-- COPY_LAST_BYTE: up to `n` pieces of a copy are moved, and where its last byte has landed it completes (R192). -/
def execECopyLastByte (ctx core id n : Nat) (s : State) : Out := .next (runCopy s ctx core id n)

/-- ARRAY_COMMAND_COMPLETE: the first command of the array order, once fired, has its effect (R200, R204 to R206). -/
def execEArrayCommandComplete (ctx core : Nat) (s : State) : Out :=
  .next (match arrayHead s ctx core with
    | none => s
    | some m =>
      match badScale s ctx core m with
      | some a => faultArray s ctx core m a
      | none => leaveArray (matEffect s ctx core m) ctx core m)

/-- ARRAY_TRANSIENT_ERROR: the command is executed again from its retained operands, and the retry is counted (R103,
R421). -/
def execEArrayTransientError (ctx core : Nat) (s : State) : Out :=
  .next (match arrayHead s ctx core with
    | none => s
    | some m => countError (putMat s ctx core { m with retries := m.retries + 1 }) arrayRetries)

/-- ROUTE_COMPLETE: up to `n` pieces of the first route of a die, and its completion (R208). -/
def execERouteComplete (die n : Nat) (s : State) : Out := .next (runRoute s die n)

/-- ENGINE_ACCESS_FAULT: the next access of a command faults, or with `ue` meets an uncorrectable error (R185, R307). -/
def execEEngineAccessFault (ctx core unit id : Nat) (ue : Bool) (s : State) : Out :=
  .next (match unit with
    | 0 =>
      match (s.ccOf ctx core).copies.find? (fun c => c.id == id) with
      | none => s
      | some c =>
        match copyStep s ctx core c with
        | .bad k d a => faultCopy s ctx core c k d a
        | .go _ =>
          if ue then
            match copyAt c with
            | some (sp, a, wr) => faultCopy (poisonAt s ctx core sp a wr) ctx core c 0x50 (memDetail s ctx sp a 0 0 (!wr) wr) a
            | none => if c.lay.skind = 2 ∨ c.lay.dkind = 2 then faultCopy s ctx core c 0x50 (nackDetail 0 0 true false) 0 else s
          else s
        | _ => s
    | 1 =>
      match arrayHead s ctx core with
      | some m =>
        if ue then
          if m.scales.2 = 0 then faultArray s ctx core m 0
          else faultArray (poisonLoc s ctx core (.sp m.scales.1)) ctx core m m.scales.1
        else s
      | none => s
    | _ =>
      match s.routeQ.getOr [] core with
      | [] => s
      | r :: _ =>
        match routeStep s r with
        | .bad k d a => faultRoute s r k d a
        | .go _ =>
          if ue then
            match routeAt r with
            | some (sp, a, wr) => faultRoute (poisonAt s r.ctx r.core sp a wr) r 0x50 (memDetail s r.ctx sp a 0 0 (!wr) wr) a
            | none => s
          else s
        | _ => s)

/-- HWAIT_RETURN: a gang that stands at an hwait goes on where the handle's state is in its set (R196). -/
def execEHwaitReturn (ctx core slot slices : Nat) (s : State) : Out :=
  match s.snd? ctx core slot with
  | none => .next s
  | some x =>
    let w := laneWordAt s ctx x (x.slices.getOr Slice.reset (lowSlice slices)).pc
    if x.running && mayWake s ctx core x && w / 2 ^ 80 == 0x3500 &&
        (List.range 24).all (fun i => !sliceBit slices i || ((x.slices.getOr Slice.reset i).pc == (x.slices.getOr Slice.reset (lowSlice slices)).pc && !(x.slices.getOr Slice.reset i).done)) then
      match execVHwait (laneRof w) { s with cur := .lane ctx core slot slices } with
      | .next t => .next { t with cur := s.cur }
      | r => r
    else .next s

end Sys2Proof.Machine
end

