-- ==== Sys2Proof/Machine/Mcf.lean ====
section
/-! DEFINITION. The port engine as a processor (chapter 09): the state of a thread (R240), its instances (R243), every MCF
instruction (R247 to R256), program errors (R258), and the timeout of a match (R249). -/

namespace Sys2Proof.Machine

open Sys2Proof

/-! ## The entry of a thread (R241, R324) -/

namespace CollEntry

/-- S and CHUNKS. -/
def S (e : CollEntry) : Nat := e.rows.length
def chunks (e : CollEntry) : Nat := (e.length + e.cb - 1) / e.cb
/-- Bytes of chunk c: the last one may be short. -/
def clen (e : CollEntry) (c : Nat) : Nat := min e.cb (e.length - c * e.cb)
/-- Bytes of an element, and whether member m is on a package. -/
def esize (e : CollEntry) : Nat := if e.wide then 4 else 2
def localTo (e : CollEntry) (pkg m : Nat) : Bool := decide (m < e.S) && (e.row m).pkg == pkg
/-- The local member mask (Table 2 of 09). -/
def localMask (e : CollEntry) (pkg : Nat) : Nat :=
  (List.range e.S).foldl (fun a m => if (e.row m).pkg = pkg then a + 2 ^ m else a) 0
/-- Members excluded at a port (R354). -/
def excluded (e : CollEntry) (port m : Nat) : Bool := e.xmask.getOr 0 port / 2 ^ m % 2 == 1
def isAbsent (e : CollEntry) (m : Nat) : Bool := e.absent / 2 ^ m % 2 == 1

/-- A bf16 code widened to f32 (R241); a signalling NaN comes out quiet (R85). -/
def widen16 (a b : Byte) : Nat := (Fl.cvtFF Fl.bf16 Fl.f32 .rn (leNat [a, b])).1

/-- The whole elements of a chunk's bytes as f32 codes: bf16 is widened (R241). -/
def widen (e : CollEntry) : List Byte → List Nat
  | a :: b :: c :: d :: r => if e.wide then leNat [a, b, c, d] :: widen e r else widen16 a b :: widen16 c d :: widen e r
  | [a, b] => if e.wide then [] else [widen16 a b]
  | [a, b, _] => if e.wide then [] else [widen16 a b]
  | _ => []

/-- f32 codes as bytes of the element type, a bf16 result rounded once under .rn (R108, R241). -/
def narrow (e : CollEntry) (vs : List Nat) : List Byte :=
  vs.flatMap fun v => if e.wide then toBytes 4 v else toBytes 2 (Fl.cvtFF Fl.f32 Fl.bf16 .rn v).1

end CollEntry

/-- The operation of fold and comb on f32 codes: sum, min, max (R253). -/
def combine (op a b : Nat) : Nat :=
  match op with
  | 0 => (Fl.f32.add .rn a b).1
  | 1 => (Fl.f32.minmax false a b).1
  | _ => (Fl.f32.minmax true a b).1

namespace Thread

/-- x0 reads 0 and discards writes. -/
def reg (t : Thread) (r : BitVec 4) : Word := if r = 0 then 0 else t.x.getOr 0 r.toNat
def setReg (t : Thread) (r : BitVec 4) (v : Word) : Thread := if r = 0 then t else { t with x := t.x.setOr 0 r.toNat v }
def adv (t : Thread) : Thread := { t with pc := t.pc + 1 }

/-- A chunk's state: at the start of an instance cleared, with ABSENT set for the members excluded at the port and for
those made absent before (R240, R333, R354). -/
def chunk (t : Thread) (e : CollEntry) (port c : Nat) : Chunk :=
  t.chunks.getOr { Chunk.reset with absent := BitVec.ofNat 64 (Alu.orN (e.xmask.getOr 0 port) e.absent) } c
def setChunk (t : Thread) (c : Nat) (x : Chunk) : Thread := { t with chunks := t.chunks.put c x }
def emptyPk (t : Thread) (n : Nat) : Thread := { t with pk := t.pk.del n }

/-- A thread at word 0 of an instance (R240, Table 2 of 09), its receive queue what the overflow area held (R243). -/
def start (e : CollEntry) (pkg inst : Nat) (rq : List Packet) : Thread :=
  let x : Tbl Word := [(1, inst), (2, e.S), (3, e.chunks), (4, e.cb), (5, e.localMask pkg)].foldl
    (fun (a : Tbl Word) p => Tbl.setOr a 0 p.1 (BitVec.ofNat 64 p.2)) []
  { Thread.reset with inst := inst, rq := rq, x := x }

end Thread

/-! ## Instances (R243, R247, R258) -/

/-- The entry keeps no staging of an instance that all its threads have ended, and buddy copies of the current and the
previous instance only (R257, R326). -/
def pruneEntry (s : State) (ctx cid inst : Nat) : State :=
  match s.entry? ctx cid with
  | none => s
  | some e =>
    let past := fun i => e.ports.all (fun p => match s.thread? p ctx cid with | some t => laterInst i t.inst | none => true)
    let old := fun i => laterInst i inst && i != (inst + 2 ^ 32 - 1) % 2 ^ 32
    s.modEntry ctx cid (fun e => { e with staging := e.staging.filter (fun g => !past (g.1 % 2 ^ 32)),
                                          ended := e.ended.filter (fun p => !past p.2.inst),
                                          store := e.store.filter (fun b => !old b.2.2.1) })

/-- A thread gives up the window load of a source chunk that is on its way: its answer goes nowhere. -/
def dropLoad (s : State) (port ctx cid : Nat) : State :=
  let mine := fun p : Pending => match p.msg with
    | .load _ _ _ (.thread q c k _ _ _) => q == port && c == ctx && k == cid
    | _ => false
  { s with pend := s.pend.filter (fun e => !mine e.2) }

/-- The next instance of a thread starts (R240, R243). -/
def nextInstance (s : State) (port ctx cid : Nat) (e : CollEntry) (t : Thread) : State :=
  let s := dropLoad s port ctx cid
  let n := (t.inst + 1) % 2 ^ 32
  pruneEntry (s.putThread port ctx cid (Thread.start e s.plat.pkgid n t.overflow)) ctx cid n

/-- A member has arrived in an instance of a thread, or counts as arrived because it is absent (R256, R257). DEDUCED (assumption log 48). -/
def arrivedIn (e : CollEntry) (t : Thread) (m : Nat) : Bool :=
  e.isAbsent m || t.arrived.contains m || laterInst t.inst (e.part m).inst

/-- Body of an MCF program error record (Table 7 of 20). -/
def mcfErrorBody (e : CollEntry) (cid : Nat) (t : Thread) : Nat :=
  t.pc % 2 ^ 12 + e.prog.getD t.pc 0 * 2 ^ 64 + cid % 2 ^ 12 * 2 ^ 128 + t.inst * 2 ^ 192

/-- A program error (R258): the record, an arrival with status 0x08 for each local member that has not arrived — at once
where it has started the instance or is a storing member, whose row names its barrier (R324, R328), else when it starts it —
and the next instance. -/
def progError (s : State) (port ctx cid : Nat) (e : CollEntry) (t : Thread) : State :=
  let s := noteRecord s ctx (infoHdr 7 4 0 0) (mcfErrorBody e cid t)
  let st := if e.absent = 0 then 8 else 9
  let left := (membersOn e s.plat.pkgid).filter (fun m => !arrivedIn e t m)
  let s := left.foldl (fun s m =>
    if (e.part m).inst == t.inst && (e.part m).started then partDone s ctx cid m st port
    else if (e.part m).inst == t.inst && storingMember e m then
      settleOwed (arriveFor s ctx cid m st (e.row m).bar port (e.part m)) ctx cid m
    else s.modEntry ctx cid (fun e => { e with parts := e.parts.put m { e.part m with owed := t.inst :: (e.part m).owed } })) s
  nextInstance s port ctx cid e t

/-- A fault met by a thread's access for a member: a type-3 record in the trap queue of the member's context, and a
program error (R252, R255). -/
def threadFault (s : State) (port ctx cid : Nat) (e : CollEntry) (t : Thread) (m cause detail addr : Nat) : State :=
  let p := (e.partAt m t.inst).getD (e.part m)
  let s := noteRecord s ctx (infoHdr 3 4 p.core (p.snd % 2 ^ 24)) (engineBody cause 0 0 addr detail)
  progError s port ctx cid e t

/-! ## One word of a thread -/

/-- What a word does: the thread goes on as given, in a state, or stays at the word, or meets a program error. -/
inductive McfRes where
  | next (s : State) (t : Thread)
  | wait (s : State) (t : Thread)
  | error (s : State)
  | fault (s : State) (m cause detail addr : Nat)

/-- Run a word on the current thread; a fault that an answer has brought comes first. -/
def mcfStep (s : State) (f : Nat → Nat → Nat → CollEntry → Thread → McfRes) : Out :=
  match s.cur with
  | .mcf port ctx cid =>
    match s.entry? ctx cid, s.thread? port ctx cid with
    | some e, some t =>
      .next (match t.failed with
        | some (c, d, a, m) => threadFault s port ctx cid e t m c d a
        | none =>
          match f port ctx cid e t with
          | .next s t => s.putThread port ctx cid t
          | .wait s t => s.putThread port ctx cid t
          | .error s => progError s port ctx cid e t
          | .fault s m c d a => threadFault s port ctx cid e t m c d a)
    | _, _ => .fault .noParty
  | _ => .fault .noParty

/-- A register result (R247). -/
def mcfReg (s : State) (d : BitVec 4) (v : Thread → Word) : Out :=
  mcfStep s fun _ _ _ _ t => .next s (t.setReg d (v t)).adv

/-- li (R247). -/
def execMLi (d : BitVec 4) (imm : BitVec 32) (s : State) : Out := mcfReg s d fun _ => imm.signExtend 64
/-- addi (R247). -/
def execMAddi (d a : BitVec 4) (imm : BitVec 32) (s : State) : Out := mcfReg s d fun t => t.reg a + imm.signExtend 64
/-- add (R247). -/
def execMAdd (d a b : BitVec 4) (s : State) : Out := mcfReg s d fun t => t.reg a + t.reg b
/-- sub (R247). -/
def execMSub (d a b : BitVec 4) (s : State) : Out := mcfReg s d fun t => t.reg a - t.reg b
/-- and (R247). -/
def execMAnd (d a b : BitVec 4) (s : State) : Out := mcfReg s d fun t => t.reg a &&& t.reg b
/-- or (R247). -/
def execMOr (d a b : BitVec 4) (s : State) : Out := mcfReg s d fun t => t.reg a ||| t.reg b
/-- xor (R247). -/
def execMXor (d a b : BitVec 4) (s : State) : Out := mcfReg s d fun t => t.reg a ^^^ t.reg b
/-- shl by xb[5:0] (R247). -/
def execMShl (d a b : BitVec 4) (s : State) : Out := mcfReg s d fun t => t.reg a <<< ((t.reg b).toNat % 64)
/-- shr by xb[5:0] (R247). -/
def execMShr (d a b : BitVec 4) (s : State) : Out := mcfReg s d fun t => t.reg a >>> ((t.reg b).toNat % 64)
/-- minn: the smaller as unsigned numbers (R247). -/
def execMMinn (d a b : BitVec 4) (s : State) : Out :=
  mcfReg s d fun t => if (t.reg b).toNat < (t.reg a).toNat then t.reg b else t.reg a

/-- A branch: to PC + the offset where the condition holds, else on (R248). -/
def mcfBranch (s : State) (off : BitVec 32) (cond : Thread → Bool) : Out :=
  mcfStep s fun _ _ _ _ t =>
    .next s (if cond t then { t with pc := (BitVec.ofNat 64 t.pc + off.signExtend 64).toNat } else t.adv)

/-- b.al (R248). -/
def execMBAl (off : BitVec 32) (s : State) : Out := mcfBranch s off fun _ => true
/-- b.eq (R248). -/
def execMBEq (a b : BitVec 4) (off : BitVec 32) (s : State) : Out := mcfBranch s off fun t => t.reg a == t.reg b
/-- b.ne (R248). -/
def execMBNe (a b : BitVec 4) (off : BitVec 32) (s : State) : Out := mcfBranch s off fun t => t.reg a != t.reg b
/-- b.ltn (R248). -/
def execMBLtn (a b : BitVec 4) (off : BitVec 32) (s : State) : Out := mcfBranch s off fun t => (t.reg a).ult (t.reg b)
/-- b.gen (R248). -/
def execMBGen (a b : BitVec 4) (off : BitVec 32) (s : State) : Out := mcfBranch s off fun t => !(t.reg a).ult (t.reg b)
/-- b.lt (R248). -/
def execMBLt (a b : BitVec 4) (off : BitVec 32) (s : State) : Out := mcfBranch s off fun t => (t.reg a).slt (t.reg b)
/-- b.ge (R248). -/
def execMBGe (a b : BitVec 4) (off : BitVec 32) (s : State) : Out := mcfBranch s off fun t => !(t.reg a).slt (t.reg b)

/-! ## Packets (R249 to R251) -/

/-- The first packet of a queue whose kind is in a mask, with the queue without it. -/
def takeKind (kinds : BitVec 5) : List Packet → Option (Packet × List Packet)
  | [] => none
  | p :: r =>
    if kinds.getLsbD p.kind then some (p, r)
    else match takeKind kinds r with
      | some (q, r') => some (q, p :: r')
      | none => none

/-- The packets that a match in progress may take: once it has timed out, those that came in time (R249). -/
def Thread.inTime (t : Thread) : List Packet := match t.cut with | some n => t.rq.take n | none => t.rq

/-- A match ends with xd := `v`. -/
def Thread.matched (t : Thread) (d : BitVec 4) (v : Word) : Thread := ({ t with matchEnd := none, cut := none }.setReg d v).adv

/-- match (R249): it takes the oldest packet of an accepted kind; while there is none it waits, its timeout counted from
its start. -/
def execMMatch (d : BitVec 4) (pk : BitVec 2) (kinds : BitVec 5) (tmo : BitVec 32) (s : State) : Out :=
  mcfStep s fun _ _ _ _ t =>
    if (t.pk.find pk.toNat).isSome then .error s
    else
      match takeKind kinds t.inTime with
      | some (p, r) =>
        let rest := r ++ (match t.cut with | some n => t.rq.drop n | none => [])
        .next s ({ t with rq := rest, pk := t.pk.put pk.toNat { pkt := p, fresh := false } }.matched d 0)
      | none =>
        if tmo = 0 ∨ t.matchEnd.isSome then .wait s t else .wait s { t with matchEnd := some (s.cycle + 64 * tmo.toNat) }

/-- MATCH_TIMEOUT: the time of a match in progress has passed with no packet (R249). The thread's word says which match it
is. -/
def execEMatchTimeout (port ctx cid : Nat) (s : State) : Out :=
  .next (match s.entry? ctx cid, s.thread? port ctx cid with
    | some e, some t =>
      let w := e.prog.getD t.pc 0
      match t.matchEnd with
      | some due =>
        if w / 2 ^ 56 = 5 ∧ due ≤ s.cycle ∧ (takeKind (BitVec.ofNat 5 (w / 2 ^ 32)) t.inTime).isNone then
          s.putThread port ctx cid (t.matched (BitVec.ofNat 4 (w / 2 ^ 52)) 1)
        else s
      | none => s
    | _, _ => s)

/-- A word that names a packet register: an empty one is a program error (R250). -/
def withPk (s : State) (pk : BitVec 2) (f : Nat → Nat → Nat → CollEntry → Thread → PkReg → McfRes) : Out :=
  mcfStep s fun port ctx cid e t =>
    match t.pk.find pk.toNat with
    | none => .error s
    | some k => f port ctx cid e t k

/-- The transport's answer to a packet (R243, R250). -/
def ackPacket (s : State) (p : Packet) (retry : Bool) : State := s.emit (.answer p.srcpkg (if retry then 1 else 0) 0 [])

/-- rdh (R250, Table 3 of 09). -/
def execMRdh (d : BitVec 4) (pk : BitVec 2) (f : BitVec 3) (s : State) : Out :=
  withPk s pk fun _ _ _ _ t k =>
    let v := match f.toNat with
      | 0 => k.pkt.member
      | 1 => k.pkt.chunk
      | 2 => k.pkt.inst
      | 3 => k.pkt.kind
      | 4 => k.pkt.payload.length
      | 5 => k.pkt.srcpkg
      | _ => if k.fresh then 1 else 0
    .next s (t.setReg d (BitVec.ofNat 64 v)).adv

/-- A member's part of a thread's instance, once the member has started it, and also when another port's thread has made its
arrival: everything that waits for its cstart waits for this (R209, R327). -/
def startedIn (e : CollEntry) (t : Thread) (m : Nat) : Bool := (e.partAt m t.inst).isSome
def CollEntry.partOf (e : CollEntry) (t : Thread) (m : Nat) : Part := (e.partAt m t.inst).getD (e.part m)

/-- rdm (R250): fields 3 to 5 of a local member wait for its start, and read 0 of an absent one (R257). -/
def execMRdm (d a : BitVec 4) (f : BitVec 3) (s : State) : Out :=
  mcfStep s fun _ _ _ e t =>
    let m := (t.reg a).toNat
    let put := fun v => McfRes.next s (t.setReg d (BitVec.ofNat 64 v)).adv
    if e.S ≤ m then .error s
    else
      match f.toNat with
      | 0 => put (e.row m).pkg
      | 1 => put (if e.localTo s.plat.pkgid m then 1 else 0)
      | 2 => put (e.row m).buddy
      | k =>
        if !e.localTo s.plat.pkgid m then .error s
        else if e.isAbsent m then put 0
        else if !startedIn e t m then .wait s t
        else put (match k with | 3 => (e.partOf t m).src | 4 => (e.partOf t m).dst | _ => (e.partOf t m).bar)

/-- mark (R250, R251). -/
def execMMark (d : BitVec 4) (pk : BitVec 2) (s : State) : Out :=
  withPk s pk fun port _ _ e t k =>
    let c := t.chunk e port k.pkt.chunk
    let old := c.bits.getLsbD k.pkt.member
    let t := t.setChunk k.pkt.chunk { c with bits := c.bits ||| ((1 : BitVec 64) <<< k.pkt.member) }
    let t := if old then t else { t with pk := t.pk.put pk.toNat { k with fresh := true } }
    .next s (t.setReg d (if old then 1 else 0)).adv

/-- A packet is discarded and counted as a duplicate, unless its member is excluded at the port (R250, R254, R354). -/
def discardDuplicate (s : State) (port : Nat) (e : CollEntry) (p : Packet) : State :=
  let s := ackPacket s p false
  if e.excluded port p.member then s else s.modPort port (fun x => { x with duplicate := x.duplicate + 1 })

/-- hold (R250). DEDUCED (assumption log 53). -/
def execMHold (pk : BitVec 2) (s : State) : Out :=
  withPk s pk fun port _ _ e t k =>
    let m := k.pkt.member
    let c := t.chunk e port k.pkt.chunk
    let bit := (1 : BitVec 64) <<< m
    let t' := (t.emptyPk pk.toNat).adv
    if 2 ≤ k.pkt.kind then .error s
    else if !k.fresh then .next (discardDuplicate s port e k.pkt) t'
    else if c.absent.getLsbD m then .next (ackPacket s k.pkt false) t'
    else if Config.holdDepth + 3 ≤ c.hold.length then .next (ackPacket s k.pkt true) (t'.setChunk k.pkt.chunk { c with bits := c.bits &&& ~~~bit })
    else .next (ackPacket s k.pkt false) (t'.setChunk k.pkt.chunk { c with held := c.held ||| bit, hold := c.hold.put m k.pkt.payload })

/-- drop (R250). -/
def execMDrop (pk : BitVec 2) (s : State) : Out :=
  withPk s pk fun _ _ _ _ t k => .next (ackPacket s k.pkt false) (t.emptyPk pk.toNat).adv

/-! ## Combining (R252 to R254) -/

/-- Chunk `c` of a member's staging is ready (R326). -/
def stagedReady (e : CollEntry) (m inst c : Nat) : Bool :=
  match e.staging.find (stageKey m inst) with
  | none => false
  | some g => g.released.contains c || (List.range (e.clen c)).all (fun i => g.bytes.any (·.1 == c * e.cb + i))

/-- What a read of a member's source chunk comes to: its bytes; a read under way, with the thread it leaves; or a fault. -/
inductive SrcRes where
  | data (bs : List Byte)
  | wait (s : State) (t : Thread)
  | bad (cause detail addr : Nat)

/-- Read on through a source chunk in memory, `n` bytes from `a`, after the bytes already read. -/
def readOn (s : State) (port ctx cid m core since : Nat) (t : Thread) (a : Nat) : Nat → List Byte → SrcRes
  | 0, got => .data got
  | n + 1, got =>
    match engRead1 s ctx core false (s.readPoint since got.length) (a + got.length) 1 with
    | .data bs => readOn s port ctx cid m core since t a n (got ++ bs)
    | .remote p w => .wait (s.sendOp (.load p w 1 (.thread port ctx cid m t.inst (a + got.length)))) { t with got := got, await := true }
    | .bad k d a => .bad k d a

/-- A local member's chunk: from its staging once it is ready (R326), else from its source under its ACQ (R252, R183). -/
def readSource (s : State) (port ctx cid : Nat) (e : CollEntry) (t : Thread) (m c : Nat) : SrcRes :=
  let p := e.partOf t m
  if e.win.isSome then
    match e.staging.find (stageKey m t.inst) with
    | some g =>
      if stagedReady e m t.inst c then .data ((List.range (e.clen c)).map fun i => g.bytes.getOr 0 (c * e.cb + i)) else .wait s t
    | none => .wait s t
  else if t.await || !acqMet s ctx p.core p.snd p.slices p.after (ctlScope p.ctl == 2) then .wait s t
  else readOn s port ctx cid m p.core (if ctlAcq p.ctl then s.writes else p.since) t (p.src + c * e.cb) (e.clen c - t.got.length) t.got

/-- stream (R252): a member made absent is passed over; an excluded one is a program error (R354). -/
def execMStream (a b : BitVec 4) (s : State) : Out :=
  mcfStep s fun port ctx cid e t =>
    let m := (t.reg a).toNat
    let c := (t.reg b).toNat
    if e.S ≤ m ∨ e.chunks ≤ c ∨ !e.localTo s.plat.pkgid m ∨ e.excluded port m then .error s
    else if e.isAbsent m then .next (dropLoad s port ctx cid) { t with got := [], await := false }.adv
    else if !startedIn e t m then .wait s t
    else
      let x := t.chunk e port c
      if x.bits.getLsbD m then .next (s.modPort port (fun y => { y with duplicate := y.duplicate + 1 })) t.adv
      else
        match readSource s port ctx cid e t m c with
        | .data bs =>
          let bit := (1 : BitVec 64) <<< m
          .next s ({ t with got := [] }.setChunk c { x with bits := x.bits ||| bit, held := x.held ||| bit, hold := x.hold.put m bs }).adv
        | .wait s t => .wait s t
        | .bad k d ad => .fault s m k d ad

/-- The positions of the contribution of member `m`; where its payload is shorter than the chunk the rest is not stated and is free,
the same for equal inputs (R331). DESIGN CHOICE (assumption log 43). -/
def contribution (e : CollEntry) (m c : Nat) (bs : List Byte) : List Nat :=
  let v := e.widen bs
  (List.range (e.clen c / e.esize)).map fun i => v.getD i ((Config.padding (1 :: m :: c :: i :: bs.map (·.toNat))).toNat % 2 ^ 32)

/-- The loop of R253: members from NEXT up that are held or absent are folded or passed over; also the members folded. -/
def foldFrom (e : CollEntry) (op c : Nat) : Nat → Chunk → List Nat → Chunk × List Nat
  | 0, x, ms => (x, ms)
  | n + 1, x, ms =>
    if x.held.getLsbD x.next then
      let v := contribution e x.next c (x.hold.getOr [] x.next)
      let acc := if x.folded then (x.acc.zip v).map (fun (p, q) => combine op p q) else v
      foldFrom e op c n { x with acc := acc, folded := true, hold := x.hold.del x.next,
                                   held := x.held &&& ~~~((1 : BitVec 64) <<< x.next), next := x.next + 1 } (x.next :: ms)
    else if x.absent.getLsbD x.next then foldFrom e op c n { x with next := x.next + 1 } ms
    else (x, ms)

/-- The thread of a port has folded or combined a chunk of a member's staging, which is released once every port engine that runs the
program and does not exclude the member has done so (R326, R354). DEDUCED (assumption log 52). -/
def Stage.take (g : Stage) (e : CollEntry) (m port c : Nat) : Stage :=
  let taken := (64 * c + port) :: g.taken
  if e.ports.all (fun p => taken.contains (64 * c + p) || e.excluded p m) then
    { g with taken := taken, bytes := g.bytes.filter (fun b => b.1 / e.cb != c), released := c :: g.released }
  else { g with taken := taken }

/-- The chunk `c` of some members that a thread has folded or combined. -/
def releaseStaged (s : State) (port ctx cid : Nat) (e : CollEntry) (inst c : Nat) (ms : List Nat) : State :=
  if e.win.isNone then s
  else
    s.modEntry ctx cid (fun e => { e with staging := ms.foldl (fun g m => g.modify (stageKey m inst) (·.take e m port c)) e.staging })

/-- fold (R253). -/
def mcfFold (op : Nat) (d b : BitVec 4) (s : State) : Out :=
  mcfStep s fun port ctx cid e t =>
    let c := (t.reg b).toNat
    let x := t.chunk e port c
    if e.chunks ≤ c then .error s
    else if x.done then .next s (t.setReg d 0).adv
    else
      let (y, ms) := foldFrom e op c (e.S - x.next) x []
      let fin := y.next == e.S
      let acc := if fin && !y.folded then List.replicate (e.clen c / e.esize) 0 else y.acc
      let t := t.setChunk c { y with done := fin, acc := acc }
      let s := releaseStaged s port ctx cid e t.inst c ms
      .next s (t.setReg d (if fin then 1 else 0)).adv

/-- fold.sum (R253). -/
def execMFoldSum (d b : BitVec 4) (s : State) : Out := mcfFold 0 d b s
/-- fold.min (R253). -/
def execMFoldMin (d b : BitVec 4) (s : State) : Out := mcfFold 1 d b s
/-- fold.max (R253). -/
def execMFoldMax (d b : BitVec 4) (s : State) : Out := mcfFold 2 d b s
/-- fold.q reads NEXT (R253). -/
def execMFoldQ (d b : BitVec 4) (s : State) : Out :=
  mcfStep s fun port _ _ e t =>
    let c := (t.reg b).toNat
    if e.chunks ≤ c then .error s else .next s (t.setReg d (BitVec.ofNat 64 (t.chunk e port c).next)).adv

/-- comb (R254): LENGTH stays, and bytes of the payload short of an element are kept. DEDUCED (assumption log 51). -/
def mcfComb (op : Nat) (pk : BitVec 2) (b : BitVec 4) (lo : BitVec 1) (s : State) : Out :=
  withPk s pk fun port ctx cid e t k =>
    let m := (t.reg b).toNat
    let c := k.pkt.chunk
    let x := t.chunk e port c
    if !k.fresh ∨ 2 ≤ k.pkt.kind then .next (discardDuplicate s port e k.pkt) (t.emptyPk pk.toNat).adv
    else if e.S ≤ m ∨ !e.localTo s.plat.pkgid m ∨ e.excluded port m ∨ x.bits.getLsbD m then .error s
    else if e.isAbsent m then .next (dropLoad s port ctx cid) { t with got := [], await := false }.adv
    else if !startedIn e t m then .wait s t
    else
      match readSource s port ctx cid e t m c with
      | .data bs =>
        let l := e.widen bs
        let v := (e.widen k.pkt.payload).zipIdx.map fun (p, i) =>
          match l[i]? with
          | some q => if lo = 1 then combine op q p else combine op p q
          | none => p
        let t := { t with got := [], pk := t.pk.put pk.toNat { k with pkt := { k.pkt with payload := e.narrow v ++ k.pkt.payload.drop (e.narrow v).length } } }
        .next (releaseStaged s port ctx cid e t.inst c [m]) (t.setChunk c { x with bits := x.bits ||| ((1 : BitVec 64) <<< m) }).adv
      | .wait s t => .wait s t
      | .bad q d ad => .fault s m q d ad

/-- comb.sum (R254). -/
def execMCombSum (pk : BitVec 2) (b : BitVec 4) (lo : BitVec 1) (s : State) : Out := mcfComb 0 pk b lo s
/-- comb.min (R254). -/
def execMCombMin (pk : BitVec 2) (b : BitVec 4) (lo : BitVec 1) (s : State) : Out := mcfComb 1 pk b lo s
/-- comb.max (R254). -/
def execMCombMax (pk : BitVec 2) (b : BitVec 4) (lo : BitVec 1) (s : State) : Out := mcfComb 2 pk b lo s

/-! ## Output (R255, R256) -/

/-- The packets of a fwd: one to each hop of the mask, and with KIND 0 one to the buddy store of the tag member's buddy
(R255). Each waits for its answer, is sent again on a timeout and tried again after a retryable NACK (R243, R379). DEDUCED
(assumption log 50). -/
def forward (s : State) (ctx cid : Nat) (e : CollEntry) (hops : Nat) (p : Packet) : State :=
  let s := (e.hops.filter (fun h => hops / 2 ^ h.1 % 2 == 1)).foldl (fun s h => s.sendOp (.coll h.2.1 h.2.2 ctx cid p)) s
  if p.kind = 0 ∧ hops ≠ 0 then s.sendOp (.buddy (e.row (e.row p.member).buddy).pkg ctx cid p) else s

/-- The checks of a fwd and its effect: the hop mask is xa[15:0], the tag member xc[5:0] (R255). -/
def mcfForward (s : State) (ctx cid : Nat) (e : CollEntry) (t : Thread) (k : BitVec 3) (a c : BitVec 4) (chunk : Nat)
    (payload : List Byte) : McfRes :=
  let hops := (t.reg a).toNat % 2 ^ 16
  let m := (t.reg c).toNat % 2 ^ 6
  if e.S ≤ m ∨ (List.range 16).any (fun h => hops / 2 ^ h % 2 == 1 && (e.hops.find h).isNone) then .error s
  else
    .next (forward s ctx cid e hops { member := m, chunk := chunk, inst := t.inst, kind := k.toNat, srcpkg := s.plat.pkgid,
                                      payload := payload }) t.adv

/-- fwd (R255). -/
def execMFwd (pk : BitVec 2) (k : BitVec 3) (a c : BitVec 4) (s : State) : Out :=
  withPk s pk fun _ ctx cid e t p => mcfForward s ctx cid e t k a c p.pkt.chunk p.pkt.payload

/-- The accumulator of a chunk as bytes of the element type (R241); bytes of the chunk short of an element hold no result that is
stated and are free, the same for equal inputs (R331). DESIGN CHOICE (assumption log 43). -/
def accBytes (e : CollEntry) (c : Nat) (acc : List Nat) : List Byte :=
  e.narrow acc ++ (List.range (e.clen c % e.esize)).map fun k => (Config.padding (2 :: c :: k :: acc)).setWidth 8

/-- fwd.acc: the accumulator of a DONE chunk (R255). -/
def execMFwdAcc (b : BitVec 4) (k : BitVec 3) (a c : BitVec 4) (s : State) : Out :=
  mcfStep s fun port ctx cid e t =>
    let ch := (t.reg b).toNat
    let x := t.chunk e port ch
    if e.chunks ≤ ch ∨ !x.done then .error s else mcfForward s ctx cid e t k a c ch (accBytes e ch x.acc)

/-- What a dlv's write of bytes within a page meets (R255, R399). -/
inductive DlvRes where
  | done (s : State)
  | remote (s : State)
  | later (s : State)
  | bad (cause detail : Nat)

/-- A dlv's write within a page, through the member's context; whether a write of part of a poisoned line meets its error is
left to the device, while one of the whole line replaces its contents (R307); a row that has failed always does (R422). -/
def dlvWrite1 (s : State) (ctx wid image : Nat) (o : Nat → Origin) (a : Nat) (bs : List Byte) : DlvRes :=
  if 2 ^ 56 ≤ a then .bad 0x10 0
  else
    match placement s ctx a with
    | .wait => .later (placementRecord s ctx a s.plat.pkgid)
    | .nack w => .bad 0x51 (nackDetail s.plat.pkgid w false true + walkLevel s ctx a)
    | .ok (.aliasWin _ _) => .bad 0x13 0
    | .ok l =>
      if constHit s ctx image a bs.length then .bad 0x14 0
      else
        match l with
        | .mem _ pa =>
          let bad := ((List.range bs.length).map (fun i => (pa + i) / 64)).eraseDups.filter s.lineBad
          if (bad.any fun k => s.poison.contains k && !State.wholeLine pa bs.length k) && Config.freeBit (s.freeCtr + pa) ||
              bad.any (fun k => !s.poison.contains k) then
            .bad 0x50 (nackDetail 0 0 false true + walkLevel s ctx a)
          else .done (storeMem s ctx pa wid bs)
        | .control off => .done (ringControl s off bs)
        | .window p w => .remote (s.sendOp (.store p [(w, bs)] (o a)))
        | _ => .bad 0x13 0

/-- A write of a chunk, in two parts where it crosses a page; nothing is written where a part is not placed. Also how
many posted writes it has sent, or the address of the part that fails. -/
def dlvWrite (s : State) (ctx wid image : Nat) (o : Nat → Origin) (a : Nat) (bs : List Byte) : DlvRes × Nat :=
  let k := 4096 - a % 4096
  if bs.isEmpty then (.done s, 0)
  else if bs.length ≤ k then
    match dlvWrite1 s ctx wid image o a bs with
    | .remote t => (.remote t, 1)
    | r => (r, a)
  else
    match dlvWrite1 s ctx wid image o a (bs.take k), dlvWrite1 s ctx wid image o (a + k) (bs.drop k) with
    | .bad c d, _ => (.bad c d, a)
    | .later t, _ => (.later t, a)
    | _, .bad c d => (.bad c d, a + k)
    | _, .later t => (.later t, a + k)
    | .done t, _ =>
      match dlvWrite1 t ctx wid image o (a + k) (bs.drop k) with
      | .remote t => (.remote t, 1)
      | r => (r, a + k)
    | .remote t, _ =>
      match dlvWrite1 t ctx wid image o (a + k) (bs.drop k) with
      | .remote t => (.remote t, 2)
      | .done t => (.remote t, 1)
      | r => (r, a + k)

/-- The half microsecond that RTO counts, in cycles (R5, Table 11 of 19). -/
def rtoCycles (s : State) (port : Nat) : Nat := 1000 * bits (s.port port).cfg 35 24

/-- Key of a member in an instance among a thread's counts of writes that are not acknowledged. -/
def ackKey (t : Thread) (m : Nat) : Nat := 64 * t.inst + m

/-- A dlv that met a page not present is tried again after RTO·2^k, k the earlier tries capped at 8 (R399). -/
def Thread.backoff (t : Thread) (s : State) (port : Nat) : Thread :=
  let k := match t.again with | some (k, _) => k | none => 0
  { t with again := some (k + 1, s.cycle + rtoCycles s port * 2 ^ min k 8) }

/-- The effect of a dlv to a member at an offset of its destination: it waits for the member's start; to an absent member
it writes nothing (R255, R257). -/
def mcfDeliver (s : State) (port ctx cid : Nat) (e : CollEntry) (t : Thread) (a : BitVec 4) (off : Nat) (bs : List Byte) : McfRes :=
  let m := (t.reg a).toNat
  let p := e.partOf t m
  let go := { t with again := none }.adv
  if e.S ≤ m ∨ !e.localTo s.plat.pkgid m then .error s
  else if e.isAbsent m then .next s go
  else if !startedIn e t m || t.again.any (fun g => decide (s.cycle < g.2)) then .wait s t
  else
    let image := match s.launch? (p.snd / 2 ^ 24) with | some l => l.image | none => 0
    match dlvWrite s ctx p.wid image (.thread port ctx cid m t.inst) (p.dst + off) bs with
    | (.done u, _) => .next (u.veil s.writes (ctlWide p.ctl) p.core (p.snd / 2 ^ 24)) go
    | (.remote u, n) =>
      .next (u.veil s.writes (ctlWide p.ctl) p.core (p.snd / 2 ^ 24))
        { go with unacked := t.unacked.put (ackKey t m) (t.unacked.getOr 0 (ackKey t m) + n) }
    | (.later s, _) => .wait s (t.backoff s port)
    | (.bad c d, ad) => .fault s m c d ad

/-- dlv (R255). -/
def execMDlv (a b : BitVec 4) (s : State) : Out :=
  mcfStep s fun port ctx cid e t =>
    let c := (t.reg b).toNat
    let x := t.chunk e port c
    if e.chunks ≤ c ∨ !x.done then .error s else mcfDeliver s port ctx cid e t a (c * e.cb) (accBytes e c x.acc)

/-- dlv.pk (R255). -/
def execMDlvPk (a : BitVec 4) (pk : BitVec 2) (s : State) : Out :=
  withPk s pk fun port ctx cid e t k => mcfDeliver s port ctx cid e t a (k.pkt.chunk * e.cb) k.pkt.payload

/-- dlv.g (R255). -/
def execMDlvG (a : BitVec 4) (pk : BitVec 2) (s : State) : Out :=
  withPk s pk fun port ctx cid e t k =>
    mcfDeliver s port ctx cid e t a ((k.pkt.member * e.chunks + k.pkt.chunk) * e.cb) k.pkt.payload

/-- tkreq (R255, R257). -/
def execMTkreq (a b : BitVec 4) (s : State) : Out :=
  mcfStep s fun port ctx cid e t =>
    let m := (t.reg a).toNat
    let c := (t.reg b).toNat
    if e.S ≤ m ∨ e.chunks ≤ c then .error s
    else .next (s.sendOp (.takeover (e.row (e.row m).buddy).pkg port ctx cid m c t.inst)) t.adv

/-- arrive (R256): it waits for the member's start and until the thread's earlier dlv writes to it are performed at the
SCOPE of its cstart; the member's one arrival carries bit 0 while a member is absent. An absent member makes none (R257). -/
def execMArrive (a : BitVec 4) (status : BitVec 8) (s : State) : Out :=
  mcfStep s fun port ctx cid e t =>
    let m := (t.reg a).toNat
    let p := e.part m
    if e.S ≤ m ∨ !e.localTo s.plat.pkgid m ∨ t.arrived.contains m ∨ (!e.isAbsent m ∧ laterInst t.inst p.inst) then .error s
    else
      let t' := { t with arrived := m :: t.arrived }.adv
      if e.isAbsent m then .next s t'
      else if !startedIn e t m ∨ (ctlScope p.ctl = 2 ∧ t.unacked.getOr 0 (ackKey t m) ≠ 0) then .wait s t
      else .next (partDone s ctx cid m (Alu.orN status.toNat (if e.absent = 0 then 0 else 1)) port) t'

/-- end (R247): it requires every local member to have arrived; packets still queued are acknowledged, discarded and
counted as stale, and the next instance starts. -/
def execMEnd (s : State) : Out :=
  match s.cur with
  | .mcf port ctx cid =>
    match s.entry? ctx cid, s.thread? port ctx cid with
    | some e, some t =>
      .next (match t.failed with
        | some (c, d, a, m) => threadFault s port ctx cid e t m c d a
        | none =>
          if (membersOn e s.plat.pkgid).all (arrivedIn e t) then
            let s := t.rq.foldl (fun s p => ackPacket s p false) s
            let s := s.modPort port (fun x => { x with stale := x.stale + t.rq.length })
            nextInstance s port ctx cid e t
          else progError s port ctx cid e t)
    | _, _ => .fault .noParty
  | _ => .fault .noParty

/-! ## Answers to a thread's accesses through windows -/

/-- The answer to a thread's load or store through a window: bytes go on, a failure stops the thread (R252, R255). What comes back
after its instance has ended changes nothing in the next; a failure then leaves its record (R185). -/
def answerThread (s : State) (port ctx cid m inst va pkg : Nat) (load : Bool) (r : Reply) : State :=
  match s.thread? port ctx cid, s.entry? ctx cid with
  | some t, some e =>
    let d := fun w => nackDetail pkg w load (!load) + walkLevel s ctx va
    let bad := fun w =>
      if t.inst = inst then s.putThread port ctx cid { t with await := false, failed := some (0x51, d w, va, m) }
      else
        let p := (e.partAt m inst).getD (e.part m)
        noteRecord s ctx (infoHdr 3 4 p.core (p.snd % 2 ^ 24)) (engineBody 0x51 0 0 va (d w))
    match r with
    | .ok v =>
      if t.inst ≠ inst then s
      else if load then s.putThread port ctx cid { t with await := false, got := t.got ++ toBytes 1 v }
      else s.putThread port ctx cid { t with unacked := t.unacked.put (ackKey t m) (t.unacked.getOr 0 (ackKey t m) - 1) }
    | .nack w => bad w
    | .ue => bad 3
    | .retry => s
  | _, _ => s

end Sys2Proof.Machine
end

