-- ==== Sys2Proof/Machine/Sync.lean ====
section
/-! DEFINITION. Barriers, dreys, events and mailboxes of chapter 08, and the turn a synchronising operation waits for in
deterministic mode (R292 to R295). -/

namespace Sys2Proof.Machine

open Sys2Proof

/-! ## Deterministic mode (R293, R294) -/

/-- PHASE has passed a token in wrapped order (R216). -/
def phasePassed (b : Barrier) (token : Nat) : Bool :=
  let d := (b.phase.toNat + 2 ^ 56 - token % 2 ^ 56) % 2 ^ 56
  1 ≤ d && d ≤ 2 ^ 55

/-- The stamp of a counted party: clock and index, none where the party is skipped: while some member has not arrived in the
phase it waits for, which may be a later one than the open one (R293, R294). -/
def stampOf (s : State) (ctx : Nat) (p : Snd) : Option (Nat × Nat) :=
  match p.barWait with
  | some (ref, token) =>
    let b := barrierOf s ctx (refCore ref) (refNumber ref)
    if phasePassed b token then some (p.lclock.toNat, p.idx)
    else if b.phase.toNat = token % 2 ^ 56 ∧ b.ranks.all (fun r => r.2.2.1 != 0) then some (max p.lclock.toNat b.clock, p.idx)
    else none
  | none => some (p.lclock.toNat, p.idx)

/-- Stamps are ordered by clock, then by index (R293). -/
def stampLess (a b : Nat × Nat) : Bool := a.1 < b.1 || (a.1 == b.1 && a.2 < b.2)

/-- Every sounder of a launch that has not ended. -/
def launchParties (s : State) (ctx l : Nat) : List Snd :=
  (s.cc.filter (fun e => e.1 / 512 == ctx)).flatMap fun e => (e.2.sounders.map (·.2)).filter (fun x => x.launch == l)

/-- The members of a barrier's drey. -/
def dreyParties (s : State) (ctx ref : Nat) : List Snd :=
  (barrierOf s ctx (refCore ref) (refNumber ref)).ranks.filterMap fun r => s.snd? ctx (r.2.1 / 16) (r.2.1 % 16)

/-- The operation's stamp is less than that of every counted party (R293); outside deterministic mode it never waits. -/
def detTurn (s : State) (ctx : Nat) (x : Snd) (parties : List Snd) : Bool :=
  !x.determ || parties.all fun p =>
    p.uid == x.uid ||
    (match stampOf s ctx p with
     | none => true
     | some t => stampLess (x.lclock.toNat, x.idx) t)

/-- A synchronising operation of the scalar stream: with `joins` or in deterministic mode it first has the effect of lsync,
then waits for its turn among the parties (R293), then takes effect. -/
def syncStep (s : State) (c k j : Nat) (x : Snd) (joins : Bool) (parties : List Snd) (eff : Snd → State) : State :=
  if (joins || x.determ) && !(x.lsyncDone && !x.scalarPending) then s
  else if !detTurn s c x parties then s.putSnd c k j { x with wait := .det (scalarWord s c x) }
  else eff (if joins || x.determ then { x.join with wait := .ready } else { x with wait := .ready })

/-! ## Dreys and barriers (R211 to R216) -/

/-- The rank that a sounder holds in a barrier's drey. -/
def rankOf (b : Barrier) (core slot : Nat) : Option Nat := (b.ranks.find? (fun r => r.2.1 == 16 * core + slot)).map (·.1)

/-- Fields of a drey descriptor (Table 3 of 08). -/
def dreySize (d : Nat) : Nat := d / 2 ^ 40 % 64 + 1
def dreyExtra (d : Nat) : Nat := d / 2 ^ 48 % 256
def dreyRank (d : Nat) : Nat := d / 2 ^ 56 % 256
def dreyRsv (d : Nat) : Bool := d / 2 ^ 46 % 4 != 0 || d / 2 ^ 18 % 2 ^ 22 != 0

/-- The rank a join takes, or the cause of its trap (R214). -/
def joinRank (b : Barrier) (core slot d : Nat) : Except Nat Nat :=
  let size := dreySize d
  let rank := dreyRank d
  if (b.drey && (b.size != size || b.extra != dreyExtra d)) || (size ≤ rank && rank != 0xFF) || dreyRsv d ||
      (b.drey && (rankOf b core slot).isSome) then .error 0x3A
  else
    let held := fun r => b.drey && (b.ranks.find r).isSome
    if rank ≠ 0xFF then (if held rank then .error 0x3B else .ok rank)
    else
      match (List.range size).find? (fun r => !held r) with
      | some r => .ok r
      | none => .error 0x3C

/-- A sounder's own list of dreys with `ref` as the most recent, or without it (R296). -/
def Snd.entered (x : Snd) (ref : Nat) : Snd := { x with wids := ref % 2 ^ 18 :: x.wids.filter (· != ref % 2 ^ 18) }
def Snd.left (x : Snd) (ref : Nat) : Snd := { x with wids := x.wids.filter (· != ref % 2 ^ 18) }

/-- join (R214). -/
def execSJoin (d a : BitVec 6) (s : State) : Out :=
  scalarStep s fun c k j x =>
    let ds := (x.sreg a.toNat).toNat
    let ref := ds % 2 ^ 18
    if !refGranted s c ref then scalarTrap s c k j x 0x03
    else
      syncStep s c k j x false (launchParties s c x.launch) fun y =>
        let b := barrierOf s c (refCore ref) (refNumber ref)
        match joinRank b k j ds with
        | .error e => scalarTrap s c k j x e
        | .ok r =>
          let b : Barrier :=
            if b.drey then b
            else { b with drey := true, formed := false, size := dreySize ds, extra := dreyExtra ds, members := 0, arrived := 0,
                          openStat := 0, ranks := [] }
          let b := { b with ranks := b.ranks.put r (16 * k + j, 0, 0), members := b.members + 1,
                            formed := b.formed || b.members + 1 == b.size }
          let s := s.putSnd c k j ((y.entered ref).setS d.toNat (BitVec.ofNat 64 r)).adv
          testPhase (putBarrier s c (refCore ref) (refNumber ref) b) c (refCore ref) (refNumber ref)

/-- leave (R215). -/
def execSLeave (a : BitVec 6) (s : State) : Out :=
  scalarStep s fun c k j x =>
    let ref := (x.sreg a.toNat).toNat % 2 ^ 18
    if !refGranted s c ref then scalarTrap s c k j x 0x03
    else
      match rankOf (barrierOf s c (refCore ref) (refNumber ref)) k j with
      | none => scalarTrap s c k j x 0x31
      | some r =>
        syncStep s c k j x true (dreyParties s c ref) fun y =>
          leaveDrey (s.putSnd c k j (y.left ref).adv) c ref r 0

/-- An arrival of a member with count n: it is refused beyond NEED (R216); otherwise `y`, the sounder as the instruction
leaves it, is written and the arrival applied. -/
def memberArrive (s : State) (c k j : Nat) (x y : Snd) (ref r n : Nat) : State :=
  let b := barrierOf s c (refCore ref) (refNumber ref)
  if b.need < b.arrived + n then scalarTrap s c k j x 0x3D
  else
    let (key, m, clk) := b.ranks.getOr (16 * k + j, 0, 0) r
    let b := { b with arrived := b.arrived + n, ranks := b.ranks.put r (key, m + n, max clk x.lclock.toNat) }
    let s := wake s c (refCore ref)
    testPhase (putBarrier (s.putSnd c k j (y.entered ref)) c (refCore ref) (refNumber ref) b) c (refCore ref) (refNumber ref)

/-- The number of the open phase. -/
def openPhase (s : State) (c ref : Nat) : Nat := (barrierOf s c (refCore ref) (refNumber ref)).phase.toNat

/-- bar.arrive (R216). -/
def execSBarArrive (d a b : BitVec 6) (s : State) : Out :=
  scalarStep s fun c k j x =>
    let ref := (x.sreg a.toNat).toNat % 2 ^ 18
    let v := (x.sreg b.toNat).toNat
    let n := v % 2 ^ 16
    if !refGranted s c ref then scalarTrap s c k j x 0x03
    else
      let rank := rankOf (barrierOf s c (refCore ref) (refNumber ref)) k j
      if n ≠ 0 ∧ rank.isNone then scalarTrap s c k j x 0x31
      else if v / 2 ^ 16 ≠ 0 then scalarTrap s c k j x 0x3D
      else
        let ph := fun s => BitVec.ofNat 64 (openPhase s c ref)
        if n = 0 then s.putSnd c k j (x.setS d.toNat (ph s)).adv
        else
          syncStep s c k j x true (dreyParties s c ref) fun y =>
            memberArrive s c k j x (y.setS d.toNat (ph s)).adv ref (rank.getD 0) n

/-- What a returned wait writes: LASTSTAT and the last completed phase (R216). -/
def waitResult (s : State) (c ref : Nat) : Word :=
  let b := barrierOf s c (refCore ref) (refNumber ref)
  BitVec.ofNat 64 (b.lastStat.toNat * 2 ^ 56 + (b.phase - 1).toNat)

/-- A wait on a barrier returns once PHASE has passed its token (R216). -/
def barReturn (s : State) (c k j : Nat) (x : Snd) (d ref token : Nat) : State :=
  if phasePassed (barrierOf s c (refCore ref) (refNumber ref)) token then
    s.putSnd c k j ({ x with wait := .ready }.setS d (waitResult s c ref)).adv
  else s.putSnd c k j { x with wait := .bar d ref (token % 2 ^ 56) }

/-- bar.wait (R216). -/
def execSBarWait (d a b : BitVec 6) (s : State) : Out :=
  scalarStep s fun c k j x =>
    let ref := (x.sreg a.toNat).toNat % 2 ^ 18
    if !refGranted s c ref then scalarTrap s c k j x 0x03
    else barReturn s c k j x d.toNat ref (x.sreg b.toNat).toNat

/-- bar.sync: the arrival, then the wait on its token (R216). -/
def execSBarSync (d a : BitVec 6) (s : State) : Out :=
  scalarStep s fun c k j x =>
    let ref := (x.sreg a.toNat).toNat % 2 ^ 18
    if !refGranted s c ref then scalarTrap s c k j x 0x03
    else
      match rankOf (barrierOf s c (refCore ref) (refNumber ref)) k j with
      | none => scalarTrap s c k j x 0x31
      | some r =>
        syncStep s c k j x true (dreyParties s c ref) fun y =>
          memberArrive s c k j x { y with wait := .bar d.toNat ref (openPhase s c ref) } ref r 1

/-- BARRIER_WAIT_RELEASE: a waiting bar.wait or bar.sync retires once PHASE has passed its token (R216). -/
def execEBarrierWaitRelease (ctx core slot : Nat) (s : State) : Out :=
  .next (match s.snd? ctx core slot with
    | some x =>
      match x.wait with
      | .bar d ref token =>
        if !mayWake s ctx core x then s else barReturn (wake s ctx core) ctx core slot x d ref token
      | _ => s
    | none => s)

/-! ## Events (R217 to R221) -/

/-- OBJECT bits beyond those that its kind uses are set, or the kind is reserved (Table 4 of 01, R217). -/
def bindingBad (b : Word) : Bool :=
  match bindKind b with
  | 1 => 2 ^ 9 ≤ bindObject b
  | 2 => 2 ^ 8 ≤ bindObject b
  | 3 => 2 ^ 5 ≤ bindObject b
  | 4 => false
  | _ => true

/-- The object of a binding lies in the share of the sounder's own core (R217). -/
def bindingGranted (s : State) (c k : Nat) (b : Word) : Bool :=
  let sh := (s.ccOf c k).share
  match bindKind b with
  | 1 => sh.barriers.contains (bindObject b)
  | 2 => sh.handles.contains (bindObject b)
  | 3 => sh.mailboxes.contains (bindObject b)
  | _ => true

/-- One bit of an 8-bit event register set or cleared. -/
def setBit8 (v : BitVec 8) (j : Nat) (b : Bool) : BitVec 8 :=
  if b then v ||| ((1 : BitVec 8) <<< j) else v &&& ~~~((1 : BitVec 8) <<< j)

def mailOf (s : State) (ctx core slot : Nat) : Mailbox := (s.ccOf ctx core).mail.getOr .closed slot
def putMail (s : State) (ctx core slot : Nat) (m : Mailbox) : State :=
  s.modCC ctx core (fun cc => { cc with mail := cc.mail.put slot m })

/-- evarm (R217). -/
def execSEvarm (e a : BitVec 6) (s : State) : Out :=
  scalarStep s fun c k j x =>
    let b := x.sreg a.toNat
    let h := bindHandler b
    if 8 ≤ e.toNat then scalarTrap s c k j x 0x01 (ill := 3)
    else if bindingBad b then scalarTrap s c k j x 0x38
    else if !bindingGranted s c k b then scalarTrap s c k j x 0x03
    else if h % 4 ≠ 0 ∨ scalarSize s c x ≤ h then scalarTrap s c k j x 0x05
    else
      let n := e.toNat
      let arrived := bindKind b == 3 && (match mailOf s c k (bindObject b) with | .arrived _ => true | _ => false)
      let timers := if bindKind b = 4 then x.timers.put n (s.cycle + 64 * bindObject b) else x.timers.del n
      s.putSnd c k j { x with evbind := x.evbind.setOr 0 n b, armed := setBit8 x.armed n true,
                              pending := setBit8 x.pending n arrived, timers := timers, pc := x.pc + 4 }

/-- evdisarm (R218). -/
def execSEvdisarm (e : BitVec 6) (s : State) : Out :=
  scalarStep s fun c k j x =>
    if 8 ≤ e.toNat then scalarTrap s c k j x 0x01 (ill := 3)
    else
      let n := e.toNat
      s.putSnd c k j { x with evbind := x.evbind.setOr 0 n 0, armed := setBit8 x.armed n false,
                              pending := setBit8 x.pending n false, timers := x.timers.del n, pc := x.pc + 4 }

/-- Slots that are armed and not masked, and those of them that are pending. -/
def Snd.live (x : Snd) : BitVec 8 := x.armed &&& ~~~x.masked
def Snd.eligible (x : Snd) : Option Nat := (List.range 8).find? (fun n => (x.live &&& x.pending).getLsbD n)

/-- waitany takes the lowest eligible slot and goes to its handler (R220). -/
def Snd.takeEvent (x : Snd) (d n : Nat) : Snd :=
  let b := x.evbind.getOr 0 n
  let x := { x with wait := .ready, pending := setBit8 x.pending n false,
                    armed := if bindKind b = 4 then setBit8 x.armed n false else x.armed }
  { x.setS d (BitVec.ofNat 64 (x.pc + 4) <<< 32 ||| BitVec.ofNat 64 n) with pc := bindHandler b }

/-- waitany (R220). -/
def execSWaitany (d : BitVec 6) (s : State) : Out :=
  scalarStep s fun c k j x =>
    if x.live = 0 then scalarTrap s c k j x 0x39
    else
      match x.eligible with
      | some n => s.putSnd c k j (x.takeEvent d.toNat n)
      | none => s.putSnd c k j { x with wait := .waitany d.toNat }

/-- WAITANY_WAKE: a parked waitany finds an eligible slot (R220). -/
def execEWaitanyWake (ctx core slot : Nat) (s : State) : Out :=
  .next (match s.snd? ctx core slot with
    | some x =>
      match x.wait, x.eligible with
      | .waitany d, some n =>
        if !mayWake s ctx core x then s else (wake s ctx core).putSnd ctx core slot (x.takeEvent d n)
      | _, _ => s
    | none => s)

/-! ## Mailboxes (R222 to R226) -/

/-- mbpost (R223). -/
def execSMbpost (a b : BitVec 6) (s : State) : Out :=
  scalarStep s fun c k j x =>
    let v := (x.sreg b.toNat).toNat
    let slot := v % 32
    let len := v / 2 ^ 32 % 2 ^ 9
    if v / 2 ^ 5 % 2 ^ 27 ≠ 0 ∨ v / 2 ^ 41 ≠ 0 ∨ 256 < len then scalarTrap s c k j x 0x40
    else if !(s.ccOf c k).share.mailboxes.contains slot then scalarTrap s c k j x 0x03
    else
      match mailOf s c k slot with
      | .closed => putMail (s.putSnd c k j x.adv) c k slot (.posted (x.sreg a.toNat).toNat len)
      | _ => scalarTrap s c k j x 0x3E

/-- Fields of a mailbox destination (Table 5 of 08). -/
def destSlot (d : Nat) : Nat := d % 32
def destCore (d : Nat) : Nat := d / 2 ^ 5 % 2 ^ 9
def destCtx (d : Nat) : Nat := d / 2 ^ 14 % 2 ^ 12
def destPkg (d : Nat) : Nat := d / 2 ^ 26 % 2 ^ 12
def destRemote (d : Nat) : Bool := d / 2 ^ 38 % 2 == 1

/-- How far the byte loads of a message come (R225). -/
inductive MailRead where
  | done (s : State) (bytes : List Byte)
  /-- A byte lies behind a fabric window: the bytes before it, its address, how many are left with it, package and place there. -/
  | away (s : State) (bytes : List Byte) (va left pkg addr : Nat)
  /-- A byte load faults: cause, address, INFO. -/
  | fault (s : State) (cause va info : Nat)

/-- Read `n` bytes of a message from an address on, each as a scalar load, in order, after those read before (R125, R225). -/
def mailRead (s : State) (ctx core : Nat) (x : Snd) (a : Nat) : Nat → List Byte → MailRead
  | 0, got => .done s got
  | n + 1, got =>
    match scalarProbe s ctx x a 1 false with
    | .error e => .fault s e a 0
    | .ok (.window p w) => .away s got a (n + 1) p w
    | .ok (.mem _ pa) =>
      if s.poisoned pa then .fault s 0x50 a (nackDetail 0 0 true false + walkLevel s ctx a)
      else mailRead (s.readAs core pa 1).1 ctx core x (a + 1) n (got ++ toBytes 1 (s.readAs core pa 1).2)
    | .ok _ => mailRead s ctx core x (a + 1) n (got ++ [0])

/-- The message goes out and the stream waits for the destination's answer (R225). -/
def mailSend (s : State) (c k j : Nat) (x : Snd) (d dest : Nat) (bs : List Byte) : State :=
  let pkg := if destRemote dest then destPkg dest else s.plat.pkgid
  let m : OutMsg := .mail pkg (destCtx dest) (destCore dest) (destSlot dest) c bs (.mail c k j) { pdc := 0, n := 0 }
  let s := s.putSnd c k j { x with wait := .mbsend d }
  if pkg = s.plat.pkgid then s.sendOp m else s.sendNext m

/-- The message has been read: it goes out once the sounder's earlier accesses are released (R225). -/
def mailRelease (s : State) (c k j : Nat) (x : Snd) (d dest : Nat) (bs : List Byte) : State :=
  if x.fenceDone (destRemote dest) then mailSend s c k j x d dest bs
  else s.putSnd c k j { x with wait := .mbread d dest 0 0 bs }

/-- Go on reading a message from `a`, with `got` read, and send it once it is whole; a byte that faults is an exact trap. -/
def mailGo (s : State) (c k j : Nat) (x : Snd) (d dest a n : Nat) (got : List Byte) : State :=
  match mailRead s c k x a n got with
  | .done t bs => mailRelease t c k j x d dest bs
  | .away t bs va left p w =>
    (t.putSnd c k j { x with wait := .mbread d dest va left bs }).sendOp (.load p w 1 (.mail c k j))
  | .fault t e va info =>
    let y := { x with wait := .ready }
    scalarTrap (t.putSnd c k j y) c k j y e (addr := va) (info := info)

/-- mbsend (R225): it reads its message, then releases, then sends. -/
def execSMbsend (d a b : BitVec 6) (s : State) : Out :=
  scalarStep s fun c k j x =>
    let dest := (x.sreg a.toNat).toNat
    let src := (x.sreg b.toNat).toNat
    if dest / 2 ^ 39 ≠ 0 ∨ (!destRemote dest ∧ destPkg dest ≠ 0) then scalarTrap s c k j x 0x40
    else
      match x.wait with
      | .mbread d dest _ 0 bs => mailRelease s c k j x d dest bs
      | _ =>
        if x.scalarPending || coreSplit s k then s
        else
          syncStep s c k j x false (launchParties s c x.launch) fun y =>
            mailGo s c k j y d.toNat dest (src % 2 ^ 56) (src / 2 ^ 56 + 1) []

/-- mbrecv (R226). -/
def execSMbrecv (d a : BitVec 6) (s : State) : Out :=
  scalarStep s fun c k j x =>
    let slot := (x.sreg a.toNat).toNat % 32
    if !(s.ccOf c k).share.mailboxes.contains slot then scalarTrap s c k j x 0x03
    else
      match mailOf s c k slot with
      | .closed => scalarTrap s c k j x 0x3F
      | .posted _ _ => s.putSnd c k j { x with wait := .mbrecv d.toNat slot }
      | .arrived r => putMail (s.putSnd c k j ({ x with wait := .ready }.setS d.toNat r).adv) c k slot .closed

/-- The arrival record (Table 6 of 08). -/
def arrivalRecord (srcpkg srcctx len cap : Nat) : Word :=
  BitVec.ofNat 64 (srcpkg % 4096 * 2 ^ 52 + srcctx % 4096 * 2 ^ 40 + (if cap < len then 2 ^ 32 else 0) +
    len % 2 ^ 9 * 2 ^ 16 + min len cap)

/-- How a message fares at its slot. -/
inductive MailRes where
  | status (n : Nat)
  /-- A page of the buffer is refused or may not be written: an access fault at the sender (R399). -/
  | nack (why : Nat)
  /-- A page of the buffer is not present: the message is tried again (R399). -/
  | wait
  deriving DecidableEq, Repr

/-- Write the bytes of a message to a posted buffer, each byte placed as an inbound write is (R224, R399). -/
def mailPlace (s : State) (ctx wid : Nat) : Nat → List Byte → Except (Nat × Placement) State
  | _, [] => .ok s
  | a, b :: r =>
    match placement s ctx a with
    | .ok (.mem _ pa) => mailPlace (storeMem s ctx pa wid [b]) ctx wid (a + 1) r
    | .ok (.control _) => mailPlace s ctx wid (a + 1) r
    | .ok _ => .error (a, .nack 7)
    | p => .error (a, p)

/-- A waiting mbrecv of a slot goes on. -/
def wakeRecv (s : State) (ctx core slot : Nat) : State :=
  let go := fun x : Snd => match x.wait with
    | .mbrecv _ n => if n = slot then { x with wait := .ready } else x
    | _ => x
  s.modCC ctx core (fun cc => { cc with sounders := cc.sounders.mapV (fun _ x => go x) })

/-- A message enters a slot, or is refused (R224, R225); one for a halted context is a dropped completion of the unit that sent
it (R290). DEDUCED (assumption log 60). -/
def mailArrive (s : State) (srcpkg srcctx ctx core slot wid : Nat) (bs : List Byte) (sender : Sender) : State × MailRes :=
  if !ctxLive s ctx then (if (s.ctx? ctx).isSome then dropCompletion s sender else s, .status 2)
  else if !(s.ccOf ctx core).share.mailboxes.contains slot then (s, .status 2)
  else
    match mailOf s ctx core slot with
    | .posted addr len =>
      match mailPlace s ctx wid addr (bs.take len) with
      | .ok t =>
        let t := wake t ctx core
        let t := putMail t ctx core slot (.arrived (arrivalRecord srcpkg srcctx bs.length len))
        (wakeRecv (occur t ctx core 3 slot) ctx core slot, .status 0)
      | .error (a, .wait) => (placementRecord s ctx a srcpkg, .wait)
      | .error (_, .nack w) => (s, .nack w)
      | .error _ => (s, .status 2)
    | _ => (s, .status 1)

/-- mbsend retires with its status (R225). -/
def mailReturn (s : State) (c k j st : Nat) : State :=
  match s.snd? c k j with
  | some x =>
    match x.wait with
    | .mbsend d => s.putSnd c k j ({ x with wait := .ready }.setS d (BitVec.ofNat 64 st)).adv
    | _ => s
  | none => s

end Sys2Proof.Machine
end

