-- ==== Sys2Proof/Machine/System.lean ====
section
/-! DEFINITION. System registers, time, service calls, the end of a sounder, trap return and operand-log replay (chapter 08,
R227 to R239), and the release of a synchronising operation in deterministic mode (R293). -/

namespace Sys2Proof.Machine

open Sys2Proof

/-! ## System registers (R26, R227) -/

/-- TSTATj (Table 7 of 01): only GRANTED reads as 0 of a tile outside the share. -/
def tstat (s : State) (c k j : Nat) : Nat :=
  let cc := s.ccOf c k
  if !cc.share.tiles.contains j then 0
  else
    let t := cc.tiles.getOr Tile.reset j
    16 + (if t.isInt then 8 else 0) + (if t.inflight != 0 then 4 else 0) + (if t.dirty then 2 else 0) + (if t.valid then 1 else 0)

/-- EVSTAT (Table 3 of 01). -/
def Snd.evstat (x : Snd) : Nat := x.masked.toNat * 2 ^ 16 + x.pending.toNat * 2 ^ 8 + x.armed.toNat

/-- A system register's value (Table 2 of 01). -/
def sysRead (s : State) (c k : Nat) (x : Snd) (r : Nat) : Word :=
  match r with
  | 0x000 => x.fpctl
  | 0x001 => x.fpstat
  | 0x002 => x.ructl
  | 0x003 => BitVec.ofNat 64 x.evstat
  | 0x010 => BitVec.ofNat 64 x.n
  | 0x011 => BitVec.ofNat 64 (match s.ctx? c with | some c => c.domain % 4096 | none => 0)
  | 0x012 => BitVec.ofNat 64 x.idx
  | 0x013 => x.lclock
  | 0x020 => x.rlook
  | 0x021 => x.rhits
  | 0x022 => x.rshare
  | 0x023 => x.rsatur
  | 0x024 => x.rpark
  | _ =>
    if r / 16 = 4 then BitVec.ofNat 64 (tstat s c k (r % 16))
    else if 8 ≤ r ∧ r ≤ 0xF then x.evbind.getOr 0 (r - 8)
    else 0

/-- A write of a system register, field by field (Tables 2, 3 and 5 of 01, R227). DESIGN CHOICE: a lane instruction of a block queued
before the next lsync or sfence.local merges its flags into the new FPSTAT, which R130 allows as it allows the old one
(assumption log 46). -/
def sysWrite (x : Snd) (r : Nat) (v : Word) : Snd :=
  match r with
  | 0x000 => { x with fpctl := v &&& 0x71F }
  | 0x001 => { x with fpstat := v &&& 0x1F }
  | 0x002 => { x with ructl := v &&& 0x1F }
  | 0x003 => { x with masked := BitVec.ofNat 8 (bits v 23 16), pending := x.pending &&& ~~~BitVec.ofNat 8 (bits v 15 8) }
  | 0x020 => { x with rlook := v }
  | 0x021 => { x with rhits := v }
  | 0x022 => { x with rshare := v }
  | 0x023 => { x with rsatur := v }
  | 0x024 => { x with rpark := v }
  | _ => x

/-- sysrd (R227): cause 4 for a number not listed. -/
def execSSysrd (d : BitVec 6) (r : BitVec 12) (s : State) : Out :=
  scalarStep s fun c k j x =>
    if sysregListed r.toNat then s.putSnd c k j (x.setS d.toNat (sysRead s c k x r.toNat)).adv
    else scalarTrap s c k j x 0x01 (ill := 4)

/-- syswr (R227): cause 4 for a number not listed or not writable. -/
def execSSyswr (a : BitVec 6) (r : BitVec 12) (s : State) : Out :=
  scalarStep s fun c k j x =>
    if sysregWritable r.toNat then s.putSnd c k j (sysWrite x r.toNat (x.sreg a.toNat)).adv
    else scalarTrap s c k j x 0x01 (ill := 4)

/-- rdtime: the package's cycle counter (R229). -/
def execSRdtime (d : BitVec 6) (s : State) : Out :=
  scalarStep s fun c k j x => s.putSnd c k j (x.setS d.toNat (BitVec.ofNat 64 s.cycle)).adv

/-! ## Calls, ends and returns (R236 to R238) -/

/-- svc: the trap "service call" with INFO the value of s[sa] (R237). -/
def execSSvc (a : BitVec 6) (s : State) : Out :=
  scalarStep s fun c k j x => scalarTrap s c k j x 0x09 (info := (x.sreg a.toNat).toNat)

/-- No access of the sounder is still to be performed. -/
def Snd.quiet (x : Snd) : Bool := x.oplog.all (fun e => e.2.todo.isEmpty)

/-- A sounder ends with a status of its departures: at once, or in deterministic mode by one departure after the other, each
as if by leave, which waits for its turn and is tried again with the instruction (R215, R293). -/
def endTurn (s : State) (c k j : Nat) (x : Snd) (status : BitVec 8) : State :=
  match (if x.determ then dreysOf s c k j else []) with
  | [] => endSounder s c k j status
  | (ref, r) :: _ =>
    if detTurn s c x (dreyParties s c ref) then
      leaveDrey (s.putSnd c k j (({ x with wait := .ready } : Snd).left ref)) c ref r status
    else s.putSnd c k j { x with wait := .det (scalarWord s c x) }

/-- sndend (R238): the effect of lsync, every log entry released (in handler mode: the held lanes discarded), the
departures from its dreys, each a synchronising operation in deterministic mode, and the end. -/
def execSSndend (s : State) : Out :=
  scalarStep s fun c k j x =>
    if !x.lsyncDone || x.scalarPending then s
    else if x.handler then (if x.quiet then endTurn s c k j x 4 else s)
    else if !x.oplog.isEmpty then s
    else endTurn s c k j x 0

/-- RESUME of the frame of the sounder in a bank slot (Table 8 of 08). -/
def frameResume (s : State) (c k j : Nat) : Nat :=
  match s.ctx? c with
  | some x =>
    match x.handler with
    | some (_, _, base) => leNat (readVirt s c (frameAddr base k j) 8) / 2 ^ 14 % 4
    | none => 0
  | none => 0

/-- tret: privileged; it reads RESUME after the handler's own stores and acts on it (R236). -/
def execSTret (s : State) : Out :=
  scalarStep s fun c k j x =>
    if !x.handler then scalarTrap s c k j x 0x02
    else if x.scalarPending then s
    else
      match frameResume s c k j with
      | 3 => sendUp s c k j
      | 2 => if x.quiet then endTurn s c k j x 4 else s
      | r => tretAct s c k j r

/-! ## Operand-log replay (R239) -/

/-- Codes of the kinds of entry. -/
def LogKind.code : LogKind → Nat
  | .load => 0
  | .store => 1
  | .atomic => 2
  | .append => 3
  | .scalarStore => 4
  | .aliasStore => 5

/-- Word `n` of the view of a log entry. -/
def LogEntry.view (e : LogEntry) (n : Nat) : Nat :=
  let heldMask := e.held.foldl (fun a l => a + 2 ^ l.lane) 0
  match n with
  | 0 => 1 + (if e.held.isEmpty then 0 else 2) + e.kind.code * 4 + e.cause % 256 * 2 ^ 8
  | 1 => e.word % 2 ^ 64
  | 2 => e.word / 2 ^ 64
  | 3 => e.mask % 2 ^ 64
  | 4 => e.mask / 2 ^ 64
  | 5 => heldMask % 2 ^ 64
  | 6 => heldMask / 2 ^ 64
  | _ =>
    if 8 ≤ n ∧ n < 104 then e.addrs.getOr 0 (n - 8)
    else if 104 ≤ n ∧ n < 200 then e.datas.getOr 0 (n - 104)
    else 0

/-- oplrd (R239). -/
def execSOplrd (d a b : BitVec 6) (s : State) : Out :=
  scalarStep s fun c k j x =>
    let n := (x.sreg a.toNat).toNat
    let w := (x.sreg b.toNat).toNat
    if !x.handler then scalarTrap s c k j x 0x02
    else if 8 ≤ n ∨ 199 < w then scalarTrap s c k j x 0x41
    else
      let v := match x.oplog.find n with | some e => e.view w | none => 0
      s.putSnd c k j (x.setS d.toNat (BitVec.ofNat 64 v)).adv

/-- How a replay stands: the entry is released (0), a lane has faulted again and nothing is on its way (1), or lanes are
still to be performed. -/
def replayDone (x : Snd) (n : Nat) : Option Nat :=
  match x.oplog.find n with
  | none => some 0
  | some e => if e.todo.isEmpty then some 1 else none

/-- A replay writes its result once it is settled (R239). -/
def settleReplay (s : State) (c k j : Nat) : State :=
  match s.snd? c k j with
  | none => s
  | some x =>
    match x.wait with
    | .replay d n =>
      match replayDone x n with
      | some r => s.putSnd c k j ({ x with wait := .ready }.setS d (BitVec.ofNat 64 r)).adv
      | none => s
    | _ => s

/-- oplrep (R239). -/
def execSOplrep (d a : BitVec 6) (s : State) : Out :=
  scalarStep s fun c k j x =>
    let v := (x.sreg a.toNat).toNat
    let n := v % 8
    let empty : Bool := match x.oplog.find n with | some e => e.held.isEmpty | none => false
    if !x.handler then scalarTrap s c k j x 0x02
    else if v / 8 % 32 ≠ 0 ∨ v / 2 ^ 9 ≠ 0 ∨ empty then scalarTrap s c k j x 0x41
    else
      let s := s.putSnd c k j { x with wait := .replay d.toNat n }
      let s :=
        if v / 2 ^ 8 % 2 = 0 then performLanes (rehearse s c k j n false) c k j n 96
        else s.modSnd c k j (fun x => x.discardHeld n)
      settleReplay s c k j

/-! ## Deterministic release (R293) -/

/-- DETERMINISTIC_RELEASE: the synchronising operation a sounder is stopped at takes effect where its turn has come. The
word it waits with says which it is. -/
def execEDeterministicRelease (ctx core slot : Nat) (s : State) : Out :=
  match s.snd? ctx core slot with
  | none => .next s
  | some x =>
    match x.wait with
    | .det w =>
      if !mayWake s ctx core x then .next s
      else
        let d := BitVec.ofNat 6 (w / 2 ^ 20)
        let a := BitVec.ofNat 6 (w / 2 ^ 14)
        let b := BitVec.ofNat 6 (w / 2 ^ 8)
        let t := { s with cur := .scalar ctx core slot }
        let r :=
          match w / 2 ^ 26, w % 2 ^ 8 with
          | 0x26, 0 => execSJoin d a t
          | 0x26, 1 => execSLeave a t
          | 0x26, 2 => execSBarArrive d a b t
          | 0x26, 4 => execSBarSync d a t
          | 0x27, 1 => execSMbsend d a b t
          | 0x29, 1 => execSSndend t
          | 0x29, 2 => execSTret t
          | _, _ => .next s
        match r with
        | .next t => .next { t with cur := s.cur }
        | r => r
    | _ => .next s

end Sys2Proof.Machine
end

