-- ==== Sys2Proof/Machine/Access.lean ====
section
/-! DEFINITION. How accesses are performed and answered after issue (R33, R161 to R163, R168, R318, R326), how deferred
faults are delivered (R163, R234), and how sounders are chosen for issue (R284 to R286). -/

namespace Sys2Proof.Machine

open Sys2Proof

/-! ## Fills and accesses -/

/-- LANE_LOAD_FILL: values that have returned are written to the lanes of a fill's name (R33, R35). -/
def execELaneLoadFill (ctx core slot fill : Nat) (s : State) : Out := .next (Issue.fillWrite s ctx core slot fill)

/-- Where a lane's access lies, by line numbers: a physical address, or that of a scratchpad byte. -/
def LaneAcc.spot (ctx core : Nat) (a : LaneAcc) : Option Nat :=
  match a.loc with
  | .mem _ pa => some pa
  | .sp b => some (64 * spLine ctx core b + b % 64)
  | _ => none

/-- Lanes of one store that are performed together and write a whole line are one write of it: the line is good again (R307). DEDUCED
(assumption log 66). -/
def cleanTogether (s t : State) (ctx core slot entry : Nat) : State :=
  match (s.snd? ctx core slot).bind (fun x => x.oplog.find entry) with
  | none => t
  | some e =>
    let left : List Nat := match (t.snd? ctx core slot).bind (fun x => x.oplog.find entry) with
      | some f => (f.todo ++ f.held).map (fun a => a.lane)
      | none => []
    let spots := (e.todo.filter (fun a => !left.contains a.lane)).filterMap (LaneAcc.spot ctx core)
    let covers := fun b : Nat => spots.any fun p => decide (p ≤ b) && decide (b < p + tySize e.ty)
    if e.kind = .store then
      { t with poison := t.poison.filter fun k => !(List.range 64).all (fun i => covers (64 * k + i)) }
    else t

/-- ACCESS_PERFORMED: the next lane of an operand-log entry that is due is performed, or sent to another package; with `ue`
it meets an uncorrectable error. Up to `count` further lanes follow (R161, R314). -/
def execEAccessPerformed (ctx core slot entry count : Nat) (ue : Bool) (s : State) : Out :=
  let t := performLanes (performNext s ctx core slot entry ue) ctx core slot entry count
  .next (settleReplay (if count < 7 || t.poison.isEmpty then t else cleanTogether s t ctx core slot entry) ctx core slot)

/-- The detail of a load held by a shoot-down (R389). -/
def readRace (s : State) (ctx va : Nat) : Nat :=
  match translate s ctx va true false with
  | .fail d => d
  | .ok _ => detailWord false false true false false (walkLevel s ctx va)

/-! ## Answers to remote operations (R161, R163, R225, R399) -/

/-- A scalar load through a window returns, or faults as an exact trap (R125); one that a shoot-down races may be held with cause
0x52 (R388). -/
def answerScalar (s : State) (c k j : Nat) (r : Reply) : State :=
  match s.snd? c k j with
  | none => s
  | some x =>
    match x.wait with
    | .load d t pkg va =>
      let y := { x with wait := .ready }
      let (stop, s) := if racing s c va then s.freeBit else (false, s)
      if stop then
        scalarTrap (s.putSnd c k j y) c k j y 0x52 (addr := va) (info := readRace s c va)
      else
      let bad := fun w => scalarTrap (s.putSnd c k j y) c k j y 0x51 (addr := va) (info := nackDetail pkg w true false + walkLevel s c va)
      match r with
      | .ok v => s.putSnd c k j (y.setS d (scalarExt t v)).adv
      | .nack w => bad w
      | .ue => bad 3
      | .retry => s
    | _ => s

/-- A byte of a message that is read through a window returns, or faults as an exact trap; one that a shoot-down races may be held with
cause 0x52 (R225, R388). -/
def answerMail (s : State) (c k j pkg : Nat) (r : Reply) : State :=
  match s.snd? c k j with
  | none => s
  | some x =>
    match x.wait with
    | .mbread d dest a left got =>
      let y := { x with wait := .ready }
      let (stop, s) := if racing s c a then s.freeBit else (false, s)
      if stop then
        scalarTrap (s.putSnd c k j y) c k j y 0x52 (addr := a) (info := readRace s c a)
      else
      let bad := fun w => scalarTrap (s.putSnd c k j y) c k j y 0x51 (addr := a) (info := nackDetail pkg w true false + walkLevel s c a)
      match r with
      | .ok v => mailGo s c k j y d dest (a + 1) (left - 1) (got ++ toBytes 1 v)
      | .nack w => bad w
      | .ue => bad 3
      | .retry => s
    | _ => s

/-- A completion word that goes to another package has been written there, or is refused: the record of R370. Then the node's
other signals follow. -/
def answerPeer (s : State) (ctx queue addr pkt status pkg : Nat) (r : Reply) : State :=
  let bad := fun w => signalRest
    (noteRecord s ctx (infoHdr 3 5 0 0) (engineBody 0x51 0 queue addr (nackDetail pkg w false true + walkLevel s ctx addr))) ctx pkt status
  match r with
  | .ok _ => signalRest s ctx pkt status
  | .nack w => bad w
  | .ue => bad 3
  | .retry => s

/-- Argument bytes of a node come back from another package; those that cannot be read there are free (R367). DESIGN CHOICE
(assumption log 68). -/
def answerArgs (s : State) (id : Nat) (n : Node) (r : Reply) : State :=
  let a := pktF n.pkt 247 192 + n.args.length
  let k := argChunk a (pktArgLen n.pkt - n.args.length)
  let v := match r with | .ok v => v | _ => (s.freeAt 0).toNat
  { s with nodes := s.nodes.put id { n with st := .waiting, args := n.args ++ toBytes k v } }

/-- The count of a node comes back from another package, or cannot be read there: the node completes with 0x04 (R300); or its
argument bytes come back. -/
def answerNode (s : State) (ctx id pkg : Nat) (r : Reply) : State :=
  match s.nodes.find id with
  | none => s
  | some n =>
    let bad := fun w => completeNode (noteRecord s ctx (infoHdr 3 5 0 0)
      (engineBody 0x51 0 n.queue (pktF n.pkt 191 128) (nackDetail pkg w true false + walkLevel s ctx (pktF n.pkt 191 128)))) id 0x04
    if n.st = .reading then answerArgs s id n r
    else
    match r with
    | .ok v => { s with nodes := s.nodes.put id { n with st := .waiting, count := some (v % 2 ^ 32) } }
    | .nack w => bad w
    | .ue => bad 3
    | .retry => s

/-- A message met a page that its target refuses: an access fault at the mbsend, an exact trap (R163, R399). DEDUCED (assumption
log 60). -/
def mailNack (s : State) (c k j pkg why : Nat) : State :=
  match s.snd? c k j with
  | some x =>
    match x.wait with
    | .mbsend _ =>
      let y := { x with wait := .ready }
      scalarTrap (s.putSnd c k j y) c k j y 0x51 (info := nackDetail pkg why false true)
    | _ => s
  | none => s

/-- The effect of an answer to a remote operation on whoever issued it; a page not present is waited for, with the delay
doubling up to 8 times (R399). Collective packets and renewals have nothing more to do; permit requests, peer launches and
the status of a message have answers of their own. -/
def applyReply (s : State) (op : Nat) (r : Reply) : State :=
  match s.pend.find op with
  | none => s
  | some p =>
    match r with
    | .retry =>
      let due := s.cycle + rtoCycles s (p.port.getD 0) * 2 ^ min p.placed 8
      { s with pend := s.pend.put op { p with placed := p.placed + 1, backoff := some due } }
    | _ =>
      let t := { s with pend := s.pend.del op }
      match p.msg.origin? with
      | some (.lane c k j e l) => settleReplay (answerLane t c k j e l r) c k j
      | some (.scalar c k j) => answerScalar t c k j r
      | some (.copy c k id z h a) => answerCopy t c k id z h a p.msg.pkg p.msg.isLoad r
      | some (.route c k id z h a) => answerRoute t c k id z h a p.msg.pkg p.msg.isLoad r
      | some (.mail c k j) =>
        if p.msg.isLoad then (if coreSplit s k then s else answerMail t c k j p.msg.pkg r)
        else match r with
          | .nack w => mailNack t c k j p.msg.pkg w
          | .ue => mailNack t c k j p.msg.pkg 3
          | _ => s
      | some (.thread q c e m n a) => answerThread t q c e m n a p.msg.pkg p.msg.isLoad r
      | some (.peer c q a k n) => answerPeer t c q a k n p.msg.pkg r
      | some (.node c i) => answerNode t c i p.msg.pkg r
      | none =>
        match p.msg with
        | .permitAsk _ _ _ _ | .launch _ _ _ _ _ _ => s
        | _ => t

/-- WINDOW_ACK_ARRIVAL: a target's answer to a window access of this package: a posted store is now performed for the
system (R161); a read or an atomic has its value; a NACK that is not retryable is an access fault (R163). -/
def execEWindowAckArrival (op : Nat) (reply : Reply) (s : State) : Out := .next (applyReply s op reply)

/-- A message goes out again, over a port that is up now. -/
def resend (s : State) (op : Nat) (p : Pending) : State :=
  let port := if p.msg.pkg = s.plat.pkgid then none else s.portFor p.msg
  ({ s with pend := s.pend.put op { p with port := port, sentAt := s.cycle } } : State).emit p.msg

/-- DIRECT_PLACEMENT_RETRY: the backoff of a write that met a page not present has passed; it is sent again (R399). -/
def execEDirectPlacementRetry (op : Nat) (s : State) : Out :=
  .next (match s.pend.find op with
    | none => s
    | some p =>
      match p.backoff with
      | none => s
      | some due =>
        if s.cycle < due then s
        else resend s op { p with backoff := none, status := none })

/-! ## Alias stores (R325 to R327) -/

/-- Bytes of staging in use (R326). -/
def stagedBytes (e : CollEntry) : Nat := e.staging.foldl (fun n g => n + g.2.bytes.length) 0

/-- The switch die takes a member's alias store of bytes at an address (R325, R326): staged, discarded because its chunk is
ready, or refused for want of space, which leaves it to be tried again. The answer says whether it was accepted. -/
def aliasAccept (s : State) (ctx cid m va : Nat) (bs : List Byte) (x : Snd) (core slices : Nat) : State × Bool :=
  match s.entry? ctx cid with
  | none => (s, false)
  | some e =>
    match e.win with
    | none => (s, false)
    | some w =>
      let off := (va - w.base) % w.half
      let par := (va - w.base) / w.half
      let c := (e.part m).inst
      let inst := if c % 2 = par then c else (c + 1) % 2 ^ 32
      let k := stageKey m inst
      let ch := off / e.cb
      if stagedReady e m inst ch then
        let p := e.part m
        let q : Part := { p with stat := p.stat.put inst (Alu.orN (p.stat.getOr 0 inst) 8) }
        let s := s.modEntry ctx cid (fun e => { e with parts := e.parts.put m q })
        (countError s aliasDuplicates, true)
      else if Config.stagingBytes + 256 < stagedBytes e + bs.length then (s, false)
      else
        let g := e.staging.getOr { bytes := [], released := [], taken := [], snd := x.uid, slices := slices, wid := x.identity, core := core } k
        let bytes := bs.zipIdx.foldl (fun (t : Tbl Byte) (b, i) => t.put (off + i) b) g.bytes
        let s := s.modEntry ctx cid (fun e => { e with staging := e.staging.put k { g with bytes := bytes } })
        (settleOwed s ctx cid m, true)

/-- ALIAS_STORE_ACCEPT: the alias store of a lane that has been sent reaches the switch die (R326), the lanes of one aligned 8-byte
word in ascending lane index (R161, R318). -/
def execEAliasStoreAccept (ctx core slot entry lane : Nat) (s : State) : Out :=
  .next (match s.snd? ctx core slot with
    | none => s
    | some x =>
      match x.oplog.find entry with
      | none => s
      | some e =>
        match e.todo.find? (fun a => a.lane == lane && a.sent) with
        | none => s
        | some la =>
          match la.loc with
          | .aliasWin cid va =>
            if e.todo.any (fun b => b.sent && decide (b.lane < la.lane) && b.va / 8 == va / 8) then s
            else
            let (t, ok) := aliasAccept s ctx cid la.new va (toBytes (tySize e.ty) la.data) x core e.slices
            if ok then settleReplay (t.modSnd ctx core slot (fun x => x.finishLane entry e la 0)) ctx core slot else s
          | _ => s)

/-! ## Deferred faults (R163, R234) -/

/-- DEFERRED_FAULT_DELIVERY: the fault that an entry holds is delivered at an instruction boundary of a sounder that is not
in handler mode; the frame names the entry. -/
def execEDeferredFaultDelivery (ctx core slot entry : Nat) (s : State) : Out :=
  .next (match s.snd? ctx core slot with
    | none => s
    | some x =>
      match x.oplog.find entry with
      | none => s
      | some e =>
        if e.held.isEmpty || e.told || x.handler || !x.mayIssue || x.midSend then s
        else
          let la := e.held.headD { lane := 0, va := 0, loc := .sp 0, data := 0, new := 0, sent := false }
          let s := s.putSnd ctx core slot { x with oplog := x.oplog.put entry { e with told := true } }
          takeTrap s ctx core slot
            { cause := e.cause, stream := 2, oplog := some entry, lpc := e.lpc, slices := e.slices,
              lane := if e.slices = 0 then none else some la.lane, block := e.block, word := e.word, addr := la.va,
              info := e.detail })

/-! ## Mailboxes (R224, R225) -/

/-- A message from another package reaches its slot, once the access-control table admits it (R375), with the answer that goes
back. -/
def mailInbound (s : State) (port srcpkg srcctx ctx core slot : Nat) (bs : List Byte) (admitted : Bool) : State × OutMsg :=
  if !admitted then (s, .answer srcpkg 0 3 [])
  else
    let determ := s.launches.any (fun e => e.2.ctx == ctx && e.2.determ)
    match mailArrive s srcpkg srcctx ctx core slot (if determ then widPkg srcpkg else 0) bs (.port port) with
    | (t, .status n) => (t, .answer srcpkg 0 n [])
    | (t, .nack w) => (t, .answer srcpkg 2 w [])
    | (t, .wait) => (t, .answer srcpkg 1 0 [])

/-- A message of this package to one of its own slots; while a page of the buffer is not present it waits to be tried
again (R399). -/
def mailOwn (s : State) (op : Nat) : State :=
  match s.pend.find op with
  | some p =>
    match p.msg with
    | .mail pkg ctx core slot srcctx bs (.mail c k j) _ =>
      if pkg ≠ s.plat.pkgid ∨ p.status.isSome ∨ p.backoff.isSome ∨ coreSplit s k then s
      else
        let wid := match s.snd? c k j with | some x => x.identity | none => 0
        match mailArrive s pkg srcctx ctx core slot wid bs (.core k) with
        | (t, .status n) => { t with pend := t.pend.put op { p with status := some n } }
        | (t, .nack w) => applyReply t op (.nack w)
        | (t, .wait) => applyReply t op .retry
    | _ => s
  | none => s

/-- MAILBOX_STATUS_RETURN: the answer to a message reaches its sender and mbsend retires: the status its own slot gave, or
for another package the one given (R225). -/
def execEMailboxStatusReturn (op status : Nat) (s : State) : Out :=
  .next (match s.pend.find op with
    | some p =>
      match p.msg with
      | .mail pkg _ _ _ _ _ (.mail c k j) _ =>
        let t := { s with pend := s.pend.del op }
        if pkg = s.plat.pkgid then
          match p.status with
          | some n => mailReturn t c k j n
          | none => s
        else if status < 4 then mailReturn t c k j status
        else s
      | _ => s
    | none => s)

/-! ## Readiness of join sets (R285) -/

/-- The lane word at an index of a sounder's code, as an issue of a join set. -/
def issueAt (s : State) (ctx core slot slices : Nat) (x : Snd) : Option Issue :=
  match x.runningBlock with
  | none => none
  | some b =>
    let w := laneWordAt s ctx x (x.slices.getOr Slice.reset (lowSlice slices)).pc
    let maj := w / 2 ^ 88
    let lay := if (0x11 ≤ maj ∧ maj ≤ 0x1B) ∨ (0x20 ≤ maj ∧ maj ≤ 0x23) ∨ maj = 0x38 then LaneBody.i (laneIof w) else LaneBody.r (laneRof w)
    some (Issue.of s ctx core slot slices x b maj (w / 2 ^ 80 % 256) lay)

/-- The word that a join set comes to lies outside its block (R77), or is illegal (R69): it traps as soon as it issues. -/
def Issue.trapsAtOnce (i : Issue) : Bool :=
  i.lpc < i.blk.entry || i.blk.entry + i.blk.len ≤ i.lpc ||
  (laneIllegal (BitVec.ofNat 96 i.word) i.x.n (bits i.fpctl 10 8)).isSome

/-- The registers that an instruction needs and cannot have now (R48): those of its destination, or of a copy's names. -/
def Issue.wantsRegs (i : Issue) (s : State) : Nat :=
  let dst := i.dstNames.length
  let want := fun ok : Bool => if ok || poolRoom s i.ctx i.core dst then 0 else dst
  if i.trapsAtOnce || !i.emptyNow.isEmpty then 0
  else if i.isEngine then
    if i.maj = 0x30 then
      let n := (layoutAt s i.req (i.opB s)).needs
      if i.mask = 0 || poolRoom s i.ctx i.core n then 0 else n
    else want (i.mask == 0)
  else if 0x20 ≤ i.maj && i.maj ≤ 0x23 then
    let av := i.srcA s
    let extra := if i.logKind = .load then i.loadKey s av else none
    want (i.mask == 0 || (match i.loadLookup s av extra with | .hit _ => true | _ => false))
  else want (i.room s i.reusable (i.memoKey s []))

/-- The instruction of a join set stands at something that has not come about, its operands aside: a bank, a log entry, a
register, an engine, a fence (R162, R177, R181, R285, R310). An arithmetic instruction that waits for a register may still
trap while an exception is enabled. -/
def Issue.stalls (i : Issue) (s : State) : Bool :=
  if i.isEngine then i.engineWaits s
  else if 0x20 ≤ i.maj && i.maj ≤ 0x23 then
    let av := i.srcA s
    if i.mask = 0 || (i.maj == 0x21 && i.min == 2) then false
    else if i.probed.isNone && i.accessLanes.any (fun l => i.bankBusy s (av.getD l 0)) then true
    else if i.probed.isNone && i.accessLanes.any (fun l => (i.failCheck s i.ask (av.getD l 0)).isSome) then false
    else
      match i.loadLookup s av (if i.logKind = .load then i.loadKey s av else none) with
      | .hit _ => false
      | _ => i.wantsRegs s != 0 || i.x.freeEntry.isNone
  else if i.maj = 0x24 then
    !(if i.min = 3 then i.fenced false && i.enginesDone s else i.fenced (i.min == 2))
  else i.wantsRegs s != 0 && bits i.fpctl 4 0 == 0

/-- A join set is ready: its next instruction can issue now (R285), which one that traps can. DEDUCED (assumption log 47). -/
def setReady (s : State) (ctx core slot slices : Nat) (x : Snd) : Bool :=
  match issueAt s ctx core slot slices x with
  | none => false
  | some i =>
    x.mayIssue &&
    (i.trapsAtOnce || i.notMine s || i.emptyNow.any (fun e => e.2.2) || (i.emptyNow.isEmpty && !i.stalls s))

/-- The join sets of a sounder that have a slice to issue: lowest slice and members. -/
def joinSets (x : Snd) : List (Nat × Nat) :=
  let open_ := x.slices.filter (fun e => !e.2.done && !e.2.atRegang)
  (open_.map (·.2.join)).eraseDups.map fun j =>
    (j, open_.foldl (fun a e => if e.2.join = j then a + 2 ^ e.1 else a) 0)

/-! ## Arbitration (R284 to R286) -/

/-- A candidate of an arbitration: slot, key in WAIT (lowest slice, or 24 for the scalar stream), age, WAIT, yielded. -/
structure Cand where
  slot   : Nat
  key    : Nat
  age    : Nat
  waited : Nat
  yield  : Bool
  deriving DecidableEq, Repr

/-- One candidate goes before another under R286: one that yielded last; then, where a WAIT has reached 32, the greatest
WAIT; then age; then the lowest slice. -/
def Cand.before (capped : Bool) (a b : Cand) : Bool :=
  if a.yield != b.yield then b.yield
  else if capped && a.waited != b.waited then decide (b.waited < a.waited)
  else if a.age != b.age then decide (a.age < b.age)
  else decide (a.key < b.key)

/-- The candidate that is chosen. -/
def chooseCand (cs : List Cand) : Option Cand :=
  let capped := cs.any (fun c => !c.yield && decide (32 ≤ c.waited))
  cs.foldl (fun b c => match b with | none => some c | some d => if c.before capped d then some c else some d) none

/-- The sounders of a core's active bank whose home is a quadrant (R284). -/
def quadSounders (s : State) (core quad : Nat) : Nat × List (Nat × Snd) :=
  let k := s.coreOf core
  match (if k.active = 0 then k.bank0 else k.bank1) with
  | none => (0, [])
  | some ctx =>
    if k.failed || k.gated || !ctxLive s ctx then (ctx, [])
    else (ctx, (s.ccOf ctx core).sounders.filter (fun e => e.1 % 4 == quad))

/-- What an arbitration leaves: the chosen set's WAIT is 0, the others' are one more, and a set that had yielded has given
its one arbitration up. -/
def settleWaits (s : State) (ctx core : Nat) (cs : List Cand) (won : Cand) : State :=
  cs.foldl (fun s c =>
    s.modSnd ctx core c.slot (fun x =>
      { x with waits := x.waits.setOr 0 c.key (if c.slot = won.slot ∧ c.key = won.key then 0 else c.waited + 1),
               yielded := x.yielded.filter (· != c.key) })) s

/-- The join sets that wait for a log entry have passed their probe (R162). -/
def probeWaiting (s : State) (ctx core slot : Nat) (x : Snd) : State :=
  (joinSets x).foldl (fun s g =>
    match issueAt s ctx core slot g.2 x with
    | none => s
    | some i =>
      match i.waitsLog s with
      | some e => if x.mayIssue && !i.trapsAtOnce && i.emptyNow.isEmpty then i.hold s e else s
      | none => s) s

/-- QUADRANT_ARBITRATION: a free port of a quadrant, the lane port or the scalar port, chooses among what is ready. -/
def execEQuadrantArbitration (core quad : Nat) (lane : Bool) (s : State) : Out :=
  let (ctx, xs) := quadSounders s core quad
  let cs : List Cand :=
    if lane then
      xs.flatMap fun (j, x) =>
        ((joinSets x).filter (fun g => setReady s ctx core j g.2 x)).map fun g =>
          { slot := j, key := g.1, age := x.age, waited := x.waits.getOr 0 g.1, yield := x.yielded.contains g.1 }
    else
      (xs.filter (fun e => e.2.mayIssue && e.2.wait.issues)).map fun (j, x) =>
        { slot := j, key := 24, age := x.age, waited := x.waits.getOr 0 24, yield := false }
  let port := if lane then (s.coreOf core).lanePort else (s.coreOf core).scalPort
  .next (match port.find quad with
    | some _ => s
    | none =>
      let s := if lane then xs.foldl (fun s e => probeWaiting s ctx core e.1 e.2) s else s
      match chooseCand cs with
      | none => s
      | some w =>
        let s := settleWaits s ctx core cs w
        let s := s.modCore core (fun k =>
          if lane then { k with lanePort := k.lanePort.put quad (32 * w.slot + w.key) } else { k with scalPort := k.scalPort.put quad w.slot })
        { s with freeCtr := s.freeCtr + 16 })

end Sys2Proof.Machine
end

