-- ==== Sys2Proof/Machine/Paging.lean ====
section
/-! DEFINITION. Frames and page tables as the service keeps them (R382 to R388, R426): taking and freeing frames, making
tables, writing leaves, and the ranges of map, unmap, protect, reserve and unreserve. -/

namespace Sys2Proof.Machine

open Sys2Proof

/-! ## Frames (R386, R422) -/

/-- The pool of a die (0 to 3) or of the second tier (4). -/
def poolOf (s : State) (p : Nat) : Pool := s.pools.getOr (Pool.reset p) p
def putPool (s : State) (p : Nat) (x : Pool) : State := { s with pools := s.pools.put p x }

/-- A range of a pool overlaps a retired one. -/
def Pool.isRetired (x : Pool) (a n : Nat) : Bool := x.retired.any (fun r => r.1 < a + n && a < r.1 + r.2)

/-- The first aligned place from `a` up that no retired range overlaps. -/
def Pool.skipRetired (x : Pool) (n : Nat) : Nat → Nat → Nat
  | 0, a => a
  | k + 1, a => if x.isRetired a n then x.skipRetired n k (a + n) else a

/-- Take a frame of `n` bytes, aligned to its size: a freed one of that size, else the next unused. -/
def Pool.take (x : Pool) (n : Nat) : Option (Nat × Pool) :=
  match x.free.find? (fun f => f.2 == n && !x.isRetired f.1 n) with
  | some f => some (f.1, { x with free := x.free.filter (· != f) })
  | none =>
    let a := x.skipRetired n (x.retired.length * 2 ^ 19) ((x.next + n - 1) / n * n)
    if a + n ≤ x.last then some (a, { x with next := a + n }) else none

/-- Bytes of a physical range read 0, and its lines are no longer poisoned: every line is written in full (R386, R307). -/
def zeroRange (s : State) (a n : Nat) : State :=
  { s.forget a n with
           pmem := s.pmem.filter (fun e => !(decide (a ≤ e.1) && decide (e.1 < a + n))),
           smem := s.smem.filter (fun e => !(decide (a ≤ e.1) && decide (e.1 < a + n))),
           poison := s.poison.filter (fun l => !(decide (a ≤ 64 * l) && decide (64 * l < a + n))) }

/-- A zeroed frame of a pool. -/
def takeFrame (s : State) (p n : Nat) : Option (Nat × State) :=
  match (poolOf s p).take n with
  | none => none
  | some (a, x) => some (a, zeroRange (putPool s p x) a n)

def freeFrame (s : State) (p a n : Nat) : State :=
  let x := poolOf s p
  putPool s p { x with free := (a, n) :: x.free }

/-- The pool that a physical frame belongs to. -/
def poolAt (pa : Nat) : Nat := pa / 2 ^ 44 - 1

/-! ## Tables (R382, R383) -/

def pteAddr (table level va : Nat) : Nat := table + 8 * (va / 2 ^ levelShift level % levelSize level)
def readPte (s : State) (table level va : Nat) : Nat := s.readN (pteAddr table level va) 8
def writePte (s : State) (table level va e : Nat) : State := s.writeBytes (pteAddr table level va) (toBytes 8 e)

/-- The table that holds the entry of an address at a level, made on the way down where it is missing; none where a leaf
or a reserved leaf of a higher level stands in the way, or no frame is left. -/
def tableFor (s : State) (die va target : Nat) : Nat → Nat → Option (Nat × State)
  | 0, table => some (table, s)
  | l + 1, table =>
    if l + 1 = target then some (table, s)
    else
      let e := readPte s table (l + 1) va
      if pteV e && !pteL e then tableFor s die va target l (pteFrame e * 4096)
      else if pteV e || pteL e then none
      else
        match takeFrame s die 4096 with
        | none => none
        | some (a, t) => tableFor (writePte t table (l + 1) va (1 + a / 4096 * 2 ^ 6)) die va target l a

/-- Where the walk of an address ends: level, table, entry. -/
def slotOf (s : State) (va : Nat) : Nat → Nat → Nat × Nat × Nat
  | 0, table => (0, table, readPte s table 0 va)
  | l + 1, table =>
    let e := readPte s table (l + 1) va
    if pteV e && !pteL e then slotOf s va l (pteFrame e * 4096) else (l + 1, table, e)

/-- Level and size of a leaf by PGSZ: 4 KiB, 64 KiB, 2 MiB, 1 GiB (R386). -/
def pgLevel (pgsz : Nat) : Nat := if pgsz ≤ 1 then 0 else pgsz - 1
def pgBytes (pgsz : Nat) : Nat :=
  match pgsz with
  | 0 => 2 ^ 12
  | 1 => 2 ^ 16
  | 2 => 2 ^ 21
  | _ => 2 ^ 30

/-- A leaf's fields (Table 2 of 20). -/
def mkLeaf (valid : Bool) (kind pkg frame : Nat) (pin c w r : Bool) : Nat :=
  let b := fun (x : Bool) (n : Nat) => if x then n else 0
  kind * 2 ^ 62 + pkg * 2 ^ 50 + frame * 2 ^ 6 + b pin 32 + b c 16 + b w 8 + b r 4 + 2 + b valid 1

/-- Write the leaf of a page, the 16 entries of a 64 KiB page alike (R384). -/
def writeLeaf (s : State) (die troot va level e : Nat) : Option State :=
  match tableFor s die va level 4 troot with
  | none => none
  | some (table, t) =>
    if level = 0 ∧ pteC e then
      some ((List.range 16).foldl (fun s i => writePte s table 0 (va / 2 ^ 16 * 2 ^ 16 + 4096 * i) e) t)
    else some (writePte t table level va e)

/-- Every entry below a non-leaf entry is empty. -/
def tableEmpty (s : State) : Nat → Nat → Bool
  | 0, table => (List.range 512).all (fun i => s.readN (table + 8 * i) 8 == 0)
  | l + 1, table => (List.range 512).all (fun i =>
      let e := s.readN (table + 8 * i) 8
      e == 0 || (pteV e && !pteL e && tableEmpty s l (pteFrame e * 4096)))

/-- Nothing is mapped or reserved in a page of a level (R386). -/
def pageFree (s : State) (troot va level : Nat) : Bool :=
  let rec go : Nat → Nat → Bool
    | 0, table => readPte s table 0 va == 0
    | l + 1, table =>
      let e := readPte s table (l + 1) va
      if e = 0 then true
      else if pteL e then false
      else if l + 1 = level then tableEmpty s l (pteFrame e * 4096)
      else go l (pteFrame e * 4096)
  go 4 troot

/-! ## Ranges -/

/-- What a mapping names (R386). -/
structure MapReq where
  pgsz  : Nat
  kind  : Nat
  r     : Bool
  w     : Bool
  pin   : Bool
  die   : Nat
  pkg   : Nat
  target : Nat
  deriving DecidableEq, Repr

/-- Pages of a range are free of mappings and reservations. -/
def rangeFree (s : State) (troot pgsz va : Nat) : Nat → Bool
  | 0 => true
  | n + 1 =>
    (if pgsz = 1 then (List.range 16).all (fun i => pageFree s troot (va + 4096 * i) 0) else pageFree s troot va (pgLevel pgsz)) &&
    rangeFree s troot pgsz (va + pgBytes pgsz) n

/-- Write the leaves of a range: valid ones with frames of kinds 0 and 1, or reserved ones (R386, R426); none where a frame
is wanting. -/
def mapRange (s : State) (home troot : Nat) (q : MapReq) (valid : Bool) (va : Nat) : Nat → Nat → Option State
  | 0, _ => some s
  | n + 1, i =>
    let sz := pgBytes q.pgsz
    let got : Option (Nat × State) :=
      if !valid then some (0, s)
      else
        match q.kind with
        | 0 => (takeFrame s q.die sz).map fun (a, t) => (a / 4096, t)
        | 1 => (takeFrame s 4 sz).map fun (a, t) => (a / 4096, t)
        | 2 => some ((q.target + i * sz) / 4096 % 2 ^ 44, s)
        | _ => some (q.target % 4096, s)
    match got with
    | none => none
    | some (f, t) =>
      let e := mkLeaf valid q.kind (if q.kind = 2 ∧ valid then q.pkg else 0) f (valid && q.pin) (q.pgsz == 1) q.w q.r
      match writeLeaf t home troot va (pgLevel q.pgsz) e with
      | none => none
      | some u => mapRange u home troot q valid (va + sz) n (i + 1)

/-- The mapped pages of a range with their walks' ends: (va, size, entry), ascending; unmapped stretches are passed over. -/
def pagesIn (s : State) (troot last : Nat) : Nat → Nat → List (Nat × Nat × Nat)
  | 0, _ => []
  | n + 1, va =>
    if last ≤ va then []
    else
      let (l, _, e) := slotOf s va 4 troot
      let sz := 2 ^ (if pteV e then leafShift l e else levelShift l)
      let next := va / sz * sz + sz
      if pteV e then (va / sz * sz, sz, e) :: pagesIn s troot last n next else pagesIn s troot last n next

/-- Change the entry of a page, the 16 of a 64 KiB page alike. DEDUCED (assumption log 57). -/
def changeLeaf (s : State) (troot va : Nat) (f : Nat → Nat) : State :=
  let (l, table, e) := slotOf s va 4 troot
  if l = 0 ∧ pteC e then
    (List.range 16).foldl (fun s i => writePte s table 0 (va / 2 ^ 16 * 2 ^ 16 + 4096 * i) (f e)) s
  else writePte s table l va (f e)

/-- Map the page of a reserved leaf that an address lies in, zeroed (R392, R399); none where it lies in none, or no frame is
left. The answer also names the page and its size. -/
def mapReserved (s : State) (ctx va : Nat) : Option (Nat × Nat × State) :=
  match s.ctx? ctx with
  | none => none
  | some c =>
    let (l, _, e) := slotOf s va 4 c.troot
    if pteV e || !pteL e then none
    else
      let sz := 2 ^ leafShift l e
      let pool := match c.resv.find? (fun r => decide (r.1 ≤ va) && decide (va < r.1 + r.2.1)) with
        | some r => r.2.2
        | none => c.die
      match takeFrame s pool sz with
      | none => none
      | some (a, t) =>
        let base := va / sz * sz
        let t := changeLeaf t c.troot base (fun e => e + 1 + a / 4096 * 2 ^ 6)
        let t := t.modCtx ctx (fun c => { c with refused := c.refused.filter (fun p => !(decide (base ≤ 4096 * p) && decide (4096 * p < base + sz))) })
        some (base, sz, t)

/-- PGSZ code of a page size. -/
def pgCode (sz : Nat) : Nat := if sz = 2 ^ 12 then 0 else if sz = 2 ^ 16 then 1 else if sz = 2 ^ 21 then 2 else 3

end Sys2Proof.Machine
end

