-- ==== Sys2Proof/Machine/Sett.lean ====
section
/-! DEFINITION. The sett of a context as it lies in memory owned by the service: its directory, the segment of a core, and the
layouts of Tables 9 and 10 of 20 (R403, R405, R406). -/

namespace Sys2Proof.Machine

open Sys2Proof

/-- Bytes of the frame that holds a segment: room for every tile, bank and sounder slot (Table 9 of 20). -/
def segSize : Nat := 2 ^ 23

/-- A directory of 512 segment addresses (R405); none where the die has no frame left. -/
def newDirectory (s : State) (die : Nat) : Option (Nat × State) := takeFrame s die 4096

/-- A context receives its first share on a core: its segment is allocated, empty, and its address goes into the directory
(R405); none where no frame is left. -/
def openSegment (s : State) (ctx core : Nat) : Option State :=
  match s.ctx? ctx with
  | none => none
  | some c =>
    if (s.ccOf ctx core).seg ≠ 0 then some s
    else
      match takeFrame s c.die segSize with
      | none => none
      | some (a, t) =>
        let t := t.modCC ctx core (fun cc => { cc with seg := a })
        some (if c.sett = 0 then t else writeService t (c.sett + 8 * core) (toBytes 8 a))

/-- A piece of a segment: its offset and its bytes; what no piece covers is 0. -/
abbrev Piece := Nat × List Byte

/-- Words of 8 bytes from an offset on, those that are not 0. -/
def wordPieces (off : Nat) (ws : List Nat) : List Piece :=
  (ws.zipIdx.filter (fun e => e.1 != 0)).map fun (w, i) => (off + 8 * i, toBytes 8 w)

/-- A set of numbers as a bit mask. -/
def maskOf (ns : List Nat) : Nat := ns.foldl (fun m n => Alu.orN m (2 ^ n)) 0

/-- The reuse counters of the sounders, slot by slot (Table 2 of 01). -/
def counterWords (cc : CtxCore) : List Nat :=
  (List.range 16).flatMap fun j =>
    match cc.sounders.find j with
    | none => [0, 0, 0, 0, 0]
    | some x => [x.rlook.toNat, x.rhits.toNat, x.rshare.toNat, x.rsatur.toNat, x.rpark.toNat]

/-- The header: STATE, D, the share, the counters (Table 9 of 20). DESIGN CHOICE: the places inside the share and of the counters
(assumption log 56). -/
def headerPieces (cc : CtxCore) (state : Nat) : List Piece :=
  wordPieces 0 [state, cc.debt, cc.share.regs, maskOf cc.share.tiles, maskOf cc.share.cbufs, maskOf cc.share.mailboxes] ++
  [(0x40, toBytes 32 (maskOf cc.share.handles)), (0x80, toBytes 64 (maskOf cc.share.barriers))] ++
  wordPieces 0x100 (counterWords cc)

/-- Where a slice stands: its lane program counter, its join set, whether it is done or at a regang. -/
def sliceWord (t : Tbl Slice) (i : Nat) : Nat :=
  let sl := t.getOr Slice.reset i
  sl.pc % 2 ^ 32 + sl.join % 2 ^ 8 * 2 ^ 32 + (if sl.done then 2 ^ 40 else 0) + (if sl.atRegang then 2 ^ 41 else 0)

/-- A queued block: entry, length, activity mask, k0 to k7, in 128 bytes. -/
def blockPieces (off : Nat) (b : Block) : List Piece :=
  wordPieces off [b.entry, b.len] ++ [(off + 16, toBytes 16 b.mask)] ++ wordPieces (off + 64) (b.k.map (·.toNat))

/-- What a scalar stream waits for, as words. -/
def SWait.words : SWait → List Nat
  | .ready => [0]
  | .waitany d => [1, d]
  | .bar d ref token => [2, d, ref, token]
  | .mbrecv d slot => [3, d, slot]
  | .mbsend d => [4, d]
  | .det word => [5, word]
  | .mbread d dest a left _ => [6, d, dest, a, left]
  | .replay d k => [7, d, k]
  | .load d code pkg va => [8, d, code, pkg, va]

/-- Handler mode and the state held aside (R233): the program counters, the interrupted issue, its wait, its slices and queue. -/
def asidePieces (off : Nat) (x : Snd) (a : Aside) : List Piece :=
  wordPieces off ([1, x.pc, a.pc, a.stream, a.issue, a.words, if a.running then 1 else 0] ++ a.wait.words) ++
  wordPieces (off + 0x80) ((List.range 24).map (sliceWord a.slices)) ++
  (a.queue.zipIdx.flatMap fun (b, i) => blockPieces (off + 0x180 + 128 * i) b)

/-- The record of the sounder in a slot (Table 10 of 20), its system registers and its log in the layouts that software reads
(Table 2 of 01, R239). DESIGN CHOICE: the places inside a block record, a slice's word and the handler's area (log 56). -/
def sounderPieces (s : State) (ctx core j : Nat) (x : Snd) : List Piece :=
  let at_ := 0x1000 + 0x4000 * j
  wordPieces at_ ((List.range 64).map (fun r => (x.sreg r).toNat)) ++
  wordPieces (at_ + 0x200) [x.c.toNat / 2 * 2, if x.fills.any (fun f => !f.2.keep.isEmpty) then 1 else 0] ++
  (x.q.map fun (r, v) => (at_ + 0x210 + 16 * r, toBytes 16 v.toNat)) ++
  wordPieces (at_ + 0x400) ((List.range 80).map (fun r => (sysRead s ctx core x r).toNat)) ++
  (x.queue.zipIdx.flatMap fun (b, i) => blockPieces (at_ + 0x700 + 128 * i) b) ++
  wordPieces (at_ + 0x900) ((List.range 24).map (sliceWord x.slices)) ++
  (match x.aside with | some a => asidePieces (at_ + 0xA00) x a | none => wordPieces (at_ + 0xA00) [if x.handler then 1 else 0, x.pc]) ++
  (x.oplog.flatMap fun (k, e) => wordPieces (at_ + 0xE00 + 1600 * k) ((List.range 200).map e.view))

/-- A tile's elements, 64 bits each, row by row. -/
def tilePieces (off : Nat) (t : Tile) : List Piece := t.elems.map fun (k, v) => (off + 8 * k, toBytes 8 v)

/-- The bytes of an SRAM bank. -/
def bankPieces (off b : Nat) (sram : Tbl Byte) : List Piece :=
  (sram.filter (fun e => e.1 / 2 ^ 15 == b)).map fun (a, v) => (off + a % 2 ^ 15, [v])

/-- The vector names of a sounder: 384 bytes each, values and not identities (R50). -/
def vectorPieces (off : Nat) (x : Snd) : List Piece :=
  x.v.map fun (n, v) => (off + 384 * n, v.flatMap (fun w => toBytes 4 w.toNat))

/-- A barrier in 128 bytes: what it is, its counts and phase, and its first ranks with their members (Table 9 of 20). -/
def barrierPieces (n : Nat) (b : Barrier) : List Piece :=
  wordPieces (0x41000 + 128 * n)
    ([(if b.drey then 1 else 0) + (if b.formed then 2 else 0) + b.openStat.toNat * 2 ^ 8 + b.lastStat.toNat * 2 ^ 16,
      b.size, b.extra, b.members, b.arrived, b.phase.toNat] ++
     (b.ranks.take 10).map (fun (r, key, n, _) => r + key * 2 ^ 24 + n * 2 ^ 48))

/-- A mailbox slot in 512 bytes: state, buffer, the record of a message that waits (Table 9 of 20). -/
def mailPieces (n : Nat) (m : Mailbox) : List Piece :=
  wordPieces (0x51000 + 512 * n)
    (match m with | .closed => [0] | .posted a len => [1, a, len] | .arrived r => [2, 0, 0, r.toNat])

/-- A weight plane: its fields, its scales and its weights. -/
def planePieces (off : Nat) (p : Plane) : List Piece :=
  wordPieces off [(if p.loaded then 1 else 0) + (if p.perm then 2 else 0), p.kind, p.desc, p.blockL, p.depth] ++
  (p.scales.map fun (k, v) => (off + 0x100 + k, toBytes 1 v)) ++ (p.weights.map fun (k, v) => (off + 0x2000 + 2 * k, toBytes 2 v))

/-- A waiting or suspended command in 128 bytes: its unit, its place in the issue order, how far it has got. -/
def commandWords (cc : CtxCore) : List (List Nat) :=
  (cc.copies.map fun c =>
    [1, c.id, c.ctl, c.handle, c.lay.sbase, c.lay.dbase, if c.fired then 1 else 0, c.next, c.bytes, c.claim, c.unacked,
     c.suspended.getD 0, c.after, c.since, c.snd, c.slices]) ++
  (cc.array.map fun m =>
    [2, m.id, m.ctl, m.handle.getD 256, m.word % 2 ^ 64, m.word / 2 ^ 64, if m.fired then 1 else 0, 0, 0, m.claim, 0, 0, m.after, m.since, m.snd, m.slices]) ++
  (cc.pops.map fun p => [3, p.id, p.buf, p.slot, 0, 0, 0, 0, 0, 0, 0, 0, 0, 0, p.snd, p.slices])

/-- Handles, buffers and the positions of their rows, π, the planes and the commands (Table 9 of 20). -/
def enginePieces (cc : CtxCore) : List Piece :=
  (cc.handles.flatMap fun (h, x) => wordPieces (0x55000 + 8 * h) [x.bytes % 2 ^ 32 * 2 ^ 32 + x.err % 16 * 16 + x.state % 4]) ++
  (cc.cbufs.flatMap fun (b, x) =>
    wordPieces (0x55800 + 32 * b) [x.cfg, x.rows.length, (x.rows.filter (·.present)).length, x.claimed]) ++
  [(0x55A00, (cc.perm.take 128).map (BitVec.ofNat 8))] ++
  planePieces 0x56000 cc.active ++ planePieces 0x60000 cc.shadow ++
  ((commandWords cc).zipIdx.flatMap fun (ws, i) => wordPieces (0x6A000 + 128 * i) ws)

/-- Where the vector names of a slot lie in a segment (Table 9 of 20). -/
def vectorArea (cc : CtxCore) (banks : List Nat) (j : Nat) : Nat :=
  0x75000 + 0x8000 * (cc.share.tiles.length + banks.length) + 0x3C000 * j

/-- The objects of a segment in the order of Table 9: sounder records, barriers, mailbox slots, engines, tiles, banks, vector
names. -/
def segPieces (s : State) (ctx core : Nat) (banks : List Nat) : List Piece :=
  let cc := s.ccOf ctx core
  let tiles := cc.share.tiles
  (cc.sounders.flatMap fun (j, x) => sounderPieces s ctx core j x) ++
  (cc.barriers.flatMap fun (n, b) => barrierPieces n b) ++ (cc.mail.flatMap fun (n, m) => mailPieces n m) ++ enginePieces cc ++
  (tiles.zipIdx.flatMap fun (t, i) => tilePieces (0x75000 + 0x8000 * i) (cc.tiles.getOr Tile.reset t)) ++
  (banks.zipIdx.flatMap fun (b, i) => bankPieces (0x75000 + 0x8000 * (tiles.length + i)) b cc.sram) ++
  (cc.sounders.flatMap fun (j, x) => vectorPieces (vectorArea cc banks j) x)

/-- Write pieces of a segment, in order. -/
def writePieces (s : State) (seg : Nat) (ps : List Piece) : State := ps.foldl (fun s p => writeService s (seg + p.1) p.2) s

/-- Set the STATE of a segment: 0 empty, 1 saved, 2 filling (Table 9 of 20). -/
def segState (s : State) (ctx core n : Nat) : State :=
  let a := (s.ccOf ctx core).seg
  if a = 0 then s else writeService s a (toBytes 8 n)

/-- Memory of the service reads 0 from an address on. -/
def clearService (s : State) (a n : Nat) : State :=
  { s with smem := s.smem.filter (fun e => !(decide (a ≤ e.1) && decide (e.1 < a + n))) }

/-- The values of a sounder's names are written to its area of the sett (R48). -/
def saveNames (s : State) (ctx core j : Nat) (banks : List Nat) (x : Snd) : State :=
  let cc := s.ccOf ctx core
  let off := vectorArea cc banks j
  if cc.seg = 0 then s else writePieces (clearService s (cc.seg + off) 0x3C000) cc.seg (vectorPieces off x)

/-- Save a context's objects on a core to its segment: the objects in the order of Table 9, the header last (R403). What Tables 9
and 10 do not lay out byte by byte stays with the context's own objects (assumption log 56). -/
def saveSegment (s : State) (ctx core : Nat) (banks : List Nat) : State :=
  let cc := s.ccOf ctx core
  if cc.seg = 0 then s
  else
    let s := clearService s cc.seg segSize
    writePieces (writePieces s cc.seg (segPieces s ctx core banks)) cc.seg (headerPieces cc 1)

end Sys2Proof.Machine
end

