-- ==== Sys2Proof/Machine/Sched.lean ====
section
/-! DEFINITION. Time slices, safe points, swaps and the badger (R50, R401 to R407), the SRAM banks (R308 to R311), power
gating (R290), the failure of a core (R422), shoot-downs (R388) and the service's handling of trap-queue records (R392,
R396, R397, R399). -/

namespace Sys2Proof.Machine

open Sys2Proof

/-! ## Slices (R401, R402) -/

def activeCtx (c : Core) : Option Nat := if c.active = 0 then c.bank0 else c.bank1
def shadowCtx (c : Core) : Option Nat := if c.active = 0 then c.bank1 else c.bank0
def setBank (c : Core) (b : Nat) (x : Option Nat) : Core := if b = 0 then { c with bank0 := x } else { c with bank1 := x }

/-- A sounder makes its context ready to run (R401). A stream whose event is eligible, or whose barrier phase has passed,
is no longer parked: its wait ends at its next issue. DEDUCED (assumption log 11). -/
def Snd.runnable (x : Snd) (s : State) (ctx : Nat) : Bool :=
  !x.parked && x.suspended.isNone &&
  (x.running || !x.queue.isEmpty ||
   (match x.wait with
    | .waitany _ => x.eligible.isSome
    | .bar _ ref token => phasePassed (barrierOf s ctx (refCore ref) (refNumber ref)) token
    | .mbrecv _ _ => false
    | _ => true))

/-- Registers that an admitted sounder is charged: ⌈N ÷ f⌉, with f = 1 for a co-resident launch (R48, R281). -/
def charge (s : State) (l : Launch) : Nat :=
  let _ := s
  if l.cores then l.n else (100 * l.n + 99 + l.f) / (100 + l.f)

/-- The charges of the sounders admitted on a core. -/
def chargesOn (s : State) (ctx core : Nat) : Nat :=
  (s.ccOf ctx core).sounders.foldl (fun a e => a + (match s.launch? e.2.launch with | some l => charge s l | none => e.2.n)) 0

/-- The indices of a launch's sounders that are placed on a core (R278). -/
def placedOn (z per cbase ccount core : Nat) : List Nat :=
  (List.range z).filter (fun i => cbase + i / per % ccount == core)

/-- The sounders of a launch on a core stand first in its waiting list, their slots and charges are free there, and the share holds
the names of one of them and 64 more (R48). -/
def wholeFits (s : State) (ln : Launch) (l core : Nat) : Bool :=
  let n := (placedOn ln.z ln.per ln.cbase ln.ccount core).length
  let cc := s.ccOf ln.ctx core
  n == 0 ||
  (decide (ln.n + 64 ≤ cc.share.regs) && (residentBank s ln.ctx core).isSome && (cc.waiting.take n).all (fun w => w.1 == l) && decide (n ≤ cc.waiting.length) &&
   decide (cc.sounders.length + n ≤ 16) && decide (chargesOn s ln.ctx core + n * ln.n ≤ cc.share.regs))

/-- The next waiting sounder of a context on a core has a slot and its charge free (R280), and the share holds its names and 64 more
(R48); a launch that is admitted whole is not admitted here (R281). -/
def admissible (s : State) (ctx core : Nat) : Bool :=
  let cc := s.ccOf ctx core
  match cc.waiting with
  | [] => false
  | (l, _) :: _ =>
    match s.launch? l with
    | none => false
    | some ln => !ln.cores && decide (ln.n + 64 ≤ cc.share.regs) && decide (cc.sounders.length < 16) && decide (chargesOn s ctx core + charge s ln ≤ cc.share.regs)

/-- A slot and the charge of the next waiting sounder are free: for a co-resident launch those of all its sounders on the core. -/
def waiterFits (s : State) (ctx core : Nat) : Bool :=
  let cc := s.ccOf ctx core
  match cc.waiting with
  | [] => false
  | (l, _) :: _ =>
    match s.launch? l with
    | none => false
    | some ln =>
      let n := if ln.cores then (placedOn ln.z ln.per ln.cbase ln.ccount core).length else 1
      decide (ln.n + 64 ≤ cc.share.regs) && decide (cc.sounders.length + n ≤ 16) &&
      decide (chargesOn s ctx core + n * charge s ln ≤ cc.share.regs)

/-- A context is ready to run on a core (R401). -/
def readyToRun (s : State) (ctx core : Nat) : Bool :=
  ctxLive s ctx && ((s.ccOf ctx core).sounders.any (fun e => e.2.runnable s ctx) || waiterFits s ctx core)

/-- A slice starts: its length and what is left of the debt (R401). -/
def startSlice (s : State) (core at_ : Nat) : State :=
  match activeCtx (s.coreOf core) with
  | none => s.modCore core (fun c => { c with holding := false })
  | some ctx =>
    let cc := s.ccOf ctx core
    let len := max (cc.quantum - cc.debt) (cc.quantum / 16)
    let s := s.putCC ctx core { cc with debt := cc.debt - (cc.quantum - len) }
    s.modCore core (fun c => { c with sliceEnd := at_ + len, holding := false })

/-- The active context's slice is over, or ends early because it is not ready to run and the shadow bank's context is; without a
filled context that is ready a new slice starts where the old one ended, else the core holds for a safe point (R401). -/
def endSlice (s : State) (core : Nat) : State :=
  let c := s.coreOf core
  let other := match shadowCtx c with | some x => readyToRun s x core | none => false
  let mine := match activeCtx c with | some x => readyToRun s x core | none => false
  if c.holding || c.failed then s
  else if c.sliceEnd ≤ s.cycle then
    if other then s.modCore core (fun c => { c with holding := true, sliceAt := c.sliceEnd }) else startSlice s core c.sliceEnd
  else if !mine && other then s.modCore core (fun c => { c with holding := true, sliceAt := s.cycle })
  else s

/-- SLICE_END. The clock makes it come about at its cycle (R4); a core from which no slice end has come yet has its turn here. -/
def execESliceEnd (core : Nat) (s : State) : Out := .next (endSlice s core)

/-- The active context stands at a safe point (R402): no tile is the target of a fired array command, and no copy into a
register file has moved a byte without landing its last one, unless it is suspended. -/
def atSafePoint (s : State) (ctx core : Nat) : Bool :=
  let cc := s.ccOf ctx core
  cc.array.all (fun m => !m.fired || (match m.kind with | .mstream | .mdrain | .mclear => false | _ => true)) &&
  cc.copies.all (fun k => k.lay.dkind != 3 || k.suspended.isSome || k.next == 0 && k.part.isEmpty)

/-- The core exchanges its banks in 48 cycles, and the slice of the context that is now active starts (R401, R403). -/
def swapBanks (s : State) (core : Nat) : State :=
  let s := s.modCore core (fun c => { c with active := 1 - c.active, lanePort := [], scalPort := [], holding := false })
  startSlice s core (s.cycle + 48)

/-- SAFE_POINT: the held context reaches a safe point; its overrun is added to its debt, and the banks are exchanged. -/
def execESafePoint (core : Nat) (s : State) : Out :=
  let c := s.coreOf core
  .next (
    if !c.holding || c.moveTo.isSome then s
    else
      match activeCtx c, shadowCtx c with
      | some ctx, some _ =>
        if atSafePoint s ctx core then
          swapBanks (s.modCC ctx core (fun cc => { cc with debt := cc.debt + (s.cycle - c.sliceAt) })) core
        else s
      | none, some _ => swapBanks s core
      | _, none => s)

/-! ## Parking (R48, R49) -/

/-- The numbers of registers that executions of a context on a core need and wait for (R48). -/
def waitedRegs (s : State) (ctx core : Nat) : List Nat :=
  (s.ccOf ctx core).sounders.flatMap fun (j, x) =>
    if !(x.mayIssue && isActive s ctx core) then []
    else (joinSets x).filterMap fun g =>
      (issueAt s ctx core j g.2 x).bind fun i => if i.wantsRegs s = 0 then none else some (i.wantsRegs s)

/-- The sounder that is parked next: the youngest unparked one, the oldest and those of co-resident launches excepted (R48,
R281). -/
def nextParked (s : State) (ctx core : Nat) : Option (Nat × Snd) :=
  let up := (s.ccOf ctx core).sounders.filter (fun e => !e.2.parked)
  let oldest := up.foldl (fun m e => min m e.2.age) (2 ^ 64)
  let can := up.filter (fun e => !e.2.cores && e.2.age != oldest)
  let youngest := can.foldl (fun m e => max m e.2.age) 0
  can.find? (fun e => e.2.age == youngest)

/-- Registers of a context's share that the departure of the other bank's context needs and that are not free (R50): the
registers charged to the departing share that carry names of this context. -/
def lentRegs (s : State) (gone core : Nat) : List (Nat × Nat) :=
  (s.cc.filter (fun e => e.1 % 512 == core && e.1 / 512 != gone)).flatMap fun e =>
    (e.2.sounders.flatMap fun (_, x) => x.bound.map (·.2)).eraseDups.filterMap fun p =>
      if p != 0 && p % 4096 == gone then some (e.1 / 512, p) else none

/-- How many registers a context of the other bank must have free for a context to leave a core. -/
def returnNeed (s : State) (gone ctx core : Nat) : Nat := ((lentRegs s gone core).filter (fun p => p.1 == ctx)).length

/-- Two shares may stand in the two banks of one core (R28). -/
def sharesApart (a b : Share) : Bool :=
  let off := fun (x y : List Nat) => x.all (fun n => !y.contains n)
  decide (a.regs + b.regs ≤ 2046) && off a.tiles b.tiles && off a.handles b.handles && off a.cbufs b.cbufs &&
  off a.barriers b.barriers && off a.mailboxes b.mailboxes

/-- The share of a context may stand beside that of the active bank (R28). -/
def fitsBeside (s : State) (ctx core : Nat) : Bool :=
  (activeCtx (s.coreOf core)).all (fun o => sharesApart (s.ccOf ctx core).share (s.ccOf o core).share)

/-- The contexts that wait for a bank of a core and are ready to run there. -/
def turnWaits (s : State) (core : Nat) : List Nat :=
  (s.ctxs.keys).filter (fun x => (s.ccOf x core).share.regs != 0 && (residentBank s x core).isNone &&
    fitsBeside s x core && readyToRun s x core)

/-- The service rotates the contexts that are ready to run through a core in turn: next is one that has not been rotated in yet,
else the one whose turn was longest ago (R401). DESIGN CHOICE (assumption log 44). -/
def nextTurn (s : State) (core : Nat) : Option Nat :=
  let ws := turnWaits s core
  match ws.find? (fun x => !(s.coreOf core).turns.contains x) with
  | some x => some x
  | none => (s.coreOf core).turns.find? (fun x => ws.contains x)

/-- The SRAM banks that a context's bank owns, with their modes. -/
def ownedBanks (s : State) (core bank : Nat) : Tbl Nat :=
  (s.coreOf core).entries.filterMap (fun (b, e) => if e.owner = bank + 1 ∧ e.mode ≠ 0 then some (b, e.mode) else none)

/-- Park that sounder, once its fills are complete: its values go to its area of the sett, and its names' references are dropped
(R48). -/
def parkNext (s : State) (ctx core : Nat) : State :=
  match nextParked s ctx core with
  | none => s
  | some (j, x) =>
    if x.fills.any (fun f => !f.2.keep.isEmpty) then s
    else
      let banks := match residentBank s ctx core with | some b => (ownedBanks s core b).keys | none => []
      (saveNames s ctx core j banks x).putSnd ctx core j { x with parked := true, rpark := x.rpark + 1, bound := [] }

/-- A context is on its way out of a core: it stands in the shadow bank and another is to be filled there (R403), or a request to
destroy a context has been taken by the partition of its die (R425). -/
def departing (s : State) (ctx core : Nat) : Bool :=
  let c := s.coreOf core
  (shadowCtx c == some ctx && !c.holding && (nextTurn s core).isSome) ||
  ((residentBank s ctx core).isSome &&
    (s.ctx? ctx).any (fun x => (s.rings.getOr Ring.reset x.die).taken.any (fun q => nbitsOf q 7 0 == 0x02)))

/-- SOUNDER_PARK: an execution needs `n` registers, or the departure of the other bank's context needs them (R50), and the share
has not that many free; the youngest sounder that may be parked is parked. DEDUCED (assumption log 39). -/
def execESounderPark (ctx core n : Nat) (s : State) : Out :=
  let leaving := ((List.range 2).filterMap (fun b => if b = 0 then (s.coreOf core).bank0 else (s.coreOf core).bank1)).any fun o =>
    o != ctx && n != 0 && departing s o core && returnNeed s o ctx core == n
  .next (if Issue.poolRoom s ctx core n ∨ !((waitedRegs s ctx core).contains n || leaving) then s else parkNext s ctx core)

/-- SOUNDER_RESUME: the oldest parked sounder of a resident context resumes when the share has as many registers free as its names;
every name comes back full, those that hold zeros bound to the zero register (R49, R42). -/
def execESounderResume (ctx core : Nat) (s : State) : Out :=
  let down := (s.ccOf ctx core).sounders.filter (fun e => e.2.parked)
  let oldest := down.foldl (fun m e => min m e.2.age) (2 ^ 64)
  .next (match down.find? (fun e => e.2.age == oldest) with
    | none => s
    | some (j, x) =>
      if (residentBank s ctx core).isNone || !Issue.poolRoom s ctx core x.n then s
      else (Issue.bindEach (s.putSnd ctx core j { x with parked := false }) ctx core j x.v.keys).1)

/-! ## The badger (R50, R403 to R406) -/

/-- Rebind the names of a core that hold register `p` to `q` (R50). -/
def rebind (s : State) (core p q : Nat) : State :=
  let fix := fun x : Snd => { x with bound := x.bound.map (fun b => if b.2 = p then (b.1, q) else b) }
  { s with cc := s.cc.mapV (fun k cc =>
      if k % 512 = core then { cc with sounders := cc.sounders.mapV (fun _ x => fix x) } else cc) }

/-- The registers charged to a departing share that carry names of the other bank (`lentRegs`) are copied into the other share,
which must have room for them (R50). -/
def returnRegs (s : State) (core : Nat) : List (Nat × Nat) → State
  | [] => s
  | (o, p) :: r =>
    let (s, q) := Issue.freshPhys s o core
    returnRegs (rebind s core p q) core r

/-- Take the SRAM banks of a context bank off its core: they read as shared until the next owner takes them. -/
def releaseBanks (s : State) (core bank : Nat) : State :=
  s.modCore core (fun c => { c with entries := c.entries.mapV (fun _ e =>
    if e.owner = bank + 1 then { e with mode := 0, owner := 0, wcount := e.wcount + 1 } else e) })

/-- The memo entries that a context installed on a core, or that name registers charged to it, end (R50). -/
def endMemo (s : State) (ctx core : Nat) : State :=
  let its := fun p : Nat => decide (4096 ≤ p) && p % 4096 == ctx
  s.modCore core (fun c => { c with memo := c.memo.filter (fun m => m.owner != ctx && !(m.names ++ m.result).any its) })

/-- The names of a context on a core give up their registers (R43). -/
def unbind (s : State) (ctx core : Nat) : State :=
  s.modCC ctx core (fun cc => { cc with sounders := cc.sounders.mapV (fun _ x => { x with bound := [] }) })

/-- A context leaves its bank for its sett: values are saved, not identities (R50, R403). -/
def leaveBank (s : State) (ctx core bank : Nat) : State :=
  let s := returnRegs s core (lentRegs s ctx core)
  let modes := ownedBanks s core bank
  let s := saveSegment s ctx core modes.keys
  let s := releaseBanks (endMemo (unbind s ctx core) ctx core) core bank
  let s := s.modCC ctx core (fun cc => { cc with place := .away, saved := modes })
  s.modCore core (fun c => { setBank c bank none with lanePort := [], scalPort := [] })

/-- A save or fill met an uncorrectable error: the context is halted with FATALWHY 3, and the bank is left empty (R404). -/
def saveFailed (s : State) (ctx core bank : Nat) : State :=
  let s := haltCtx s ctx 3 0 core 7 0
  let s := returnRegs s core (lentRegs s ctx core)
  let s := releaseBanks (endMemo (unbind s ctx core) ctx core) core bank
  let s := s.modCC ctx core (fun cc => { cc with place := .away })
  s.modCore core (fun c => { setBank c bank none with lanePort := [], scalPort := [] })

/-- Every lane load of a context on a core has filled (R403). -/
def fillsDone (cc : CtxCore) : Bool := cc.sounders.all (fun e => e.2.fills.all (fun f => f.2.engine || f.2.keep.isEmpty))

/-- The share of the other context has room for the registers that come back to it (R50); where it has not, its sounders are
parked first. -/
def canReturn (s : State) (ctx core : Nat) : Bool :=
  ((lentRegs s ctx core).map (·.1)).eraseDups.all (fun o => Issue.poolRoom s o core (returnNeed s ctx o core))

/-- BADGER_SAVE_DONE: the context displaced into the shadow bank, where another is to be filled, has been saved to its sett, and the
fill of the other begins (R403); with `ue` the save met an uncorrectable error. -/
def execEBadgerSaveDone (core : Nat) (ue : Bool) (s : State) : Out :=
  let c := s.coreOf core
  .next (match shadowCtx c with
    | none => s
    | some ctx =>
      let begin_ := fun t : State => match nextTurn s core with | some n => segState t n core 2 | none => t
      if c.holding || (nextTurn s core).isNone then s
      else if !canReturn s ctx core then s
      else if ue then begin_ (saveFailed s ctx core (1 - c.active))
      else if fillsDone (s.ccOf ctx core) then begin_ (leaveBank s ctx core (1 - c.active))
      else s)

/-- Sounders in the order of their admission. -/
def byAge : List (Nat × Snd) → List (Nat × Snd)
  | [] => []
  | e :: r => (byAge r).takeWhile (fun d => decide (d.2.age < e.2.age)) ++ e :: (byAge r).dropWhile (fun d => decide (d.2.age < e.2.age))

/-- A restore gives back every name's value; names that hold zeros are bound to the zero register (R406, R50, R42). A sounder that
may be parked, for whose names the share has no room, comes back parked, its counters unchanged; those in `keep` never do (R48,
R281). DEDUCED (assumption log 39). -/
def bindSounders (s : State) (ctx core : Nat) (keep : List Nat) : List (Nat × Snd) → State
  | [] => s
  | (j, x) :: r =>
    bindSounders (
      if x.parked then s
      else if keep.contains j || Issue.poolRoom s ctx core x.v.keys.length then (Issue.bindEach s ctx core j x.v.keys).1
      else s.putSnd ctx core j { x with parked := true }) ctx core keep r

/-- The sounders of a restore in the order in which their names are bound: those that are never parked, the co-resident ones and the
oldest unparked one, then the others by age. -/
def bindOrder (cc : CtxCore) : List Nat × List (Nat × Snd) :=
  let all := byAge cc.sounders
  let oldest := (all.find? (fun e => !e.2.parked)).map (·.1)
  let stays := fun e : Nat × Snd => e.2.cores || oldest == some e.1
  ((all.filter stays).map (·.1), all.filter stays ++ all.filter (fun e => !stays e))

/-- A context is filled into a bank of a core: its SRAM banks, with their contents, and its registers come back. -/
def enterBank (s : State) (ctx core bank : Nat) : State :=
  let modes := (s.ccOf ctx core).saved
  let s := s.modCC ctx core (fun cc => { cc with place := .bank bank, saved := [] })
  let s := s.modCore core (fun c =>
    let c := setBank c bank (some ctx)
    { c with entries := modes.foldl (fun t (b, m) =>
        let e := t.getOr BankEntry.reset b
        t.put b { e with mode := m, owner := bank + 1, wcount := e.wcount + 1 }) c.entries })
  segState (bindSounders s ctx core (bindOrder (s.ccOf ctx core)).1 (bindOrder (s.ccOf ctx core)).2) ctx core 0

/-- The SRAM banks a context's sett holds are not taken by the core's other context. -/
def banksFree (s : State) (ctx core : Nat) : Bool :=
  (s.ccOf ctx core).saved.all (fun b => let e := (s.coreOf core).entries.getOr BankEntry.reset b.1; e.owner == 0 && !e.busy)

/-- BADGER_FILL_DONE: a context that has a share on the core, and whose turn it is, has been filled into the empty shadow bank;
with `ue` the fill met an uncorrectable error. Where the active bank is empty the banks are exchanged at once. -/
def execEBadgerFillDone (ctx core : Nat) (ue : Bool) (s : State) : Out :=
  let c := s.coreOf core
  .next (
    if (shadowCtx c).isSome || c.failed || c.holding || !ctxLive s ctx || (s.ccOf ctx core).share.regs = 0 ||
        (residentBank s ctx core).isSome || !fitsBeside s ctx core || !banksFree s ctx core || ((nextTurn s core).getD ctx != ctx) then s
    else if ue then saveFailed s ctx core (1 - c.active)
    else
      let s := enterBank s ctx core (1 - c.active)
      let s := s.modCore core (fun c => { c with turns := c.turns.filter (· != ctx) ++ [ctx] })
      if (activeCtx c).isNone then swapBanks s core else s)

/-! ## SRAM banks (R308 to R311) -/

/-- A configured circular buffer of some context of the core holds an SRAM bank (R197). -/
def heldByCB (s : State) (core b : Nat) : Bool :=
  match (s.coreOf core).entries.find b with
  | none => false
  | some e =>
    if e.owner = 0 then false
    else
      match (if e.owner = 1 then (s.coreOf core).bank0 else (s.coreOf core).bank1) with
      | none => false
      | some ctx => (s.ccOf ctx core).cbufs.any (fun q => q.2.cfg / 2 ^ 31 % 2 == 1 && decide (q.2.cfg % 32 ≤ b) && decide (b ≤ q.2.cfg % 32 + q.2.cfg / 32 % 8))

/-- A write of a bank control entry (R308): ERR 2 for an invalid combination, 1 for a bank held by a configured descriptor,
3 while a change is in progress; else BUSY. DESIGN CHOICE (assumption log 56). -/
def bankWrite (s : State) (core b v : Nat) : State :=
  let e := (s.coreOf core).entries.getOr BankEntry.reset b
  let mode := v % 4
  let owner := v / 16 % 4
  let put := fun e : BankEntry => s.modCore core (fun c => { c with entries := c.entries.put b e })
  if 24 ≤ b then s
  else if mode = 3 ∨ owner = 3 ∨ (mode = 0 ∧ owner ≠ 0) ∨ (mode ≠ 0 ∧ owner = 0) then put { e with err := 2 }
  else if heldByCB s core b && (mode != 2 || owner != e.owner) then put { e with err := 1 }
  else if e.busy then put { e with err := 3 }
  else put { e with err := 0, busy := true, next := some (mode, owner) }

/-- BANK_CONTROL_WRITE: the service writes a bank control entry. -/
def execEBankControlWrite (core b value : Nat) (s : State) : Out := .next (bankWrite s core b value)

/-- A lane access of a log entry lies in an SRAM bank: one to be performed, or one held for a fault. -/
def LogEntry.inBank (e : LogEntry) (b : Nat) : Bool :=
  (e.todo ++ e.held).any (fun a => match a.loc with | .sp x => x / 2 ^ 15 == b | _ => false)

/-- The layout of a copy or route reads or writes an SRAM bank: its boxes and index list in scratchpad, its buffers (R310). -/
def Layout.usesBank (s : State) (ctx core b : Nat) (l : Layout) (o : List Int) : Bool :=
  (l.skind == 1 && (srcSpans s ctx core l o).any (spanIn b)) || (l.dkind == 1 && (dstSpans l).any (spanIn b)) ||
  (l.idxSpans o).any (spanIn b) ||
  (l.skind == 2 && (cbOf s ctx core (l.sbase % 16)).banks.contains b) ||
  (l.dkind == 2 && (cbOf s ctx core (l.dbase % 16)).banks.contains b)

/-- A matrix command reads or writes an SRAM bank: its buffers and its scale bytes (R204, R205, R310). -/
def MatCmd.usesBank (s : State) (ctx core b : Nat) (m : MatCmd) : Bool :=
  spanIn b m.scales ||
  [m.inBuf, m.outBuf].any (fun q => match q with | some q => (cbOf s ctx core q).banks.contains b | none => false)

/-- Every access to a bank that has passed its probe is performed, and every engine command of its owner that reads or writes it
has completed (R310). -/
def bankDrained (s : State) (core b : Nat) : Bool :=
  let e := (s.coreOf core).entries.getOr BankEntry.reset b
  match (if e.owner = 1 then (s.coreOf core).bank0 else if e.owner = 2 then (s.coreOf core).bank1 else none) with
  | none => true
  | some ctx =>
    let cc := s.ccOf ctx core
    cc.sounders.all (fun x => x.2.oplog.all (fun l => !l.2.inBank b) && x.2.probed.all (fun l => !l.inBank b)) &&
    cc.copies.all (fun c => !c.lay.usesBank s ctx core b c.coord &&
      (match c.follow with | some m => !m.usesBank s ctx core b | none => true)) &&
    cc.array.all (fun m => !m.usesBank s ctx core b) &&
    cc.pops.all (fun p => !(cbOf s ctx core p.buf).banks.contains b) &&
    s.routeQ.all (fun q => q.2.all (fun r => r.ctx != ctx || r.core != core || !r.score.usesBank s ctx core b [0, 0, 0, 0]))

/-- The bytes of an SRAM bank read 0 from now on (R311). -/
def clearBank (s : State) (ctx core b : Nat) : State :=
  let s := s.modCC ctx core (fun cc => { cc with sram := cc.sram.filter (fun e => e.1 / 2 ^ 15 != b) })
  let its := fun l : Nat => decide (spLine ctx core (2 ^ 15 * b) ≤ l) && decide (l < spLine ctx core (2 ^ 15 * b) + 512)
  { s.forget (spPlace ctx core (2 ^ 15 * b)) (2 ^ 15) with
    poison := s.poison.filter (fun l => !its l) }

/-- BANK_CHANGE_COMPLETE: after the drain the bank takes its new mode and owner (R310, R311). -/
def execEBankChangeComplete (core b : Nat) (s : State) : Out :=
  let e := (s.coreOf core).entries.getOr BankEntry.reset b
  .next (match e.next with
    | none => s
    | some (mode, owner) =>
      if !e.busy || !bankDrained s core b then s
      else
        let holder := fun o => if o = 1 then (s.coreOf core).bank0 else if o = 2 then (s.coreOf core).bank1 else none
        let fresh := (mode != 0 && mode != e.mode) || owner != e.owner
        let s := if fresh then ([holder e.owner, holder owner].filterMap id).eraseDups.foldl (fun s x => clearBank s x core b) s else s
        let y : BankEntry := { mode := mode, owner := owner, busy := false, err := e.err, wcount := e.wcount + 1, next := none }
        s.modCore core (fun c => { c with entries := c.entries.put b y }))

/-! ## Power gating and failed cores (R290, R407, R422) -/

/-- CORE_POWER_GATE: every sounder of the resident contexts waits in waitany, bar.wait or mbrecv, with no block left to
run. DEDUCED (assumption log 36). -/
def execECorePowerGate (core : Nat) (s : State) : Out :=
  let c := s.coreOf core
  let idle := fun x : Snd => x.queue.isEmpty && !x.running &&
    (match x.wait with | .waitany _ => true | .bar _ _ _ => true | .mbrecv _ _ => true | _ => false)
  let all_ := ([c.bank0, c.bank1].filterMap id).all (fun ctx => (s.ccOf ctx core).sounders.all (fun e => idle e.2))
  .next (if all_ && !c.failed then s.modCore core (fun c => { c with gated := true }) else s)

/-- Both contexts of a core leave it together: their names give up their registers, so that neither has any to bring back to the
other (R50). -/
def unbindBoth (s : State) (core : Nat) : State :=
  ([(s.coreOf core).bank0, (s.coreOf core).bank1].filterMap id).foldl (fun s ctx => unbind s ctx core) s

/-- Both resident contexts of a core go to their setts, where those named by `lost` cannot be read and are halted
(R404, R407). -/
def evacuate (s : State) (core lost : Nat) : State :=
  [0, 1].foldl (fun s b =>
    match (if b = 0 then (s.coreOf core).bank0 else (s.coreOf core).bank1) with
    | none => s
    | some ctx => if lost / 2 ^ b % 2 = 1 then saveFailed s ctx core b else leaveBank s ctx core b) (unbindBoth s core)

/-- The contexts of a core may be taken off it: each whose state can be read stands at a safe point with its lane loads filled (R403,
R407). -/
def movable (s : State) (core lost : Nat) : Bool :=
  let c := s.coreOf core
  let ok := fun (b : Nat) (x : Option Nat) => lost / 2 ^ b % 2 == 1 ||
    x.all (fun x => (b != c.active || atSafePoint s x core) && fillsDone (s.ccOf x core))
  ok 0 c.bank0 && ok 1 c.bank1

/-- The active context of a core that is held has its overrun added to its debt (R401). -/
def addOverrun (s : State) (core : Nat) : State :=
  let c := s.coreOf core
  match activeCtx c with
  | some ctx => if c.holding then s.modCC ctx core (fun cc => { cc with debt := cc.debt + (s.cycle - c.sliceAt) }) else s
  | none => s

/-- A core is bound to a spare of its die: both contexts go to their setts, and the spare's banks are filled again (R407). -/
def moveCore (s : State) (core spare lost : Nat) : State :=
  let die := dieOf core
  let s := addOverrun s core
  let c := s.coreOf core
  let s := evacuate s core lost
  let s := { s with plat := { s.plat with spares := s.plat.spares.put die ((s.plat.spares.getOr [] die).erase spare) } }
  let s := s.modCore core (fun c => { c with phys := spare, failed := false, gated := false, memo := [], moveTo := none })
  let back := fun (s : State) (b : Nat) (x : Option Nat) =>
    match x with | some ctx => if ctxLive s ctx then enterBank s ctx core b else s | none => s
  let s := back (back s 0 c.bank0) 1 c.bank1
  startSlice (s.modCore core (fun k => { k with active := c.active })) core s.cycle

/-- CORE_MIGRATION: the service moves a logical core to a spare physical core of its die. Both contexts are first held as at a
slice's end; at the safe point they are saved, the core is bound to the spare, and its banks are filled again (R407). `lost`
has a bit for each bank whose state cannot be read. -/
def execECoreMigration (core spare lost : Nat) (s : State) : Out :=
  let c := s.coreOf core
  let free := s.plat.spares.getOr [] (dieOf core)
  .next (
    if free.isEmpty then
      (if c.moveTo.isSome then s.modCore core (fun c => { c with moveTo := none, holding := false }) else s)
    else if !free.contains spare then s
    else if movable s core lost then moveCore s core spare lost
    else s.modCore core (fun c =>
      { c with moveTo := some spare, holding := true, sliceAt := if c.holding then c.sliceAt else s.cycle }))

/-! ## Shoot-downs (R388) -/

/-- The address that a remote operation of a context accesses, where its translation was the context's own (R388). -/
def Origin.va? (s : State) : Origin → Option Nat
  | .copy _ _ _ _ _ va => some va
  | .route _ _ _ _ _ va => some va
  | .thread _ _ _ _ _ va => some va
  | .peer _ _ va _ _ => some va
  | .node _ id => (s.nodes.find id).map fun n =>
      if n.st = .reading then pktF n.pkt 247 192 + n.args.length else pktF n.pkt 191 128
  | _ => none

/-- The address of a window load that a scalar stream waits for. -/
def SWait.va? : SWait → Option Nat
  | .load _ _ _ va => some va
  | .mbread _ _ va left _ => if left = 0 then none else some va
  | _ => none

/-- An access that passed its translation before a shoot-down is still to be performed: a lane's or a store's in the operand log,
a scalar stream's load, an engine's access on its way (R388). -/
def shootPending (s : State) (ctx : Nat) (h : Shoot) : Bool :=
  let hit := fun va : Nat => decide (h.va ≤ va) && decide (va < h.va + h.size)
  ((s.cc.filter (fun e => e.1 / 512 == ctx)).any fun e =>
    e.2.sounders.any fun x =>
      (x.2.oplog.any fun l => l.2.todo.any fun a => (match a.loc with | .sp _ => false | _ => true) && hit a.va) ||
      (match x.2.wait.va? with | some va => hit va | none => false)) ||
  (s.pend.any fun p =>
    match p.2.msg.origin? with
    | some o => o.ctx == ctx && (match o.va? s with | some va => hit va | none => false)
    | none => false)

/-- The 16 bytes of a completion: TAG, STATUS, VALUE (R363). -/
def completionBytes (tag status value : Nat) : List Byte :=
  toBytes 8 (tag % 2 ^ 16 + status % 2 ^ 8 * 2 ^ 16) ++ toBytes 8 value

/-- The answer to a request: a completion, written to the ring's completion area, which follows its slots (R363). DESIGN CHOICE:
the place of the area (assumption log 67). -/
def completeReq (s : State) (part tag status value : Nat) : State :=
  let r := s.rings.getOr Ring.reset part
  let s := if r.isOpen then
      { s.writeHost (r.base + 64 * 2 ^ r.log2 + 16 * (r.done % 2 ^ r.log2)) (completionBytes tag status value) with
        rings := s.rings.put part { r with done := r.done + 1 } }
    else s
  s.send (.completion part tag status value)

/-- The issues of a context that wait for a log entry, as a shoot-down that completes leaves them (R162). -/
def raceWaiting (s : State) (ctx : Nat) (h : Shoot) : State :=
  { s with cc := s.cc.mapV fun key cc =>
      if key / 512 = ctx then
        { cc with sounders := cc.sounders.mapV fun _ x => { x with probed := x.probed.map (fun e => e.raced s ctx h.va h.size) } }
      else cc }

/-- SHOOT_DOWN_COMPLETE: the oldest shoot-down of a context completes: the accesses that still wait for a log entry are held,
its frames are freed and its request completes. -/
def execEShootDownComplete (ctx : Nat) (s : State) : Out :=
  .next (match s.shoots.getOr [] ctx with
    | [] => s
    | h :: r =>
      if shootPending s ctx h then s
      else
        let s := { raceWaiting s ctx h with shoots := s.shoots.put ctx r }
        let s := h.frames.foldl (fun s (p, a, n) => freeFrame s p a n) s
        completeReq s h.reply.1 h.reply.2.1 0 h.reply.2.2)

/-! ## The trap queue as the service reads it (R392, R396, R397, R399) -/

/-- Fields of a record word (Tables 6 and 7 of 20). -/
def recType (w : Nat) : Nat := w / 2 ^ 1088 % 256
def recToken (w : Nat) : Nat := w / 2 ^ 1152 % 2 ^ 64
def recAddr (w : Nat) : Nat := w / 2 ^ 384 % 2 ^ 64
def recCause (w : Nat) : Nat := w % 256

/-- Release a sounder by its token with a RESUME placed in its frame (R236, R397): 3 halts the context with FATALWHY 1; with 2 its
tret, at which it stands, ends it, with its departures in their turn (R215). -/
def releaseSounder (s : State) (ctx token resume : Nat) : State :=
  let hit := (s.cc.filter (fun e => e.1 / 512 == ctx)).flatMap fun e =>
    (e.2.sounders.filter (fun x => x.2.suspended == some token)).map fun x => (e.1 % 512, x.1, x.2)
  match hit with
  | [] => s
  | (core, slot, x) :: _ =>
    match (s.ctx? ctx).bind (fun c => c.handler) with
    | none => s
    | some (_, _, base) =>
      let a := frameAddr base core slot
      let b := (readVirt s ctx (a + 1) 1).headD 0
      let s := writeVirt s ctx (a + 1) [BitVec.ofNat 8 (b.toNat % 64 + 64 * (resume % 4))]
      if 3 ≤ resume then haltCtx s ctx 1 x.idx core 0 (leNat (readVirt s ctx a 128))
      else if resume = 2 then s.putSnd ctx core slot { x with suspended := none }
      else tretAct s ctx core slot resume

/-- The leaf that maps an address: its base and size, with the number of memory writes so far. -/
def leafNow (s : State) (ctx va : Nat) : List (Nat × Nat × Nat) :=
  match (s.ctx? ctx).map (fun c => walkFrom s va 4 c.troot) with
  | some (.leaf l e) => let n := 2 ^ leafShift l e; [(va / n * n, n, s.writes)]
  | _ => []

/-- Resume, or end with ERR 2, the engine command that a token suspends (R392). A command that resumes reads the page it was suspended
at only from now on (R346). -/
def releaseCommand (s : State) (ctx token va : Nat) (resume : Bool) : State :=
  let new := leafNow s ctx va
  let copies := (s.cc.filter (fun e => e.1 / 512 == ctx)).flatMap fun e =>
    (e.2.copies.filter (fun c => c.suspended == some token)).map fun c => (e.1 % 512, c)
  let s := copies.foldl (fun s (core, c) =>
    if resume then putCopy s ctx core { c with suspended := none, fresh := new ++ c.fresh } else endCopy s ctx core c 2) s
  let routes := s.routeQ.flatMap fun q => q.2.filter (fun r => r.ctx == ctx && r.suspended == some token)
  routes.foldl (fun s r => if resume then putRoute s { r with suspended := none, fresh := new ++ r.fresh } else leaveRoute s r 2) s

/-- An exact translation fault: INFO is 0, and the instruction in WORD says what the access needed (R391, Table 8 of 08). -/
def recExact (w : Nat) : Bool := recType w == 1 && w / 2 ^ 12 % 4 != 2

/-- The trapping instruction of such a record stores, and does not read as well: a scalar store, or a lane store or append; an atomic
of the lanes does both. -/
def recStores (w : Nat) : Bool :=
  let word := w / 2 ^ 256 % 2 ^ 96
  if w / 2 ^ 12 % 4 = 0 then decide (0x18 ≤ word / 2 ^ 26 % 64) && decide (word / 2 ^ 26 % 64 ≤ 0x1B)
  else word / 2 ^ 80 == 0x2101 || word / 2 ^ 88 == 0x23
def recAtomic (w : Nat) : Bool := w / 2 ^ 12 % 4 == 1 && w / 2 ^ 256 % 2 ^ 96 / 2 ^ 88 == 0x22

/-- What the access of a record needed: a read, a write, by its instruction or by its fault detail (Table 4 of 20). -/
def recReads (w : Nat) : Bool := if recExact w then !recStores w else w / 2 ^ 453 % 2 == 1
def recWrites (w : Nat) : Bool := if recExact w then recStores w || recAtomic w else w / 2 ^ 454 % 2 == 1

/-- The service's answer to a translation fault, after a walk of its own (R392): the page of a reserved leaf is mapped, zeroed,
and notified; a page that has been mapped meanwhile with the rights that the access needs, in a reservation or, for an
engine's command, anywhere, needs nothing. None in any other case, or where no frame is left. -/
def serveFault (s : State) (ctx w : Nat) (anywhere : Bool) : Option State :=
  let va := recAddr w
  match s.ctx? ctx with
  | none => none
  | some c =>
    match mapReserved s ctx va with
    | some (base, sz, t) => some (notify t c.die 1 0 ctx base (pgCode sz) 1 0)
    | none =>
      match translate s ctx va (recReads w) (recWrites w) with
      | .ok _ => if anywhere || c.resv.any (fun r => decide (r.1 ≤ va) && decide (va < r.1 + r.2.1)) then some s else none
      | .fail _ => none

/-- SENT_UP_RECORD_SERVICE: the service takes the next record of a context's trap queue. A page in a reservation is mapped
and notified, and its sounder, command or inbound write goes on; any other translation fault ends the sounder or the
command, and a placement without a reservation is refused; a sounder's other traps are answered with `resume`, and every
other record is forwarded. -/
def execESentUpRecordService (ctx resume : Nat) (s : State) : Out :=
  .next (match s.ctx? ctx with
    | none => s
    | some c =>
      match c.trapq.recs with
      | [] => s
      | w :: r =>
        let s := putTrapq s ctx c { c.trapq with recs := r, head := c.trapq.head + 1 }
        let forward := fun (s : State) (action : Nat) => notify s c.die 4 action ctx 0 0 0 w
        match recType w with
        | 1 =>
          if recCause w = 0x1B then
            match serveFault s ctx w false with
            | some t => releaseSounder t ctx (recToken w) 0
            | none => forward (releaseSounder s ctx (recToken w) 2) 1
          else forward (releaseSounder s ctx (recToken w) resume) (if resume = 2 then 1 else 0)
        | 2 =>
          match serveFault s ctx w true with
          | some t => releaseCommand t ctx (recToken w) (recAddr w) true
          | none => forward (releaseCommand s ctx (recToken w) (recAddr w) false) 2
        | 5 =>
          let page := recAddr w / 4096
          let s := s.modCtx ctx (fun c => { c with placing := c.placing.filter (· != page) })
          match mapReserved s ctx (recAddr w) with
          | some (base, sz, t) => notify t c.die 1 0 ctx base (pgCode sz) 1 0
          | none =>
            match translate s ctx (recAddr w) false false with
            | .ok _ => s
            | .fail _ =>
              notify (s.modCtx ctx (fun c => { c with refused := page :: c.refused })) c.die 2 0 ctx (4096 * page) 0 1 0
        | 4 => s
        | _ => forward s 0)

end Sys2Proof.Machine
end

