-- ==== Sys2Proof/Machine/Launch.lean ====
section
/-! DEFINITION. The graph engines: doorbells and intake with its checks and dependences (R364 to R373), the dispatch of
every kind of node (R299, R300, R367 to R369), the launch header and the launch area (R279, R367), admission (R278 to
R282), record queues (R297 to R299) and completion (R301, R370). -/

namespace Sys2Proof.Machine

open Sys2Proof

/-! ## Packets (R366) -/

/-- QUEUE_DOORBELL: the host writes a queue's doorbell (R365). -/
def execEQueueDoorbell (q tail : Nat) (s : State) : Out := .next (doorbell s q tail)

/-- Fields of a launch packet (Table 7 of 19). -/
def pktKind (p : Nat) : Nat := pktF p 3 0
def pktImage (p : Nat) : Nat := pktF p 19 4
def pktCtx (p : Nat) : Nat := pktF p 63 52
def pktCBase (p : Nat) : Nat := pktF p 72 64
def pktCCount (p : Nat) : Nat := if pktF p 86 77 = 0 then 512 else pktF p 86 77
def pktPer (p : Nat) : Nat := pktF p 90 87 + 1
def pktN (p : Nat) : Nat := 32 * (pktF p 46 42 + 1)
def pktOvc (p : Nat) : Nat := pktF p 41 34
def pktNrec (p : Nat) : Nat := pktF p 33 30
def pktDeterm (p : Nat) : Bool := pktF p 21 21 == 1
/-- A launch that asks for deterministic mode is co-resident too (R282). -/
def pktCores (p : Nat) : Bool := pktF p 20 20 == 1 || pktDeterm p
def pktSysrel (p : Nat) : Bool := pktF p 24 24 == 1
def pktSerial (p : Nat) : Bool := pktF p 23 23 == 1
def pktCntmem (p : Nat) : Bool := pktF p 22 22 == 1
def pktZsrc (p : Nat) : Nat := pktF p 191 128
def pktStat (p : Nat) : Nat := pktF p 311 256
def pktStkBase (p : Nat) : Nat := pktF p 511 476 * 2 ^ 20
def pktStkSize (p : Nat) : Nat := 256 * pktF p 98 91
def pktRqHdr (p : Nat) : Nat := pktF p 439 384
/-- Initial s0 to s7. -/
def pktS (p i : Nat) : Nat := pktF p (575 + 64 * i) (512 + 64 * i)
/-- Operand OPRj and its fields (Table 8 of 19). -/
def pktOpr (p j : Nat) : Nat := pktF p (1151 + 128 * j) (1024 + 128 * j)
def oprHandle (o : Nat) : Nat := nbitsOf o 127 96
def oprIntent (o : Nat) : Nat := nbitsOf o 63 62
def oprBad (o : Nat) : Bool := oprHandle o == 0 || oprIntent o == 0 || nbitsOf o 61 56 != 0

/-- Reserved bits of a packet. -/
def pktReserved (p : Nat) : Bool :=
  [(463, 458), (447, 440), (370, 338), (319, 312), (255, 248), (115, 99), (76, 73), (51, 47), (29, 25)].any
    fun (h, l) => pktF p h l != 0

/-- The checks at intake of a packet of a context's queue (R366, Table 8 of 19), the same for every KIND. DEDUCED (assumption
log 14). -/
def pktBad (s : State) (ctx p : Nat) : Bool :=
  let k := pktKind p
  pktReserved p || k == 0 || decide (6 ≤ k) || decide (19 < pktF p 46 42) || decide (100 < pktOvc p) || decide (8 < pktNrec p) ||
  decide (512 < pktCBase p + pktCCount p) || decide (4032 < pktArgLen p) || pktCtx p != ctx || pktStat p % 8 != 0 ||
  (List.range (pktNrec p)).any (fun j => oprBad (pktOpr p j)) ||
  (s.image? ctx (pktImage p)).isNone

/-! ## The launch area (R367) -/

/-- `n` bytes at `a` lie in a context's launch area, aligned as a header is, and touch no allocation. -/
def areaFits (c : Ctx) (n a : Nat) : Bool :=
  a % 64 == 0 && decide (c.areaBase ≤ a) && decide (a + n ≤ c.areaBase + c.areaSize) &&
  c.area.all (fun u => decide (a + n ≤ u.1) || decide (u.1 + u.2 ≤ a))

def up64 (a : Nat) : Nat := (a + 63) / 64 * 64

/-- A place for `n` bytes: which one of those that fit is free. DESIGN CHOICE (assumption log 12). -/
def areaPlace (s : State) (c : Ctx) (n : Nat) : Option Nat :=
  let guess := up64 c.areaBase + 64 * (Config.freeNat s.freeCtr % (c.areaSize / 64 + 1))
  (guess :: up64 c.areaBase :: c.area.map (fun u => up64 (u.1 + u.2))).find? (areaFits c n)

/-- The launch area has no room for a header. -/
def areaFull (s : State) (ctx : Nat) : Bool :=
  match s.ctx? ctx with
  | none => false
  | some c => (areaPlace s c 64).isNone

/-! ## Intake (R371 to R373) -/

/-- A queue that the graph engine of a die may take from. -/
def Queue.ready (q : Queue) (die : Nat) : Bool := q.en && !q.peerout && q.die == die && q.head != q.tail

/-- One ready queue goes before another: greater PRIO, then the earlier last intake, then the lower index. -/
def Queue.before (a b : Nat × Queue) : Bool :=
  let t := fun q : Queue => match q.served with | none => 0 | some n => n + 1
  if a.2.prio ≠ b.2.prio then decide (b.2.prio < a.2.prio)
  else if t a.2 ≠ t b.2 then decide (t a.2 < t b.2)
  else decide (a.1 < b.1)

/-- The first element under an order. -/
def firstBy {α : Type} (less : α → α → Bool) : List α → Option α
  | [] => none
  | a :: r => some (r.foldl (fun b c => if less c b then c else b) a)

/-- The queue that a graph engine takes from (R371); a context whose launch area is full waits (R367). -/
def intakeQueue (s : State) (die : Nat) : Option (Nat × Queue) :=
  firstBy Queue.before (s.queues.filter (fun e => e.2.ready die && !areaFull s e.2.ctx))

/-- The operands of a packet, those of one handle merged: handle and intent (R373). -/
def mergedOprs (p : Nat) : List (Nat × Nat) :=
  (List.range (pktNrec p)).foldl (fun l j =>
    let o := pktOpr p j
    if l.any (fun e => e.1 == oprHandle o) then
      l.map (fun e => if e.1 = oprHandle o then (e.1, Alu.orN e.2 (oprIntent o)) else e)
    else l ++ [(oprHandle o, oprIntent o)]) []

/-- The die of a context's graph engine. -/
def homeDie (s : State) (ctx : Nat) : Nat := match s.ctx? ctx with | some c => c.die | none => 0

/-- The buffer-record table of a die has room for the handles of a packet that it does not hold (R371). -/
def bufRoom (s : State) (die ctx p : Nat) : Bool :=
  let held := s.bufs.filter (fun b => homeDie s b.ctx == die)
  let new := (mergedOprs p).filter (fun o => !held.any (fun b => b.ctx == ctx && b.handle == o.1))
  decide (held.length + new.length ≤ Config.bufRecords)

/-- Enter one operand of a node in the buffer-record table; the nodes it depends on (R373). -/
def enterOpr (ctx id : Nat) (bufs : List BufRec) (o : Nat × Nat) : List BufRec × List Nat :=
  let hit := fun b : BufRec => b.ctx == ctx && b.handle == o.1
  let b := (bufs.find? hit).getD { ctx := ctx, handle := o.1, writer := none, readers := [] }
  let rest := bufs.filter (fun b => !hit b)
  if o.2 / 2 % 2 = 1 then
    ({ b with writer := some id, readers := [] } :: rest, b.writer.toList ++ b.readers)
  else ({ b with readers := b.readers ++ [id] } :: rest, b.writer.toList)

/-- A packet is taken into the ready pool of a die, with its dependences (R373). DEDUCED (assumption log 15). -/
def poolNode (s : State) (die qi : Nat) (q : Queue) (id pkt : Nat) : State :=
  let (bufs, deps) := (mergedOprs pkt).foldl (fun (b, d) o =>
    let (b', d') := enterOpr q.ctx id b o
    (b', d ++ d')) (s.bufs, ([] : List Nat))
  let serial := if pktSerial pkt then q.lastNode.toList else []
  let preds := ((deps ++ serial).eraseDups).filter (fun p => p != id && (s.nodes.find p).isSome)
  let n : Node := { die := die, queue := qi, qindex := q.head, pkt := pkt, preds := preds,
                    failed := pktSerial pkt && q.lastFail, st := .waiting, count := none, args := [] }
  { s with bufs := bufs, nodes := s.nodes.put id n }

/-- A packet that is not entered: its signals, with a misaligned STATADDR left unwritten (R366, R370). DEDUCED (assumption log 13). -/
def refusePacket (s : State) (qi : Nat) (q : Queue) (pkt status : Nat) : State :=
  let s := { s with queues := s.queues.modify qi (fun x => { x with lastNode := none, lastFail := true }) }
  let pkt := if pktStat pkt % 8 = 0 then pkt else pkt - pktStat pkt * 2 ^ 256
  signalNode s q.ctx qi q.head pkt status

/-- PACKET_INTAKE: a graph engine takes the packet at the head of the queue that R371 chooses; under a revoked key the read of the
packet is refused and halts the context (R413). -/
def execEPacketIntake (die : Nat) (s : State) : Out :=
  .next (match intakeQueue s die with
    | none => s
    | some (qi, q) =>
      if revoked s q.ctx then haltRevoked s q.ctx 0 0 5 (q.ring + 256 * (q.head % 2 ^ q.cap))
      else
      let pkt := leNat (readVirt s q.ctx (q.ring + 256 * (q.head % 2 ^ q.cap)) 256)
      if 4096 ≤ (s.nodes.filter (fun n => n.2.die == die)).length ∨ !bufRoom s die q.ctx pkt then s
      else
        let id := s.nextNode
        let q' := { q with head := q.head + 1, served := some id, lastNode := some id, lastFail := false }
        let t := { s with nextNode := id + 1, queues := s.queues.put qi q', freeCtr := s.freeCtr + 1 }
        if !ctxLive s q.ctx then refusePacket t qi q pkt 0x06
        else if pktBad s q.ctx pkt then refusePacket t qi q pkt 0x04
        else poolNode t die qi q id pkt)

/-! ## Starting a launch (R277 to R282, R300) -/

/-- The cores of a packet's range. -/
def pktRange (p : Nat) : List Nat := (List.range (pktCCount p)).map (· + pktCBase p)

/-- The range reaches a compute die out of service, or a core that has failed without a spare (R360, R422). -/
def rangeDown (s : State) (p : Nat) : Bool :=
  (pktRange p).any (fun c => !s.plat.dieup.getLsbD (dieOf c) || (s.coreOf c).failed)

/-- A co-resident launch of `z` sounders could never be admitted whole (R281). -/
def neverWhole (s : State) (ctx p z : Nat) : Bool :=
  z != 0 && pktCores p &&
  (pktRange p).any fun c =>
    let n := (placedOn z (pktPer p) (pktCBase p) (pktCCount p) c).length
    let regs := (s.ccOf ctx c).share.regs
    regs == 0 || decide (16 < n) || decide (regs < n * pktN p)

/-- What a launch from a record queue adds to its header: RQRING, FIRST, RCOUNT, RSTRIDE, CAPLOG2 (Table 1 of 11). -/
structure RqPart where
  node   : Nat
  ring   : Nat
  first  : Nat
  count  : Nat
  stride : Nat
  cap    : Nat
  deriving DecidableEq, Repr

/-- The launch header (Table 1 of 11). -/
def launchHeader (p z : Nat) (rq : Option RqPart) : Nat :=
  z + pktCBase p * 2 ^ 32 + pktCCount p % 512 * 2 ^ 48 + pktF p 90 87 * 2 ^ 58 +
  (match rq with
   | some r => r.ring * 2 ^ 64 + r.first % 2 ^ 64 * 2 ^ 128 + r.count * 2 ^ 192 + r.stride * 2 ^ 224 + r.cap * 2 ^ 240
   | none => 0) +
  (if pktDeterm p then 2 ^ 256 else 0) + (if pktCores p then 2 ^ 257 else 0)

/-- A launch's sounders join the waiting lists of their cores in ascending SNDIDX (R280). -/
def enqueueSounders (s : State) (ctx l p z : Nat) : State :=
  (pktRange p).foldl (fun s c =>
    match placedOn z (pktPer p) (pktCBase p) (pktCCount p) c with
    | [] => s
    | is => s.modCC ctx c (fun cc => { cc with waiting := cc.waiting ++ is.map (fun i => (l, i)) })) s

/-- How the start of a launch ends: it fails with a status, waits for the launch area, or has started. -/
inductive Start where
  | fail (status : Nat)
  | wait
  | ok (s : State)

/-- The argument bytes of a packet from the `got` first on, as far as they can be read without a fabric window; one that cannot be
read at all is free (R367). DESIGN CHOICE (assumption log 68). -/
def gatherArgs (s : State) (p : Nat) : Nat → List Byte → List Byte
  | 0, got => got
  | n + 1, got =>
    match translate s (pktCtx p) (pktF p 247 192 + got.length) true false with
    | .ok (.mem _ pa) => gatherArgs s p n (got ++ [s.readPA pa])
    | .ok (.window _ _) => got
    | _ => gatherArgs s p n (got ++ [BitVec.ofNat 8 (s.freeAt got.length).toNat])

/-- A read of argument bytes of a node through a window, where the next ones lie behind one; none where all are there. -/
def readArgs (s : State) (id : Nat) (n : Node) : Option State :=
  let p := n.pkt
  let got := gatherArgs s p (pktArgLen p - n.args.length) n.args
  let a := pktF p 247 192 + got.length
  if pktArgLen p ≤ got.length then none
  else
    match translate s (pktCtx p) a true false with
    | .ok (.window pkg w) =>
      some (({ s with nodes := s.nodes.put id { n with st := .reading, args := got } } : State).sendOp
        (.load pkg w (argChunk a (pktArgLen p - got.length)) (.node (pktCtx p) id)))
    | _ => none

/-- Start a launch of `z` sounders for a node, whose argument bytes that lie behind a window have been read: header and arguments
are written, its sounders wait for admission; one of no sounders completes at once (R279, R281, R300, R367, R368). DEDUCED
(assumption log 16). -/
def startLaunch (s : State) (id p z : Nat) (rq : Option RqPart) (args : List Byte) : Start :=
  let ctx := pktCtx p
  if 16777215 < z then .fail 0x02
  else if rangeDown s p then .fail 0x07
  else if pktStkSize p ≠ 0 ∧ 2 ^ 56 ≤ pktStkBase p + z * pktStkSize p then .fail 0x04
  else if z = 0 then .fail 0x00
  else if neverWhole s ctx p z then .fail 0x01
  else
    match s.ctx? ctx with
    | none => .fail 0x06
    | some c =>
      let n := 64 + pktArgLen p
      match areaPlace s c n with
      | none => .wait
      | some a =>
        let args := gatherArgs s p (pktArgLen p - args.length) args
        let l := s.nextLaunch
        let ln : Launch :=
          { node := some id, rq := rq.map (fun r => (r.node, r.count)), ctx := ctx, image := pktImage p, z := z, n := pktN p,
            f := pktOvc p, cores := pktCores p, determ := pktDeterm p, sysrel := pktSysrel p, cbase := pktCBase p,
            ccount := pktCCount p, per := pktPer p, header := a, hdrLen := n, pkt := p, left := z, handle := none,
            admitted := !pktCores p, since := s.writes }
        let s := s.putCtx ctx { c with area := (a, n) :: c.area }
        let s := writeVirt s ctx a (toBytes 64 (launchHeader p z rq) ++ args)
        let s := { s with launches := s.launches.put l ln, nextLaunch := l + 1, freeCtr := s.freeCtr + 1 }
        .ok (enqueueSounders s ctx l p z)

/-! ## Dispatch (R300, R369, R373) -/

def setNode (s : State) (id : Nat) (n : Node) (st : NodeSt) : State := { s with nodes := s.nodes.put id { n with st := st } }

/-- A node's count, or its check, fails: a type-3 record of the graph engine and status 0x04 (R300, R369); a revoked key halts the
context (R413). -/
def failNode (s : State) (id : Nat) (n : Node) (cause handle addr detail : Nat) : State :=
  if cause = 0x53 then haltRevoked s (pktCtx n.pkt) 0 0 5 addr
  else
    let s := noteRecord s (pktCtx n.pkt) (infoHdr 3 5 0 0) (engineBody cause handle n.queue addr detail)
    completeNode s id 0x04

/-- A kernel node whose count is known (KIND 1): argument bytes behind a window are read first (R367). -/
def startKernel (s : State) (id : Nat) (n : Node) (z : Nat) : Option State :=
  match startLaunch s id n.pkt z none n.args with
  | .fail st => some (completeNode s id st)
  | .wait => none
  | .ok t =>
    match readArgs s id { n with count := some z } with
    | some u => some u
    | none => some (setNode t id n .running)

/-- KIND 1: the count is read where CNTMEM asks for it (R300); one behind a window is waited for. DEDUCED (assumption
log 18). -/
def dispatchKernel (s : State) (id : Nat) (n : Node) : Option State :=
  let a := pktZsrc n.pkt
  match n.count with
  | some z => startKernel s id n z
  | none =>
    if !pktCntmem n.pkt then startKernel s id n a
    else if a % 4 ≠ 0 then some (failNode s id n 0x11 0 a (detailWord false false true false false 0))
    else
      match engRead s (pktCtx n.pkt) 0 false s.writes a 4 with
      | .data bs => startKernel s id n (leNat bs)
      | .remote pkg w => some ((setNode s id n .counting).sendOp (.load pkg w 4 (.node (pktCtx n.pkt) id)))
      | .bad c d _ => some (failNode s id n c 0 a d)

/-- Fields of a record-queue header (Table 3 of 11). -/
structure RqHdr where
  flush  : Nat
  persnd : Nat
  tile   : Nat
  cap    : Nat
  stride : Nat
  ring   : Nat
  head   : Nat
  bad    : Bool
  deriving DecidableEq, Repr

def rqHdrOf (h : Nat) : RqHdr :=
  let f := nbitsOf h
  let bad := f 511 288 != 0 || f 223 216 != 0 || f 191 184 != 0 || f 255 240 == 0 || decide (4096 < f 255 240) ||
    f 239 224 == 0 || decide (20 < f 215 208) || decide (2 ^ f 215 208 < f 239 224) || f 207 192 % 8 != 0 ||
    decide (f 207 192 < 16) || f 183 128 % 8 != 0
  { flush := f 287 256, persnd := f 255 240, tile := f 239 224, cap := f 215 208, stride := f 207 192, ring := f 183 128,
    head := f 127 64, bad := bad }

/-- The header of a record queue, where the context may read it. -/
def readRqHdr (s : State) (ctx a : Nat) : Option RqHdr :=
  if a % 64 ≠ 0 then none
  else match engRead s ctx 0 false s.writes a 64 with | .data bs => some (rqHdrOf (leNat bs)) | _ => none

/-- KIND 2: the record queue is armed; the node stays and its launches follow (R297, R369). Argument bytes behind a window are read
before. -/
def dispatchArm (s : State) (id : Nat) (n : Node) : State :=
  match readRqHdr s (pktCtx n.pkt) (pktRqHdr n.pkt) with
  | none => completeNode s id 0x03
  | some h =>
    if h.bad then completeNode s id 0x03
    else
    match readArgs s id n with
    | some t => t
    | none =>
      let r : RecQueue := { node := id, ctx := pktCtx n.pkt, hdr := pktRqHdr n.pkt, pkt := n.pkt, next := h.head,
                            flushAt := none, runs := [] }
      { setNode s id n .running with recqs := s.recqs.put id r }

/-- KINDs 4 and 5: a copy or a route is issued as if by a sounder on core CBASE (R369): it waits as an issue would, or a check
that would trap fails the node. -/
def dispatchEngine (s : State) (id : Nat) (n : Node) : Option State :=
  let p := n.pkt
  let ctx := pktCtx p
  let core := pktCBase p
  let l := s.nextLaunch
  let q : EngReq := { ctx := ctx, core := core, launch := l, image := pktImage p, uid := l * 2 ^ 24, slices := 0, wid := 0,
                      seq := 0, since := s.writes }
  let c := pktS p 0 % 2 ^ 32
  let r := pktS p 1 % 2 ^ 32
  let o := coords (pktS p 2) (pktS p 3)
  let recs := routeRecs s q r
  if !s.plat.dieup.getLsbD (dieOf core) || (s.coreOf core).failed then some (completeNode s id 0x07)
  else if !isActive s ctx core then none
  else
    let lay := layoutAt s q r
    let check := if pktKind p = 4 then copyChecks s q c r o else routeChecks s q c r
    let waits := if pktKind p = 4 then copyWaits s q c lay o else routeWaits s q c recs.2
    let lost := if pktKind p = 4 then (padBad s ctx core r 128).map (1, ·)
      else ((padBad s ctx core r 64).orElse fun _ => padBad s ctx core recs.1.srec 128).map (3, ·)
    match check with
    | some (cause, addr) => some (failNode s id n cause (c % 256) addr 0)
    | none =>
      if waits then none
      else
        let ln : Launch :=
          { node := some id, rq := none, ctx := ctx, image := pktImage p, z := 0, n := 0, f := 0, cores := false,
            determ := false, sysrel := pktSysrel p, cbase := core, ccount := 1, per := 1, header := 0, hdrLen := 0,
            pkt := p, left := 0, handle := some (core, c % 256), admitted := true }
        let s := { setNode s id n .running with launches := s.launches.put l ln, nextLaunch := l + 1 }
        some (match lost with
          | some (u, a) => loseCommand s q u c a
          | none => if pktKind p = 4 then acceptCopy s q c lay o none else acceptRoute s q c recs.1 recs.2)

/-- Dispatch one node whose dependences are met; none where it has to wait. -/
def dispatchNode (s : State) (id : Nat) (n : Node) : Option State :=
  if n.failed then some (completeNode s id 0x05)
  else
    match pktKind n.pkt with
    | 1 => dispatchKernel s id n
    | 2 => some (dispatchArm s id n)
    | 3 => some (completeNode s id 0x00)
    | _ => dispatchEngine s id n

/-- One ready node goes before another: greater PRIO of its queue, then the older (R371). -/
def nodeBefore (s : State) (a b : Nat × Node) : Bool :=
  let prio := fun n : Node => (s.queues.getOr Queue.reset n.queue).prio
  if prio a.2 ≠ prio b.2 then decide (prio b.2 < prio a.2) else decide (a.1 < b.1)

/-- Put nodes in the order of their dispatch. -/
def sortNodes (s : State) : List (Nat × Node) → List (Nat × Node)
  | [] => []
  | a :: r =>
    let t := sortNodes s r
    t.takeWhile (fun b => nodeBefore s b a) ++ a :: t.dropWhile (fun b => nodeBefore s b a)

/-- NODE_DISPATCH: a graph engine dispatches the first of its ready nodes that does not wait (R371, R373). -/
def execENodeDispatch (die : Nat) (s : State) : Out :=
  let ready := s.nodes.filter (fun e => e.2.die == die && e.2.preds.isEmpty && e.2.st == .waiting)
  .next (((sortNodes s ready).findSome? (fun e => dispatchNode s e.1 e.2)).getD s)

/-! ## Admission (R280 to R284) -/

/-- The registers a sounder starts with (R24, R274, R367, R368). -/
def startRegs (l : Launch) (constVA i : Nat) : Tbl Word :=
  let put := fun (t : Tbl Word) (e : Nat × Nat) => t.setOr 0 e.1 (BitVec.ofNat 64 e.2)
  let top := if pktStkSize l.pkt = 0 then 0 else pktStkBase l.pkt + (i + 1) * pktStkSize l.pkt
  ((List.range 8).map (fun j => (j, pktS l.pkt j)) ++ [(59, l.header), (60, constVA), (62, top)]).foldl put []

/-- The lowest free sounder slot of a context's bank (R284). -/
def freeSlot (cc : CtxCore) : Option Nat := (List.range 16).find? (fun j => (cc.sounders.find j).isNone)

/-- The sounder at the head of a core's waiting list takes a slot (R280, R284). -/
def admitHead (s : State) (ctx core : Nat) : State :=
  let cc := s.ccOf ctx core
  match cc.waiting, freeSlot cc with
  | (l, i) :: rest, some j =>
    match s.launch? l with
    | none => s
    | some ln =>
      let im := s.image? ctx ln.image
      let va := match im with | some m => m.constVA | none => 0
      let pc := match im with | some m => m.entry | none => 0
      let x := Snd.fresh l i ln.image ln.n cc.nextAge ln.cores ln.determ (startRegs ln va i) pc ln.since
      let s := s.putCC ctx core { cc with waiting := rest, nextAge := cc.nextAge + 1, sounders := cc.sounders.put j x }
      wake s ctx core
  | _, _ => s

/-- SOUNDER_ADMISSION: the next waiting sounder of a resident context on a core is admitted (R280). -/
def execESounderAdmission (ctx core : Nat) (s : State) : Out :=
  .next (if ctxLive s ctx && (residentBank s ctx core).isSome && admissible s ctx core then admitHead s ctx core else s)

/-- Admit the first `n` waiting sounders of a core. -/
def admitMany (s : State) (ctx core : Nat) : Nat → State
  | 0 => s
  | n + 1 => admitMany (admitHead s ctx core) ctx core n

/-- CORESIDENT_ADMISSION: a co-resident launch is admitted in one step on all its cores, or not at all (R281). -/
def execECoresidentAdmission (l : Nat) (s : State) : Out :=
  .next (match s.launch? l with
    | none => s
    | some ln =>
      let cores := (List.range ln.ccount).map (· + ln.cbase)
      if ln.admitted || !ctxLive s ln.ctx || !cores.all (wholeFits s ln l) then s
      else
        let s := cores.foldl (fun s c => admitMany s ln.ctx c (placedOn ln.z ln.per ln.cbase ln.ccount c).length) s
        s.modLaunch l (fun ln => { ln with admitted := true }))

/-! ## Record queues (R297 to R299) -/

/-- SEQ of a slot. -/
def rqSeq (s : State) (ctx : Nat) (h : RqHdr) (k : Nat) : Nat := leNat (readVirt s ctx (h.ring + k % 2 ^ h.cap * h.stride) 8)

/-- How many slots from `k` on are ready, up to a number. -/
def rqReady (s : State) (ctx : Nat) (h : RqHdr) : Nat → Nat → Nat
  | 0, _ => 0
  | n + 1, k => if rqSeq s ctx h k = (k + 1) % 2 ^ 64 then 1 + rqReady s ctx h n (k + 1) else 0

/-- HEAD goes past the oldest launches that have completed (R299). -/
def retireRuns (s : State) (r : RecQueue) : State × RecQueue :=
  let done := r.runs.takeWhile (fun e => e.2.2)
  if done.isEmpty then (s, r)
  else
    let n := done.foldl (fun a e => a + e.2.1) 0
    let head := leNat (readVirt s r.ctx (r.hdr + 8) 8)
    (writeVirt s r.ctx (r.hdr + 8) (toBytes 8 (head + n)), { r with runs := r.runs.drop done.length })

/-- Launch `n` records of an armed queue (R299). -/
def launchRecords (s : State) (id : Nat) (r : RecQueue) (h : RqHdr) (n : Nat) : State :=
  match s.nodes.find id with
  | none => s
  | some nd =>
    let part : RqPart := { node := id, ring := h.ring, first := r.next, count := n, stride := h.stride, cap := h.cap }
    match startLaunch s id r.pkt ((n + h.persnd - 1) / h.persnd) (some part) nd.args with
    | .wait => s
    | .fail st =>
      let (t, r') := retireRuns s { r with next := r.next + n, flushAt := none, runs := r.runs ++ [(s.nextLaunch, n, true)] }
      signalNode { t with recqs := t.recqs.put id r', nextLaunch := t.nextLaunch + 1 } r.ctx nd.queue nd.qindex r.pkt st
    | .ok t =>
      let r' := { r with next := r.next + n, flushAt := none, runs := r.runs ++ [(s.nextLaunch, n, false)] }
      { t with recqs := t.recqs.put id r' }

/-- RECORD_QUEUE_FULL_TILE: a full tile is ready: it launches, and cancels the flush timer (R299). -/
def execERecordQueueFullTile (node : Nat) (s : State) : Out :=
  .next (match s.recqs.find node with
    | none => s
    | some r =>
      match readRqHdr s r.ctx r.hdr with
      | none => s
      | some h => if h.tile ≤ rqReady s r.ctx h h.tile r.next then launchRecords s node r h h.tile else s)

/-- A record queue's flush timer: it starts when the next slot is ready without a full tile, and at its expiry the ready slots
launch (R299). DEDUCED (assumption log 17). -/
def flushQueue (s : State) (node : Nat) : State :=
  match s.recqs.find node with
  | none => s
  | some r =>
    match readRqHdr s r.ctx r.hdr with
    | none => s
    | some h =>
      let n := rqReady s r.ctx h h.tile r.next
      if n = 0 ∨ h.flush = 0 then s
      else
        match r.flushAt with
        | none => if n < h.tile then { s with recqs := s.recqs.put node { r with flushAt := some (s.cycle + 64 * h.flush) } } else s
        | some t => if t ≤ s.cycle then launchRecords s node r h n else s

/-- FLUSH_TIMER_EXPIRY. The clock starts the timer in the cycle in which the slot becomes ready, and makes it expire in its cycle
(R4); a launch that finds the launch area full comes about here. -/
def execEFlushTimerExpiry (node : Nat) (s : State) : Out := .next (flushQueue s node)

/-! ## Completion (R301, R370) -/

/-- Engine commands of a launch's sounders that have not completed (R186, R301). -/
def commandsLeft (s : State) (ctx l : Nat) : Bool :=
  let mine := fun u : Nat => u / 2 ^ 24 == l
  s.cc.any (fun e => e.1 / 512 == ctx &&
    (e.2.copies.any (fun c => mine c.snd) || e.2.array.any (fun m => mine m.snd) || e.2.pops.any (fun p => mine p.snd))) ||
  s.routeQ.any (fun e => e.2.any (fun r => r.ctx == ctx && mine r.snd)) ||
  (match s.ctx? ctx with
   | none => false
   | some c => c.colls.any (fun e => e.2.parts.any (fun p => p.2.started && mine p.2.snd && !storingMember e.2 p.1)))

/-- A store of a context through a window is not acknowledged: a release at system scope waits for it. -/
def storesLeft (s : State) (ctx : Nat) : Bool :=
  s.pend.any (fun e => !e.2.msg.isLoad && (match e.2.msg.origin? with | some o => o.ctx == ctx | none => false))

/-- The launch may complete (R301). -/
def launchOver (s : State) (l : Nat) (ln : Launch) : Bool :=
  ln.admitted && ln.left == 0 && !commandsLeft s ln.ctx l && (!ln.sysrel || !storesLeft s ln.ctx)

/-- The memo entries of loads through const records that a launch bound end with it (R45). -/
def endConsts (s : State) (l : Nat) : State :=
  { s with cores := s.cores.mapV (fun _ c => { c with memo := c.memo.filter (fun m => m.launch != some l) }) }

/-- A launch completes with a status: the writes of its commands are released (R301); its launch area is freed and its const records' memo entries
end; its node completes, or its record queue counts it out and its signals are sent (R45, R299, R301, R367, R370). -/
def endLaunch (s : State) (l : Nat) (ln : Launch) (status : Nat := 0x00) : State :=
  let s := endConsts (({ s with launches := s.launches.del l } : State).unveil l) l
  let s := s.modCtx ln.ctx (fun c => { c with area := c.area.filter (· != (ln.header, ln.hdrLen)) })
  match ln.rq, ln.node with
  | some (id, _), _ =>
    match s.recqs.find id, s.nodes.find id with
    | some r, some nd =>
      let r := { r with runs := r.runs.map (fun e => if e.1 = l then (e.1, e.2.1, true) else e) }
      let (t, r') := retireRuns s r
      signalNode { t with recqs := t.recqs.put id r' } ln.ctx nd.queue nd.qindex ln.pkt status
    | _, _ => s
  | none, some id => completeNode s id status
  | none, none => s

/-- LAUNCH_COMPLETION. -/
def execELaunchCompletion (l : Nat) (s : State) : Out :=
  .next (match s.launch? l with
    | none => s
    | some ln => if launchOver s l ln then endLaunch s l ln else s)

/-! ## A core that is lost (R422) -/

/-- The sounders of a launch, by core and slot. -/
def sounderSpots (s : State) (l : Nat) (ctx : Nat) : List (Nat × Nat) :=
  (s.cc.filter (fun e => e.1 / 512 == ctx)).flatMap fun e =>
    (e.2.sounders.filter (fun x => x.2.launch == l)).map fun x => (e.1 % 512, x.1)

/-- A launch that cannot go on: its sounders end, admitted or not, and it completes with a status. -/
def failLaunch (s : State) (l : Nat) (ln : Launch) (status : Nat) : State :=
  let s := (sounderSpots s l ln.ctx).foldl (fun s p => endSounder s ln.ctx p.1 p.2 4) s
  let s := { s with cc := s.cc.mapV fun _ cc => { cc with waiting := cc.waiting.filter (·.1 != l) } }
  endLaunch s l ln status

/-- A core is lost with no spare to take its place: what its engines had in hand there ends, and every launch that reaches it
completes with 0x07; other cores and other launches go on (R422). DEDUCED (assumption log 79). -/
def loseCore (s : State) (core : Nat) : State :=
  let s := s.modCore core (fun c => { c with failed := true, holding := false, moveTo := none })
  let s := { s with cc := s.cc.mapV fun k cc => if k % 512 = core then cc.stop else cc }
  (s.launches.filter (fun e => !(placedOn e.2.z e.2.per e.2.cbase e.2.ccount core).isEmpty)).foldl
    (fun s e => failLaunch s e.1 e.2 0x07) s

/-- CORE_FAILURE: a core fails. With a spare left on its die the service migrates it; with none, DEGRADED is set and
launches that reach it complete with 0x07 (R422). `lost` names the banks whose state cannot be read. -/
def execECoreFailure (core spare lost : Nat) (s : State) : Out :=
  if (s.plat.spares.getOr [] (dieOf core)).isEmpty then .next (loseCore { s with plat := { s.plat with degraded := true } } core)
  else execECoreMigration core spare lost (s.modCore core (fun c => { c with failed := true }))

end Sys2Proof.Machine
end

