-- ==== Sys2Proof/Machine/Fabric.lean ====
section
/-! DEFINITION. The fabric: the access-control table (R375), peer launches and their permits (R376, R377), inbound window
accesses (R318, R399), mailbox messages (R224), retransmission and links (R378, R379, R415, R422), collective packets and
takeover requests (R242, R243, R257), and absence (R333). -/

namespace Sys2Proof.Machine

open Sys2Proof

/-! ## Access control and links -/

/-- The access-control entry that an inbound request from a package and context uses (R375). -/
def aclFor (s : State) (pkg ctx : Nat) : Option Acl :=
  let hit := fun (c : Nat) (e : Nat × Acl) => e.2.en && e.2.srcpkg == pkg && e.2.srcctx == c
  match s.acl.find? (hit ctx) with
  | some e => some e.2
  | none => (s.acl.find? (hit 0xFFF)).map (·.2)

/-- The entry admits a request that needs a right on a target context. -/
def admits (s : State) (pkg ctx target : Nat) (right : Acl → Bool) : Bool :=
  match aclFor s pkg ctx with
  | some a => right a && a.dstctx == target
  | none => false

/-- Packets on a port are NACKed retryable while its link is re-keyed or moves to its spare lane (R334, R415, R422). -/
def portBusy (s : State) (port : Nat) : Bool := (s.port port).rekeying || (s.port port).moving

/-- One packet arrives on a port: the packet counter of its link's key goes on; before it reaches 2^48 the link is re-keyed
(R415). -/
def countPacket (s : State) (port : Nat) : State :=
  if (s.port port).session.isSome then
    s.modPort port (fun p => { p with counter := p.counter + 1, rekeying := p.rekeying || decide (2 ^ 48 ≤ p.counter + 2) })
  else s

/-- A packet on a link with a session has an authentic tag and was sealed under the epoch of now (R334, R415). -/
def authentic (s : State) (v : Via) : Bool :=
  (s.port v.port).session.isNone || (v.tag && v.epoch == (s.port v.port).epoch)

/-- A delivery mode that the package does not support (Table 13 of 19). -/
def foreignMode : Delivery → Bool
  | .idempotent | .unreliable => true
  | _ => false

/-- What an arrival on a port meets first: nothing happens on a port that is down; a packet of a delivery mode that is not supported
is dropped and counted (Table 13 of 19); a busy port answers retryable; a packet that fails authentication is dropped. What the package sends to itself uses no link. DEDUCED (assumption log 24). -/
def onPort (s : State) (v : Via) (srcpkg : Nat) (f : State → State) : State :=
  if srcpkg = s.plat.pkgid then f s
  else if !(s.port v.port).up then s
  else if foreignMode v.mode then s.modPort v.port (fun p => { p with unsupported := p.unsupported + 1 })
  else if portBusy s v.port then s.send (.over v.port (.answer srcpkg 1 0 []))
  else if !authentic s v then s
  else f (countPacket s v.port)

/-- An answer that asks for a packet to be sent again. -/
def OutMsg.isRetry : OutMsg → Bool
  | .answer _ 1 _ _ => true
  | _ => false

/-- A packet of an ordered stream takes its place: the next one is acted on, one that is answered
retryable keeps its number, one that comes again gets the answer it had, one that comes too early is dropped and sent again
(R377, R378). DESIGN CHOICE (assumption log 64). -/
def onStream (s : State) (key : Nat) (seq : SeqNo) (f : State → State × OutMsg) : State :=
  let x := s.inOrder.getOr { pdc := seq.pdc, next := 0, answers := [] } key
  let x : InStream := if x.pdc ≠ seq.pdc ∧ seq.n = 0 then { pdc := seq.pdc, next := 0, answers := [] } else x
  if seq.pdc = x.pdc ∧ seq.n = x.next then
    let (t, m) := f s
    if m.isRetry then t.emit m
    else ({ t with inOrder := t.inOrder.put key { x with next := x.next + 1, answers := (seq, m) :: x.answers } } : State).emit m
  else
    match x.answers.find? (fun a => a.1 == seq) with
    | some (_, m) => s.emit m
    | none => s

/-- A deterministic launch of a context is in progress. -/
def determRunning (s : State) (ctx : Nat) : Bool := s.launches.any (fun e => e.2.ctx == ctx && e.2.determ)

/-- MAILBOX_MESSAGE_ARRIVAL (R224, R225, R375). -/
def execEMailboxMessageArrival (m : MailMsg) (s : State) : Out :=
  .next (match m with
    | .own op => mailOwn s op
    | .inbound via srcpkg srcctx ctx core slot bs seq =>
      onPort s via srcpkg fun s => onStream s (mailKey srcpkg srcctx ctx core slot) seq fun s =>
        mailInbound s via.port srcpkg srcctx ctx core slot bs (admits s srcpkg srcctx ctx (·.mbox)))

/-! ## Peer launches (R376, R377) -/

/-- Cycles of a microsecond (R5). DEDUCED (assumption log 21). -/
def microsecond : Nat := 2000

/-- The record of a peer launch that is refused (Table 7 of 20). DEDUCED (assumption log 20). -/
def refuseLaunch (s : State) (ctx pkg queue why : Nat) : State :=
  noteRecord s ctx (infoHdr 9 6 0 0) (pkg % 2 ^ 12 + queue % 2 ^ 10 * 2 ^ 16 + why % 16 * 2 ^ 32)

/-- Destination of a packet in a peer-send queue. -/
def pktDstPkg (p : Nat) : Nat := pktF p 475 464
def pktDstQ (p : Nat) : Nat := pktF p 457 448

/-- The packet at the head of a queue. -/
def headPacket (s : State) (q : Queue) : Nat := leNat (readVirt s q.ctx (q.ring + 256 * (q.head % 2 ^ q.cap)) 256)

/-- A list without its first element that passes a test. -/
def dropFirst {α : Type} (f : α → Bool) : List α → List α
  | [] => []
  | a :: r => if f a then r else a :: dropFirst f r

def Permit.is (p : Permit) (pkg ctx queue : Nat) : Bool := p.pkg == pkg && p.ctx == ctx && p.queue == queue

/-- A packet of a stream has failed for good: what is still on its way goes on in a new delivery context, in the same order
(R378, R379). DESIGN CHOICE (assumption log 64). -/
def renewStream (s : State) (key : Nat) : State :=
  let old := s.sent.getOr { pdc := 0, n := 0 } key
  let pdc := (old.pdc + 1 + Config.freeNat s.freeCtr % 65535) % 65536
  let go := fun (e : State × Nat) (p : Nat × Pending) =>
    match p.2.msg.stream? with
    | some (k, _) =>
      if k = key then
        (({ e.1 with pend := e.1.pend.put p.1 { p.2 with msg := p.2.msg.renumber { pdc := pdc, n := e.2 } } } : State), e.2 + 1)
      else e
    | none => e
  let (t, n) := s.pend.foldl go (s, 0)
  { t with sent := t.sent.put key { pdc := pdc, n := n } }

/-- PEER_LAUNCH_SEND: the packet at the head of a peer-send queue goes out under a permit, or a permit is asked for (R377). -/
def execEPeerLaunchSend (queue : Nat) (s : State) : Out :=
  .next (match s.queues.find queue with
    | none => s
    | some q =>
      let pkt := headPacket s q
      let pkg := pktDstPkg pkt
      let dq := pktDstQ pkt
      if !q.en || !q.peerout || q.head == q.tail || !ctxLive s q.ctx then s
      else
        match s.ctx? q.ctx with
        | none => s
        | some c =>
          let (n, t) := s.nextSeq (streamKey pkg q.ctx dq)
          match c.permits.find? (fun p => p.is pkg q.ctx dq) with
          | some p =>
            let t := t.putCtx q.ctx { c with permits := dropFirst (fun p => p.is pkg q.ctx dq) c.permits }
            let t := { t with queues := t.queues.put queue { q with head := q.head + 1 } }
            t.sendOp (.launch pkg dq q.ctx pkt p.id n)
          | none =>
            if q.asked then s
            else ({ t with queues := t.queues.put queue { q with asked := true } } : State).sendOp (.permitAsk pkg dq q.ctx n))

/-- The access-control table and the queue admit launches of a source (R375, Table 9 of 19). -/
def launchAdmitted (s : State) (srcpkg srcctx queue : Nat) : Option Acl :=
  let q := s.queues.getOr Queue.reset queue
  match aclFor s srcpkg srcctx with
  | some a => if a.launch && decide (a.qlo ≤ queue) && decide (queue ≤ a.qhi) && q.peerin && a.dstctx == q.ctx then some a else none
  | none => none

/-- Permits that one source holds of a queue. -/
def permitsFrom (s : State) (pkg ctx queue : Nat) : Nat := (s.granted.filter (fun p => p.is pkg ctx queue)).length

/-- The peer-send queues of a context that wait for a permit of a destination queue stop waiting. -/
def clearAsked (s : State) (ctx pkg queue : Nat) (skip : Bool) : State :=
  { s with queues := s.queues.mapV (fun _ q =>
      if q.asked ∧ q.ctx = ctx ∧ pktDstPkg (headPacket s q) = pkg ∧ pktDstQ (headPacket s q) = queue then
        { q with asked := false, head := if skip then q.head + 1 else q.head }
      else q) }

/-- The destination's answer to a request for a permit: one within MAXPERM and the queue's free slots, none now, or a refusal by
the table (R376, R377). -/
def grantPermit (s : State) (srcpkg srcctx queue : Nat) : State × OutMsg :=
  match launchAdmitted s srcpkg srcctx queue with
  | none => (s, .refuseLaunch srcpkg srcctx queue 1)
  | some a =>
    let q := s.queues.getOr Queue.reset queue
    if permitsFrom s srcpkg srcctx queue < a.maxperm ∧ permitsOf s queue + (q.tail - q.head) < 2 ^ q.cap then
      let p : Permit := { id := s.nextPermit, pkg := srcpkg, ctx := srcctx, queue := queue,
                          expiry := s.cycle + a.lease * microsecond, lease := a.lease }
      ({ s with granted := s.granted ++ [p], nextPermit := s.nextPermit + 1 }, .permit srcpkg queue srcctx (some (p.id, a.lease)))
    else (s, .permit srcpkg queue srcctx none)

/-- The answer to a request for a permit that this package has made (R376). -/
def permitAnswer (s : State) (op : Nat) (f : State → Nat → Nat → Nat → State) : State :=
  match s.pend.find op with
  | some p =>
    match p.msg with
    | .permitAsk pkg queue ctx _ => f { s with pend := s.pend.del op } pkg queue ctx
    | _ => s
  | none => s

/-- PERMIT_REQUEST: at the destination a request is answered in its order; at the sender the answer arrives (R376). A table that
denies the packet has it refused (R377). -/
def execEPermitRequest (m : PermitMsg) (s : State) : Out :=
  .next (match m with
    | .ask via srcpkg srcctx queue seq =>
      onPort s via srcpkg fun s => onStream s (streamKey srcpkg srcctx queue) seq fun s => grantPermit s srcpkg srcctx queue
    | .granted op id lease => permitAnswer s op fun s pkg queue ctx =>
      let p : Permit := { id := id, pkg := pkg, ctx := ctx, queue := queue, expiry := s.cycle + lease * microsecond / 2, lease := lease }
      (clearAsked s ctx pkg queue false).modCtx ctx (fun c => { c with permits := c.permits ++ [p] })
    | .later op => permitAnswer s op fun s pkg queue ctx => clearAsked s ctx pkg queue false
    | .denied op => permitAnswer s op fun s pkg queue ctx => refuseLaunch (clearAsked s ctx pkg queue true) ctx pkg queue 1)

/-- A permit that a context holds is renewed when half its lease has passed (R376). -/
def renewPermit (s : State) (ctx pkg id : Nat) : State :=
  match s.ctx? ctx with
  | none => s
  | some c =>
    let ripe := fun p : Permit => p.pkg == pkg && p.id == id && decide (p.expiry ≤ s.cycle)
    match c.permits.find? ripe with
    | none => s
    | some p =>
      let p' := { p with expiry := p.expiry + p.lease * microsecond / 2 }
      (s.putCtx ctx { c with permits := dropFirst ripe c.permits ++ [p'] }).sendNext (.permitRenew pkg id ctx { pdc := 0, n := 0 })

/-- PERMIT_RENEWAL: the sender renews each permit every half lease while its context exists, at the cycle the clock finds it due
(R4); at the destination the expiry of that permit moves (R376). -/
def execEPermitRenewal (m : RenewMsg) (s : State) : Out :=
  .next (match m with
    | .due ctx pkg id => renewPermit s ctx pkg id
    | .arrives via srcpkg srcctx id seq =>
      onPort s via srcpkg fun s => onStream s (renewKey srcpkg srcctx) seq fun s =>
        ({ s with granted := s.granted.map (fun p =>
            if p.id = id ∧ p.pkg = srcpkg ∧ p.ctx = srcctx then { p with expiry := s.cycle + p.lease * microsecond } else p) },
          .answer srcpkg 0 0 []))

/-- PERMIT_EXPIRY: a permit that was not renewed is reclaimed and its slot is free (R376); the clock takes those back that no event
has taken by the end of their last cycle (R4). -/
def execEPermitExpiry (srcpkg srcctx queue : Nat) (s : State) : Out :=
  .next { s with granted := dropFirst (fun p => p.is srcpkg srcctx queue && decide (p.expiry ≤ s.cycle)) s.granted }

/-- The packet with its CONTEXT replaced by the queue's own. -/
def rehome (pkt ctx : Nat) : Nat := pkt - pktCtx pkt * 2 ^ 52 + ctx % 2 ^ 12 * 2 ^ 52

/-- A peer launch packet is placed in the slot that its permit reserves, or refused where the permit has been reclaimed or the table
denies it, or the key of its context is revoked (R413); with the answer (R377). -/
def placePeer (s : State) (srcpkg srcctx queue pkt permit : Nat) : State × OutMsg :=
  match launchAdmitted s srcpkg srcctx queue with
  | none => (s, .refuseLaunch srcpkg srcctx queue 1)
  | some _ =>
    if revoked s (s.queues.getOr Queue.reset queue).ctx then (s, .refuseLaunch srcpkg srcctx queue 1)
    else
    let its := fun p : Permit => p.is srcpkg srcctx queue && p.id == permit && decide (s.cycle ≤ p.expiry)
    if !s.granted.any its then (s, .refuseLaunch srcpkg srcctx queue 2)
    else
      let q := s.queues.getOr Queue.reset queue
      let s := { s with granted := dropFirst its s.granted }
      let s := writeVirt s q.ctx (q.ring + 256 * (q.tail % 2 ^ q.cap)) (toBytes 256 (rehome pkt q.ctx))
      ({ s with queues := s.queues.put queue { q with tail := q.tail + 1 } }, .answer srcpkg 0 0 [])

/-- PEER_LAUNCH_ARRIVAL: a packet reaches its destination queue in its order; or its answer reaches the sender, where a refusal is
recorded and the packet dropped (R377). -/
def execEPeerLaunchArrival (m : PeerMsg) (s : State) : Out :=
  .next (match m with
    | .arrives via srcpkg srcctx queue pkt permit seq =>
      onPort s via srcpkg fun s => onStream s (streamKey srcpkg srcctx queue) seq fun s => placePeer s srcpkg srcctx queue pkt permit
    | .placed op => { s with pend := s.pend.filter (fun e => e.1 != op || (match e.2.msg with | .launch _ _ _ _ _ _ => false | _ => true)) }
    | .refused op why =>
      match s.pend.find op with
      | some p =>
        match p.msg with
        | .launch pkg queue ctx _ _ _ => refuseLaunch { s with pend := s.pend.del op } ctx pkg queue why
        | _ => s
      | none => s)

/-! ## Inbound window accesses (R318, R375, R385, R399) -/

/-- How an inbound access ends: with bytes, with a NACK that is not retryable, or with a retryable one. -/
inductive WinRes where
  | ok (s : State) (bytes : List Byte)
  | nack (s : State) (why : Nat)
  | retry (s : State)

/-- The parts of a store are placed one after the other, in lane order. -/
def winStore (s : State) (ctx srcpkg wid : Nat) : List (Nat × List Byte) → WinRes
  | [] => .ok s []
  | (a, bs) :: r =>
    match placement s ctx a with
    | .wait => .retry (placementRecord s ctx a srcpkg)
    | .nack w => .nack s w
    | .ok (.mem _ pa) => winStore (storeMem s ctx pa wid bs) ctx srcpkg wid r
    | .ok (.control off) => winStore (ringControl s off bs) ctx srcpkg wid r
    | .ok _ => .nack s 7

/-- The first part of a store that is not placed. -/
def winBlocked (s : State) (ctx srcpkg : Nat) (parts : List (Nat × List Byte)) : Option WinRes :=
  parts.findSome? fun (a, _) =>
    match placement s ctx a with
    | .wait => some (.retry (placementRecord s ctx a srcpkg))
    | .nack w => some (.nack s w)
    | .ok _ => none

/-- The lanes of an atomic in one aligned 8-byte word, one after the other; the old values come back, 8 bytes each (R318). -/
def winAtomic (s : State) (ctx wid n minor ty : Nat) : List (Nat × Nat × Nat) → WinRes
  | [] => .ok s []
  | (a, data, new) :: r =>
    let go := fun (s : State) (o : Nat) =>
      match winAtomic s ctx wid n minor ty r with
      | .ok t bs => .ok t (toBytes 8 o ++ bs)
      | res => res
    match translate s ctx a true true with
    | .ok (.mem _ pa) =>
      if s.poisoned pa then .nack s 3
      else go (storeMem s ctx pa wid (toBytes n (atomNew (minor % 16) ty (s.readN pa n) data new))) (s.readN pa n)
    | .ok (.control off) => go (ringControl s off (toBytes n (atomNew (minor % 16) ty 0 data new))) 0
    | _ => .nack s 7

/-- One inbound access in its target context. DEDUCED (assumption log 19). -/
def winAccess (s : State) (ctx srcpkg wid : Nat) : WinReq → WinRes
  | .load a n =>
    match translate s ctx a true false with
    | .ok (.mem _ pa) => if s.poisoned pa then .nack s 3 else .ok s (s.bytesAt pa n)
    | .ok (.control _) => .ok s (List.replicate n 0)
    | _ => .nack s 7
  | .store parts => (winBlocked s ctx srcpkg parts).getD (winStore s ctx srcpkg wid parts)
  | .atomic n minor ty parts => winAtomic s ctx wid n minor ty parts
  | .append a row =>
    match translate s ctx a true true with
    | .ok (.mem _ pa) =>
      if s.poisoned pa then .nack s 3
      else
        match appendAt s ctx pa wid srcpkg row with
        | (t, .done v) => .ok t (toBytes 8 v)
        | (t, .fault _ d) => .nack t (d / 2 ^ 16 % 16)
        | (t, .wait) => .retry t
    | _ => .nack s 7

/-- INBOUND_WINDOW_ACCESS: an access of another package is admitted by the table, translated in the context that the entry
names, and applied, or NACKed. -/
def execEInboundWindowAccess (w : WinIn) (s : State) : Out :=
  .next (onPort s w.via w.srcpkg fun s =>
    match aclFor s w.srcpkg w.srcctx with
    | none => s.emit (.answer w.srcpkg 2 1 [])
    | some a =>
      if !a.win || !ctxLive s a.dstctx || revoked s a.dstctx then s.emit (.answer w.srcpkg 2 1 [])
      else
        match winAccess s a.dstctx w.srcpkg (if determRunning s a.dstctx then widPkg w.srcpkg else 0) w.req with
        | .ok t bs => t.emit (.answer w.srcpkg 0 0 bs)
        | .nack t why => t.emit (.answer w.srcpkg 2 why [])
        | .retry t => t.emit (.answer w.srcpkg 1 0 []))

/-! ## Retransmission and links (R378, R379, R415, R422) -/

/-- A remote operation fails after its last retransmission, by its kind (R379): a collective packet is lost to that path, and a
peer launch whose permit cannot be asked for is refused. -/
def failOp (s : State) (op : Nat) (p : Pending) : State :=
  match p.msg with
  | .mail pkg ctx core slot srcctx _ (.mail c k j) _ =>
    renewStream (mailReturn { s with pend := s.pend.del op } c k j 2) (mailKey pkg srcctx ctx core slot)
  | .permitRenew pkg _ ctx _ => renewStream { s with pend := s.pend.del op } (renewKey pkg ctx)
  | .launch pkg queue ctx _ _ _ =>
    let (w, s) := s.freeWord
    renewStream (refuseLaunch { s with pend := s.pend.del op } ctx pkg queue w.toNat) (streamKey pkg ctx queue)
  | .permitAsk pkg queue ctx _ =>
    let (w, s) := s.freeWord
    let s := clearAsked { s with pend := s.pend.del op } ctx pkg queue true
    renewStream (refuseLaunch s ctx pkg queue w.toNat) (streamKey pkg ctx queue)
  | _ => applyReply s op (.nack 4)

/-- The cycle at which a packet has gone without an answer for RTO of the port over which it was last sent; none while it waits for
something else, and for what the package sends to itself (R379). -/
def Pending.due (s : State) (p : Pending) : Option Nat :=
  if p.backoff.isSome ∨ p.status.isSome ∨ p.msg.pkg = s.plat.pkgid then none
  else some (p.sentAt + rtoCycles s (p.port.getD 0))

/-- A packet has timed out, or has no port that is up: it goes out again, or after RETRYMAX times, or with no port up, its operation
fails (R378, R379). -/
def timeOut (s : State) (op : Nat) : State :=
  match s.pend.find op with
  | none => s
  | some p =>
    match p.due s with
    | none => s
    | some t =>
      if (s.upPorts p.msg.pkg).isEmpty then failOp s op p
      else if s.cycle < t then s
      else if bits (s.port (p.port.getD 0)).cfg 39 36 ≤ p.retries then failOp s op p
      else resend (countError s packetRetries) op { p with retries := p.retries + 1 }

/-- RETRANSMISSION_TIMEOUT: RTO of its port after it was last sent the packet is sent again over a port that is up; after RETRYMAX
times, or with no port up, the operation fails (R378, R379). What the package sends to itself uses no link and never times
out. The clock brings each about at its cycle (R4). The reason code of a peer launch that fails so is not stated and is free. -/
def execERetransmissionTimeout (op : Nat) (s : State) : Out :=
  .next (timeOut s op)

/-- A unit has failed for good: DEGRADED (Table 2 of 19, R422). DEDUCED (assumption log 22). -/
def degrade (s : State) : State := { s with plat := { s.plat with degraded := true } }

/-- LINK_FAILURE: a link goes down; traffic uses the other ports of the route masks (R378). -/
def execELinkFailure (port : Nat) (s : State) : Out :=
  .next (degrade ((s.modPort port (fun p => { p with up := false, err := true, moving := false })).emitKept port))

/-- LINK_UP: an enabled port's link finishes training; ports stay down while PKGID is 0 (Table 2 of 19), and one that failed in
bring-up is left down (R360). -/
def execELinkUp (port : Nat) (s : State) : Out :=
  .next (if bits (s.port port).cfg 0 0 = 0 ∨ s.plat.pkgid = 0 ∨ (s.port port).dead then s
         else s.modPort port (fun p => { p with up := true, err := false }))

/-- PORT_LANE_FAILURE: a port moves to its spare fifth lane, with retryable NACKs meanwhile; with the spare used the link
fails (R422). -/
def execEPortLaneFailure (port : Nat) (s : State) : Out :=
  if (s.port port).spareUsed then execELinkFailure port s
  else .next (degrade (s.modPort port (fun p => { p with spareUsed := true, moving := true })))

/-- MEMORY_LANE_FAILURE: a memory channel moves to a spare lane; its accesses wait meanwhile (R422). -/
def execEMemoryLaneFailure (channel : Nat) (s : State) : Out :=
  let on := fun l : List Nat => if l.contains channel then l else channel :: l
  .next (degrade { s with plat := { s.plat with moving := on s.plat.moving, lanesUsed := on s.plat.lanesUsed } })

/-- SPARE_LANE_SWITCH_DONE: the move of a port, or of a memory channel, to its spare lane is complete (R422). -/
def execESpareLaneSwitchDone (isPort : Bool) (n : Nat) (s : State) : Out :=
  .next (if isPort then s.modPort n (fun p => { p with moving := false })
         else { s with plat := { s.plat with moving := s.plat.moving.filter (· != n) } })

/-- LINK_REKEY: re-keying of a link with an open session starts; when it is done the key epoch goes on and the packet counters
start again (R415). -/
def execELinkRekey (port : Nat) (done : Bool) (s : State) : Out :=
  .next (
    if (s.port port).session.isNone then s
    else if !done then s.modPort port (fun p => { p with rekeying := true })
    else if (s.port port).rekeying then
      (s.modPort port (fun p => { p with rekeying := false, epoch := p.epoch + 1, counter := 0, sealed := 0 })).emitKept port
    else s)

/-! ## Collective packets (R242, R243, R257, R334) -/

/-- A collective lies in an enclave where its context's key was imported by a participant (R334, R410). DEDUCED (assumption log 23). -/
def inEnclave (s : State) (ctx : Nat) : Bool :=
  match s.ctx? ctx with
  | some c => (s.slots.getOr KeySlot.reset c.slot).origin == 2
  | none => false

/-- A package is attested: a port has an open session to it. -/
def attested (s : State) (pkg : Nat) : Bool := pkg == s.plat.pkgid || s.ports.any (fun p => p.2.session == some pkg)

/-- A packet enters a thread by the distance of its instance (R243); one that comes after the time of a match in progress is
not for it, and in the cycle of the timeout either way. -/
def enterThread (s : State) (c : CollIn) (t : Thread) : State :=
  let d := (c.pkt.inst + 2 ^ 32 - t.inst) % 2 ^ 32
  let nack := s.emit (.answer c.pkt.srcpkg 1 0 [])
  if d = 0 then
    if Config.receiveDepth + 1 ≤ t.rq.length then nack
    else
      let (left, s) := match t.matchEnd with
        | some due => if s.cycle = due then s.freeBit else (decide (due < s.cycle), s)
        | none => (false, s)
      let cut := if left && t.cut.isNone then some t.rq.length else t.cut
      s.putThread c.via.port c.ctx c.entry { t with rq := t.rq ++ [c.pkt], cut := cut }
  else if d = 1 then
    if Config.receiveDepth + 1 ≤ t.overflow.length then nack
    else s.putThread c.via.port c.ctx c.entry { t with overflow := t.overflow ++ [c.pkt] }
  else if d < 2 ^ 31 then nack
  else (s.modPort c.via.port (fun p => { p with stale := p.stale + 1 })).emit (.answer c.pkt.srcpkg 0 0 [])

/-- The newest instance of an entry that this package knows of: of its threads, its buddy store and one more. -/
def newestInst (s : State) (ctx entry : Nat) (e : CollEntry) (inst : Nat) : Nat :=
  let threads := e.ports.filterMap (fun p => (s.thread? p ctx entry).map (·.inst))
  (threads ++ e.store.map (·.2.2.1)).foldl (fun a i => if laterInst a i then i else a) inst

/-- A contribution is kept in the buddy store of its entry, which holds those of the current and the previous instance (R257). -/
def keepCopy (s : State) (c : CollIn) : State :=
  let tag := fun b : Nat × Nat × Nat × List Byte => b.1 == c.pkt.member && b.2.1 == c.pkt.chunk && b.2.2.1 == c.pkt.inst
  let s := s.modEntry c.ctx c.entry (fun e =>
    let cur := newestInst s c.ctx c.entry e c.pkt.inst
    let new := fun b : Nat × Nat × Nat × List Byte => b.2.2.1 == cur || b.2.2.1 == (cur + 2 ^ 32 - 1) % 2 ^ 32
    let all_ := if e.store.any tag then e.store else (c.pkt.member, c.pkt.chunk, c.pkt.inst, c.pkt.payload) :: e.store
    { e with store := all_.filter new })
  s.emit (.answer c.pkt.srcpkg 0 0 [])

/-- COLLECTIVE_PACKET_ARRIVAL: a packet is refused, discarded as malformed, kept for a buddy, or enters its thread.
DEDUCED (assumption log 54). -/
def execECollectivePacketArrival (c : CollIn) (s : State) : Out :=
  .next (onPort s c.via c.pkt.srcpkg fun s =>
    let refuse := s.emit (.answer c.pkt.srcpkg 2 1 [])
    if c.pkt.srcpkg ≠ s.plat.pkgid ∧ !admits s c.pkt.srcpkg c.srcctx c.ctx (·.coll) then refuse
    else if inEnclave s c.ctx && !attested s c.pkt.srcpkg then refuse
    else
      match s.entry? c.ctx c.entry with
      | none => refuse
      | some e =>
        if e.S ≤ c.pkt.member ∨ e.chunks ≤ c.pkt.chunk ∨ 5 ≤ c.pkt.kind then
          (s.modPort c.via.port (fun p => { p with malformed := p.malformed + 1 })).emit (.answer c.pkt.srcpkg 0 0 [])
        else if c.store then keepCopy s c
        else
          match s.thread? c.via.port c.ctx c.entry with
          | none => refuse
          | some t => enterThread s c t)

/-- TAKEOVER_REQUEST_ARRIVAL: the buddy's switch die answers from its store: KIND 1 with the copy under its original tag, or
KIND 4 of LENGTH 0 (R257). -/
def execETakeoverRequestArrival (r : Takeover) (s : State) : Out :=
  .next (onPort s r.via r.srcpkg fun s =>
    match s.entry? r.ctx r.entry with
    | none => s.emit (.answer r.srcpkg 2 1 [])
    | some e =>
      if r.srcpkg ≠ s.plat.pkgid ∧ !admits s r.srcpkg r.srcctx r.ctx (·.coll) then s.emit (.answer r.srcpkg 2 1 [])
      else if inEnclave s r.ctx && !attested s r.srcpkg then s.emit (.answer r.srcpkg 2 1 [])
      else
        let copy := e.store.find? (fun b => b.1 == r.member && b.2.1 == r.chunk && b.2.2.1 == r.inst)
        let p : Packet := { member := r.member, chunk := r.chunk, inst := r.inst, kind := if copy.isSome then 1 else 4,
                            srcpkg := s.plat.pkgid, payload := match copy with | some b => b.2.2.2 | none => [] }
        s.sendOp (.coll r.srcpkg r.asker r.ctx r.entry p))

/-- PACKAGE_DECLARED_FAILED: the service makes the members of a failed package absent in every collective that has them, here
and on the other packages; or another package's notice makes one member absent here (R333). -/
def execEPackageDeclaredFailed (m : AbsentMsg) (s : State) : Out :=
  .next (match m with
    | .member ctx entry k => absentMember s ctx entry k
    | .package pkg =>
      let all_ := s.ctxs.flatMap fun (c, x) => x.colls.flatMap fun (i, e) => (membersOn e pkg).map fun k => (c, i, k, e)
      all_.foldl (fun s (c, i, k, e) =>
        (((e.rows.map (·.pkg)).eraseDups.filter (fun p => p != s.plat.pkgid && p != pkg)).foldl
          (fun s p => s.send (.tellAbsent p c i k)) (absentMember s c i k))) (degrade s))

end Sys2Proof.Machine
end

