-- ==== Sys2Proof/Machine/LaneArith.lean ====
section
/-! DEFINITION. The lane arithmetic instructions of chapter 05: majors 0x01 to 0x0D and their immediate forms. Every
meaning is `laneArith` (R132) over the lane operation of its table. -/

namespace Sys2Proof.Machine

open Sys2Proof

/-! ## Lane operations -/

/-- Integer and bit operations lane by lane (R137, R138). -/
def intOp (op : Alu.Op) (i : Issue) (as bs cs ds : List Nat) : List (Nat × Nat) :=
  eachLane (Alu.intLane op i.ty) as bs cs ds

/-- The value IMM stands for in an immediate form (R136). DESIGN CHOICE: an f32 immediate that is a signalling NaN has its quiet bit
set where it is widened to f64, as a widening conversion sets it (assumption log 70). -/
def immValue (i : Issue) : Nat :=
  if tyF i.ty then
    if i.ty = 0xC then (Fl.cvtFF Fl.f32 Fl.f64 .rn (i.imm * 2 ^ 12)).1 else i.imm * 2 ^ 12
  else Alu.wrap 64 (Alu.toI true 20 i.imm)

/-- The immediate in every lane. -/
def immLanes (i : Issue) : List Nat := List.replicate 96 (immValue i)

/-- A compare delivers one bit (R139, R142). -/
def bitRes (b : Bool) (fl : Nat) : Nat × Nat := (if b then 1 else 0, fl)

/-- icmp with relation `cc` (R139). -/
def icmpOp (cc : Nat) (i : Issue) (as bs cs ds : List Nat) : List (Nat × Nat) :=
  eachLane (fun a b _ _ => bitRes (Alu.icmp cc (Alu.signedT i.ty) (Alu.shape i.ty).1 a b) 0) as bs cs ds

/-- A float operation of the elements of a lane (R82, R140). -/
def floatOp (f : Fl.Fmt → Fl.Mode → Nat → Nat → Nat → Nat × Nat) (i : Issue) (as bs cs ds : List Nat) :
    List (Nat × Nat) :=
  eachLane (Alu.perLane i.ty fun a b c _ => f (Alu.fmtT i.ty) (Fl.modeOf i.rnd) a b c) as bs cs ds

/-- fabs, fneg and fcopysign on a pattern (R140). -/
def fabsE (f : Fl.Fmt) (_ : Fl.Mode) (a _ _ : Nat) : Nat × Nat := (a % f.signBit, 0)
def fnegE (f : Fl.Fmt) (_ : Fl.Mode) (a _ _ : Nat) : Nat × Nat := (f.withSign (!f.sgn a) (a % f.signBit), 0)
def fcopysignE (f : Fl.Fmt) (_ : Fl.Mode) (a b _ : Nat) : Nat × Nat := (f.withSign (f.sgn b) (a % f.signBit), 0)

/-- fcmp with relation `cc` (R142). -/
def fcmpOp (cc : Nat) (i : Issue) (as bs cs ds : List Nat) : List (Nat × Nat) :=
  eachLane (fun a b _ _ =>
    let f := Alu.fmtT i.ty
    let r := f.fcmp cc (a % 2 ^ f.w) (b % 2 ^ f.w)
    bitRes r.1 r.2) as bs cs ds

/-- cvt of one lane from type `ts` to type `td` (R144). -/
def cvtLane (mode : Fl.Mode) (ts td a : Nat) : Nat × Nat :=
  let ws := (Alu.shape ts).1
  let wd := (Alu.shape td).1
  let sd := Alu.signedT td
  let v := Alu.toI (Alu.signedT ts) ws a
  let r : Nat × Nat :=
    if tyS ts then
      if tyS td then (Alu.wrap wd v, 0) else Fl.cvtIF (Alu.fmtT td) mode v
    else if tyS td then
      let q := Fl.cvtFI (Alu.fmtT ts) mode (Alu.iMin sd wd) (Alu.iMax sd wd) (a % 2 ^ ws)
      (Alu.wrap wd q.1, q.2)
    else Fl.cvtFF (Alu.fmtT ts) (Alu.fmtT td) mode (a % 2 ^ ws)
  (Alu.extend td r.1, r.2)

/-- A predicate operation lane by lane (R148). -/
def predOp (f : Bool → Bool → Bool) (_ : Issue) (as bs cs ds : List Nat) : List (Nat × Nat) :=
  eachLane (fun a b _ _ => bitRes (f (a != 0) (b != 0)) 0) as bs cs ds

/-- Lane l takes lane `src l` of a, or 0 where that is no lane (R150). -/
def fromLane (src : Nat → Nat) (as : List Nat) : List (Nat × Nat) :=
  (List.range 96).map fun l => (if src l < 96 then as.getD (src l) 0 else 0, 0)

/-! ## Reductions (R105, R152) -/

/-- comb of two nodes with the flags raised so far; an empty node leaves the other as it is (R105). -/
def combNode (f : Nat → Nat → Nat × Nat) (x y : Option Nat × Nat) : Option Nat × Nat :=
  match x, y with
  | (some a, g), (some b, h) => (some (f a b).1, (f a b).2 ||| g ||| h)
  | (some a, g), (none, h) => (some a, g ||| h)
  | (none, g), (b, h) => (b, g ||| h)

/-- One level of the tree: neighbours combined, the lower index as operand a. -/
def combPairs (f : Nat → Nat → Nat × Nat) : List (Option Nat × Nat) → List (Option Nat × Nat)
  | x :: y :: r => combNode f x y :: combPairs f r
  | l => l

/-- The sum of one beat of 32 nodes. -/
def beatSum (f : Nat → Nat → Nat × Nat) (l : List (Option Nat × Nat)) : Option Nat × Nat :=
  (combPairs f (combPairs f (combPairs f (combPairs f (combPairs f l))))).headD (none, 0)

/-- The reduction of 96 lanes by the fixed tree of R105. -/
def reduceTree (f : Nat → Nat → Nat × Nat) (l : List (Option Nat × Nat)) : Option Nat × Nat :=
  combNode f (combNode f (beatSum f (l.take 32)) (beatSum f ((l.drop 32).take 32))) (beatSum f (l.drop 64))

/-- A reduction with its comb and its identity, written to every lane (R152); a float result that is a NaN is
delivered quiet. -/
def reduceOp (f : Nat → Nat → Nat × Nat) (identity : Nat) (i : Issue) (as bs _ _ : List Nat) : List (Nat × Nat) :=
  let w := (Alu.shape i.ty).1
  let nodes := (List.range 96).map fun l =>
    (if i.mask.getLsbD l && bs.getD l 0 != 0 then some (as.getD l 0 % 2 ^ w) else none, 0)
  let r := reduceTree f nodes
  let v :=
    match r.1 with
    | none => identity
    | some v =>
      if tyF i.ty then
        match (Alu.fmtT i.ty).unpack v with
        | .nan s _ fr => (Alu.fmtT i.ty).quiet s fr
        | _ => v
      else v
  List.replicate 96 (v, r.2)

/-- comb of radd, rmin and rmax (R152, R106). -/
def raddE (i : Issue) (a b : Nat) : Nat × Nat :=
  if tyF i.ty then (Alu.fmtT i.ty).add (Fl.modeOf i.rnd) a b else ((a + b) % 2 ^ (Alu.shape i.ty).1, 0)
def rminmaxE (isMax : Bool) (i : Issue) (a b : Nat) : Nat × Nat :=
  if tyF i.ty then (Alu.fmtT i.ty).minmax isMax a b
  else ((if isMax then Alu.maxI else Alu.minI) (Alu.signedT i.ty) (Alu.shape i.ty).1 a b, 0)

/-- The result of rmin or rmax with no lane: the greatest or least value, or an infinity (Table 4 of 03). -/
def rminmaxIdentity (isMax : Bool) (i : Issue) : Nat :=
  let w := (Alu.shape i.ty).1
  let f := Alu.fmtT i.ty
  let sg := Alu.signedT i.ty
  if tyF i.ty then f.withSign isMax f.infCode else Alu.wrap w (if isMax then Alu.iMin sg w else Alu.iMax sg w)

/-! ## Dot products and quantisation -/

/-- dp4 of one lane (R104, R153). -/
def dp4Lane (sg : Bool) (a b c : Nat) : Nat :=
  let e := fun x k => Alu.toI sg 8 (x / 2 ^ (8 * k))
  Alu.wrap 32 (e a 0 * e b 0 + e a 1 * e b 1 + e a 2 * e b 2 + e a 3 * e b 3 + Alu.toI true 32 c)

/-- A quantisation instruction: an invalid control is the trap "invalid format descriptor" (R146). DESIGN CHOICE: it is raised
under an effective mask of all zeros too, since the control is read whatever the mask, though R64 has such an issue raise no
fault of arithmetic (R92; assumption log 71). -/
def laneQuant (min : Nat) (f : LaneR) (s : State)
    (op : Issue → Nat → List Nat → List Nat → List (Nat × Nat)) : Out :=
  laneStep s 8 min (.r f) fun i s =>
    let ctl := (i.srcC s).getD 0 0
    if Nr.ctlValid ctl (min != 1) then i.finish s (op i ctl (i.srcA s) (i.srcB s)) else i.execTrap s 0x08

/-! ## The instructions -/

/-- iadd (R137). -/
def execVIadd (f : LaneR) (s : State) : Out :=
  laneArith s 1 0 (.r f) (intOp .add)

/-- isub (R137). -/
def execVIsub (f : LaneR) (s : State) : Out :=
  laneArith s 1 1 (.r f) (intOp .sub)

/-- iaddsat (R137). -/
def execVIaddsat (f : LaneR) (s : State) : Out :=
  laneArith s 1 2 (.r f) (intOp .addSat)

/-- isubsat (R137). -/
def execVIsubsat (f : LaneR) (s : State) : Out :=
  laneArith s 1 3 (.r f) (intOp .subSat)

/-- imul (R137). -/
def execVImul (f : LaneR) (s : State) : Out :=
  laneArith s 1 4 (.r f) (intOp .mul)

/-- imulhi (R137). -/
def execVImulhi (f : LaneR) (s : State) : Out :=
  laneArith s 1 5 (.r f) (intOp .mulHi)

/-- imad (R137). -/
def execVImad (f : LaneR) (s : State) : Out :=
  laneArith s 1 6 (.r f) (intOp .mad)

/-- imin (R137). -/
def execVImin (f : LaneR) (s : State) : Out :=
  laneArith s 1 7 (.r f) (intOp .min)

/-- imax (R137). -/
def execVImax (f : LaneR) (s : State) : Out :=
  laneArith s 1 8 (.r f) (intOp .max)

/-- iabs (R137). -/
def execVIabs (f : LaneR) (s : State) : Out :=
  laneArith s 1 9 (.r f) (intOp .abs)

/-- ineg (R137). -/
def execVIneg (f : LaneR) (s : State) : Out :=
  laneArith s 1 10 (.r f) (intOp .neg)

/-- idiv (R137). -/
def execVIdiv (f : LaneR) (s : State) : Out :=
  laneArith s 1 11 (.r f) (intOp .div)

/-- irem (R137). -/
def execVIrem (f : LaneR) (s : State) : Out :=
  laneArith s 1 12 (.r f) (intOp .rem)

/-- iavg (R137). -/
def execVIavg (f : LaneR) (s : State) : Out :=
  laneArith s 1 13 (.r f) (intOp .avg)

/-- isad (R137). -/
def execVIsad (f : LaneR) (s : State) : Out :=
  laneArith s 1 14 (.r f) (intOp .sad)

/-- and (R138). -/
def execVAnd (f : LaneR) (s : State) : Out :=
  laneArith s 2 0 (.r f) (intOp .and)

/-- or (R138). -/
def execVOr (f : LaneR) (s : State) : Out :=
  laneArith s 2 1 (.r f) (intOp .or)

/-- xor (R138). -/
def execVXor (f : LaneR) (s : State) : Out :=
  laneArith s 2 2 (.r f) (intOp .xor)

/-- not (R138). -/
def execVNot (f : LaneR) (s : State) : Out :=
  laneArith s 2 3 (.r f) (intOp .not)

/-- andn (R138). -/
def execVAndn (f : LaneR) (s : State) : Out :=
  laneArith s 2 4 (.r f) (intOp .andn)

/-- shl (R138). -/
def execVShl (f : LaneR) (s : State) : Out :=
  laneArith s 2 5 (.r f) (intOp .shl)

/-- shr (R138). -/
def execVShr (f : LaneR) (s : State) : Out :=
  laneArith s 2 6 (.r f) (intOp .shr)

/-- sra (R138). -/
def execVSra (f : LaneR) (s : State) : Out :=
  laneArith s 2 7 (.r f) (intOp .sra)

/-- rotl (R138). -/
def execVRotl (f : LaneR) (s : State) : Out :=
  laneArith s 2 8 (.r f) (intOp .rotl)

/-- popc (R138). -/
def execVPopc (f : LaneR) (s : State) : Out :=
  laneArith s 2 9 (.r f) (intOp .popc)

/-- clz (R138). -/
def execVClz (f : LaneR) (s : State) : Out :=
  laneArith s 2 10 (.r f) (intOp .clz)

/-- ctz (R138). -/
def execVCtz (f : LaneR) (s : State) : Out :=
  laneArith s 2 11 (.r f) (intOp .ctz)

/-- brev (R138). -/
def execVBrev (f : LaneR) (s : State) : Out :=
  laneArith s 2 12 (.r f) (intOp .brev)

/-- bfext: position and length from b (R138). -/
def execVBfext (f : LaneR) (s : State) : Out :=
  laneArith s 2 13 (.r f) fun i as bs cs ds =>
    eachLane (fun a b _ _ => (Alu.bfext (Alu.signedT i.ty) (Alu.shape i.ty).1 a (b % 256) (b / 256 % 256), 0)) as bs cs ds

/-- bfins: the field of a replaced by the low bits of c (R138). -/
def execVBfins (f : LaneR) (s : State) : Out :=
  laneArith s 2 14 (.r f) fun i as bs cs ds =>
    eachLane (fun a b c _ => (Alu.bfins (Alu.shape i.ty).1 a (b % 256) (b / 256 % 256) c, 0)) as bs cs ds

/-- tlut: the table is d[7:0] of the same lane (R138). -/
def execVTlut (f : LaneR) (s : State) : Out :=
  laneArith s 2 15 (.r f) fun i as bs cs ds =>
    eachLane (fun a b c d => (Alu.tlut (Alu.shape i.ty).1 a b c (d % 256), 0)) as bs cs ds

/-- icmp.eq (R139). -/
def execVIcmpEq (f : LaneR) (s : State) : Out :=
  laneArith s 3 0 (.r f) (icmpOp 0)

/-- icmp.ne (R139). -/
def execVIcmpNe (f : LaneR) (s : State) : Out :=
  laneArith s 3 1 (.r f) (icmpOp 1)

/-- icmp.lt (R139). -/
def execVIcmpLt (f : LaneR) (s : State) : Out :=
  laneArith s 3 2 (.r f) (icmpOp 2)

/-- icmp.le (R139). -/
def execVIcmpLe (f : LaneR) (s : State) : Out :=
  laneArith s 3 3 (.r f) (icmpOp 3)

/-- icmp.gt (R139). -/
def execVIcmpGt (f : LaneR) (s : State) : Out :=
  laneArith s 3 4 (.r f) (icmpOp 4)

/-- icmp.ge (R139). -/
def execVIcmpGe (f : LaneR) (s : State) : Out :=
  laneArith s 3 5 (.r f) (icmpOp 5)

/-- fadd (R140). -/
def execVFadd (f : LaneR) (s : State) : Out :=
  laneArith s 4 0 (.r f) (floatOp (fun f m a b _ => f.add m a b))

/-- fsub (R140). -/
def execVFsub (f : LaneR) (s : State) : Out :=
  laneArith s 4 1 (.r f) (floatOp (fun f m a b _ => f.sub m a b))

/-- fmul (R140). -/
def execVFmul (f : LaneR) (s : State) : Out :=
  laneArith s 4 2 (.r f) (floatOp (fun f m a b _ => f.mul m a b))

/-- ffma (R140). -/
def execVFfma (f : LaneR) (s : State) : Out :=
  laneArith s 4 3 (.r f) (floatOp (fun f m a b c => f.fma m a b c))

/-- fmin (R140). -/
def execVFmin (f : LaneR) (s : State) : Out :=
  laneArith s 4 4 (.r f) (floatOp (fun f _ a b _ => f.minmax false a b))

/-- fmax (R140). -/
def execVFmax (f : LaneR) (s : State) : Out :=
  laneArith s 4 5 (.r f) (floatOp (fun f _ a b _ => f.minmax true a b))

/-- fminnum (R140). -/
def execVFminnum (f : LaneR) (s : State) : Out :=
  laneArith s 4 6 (.r f) (floatOp (fun f _ a b _ => f.minmaxNum false a b))

/-- fmaxnum (R140). -/
def execVFmaxnum (f : LaneR) (s : State) : Out :=
  laneArith s 4 7 (.r f) (floatOp (fun f _ a b _ => f.minmaxNum true a b))

/-- fabs (R140). -/
def execVFabs (f : LaneR) (s : State) : Out :=
  laneArith s 4 8 (.r f) (floatOp fabsE)

/-- fneg (R140). -/
def execVFneg (f : LaneR) (s : State) : Out :=
  laneArith s 4 9 (.r f) (floatOp fnegE)

/-- fcopysign (R140). -/
def execVFcopysign (f : LaneR) (s : State) : Out :=
  laneArith s 4 10 (.r f) (floatOp fcopysignE)

/-- fclass (R141). -/
def execVFclass (f : LaneR) (s : State) : Out :=
  laneArith s 4 11 (.r f) fun i as bs cs ds =>
    eachLane (fun a _ _ _ => ((Alu.fmtT i.ty).classify (a % 2 ^ (Alu.fmtT i.ty).w), 0)) as bs cs ds

/-- fcmp.eq (R142). -/
def execVFcmpEq (f : LaneR) (s : State) : Out :=
  laneArith s 5 0 (.r f) (fcmpOp 0)

/-- fcmp.ne (R142). -/
def execVFcmpNe (f : LaneR) (s : State) : Out :=
  laneArith s 5 1 (.r f) (fcmpOp 1)

/-- fcmp.lt (R142). -/
def execVFcmpLt (f : LaneR) (s : State) : Out :=
  laneArith s 5 2 (.r f) (fcmpOp 2)

/-- fcmp.le (R142). -/
def execVFcmpLe (f : LaneR) (s : State) : Out :=
  laneArith s 5 3 (.r f) (fcmpOp 3)

/-- fcmp.gt (R142). -/
def execVFcmpGt (f : LaneR) (s : State) : Out :=
  laneArith s 5 4 (.r f) (fcmpOp 4)

/-- fcmp.ge (R142). -/
def execVFcmpGe (f : LaneR) (s : State) : Out :=
  laneArith s 5 5 (.r f) (fcmpOp 5)

/-- fcmp.un (R142). -/
def execVFcmpUn (f : LaneR) (s : State) : Out :=
  laneArith s 5 6 (.r f) (fcmpOp 6)

/-- fcmp.ord (R142). -/
def execVFcmpOrd (f : LaneR) (s : State) : Out :=
  laneArith s 5 7 (.r f) (fcmpOp 7)

/-- rcp (R143). -/
def execVRcp (f : LaneR) (s : State) : Out :=
  laneArith s 6 0 (.r f) (floatOp (fun f m a _ _ => f.rcp m a))

/-- rsq (R143). -/
def execVRsq (f : LaneR) (s : State) : Out :=
  laneArith s 6 1 (.r f) (floatOp (fun f m a _ _ => f.rsq m a))

/-- sqrt (R143). -/
def execVSqrt (f : LaneR) (s : State) : Out :=
  laneArith s 6 2 (.r f) (floatOp (fun f m a _ _ => f.sqrt m a))

/-- div (R143). -/
def execVDiv (f : LaneR) (s : State) : Out :=
  laneArith s 6 3 (.r f) (floatOp (fun f m a b _ => f.div m a b))

/-- exp2 (R143). -/
def execVExp2 (f : LaneR) (s : State) : Out :=
  laneArith s 6 4 (.r f) (floatOp (fun f m a _ _ => f.exp2 m a))

/-- log2 (R143). -/
def execVLog2 (f : LaneR) (s : State) : Out :=
  laneArith s 6 5 (.r f) (floatOp (fun f m a _ _ => f.log2 m a))

/-- cvt: MINOR names the source type (R144). -/
def execVCvt (src : BitVec 8) (f : LaneR) (s : State) : Out :=
  laneArith s 7 src.toNat (.r f) fun i as bs cs ds =>
    eachLane (fun a _ _ _ => cvtLane (Fl.modeOf i.rnd) i.min i.ty a) as bs cs ds

/-- frint (R145). -/
def execVFrint (f : LaneR) (s : State) : Out :=
  laneArith s 7 64 (.r f) (floatOp (fun f m a _ _ => f.frint m a))

/-- qnt (R147). -/
def execVQnt (f : LaneR) (s : State) : Out :=
  laneQuant 0 f s fun i ctl as bs => Nr.qnt ctl (Fl.modeOf i.rnd) as bs

/-- dqnt (R147). -/
def execVDqnt (f : LaneR) (s : State) : Out :=
  laneQuant 1 f s fun i ctl as bs => Nr.dqnt ctl (Fl.modeOf i.rnd) as bs

/-- qscale (R147). -/
def execVQscale (f : LaneR) (s : State) : Out :=
  laneQuant 2 f s fun _ ctl as bs => (Nr.qscale ctl as bs).map (·, 0)

/-- pand (R148). -/
def execVPand (f : LaneR) (s : State) : Out :=
  laneArith s 9 0 (.r f) (predOp (· && ·))

/-- por (R148). -/
def execVPor (f : LaneR) (s : State) : Out :=
  laneArith s 9 1 (.r f) (predOp (· || ·))

/-- pxor (R148). -/
def execVPxor (f : LaneR) (s : State) : Out :=
  laneArith s 9 2 (.r f) (predOp (· != ·))

/-- pandn (R148). -/
def execVPandn (f : LaneR) (s : State) : Out :=
  laneArith s 9 3 (.r f) (predOp (fun a b => a && !b))

/-- pnot (R148). -/
def execVPnot (f : LaneR) (s : State) : Out :=
  laneArith s 9 4 (.r f) (predOp (fun a _ => !a))

/-- pmov (R148). -/
def execVPmov (f : LaneR) (s : State) : Out :=
  laneArith s 9 5 (.r f) (predOp (fun a _ => a))

/-- pfromv: 1 where the lane is not zero (R148). -/
def execVPfromv (f : LaneR) (s : State) : Out :=
  laneArith s 9 6 (.r f) (predOp (fun a _ => a))

/-- pvec (R148). -/
def execVPvec (f : LaneR) (s : State) : Out :=
  laneArith s 9 7 (.r f) fun _ as bs cs ds =>
    eachLane (fun a _ _ _ => (if a != 0 then 2 ^ 32 - 1 else 0, 0)) as bs cs ds

/-- pfirst: the lowest lane of the mask with qa set (R148). -/
def execVPfirst (f : LaneR) (s : State) : Out :=
  laneArith s 9 8 (.r f) fun i as _ _ _ =>
    let first := i.lanes.find? (fun l => as.getD l 0 != 0)
    (List.range 96).map fun l => bitRes (first == some l) 0

/-- mov (R149). -/
def execVMov (f : LaneR) (s : State) : Out :=
  laneArith s 10 0 (.r f) fun _ as _ _ _ => as.map (·, 0)

/-- sel: a where the predicate is 1, else b (R149). -/
def execVSel (f : LaneR) (s : State) : Out :=
  laneArith s 10 1 (.r f) fun _ as bs cs ds =>
    eachLane (fun a b c _ => (if c != 0 then a else b, 0)) as bs cs ds

/-- lidx (R150). -/
def execVLidx (f : LaneR) (s : State) : Out :=
  laneArith s 11 0 (.r f) fun _ as bs _ _ => fromLane (fun l => bs.getD l 0) as

/-- lxor (R150). -/
def execVLxor (f : LaneR) (s : State) : Out :=
  laneArith s 11 1 (.r f) fun _ as bs _ _ => fromLane (fun l => Alu.xorN l (bs.getD l 0 % 32)) as

/-- lrot (R150). -/
def execVLrot (f : LaneR) (s : State) : Out :=
  laneArith s 11 2 (.r f) fun _ as bs _ _ => fromLane (fun l => (l + bs.getD l 0) % 96) as

/-- bcast (R150). -/
def execVBcast (f : LaneR) (s : State) : Out :=
  laneArith s 11 3 (.r f) fun _ as bs _ _ => fromLane (fun _ => bs.getD 0 0) as

/-- radd (R152). -/
def execVRadd (f : LaneR) (s : State) : Out :=
  laneArith s 12 0 (.r f) fun i => reduceOp (raddE i) 0 i

/-- rmin (R152, R106). -/
def execVRmin (f : LaneR) (s : State) : Out :=
  laneArith s 12 1 (.r f) fun i => reduceOp (rminmaxE false i) (rminmaxIdentity false i) i

/-- rmax (R152, R106). -/
def execVRmax (f : LaneR) (s : State) : Out :=
  laneArith s 12 2 (.r f) fun i => reduceOp (rminmaxE true i) (rminmaxIdentity true i) i

/-- rand (R152). -/
def execVRand (f : LaneR) (s : State) : Out :=
  laneArith s 12 3 (.r f) fun i => reduceOp (fun a b => (Alu.andN a b, 0)) (2 ^ (Alu.shape i.ty).1 - 1) i

/-- ror (R152). -/
def execVRor (f : LaneR) (s : State) : Out :=
  laneArith s 12 4 (.r f) fun i => reduceOp (fun a b => (Alu.orN a b, 0)) 0 i

/-- rxor (R152). -/
def execVRxor (f : LaneR) (s : State) : Out :=
  laneArith s 12 5 (.r f) fun i => reduceOp (fun a b => (Alu.xorN a b, 0)) 0 i

/-- dp4 (R153). -/
def execVDp4 (f : LaneR) (s : State) : Out :=
  laneArith s 13 0 (.r f) fun i as bs cs ds =>
    eachLane (fun a b c _ => (dp4Lane (Alu.signedT i.ty) a b c, 0)) as bs cs ds

/-- dp2 (R153). -/
def execVDp2 (f : LaneR) (s : State) : Out :=
  laneArith s 13 1 (.r f) fun i as bs cs ds =>
    eachLane (fun a b c _ => Fl.dp2 (Alu.fmtT i.ty) (Fl.modeOf i.rnd) (a % 2 ^ 16) (b % 2 ^ 16) (a / 2 ^ 16) (b / 2 ^ 16) c) as bs cs ds

/-- iadd with an immediate (R136). -/
def execVIaddI (f : LaneI) (s : State) : Out :=
  laneArith s 17 0 (.i f) fun i as _ cs ds => intOp .add i as (immLanes i) cs ds

/-- isub with an immediate (R136). -/
def execVIsubI (f : LaneI) (s : State) : Out :=
  laneArith s 17 1 (.i f) fun i as _ cs ds => intOp .sub i as (immLanes i) cs ds

/-- iaddsat with an immediate (R136). -/
def execVIaddsatI (f : LaneI) (s : State) : Out :=
  laneArith s 17 2 (.i f) fun i as _ cs ds => intOp .addSat i as (immLanes i) cs ds

/-- isubsat with an immediate (R136). -/
def execVIsubsatI (f : LaneI) (s : State) : Out :=
  laneArith s 17 3 (.i f) fun i as _ cs ds => intOp .subSat i as (immLanes i) cs ds

/-- imul with an immediate (R136). -/
def execVImulI (f : LaneI) (s : State) : Out :=
  laneArith s 17 4 (.i f) fun i as _ cs ds => intOp .mul i as (immLanes i) cs ds

/-- imin with an immediate (R136). -/
def execVIminI (f : LaneI) (s : State) : Out :=
  laneArith s 17 7 (.i f) fun i as _ cs ds => intOp .min i as (immLanes i) cs ds

/-- imax with an immediate (R136). -/
def execVImaxI (f : LaneI) (s : State) : Out :=
  laneArith s 17 8 (.i f) fun i as _ cs ds => intOp .max i as (immLanes i) cs ds

/-- and with an immediate (R136). -/
def execVAndI (f : LaneI) (s : State) : Out :=
  laneArith s 18 0 (.i f) fun i as _ cs ds => intOp .and i as (immLanes i) cs ds

/-- or with an immediate (R136). -/
def execVOrI (f : LaneI) (s : State) : Out :=
  laneArith s 18 1 (.i f) fun i as _ cs ds => intOp .or i as (immLanes i) cs ds

/-- xor with an immediate (R136). -/
def execVXorI (f : LaneI) (s : State) : Out :=
  laneArith s 18 2 (.i f) fun i as _ cs ds => intOp .xor i as (immLanes i) cs ds

/-- shl with an immediate (R136). -/
def execVShlI (f : LaneI) (s : State) : Out :=
  laneArith s 18 5 (.i f) fun i as _ cs ds => intOp .shl i as (immLanes i) cs ds

/-- shr with an immediate (R136). -/
def execVShrI (f : LaneI) (s : State) : Out :=
  laneArith s 18 6 (.i f) fun i as _ cs ds => intOp .shr i as (immLanes i) cs ds

/-- sra with an immediate (R136). -/
def execVSraI (f : LaneI) (s : State) : Out :=
  laneArith s 18 7 (.i f) fun i as _ cs ds => intOp .sra i as (immLanes i) cs ds

/-- rotl with an immediate (R136). -/
def execVRotlI (f : LaneI) (s : State) : Out :=
  laneArith s 18 8 (.i f) fun i as _ cs ds => intOp .rotl i as (immLanes i) cs ds

/-- bfext with position and length in IMM (R138). -/
def execVBfextI (f : LaneI) (s : State) : Out :=
  laneArith s 18 13 (.i f) fun i as bs cs ds =>
    eachLane (fun a _ _ _ =>
      (Alu.bfext (Alu.signedT i.ty) (Alu.shape i.ty).1 a (i.imm % 256) (i.imm / 256 % 256), 0)) as bs cs ds

/-- icmpeq with an immediate (R136). -/
def execVIcmpEqI (f : LaneI) (s : State) : Out :=
  laneArith s 19 0 (.i f) fun i as _ cs ds => icmpOp 0 i as (immLanes i) cs ds

/-- icmpne with an immediate (R136). -/
def execVIcmpNeI (f : LaneI) (s : State) : Out :=
  laneArith s 19 1 (.i f) fun i as _ cs ds => icmpOp 1 i as (immLanes i) cs ds

/-- icmplt with an immediate (R136). -/
def execVIcmpLtI (f : LaneI) (s : State) : Out :=
  laneArith s 19 2 (.i f) fun i as _ cs ds => icmpOp 2 i as (immLanes i) cs ds

/-- icmple with an immediate (R136). -/
def execVIcmpLeI (f : LaneI) (s : State) : Out :=
  laneArith s 19 3 (.i f) fun i as _ cs ds => icmpOp 3 i as (immLanes i) cs ds

/-- icmpgt with an immediate (R136). -/
def execVIcmpGtI (f : LaneI) (s : State) : Out :=
  laneArith s 19 4 (.i f) fun i as _ cs ds => icmpOp 4 i as (immLanes i) cs ds

/-- icmpge with an immediate (R136). -/
def execVIcmpGeI (f : LaneI) (s : State) : Out :=
  laneArith s 19 5 (.i f) fun i as _ cs ds => icmpOp 5 i as (immLanes i) cs ds

/-- fadd with an immediate (R136). -/
def execVFaddI (f : LaneI) (s : State) : Out :=
  laneArith s 20 0 (.i f) fun i as _ cs ds => floatOp (fun f m a b _ => f.add m a b) i as (immLanes i) cs ds

/-- fmul with an immediate (R136). -/
def execVFmulI (f : LaneI) (s : State) : Out :=
  laneArith s 20 2 (.i f) fun i as _ cs ds => floatOp (fun f m a b _ => f.mul m a b) i as (immLanes i) cs ds

/-- fmin with an immediate (R136). -/
def execVFminI (f : LaneI) (s : State) : Out :=
  laneArith s 20 4 (.i f) fun i as _ cs ds => floatOp (fun f _ a b _ => f.minmax false a b) i as (immLanes i) cs ds

/-- fmax with an immediate (R136). -/
def execVFmaxI (f : LaneI) (s : State) : Out :=
  laneArith s 20 5 (.i f) fun i as _ cs ds => floatOp (fun f _ a b _ => f.minmax true a b) i as (immLanes i) cs ds

/-- ffma with c the immediate (R136, R140). -/
def execVFfmaI (f : LaneI) (s : State) : Out :=
  laneArith s 20 3 (.i f) fun i as bs _ ds =>
    floatOp (fun f m a b c => f.fma m a b c) i as bs (immLanes i) ds

/-- fcmpeq with an immediate (R136). -/
def execVFcmpEqI (f : LaneI) (s : State) : Out :=
  laneArith s 21 0 (.i f) fun i as _ cs ds => fcmpOp 0 i as (immLanes i) cs ds

/-- fcmpne with an immediate (R136). -/
def execVFcmpNeI (f : LaneI) (s : State) : Out :=
  laneArith s 21 1 (.i f) fun i as _ cs ds => fcmpOp 1 i as (immLanes i) cs ds

/-- fcmplt with an immediate (R136). -/
def execVFcmpLtI (f : LaneI) (s : State) : Out :=
  laneArith s 21 2 (.i f) fun i as _ cs ds => fcmpOp 2 i as (immLanes i) cs ds

/-- fcmple with an immediate (R136). -/
def execVFcmpLeI (f : LaneI) (s : State) : Out :=
  laneArith s 21 3 (.i f) fun i as _ cs ds => fcmpOp 3 i as (immLanes i) cs ds

/-- fcmpgt with an immediate (R136). -/
def execVFcmpGtI (f : LaneI) (s : State) : Out :=
  laneArith s 21 4 (.i f) fun i as _ cs ds => fcmpOp 4 i as (immLanes i) cs ds

/-- fcmpge with an immediate (R136). -/
def execVFcmpGeI (f : LaneI) (s : State) : Out :=
  laneArith s 21 5 (.i f) fun i as _ cs ds => fcmpOp 5 i as (immLanes i) cs ds

/-- fcmpun with an immediate (R136). -/
def execVFcmpUnI (f : LaneI) (s : State) : Out :=
  laneArith s 21 6 (.i f) fun i as _ cs ds => fcmpOp 6 i as (immLanes i) cs ds

/-- fcmpord with an immediate (R136). -/
def execVFcmpOrdI (f : LaneI) (s : State) : Out :=
  laneArith s 21 7 (.i f) fun i as _ cs ds => fcmpOp 7 i as (immLanes i) cs ds

/-- mov of an immediate (R149). -/
def execVMovI (f : LaneI) (s : State) : Out :=
  laneArith s 26 0 (.i f) fun i _ _ _ _ => (immLanes i).map (·, 0)

/-- sel with an immediate; SRCB holds the predicate (R149). -/
def execVSelI (f : LaneI) (s : State) : Out :=
  laneArith s 26 1 (.i f) fun i as bs cs ds =>
    eachLane (fun a b _ _ => (if b != 0 then a else immValue i, 0)) as bs cs ds

/-- lidx: lane J of each group of G lanes (R150). -/
def execVLidxI (f : LaneI) (s : State) : Out :=
  laneArith s 27 0 (.i f) fun i as _ _ _ =>
    fromLane (fun l => l - l % 2 ^ (i.imm % 8) + i.imm / 8 % 32) as

/-- lxor with an immediate (R150). -/
def execVLxorI (f : LaneI) (s : State) : Out :=
  laneArith s 27 1 (.i f) fun i as _ _ _ => fromLane (fun l => Alu.xorN l (i.imm % 32)) as

/-- lrot with an immediate (R150). -/
def execVLrotI (f : LaneI) (s : State) : Out :=
  laneArith s 27 2 (.i f) fun i as _ _ _ => fromLane (fun l => (l + i.imm) % 96) as

/-- bcast with an immediate (R150). -/
def execVBcastI (f : LaneI) (s : State) : Out :=
  laneArith s 27 3 (.i f) fun i as _ _ _ => fromLane (fun _ => i.imm) as

end Sys2Proof.Machine
end

