-- ==== Sys2Proof/Machine/Clock.lean ====
section
/-! DEFINITION. The package clock: what software and the service program to last a number of cycles comes about at its cycle
(R4): event timers (R217), flush delays (R299), permit leases (R376), slice lengths (R401) and
retransmission timeouts (R379). Match timeouts are held to their cycle where they act (R249). -/

namespace Sys2Proof.Machine

open Sys2Proof

/-- An armed timer whose delay has passed latches in its slot (R217, R219). -/
def latchTimer (s : State) (ctx core slot n : Nat) : State :=
  match s.snd? ctx core slot with
  | some x =>
    match x.timers.find n with
    | some t =>
      if t ≤ s.cycle ∧ x.armed.getLsbD n then
        (wake s ctx core).putSnd ctx core slot { x with pending := setBit8 x.pending n true, timers := x.timers.del n }
      else s
    | none => s
  | none => s

/-- The timers of all sounders: context, core, bank slot, event slot, cycle. -/
def allTimers (s : State) : List (Nat × Nat × Nat × Nat × Nat) :=
  s.cc.flatMap fun (k, cc) => cc.sounders.flatMap fun (j, x) => x.timers.map fun (n, t) => (k / 512, k % 512, j, n, t)

/-- The permits that contexts hold: context, package, number, cycle of the next renewal. -/
def heldPermits (s : State) : List (Nat × Nat × Nat × Nat) :=
  s.ctxs.flatMap fun (c, x) => x.permits.map fun p => (c, p.pkg, p.id, p.expiry)

/-- The slices of the cores that can end, with their cycles. -/
def openSlices (s : State) : List (Nat × Nat) :=
  (s.cores.filter (fun e => !e.2.holding && !e.2.failed && (activeCtx e.2).isSome)).map fun e => (e.1, e.2.sliceEnd)

/-- The packets that wait for an answer, with the cycle at which each times out (R379). -/
def openTimeouts (s : State) : List (Nat × Nat) := s.pend.filterMap fun (op, p) => (p.due s).map fun t => (op, t)

/-- The cycles at which something programmed comes about (R4). -/
def moments (s : State) : List Nat :=
  (allTimers s).map (·.2.2.2.2) ++ (heldPermits s).map (·.2.2.2) ++ s.granted.map (·.expiry) ++ (openSlices s).map (·.2) ++
  s.recqs.filterMap (·.2.flushAt) ++ (openTimeouts s).map (·.2)

/-- The first such cycle after the present one, as far as a cycle. -/
def nextMoment (s : State) (last : Nat) : Nat :=
  (moments s).foldl (fun m t => if s.cycle < t ∧ t < m then t else m) last

/-- What comes about in the present cycle: timers latch, permits are renewed, slices end, flush timers start and expire,
packets time out. -/
def settleMoment (s : State) : State :=
  let s := (allTimers s).foldl (fun s t => latchTimer s t.1 t.2.1 t.2.2.1 t.2.2.2.1) s
  let s := (heldPermits s).foldl (fun s p => renewPermit s p.1 p.2.1 p.2.2.1) s
  let s := (openSlices s).foldl (fun s e => endSlice s e.1) s
  let s := s.recqs.keys.foldl flushQueue s
  ((openTimeouts s).filter (fun e => decide (e.2 ≤ s.cycle))).foldl (fun s e => timeOut s e.1) s

/-- Permits whose last cycle is over are reclaimed (R376). -/
def reclaimPermits (s : State) : State := { s with granted := s.granted.filter (fun p => decide (s.cycle < p.expiry)) }

/-- The clock goes on by up to `n` cycles: it stops at the next cycle at which something programmed comes about (R4). In the cycle
of its expiry a permit may still be used, and is reclaimed as that cycle ends (R377). -/
def advance (s : State) (n : Nat) : State :=
  if n = 0 then settleMoment s
  else
    let s := settleMoment s
    let t := nextMoment s (s.cycle + n)
    let s := reclaimPermits s
    settleMoment { s with plat := { s.plat with cycle := t } }

/-! ## The host port and errors in memory (R307, R312) -/

/-- A posted write of the host port; under a revoked key it is refused (R413). -/
def hostStore (s : State) (ctx va : Nat) (bs : List Byte) : State := if revoked s ctx then s else writeVirt s ctx va bs

/-- `n` bytes of a context from an address on, where each lies in memory of the package whose line is good. -/
def bytesFor (s : State) (ctx va n : Nat) : Option (List Byte) :=
  (List.range n).mapM fun i => (physOf s ctx (va + i)).bind fun pa => if s.poisoned pa then none else some (s.readPA pa)

/-- A read by the host port: it brings the bytes, or none where one cannot be read. DESIGN CHOICE (assumption log 72). -/
def hostLoad (s : State) (ctx va n : Nat) : State :=
  s.send (.hostData ctx va (if revoked s ctx then [] else (bytesFor s ctx va n).getD []))

/-- A line is found to hold an uncorrectable error: it is poisoned from then on (R307). -/
def lineFails (s : State) (line : Nat) : State :=
  if s.poison.contains line then s else countError { s with poison := line :: s.poison } poisonedLines

/-- Rows of HBM or DDR fail: their lines read as poisoned until the next reset, and DEGRADED is set (R422). Which addresses are rows
of one memory is not stated: none of the scratchpad is. -/
def rowsFail (s : State) (line n : Nat) : State :=
  if 2 ^ 62 ≤ line + n then s else countError (degrade { s with rows := s.rows.put line (max n (s.rows.getOr 0 line)) }) poisonedLines

/-- EVENT_TIMER_EXPIRY: an armed timer whose delay has passed latches; the clock latches each at its cycle (R4, R217, R219). -/
def execEEventTimerExpiry (ctx core slot n : Nat) (s : State) : Out := .next (latchTimer s ctx core slot n)

end Sys2Proof.Machine
end

