-- ==== Sys2Proof/Machine/Sha.lean ====
section
/-! DEFINITION. SHA-256, the hash of attestation and of images (R416, R417; the algorithm is that of the standard of its name,
assumption log 30). -/

namespace Sys2Proof.Machine

open Sys2Proof

/-- A 32-bit word turned right by `n`. -/
def shaTurn (x n : Nat) : Nat := x / 2 ^ n + x % 2 ^ n * 2 ^ (32 - n)

/-- The constants of the 64 rounds. -/
def shaRounds : List Nat :=
  [0x428A2F98, 0x71374491, 0xB5C0FBCF, 0xE9B5DBA5, 0x3956C25B, 0x59F111F1, 0x923F82A4, 0xAB1C5ED5,
   0xD807AA98, 0x12835B01, 0x243185BE, 0x550C7DC3, 0x72BE5D74, 0x80DEB1FE, 0x9BDC06A7, 0xC19BF174] ++
  [0xE49B69C1, 0xEFBE4786, 0x0FC19DC6, 0x240CA1CC, 0x2DE92C6F, 0x4A7484AA, 0x5CB0A9DC, 0x76F988DA,
   0x983E5152, 0xA831C66D, 0xB00327C8, 0xBF597FC7, 0xC6E00BF3, 0xD5A79147, 0x06CA6351, 0x14292967] ++
  [0x27B70A85, 0x2E1B2138, 0x4D2C6DFC, 0x53380D13, 0x650A7354, 0x766A0ABB, 0x81C2C92E, 0x92722C85,
   0xA2BFE8A1, 0xA81A664B, 0xC24B8B70, 0xC76C51A3, 0xD192E819, 0xD6990624, 0xF40E3585, 0x106AA070] ++
  [0x19A4C116, 0x1E376C08, 0x2748774C, 0x34B0BCB5, 0x391C0CB3, 0x4ED8AA4A, 0x5B9CCA4F, 0x682E6FF3,
   0x748F82EE, 0x78A5636F, 0x84C87814, 0x8CC70208, 0x90BEFFFA, 0xA4506CEB, 0xBEF9A3F7, 0xC67178F2]

/-- The hash before the first block. -/
def shaStart : List Nat := [0x6A09E667, 0xBB67AE85, 0x3C6EF372, 0xA54FF53A, 0x510E527F, 0x9B05688C, 0x1F83D9AB, 0x5BE0CD19]

/-- The message and its padding: a byte 0x80, zeros, the number of bits in 8 bytes. -/
def shaPad (m : List Byte) : List Byte :=
  let z := (119 - m.length % 64) % 64
  m ++ [0x80] ++ List.replicate z 0 ++ (leBytes 8 (8 * m.length)).reverse

/-- Words of a block, most significant byte first. -/
def shaWords : List Byte → List Nat
  | a :: b :: c :: d :: r => (a.toNat * 2 ^ 24 + b.toNat * 2 ^ 16 + c.toNat * 2 ^ 8 + d.toNat) :: shaWords r
  | _ => []

/-- One round on the eight working words, with its constant and message word. -/
def shaRound (h : List Nat) (k w : Nat) : List Nat :=
  match h with
  | [a, b, c, d, e, f, g, i] =>
    let s1 := Alu.xorN (Alu.xorN (shaTurn e 6) (shaTurn e 11)) (shaTurn e 25)
    let ch := Alu.xorN (Alu.andN e f) (Alu.andN (2 ^ 32 - 1 - e) g)
    let t1 := i + s1 + ch + k + w
    let s0 := Alu.xorN (Alu.xorN (shaTurn a 2) (shaTurn a 13)) (shaTurn a 22)
    let maj := Alu.xorN (Alu.xorN (Alu.andN a b) (Alu.andN a c)) (Alu.andN b c)
    [(t1 + s0 + maj) % 2 ^ 32, a, b, c, (d + t1) % 2 ^ 32, e, f, g]
  | _ => h

/-- The next message word, from the last sixteen. -/
def shaNext (w : List Nat) : Nat :=
  let x := w.getD 1 0
  let y := w.getD 14 0
  let s0 := Alu.xorN (Alu.xorN (shaTurn x 7) (shaTurn x 18)) (x / 2 ^ 3)
  let s1 := Alu.xorN (Alu.xorN (shaTurn y 17) (shaTurn y 19)) (y / 2 ^ 10)
  (w.getD 0 0 + s0 + w.getD 9 0 + s1) % 2 ^ 32

/-- The rounds of a block, with the sixteen message words from the present one on. -/
def shaBlock : List Nat → List Nat → List Nat → List Nat
  | [], _, h => h
  | k :: r, w, h => shaBlock r (w.tail ++ [shaNext w]) (shaRound h k (w.headD 0))

/-- The hash after some blocks, each of sixteen words. -/
def shaBlocks : Nat → List Nat → List Nat → List Nat
  | 0, _, h => h
  | n + 1, ws, h => shaBlocks n (ws.drop 16) ((h.zip (shaBlock shaRounds (ws.take 16) h)).map fun (a, b) => (a + b) % 2 ^ 32)

/-- SHA-256 of some bytes, as the number whose 32 bytes, most significant last, are the hash. -/
def sha256 (m : List Byte) : Nat :=
  let ws := shaWords (shaPad m)
  let h := shaBlocks (ws.length / 16) ws shaStart
  leNat (h.flatMap fun x => (leBytes 4 x).reverse)

/-- SHA-256 of fields whose byte form is not stated (R417). -/
def digestNats (xs : List Nat) : Nat := sha256 (Config.fieldBytes xs)

end Sys2Proof.Machine
end

