-- ==== Sys2Proof/Machine/Loader.lean ====
section
/-! DEFINITION. The loader (R267 to R273, R367): the checks of a KZO image in host memory, the placement of its sections,
its load relocations, and the image a context then has. -/

namespace Sys2Proof.Machine

open Sys2Proof

/-! ## The container (R267 to R270) -/

/-- A section table entry (Table 5 of 10). -/
structure Sect where
  type  : Nat
  align : Nat
  link  : Nat
  size  : Nat
  off   : Nat
  rsv   : Bool
  deriving DecidableEq, Repr

def sectOf (e : Nat) : Sect :=
  let f := nbitsOf e
  { type := f 15 0, align := f 47 40, link := f 63 48, size := f 191 128, off := f 255 192,
    rsv := f 39 16 != 0 || f 95 64 != 0 }

/-- The bytes of a section are of a size that its type allows (R268 to R270, Table 12 of 02). -/
def Sect.sizeOk (x : Sect) : Bool :=
  match x.type with
  | 1 => x.size % 4 == 0
  | 2 => x.size % 12 == 0
  | 3 => x.size % 8 == 0
  | 4 => x.size % 16 == 0 && decide (x.size ≤ 16 * 4096)
  | 6 => x.size % 8 == 0
  | 8 => x.size % 24 == 0
  | 9 => x.size % 16 == 0
  | _ => true

/-- One section entry of a file is well formed: the link of relocations names a section, that of symbols the string section, and
any other is 0 (Table 5 of 10). -/
def Sect.ok (ss : List Sect) (x : Sect) : Bool :=
  decide (1 ≤ x.type) && decide (x.type ≤ 10) && !x.rsv && decide (x.align ≤ 16) && x.off % 2 ^ x.align == 0 && x.sizeOk &&
  (match x.type with
   | 8 => (ss[x.link]?).map (·.type) == some 10
   | 9 => decide (x.link < ss.length)
   | _ => x.link == 0)

/-- The sections of a file: none where header or table are refused (R267, R268). -/
def kzoSections (s : State) (a : Nat) : Option (List Sect) :=
  let f := nbitsOf (s.readHost a 64)
  let n := f 127 96
  if f 31 0 ≠ 0x4F5A4B7F ∨ f 47 32 ≠ 1 ∨ f 63 48 ≠ 1 ∨ f 95 64 ≠ 0 ∨ f 511 256 ≠ 0 ∨ f 191 128 % 8 ≠ 0 ∨ n = 0 ∨ 65535 < n then none
  else
    let ss := (List.range n).map (fun i => sectOf (s.readHost (a + f 191 128 + 32 * i) 32))
    let one := fun t => decide ((ss.filter (fun x => x.type == t)).length ≤ 1)
    let links := (ss.filter (fun x => x.type == 9)).map (·.link)
    if ss.all (Sect.ok ss) && [1, 2, 3, 4, 5, 7, 8, 10].all one && links.eraseDups.length == links.length then some ss else none

/-- The notes are of types that the loader knows or ignores (R273). -/
def notesOk (s : State) (a : Nat) : Nat → Nat → Bool
  | 0, left => left == 0
  | n + 1, left =>
    if left = 0 then true
    else
      let t := s.readHost a 4
      let len := 8 + (s.readHost (a + 4) 4 + 7) / 8 * 8
      ((decide (1 ≤ t) && decide (t ≤ 5)) || (decide (0x8000 ≤ t) && decide (t ≤ 0xFFFF))) && decide (len ≤ left) &&
      notesOk s (a + len) n (left - len)

/-- A symbol (R269): value, section, kind, binding, and whether it is refused. -/
structure Sym where
  value : Nat
  sect  : Nat
  kind  : Nat
  bind_ : Nat
  bad   : Bool
  deriving DecidableEq, Repr

def symOf (e : Nat) : Sym :=
  let f := nbitsOf e
  { value := f 191 128, sect := f 95 80, kind := f 79 72, bind_ := f 71 64,
    bad := decide (4 < f 79 72) || decide (3 < f 71 64) || f 63 0 != 0 }

/-- A relocation (R270). -/
structure Rel where
  off    : Nat
  sym    : Nat
  addend : Int
  type   : Nat
  deriving DecidableEq, Repr

def relOf (e : Nat) : Rel :=
  let f := nbitsOf e
  { off := f 127 64, sym := f 63 32, addend := Alu.toI true 24 (f 31 8), type := f 7 0 }

/-! ## Placement (R272, R367) -/

/-- The least multiple of 2^k from `n` up. -/
def upTo (k n : Nat) : Nat := (n + 2 ^ k - 1) / 2 ^ k * 2 ^ k

/-- Size of the section of a type, 0 where there is none. -/
def sizeOf_ (ss : List Sect) (t : Nat) : Nat := match ss.find? (fun x => x.type == t) with | some x => x.size | none => 0

/-- log2 of the alignment of the section of a type: a page at least. -/
def alignOf (ss : List Sect) (t : Nat) : Nat :=
  match ss.find? (fun x => x.type == t) with
  | some x => max 12 x.align
  | none => 12

/-- Where a section of types 1 to 5 lies from the image's base: the sections follow one another, each aligned as its entry
says and at a page. -/
def placeOf (ss : List Sect) : Nat → Nat
  | 0 => 0
  | t + 1 => upTo (alignOf ss (t + 1)) (placeOf ss t + sizeOf_ ss t)

/-- Bytes of the image's frames. -/
def imageBytes (ss : List Sect) : Nat := upTo 12 (placeOf ss 5 + sizeOf_ ss 5)

/-- log2 of the alignment of an image's address: its sections then lie as they have to. -/
def imageAlign (ss : List Sect) : Nat := [1, 2, 3, 4, 5].foldl (fun m t => max m (alignOf ss t)) 12

/-- The loaded address of a symbol: of a label in a section that is mapped, or of a label bound at load (R270, R272, R385); none
for one that is unbound or of the wrong kind. -/
def symAddr (ss : List Sect) (va : Nat) (binds : List (Nat × Nat)) (k : Nat) (x : Sym) : Option Nat :=
  if x.kind ≠ 0 then none
  else if x.bind_ = 3 then (binds.find? (fun b => b.1 == k)).map (·.2)
  else if x.bind_ ≤ 1 then
    match ss[x.sect]? with
    | some y => if 1 ≤ y.type ∧ y.type ≤ 5 then some (va + placeOf ss y.type + x.value) else none
    | none => none
  else none

/-- One load relocation: the place it patches in the image, the bits it writes there and their count; none where it is
refused. -/
def relPatch (s : State) (a : Nat) (ss : List Sect) (va : Nat) (binds : List (Nat × Nat)) (target : Sect) (r : Rel) :
    Option (Nat × Nat × Nat) :=
  match ss.find? (fun x => x.type == 8) with
  | none => none
  | some st =>
    if st.size / 24 ≤ r.sym then none
    else
      let x := symOf (s.readHost (a + st.off + 24 * r.sym) 24)
      match symAddr ss va binds r.sym x with
      | none => none
      | some v =>
        let w := (v : Int) + r.addend
        if w < 0 then none
        else if r.type = 6 ∧ target.type = 5 ∧ r.off + 8 ≤ target.size ∧ w < 2 ^ 64 then some (placeOf ss 5 + r.off, w.toNat, 64)
        else if r.type = 7 ∧ target.type = 4 ∧ r.off % 16 = 0 ∧ r.off + 16 ≤ target.size ∧ w < 2 ^ 56 then
          some (placeOf ss 4 + r.off, w.toNat, 56)
        else none

/-- The patches of one relocation section; two at one offset are refused. -/
def sectPatches (s : State) (a : Nat) (ss : List Sect) (va : Nat) (binds : List (Nat × Nat)) (x : Sect) :
    Option (List (Nat × Nat × Nat)) :=
  match ss[x.link]? with
  | none => none
  | some target =>
    let rels := (List.range (x.size / 16)).map (fun i => relOf (s.readHost (a + x.off + 16 * i) 16))
    if (rels.map (·.off)).eraseDups.length ≠ rels.length then none
    else rels.mapM (relPatch s a ss va binds target)

/-- Every patch of an image. -/
def allPatches (s : State) (a : Nat) (ss : List Sect) (va : Nat) (binds : List (Nat × Nat)) :
    Option (List (Nat × Nat × Nat)) :=
  ((ss.filter (fun x => x.type == 9)).mapM (sectPatches s a ss va binds)).map (·.flatten)

/-- The file passes the loader's checks (R267 to R270, R273). -/
def kzoOk (s : State) (a : Nat) (ss : List Sect) : Bool :=
  (match ss.find? (fun x => x.type == 7) with
   | some x => notesOk s (a + x.off) (x.size / 8) x.size
   | none => true) &&
  (match ss.find? (fun x => x.type == 8) with
   | some x => (List.range (x.size / 24)).all (fun i => !(symOf (s.readHost (a + x.off + 24 * i) 24)).bad)
   | none => true)

def hostBytes (s : State) (a : Nat) : Nat → List Byte
  | 0 => []
  | n + 1 => s.hmem.getOr 0 a :: hostBytes s (a + 1) n

/-- End of the file: the greatest end of a section, of the table and of the header. -/
def kzoEnd (s : State) (a : Nat) (ss : List Sect) : Nat :=
  ss.foldl (fun n x => max n (x.off + x.size)) (max 64 (nbitsOf (s.readHost a 64) 191 128 + 32 * ss.length))

/-- Map the pages of an image, pinned and read-only. -/
def mapImage (s : State) (die troot : Nat) : Nat → Nat → Nat → Option State
  | 0, _, _ => some s
  | n + 1, va, pa =>
    match writeLeaf s die troot va 0 (mkLeaf true 0 0 (pa / 4096) true false false true) with
    | none => none
    | some t => mapImage t die troot n (va + 4096) (pa + 4096)

/-- Write a patch: its bits replace those of the place. -/
def patch (s : State) (pa : Nat) (p : Nat × Nat × Nat) : State :=
  let old := s.readN (pa + p.1) 8
  s.writeBytes (pa + p.1) (toBytes 8 (old - old % 2 ^ p.2.2 + p.2.1))

/-- How a load ends. -/
inductive Load where
  | refused
  | noFrames
  /-- The address the service has chosen is not free, so it is no choice it can make. -/
  | badPlace
  | ok (s : State) (handle : Nat)

/-- Load the image at host address `a` into a context, at the virtual address the service has chosen. -/
def loadImage (s : State) (ctx a va : Nat) (binds : List (Nat × Nat)) : Load :=
  match s.ctx? ctx, kzoSections s a with
  | some c, some ss =>
    let n := imageBytes ss
    if va % 2 ^ imageAlign ss ≠ 0 ∨ 2 ^ 56 < va + n ∨ !rangeFree s c.troot 0 va (n / 4096) then .badPlace
    else
      match kzoOk s a ss, allPatches s a ss va binds with
      | true, some ps =>
        match (if n = 0 then some (0, s) else takeFrame s c.die n) with
        | none => .noFrames
        | some (pa, t) =>
          let t := [1, 2, 3, 4, 5].foldl (fun t k =>
            match ss.find? (fun x => x.type == k) with
            | some x => t.writeBytes (pa + placeOf ss k) (hostBytes s (a + x.off) x.size)
            | none => t) t
          let t := ps.foldl (fun t p => patch t pa p) t
          match mapImage t c.die c.troot (n / 4096) va pa with
          | none => .noFrames
          | some t =>
            let f := nbitsOf (s.readHost a 64)
            let im : Image :=
              { ctx := ctx, scalarPA := pa, scalarSize := sizeOf_ ss 1, lanePA := pa + placeOf ss 2,
                laneCount := sizeOf_ ss 2 / 12, tablePA := pa + placeOf ss 3, tableCount := sizeOf_ ss 3 / 8,
                recPA := pa + placeOf ss 4, recCount := sizeOf_ ss 4 / 16, constVA := va + placeOf ss 5, entry := f 255 192,
                mcf := (ss.filter (fun x => x.type == 6)).map (fun x =>
                  (List.range (x.size / 8)).map (fun i => s.readHost (a + x.off + 8 * i) 8)),
                digest := sha256 (hostBytes s a (kzoEnd s a ss)), frames := (pa, n) }
            let h := c.nextImage
            .ok (t.modCtx ctx (fun c => { c with images := c.images.put h im, nextImage := h + 1 })) h
      | _, _ => .refused
  | _, _ => .refused

end Sys2Proof.Machine
end

