-- ==== Sys2Proof/Machine/Service.lean ====
section
/-! DEFINITION. The device service: request rings (R363), the requests of Tables 4 of 19, 3 of 20 and 2 of 21 (R364, R380,
R381, R386 to R394, R410 to R413, R425, R426), and the control space (R361, R362). -/

namespace Sys2Proof.Machine

open Sys2Proof

/-! ## Rings and requests (R363) -/

/-- The requests between two indices of a ring, as they stand in host memory. -/
def readReqs (s : State) (base log2 : Nat) : Nat → Nat → List Nat
  | 0, _ => []
  | n + 1, i => s.readHost (base + 64 * (i % 2 ^ log2)) 64 :: readReqs s base log2 n (i + 1)

/-- The driver writes a new tail to the doorbell of a partition's ring: the partition takes the new requests once it accepts
them. -/
def ringTail (s : State) (part t : Nat) : State :=
  let r := s.rings.getOr Ring.reset part
  if 5 ≤ part ∨ !s.plat.ready ∨ !r.isOpen ∨ t < r.tail then s
  else
    let new := readReqs s r.base r.log2 (t - r.tail) r.tail
    { s with rings := s.rings.put part { r with tail := t, head := t, taken := r.taken ++ new } }

/-- SERVICE_RING_DOORBELL: the driver opens a partition's ring, or writes a new tail. -/
def execEServiceRingDoorbell (part : Nat) (m : RingMsg) (s : State) : Out :=
  let r := s.rings.getOr Ring.reset part
  .next (
    match m with
    | .opens base log2 =>
      if 5 ≤ part ∨ !s.plat.ready then s
      else { s with rings := s.rings.put part { r with base := base, log2 := log2, isOpen := true, head := 0, tail := 0, taken := [], done := 0 } }
    | .tail t => ringTail s part t)

/-- Fields of a request: its code, its tag, operand bits. -/
def reqCode (r : Nat) : Nat := nbitsOf r 7 0
def reqTag (r : Nat) : Nat := nbitsOf r 31 16
/-- Bytes `lo` to `hi` of a request. -/
def reqBytes (r hi lo : Nat) : Nat := nbitsOf r (8 * hi + 7) (8 * lo)

/-- A request that a partition has taken is carried out: it leaves the list, and `f` answers it. -/
def service (s : State) (part k code : Nat) (f : State → Nat → State) : Out :=
  let r := s.rings.getOr Ring.reset part
  .next (match r.taken[k]? with
    | none => s
    | some q =>
      if reqCode q = code then f { s with rings := s.rings.put part { r with taken := r.taken.eraseIdx k } } q else s)

/-- A request completes with a status and no stated VALUE, which is free. DESIGN CHOICE (assumption log 41). -/
def answerReq (s : State) (part req status : Nat) : State :=
  let (w, s) := s.freeWord
  completeReq s part (reqTag req) status w.toNat

/-- The home die of a context that exists. -/
def dieOfCtx (s : State) (ctx : Nat) : Option Nat := (s.ctx? ctx).map (·.die)

/-- A request about a context goes to the partition of its home die (R359); elsewhere it completes with 5. -/
def onHome (s : State) (part ctx req : Nat) (f : Ctx → State) : State :=
  match s.ctx? ctx with
  | none => answerReq s part req 1
  | some c => if c.die ≠ part then answerReq s part req 5 else f c

/-- A request that p4 owns (R359). -/
def onP4 (s : State) (part req : Nat) (f : State) : State := if part ≠ 4 then answerReq s part req 5 else f

/-! ## Contexts (R411, R425) -/

def keySlot (s : State) (k : Nat) : KeySlot := s.slots.getOr KeySlot.reset k
def putSlot (s : State) (k : Nat) (x : KeySlot) : State := { s with slots := s.slots.put k x }

/-- A context as it is created, with the places of its tables' root, its trap queue's header and ring, and its sett's directory. -/
def Ctx.fresh (domain slot die troot base size : Nat) (hdr ring sett : Nat := 0) : Ctx :=
  { domain := domain, slot := slot, die := die, troot := troot, sett := sett, areaBase := base, areaSize := size, area := [],
    trapq := { TrapQueue.reset with hdr := hdr, ring := ring }, handler := none, halted := false, epoch := 0, reports := 0, withheld := 0, lines := [],
    refused := [], placing := [], resv := [], colls := [], permits := [], nextImage := 0, images := [] }

/-- A context number that is not in use: which one is free. DESIGN CHOICE (assumption log 40). -/
def newCtx (s : State) : Option Nat :=
  (Config.freeNat s.freeCtr % 4096 :: List.range 4096).find? (fun n => (s.ctxs.find n).isNone)

/-- Bytes of the frame that holds a trap queue's ring of 2^`cap` slots (R394). -/
def ringSize (cap : Nat) : Nat := max 4096 (256 * 2 ^ cap)

/-- The frames of a new context: the root of its tables, the header and ring of its trap queue, the directory of its sett (R382,
R394, R405). -/
def ctxFrames (s : State) (die : Nat) : Option (Nat × Nat × Nat × Nat × State) := do
  let (root, s) ← takeFrame s die 4096
  let (hdr, s) ← takeFrame s die 4096
  let (ring, s) ← takeFrame s die (ringSize TrapQueue.reset.cap)
  let (sett, s) ← newDirectory s die
  return (root, hdr, ring, sett, s)

/-- Map the pages of a context's launch area, read-only and pinned (R279, R367); none where no frame is left. -/
def mapArea (s : State) (die root base size : Nat) : Option State :=
  let q : MapReq := { pgsz := 0, kind := 0, r := true, w := false, pin := true, die := die, pkg := 0, target := 0 }
  if size = 0 then some s
  else mapRange s die root q true (base / 4096 * 4096) ((base % 4096 + size + 4095) / 4096) 0

/-- CREATE_CONTEXT: request 0x01; the partition's die is the home die. -/
def execECreateContext (part k domain slot base size : Nat) (s : State) : Out :=
  service s part k 0x01 fun s q =>
    let x := keySlot s slot
    if 4 ≤ part then answerReq s part q 5
    else if slot = 0 ∨ 256 ≤ slot ∨ x.state ≠ 1 ∨ x.domain ≠ domain then answerReq s part q 3
    else if 2 ^ 56 < base + size then answerReq s part q 1
    else
      match newCtx s, ctxFrames s part with
      | some n, some (root, hdr, ring, sett, t) =>
        match mapArea t part root base size with
        | none => answerReq s part q 2
        | some t =>
          let t := putSlot t slot { x with contexts := x.contexts + 1 }
          let c := Ctx.fresh domain slot part root base size hdr ring sett
          let t := { putTrapq t n c c.trapq with freeCtr := t.freeCtr + 1 }
          completeReq t part (reqTag q) 0 n
      | _, _ => answerReq s part q 2

/-- A context's objects on a core at their state at creation; shares, bank modes, quantum and the place of its segment are kept
(R425). -/
def CtxCore.wipe (cc : CtxCore) : CtxCore :=
  { CtxCore.reset with share := cc.share, place := cc.place, seg := cc.seg, saved := cc.saved, quantum := cc.quantum }

/-- The cores on which a context has objects. -/
def coresOf (s : State) (ctx : Nat) : List Nat := (s.cc.filter (fun e => e.1 / 512 == ctx)).map (fun e => e.1 % 512)

/-- Each SRAM bank granted to a context on a core reads zero, as after a change of owner (R311, R425), and its memo entries there
end. -/
def wipeCore (s : State) (ctx core : Nat) : State :=
  let banks := match residentBank s ctx core with
    | some b => (ownedBanks s core b).keys
    | none => (s.ccOf ctx core).saved.keys
  let s := banks.foldl (fun s b => bumpBank (clearBank s ctx core b) core b) (endMemo s ctx core)
  let seg := (s.ccOf ctx core).seg
  if seg = 0 then s
  else { s with smem := s.smem.filter (fun e => !(decide (seg ≤ e.1) && decide (e.1 < seg + segSize))) }

/-- The effects of a reset (R425): those of a halt with no record, the objects at their state at creation, the sett's segments and
the trap queue empty, and what its queues still hold discarded. DEDUCED (assumption log 29). -/
def resetCtx (s : State) (ctx : Nat) : State :=
  let s := stopCtx s ctx
  let s := (coresOf s ctx).foldl (fun s k => wipeCore s ctx k) s
  let s := { s with cc := s.cc.mapV (fun k cc => if k / 512 = ctx then cc.wipe else cc),
                    queues := s.queues.mapV (fun _ q => if q.ctx = ctx then { q with head := q.tail, asked := false } else q) }
  match s.ctx? ctx with
  | none => s
  | some c =>
    putTrapq s ctx { c with halted := false, area := [], permits := [], placing := [] }
      { TrapQueue.reset with hdr := c.trapq.hdr, ring := c.trapq.ring, cap := c.trapq.cap }

/-- RESET_CONTEXT: request 0x02 in mode 0. -/
def execEResetContext (part k ctx : Nat) (s : State) : Out :=
  service s part k 0x02 fun s q => onHome s part ctx q fun _ => answerReq (resetCtx s ctx) part q 0

/-- Frames of a context's tables below and at a table of a level. -/
def tableFrames (s : State) : Nat → Nat → List Nat
  | 0, table => [table]
  | l + 1, table =>
    table :: (List.range (levelSize (l + 1))).flatMap fun i =>
      let e := s.readN (table + 8 * i) 8
      if pteV e && !pteL e then tableFrames s l (pteFrame e * 4096) else []

/-- Frames that the leaves under a table map: address and size, each once. -/
def leafFrames (s : State) : Nat → Nat → List (Nat × Nat)
  | 0, table => ((List.range 512).filterMap fun i =>
      let e := s.readN (table + 8 * i) 8
      if pteV e && pteL e && decide (pteKind e ≤ 1) then some (pteFrame e * 4096, 2 ^ leafShift 0 e) else none).eraseDups
  | l + 1, table =>
    (List.range (levelSize (l + 1))).flatMap fun i =>
      let e := s.readN (table + 8 * i) 8
      if !pteV e then []
      else if pteL e then (if pteKind e ≤ 1 then [(pteFrame e * 4096, 2 ^ leafShift (l + 1) e)] else [])
      else leafFrames s l (pteFrame e * 4096)

/-- The frames of a context that the service owns: tables, trap queue, sett (R382, R394, R405). -/
def ownFrames (s : State) (ctx : Nat) (c : Ctx) : List (Nat × Nat) :=
  (tableFrames s 4 c.troot).map (fun a => (a, 4096)) ++
  ([(c.trapq.hdr, 4096), (c.trapq.ring, ringSize c.trapq.cap), (c.sett, 4096)] ++
   (coresOf s ctx).map (fun k => ((s.ccOf ctx k).seg, segSize))).filter (fun f => f.1 != 0)

/-- The shoot-downs of a context that goes complete: no unit holds a translation of it, and no access of it is left (R388,
R425). -/
def endShoots (s : State) (ctx : Nat) : State :=
  (s.shoots.getOr [] ctx).foldl (fun s h =>
    completeReq (h.frames.foldl (fun s (p, a, n) => freeFrame s p a n) s) h.reply.1 h.reply.2.1 0 h.reply.2.2) s

/-- The other context of each core where a context stands has room for the registers that come back to it (R50). -/
def canDestroy (s : State) (ctx : Nat) : Bool :=
  (coresOf s ctx).all (fun k => (residentBank s ctx k).isNone || canReturn s ctx k)

/-- Everything of a context is freed (R425, mode 1); registers of its shares that carry names of another context are first copied
into the share of that one (R50). -/
def destroyCtx (s : State) (ctx : Nat) : State :=
  match s.ctx? ctx with
  | none => s
  | some c =>
    let s := (coresOf s ctx).foldl (fun s k => returnRegs s k (lentRegs s ctx k)) s
    let s := endShoots (resetCtx s ctx) ctx
    let frames := ((leafFrames s 4 c.troot).eraseDups).filter (fun f => decide (2 ^ 44 ≤ f.1)) ++ ownFrames s ctx c
    let s := frames.foldl (fun s (a, n) => freeFrame s (poolAt a) a n) s
    let drop := fun (x : Option Nat) => if x = some ctx then none else x
    let x := keySlot s c.slot
    let s := putSlot s c.slot { x with contexts := x.contexts - 1 }
    let s := [0, 1].foldl (fun (s : State) b =>
      (s.cores.filter (fun e => (if b = 0 then e.2.bank0 else e.2.bank1) == some ctx)).foldl (fun s e => releaseBanks s e.1 b) s) s
    { s with ctxs := s.ctxs.del ctx, cc := s.cc.filter (fun e => e.1 / 512 != ctx),
             cores := s.cores.mapV (fun _ k => { k with bank0 := drop k.bank0, bank1 := drop k.bank1, turns := k.turns.filter (· != ctx) }),
             queues := s.queues.filter (fun e => e.2.ctx != ctx), threads := s.threads.filter (fun t => t.1 / 4096 % 4096 != ctx),
             shoots := s.shoots.del ctx }

/-- DESTROY_CONTEXT: request 0x02 in mode 1. It waits while registers have no room to come back to (R50). -/
def execEDestroyContext (part k ctx : Nat) (s : State) : Out :=
  service s part k 0x02 fun t q => onHome t part ctx q fun _ =>
    if canDestroy t ctx then answerReq (destroyCtx t ctx) part q 0 else s

/-- LOAD_IMAGE: request 0x03, with the addresses supplied for load-bound symbols and the place the service takes. -/
def execELoadImage (part k ctx kzo va : Nat) (binds : List (Nat × Nat)) (s : State) : Out :=
  service s part k 0x03 fun t q => onHome t part ctx q fun _ =>
    match loadImage t ctx kzo va binds with
    | .refused => answerReq t part q 4
    | .noFrames => answerReq t part q 2
    | .badPlace => s
    | .ok u h => completeReq u part (reqTag q) 0 h

/-! ## Queues and shares (R364, R28, R308) -/

/-- A descriptor (Table 6 of 19) as the service writes it over a queue: TAIL and HEAD are kept, DBERR is cleared. DEDUCED (assumption log 27). -/
def Queue.write (q : Queue) (d : Nat) : Queue :=
  let f := nbitsOf d
  { q with ring := f 119 64, en := f 63 63 == 1, peerin := f 62 62 == 1, peerout := f 61 61 == 1, dberr := false,
           prio := f 59 57, die := f 55 54, ctx := f 47 36, cap := f 31 27 }

/-- A descriptor that breaks the rules of R364 or Table 6 of 19. -/
def queueBad (s : State) (d : Nat) : Bool :=
  let f := nbitsOf d
  f 127 120 != 0 || f 56 56 != 0 || f 53 48 != 0 || f 35 32 != 0 || f 26 0 != 0 || f 119 64 % 256 != 0 ||
  decide (f 31 27 < 4) || decide (20 < f 31 27) || (f 61 61 == 0 && dieOfCtx s (f 47 36) != some (f 55 54))

/-- The descriptor as it reads (Table 6 of 19). -/
def Queue.nat (q : Queue) : Nat :=
  let b := fun (x : Bool) (n : Nat) => if x then 2 ^ n else 0
  q.tail % 2 ^ 64 * 2 ^ 192 + q.head % 2 ^ 64 * 2 ^ 128 + q.ring % 2 ^ 56 * 2 ^ 64 + b q.en 63 + b q.peerin 62 + b q.peerout 61 +
  b q.dberr 60 + q.prio % 8 * 2 ^ 57 + q.die % 4 * 2 ^ 54 + q.ctx % 2 ^ 12 * 2 ^ 36 + q.cap % 32 * 2 ^ 27

/-- The doorbell page of a queue is mapped into its context at an address (R362). -/
def mapDoorbell (s : State) (ctx q : Nat) (va : Option Nat) : Option State :=
  match va, s.ctx? ctx with
  | some a, some c =>
    if a % 4096 ≠ 0 ∨ !pageFree s c.troot a 0 then none
    else writeLeaf s c.die c.troot a 0 (mkLeaf true 0 0 (0x1000 + q) false false true true)
  | _, _ => some s

/-- CREATE_OR_CHANGE_QUEUE: request 0x04; a queue that belongs to a context of another die is that die's (R359). With the address at which the service maps the queue's doorbell page, if it does. -/
def execECreateOrChangeQueue (part k queue desc : Nat) (page : Option Nat) (s : State) : Out :=
  service s part k 0x04 fun s q =>
    let ctx := nbitsOf desc 47 36
    onHome s part ctx q fun _ =>
      let x := s.queues.getOr Queue.reset queue
      let elsewhere := match s.queues.find queue with | some x => (dieOfCtx s x.ctx).any (· != part) | none => false
      if 1024 ≤ queue ∨ queueBad s desc then answerReq s part q 1
      else if elsewhere then answerReq s part q 5
      else
        match mapDoorbell { s with queues := s.queues.put queue (x.write desc) } ctx queue page with
        | some t => answerReq t part q 0
        | none => answerReq s part q 1

/-- A share names no more than a core has (Table 6 of 01), and holds the names of the smallest sounder plus 64 (R48). DEDUCED
(assumption log 28). -/
def shareOk (h : Share) : Bool :=
  decide (h.regs ≤ 2046) && (h.regs == 0 || decide (32 + 64 ≤ h.regs)) && h.tiles.all (· < 16) && h.handles.all (· < 256) && h.cbufs.all (· < 16) && h.barriers.all (· < 512) &&
  h.mailboxes.all (· < 32)

/-- The quantum that the service sets: at least 10,000 cycles and below 2^32, otherwise free (R401). DESIGN CHOICE (assumption log 44). -/
def someQuantum (s : State) : Nat := 10000 + Config.freeNat s.freeCtr % (2 ^ 32 - 10000)

/-- The bank control words of a request: written to the entries of a core where the context stands, else kept in its sett, where a
bank that passes into a mode reads 0 (R311). -/
def setBanks (s : State) (ctx core : Nat) (words : List (Nat × Nat)) : State :=
  match residentBank s ctx core with
  | some _ => words.foldl (fun s w => bankWrite s core w.1 w.2) s
  | none =>
    words.foldl (fun s w =>
      let mode := w.2 % 4
      let old := (s.ccOf ctx core).saved.getOr 0 w.1
      if 24 ≤ w.1 ∨ mode = 3 ∨ mode = old then s
      else
        (clearBank s ctx core w.1).modCC ctx core (fun cc =>
          { cc with saved := if mode = 0 then cc.saved.del w.1 else cc.saved.put w.1 mode })) s

/-- The share is large enough for the sounders that are admitted (R48). -/
def shareHolds (s : State) (ctx core : Nat) (h : Share) : Bool :=
  decide (chargesOn s ctx core ≤ h.regs) &&
  (s.ccOf ctx core).sounders.all (fun e => decide (e.2.n + 64 ≤ h.regs))

/-- A context's share of a core: a tile that is newly granted has VALID 0 (R311). -/
def CtxCore.grant (cc : CtxCore) (h : Share) : CtxCore :=
  { cc with share := h, tiles := cc.tiles.filter (fun t => cc.share.tiles.contains t.1 && h.tiles.contains t.1) }

/-- SET_SRAM_BANKS_TILES_BARRIERS: request 0x05; the first share of a context on a core has its segment of the sett allocated
(R405). -/
def execESetSramBanksTilesBarriers (part k ctx core : Nat) (words : List (Nat × Nat)) (share : Share) (s : State) : Out :=
  service s part k 0x05 fun s q => onHome s part ctx q fun _ =>
    let other := (([(s.coreOf core).bank0, (s.coreOf core).bank1]).filterMap id).filter (· != ctx)
    if 512 ≤ core ∨ !shareOk share then answerReq s part q 1
    else if (residentBank s ctx core).isSome && other.any (fun o => !sharesApart share (s.ccOf o core).share) then answerReq s part q 2
    else if !shareHolds s ctx core share then answerReq s part q 2
    else
      match openSegment s ctx core with
      | none => answerReq s part q 2
      | some t =>
        let t := t.modCC ctx core (fun cc =>
          { cc.grant share with quantum := if cc.quantum = 0 then someQuantum s else cc.quantum })
        answerReq (setBanks { t with freeCtr := t.freeCtr + 1 } ctx core words) part q 0

/-! ## Translation requests (R386 to R390, R426) -/

/-- Operands of request 0x06 (R386). -/
def rqOp (r : Nat) : Nat := nbitsOf r 67 64
def rqCtx (r : Nat) : Nat := nbitsOf r 91 80
def rqVA (r : Nat) : Nat := reqBytes r 23 16
def rqSize (r : Nat) : Nat := reqBytes r 31 24
def rqPgsz (r : Nat) : Nat := reqBytes r 32 32
def rqKind (r : Nat) : Nat := reqBytes r 33 33
def rqR (r : Nat) : Bool := nbitsOf r 272 272 == 1
def rqW (r : Nat) : Bool := nbitsOf r 273 273 == 1
def rqPin (r : Nat) : Bool := nbitsOf r 274 274 == 1
def rqDie (r : Nat) : Nat := reqBytes r 35 35
def rqTarget (r : Nat) : Nat := reqBytes r 47 40
def rqPkg (r : Nat) : Nat := reqBytes r 49 48
def rqCap (r : Nat) : Nat := reqBytes r 48 48
def rqFrame (r : Nat) : Nat := reqBytes r 63 56

/-- The bytes that an operation does not use are zero: the ranges of bits given are those it does. -/
def rqRest (r : Nat) (used : List (Nat × Nat)) : Bool :=
  let keep := ((67, 64) :: (91, 80) :: used).foldl (fun a (h, l) => a + nbitsOf r h l * 2 ^ l) 0
  r - r % 2 ^ 64 == keep

/-- A range of virtual addresses in pages of a size. -/
def rangeOk (va size pg : Nat) : Bool := va % pg == 0 && size % pg == 0 && size != 0 && decide (va + size ≤ 2 ^ 56)

/-- Number of pages of a range. -/
def pagesOf (size pg : Nat) : Nat := size / pg

/-- The partition that a mapping or reservation of a kind goes to (R386); none where DIE breaks the rules. -/
def mapPart (c : Ctx) (kind die : Nat) : Option Nat :=
  match kind with
  | 0 => if die < 4 then some die else none
  | 1 => if die = 0 then some 4 else none
  | _ => if die = 0 then some c.die else none

/-- A request 0x06 of an operation that a partition has taken is carried out; one whose OP is no operation completes with 1
(R386). -/
def serviceOp (s : State) (part k op : Nat) (f : State → Nat → State) : Out :=
  match (s.rings.getOr Ring.reset part).taken[k]? with
  | none => .next s
  | some q =>
    if rqOp q = op then service s part k 0x06 f
    else if 8 ≤ rqOp q then service s part k 0x06 fun s q => answerReq s part q 1
    else .next s

/-- MAP: request 0x06, operation 0. -/
def execEMap (part k : Nat) (s : State) : Out :=
  serviceOp s part k 0 fun s r =>
    match s.ctx? (rqCtx r) with
    | none => answerReq s part r 1
    | some c =>
      let kind := rqKind r
      let pg := pgBytes (rqPgsz r)
      let used := [(191, 128), (255, 192), (263, 256), (271, 264), (274, 272), (287, 280)] ++
        (if kind = 2 then [(383, 320), (395, 384)] else if kind = 3 then [(331, 320)] else [])
      let q : MapReq := { pgsz := rqPgsz r, kind := kind, r := rqR r, w := rqW r, pin := rqPin r, die := rqDie r,
                          pkg := rqPkg r % 4096, target := rqTarget r }
      let bad := !rqRest r used || decide (3 < kind) || decide (3 < rqPgsz r) || !rangeOk (rqVA r) (rqSize r) pg ||
        (decide (kind ≤ 2) && rqW r && !rqR r) || (kind == 2 && rqTarget r % pg != 0) ||
        (kind == 3 && rqTarget r % 4096 * 4096 % pg != 0)
      match mapPart c kind (rqDie r) with
      | none => answerReq s part r 1
      | some p =>
        if bad then answerReq s part r 1
        else if p ≠ part then answerReq s part r 5
        else
          let n := pagesOf (rqSize r) pg
          let cut := c.resv.any (fun v => decide (v.1 < rqVA r + rqSize r) && decide (rqVA r < v.1 + v.2.1))
          if cut || !rangeFree s c.troot (rqPgsz r) (rqVA r) n then answerReq s part r 1
          else
            match mapRange s c.die c.troot q true (rqVA r) n 0 with
            | none => answerReq s part r 2
            | some t =>
              let covers := fun p : Nat => decide (rqVA r ≤ 4096 * p) && decide (4096 * p < rqVA r + rqSize r)
              completeReq (t.modCtx (rqCtx r) (fun c => { c with refused := c.refused.filter (fun p => !covers p) }))
                part (reqTag r) 0 n

/-- The partition that mapped a page. -/
def leafPart (c : Ctx) (e : Nat) : Nat :=
  match pteKind e with
  | 0 => if 2 ^ 44 ≤ pteFrame e * 4096 ∧ poolAt (pteFrame e * 4096) < 4 then poolAt (pteFrame e * 4096) else c.die
  | 1 => 4
  | _ => c.die

/-- A page reaches outside a range: the range cuts it. -/
def cuts (va size : Nat) (p : Nat × Nat × Nat) : Bool := decide (p.1 < va) || decide (va + size < p.1 + p.2.1)

/-- What an unmap or a protect finds in its range: the pages, or the status with which it is refused. -/
def rangePages (s : State) (c : Ctx) (part va size : Nat) (pinned : Nat → Bool) : Except Nat (List (Nat × Nat × Nat)) :=
  if !rangeOk va size 4096 then .error 1
  else
    let ps := pagesIn s c.troot (va + size) (size / 4096 + 1) va
    if ps.any (cuts va size) then .error 1
    else if ps.any (fun p => leafPart c p.2.2 != part) then .error 5
    else if ps.any (fun p => ptePin p.2.2 && pinned p.2.2) then .error 3
    else .ok ps

/-- UNMAP: operation 1. The entries are cleared, and a shoot-down is queued that frees the frames and completes the request
(R388). -/
def execEUnmap (part k : Nat) (s : State) : Out :=
  serviceOp s part k 1 fun s r =>
    match s.ctx? (rqCtx r) with
    | none => answerReq s part r 1
    | some c =>
      if !rqRest r [(191, 128), (255, 192)] then answerReq s part r 1
      else
        match rangePages s c part (rqVA r) (rqSize r) (fun _ => true) with
        | .error st => answerReq s part r st
        | .ok ps =>
          let t := ps.foldl (fun t p => changeLeaf t c.troot p.1 (fun _ => 0)) s
          let frames := (ps.filter (fun p => decide (pteKind p.2.2 ≤ 1) && decide (2 ^ 30 ≤ pteFrame p.2.2 * 4096))).map
            (fun p => (poolAt (pteFrame p.2.2 * 4096), pteFrame p.2.2 * 4096, p.2.1))
          let h : Shoot := { ctx := rqCtx r, va := rqVA r, size := rqSize r, frames := frames, reply := (part, reqTag r, ps.length) }
          { t with shoots := t.shoots.put (rqCtx r) (t.shoots.getOr [] (rqCtx r) ++ [h]) }

/-- PROTECT: operation 2. An increase completes at once, a reduction with its shoot-down (R387, R388). The launch area stays read-only (R279). DESIGN CHOICE (assumption log 12). -/
def execEProtect (part k : Nat) (s : State) : Out :=
  serviceOp s part k 2 fun s r =>
    match s.ctx? (rqCtx r) with
    | none => answerReq s part r 1
    | some c =>
      let less := fun e : Nat => (pteR e && !rqR r) || (pteW e && !rqW r)
      if !rqRest r [(191, 128), (255, 192), (273, 272)] then answerReq s part r 1
      else
        match rangePages s c part (rqVA r) (rqSize r) less with
        | .error st => answerReq s part r st
        | .ok ps =>
          if ps.any (fun p => decide (pteKind p.2.2 ≤ 2) && rqW r && !rqR r) then answerReq s part r 1
          else if rqW r && c.areaSize != 0 && decide (rqVA r < c.areaBase + c.areaSize) && decide (c.areaBase < rqVA r + rqSize r) then
            answerReq s part r 3
          else
            let set := fun e : Nat => e - e / 4 % 4 * 4 + (if rqR r then 4 else 0) + (if rqW r then 8 else 0)
            let t := ps.foldl (fun t p => changeLeaf t c.troot p.1 set) s
            if ps.any (fun p => less p.2.2) then
              let (w, t) := t.freeWord
              let h : Shoot := { ctx := rqCtx r, va := rqVA r, size := rqSize r, frames := [], reply := (part, reqTag r, w.toNat) }
              { t with shoots := t.shoots.put (rqCtx r) (t.shoots.getOr [] (rqCtx r) ++ [h]) }
            else answerReq t part r 0

/-- RESERVE: operation 3 (R426). -/
def execEReserve (part k : Nat) (s : State) : Out :=
  serviceOp s part k 3 fun s r =>
    match s.ctx? (rqCtx r) with
    | none => answerReq s part r 1
    | some c =>
      let pg := pgBytes (rqPgsz r)
      let q : MapReq := { pgsz := rqPgsz r, kind := rqKind r, r := rqR r, w := rqW r, pin := false, die := rqDie r, pkg := 0,
                          target := 0 }
      let bad := !rqRest r [(191, 128), (255, 192), (263, 256), (271, 264), (273, 272), (287, 280)] ||
        decide (1 < rqKind r) || decide (3 < rqPgsz r) || !rangeOk (rqVA r) (rqSize r) pg || (rqW r && !rqR r)
      match mapPart c (rqKind r) (rqDie r) with
      | none => answerReq s part r 1
      | some p =>
        if bad then answerReq s part r 1
        else if p ≠ part then answerReq s part r 5
        else
          let n := pagesOf (rqSize r) pg
          if !rangeFree s c.troot (rqPgsz r) (rqVA r) n then answerReq s part r 1
          else
            match mapRange s c.die c.troot q false (rqVA r) n 0 with
            | none => answerReq s part r 2
            | some t =>
              answerReq (t.modCtx (rqCtx r) (fun c => { c with resv := c.resv ++ [(rqVA r, rqSize r, p)] })) part r 0

/-- Leaves of a range that are still reserved are zeroed, page by page. -/
def clearReserved (s : State) (troot last : Nat) : Nat → Nat → State
  | 0, _ => s
  | n + 1, va =>
    if last ≤ va then s
    else
      let (l, _, e) := slotOf s va 4 troot
      let sz := 2 ^ (if l = 0 ∧ pteC e then 16 else levelShift l)
      let s := if !pteV e && pteL e then changeLeaf s troot (va / sz * sz) (fun _ => 0) else s
      clearReserved s troot last n (va / sz * sz + sz)

/-- What a range leaves of a reservation (its address, size and partition): the part below it and the part above it. -/
def outside (va size : Nat) (v : Nat × Nat × Nat) : List (Nat × Nat × Nat) :=
  [(v.1, min (v.1 + v.2.1) va - v.1, v.2.2),
   (max v.1 (va + size), v.1 + v.2.1 - max v.1 (va + size), v.2.2)].filter (fun w => w.2.1 != 0)

/-- UNRESERVE: operation 4 (R426). -/
def execEUnreserve (part k : Nat) (s : State) : Out :=
  serviceOp s part k 4 fun s r =>
    match s.ctx? (rqCtx r) with
    | none => answerReq s part r 1
    | some c =>
      let mine := c.resv.filter (fun v => decide (v.1 < rqVA r + rqSize r) && decide (rqVA r < v.1 + v.2.1))
      if !rqRest r [(191, 128), (255, 192)] ∨ !rangeOk (rqVA r) (rqSize r) 4096 then answerReq s part r 1
      else if mine.any (fun v => v.2.2 != part) then answerReq s part r 5
      else
        let t := clearReserved s c.troot (rqVA r + rqSize r) (rqSize r / 4096 + 1) (rqVA r)
        answerReq (t.modCtx (rqCtx r) (fun c => { c with resv := c.resv.flatMap (outside (rqVA r) (rqSize r)) })) part r 0

/-- SET_NOTIFIER_RING: operation 5 (R390). -/
def execESetNotifierRing (part k : Nat) (s : State) : Out :=
  serviceOp s part k 5 fun s r => onHome s part (rqCtx r) r fun _ =>
    if !rqRest r [(383, 320), (391, 384)] ∨ rqTarget r % 4096 ≠ 0 ∨ rqCap r < 4 ∨ 16 < rqCap r then
      answerReq s part r 1
    else
      let x := s.rings.getOr Ring.reset part
      let y : Ring := { x with notifyOn := true, notifyBase := rqTarget r, notifyLog2 := rqCap r, notifyTail := 0, notifyLost := 0 }
      answerReq (flushNotes { s with rings := s.rings.put part y } part y.waiting) part r 0

/-- Every page of a range of 4 KiB pages is mapped R, W and PIN. -/
def pinnedRW (s : State) (troot : Nat) : Nat → Nat → Bool
  | 0, _ => true
  | n + 1, va =>
    (match walkFrom s va 4 troot with
     | .leaf _ e => pteR e && pteW e && ptePin e
     | _ => false) && pinnedRW s troot n (va + 4096)

/-- SET_TRAP_HANDLER: operation 6 (R393). -/
def execESetTrapHandler (part k : Nat) (s : State) : Out :=
  serviceOp s part k 6 fun s r => onHome s part (rqCtx r) r fun c =>
    if !rqRest r [(335, 320), (383, 352), (511, 448)] ∨ (c.images.find (rqTarget r % 2 ^ 16)).isNone ∨
        2 ^ 56 < rqFrame r + 2 ^ 21 ∨
        !pinnedRW s c.troot ((rqFrame r % 4096 + 2 ^ 21 + 4095) / 4096) (rqFrame r / 4096 * 4096) then answerReq s part r 1
    else
      answerReq (s.modCtx (rqCtx r) (fun c =>
        { c with handler := some (rqTarget r % 2 ^ 16, rqTarget r / 2 ^ 32, rqFrame r) })) part r 0

/-- SIZE_TRAP_QUEUE: operation 7 (R394): a new ring, empty; the context's fatal register is no part of the queue. -/
def execESizeTrapQueue (part k : Nat) (s : State) : Out :=
  serviceOp s part k 7 fun s r => onHome s part (rqCtx r) r fun c =>
    if !rqRest r [(391, 384)] ∨ rqCap r < 3 ∨ 16 < rqCap r then answerReq s part r 1
    else if !c.trapq.recs.isEmpty then answerReq s part r 2
    else
      match takeFrame s c.die (ringSize (rqCap r)) with
      | none => answerReq s part r 2
      | some (a, t) =>
        let t := if c.trapq.ring = 0 then t else freeFrame t c.die c.trapq.ring (ringSize c.trapq.cap)
        answerReq (putTrapq t (rqCtx r) c
          { TrapQueue.reset with hdr := c.trapq.hdr, ring := a, cap := rqCap r, fatal := c.trapq.fatal, fatals := c.trapq.fatals }) part r 0

/-! ## Requests of p4: identifier, ports, routes, access control (R363, R375, R378) -/

/-- SET_PACKAGE_IDENTIFIER: request 0x10. -/
def execESetPackageIdentifier (part k id : Nat) (s : State) : Out :=
  service s part k 0x10 fun s q => onP4 s part q
    (if 4096 ≤ id then answerReq s part q 1
     else if s.ports.any (fun p => bits p.2.cfg 0 0 == 1) then answerReq s part q 2
     else answerReq { s with plat := { s.plat with pkgid := id } } part q 0)

/-- A port record's writable bits are in range (Table 11 of 19). -/
def portBad (w : Nat) : Bool :=
  let f := nbitsOf w
  f 63 40 != 0 || f 3 3 != 0 || f 39 36 == 0 || f 35 24 == 0

/-- Write a port's record: UP and ERR are not written, and a port that is not enabled is down. -/
def portWrite (s : State) (n w : Nat) : State :=
  let keep := w - w % 8 + w % 2
  s.modPort n (fun p => { p with cfg := BitVec.ofNat 64 keep, up := p.up && w % 2 == 1 })

/-- CONFIGURE_PORT_OR_ROUTE: request 0x11; a port is not enabled while PKGID is 0. -/
def execEConfigurePortOrRoute (part k : Nat) (m : PortCfg) (s : State) : Out :=
  service s part k 0x11 fun s q => onP4 s part q
    (match m with
     | .port n w =>
       if 64 ≤ n ∨ portBad w then answerReq s part q 1
       else if w % 2 = 1 ∧ s.plat.pkgid = 0 then answerReq s part q 3
       else answerReq (portWrite s n w) part q 0
     | .route pkg mask =>
       if 4096 ≤ pkg ∨ 2 ^ 64 ≤ mask then answerReq s part q 1
       else answerReq { s with routes := s.routes.put pkg mask } part q 0)

/-- An access-control entry of its 512 bits (Table 9 of 19). -/
def aclOf (w : Nat) : Acl :=
  let f := nbitsOf w
  { en := f 0 0 == 1, launch := f 1 1 == 1, mbox := f 2 2 == 1, coll := f 3 3 == 1, win := f 4 4 == 1, srcpkg := f 43 32,
    srcctx := f 55 44, dstctx := f 67 56, qlo := f 93 84, qhi := f 103 94, maxperm := f 111 104, lease := f 127 112 }

def Acl.nat (a : Acl) : Nat :=
  let b := fun (x : Bool) (n : Nat) => if x then 2 ^ n else 0
  b a.en 0 + b a.launch 1 + b a.mbox 2 + b a.coll 3 + b a.win 4 + a.srcpkg % 2 ^ 12 * 2 ^ 32 + a.srcctx % 2 ^ 12 * 2 ^ 44 +
  a.dstctx % 2 ^ 12 * 2 ^ 56 + a.qlo % 2 ^ 10 * 2 ^ 84 + a.qhi % 2 ^ 10 * 2 ^ 94 + a.maxperm % 2 ^ 8 * 2 ^ 104 +
  a.lease % 2 ^ 16 * 2 ^ 112

/-- Reserved bits are set, or an entry that admits launches has no lease. -/
def aclBad (w : Nat) : Bool :=
  let f := nbitsOf w
  f 511 128 != 0 || f 83 68 != 0 || f 31 5 != 0 || (f 0 0 == 1 && f 1 1 == 1 && f 127 112 == 0)

/-- WRITE_ACCESS_CONTROL_ENTRY: request 0x12. -/
def execEWriteAccessControlEntry (part k idx word : Nat) (s : State) : Out :=
  service s part k 0x12 fun s q => onP4 s part q
    (if 4096 ≤ idx ∨ aclBad word then answerReq s part q 1
     else answerReq { s with acl := s.acl.put idx (aclOf word) } part q 0)

/-! ## Collective entries (R241, R322, R324, R334, R380, R381) -/

/-- The parameters of a window break the limits of Table 1 of 13: WBASE and DEST are virtual addresses, below 2^56 (R302). -/
def winBad (r : CollReq) (w : AliasWin) : Bool :=
  !(List.range 19).any (fun i => w.half == 2 ^ (12 + i)) || w.base % (2 * w.half) != 0 || !(w.size == 4 || w.size == 8) ||
  r.length % w.size != 0 || decide (w.half < r.length) || decide (2 < w.kind) || decide (r.rows.length ≤ w.root) ||
  decide (2 ^ 56 ≤ w.base) || r.rows.any (fun m => decide (2 ^ 56 ≤ m.dest))

/-- Two rows name one rank of one barrier, or a rank of a local drey names no row (R322). A drey has the ranks from 0 on: those below its
SIZE once it is bound, and below any rank that a row names before. Bits [63:18] of a reference are ignored (R211). -/
def ranksBad (s : State) (r : CollReq) : Bool :=
  let ref := fun m : MemberRow => m.bar % 2 ^ 18
  let keys := r.rows.map (fun m => (m.pkg, ref m, m.rank))
  let here := r.rows.filter (fun m => m.pkg == s.plat.pkgid)
  keys.eraseDups.length != keys.length ||
  (here.map ref).eraseDups.any fun b =>
    let x := barrierOf s r.ctx (refCore b) (refNumber b)
    let named := fun k : Nat => here.any (fun m => ref m == b && m.rank == k)
    let top := here.foldl (fun n m => if ref m = b then max n m.rank else n) 0
    64 ≤ top || !(List.range (max top (if x.drey then x.size else 0))).all named

/-- The entry is refused under R241, R322, R324 or R334. -/
def collBad (s : State) (r : CollReq) : Bool :=
  let n := r.rows.length
  decide (2 < r.op) || n == 0 || decide (64 < n) || r.cb % 64 != 0 || r.cb == 0 || decide (4096 < r.cb) || r.length == 0 ||
  decide (4096 * r.cb < r.length) || decide (16 < r.hops.length) ||
  r.rows.any (fun m => decide (n ≤ m.buddy) || decide (4096 ≤ m.pkg)) || ranksBad s r ||
  (match r.win with | some w => winBad r w | none => false) ||
  (inEnclave s r.ctx && r.rows.any (fun m => !attested s m.pkg))

/-- The first word of a program that is refused, with its cause (R246, Table 14 of 19). -/
def progRefusal (ws : List Nat) : Option (Nat × Nat) :=
  let n := ws.length
  if n = 0 ∨ 4096 < n then some (0, 7)
  else
    ws.zipIdx.findSome? fun (w, i) =>
      match mcfCause w with
      | some c => some (i, c)
      | none =>
        let op := w / 2 ^ 56 % 256
        let dst := (i : Int) + Alu.toI true 32 (w % 2 ^ 32)
        if op = 4 ∧ (dst < 0 ∨ (n : Int) ≤ dst) then some (i, 5)
        else if i + 1 = n ∧ !(op == 0x12 || (op == 4 && w / 2 ^ 32 % 256 == 0)) then some (i, 6)
        else none

/-- The ports of a mask, ascending. -/
def portsOf (mask : Nat) : List Nat := (List.range 64).filter (fun p => mask / 2 ^ p % 2 == 1)

/-- An entry as it is installed, its threads at instance 0. -/
def installEntry (s : State) (r : CollReq) (prog : List Nat) : State :=
  let e : CollEntry :=
    { wide := r.wide, op := r.op, cb := r.cb, length := r.length, rows := r.rows,
      hops := r.hops.zipIdx.map (fun h => (h.2, h.1)), win := r.win, ports := portsOf r.ports,
      xmask := r.xmask.foldl (fun t x => Tbl.put t x.1 x.2) [], prog := prog, image := r.image, absent := 0, parts := [],
      ended := [], staging := [], store := [] }
  let s := s.modCtx r.ctx (fun c => { c with colls := c.colls.put r.entry e })
  e.ports.foldl (fun s p => s.putThread p r.ctx r.entry (Thread.start e s.plat.pkgid 0 [])) s

/-- LOAD_COLLECTIVE_ENTRY: request 0x13: the entry is checked, then the program; it is installed on every named port, or
refused with the first failing word and its cause. -/
def execELoadCollectiveEntry (part k : Nat) (r : CollReq) (s : State) : Out :=
  service s part k 0x13 fun s q => onP4 s part q
    (match s.ctx? r.ctx, s.image? r.ctx r.image with
     | some c, some im =>
       match im.mcf[r.sect]? with
       | none => answerReq s part q 1
       | some ws =>
         if 4096 ≤ r.entry then answerReq s part q 1
         else if (c.colls.find r.entry).isSome then answerReq s part q 2
         else if collBad s r then completeReq s part (reqTag q) 4 (8 * 2 ^ 16)
         else
           match progRefusal ws with
           | some (i, cause) => completeReq s part (reqTag q) 4 (i % 2 ^ 12 + cause * 2 ^ 16)
           | none => answerReq (installEntry s r ws) part q 0
     | _, _ => answerReq s part q 1)

/-- Window loads and stores of the threads of an entry go nowhere from now on. -/
def dropThreads (s : State) (ctx cid : Nat) : State :=
  let mine := fun p : Pending => match p.msg.origin? with
    | some (.thread _ c e _ _ _) => c == ctx && e == cid
    | _ => false
  { s with pend := s.pend.filter (fun e => !mine e.2),
           threads := s.threads.filter (fun t => !(t.1 / 4096 % 4096 == ctx && t.1 % 4096 == cid)) }

/-- DESTROY_COLLECTIVE_ENTRY: request 0x14 (R381). -/
def execEDestroyCollectiveEntry (part k ctx entry : Nat) (s : State) : Out :=
  service s part k 0x14 fun s q => onP4 s part q
    (match s.entry? ctx entry with
     | none => answerReq s part q 1
     | some e =>
       let s := dropThreads s ctx entry
       let s := (e.parts.filter (fun p => p.2.started)).foldl
         (fun s p => engineArrive s ctx p.2.bar (Alu.orN 8 (if e.absent = 0 then 0 else 1)) (.port (e.ports.headD 0))) s
       answerReq (s.modCtx ctx (fun c => { c with colls := c.colls.del entry })) part q 0)

/-! ## Key slots (R408 to R414) -/

/-- The status word of a slot (Table 1 of 21). -/
def KeySlot.word (x : KeySlot) : Nat :=
  x.domain % 2 ^ 12 * 2 ^ 36 + x.contexts % 2 ^ 12 * 2 ^ 24 + x.epoch.toNat * 2 ^ 8 + x.origin % 4 * 4 + x.state % 4

/-- QUERY_SLOT: request 0x20. -/
def execEQuerySlot (part k slot : Nat) (s : State) : Out :=
  service s part k 0x20 fun s q => onP4 s part q
    (if 256 ≤ slot then answerReq s part q 1 else completeReq s part (reqTag q) 0 (keySlot s slot).word)

/-- Key material enters an empty slot (R410). -/
def installKey (s : State) (slot domain origin key : Nat) : State :=
  let x := keySlot s slot
  putSlot s slot { x with domain := domain % 2 ^ 12, epoch := x.epoch + 1, origin := origin, state := 1, key := key }

/-- GENERATE_KEY: request 0x21. -/
def execEGenerateKey (part k slot domain : Nat) (s : State) : Out :=
  service s part k 0x21 fun s q => onP4 s part q
    (if 256 ≤ slot ∨ 4096 ≤ domain then answerReq s part q 1
     else if (keySlot s slot).state ≠ 0 then answerReq s part q 2
     else
       let t := installKey { s with freeCtr := s.freeCtr + 1 } slot domain 1 (Config.genKey s.freeCtr)
       completeReq t part (reqTag q) 0 (keySlot t slot).epoch.toNat)

/-- Revocation of a slot (R413): its contexts are halted with FATALWHY 2 and made absent, its key is zeroed, and the links
with a session are re-keyed (R415). -/
def revokeSlot (s : State) (slot : Nat) : State :=
  let s := putSlot s slot { keySlot s slot with state := 2 }
  let mine := (s.ctxs.filter (fun c => c.2.slot == slot)).map (·.1)
  let s := mine.foldl (fun s c => haltCtx (if ctxLive s c then s else makeAbsent s c) c 2 0 0 0 0x53) s
  let s := { s with ports := s.ports.mapV (fun _ p => if p.session.isSome then { p with rekeying := true } else p) }
  putSlot s slot { keySlot s slot with key := 0 }

/-- REVOKE_SLOT: request 0x22. -/
def execERevokeSlot (part k slot : Nat) (s : State) : Out :=
  service s part k 0x22 fun s q => onP4 s part q
    (if slot = 0 ∨ 256 ≤ slot then answerReq s part q 1 else answerReq (revokeSlot s slot) part q 0)

/-- Every frame that no context holds is scrubbed, those of the slot's contexts among them (R412). -/
def scrubFree (s : State) : State :=
  s.pools.foldl (fun s p => p.2.free.foldl (fun s f => zeroRange s f.1 f.2) s) s

/-- RECLAIM_SLOT: request 0x23, with status 2 unless STATE is 2 and CONTEXTS is 0: the frames are scrubbed (STATE 3); when that is
done the slot is empty and the request completes. DEDUCED (assumption log 31). -/
def execEReclaimSlot (part k slot : Nat) (s : State) : Out :=
  service s part k 0x23 fun t q => onP4 t part q
    (let x := keySlot t slot
     if 256 ≤ slot then answerReq t part q 1
     else if x.state = 3 ∧ x.scrub = some (reqTag q) then
       answerReq (putSlot (scrubFree t) slot { x with state := 0, domain := 0, origin := 0, owner := none, scrub := none }) part q 0
     else if x.state ≠ 2 ∨ x.contexts ≠ 0 then answerReq t part q 2
     else putSlot s slot { x with state := 3, scrub := some (reqTag q) })

/-! ## Context reports (R417) -/

/-- The fields of a collective entry, as numbers, for its digest; how the device writes them out is not stated. -/
def CollEntry.view (e : CollEntry) : List Nat :=
  [if e.wide then 1 else 0, e.op, e.cb, e.length] ++ e.rows.flatMap (fun r => [r.pkg, r.bar, r.rank, r.buddy, r.dest]) ++
  e.hops.flatMap (fun h => [h.1, h.2.1, h.2.2]) ++ (match e.win with | some w => [w.base, w.half, w.size, w.kind, w.root] | none => []) ++
  e.ports ++ e.xmask.flatMap (fun x => [x.1, x.2]) ++ e.prog

/-- Bytes 0x00 to 0xBF of a report (Table 5 of 21). -/
def reportBody (s : State) (ctx : Nat) (c : Ctx) (nonce : Nat) : List Byte :=
  let b := fun (x : Bool) (n : Nat) => if x then n else 0
  let fw := s.plat.booted.getD { digest := 0, version := 0, valid := false }
  toBytes 4 1 ++ toBytes 4 s.plat.pkgid ++ toBytes 16 s.plat.serial ++ toBytes 8 fw.version ++ toBytes 32 fw.digest ++
  toBytes 2 ctx ++ toBytes 2 c.domain ++ toBytes 2 c.slot ++ toBytes 2 (keySlot s c.slot).epoch.toNat ++
  toBytes 4 ((s.ctxs.filter (fun d => d.2.domain == c.domain)).length) ++
  toBytes 4 (b s.plat.debugOpen 1 + b s.plat.degraded 2) ++
  toBytes 32 (sha256 (c.images.flatMap (fun i => toBytes 32 i.2.digest))) ++
  toBytes 32 (digestNats (c.colls.flatMap (fun e => e.1 :: e.2.view))) ++
  toBytes 32 nonce ++ toBytes 8 s.cycle ++ toBytes 8 0

/-- Digest of the firmware that is booted. -/
def firmware (s : State) : Nat := match s.plat.booted with | some i => i.digest | none => 0

/-- The 256 bytes of a report, signed with the alias key over the hash of its body. DEDUCED (assumption log 32). -/
def report (s : State) (ctx : Nat) (c : Ctx) (nonce : Nat) : List Byte :=
  let body := reportBody s ctx c nonce
  body ++ toBytes 64 (Config.sign (firmware s) (toBytes 32 (sha256 body)))

/-- ATTESTATION_REPORT: request 0x24; the report goes to a host address that the service has. -/
def execEAttestationReport (part k ctx addr : Nat) (s : State) : Out :=
  service s part k 0x24 fun s q => onP4 s part q
    (match s.ctx? ctx with
     | none => answerReq s part q 1
     | some c => completeReq (s.writeHost addr (report s ctx c (reqBytes q 47 16))) part (reqTag q) 0 addr)

/-! ## The control space (R361, R362) -/

/-- DEVSTAT (Table 2 of 19). -/
def devstat (p : Platform) : Nat :=
  let b := fun (x : Bool) (n : Nat) => if x then n else 0
  p.dieup.toNat * 2 ^ 32 + p.pkgid % 2 ^ 12 * 2 ^ 16 + p.booterr % 2 ^ 8 * 2 ^ 8 + b p.recovery 8 + b p.degraded 4 + b p.ready 2 + b p.alive 1

/-- A bank control entry as it reads (Table 4 of 12). -/
def BankEntry.word (e : BankEntry) : Nat := e.mode % 4 + e.owner % 4 * 16 + (if e.busy then 2 ^ 8 else 0) + e.err % 16 * 2 ^ 12

/-- The n64 at an offset of the control space as the driver reads it; 0 where no region covers it (R362). DESIGN CHOICE: the version
stands after DEVSTAT, the tail of a service ring at the start of its page (assumption log 73). -/
def readControl (s : State) (off : Nat) : Nat :=
  if off = 0 then devstat s.plat
  else if off = 8 then Config.version % 2 ^ 64
  else if 0x1000 ≤ off ∧ off < 0x6000 ∧ off % 0x1000 = 0 then (s.rings.getOr Ring.reset (off / 0x1000 - 1)).tail % 2 ^ 64
  else if 0x2000000 ≤ off ∧ off < 0x2008000 then
    (s.queues.getOr Queue.reset ((off - 0x2000000) / 32)).nat / 2 ^ (8 * (off % 32)) % 2 ^ 64
  else if 0x3000000 ≤ off ∧ off < 0x3200000 then
    (((s.coreOf ((off - 0x3000000) / 0x1000)).entries.getOr BankEntry.reset (off % 0x1000 / 8))).word
  else if 0x4000000 ≤ off ∧ off < 0x4004000 ∧ off % 256 = 0 then
    let p := s.port ((off - 0x4000000) / 256)
    p.cfg.toNat + (if p.up then 2 else 0) + (if p.err then 4 else 0)
  else if 0x4010000 ≤ off ∧ off < 0x4018000 then s.routes.getOr 0 ((off - 0x4010000) / 8)
  else if 0x5000000 ≤ off ∧ off < 0x5040000 then
    (s.acl.getOr Acl.reset ((off - 0x5000000) / 64)).nat / 2 ^ (8 * (off % 64)) % 2 ^ 64
  else if 0x6000000 ≤ off ∧ off < 0x6001000 then (s.coreOf ((off - 0x6000000) / 8)).dropped
  else if 0x6001000 ≤ off ∧ off < 0x6001020 then s.routeDropped.getOr 0 ((off - 0x6001000) / 8)
  else if 0x6001100 ≤ off ∧ off < 0x6001300 then (s.port ((off - 0x6001100) / 8)).dropped
  else 0

/-- Replace the n64 at a byte offset of a wide value. -/
def setWord (w off v : Nat) : Nat := w - w / 2 ^ (8 * off) % 2 ^ 64 * 2 ^ (8 * off) + v % 2 ^ 64 * 2 ^ (8 * off)

/-- CONTROL_SPACE_WRITE: an n64 written to the control space: the driver may write only doorbells, those of queues and of
service rings, the service its tables; any other write is discarded (Table 3 of 19). -/
def execEControlSpaceWrite (off value : Nat) (byService : Bool) (s : State) : Out :=
  .next (
    if off % 8 ≠ 0 then s
    else if 0x1000000 ≤ off ∧ off < 0x1400000 then ringControl s off (toBytes 8 value)
    else if 0x1000 ≤ off ∧ off < 0x6000 then (if off % 0x1000 = 0 then ringTail s (off / 0x1000 - 1) value else s)
    else if !byService then s
    else if 0x2000000 ≤ off ∧ off < 0x2008000 then
      let n := (off - 0x2000000) / 32
      let q := s.queues.getOr Queue.reset n
      { s with queues := s.queues.put n (q.write (setWord q.nat (off % 32) value)) }
    else if 0x3000000 ≤ off ∧ off < 0x3200000 then bankWrite s ((off - 0x3000000) / 0x1000) (off % 0x1000 / 8) value
    else if 0x4000000 ≤ off ∧ off < 0x4004000 ∧ off % 256 = 0 then
      if portBad value || (value % 2 == 1 && s.plat.pkgid == 0) then s else portWrite s ((off - 0x4000000) / 256) value
    else if 0x4010000 ≤ off ∧ off < 0x4018000 then { s with routes := s.routes.put ((off - 0x4010000) / 8) (value % 2 ^ 64) }
    else if 0x5000000 ≤ off ∧ off < 0x5040000 then
      let n := (off - 0x5000000) / 64
      { s with acl := s.acl.put n (aclOf (setWord (s.acl.getOr Acl.reset n).nat (off % 64) value)) }
    else s)

end Sys2Proof.Machine
end

