-- ==== Sys2Proof/Machine/Platform.lean ====
section
/-! DEFINITION. The platform: reset, bring-up and recovery (R2, R360, R418, R420), the debug token (R419), power, cooling and
management (R423, R424), memory that fails (R422), and the security processor as an SPDM responder (R410, R413, R415 to
R417). -/

namespace Sys2Proof.Machine

open Sys2Proof

/-! ## Reset and bring-up (R2, R360, R418) -/

def modPlat (s : State) (f : Platform → Platform) : State := { s with plat := f s.plat }

/-- The package loses everything but its fuses; the boot flash and the host's memory are outside it (R2). DEDUCED (assumption log 33). -/
def clearPackage (s : State) : State :=
  { State.reset with plat := { Platform.reset with flash := s.plat.flash, fuse := s.plat.fuse },
                     hmem := s.hmem, agenda := s.agenda, freeCtr := s.freeCtr }

/-- The boot ROM boots an image only where its signature verifies and its version is at least the fused counter (R418). -/
def bootable (s : State) (i : FlashImage) : Bool := i.valid && decide (s.plat.fuse ≤ i.version)

/-- Step 1 of bring-up: the image is verified, or the package stays in recovery (R360, R418). The service's own key is in
slot 0 (R408). -/
def boot (s : State) : State :=
  match s.plat.flash with
  | some i =>
    if bootable s i then
      let t := modPlat s (fun p => { p with step := 1, booted := some i, recovery := false, booterr := 0 })
      installKey { t with freeCtr := t.freeCtr + 1 } 0 0 1 (Config.genKey t.freeCtr)
    else modPlat s (fun p => { p with recovery := true, booterr := 1 })
  | none => modPlat s (fun p => { p with recovery := true, booterr := 1 })

/-- PACKAGE_RESET: a reset or power-good. -/
def execEPackageReset (s : State) : Out := .next (boot (clearPackage s))

/-- LOSS_OF_POWER: nothing of the package stays but the fuses; a write of the flash that it interrupts leaves an image that
fails verification (R2, R420). -/
def execELossOfPower (writing : Bool) (s : State) : Out :=
  let t := clearPackage s
  .next (if writing then modPlat t (fun p => { p with flash := p.flash.map (fun i => { i with valid := false }) }) else t)

/-- A unit fails its bring-up step: DEGRADED, and its code in BOOTERR (Table 2 of 19). The field has one code: it keeps the first
(assumption log 22). -/
def Platform.fails (p : Platform) (err : Nat) : Platform :=
  { p with degraded := true, booterr := if p.booterr = 0 then err else p.booterr }

/-- The second tier comes up with the DIMMs that the package supports, the bytes of the others left unused; where its step fails
it is left down, with no frame to give (R306, R360). -/
def tierUp (s : State) (unused : Nat) (ok : Bool) : State :=
  let x := poolOf s 4
  putPool (modPlat s (fun p => { p with ddrUnused := unused, ddrDown := !ok })) 4
    { x with last := if ok then x.last - unused else x.next }

/-- BRING_UP_STEP_DONE: a step of Table 1 of 19 ends for a unit, in the order of the table. -/
def execEBringUpStepDone (d : StepDone) (s : State) : Out :=
  let p := s.plat
  .next (match d with
    | .hostLink => if p.step = 1 then modPlat s (fun p => { p with step := 2, alive := true }) else s
    | .die n ok =>
      if p.step ≠ 2 ∨ 4 ≤ n ∨ p.ended.getLsbD n then s
      else modPlat s (fun p =>
        let q := { p with ended := p.ended ||| ((1 : BitVec 6) <<< n) }
        if ok then { q with dieup := q.dieup ||| ((1 : BitVec 4) <<< n) } else q.fails 4)
    | .ddr unused ok =>
      if p.step ≠ 2 ∨ p.ended.getLsbD 4 then s
      else modPlat (tierUp s unused ok) (fun p => let q := { p with ended := p.ended ||| 16 }; if ok then q else q.fails 2)
    | .ports failed =>
      if p.step ≠ 2 ∨ p.ended.getLsbD 5 then s
      else
        let t := (portsOf failed).foldl (fun t n => t.modPort n (fun x => { x with err := true, dead := true })) s
        modPlat t (fun p => let q := { p with ended := p.ended ||| 32 }; if failed = 0 then q else q.fails 3)
    | .ready => if p.step = 2 ∧ p.ended = 63 then modPlat s (fun p => { p with step := 5, ready := true }) else s)

def flashOf (i : FwImage) : FlashImage := { digest := i.digest, version := i.version, valid := i.valid }

/-- An image that passes verification may be written to the flash (R418, R420). -/
def stageable (s : State) (i : FwImage) : Bool := bootable s (flashOf i) && decide (i.bytes ≤ 64 * 2 ^ 20)

/-- The endpoint answers a vendor message: its number and whether it has been carried out. DESIGN CHOICE: the contents, and that the
answer goes out on the endpoint's own bus 0 (assumption log 42). -/
def answerVendor (s : State) (op : Nat) (ok : Bool) : State := s.send (.mctp 0 [0x7E, op, if ok then 0 else 1])

/-- RECOVERY_IMAGE_TRANSFER: in recovery an image that verifies is written to the boot flash and booted. The event stands for the
last of its 4 KiB messages (assumption log 78). -/
def execERecoveryImageTransfer (img : FwImage) (s : State) : Out :=
  let ok := s.plat.recovery && stageable s img
  .next (answerVendor (if ok then boot (modPlat s (fun p => { p with flash := some (flashOf img) })) else s) 3 ok)

/-- FIRMWARE_STAGING: an image staged while the package runs takes effect at the next reset. -/
def execEFirmwareStaging (img : FwImage) (s : State) : Out :=
  let ok := !s.plat.recovery && s.plat.booted.isSome && stageable s img
  .next (answerVendor (if ok then modPlat s (fun p => { p with flash := some (flashOf img) }) else s) 2 ok)

/-- SECURITY_VERSION_ADVANCE: the fused counter goes to the version of the booted image, and never back. -/
def execESecurityVersionAdvance (s : State) : Out :=
  .next (match s.plat.booted with
    | some i => modPlat s (fun p => { p with fuse := max p.fuse i.version })
    | none => s)

/-- DEBUG_TOKEN_UNLOCK: a token signed for this device's serial opens the JTAG port, after every slot is zeroed and every
context halted with FATALWHY 2 (R419). -/
def execEDebugTokenUnlock (serial : Nat) (signed : Bool) (s : State) : Out :=
  .next (if !signed || serial != s.plat.serial then s
    else
      let s := { s with slots := s.slots.mapV (fun _ _ => KeySlot.reset) }
      let s := (s.ctxs.map (·.1)).foldl (fun s c => haltCtx s c 2 0 0 0 0x53) s
      modPlat s (fun p => { p with debugOpen := true, jtag := true }))

/-! ## Power, cooling, telemetry (R423, R424) -/

/-- SET_PCAP: 1,000 W to 3,200 W in steps of 25 W. -/
def execESetPcap (watts : Nat) (s : State) : Out :=
  let ok := decide (1000 ≤ watts) && decide (watts ≤ 3200) && watts % 25 == 0
  .next (answerVendor (if ok then modPlat s (fun p => { p with pcap := watts }) else s) 1 ok)

/-- POWER_WINDOW_EXPIRY: issue is gated while average power stands above the cap; gating changes timing only. -/
def execEPowerWindowExpiry (watts : Nat) (s : State) : Out :=
  .next (modPlat s (fun p => { p with gating := decide (p.pcap < watts) || p.thermal }))

/-- THERMAL_GATING: at a junction temperature of 100 °C and above issue is gated whatever the cap is. -/
def execEThermalGating (celsius : Nat) (s : State) : Out :=
  .next (modPlat s (fun p => { p with temp := celsius, thermal := decide (100 ≤ celsius), gating := p.gating || decide (100 ≤ celsius) }))

/-- THERMAL_TRIP: at 110 °C the package resets and every context is lost. -/
def execEThermalTrip (celsius : Nat) (s : State) : Out :=
  if 110 ≤ celsius then execEPackageReset s else .next s

/-- The structures of Table 6 of 21 whose errors pass unseen and are counted: memory; vector registers, tiles and sett traffic;
matrix arrays and reduction lanes; the memo table; scalar and control state. -/
def errorStructures : Nat := 5

/-- The corrections and retries since the last reading are counted: how many there were is free (R307, R421, assumption
log 42). -/
def countCorrections (s : State) : State :=
  (List.range errorStructures).foldl (fun s i =>
    let n := (Config.freeWord s.freeCtr).toNat
    { s with freeCtr := s.freeCtr + 1,
             plat := { s.plat with errors := s.plat.errors.put (corrections + i) (s.plat.errors.getOr 0 (corrections + i) + n) } }) s

/-- Spares used and left (R424): cores by die, the spare lane of each memory channel that has used it, the spare lane of each port. A
memory channel has one spare lane (R422; assumption log 42). -/
def spareCounts (s : State) : List Nat :=
  s.plat.spares.flatMap (fun e => [e.1, 8 - e.2.length, e.2.length]) ++ s.plat.lanesUsed.flatMap (fun c => [c, 1, 0]) ++
  s.ports.flatMap (fun p => if p.2.spareUsed then [p.1, 1, 0] else [p.1, 0, 1])

/-- The counters that telemetry reads (R424): bytes of DIMMs left unused (R306), errors and retries, spares, retired frames and
failed rows, dropped completions by core, by routing engine and by port, and the counters of each port engine. -/
def telemetry (s : State) : List Nat :=
  s.plat.ddrUnused :: s.plat.errors.flatMap (fun e => [e.1, e.2]) ++ spareCounts s ++
  s.pools.flatMap (fun p => p.2.retired.flatMap (fun r => [r.1 / 4096, r.2 / 4096])) ++ s.rows.flatMap (fun r => [r.1, r.2]) ++
  s.cores.flatMap (fun c => [c.1, c.2.dropped]) ++ s.routeDropped.flatMap (fun d => [d.1, d.2]) ++
  s.ports.flatMap (fun p => [p.1, p.2.dropped, p.2.stale, p.2.duplicate, p.2.malformed, p.2.unsupported])

/-- TELEMETRY_READ: power, the temperatures of the four compute dies and the switch die, and the coolant inlet are the values of
seven sensors, which are free (assumption log 42). -/
def execETelemetryRead (bus : Nat) (s : State) : Out :=
  let s := countCorrections s
  let sensors := (List.range 7).map (fun i => (Config.freeWord (s.freeCtr + i)).toNat)
  .next (({ s with freeCtr := s.freeCtr + 7 } : State).send (.mctp bus (0x7E :: sensors ++ telemetry s)))

/-- MCTP_CONTROL: the endpoint answers a control message; the answer's contents are not stated (assumption log 42). -/
def execEMctpControl (bus command : Nat) (s : State) : Out :=
  let (w, s) := s.freeWord
  .next (s.send (.mctp bus [0x00, command, w.toNat]))

/-- HBM_CHANNEL_OR_DIMM_FAILURE: the frames of a failed channel or DIMM are retired, and their lines read as poisoned
(R422). -/
def execEHbmChannelOrDimmFailure (pool base size : Nat) (s : State) : Out :=
  let x := poolOf s pool
  .next (degrade (putPool s pool { x with retired := (base, size) :: x.retired }))

/-! ## SPDM (R415 to R417) -/

/-- Response codes of the SPDM standard that the responder sends (assumption log 30). -/
def spdmError : Nat := 0x7F

def spdmOf (s : State) (bus : Nat) : Spdm := s.spdm.getOr Spdm.reset bus

/-- The answer to a message on a bus. PRESUMED (assumption log 30). -/
def spdmSay (s : State) (bus code : Nat) (body : List Nat) : State := s.send (.spdm bus code body)

/-- A message that needs the connection negotiated up to a stage; an error answers it otherwise. -/
def onConn (s : State) (bus stage : Nat) (f : State → State) : Out :=
  .next (if stage ≤ (spdmOf s bus).stage then f s else spdmSay s bus spdmError [])

/-- GET_VERSION: versions 1.2 and 1.3; the connection starts anew. -/
def execEGetVersion (bus : Nat) (s : State) : Out :=
  .next (spdmSay { s with spdm := s.spdm.put bus { version := 0, stage := 1 } } bus 0x04 [0x12, 0x13])

/-- GET_CAPABILITIES with the version the requester has chosen. -/
def execEGetCapabilities (bus version : Nat) (s : State) : Out :=
  onConn s bus 1 fun s =>
    if version = 0x12 ∨ version = 0x13 then
      spdmSay { s with spdm := s.spdm.put bus { version := version, stage := 2 } } bus 0x61 [version]
    else spdmSay s bus spdmError []

/-- NEGOTIATE_ALGORITHMS: ECDSA P-256, SHA-256, ECDHE secp256r1, AES-256-GCM (Table 4 of 21), where the requester offers
them. -/
def execENegotiateAlgorithms (bus : Nat) (offered : Bool) (s : State) : Out :=
  onConn s bus 2 fun s =>
    if offered then spdmSay { s with spdm := s.spdm.put bus { spdmOf s bus with stage := 3 } } bus 0x63 []
    else spdmSay s bus spdmError []

/-- The bytes of the certificate chain of the firmware that is booted (R416). -/
def chain (s : State) : List Nat := Config.certChain (firmware s)

/-- GET_DIGESTS. -/
def execEGetDigests (bus : Nat) (s : State) : Out :=
  onConn s bus 3 fun s => spdmSay s bus 0x01 [digestNats (chain s)]

/-- GET_CERTIFICATE: a part of the chain from the root to the alias certificate, in a message of no more than 4 KiB, since longer
ones are not supported (Table 4 of 21). -/
def execEGetCertificate (bus off len : Nat) (s : State) : Out :=
  onConn s bus 3 fun s => spdmSay s bus 0x02 (((chain s).drop off).take (min len 4096))

/-- An SPDM request that the responder does not support, such as PSK_EXCHANGE, GET_CSR or SET_CERTIFICATE, is answered with an error
(Table 4 of 21). PRESUMED (assumption log 30). -/
def spdmRefuse (s : State) (bus code : Nat) : State := spdmSay s bus spdmError [0x07, code]

/-- A signature of the alias key, which is that of the firmware that is booted, over a hash of numbers (R416). -/
def signNats (s : State) (xs : List Nat) : Nat := Config.sign (firmware s) (toBytes 32 (digestNats xs))

/-- CHALLENGE: signed with the alias key. -/
def execEChallenge (bus nonce : Nat) (s : State) : Out :=
  onConn s bus 3 fun s => spdmSay s bus 0x03 [nonce, signNats s [nonce, digestNats (chain s)]]

/-- The measurement of an index (Table 4 of 21): 1 boot ROM, 2 firmware image, 3 security configuration, 4 service partition
images. -/
def measurement (s : State) (i : Nat) : Nat :=
  match i with
  | 1 => Config.measure 1 0
  | 2 => firmware s
  | 3 => Config.measure 3 (s.plat.fuse * 2 + (if s.plat.debugOpen then 1 else 0))
  | _ => Config.measure i (firmware s)

/-- GET_MEASUREMENTS: one index, or all with 0xFF. -/
def execEGetMeasurements (bus index nonce : Nat) (s : State) : Out :=
  onConn s bus 3 fun s =>
    let is := if index = 0xFF then [1, 2, 3, 4] else [index]
    if is.all (fun i => decide (1 ≤ i) && decide (i ≤ 4)) then
      let ms := is.flatMap (fun i => [i, measurement s i])
      spdmSay s bus 0x60 (ms ++ [signNats s (nonce :: ms)])
    else spdmSay s bus spdmError []

/-- KEY_EXCHANGE: a session with a peer starts; with `link` it derives the session key of that port's link (R415).
DEDUCED (assumption log 34). -/
def execEKeyExchange (bus peer : Nat) (bothAuth : Bool) (link : Option Nat) (s : State) : Out :=
  onConn s bus 3 fun s =>
    let n := s.nextSession
    let x : Session := { bus := bus, peer := peer, bothAuth := bothAuth, ready := false, gen := 0, beats := 0, link := link }
    spdmSay { s with sessions := s.sessions.put n x, nextSession := n + 1 } bus 0x64 [n]

/-- A message within a session that is set up, on its own bus. -/
def inSession (s : State) (bus n : Nat) (f : State → Session → State) : Out :=
  onConn s bus 3 fun s =>
    match s.sessions.find n with
    | some x => if x.bus = bus ∧ x.ready then f s x else spdmSay s bus spdmError []
    | none => spdmSay s bus spdmError []

/-- FINISH: the session is set up; a link session opens with a new key epoch. -/
def execEFinish (bus n : Nat) (s : State) : Out :=
  onConn s bus 3 fun s =>
    match s.sessions.find n with
    | some x =>
      if x.bus ≠ bus ∨ x.ready then spdmSay s bus spdmError []
      else
        let s := { s with sessions := s.sessions.put n { x with ready := true } }
        let s := match x.link with
          | some p =>
            (s.modPort p (fun q =>
              { q with session := some x.peer, epoch := q.epoch + 1, counter := 0, sealed := 0, rekeying := false })).emitKept p
          | none => s
        spdmSay s bus 0x65 []
    | none => spdmSay s bus spdmError []

/-- HEARTBEAT keeps a session alive. -/
def execEHeartbeat (bus n : Nat) (s : State) : Out :=
  inSession s bus n fun s x => spdmSay { s with sessions := s.sessions.put n { x with beats := x.beats + 1 } } bus 0x68 []

/-- KEY_UPDATE: the session goes on under its next key. -/
def execEKeyUpdate (bus n : Nat) (s : State) : Out :=
  inSession s bus n fun s x => spdmSay { s with sessions := s.sessions.put n { x with gen := x.gen + 1 } } bus 0x69 []

/-- END_SESSION closes a session, and with it its link's. -/
def execEEndSession (bus n : Nat) (s : State) : Out :=
  inSession s bus n fun s x =>
    let s := match x.link with
      | some p => (s.modPort p (fun q => { q with session := none, rekeying := false })).emitKept p
      | none => s
    spdmSay { s with sessions := s.sessions.del n } bus 0x6C []

/-- KEY_IMPORT: over a mutually authenticated session, a key and its domain enter an empty slot (R410). -/
def execEKeyImport (bus n slot domain key : Nat) (s : State) : Out :=
  inSession s bus n fun s x =>
    if !x.bothAuth ∨ slot = 0 ∨ 256 ≤ slot ∨ 4096 ≤ domain ∨ (keySlot s slot).state ≠ 0 then spdmSay s bus spdmError []
    else
      let t := installKey s slot domain 2 key
      spdmSay (putSlot t slot { keySlot t slot with owner := some x.peer }) bus 0x7E [(keySlot t slot).epoch.toNat]

/-- KEY_EXPORT: the wrapped export of a slot key goes to its owner's session (R410). -/
def execEKeyExport (bus n slot : Nat) (s : State) : Out :=
  inSession s bus n fun s x =>
    let k := keySlot s slot
    if k.owner = some x.peer ∧ k.state = 1 then spdmSay s bus 0x7E [Config.wrapKey k.key x.peer] else spdmSay s bus spdmError []

/-- REVOKE: a participant revokes its slot over its mutually authenticated session (R413, R416). -/
def execERevoke (bus n slot : Nat) (s : State) : Out :=
  inSession s bus n fun s x =>
    if x.bothAuth ∧ slot ≠ 0 ∧ (keySlot s slot).owner = some x.peer then spdmSay (revokeSlot s slot) bus 0x7E []
    else spdmSay s bus spdmError []

/-- CONTEXT_REPORT: a signed report of a context for a nonce (R417). -/
def execEContextReport (bus ctx nonce : Nat) (s : State) : Out :=
  onConn s bus 3 fun s =>
    match s.ctx? ctx with
    | some c => spdmSay s bus 0x7E [leNat (report s ctx c nonce)]
    | none => spdmSay s bus spdmError []

end Sys2Proof.Machine
end

