-- ==== Sys2Proof/Machine/Dispatch.lean ====
section
/-! DEFINITION. exec: one arm per constructor of Instr, each one direct call of that instruction's meaning. -/

namespace Sys2Proof.Machine

open Sys2Proof

/-- The effect of one instruction or event on the machine. -/
def exec (i : Instr) (s : State) : Host.Outcome State Fault Refusal :=
  match i with
  | .ePackageReset => Sys2Proof.Machine.execEPackageReset s
  | .eLossOfPower writing => Sys2Proof.Machine.execELossOfPower writing s
  | .eBringUpStepDone d => Sys2Proof.Machine.execEBringUpStepDone d s
  | .eRecoveryImageTransfer img => Sys2Proof.Machine.execERecoveryImageTransfer img s
  | .eFirmwareStaging img => Sys2Proof.Machine.execEFirmwareStaging img s
  | .eSecurityVersionAdvance => Sys2Proof.Machine.execESecurityVersionAdvance s
  | .eDebugTokenUnlock serial signed => Sys2Proof.Machine.execEDebugTokenUnlock serial signed s
  | .eSetPcap watts => Sys2Proof.Machine.execESetPcap watts s
  | .eTelemetryRead bus => Sys2Proof.Machine.execETelemetryRead bus s
  | .eMctpControl bus command => Sys2Proof.Machine.execEMctpControl bus command s
  | .ePowerWindowExpiry watts => Sys2Proof.Machine.execEPowerWindowExpiry watts s
  | .eThermalGating celsius => Sys2Proof.Machine.execEThermalGating celsius s
  | .eThermalTrip celsius => Sys2Proof.Machine.execEThermalTrip celsius s
  | .eGetVersion bus => Sys2Proof.Machine.execEGetVersion bus s
  | .eGetCapabilities bus version => Sys2Proof.Machine.execEGetCapabilities bus version s
  | .eNegotiateAlgorithms bus offered => Sys2Proof.Machine.execENegotiateAlgorithms bus offered s
  | .eGetDigests bus => Sys2Proof.Machine.execEGetDigests bus s
  | .eGetCertificate bus off len => Sys2Proof.Machine.execEGetCertificate bus off len s
  | .eChallenge bus nonce => Sys2Proof.Machine.execEChallenge bus nonce s
  | .eGetMeasurements bus index nonce => Sys2Proof.Machine.execEGetMeasurements bus index nonce s
  | .eKeyExchange bus peer bothAuth link => Sys2Proof.Machine.execEKeyExchange bus peer bothAuth link s
  | .eFinish bus n => Sys2Proof.Machine.execEFinish bus n s
  | .eHeartbeat bus n => Sys2Proof.Machine.execEHeartbeat bus n s
  | .eKeyUpdate bus n => Sys2Proof.Machine.execEKeyUpdate bus n s
  | .eEndSession bus n => Sys2Proof.Machine.execEEndSession bus n s
  | .eKeyImport bus n slot domain key => Sys2Proof.Machine.execEKeyImport bus n slot domain key s
  | .eKeyExport bus n slot => Sys2Proof.Machine.execEKeyExport bus n slot s
  | .eRevoke bus n slot => Sys2Proof.Machine.execERevoke bus n slot s
  | .eContextReport bus ctx nonce => Sys2Proof.Machine.execEContextReport bus ctx nonce s
  | .eLinkRekey port done => Sys2Proof.Machine.execELinkRekey port done s
  | .eControlSpaceWrite off value byService => Sys2Proof.Machine.execEControlSpaceWrite off value byService s
  | .eServiceRingDoorbell part m => Sys2Proof.Machine.execEServiceRingDoorbell part m s
  | .eCreateContext part k domain slot base size => Sys2Proof.Machine.execECreateContext part k domain slot base size s
  | .eResetContext part k ctx => Sys2Proof.Machine.execEResetContext part k ctx s
  | .eDestroyContext part k ctx => Sys2Proof.Machine.execEDestroyContext part k ctx s
  | .eLoadImage part k ctx kzo va binds => Sys2Proof.Machine.execELoadImage part k ctx kzo va binds s
  | .eCreateOrChangeQueue part k queue desc page => Sys2Proof.Machine.execECreateOrChangeQueue part k queue desc page s
  | .eSetSramBanksTilesBarriers part k ctx core words share => Sys2Proof.Machine.execESetSramBanksTilesBarriers part k ctx core words share s
  | .eMap part k => Sys2Proof.Machine.execEMap part k s
  | .eUnmap part k => Sys2Proof.Machine.execEUnmap part k s
  | .eProtect part k => Sys2Proof.Machine.execEProtect part k s
  | .eReserve part k => Sys2Proof.Machine.execEReserve part k s
  | .eUnreserve part k => Sys2Proof.Machine.execEUnreserve part k s
  | .eSetNotifierRing part k => Sys2Proof.Machine.execESetNotifierRing part k s
  | .eSetTrapHandler part k => Sys2Proof.Machine.execESetTrapHandler part k s
  | .eSizeTrapQueue part k => Sys2Proof.Machine.execESizeTrapQueue part k s
  | .eSetPackageIdentifier part k id => Sys2Proof.Machine.execESetPackageIdentifier part k id s
  | .eConfigurePortOrRoute part k m => Sys2Proof.Machine.execEConfigurePortOrRoute part k m s
  | .eWriteAccessControlEntry part k idx word => Sys2Proof.Machine.execEWriteAccessControlEntry part k idx word s
  | .eLoadCollectiveEntry part k r => Sys2Proof.Machine.execELoadCollectiveEntry part k r s
  | .eDestroyCollectiveEntry part k ctx entry => Sys2Proof.Machine.execEDestroyCollectiveEntry part k ctx entry s
  | .eQuerySlot part k slot => Sys2Proof.Machine.execEQuerySlot part k slot s
  | .eGenerateKey part k slot domain => Sys2Proof.Machine.execEGenerateKey part k slot domain s
  | .eRevokeSlot part k slot => Sys2Proof.Machine.execERevokeSlot part k slot s
  | .eReclaimSlot part k slot => Sys2Proof.Machine.execEReclaimSlot part k slot s
  | .eAttestationReport part k ctx addr => Sys2Proof.Machine.execEAttestationReport part k ctx addr s
  | .eQueueDoorbell q tail => Sys2Proof.Machine.execEQueueDoorbell q tail s
  | .ePacketIntake die => Sys2Proof.Machine.execEPacketIntake die s
  | .eNodeDispatch die => Sys2Proof.Machine.execENodeDispatch die s
  | .eSounderAdmission ctx core => Sys2Proof.Machine.execESounderAdmission ctx core s
  | .eCoresidentAdmission l => Sys2Proof.Machine.execECoresidentAdmission l s
  | .eLaunchCompletion l => Sys2Proof.Machine.execELaunchCompletion l s
  | .eRecordQueueFullTile node => Sys2Proof.Machine.execERecordQueueFullTile node s
  | .eFlushTimerExpiry node => Sys2Proof.Machine.execEFlushTimerExpiry node s
  | .ePeerLaunchSend queue => Sys2Proof.Machine.execEPeerLaunchSend queue s
  | .ePermitRequest m => Sys2Proof.Machine.execEPermitRequest m s
  | .ePermitRenewal m => Sys2Proof.Machine.execEPermitRenewal m s
  | .ePermitExpiry srcpkg srcctx queue => Sys2Proof.Machine.execEPermitExpiry srcpkg srcctx queue s
  | .ePeerLaunchArrival m => Sys2Proof.Machine.execEPeerLaunchArrival m s
  | .eInboundWindowAccess w => Sys2Proof.Machine.execEInboundWindowAccess w s
  | .eWindowAckArrival op reply => Sys2Proof.Machine.execEWindowAckArrival op reply s
  | .eRetransmissionTimeout op => Sys2Proof.Machine.execERetransmissionTimeout op s
  | .eDirectPlacementRetry op => Sys2Proof.Machine.execEDirectPlacementRetry op s
  | .eLinkFailure port => Sys2Proof.Machine.execELinkFailure port s
  | .ePortLaneFailure port => Sys2Proof.Machine.execEPortLaneFailure port s
  | .eMemoryLaneFailure channel => Sys2Proof.Machine.execEMemoryLaneFailure channel s
  | .eCoreFailure core spare lost => Sys2Proof.Machine.execECoreFailure core spare lost s
  | .eCoreMigration core spare lost => Sys2Proof.Machine.execECoreMigration core spare lost s
  | .eCollectivePacketArrival c => Sys2Proof.Machine.execECollectivePacketArrival c s
  | .eTakeoverRequestArrival r => Sys2Proof.Machine.execETakeoverRequestArrival r s
  | .eMatchTimeout port ctx cid => Sys2Proof.Machine.execEMatchTimeout port ctx cid s
  | .eAliasStoreAccept ctx core slot entry lane => Sys2Proof.Machine.execEAliasStoreAccept ctx core slot entry lane s
  | .eLaneBlockStart ctx core slot => Sys2Proof.Machine.execELaneBlockStart ctx core slot s
  | .eLaneLoadFill ctx core slot fill => Sys2Proof.Machine.execELaneLoadFill ctx core slot fill s
  | .eAccessPerformed ctx core slot entry count ue => Sys2Proof.Machine.execEAccessPerformed ctx core slot entry count ue s
  | .eDeferredFaultDelivery ctx core slot entry => Sys2Proof.Machine.execEDeferredFaultDelivery ctx core slot entry s
  | .eSounderPark ctx core n => Sys2Proof.Machine.execESounderPark ctx core n s
  | .eSounderResume ctx core => Sys2Proof.Machine.execESounderResume ctx core s
  | .eQuadrantArbitration core quad lane => Sys2Proof.Machine.execEQuadrantArbitration core quad lane s
  | .eDeterministicRelease ctx core slot => Sys2Proof.Machine.execEDeterministicRelease ctx core slot s
  | .eEventTimerExpiry ctx core slot n => Sys2Proof.Machine.execEEventTimerExpiry ctx core slot n s
  | .eMailboxMessageArrival m => Sys2Proof.Machine.execEMailboxMessageArrival m s
  | .eMailboxStatusReturn op status => Sys2Proof.Machine.execEMailboxStatusReturn op status s
  | .eWaitanyWake ctx core slot => Sys2Proof.Machine.execEWaitanyWake ctx core slot s
  | .eBarrierWaitRelease ctx core slot => Sys2Proof.Machine.execEBarrierWaitRelease ctx core slot s
  | .eHwaitReturn ctx core slot slices => Sys2Proof.Machine.execEHwaitReturn ctx core slot slices s
  | .eRegangJoin ctx core slot => Sys2Proof.Machine.execERegangJoin ctx core slot s
  | .eCopyLastByte ctx core id n => Sys2Proof.Machine.execECopyLastByte ctx core id n s
  | .eEngineCommandFire ctx core unit => Sys2Proof.Machine.execEEngineCommandFire ctx core unit s
  | .eArrayCommandComplete ctx core => Sys2Proof.Machine.execEArrayCommandComplete ctx core s
  | .eArrayTransientError ctx core => Sys2Proof.Machine.execEArrayTransientError ctx core s
  | .eRouteComplete die n => Sys2Proof.Machine.execERouteComplete die n s
  | .eEngineAccessFault ctx core unit id ue => Sys2Proof.Machine.execEEngineAccessFault ctx core unit id ue s
  | .eSliceEnd core => Sys2Proof.Machine.execESliceEnd core s
  | .eSafePoint core => Sys2Proof.Machine.execESafePoint core s
  | .eBadgerSaveDone core ue => Sys2Proof.Machine.execEBadgerSaveDone core ue s
  | .eBadgerFillDone ctx core ue => Sys2Proof.Machine.execEBadgerFillDone ctx core ue s
  | .eBankControlWrite core b value => Sys2Proof.Machine.execEBankControlWrite core b value s
  | .eBankChangeComplete core b => Sys2Proof.Machine.execEBankChangeComplete core b s
  | .eShootDownComplete ctx => Sys2Proof.Machine.execEShootDownComplete ctx s
  | .eSentUpRecordService ctx resume => Sys2Proof.Machine.execESentUpRecordService ctx resume s
  | .sAdd d a b => Sys2Proof.Machine.execSAdd d a b s
  | .sAdd32 d a b => Sys2Proof.Machine.execSAdd32 d a b s
  | .sSub d a b => Sys2Proof.Machine.execSSub d a b s
  | .sSub32 d a b => Sys2Proof.Machine.execSSub32 d a b s
  | .sAnd d a b => Sys2Proof.Machine.execSAnd d a b s
  | .sAnd32 d a b => Sys2Proof.Machine.execSAnd32 d a b s
  | .sOr d a b => Sys2Proof.Machine.execSOr d a b s
  | .sOr32 d a b => Sys2Proof.Machine.execSOr32 d a b s
  | .sXor d a b => Sys2Proof.Machine.execSXor d a b s
  | .sXor32 d a b => Sys2Proof.Machine.execSXor32 d a b s
  | .sShl d a b => Sys2Proof.Machine.execSShl d a b s
  | .sShl32 d a b => Sys2Proof.Machine.execSShl32 d a b s
  | .sShr d a b => Sys2Proof.Machine.execSShr d a b s
  | .sShr32 d a b => Sys2Proof.Machine.execSShr32 d a b s
  | .sSra d a b => Sys2Proof.Machine.execSSra d a b s
  | .sSra32 d a b => Sys2Proof.Machine.execSSra32 d a b s
  | .sMul d a b => Sys2Proof.Machine.execSMul d a b s
  | .sMul32 d a b => Sys2Proof.Machine.execSMul32 d a b s
  | .sMulh d a b => Sys2Proof.Machine.execSMulh d a b s
  | .sMulh32 d a b => Sys2Proof.Machine.execSMulh32 d a b s
  | .sMulhn d a b => Sys2Proof.Machine.execSMulhn d a b s
  | .sMulhn32 d a b => Sys2Proof.Machine.execSMulhn32 d a b s
  | .sDiv d a b => Sys2Proof.Machine.execSDiv d a b s
  | .sDiv32 d a b => Sys2Proof.Machine.execSDiv32 d a b s
  | .sDivn d a b => Sys2Proof.Machine.execSDivn d a b s
  | .sDivn32 d a b => Sys2Proof.Machine.execSDivn32 d a b s
  | .sRem d a b => Sys2Proof.Machine.execSRem d a b s
  | .sRem32 d a b => Sys2Proof.Machine.execSRem32 d a b s
  | .sRemn d a b => Sys2Proof.Machine.execSRemn d a b s
  | .sRemn32 d a b => Sys2Proof.Machine.execSRemn32 d a b s
  | .sMin d a b => Sys2Proof.Machine.execSMin d a b s
  | .sMin32 d a b => Sys2Proof.Machine.execSMin32 d a b s
  | .sMax d a b => Sys2Proof.Machine.execSMax d a b s
  | .sMax32 d a b => Sys2Proof.Machine.execSMax32 d a b s
  | .sMinn d a b => Sys2Proof.Machine.execSMinn d a b s
  | .sMinn32 d a b => Sys2Proof.Machine.execSMinn32 d a b s
  | .sMaxn d a b => Sys2Proof.Machine.execSMaxn d a b s
  | .sMaxn32 d a b => Sys2Proof.Machine.execSMaxn32 d a b s
  | .sAddi d a im => Sys2Proof.Machine.execSAddi d a im s
  | .sAndi d a im => Sys2Proof.Machine.execSAndi d a im s
  | .sOri d a im => Sys2Proof.Machine.execSOri d a im s
  | .sXori d a im => Sys2Proof.Machine.execSXori d a im s
  | .sShli d a n => Sys2Proof.Machine.execSShli d a n s
  | .sShri d a n => Sys2Proof.Machine.execSShri d a n s
  | .sSrai d a n => Sys2Proof.Machine.execSSrai d a n s
  | .sLui d im => Sys2Proof.Machine.execSLui d im s
  | .sPcrel d im => Sys2Proof.Machine.execSPcrel d im s
  | .sCmp d c a b => Sys2Proof.Machine.execSCmp d c a b s
  | .sCmpi d c a im => Sys2Proof.Machine.execSCmpi d c a im s
  | .sBc c n o => Sys2Proof.Machine.execSBc c n o s
  | .sJmp o => Sys2Proof.Machine.execSJmp o s
  | .sCall o => Sys2Proof.Machine.execSCall o s
  | .sJmpr a => Sys2Proof.Machine.execSJmpr a s
  | .sCallr a => Sys2Proof.Machine.execSCallr a s
  | .sRet => Sys2Proof.Machine.execSRet s
  | .sSldI8 d a im => Sys2Proof.Machine.execSSldI8 d a im s
  | .sSldN8 d a im => Sys2Proof.Machine.execSSldN8 d a im s
  | .sSldI16 d a im => Sys2Proof.Machine.execSSldI16 d a im s
  | .sSldN16 d a im => Sys2Proof.Machine.execSSldN16 d a im s
  | .sSldI32 d a im => Sys2Proof.Machine.execSSldI32 d a im s
  | .sSldN32 d a im => Sys2Proof.Machine.execSSldN32 d a im s
  | .sSldI64 d a im => Sys2Proof.Machine.execSSldI64 d a im s
  | .sSstN8 v a im => Sys2Proof.Machine.execSSstN8 v a im s
  | .sSstN16 v a im => Sys2Proof.Machine.execSSstN16 v a im s
  | .sSstN32 v a im => Sys2Proof.Machine.execSSstN32 v a im s
  | .sSstN64 v a im => Sys2Proof.Machine.execSSstN64 v a im s
  | .sLrun k b => Sys2Proof.Machine.execSLrun k b s
  | .sLsync => Sys2Proof.Machine.execSLsync s
  | .sSysrd d r => Sys2Proof.Machine.execSSysrd d r s
  | .sSyswr a r => Sys2Proof.Machine.execSSyswr a r s
  | .sEvarm j a => Sys2Proof.Machine.execSEvarm j a s
  | .sEvdisarm j => Sys2Proof.Machine.execSEvdisarm j s
  | .sWaitany d => Sys2Proof.Machine.execSWaitany d s
  | .sJoin d a => Sys2Proof.Machine.execSJoin d a s
  | .sLeave a => Sys2Proof.Machine.execSLeave a s
  | .sBarArrive d a b => Sys2Proof.Machine.execSBarArrive d a b s
  | .sBarWait d a b => Sys2Proof.Machine.execSBarWait d a b s
  | .sBarSync d a => Sys2Proof.Machine.execSBarSync d a s
  | .sMbpost a b => Sys2Proof.Machine.execSMbpost a b s
  | .sMbsend d a b => Sys2Proof.Machine.execSMbsend d a b s
  | .sMbrecv d a => Sys2Proof.Machine.execSMbrecv d a s
  | .sSfenceLocal => Sys2Proof.Machine.execSSfenceLocal s
  | .sSfenceCore => Sys2Proof.Machine.execSSfenceCore s
  | .sSfencePkg => Sys2Proof.Machine.execSSfencePkg s
  | .sSfenceSys => Sys2Proof.Machine.execSSfenceSys s
  | .sSvc a => Sys2Proof.Machine.execSSvc a s
  | .sSndend => Sys2Proof.Machine.execSSndend s
  | .sTret => Sys2Proof.Machine.execSTret s
  | .sOplrd d a b => Sys2Proof.Machine.execSOplrd d a b s
  | .sOplrep d a => Sys2Proof.Machine.execSOplrep d a s
  | .sRdtime d => Sys2Proof.Machine.execSRdtime d s
  | .vIadd f => Sys2Proof.Machine.execVIadd f s
  | .vIsub f => Sys2Proof.Machine.execVIsub f s
  | .vIaddsat f => Sys2Proof.Machine.execVIaddsat f s
  | .vIsubsat f => Sys2Proof.Machine.execVIsubsat f s
  | .vImul f => Sys2Proof.Machine.execVImul f s
  | .vImulhi f => Sys2Proof.Machine.execVImulhi f s
  | .vImad f => Sys2Proof.Machine.execVImad f s
  | .vImin f => Sys2Proof.Machine.execVImin f s
  | .vImax f => Sys2Proof.Machine.execVImax f s
  | .vIabs f => Sys2Proof.Machine.execVIabs f s
  | .vIneg f => Sys2Proof.Machine.execVIneg f s
  | .vIdiv f => Sys2Proof.Machine.execVIdiv f s
  | .vIrem f => Sys2Proof.Machine.execVIrem f s
  | .vIavg f => Sys2Proof.Machine.execVIavg f s
  | .vIsad f => Sys2Proof.Machine.execVIsad f s
  | .vAnd f => Sys2Proof.Machine.execVAnd f s
  | .vOr f => Sys2Proof.Machine.execVOr f s
  | .vXor f => Sys2Proof.Machine.execVXor f s
  | .vNot f => Sys2Proof.Machine.execVNot f s
  | .vAndn f => Sys2Proof.Machine.execVAndn f s
  | .vShl f => Sys2Proof.Machine.execVShl f s
  | .vShr f => Sys2Proof.Machine.execVShr f s
  | .vSra f => Sys2Proof.Machine.execVSra f s
  | .vRotl f => Sys2Proof.Machine.execVRotl f s
  | .vPopc f => Sys2Proof.Machine.execVPopc f s
  | .vClz f => Sys2Proof.Machine.execVClz f s
  | .vCtz f => Sys2Proof.Machine.execVCtz f s
  | .vBrev f => Sys2Proof.Machine.execVBrev f s
  | .vBfext f => Sys2Proof.Machine.execVBfext f s
  | .vBfins f => Sys2Proof.Machine.execVBfins f s
  | .vTlut f => Sys2Proof.Machine.execVTlut f s
  | .vIcmpEq f => Sys2Proof.Machine.execVIcmpEq f s
  | .vIcmpNe f => Sys2Proof.Machine.execVIcmpNe f s
  | .vIcmpLt f => Sys2Proof.Machine.execVIcmpLt f s
  | .vIcmpLe f => Sys2Proof.Machine.execVIcmpLe f s
  | .vIcmpGt f => Sys2Proof.Machine.execVIcmpGt f s
  | .vIcmpGe f => Sys2Proof.Machine.execVIcmpGe f s
  | .vFadd f => Sys2Proof.Machine.execVFadd f s
  | .vFsub f => Sys2Proof.Machine.execVFsub f s
  | .vFmul f => Sys2Proof.Machine.execVFmul f s
  | .vFfma f => Sys2Proof.Machine.execVFfma f s
  | .vFmin f => Sys2Proof.Machine.execVFmin f s
  | .vFmax f => Sys2Proof.Machine.execVFmax f s
  | .vFminnum f => Sys2Proof.Machine.execVFminnum f s
  | .vFmaxnum f => Sys2Proof.Machine.execVFmaxnum f s
  | .vFabs f => Sys2Proof.Machine.execVFabs f s
  | .vFneg f => Sys2Proof.Machine.execVFneg f s
  | .vFcopysign f => Sys2Proof.Machine.execVFcopysign f s
  | .vFclass f => Sys2Proof.Machine.execVFclass f s
  | .vFcmpEq f => Sys2Proof.Machine.execVFcmpEq f s
  | .vFcmpNe f => Sys2Proof.Machine.execVFcmpNe f s
  | .vFcmpLt f => Sys2Proof.Machine.execVFcmpLt f s
  | .vFcmpLe f => Sys2Proof.Machine.execVFcmpLe f s
  | .vFcmpGt f => Sys2Proof.Machine.execVFcmpGt f s
  | .vFcmpGe f => Sys2Proof.Machine.execVFcmpGe f s
  | .vFcmpUn f => Sys2Proof.Machine.execVFcmpUn f s
  | .vFcmpOrd f => Sys2Proof.Machine.execVFcmpOrd f s
  | .vRcp f => Sys2Proof.Machine.execVRcp f s
  | .vRsq f => Sys2Proof.Machine.execVRsq f s
  | .vSqrt f => Sys2Proof.Machine.execVSqrt f s
  | .vDiv f => Sys2Proof.Machine.execVDiv f s
  | .vExp2 f => Sys2Proof.Machine.execVExp2 f s
  | .vLog2 f => Sys2Proof.Machine.execVLog2 f s
  | .vCvt src f => Sys2Proof.Machine.execVCvt src f s
  | .vFrint f => Sys2Proof.Machine.execVFrint f s
  | .vQnt f => Sys2Proof.Machine.execVQnt f s
  | .vDqnt f => Sys2Proof.Machine.execVDqnt f s
  | .vQscale f => Sys2Proof.Machine.execVQscale f s
  | .vPand f => Sys2Proof.Machine.execVPand f s
  | .vPor f => Sys2Proof.Machine.execVPor f s
  | .vPxor f => Sys2Proof.Machine.execVPxor f s
  | .vPandn f => Sys2Proof.Machine.execVPandn f s
  | .vPnot f => Sys2Proof.Machine.execVPnot f s
  | .vPmov f => Sys2Proof.Machine.execVPmov f s
  | .vPfromv f => Sys2Proof.Machine.execVPfromv f s
  | .vPvec f => Sys2Proof.Machine.execVPvec f s
  | .vPfirst f => Sys2Proof.Machine.execVPfirst f s
  | .vMov f => Sys2Proof.Machine.execVMov f s
  | .vSel f => Sys2Proof.Machine.execVSel f s
  | .vLidx f => Sys2Proof.Machine.execVLidx f s
  | .vLxor f => Sys2Proof.Machine.execVLxor f s
  | .vLrot f => Sys2Proof.Machine.execVLrot f s
  | .vBcast f => Sys2Proof.Machine.execVBcast f s
  | .vRadd f => Sys2Proof.Machine.execVRadd f s
  | .vRmin f => Sys2Proof.Machine.execVRmin f s
  | .vRmax f => Sys2Proof.Machine.execVRmax f s
  | .vRand f => Sys2Proof.Machine.execVRand f s
  | .vRor f => Sys2Proof.Machine.execVRor f s
  | .vRxor f => Sys2Proof.Machine.execVRxor f s
  | .vDp4 f => Sys2Proof.Machine.execVDp4 f s
  | .vDp2 f => Sys2Proof.Machine.execVDp2 f s
  | .vIaddI f => Sys2Proof.Machine.execVIaddI f s
  | .vIsubI f => Sys2Proof.Machine.execVIsubI f s
  | .vIaddsatI f => Sys2Proof.Machine.execVIaddsatI f s
  | .vIsubsatI f => Sys2Proof.Machine.execVIsubsatI f s
  | .vImulI f => Sys2Proof.Machine.execVImulI f s
  | .vIminI f => Sys2Proof.Machine.execVIminI f s
  | .vImaxI f => Sys2Proof.Machine.execVImaxI f s
  | .vAndI f => Sys2Proof.Machine.execVAndI f s
  | .vOrI f => Sys2Proof.Machine.execVOrI f s
  | .vXorI f => Sys2Proof.Machine.execVXorI f s
  | .vShlI f => Sys2Proof.Machine.execVShlI f s
  | .vShrI f => Sys2Proof.Machine.execVShrI f s
  | .vSraI f => Sys2Proof.Machine.execVSraI f s
  | .vRotlI f => Sys2Proof.Machine.execVRotlI f s
  | .vBfextI f => Sys2Proof.Machine.execVBfextI f s
  | .vIcmpEqI f => Sys2Proof.Machine.execVIcmpEqI f s
  | .vIcmpNeI f => Sys2Proof.Machine.execVIcmpNeI f s
  | .vIcmpLtI f => Sys2Proof.Machine.execVIcmpLtI f s
  | .vIcmpLeI f => Sys2Proof.Machine.execVIcmpLeI f s
  | .vIcmpGtI f => Sys2Proof.Machine.execVIcmpGtI f s
  | .vIcmpGeI f => Sys2Proof.Machine.execVIcmpGeI f s
  | .vFaddI f => Sys2Proof.Machine.execVFaddI f s
  | .vFmulI f => Sys2Proof.Machine.execVFmulI f s
  | .vFfmaI f => Sys2Proof.Machine.execVFfmaI f s
  | .vFminI f => Sys2Proof.Machine.execVFminI f s
  | .vFmaxI f => Sys2Proof.Machine.execVFmaxI f s
  | .vFcmpEqI f => Sys2Proof.Machine.execVFcmpEqI f s
  | .vFcmpNeI f => Sys2Proof.Machine.execVFcmpNeI f s
  | .vFcmpLtI f => Sys2Proof.Machine.execVFcmpLtI f s
  | .vFcmpLeI f => Sys2Proof.Machine.execVFcmpLeI f s
  | .vFcmpGtI f => Sys2Proof.Machine.execVFcmpGtI f s
  | .vFcmpGeI f => Sys2Proof.Machine.execVFcmpGeI f s
  | .vFcmpUnI f => Sys2Proof.Machine.execVFcmpUnI f s
  | .vFcmpOrdI f => Sys2Proof.Machine.execVFcmpOrdI f s
  | .vMovI f => Sys2Proof.Machine.execVMovI f s
  | .vSelI f => Sys2Proof.Machine.execVSelI f s
  | .vLidxI f => Sys2Proof.Machine.execVLidxI f s
  | .vLxorI f => Sys2Proof.Machine.execVLxorI f s
  | .vLrotI f => Sys2Proof.Machine.execVLrotI f s
  | .vBcastI f => Sys2Proof.Machine.execVBcastI f s
  | .vSpld f => Sys2Proof.Machine.execVSpld f s
  | .vSpst f => Sys2Proof.Machine.execVSpst f s
  | .vGld f => Sys2Proof.Machine.execVGld f s
  | .vGst f => Sys2Proof.Machine.execVGst f s
  | .vGprefetch f => Sys2Proof.Machine.execVGprefetch f s
  | .vAadd scope f => Sys2Proof.Machine.execVAadd scope f s
  | .vAmin scope f => Sys2Proof.Machine.execVAmin scope f s
  | .vAmax scope f => Sys2Proof.Machine.execVAmax scope f s
  | .vAand scope f => Sys2Proof.Machine.execVAand scope f s
  | .vAor scope f => Sys2Proof.Machine.execVAor scope f s
  | .vAxor scope f => Sys2Proof.Machine.execVAxor scope f s
  | .vAxchg scope f => Sys2Proof.Machine.execVAxchg scope f s
  | .vAcas scope f => Sys2Proof.Machine.execVAcas scope f s
  | .vAfadd scope f => Sys2Proof.Machine.execVAfadd scope f s
  | .vAppend f => Sys2Proof.Machine.execVAppend f s
  | .vFenceCore f => Sys2Proof.Machine.execVFenceCore f s
  | .vFencePkg f => Sys2Proof.Machine.execVFencePkg f s
  | .vFenceSys f => Sys2Proof.Machine.execVFenceSys f s
  | .vFenceEng f => Sys2Proof.Machine.execVFenceEng f s
  | .vCopy f => Sys2Proof.Machine.execVCopy f s
  | .vCopyFo f => Sys2Proof.Machine.execVCopyFo f s
  | .vCbset f => Sys2Proof.Machine.execVCbset f s
  | .vCbpush f => Sys2Proof.Machine.execVCbpush f s
  | .vCbpop f => Sys2Proof.Machine.execVCbpop f s
  | .vCbstat f => Sys2Proof.Machine.execVCbstat f s
  | .vMldw f => Sys2Proof.Machine.execVMldw f s
  | .vMswap f => Sys2Proof.Machine.execVMswap f s
  | .vMstream f => Sys2Proof.Machine.execVMstream f s
  | .vMdrain f => Sys2Proof.Machine.execVMdrain f s
  | .vMclear f => Sys2Proof.Machine.execVMclear f s
  | .vMperm f => Sys2Proof.Machine.execVMperm f s
  | .vRoute f => Sys2Proof.Machine.execVRoute f s
  | .vCstart f => Sys2Proof.Machine.execVCstart f s
  | .vHwait f => Sys2Proof.Machine.execVHwait f s
  | .vHrel f => Sys2Proof.Machine.execVHrel f s
  | .vHstat f => Sys2Proof.Machine.execVHstat f s
  | .vLend f => Sys2Proof.Machine.execVLend f s
  | .vLnop f => Sys2Proof.Machine.execVLnop f s
  | .vLbrAny f => Sys2Proof.Machine.execVLbrAny f s
  | .vLbrAll f => Sys2Proof.Machine.execVLbrAll f s
  | .vLjmp f => Sys2Proof.Machine.execVLjmp f s
  | .vRegang f => Sys2Proof.Machine.execVRegang f s
  | .vLtrap f => Sys2Proof.Machine.execVLtrap f s
  | .mLi d imm => Sys2Proof.Machine.execMLi d imm s
  | .mAddi d a imm => Sys2Proof.Machine.execMAddi d a imm s
  | .mAdd d a b => Sys2Proof.Machine.execMAdd d a b s
  | .mSub d a b => Sys2Proof.Machine.execMSub d a b s
  | .mAnd d a b => Sys2Proof.Machine.execMAnd d a b s
  | .mOr d a b => Sys2Proof.Machine.execMOr d a b s
  | .mXor d a b => Sys2Proof.Machine.execMXor d a b s
  | .mShl d a b => Sys2Proof.Machine.execMShl d a b s
  | .mShr d a b => Sys2Proof.Machine.execMShr d a b s
  | .mMinn d a b => Sys2Proof.Machine.execMMinn d a b s
  | .mBAl off => Sys2Proof.Machine.execMBAl off s
  | .mBEq a b off => Sys2Proof.Machine.execMBEq a b off s
  | .mBNe a b off => Sys2Proof.Machine.execMBNe a b off s
  | .mBLtn a b off => Sys2Proof.Machine.execMBLtn a b off s
  | .mBGen a b off => Sys2Proof.Machine.execMBGen a b off s
  | .mBLt a b off => Sys2Proof.Machine.execMBLt a b off s
  | .mBGe a b off => Sys2Proof.Machine.execMBGe a b off s
  | .mMatch d pk kinds tmo => Sys2Proof.Machine.execMMatch d pk kinds tmo s
  | .mRdh d pk f => Sys2Proof.Machine.execMRdh d pk f s
  | .mRdm d a f => Sys2Proof.Machine.execMRdm d a f s
  | .mMark d pk => Sys2Proof.Machine.execMMark d pk s
  | .mHold pk => Sys2Proof.Machine.execMHold pk s
  | .mDrop pk => Sys2Proof.Machine.execMDrop pk s
  | .mStream a b => Sys2Proof.Machine.execMStream a b s
  | .mFoldSum d b => Sys2Proof.Machine.execMFoldSum d b s
  | .mFoldMin d b => Sys2Proof.Machine.execMFoldMin d b s
  | .mFoldMax d b => Sys2Proof.Machine.execMFoldMax d b s
  | .mFoldQ d b => Sys2Proof.Machine.execMFoldQ d b s
  | .mCombSum pk b lo => Sys2Proof.Machine.execMCombSum pk b lo s
  | .mCombMin pk b lo => Sys2Proof.Machine.execMCombMin pk b lo s
  | .mCombMax pk b lo => Sys2Proof.Machine.execMCombMax pk b lo s
  | .mFwd pk k a c => Sys2Proof.Machine.execMFwd pk k a c s
  | .mFwdAcc b k a c => Sys2Proof.Machine.execMFwdAcc b k a c s
  | .mDlv a b => Sys2Proof.Machine.execMDlv a b s
  | .mDlvPk a pk => Sys2Proof.Machine.execMDlvPk a pk s
  | .mDlvG a pk => Sys2Proof.Machine.execMDlvG a pk s
  | .mTkreq a b => Sys2Proof.Machine.execMTkreq a b s
  | .mArrive a status => Sys2Proof.Machine.execMArrive a status s
  | .mEnd => Sys2Proof.Machine.execMEnd s
  | .eCorePowerGate core => Sys2Proof.Machine.execECorePowerGate core s
  | .eLinkUp port => Sys2Proof.Machine.execELinkUp port s
  | .ePackageDeclaredFailed m => Sys2Proof.Machine.execEPackageDeclaredFailed m s
  | .eHbmChannelOrDimmFailure pool base size => Sys2Proof.Machine.execEHbmChannelOrDimmFailure pool base size s
  | .eSpareLaneSwitchDone isPort n => Sys2Proof.Machine.execESpareLaneSwitchDone isPort n s

end Sys2Proof.Machine
end

