-- ==== Sys2Proof/Machine/Fetch.lean ====
section
/-! DEFINITION. How an agent comes to its next instruction: the grants of the issue ports (R284, R286), the fetch of a
scalar word (R53, R54), of a lane word (R58, R77) and of an MCF word (R245), the traps a fetch meets (R69, R77), and the
placing of one word where the next step fetches it. -/

namespace Sys2Proof.Machine

open Sys2Proof

/-- What an agent comes to: nothing to execute (a state that stands, or has taken a trap), or an instruction with the
state in which it is executed. -/
inductive Fetched where
  | idle (s : State)
  | run (i : Instr) (s : State)

/-- The numbers that the free values of one step use (assumption log 3). -/
def freeStride : Nat := 1024

/-- The agent of the next step, and the state once it has been taken: the head of the agenda, or a free choice. -/
def takeAgent (s : State) : Agent × State :=
  match s.agenda with
  | a :: r => (a, { s with agenda := r, freeCtr := s.freeCtr + freeStride })
  | [] => (Config.nextAgent s.freeCtr, { s with freeCtr := s.freeCtr + freeStride })

/-- The context that may issue on a core: it holds the active bank, is not halted, and the core is powered and has not
failed (R284, R290, R398). -/
def issuingCtx (s : State) (core : Nat) : Option Nat :=
  let k := s.coreOf core
  match activeCtx k with
  | none => none
  | some ctx => if k.failed || k.gated || !ctxLive s ctx then none else some ctx

/-- The grant of a scalar or lane port is used up by the issue. -/
def dropScalGrant (s : State) (core quad : Nat) : State :=
  s.modCore core (fun k => { k with scalPort := k.scalPort.del quad })
def dropLaneGrant (s : State) (core quad : Nat) : State :=
  s.modCore core (fun k => { k with lanePort := k.lanePort.del quad })

/-- A word of the scalar stream is fetched: past the end of the section stands no word, and the trap is "misaligned
target" (assumption log 5). -/
noncomputable def fetchScalarWord (s : State) (c k j : Nat) (x : Snd) : Fetched :=
  if x.pc < scalarSize s c x then
    match decodeScalar (BitVec.ofNat 32 (scalarWord s c x)) with
    | .ok i => .run i { s with cur := .scalar c k j }
    | .illegal cause => .idle (scalarTrap s c k j x 0x01 (ill := cause))
  else .idle (takeTrap s c k j { cause := 0x05 })

/-- The scalar port of a quadrant issues the stream it has chosen; under a revoked key the fetch is refused (R413). -/
noncomputable def fetchScalar (s : State) (core quad : Nat) : Fetched :=
  match issuingCtx s core, (s.coreOf core).scalPort.find quad with
  | some c, some j =>
    let t := dropScalGrant s core quad
    match t.snd? c core j with
    | none => .idle t
    | some x =>
      if x.mayIssue && x.wait.issues then
        if revoked t c then .idle (haltRevoked t c x.idx core 0 x.pc) else fetchScalarWord t c core j x
      else .idle t
  | _, _ => .idle s

/-- A word of a join set is fetched: outside its block the trap is that of R77; a word that is no instruction takes the
illegal-instruction trap with its lowest cause for this sounder (R69). -/
noncomputable def fetchLaneWord (s : State) (c k j slices : Nat) (x : Snd) (b : Block) : Fetched :=
  let pc := (x.slices.getOr Slice.reset (lowSlice slices)).pc
  let w := laneWordAt s c x pc
  let info : TrapInfo := { cause := 0x06, stream := 1, lpc := pc, slices := slices, block := b.index }
  if pc < b.entry ∨ b.entry + b.len ≤ pc then .idle (takeTrap s c k j info)
  else
    match decodeLane (BitVec.ofNat 96 w) with
    | .ok i => .run i { s with cur := .lane c k j slices }
    | .illegal cause =>
      let low := (laneIllegal (BitVec.ofNat 96 w) x.n (bits (seenCtl s 0 b.fpctl x.fpctl) 10 8)).getD cause
      .idle (takeTrap s c k j { info with cause := 0x01, ill := low, word := w })

/-- The lane port of a quadrant issues the join set it has chosen; under a revoked key the fetch is refused (R413). -/
noncomputable def fetchLane (s : State) (core quad : Nat) : Fetched :=
  match issuingCtx s core, (s.coreOf core).lanePort.find quad with
  | some c, some g =>
    let t := dropLaneGrant s core quad
    match t.snd? c core (g / 32) with
    | none => .idle t
    | some x =>
      match x.runningBlock, (joinSets x).find? (fun e => e.1 == g % 32) with
      | some b, some e =>
        if !x.mayIssue then .idle t
        else if revoked t c then .idle (haltRevoked t c x.idx core 0 (x.slices.getOr Slice.reset (lowSlice e.2)).pc)
        else fetchLaneWord t c core (g / 32) e.2 x b
      | _, _ => .idle t
  | _, _ => .idle s

/-- The next word of an MCF thread (R240); a loaded program holds no illegal word (R246). -/
noncomputable def fetchMcf (s : State) (port ctx entry : Nat) : Fetched :=
  match s.entry? ctx entry, s.thread? port ctx entry with
  | some e, some t =>
    match e.prog[t.pc]? with
    | none => .idle s
    | some w =>
      match decodeMcf (BitVec.ofNat 64 w) with
      | .ok i => .run i { s with cur := .mcf port ctx entry }
      | .illegal _ => .idle s
  | _, _ => .idle s

/-- What goes on while the package is held in reset or in recovery: what the security processor and the management endpoint serve, and
what happens to the package as a whole (R2, R360, R418). -/
def inReset : Instr → Bool
  | .ePackageReset | .eLossOfPower _ | .eRecoveryImageTransfer _ | .eFirmwareStaging _ | .eSecurityVersionAdvance
  | .eDebugTokenUnlock _ _ | .eSetPcap _ | .eTelemetryRead _ | .eMctpControl _ _ | .ePowerWindowExpiry _ | .eThermalGating _
  | .eThermalTrip _ | .eGetVersion _ | .eGetCapabilities _ _ | .eNegotiateAlgorithms _ _ | .eGetDigests _ | .eGetCertificate _ _ _
  | .eChallenge _ _ | .eGetMeasurements _ _ _ | .eKeyExchange _ _ _ _ | .eFinish _ _ | .eHeartbeat _ _ | .eKeyUpdate _ _
  | .eEndSession _ _ | .eKeyImport _ _ _ _ _ | .eKeyExport _ _ _ | .eRevoke _ _ _ | .eContextReport _ _ _ => true
  | _ => false

/-- What an agent executes next: every other unit is held in reset until the package has booted (R418). -/
noncomputable def fetch (a : Agent) (s : State) : Fetched :=
  match a with
  | .scalar core quad => fetchScalar s core quad
  | .lane core quad => fetchLane s core quad
  | .mcf port ctx entry => fetchMcf s port ctx entry
  | .event i => if i.stream = .event ∧ (s.plat.step ≠ 0 ∨ inReset i) then .run i { s with cur := .none } else .idle s
  | .time n => .idle (advance s n)
  | .host a bs => .idle (hostWrite s a bs)
  | .hostPort c va bs => .idle (hostStore s c va bs)
  | .hostRead c va n => .idle (hostLoad s c va n)
  | .lineError l => .idle (lineFails s l)
  | .rowFailure l n => .idle (rowsFail s l n)
  | .spdmOther bus code => .idle (spdmRefuse s bus code)

/-! ## One word placed for the next step (assumption log 6) -/

/-- Where the code sections of the placed image lie: the first frames of die 0's HBM. -/
def placedScalarPA : Nat := poolBase 0
def placedLanePA : Nat := poolBase 0 + 4096

/-- The context, image, launch and sounder that a loaded and launched program has, with one word in each code section. -/
def placedImage : Image :=
  { ctx := 0, scalarPA := placedScalarPA, scalarSize := 4, lanePA := placedLanePA, laneCount := 2, tablePA := 0,
    tableCount := 0, recPA := 0, recCount := 0, constVA := 0, entry := 0, mcf := [], digest := 0,
    frames := (placedScalarPA, 8192) }

def placedEntry (prog : List Nat) : CollEntry :=
  { wide := true, op := 0, cb := 16, length := 16, rows := [{ pkg := 0, bar := 0, rank := 0, buddy := 0, dest := 0 }],
    hops := [], win := none, ports := [0], xmask := [], prog := prog, image := 0, absent := 0, parts := [], ended := [], staging := [],
    store := [] }

def placedCtx (prog : List Nat) : Ctx :=
  { domain := 0, slot := 1, die := 0, troot := 0, sett := 0, areaBase := 0, areaSize := 0, area := [], trapq := TrapQueue.reset,
    handler := none, halted := false, epoch := 0, reports := 0, withheld := 0, lines := [], refused := [], placing := [],
    resv := [], colls := [(0, placedEntry prog)], permits := [], nextImage := 1, images := [(0, placedImage)] }

def placedLaunch : Launch :=
  { node := none, rq := none, ctx := 0, image := 0, z := 1, n := 640, f := 0, cores := false, determ := false,
    sysrel := false, cbase := 0, ccount := 1, per := 1, header := 0, hdrLen := 0, pkt := 0, left := 1, handle := none,
    admitted := true }

def placedBlock : Block :=
  { index := 0, entry := 0, len := 2, mask := 2 ^ 96 - 1, k := List.replicate 8 0, fpctl := 0, ructl := RUCTL_RESET }

/-- The sounder: at its first scalar word, or with a block running at its first lane word. -/
def placedSnd (lane : Bool) : Snd :=
  let x := Snd.fresh 0 0 0 640 0 false false [] 0
  if lane then { x with queue := [placedBlock], running := true, slices := startSlices placedBlock } else x

/-- A context with a launched image, its sounder resident on core 0 in the active bank. -/
def placeContext (s : State) (lane : Bool) (prog : List Nat) : State :=
  let share : Share := { Share.none with regs := 704 }
  let cc : CtxCore := { CtxCore.reset with share := share, place := .bank 0, sounders := [(0, placedSnd lane)], nextAge := 1 }
  let core : Core := { Core.reset 0 with bank0 := some 0, scalPort := [(0, 0)], lanePort := [(0, 0)] }
  { s with ctxs := s.ctxs.put 0 (placedCtx prog), cc := s.cc.put 0 cc, cores := s.cores.put 0 core,
           launches := s.launches.put 0 placedLaunch }

/-- A word of a stream placed where the next step fetches it. -/
def placeWord (s : State) (st : Stream) (w : Nat) : State :=
  match st with
  | .scalar =>
    { placeContext (s.writeBytes placedScalarPA (leBytes 4 w)) false [] with agenda := [.scalar 0 0] }
  | .lane =>
    { placeContext (s.writeBytes placedLanePA (leBytes 24 w)) true [] with agenda := [.lane 0 0] }
  | .mcf =>
    let t := placeContext s false [w]
    { t.putThread 0 0 0 (Thread.start (placedEntry [w]) 0 0 []) with agenda := [.mcf 0 0 0] }
  | .event => s

end Sys2Proof.Machine
end

