-- ==== Sys2Proof/Machine/Step.lean ====
section
/-! DEFINITION. One step of the package: the next agent takes its turn. -/

namespace Sys2Proof.Machine

open Sys2Proof

/-- One step: the next agent of the agenda, or a free one, executes what it comes to. -/
noncomputable def step (s : State) : Host.Outcome State Fault Refusal :=
  match fetch (takeAgent s).1 (takeAgent s).2 with
  | .idle t => .next t
  | .run i t => exec i t

/-- `s` with a word of the opcode table placed where the next step fetches and executes it: the load and launch of a
program of one word (assumption log 6). -/
def State.withFetchWord (s : State) (nbits w : Nat) : State := placeWord s (tableStream nbits) w

end Sys2Proof.Machine
end

