-- ==== Sys2Proof/Safety.lean ====
section
/-! DEFINITION. What counts as a safe run, and the conditions under which an instruction is executed: whose instruction it
is, and what its operands have to be. Statements are made in these terms. -/

namespace Sys2Proof.Fl

/-! ## What a float pattern is worth, and what rounding delivers (R84, R86, R89) -/

/-- The magnitude of a code without its sign, in units of the least subnormal; at the code of infinity, one unit in the last place
above the greatest finite value (R84). -/
def Fmt.units (f : Fmt) (c : Nat) : Nat := if c / 2 ^ f.m = 0 then c else (2 ^ f.m + c % 2 ^ f.m) * 2 ^ (c / 2 ^ f.m - 1)

/-- A pattern's code without its sign. -/
def Fmt.mag (f : Fmt) (a : Nat) : Nat := a % f.signBit

/-- The signed value of a finite pattern, in the same units. -/
def Fmt.value (f : Fmt) (a : Nat) : Int := if f.sgn a then -(f.units (f.mag a) : Int) else f.units (f.mag a)

abbrev Fmt.Finite (f : Fmt) (a : Nat) : Prop := f.mag a < f.infCode
abbrev Fmt.IsInf (f : Fmt) (a : Nat) : Prop := f.mag a = f.infCode
abbrev Fmt.IsNan (f : Fmt) (a : Nat) : Prop := f.infCode < f.mag a
/-- A NaN whose most significant fraction bit is 0 (R85). -/
abbrev Fmt.Signals (f : Fmt) (a : Nat) : Prop := f.IsNan a ∧ a.testBit (f.m - 1) = false

/-- A NaN operand as it is delivered: its quiet bit set, its sign and other bits kept (R85). -/
def Fmt.quieted (f : Fmt) (a : Nat) : Nat := a % 2 ^ f.w ||| 2 ^ (f.m - 1)

/-- The pattern and the flags `r` are round(x) of an exact magnitude x > 0 with sign `s` under a mode (R86, R89). The magnitude is
given by how it compares: `le n k` where n ÷ k units are not above it, `ge n k` where they are not below it. Between the finite
codes c and c + 1 that enclose it the mode chooses; from the magnitude after the greatest finite one on it overflows; it is tiny where,
rounded with an unbounded exponent, it stays below the least normal. -/
def Delivers (f : Fmt) (mode : Mode) (s : Bool) (le ge : Nat → Nat → Prop) (r : Nat × Nat) : Prop :=
  let m := 2 ^ f.m
  let inf := (f.withSign s (if mode = .rn ∨ mode = .ra ∨ mode = .rp ∧ s = false ∨ mode = .rm ∧ s = true then f.infCode
    else f.infCode - 1), fOverflow + fInexact)
  ∃ c, c < f.infCode ∧ le (f.units c) 1 ∧ (le (f.units (c + 1)) 1 → c + 1 = f.infCode) ∧
    let exact := ge (f.units c) 1
    let half := f.units c + f.units (c + 1)
    let up := match mode with
      | .rz => False
      | .rp => ¬ exact ∧ s = false
      | .rm => ¬ exact ∧ s = true
      | .rn => le half 2 ∧ (¬ ge half 2 ∨ c % 2 = 1)
      | .ra => le half 2
    let tiny := c + 1 < m ∨ c + 1 = m ∧ match mode with
      | .rz => True
      | .rp => s = true ∨ ge (2 * m - 1) 2
      | .rm => s = false ∨ ge (2 * m - 1) 2
      | _ => ¬ le (4 * m - 1) 4
    let above := le (f.units (c + 1)) 1 ∨ up ∧ c + 1 = f.infCode
    (above → r = inf) ∧
    (¬ above → (up → r.1 = f.withSign s (c + 1)) ∧ (¬ up → r.1 = f.withSign s c) ∧ (exact → r.2 = 0) ∧
      (¬ exact → tiny → r.2 = fUnderflow + fInexact) ∧ (¬ exact → ¬ tiny → r.2 = fInexact))

/-- `r` is the rounding of p ÷ q units of the least subnormal. -/
def DeliversRatio (f : Fmt) (mode : Mode) (s : Bool) (p q : Nat) (r : Nat × Nat) : Prop :=
  Delivers f mode s (fun n k => n * q ≤ k * p) (fun n k => k * p ≤ n * q) r

/-- `r` is the rounding of the square root of p ÷ q, in units of the least subnormal. -/
def DeliversRoot (f : Fmt) (mode : Mode) (p q : Nat) (r : Nat × Nat) : Prop :=
  Delivers f mode false (fun n k => n * n * q ≤ k * k * p) (fun n k => k * k * p ≤ n * n * q) r

end Sys2Proof.Fl

namespace Sys2Proof.Machine

open Sys2Proof

/-! ## Safe states -/

/-- A state from which a step answers a next state. -/
def State.Safe (s : State) : Prop := ∃ t, step s = .next t

/-- Memory, host memory and the memory that the service owns are in canonical form: addresses rise strictly and no listed byte
is 0. -/
def State.MemOk (s : State) : Prop := Memory.wf s.pmem = true ∧ Memory.wf s.hmem = true ∧ Memory.wf s.smem = true

/-! ## Whose instruction is executed -/

/-- The scalar stream of sounder `x` is current. -/
structure ScalarAt (s : State) (c k j : Nat) (x : Snd) : Prop where
  cur : s.cur = .scalar c k j
  snd : s.snd? c k j = some x

/-- The state once scalar register `d` of a sounder holds `v` and its stream is at the next word: nothing else changes. -/
def State.wrote (s : State) (c k j : Nat) (x : Snd) (d : BitVec 6) (v : Word) : State :=
  s.putSnd c k j { x with s := x.s.setOr 0 d.toNat v, pc := x.pc + 4 }

/-- The state once a sounder's stream is at the next word: nothing else changes. -/
def State.passed (s : State) (c k j : Nat) (x : Snd) : State := s.putSnd c k j { x with pc := x.pc + 4 }

/-- Nothing of the sounder is still to be performed: no access, fill, block or engine completion that a synchronising
operation waits for (R129, R292). -/
structure Snd.Idle (x : Snd) : Prop where
  lanes  : x.lsyncDone = true
  stores : x.scalarPending = false

/-- Issue `i` of the lane word with a major, a minor and a body is current, is no illegal word for its sounder and has no
empty source (R34, R69, R70). -/
structure LaneAt (s : State) (maj min : Nat) (b : LaneBody) (i : Issue) : Prop where
  cur   : s.cur = .lane i.ctx i.core i.slot i.slices
  snd   : s.snd? i.ctx i.core i.slot = some i.x
  blk   : i.x.runningBlock = some i.blk
  made  : i = Issue.of s i.ctx i.core i.slot i.slices i.x i.blk maj min b
  legal : laneIllegal (BitVec.ofNat 96 i.word) i.x.n (bits i.fpctl 10 8) = none
  full  : i.emptyNow = []

/-- An arithmetic issue with the results `rs` raises no enabled exception (R87) and finds the registers it needs (R48). -/
structure Issue.Ready (i : Issue) (s : State) (rs : List (Nat × Nat)) : Prop where
  quiet : trapEnabled i.fpctl (unionFlags i.mask rs) = false
  room  : i.room s i.reusable (i.memoKey s []) = true

/-- The results of lane operation `op` on the sources of an issue. -/
def Issue.results (i : Issue) (s : State) (op : Issue → List Nat → List Nat → List Nat → List Nat → List (Nat × Nat)) :
    List (Nat × Nat) := op i (i.srcA s) (i.srcB s) (i.srcC s) (i.srcD s)

/-- Lane instruction `ins`, the word of a major, a minor and a body, completes: issued legally with full sources, no enabled
exception and the registers it needs, it commits the results `rs` (lane l's value and exception flags at place l), and the
issue retires. -/
def LaneGives (s : State) (i : Issue) (ins : Instr) (maj min : Nat) (b : LaneBody) (rs : List (Nat × Nat)) : Prop :=
  LaneAt s maj min b i → i.Ready s rs → exec ins s = .next (i.commit s rs)

/-- An issue of `ins` whose results raise an enabled exception takes the exact trap "floating-point exception" with the union of the
flags; it writes no lane and no flag, and only the counters of its lookup have moved (R87, R40). -/
def LaneFpTraps (s : State) (i : Issue) (ins : Instr) (maj min : Nat) (b : LaneBody) (rs : List (Nat × Nat)) : Prop :=
  LaneAt s maj min b i → trapEnabled i.fpctl (unionFlags i.mask rs) = true →
    ∃ x', exec ins s = .next (takeTrap (s.putSnd i.ctx i.core i.slot x') i.ctx i.core i.slot
        { cause := 0x07, stream := 1, fpexc := unionFlags i.mask rs, lpc := i.lpc, slices := i.slices, block := i.blk.index,
          word := i.word }) ∧
      x' = { i.x with rlook := x'.rlook, rsatur := x'.rsatur }

/-- A memory issue that asks `q` and is not already waiting for a log entry has lanes to access, none in a bank whose mode is changing (R310), each passing the probe
(R160), and finds the registers it needs and entry `k` of the operand log free (R48, R162). -/
structure Issue.Passes (i : Issue) (s : State) (q : Ask) (k : Nat) : Prop where
  some_ : i.mask ≠ 0
  fresh : i.probed = none
  calm  : i.accessLanes.any (fun l => i.bankBusy s ((i.srcA s).getD l 0)) = false
  ok    : ∀ l ∈ i.accessLanes, i.failCheck s q ((i.srcA s).getD l 0) = none
  room  : i.room s false (i.memoKey s ((if q.kind = .load then i.loadKey s (i.srcA s) else none).getD [])) = true
  free  : i.x.freeEntry = some k

/-- The issue is no load that the memo table answers (R40). -/
def Issue.Fetches (i : Issue) (s : State) (q : Ask) : Prop :=
  ∀ m, i.loadLookup s (i.srcA s) (if q.kind = .load then i.loadKey s (i.srcA s) else none) ≠ .hit m

/-- The lane address of lane `l` of a memory issue (R156). -/
def Issue.laneAddr (i : Issue) (s : State) (l : Nat) : Nat := (i.lea s ((i.srcA s).getD l 0)).toNat

/-- The accesses that a memory issue leaves in the operand log: one for each accessing lane, ascending (R161, R162); a store to an
alias window carries the member that its sounder stands for at issue (R326). -/
def Issue.accesses (i : Issue) (s : State) (q : Ask) (data new : Nat → Nat) : List LaneAcc :=
  i.accessLanes.map fun l =>
    { lane := l, va := i.laneAddr s l, loc := i.place s q (i.laneAddr s l), data := data l,
      new := match i.place s q (i.laneAddr s l) with | .aliasWin cid _ => aliasMember s i.ctx i.core i.slot cid | _ => new l,
      sent := false }

/-- A memory instruction takes entry `k` of the operand log with its accesses and goes on: its destination is marked empty,
and memory, every register and every other entry are as before (R33, R162). -/
def LaneLogs (s : State) (i : Issue) (ins : Instr) (maj min : Nat) (f : LaneI) (q : Ask) (k : Nat) (data new : Nat → Nat)
    (row : List Byte) : Prop :=
  LaneAt s maj min (.i f) i → i.Passes s q k → i.Fetches s q →
    ∃ t y e, exec ins s = .next t ∧ t.snd? i.ctx i.core i.slot = some y ∧ y.oplog.find k = some e ∧
      e.todo = i.accesses s q data new ∧ e.held = [] ∧ e.row = row ∧ e.ty = i.ty ∧ e.minor = min ∧ e.slices = i.slices ∧
      (e.kind = q.kind ∨ q.kind = .store ∧ e.kind = .aliasStore) ∧
      (∀ m : Nat, m ≠ k → y.oplog.find m = i.x.oplog.find m) ∧ y.seq = i.x.seq + 1 ∧
      (∀ n ∈ i.dstNames, y.isEmpty n = true) ∧
      y.v = i.x.v ∧ y.q = i.x.q ∧ y.s = i.x.s ∧ y.c = i.x.c ∧ y.pc = i.x.pc ∧ y.fpstat = i.x.fpstat ∧
      (∀ j sl, i.x.slices.find j = some sl →
        y.slices.find j = some (if sliceBit i.slices j then { sl with pc := sl.pc + 1 } else sl)) ∧
      (∀ m : Nat, t.readPA m = s.readPA m)

/-- The thread of an entry on a port is current, and no answer has failed it (R240, R252). -/
structure McfAt (s : State) (port ctx cid : Nat) (e : CollEntry) (t : Thread) : Prop where
  cur    : s.cur = .mcf port ctx cid
  entry  : s.entry? ctx cid = some e
  thread : s.thread? port ctx cid = some t
  ok     : t.failed = none

/-- Request `q` with a code stands at place `k` of what a partition has taken (R363). -/
structure Taken (s : State) (part k code q : Nat) : Prop where
  req  : (s.rings.getOr Ring.reset part).taken[k]? = some q
  code : reqCode q = code

/-- The state once that request has left the list. -/
def State.took (s : State) (part k : Nat) : State :=
  let r := s.rings.getOr Ring.reset part
  { s with rings := s.rings.put part { r with taken := r.taken.eraseIdx k } }

/-- The negotiation of an SPDM connection has come to a stage (R416). -/
def State.connected (s : State) (bus stage : Nat) : Prop := stage ≤ (spdmOf s bus).stage

end Sys2Proof.Machine
end

