-- ==== Sys2Proof/WellFormed.lean ====
section
/-! DEFINITION. Well-formed instructions: those whose own word carries no cause of the illegal-instruction trap that the
word alone decides (Table 9 of 02), and for MCF words no refusal cause (Table 14 of 19). -/

namespace Sys2Proof

/-- The lowest cause that an instruction's word carries by itself, none where it is well formed. For a lane word N is
taken as 640 and FPCTL[10:8] as 0; a smaller N or another FPCTL is looked at when the word issues (R20, R66, R69). -/
def wordCause (i : Instr) : Option Nat :=
  match i.stream with
  | .scalar => sysregCause i
  | .lane => laneIllegal (BitVec.ofNat 96 (laneNat i)) 640 0
  | .mcf => mcfCause (mcfNat i)
  | .event => none

/-- An instruction is well formed (an event always is). A conversion names a source type, an atomic one of three
scopes, a copy and a lane branch the form its constructor stands for: the encodings that other rows would share are
no words of theirs. -/
def wellFormed (i : Instr) : Bool :=
  (wordCause i == none) &&
  match i with
  | .vCopy f => f.dst.toNat % 2 == 0
  | .vCopyFo f => f.dst.toNat % 2 == 1
  | .vLbrAny f => f.imm.toNat / 2 ^ 16 % 2 == 0
  | .vLbrAll f => f.imm.toNat / 2 ^ 16 % 2 == 1
  | .vCvt src _ => src.toNat != 0x40
  | _ => true

end Sys2Proof
end

