-- ==== Sys2Proof/Certificates/Slice0/Obligations.lean ====
section
/-! DEFINITION. The statements of this row: what the instructions and the machine do, after the numbered rules of spec/. -/

open Sys2Proof Sys2Proof.Machine

/-! ## The scalar stream -/

/-- R115, Table 1 of 04: the integer operations of major 0x01. Their words (func[7] selects the .32 form, a func[6:0] above 0x12
is cause 2), and what each leaves in s[sd] for any three registers, the same register included: at width 64 with the count
b[5:0], and in the .32 form at width 32 with the count b[4:0] and the result sign-extended. The stream goes on to the next
word and nothing else changes. -/
def Obligations.ScalarIntegerOperations : Prop :=
  (∀ (d a b : BitVec 6),
    let word := fun func : Nat => decode .scalar (leBytes 4 (0x01 * 2 ^ 26 + d.toNat * 2 ^ 20 + a.toNat * 2 ^ 14 + b.toNat * 2 ^ 8 + func))
    (∀ func : Nat, func < 256 → 0x12 < func % 128 → word func = .illegal 2) ∧
    ∀ (code : Nat) (full half : Instr),
      (code, full, half) ∈ [(0x00, Instr.sAdd d a b, Instr.sAdd32 d a b), (0x01, .sSub d a b, .sSub32 d a b), (0x02, .sAnd d a b, .sAnd32 d a b),
        (0x03, .sOr d a b, .sOr32 d a b), (0x04, .sXor d a b, .sXor32 d a b), (0x05, .sShl d a b, .sShl32 d a b),
        (0x06, .sShr d a b, .sShr32 d a b), (0x07, .sSra d a b, .sSra32 d a b), (0x08, .sMul d a b, .sMul32 d a b),
        (0x09, .sMulh d a b, .sMulh32 d a b), (0x0A, .sMulhn d a b, .sMulhn32 d a b), (0x0B, .sDiv d a b, .sDiv32 d a b),
        (0x0C, .sDivn d a b, .sDivn32 d a b), (0x0D, .sRem d a b, .sRem32 d a b), (0x0E, .sRemn d a b, .sRemn32 d a b),
        (0x0F, .sMin d a b, .sMin32 d a b), (0x10, .sMax d a b, .sMax32 d a b), (0x11, .sMinn d a b, .sMinn32 d a b),
        (0x12, .sMaxn d a b, .sMaxn32 d a b)] →
      word code = .ok full ∧ word (0x80 + code) = .ok half) ∧
  (∀ (s : State) (c k j : Nat) (x : Snd) (d a b : BitVec 6), ScalarAt s c k j x →
     let p := x.sreg a.toNat
     let q := x.sreg b.toNat
     let n := q.toNat % 64
     exec (.sAdd d a b) s = .next (s.wrote c k j x d (p + q)) ∧
     exec (.sSub d a b) s = .next (s.wrote c k j x d (p - q)) ∧
     exec (.sAnd d a b) s = .next (s.wrote c k j x d (p &&& q)) ∧
     exec (.sOr d a b) s = .next (s.wrote c k j x d (p ||| q)) ∧
     exec (.sXor d a b) s = .next (s.wrote c k j x d (p ^^^ q)) ∧
     exec (.sShl d a b) s = .next (s.wrote c k j x d (p <<< n)) ∧
     exec (.sShr d a b) s = .next (s.wrote c k j x d (p >>> n)) ∧
     exec (.sSra d a b) s = .next (s.wrote c k j x d (p.sshiftRight n)) ∧
     exec (.sMul d a b) s = .next (s.wrote c k j x d (p * q)) ∧
     exec (.sMulh d a b) s = .next (s.wrote c k j x d (BitVec.ofInt 64 (p.toInt * q.toInt / 2 ^ 64))) ∧
     exec (.sMulhn d a b) s = .next (s.wrote c k j x d (BitVec.ofNat 64 (p.toNat * q.toNat / 2 ^ 64))) ∧
     exec (.sDiv d a b) s = .next (s.wrote c k j x d
       (if q = 0 then BitVec.allOnes 64 else BitVec.ofInt 64 (p.toInt.tdiv q.toInt))) ∧
     exec (.sDivn d a b) s = .next (s.wrote c k j x d (if q = 0 then BitVec.allOnes 64 else p / q)) ∧
     exec (.sRem d a b) s = .next (s.wrote c k j x d (if q = 0 then p else BitVec.ofInt 64 (p.toInt.tmod q.toInt))) ∧
     exec (.sRemn d a b) s = .next (s.wrote c k j x d (if q = 0 then p else p % q)) ∧
     exec (.sMin d a b) s = .next (s.wrote c k j x d (if q.slt p then q else p)) ∧
     exec (.sMax d a b) s = .next (s.wrote c k j x d (if p.slt q then q else p)) ∧
     exec (.sMinn d a b) s = .next (s.wrote c k j x d (if q.ult p then q else p)) ∧
     exec (.sMaxn d a b) s = .next (s.wrote c k j x d (if p.ult q then q else p))) ∧
  (∀ (s : State) (c k j : Nat) (x : Snd) (d a b : BitVec 6), ScalarAt s c k j x →
     let p := (x.sreg a.toNat).setWidth 32
     let q := (x.sreg b.toNat).setWidth 32
     let n := q.toNat % 32
     let put := fun v : BitVec 32 => s.wrote c k j x d (v.signExtend 64)
     exec (.sAdd32 d a b) s = .next (put (p + q)) ∧
     exec (.sSub32 d a b) s = .next (put (p - q)) ∧
     exec (.sAnd32 d a b) s = .next (put (p &&& q)) ∧
     exec (.sOr32 d a b) s = .next (put (p ||| q)) ∧
     exec (.sXor32 d a b) s = .next (put (p ^^^ q)) ∧
     exec (.sShl32 d a b) s = .next (put (p <<< n)) ∧
     exec (.sShr32 d a b) s = .next (put (p >>> n)) ∧
     exec (.sSra32 d a b) s = .next (put (p.sshiftRight n)) ∧
     exec (.sMul32 d a b) s = .next (put (p * q)) ∧
     exec (.sMulh32 d a b) s = .next (put (BitVec.ofInt 32 (p.toInt * q.toInt / 2 ^ 32))) ∧
     exec (.sMulhn32 d a b) s = .next (put (BitVec.ofNat 32 (p.toNat * q.toNat / 2 ^ 32))) ∧
     exec (.sDiv32 d a b) s = .next (put (if q = 0 then BitVec.allOnes 32 else BitVec.ofInt 32 (p.toInt.tdiv q.toInt))) ∧
     exec (.sDivn32 d a b) s = .next (put (if q = 0 then BitVec.allOnes 32 else p / q)) ∧
     exec (.sRem32 d a b) s = .next (put (if q = 0 then p else BitVec.ofInt 32 (p.toInt.tmod q.toInt))) ∧
     exec (.sRemn32 d a b) s = .next (put (if q = 0 then p else p % q)) ∧
     exec (.sMin32 d a b) s = .next (put (if q.slt p then q else p)) ∧
     exec (.sMax32 d a b) s = .next (put (if p.slt q then q else p)) ∧
     exec (.sMinn32 d a b) s = .next (put (if q.ult p then q else p)) ∧
     exec (.sMaxn32 d a b) s = .next (put (if p.ult q then q else p)))

/-- R116 to R119: addi, andi, ori, xori, the immediate shifts, lui and pcrel: their words, with cause 2 and cause 3 for the
shift words that are none, and what each leaves in s[sd]. The stream goes on to the next word and nothing else changes. -/
def Obligations.ScalarImmediateOperations : Prop :=
  (∀ (d a n : BitVec 6) (im : BitVec 14) (up : BitVec 20),
    let si := fun (op imm : Nat) => decode .scalar (leBytes 4 (op * 2 ^ 26 + d.toNat * 2 ^ 20 + a.toNat * 2 ^ 14 + imm))
    let su := fun op : Nat => decode .scalar (leBytes 4 (op * 2 ^ 26 + d.toNat * 2 ^ 20 + up.toNat))
    si 0x02 im.toNat = .ok (.sAddi d a im) ∧ si 0x03 im.toNat = .ok (.sAndi d a im) ∧ si 0x04 im.toNat = .ok (.sOri d a im) ∧
    si 0x05 im.toNat = .ok (.sXori d a im) ∧
    si 0x06 (0 * 2 ^ 12 + n.toNat) = .ok (.sShli d a n) ∧ si 0x06 (1 * 2 ^ 12 + n.toNat) = .ok (.sShri d a n) ∧
    si 0x06 (2 * 2 ^ 12 + n.toNat) = .ok (.sSrai d a n) ∧
    (∀ k : Nat, 3 * 2 ^ 12 ≤ k → k < 2 ^ 14 → si 0x06 k = .illegal 2) ∧
    (∀ k : Nat, k < 3 * 2 ^ 12 → k / 2 ^ 6 % 2 ^ 6 ≠ 0 → si 0x06 k = .illegal 3) ∧
    su 0x07 = .ok (.sLui d up) ∧ su 0x08 = .ok (.sPcrel d up)) ∧
  (∀ (s : State) (c k j : Nat) (x : Snd) (d a n : BitVec 6) (im : BitVec 14) (up : BitVec 20), ScalarAt s c k j x →
    let p := x.sreg a.toNat
    exec (.sAddi d a im) s = .next (s.wrote c k j x d (p + im.signExtend 64)) ∧
    exec (.sAndi d a im) s = .next (s.wrote c k j x d (p &&& im.signExtend 64)) ∧
    exec (.sOri d a im) s = .next (s.wrote c k j x d (p ||| im.signExtend 64)) ∧
    exec (.sXori d a im) s = .next (s.wrote c k j x d (p ^^^ im.signExtend 64)) ∧
    exec (.sShli d a n) s = .next (s.wrote c k j x d (p <<< n.toNat)) ∧
    exec (.sShri d a n) s = .next (s.wrote c k j x d (p >>> n.toNat)) ∧
    exec (.sSrai d a n) s = .next (s.wrote c k j x d (p.sshiftRight n.toNat)) ∧
    exec (.sLui d up) s = .next (s.wrote c k j x d (up.signExtend 64 <<< 14)) ∧
    exec (.sPcrel d up) s = .next (s.wrote c k j x d (BitVec.ofNat 64 x.pc + (up.signExtend 64 <<< 2))))

/-- R18, R120: cmp and cmpi: their words (bits [7:0] of cmp must be zero, cause 3), and their effect: the one condition they
name takes the relation of the code; a write to c0 has no effect and c0 always reads 1; a conditional branch reads the
condition it names. -/
def Obligations.ScalarComparesAndConditions : Prop :=
  (∀ (d cc : BitVec 3) (a b : BitVec 6) (im : BitVec 14),
    let word := fun (op low : Nat) =>
      decode .scalar (leBytes 4 (op * 2 ^ 26 + d.toNat * 2 ^ 23 + cc.toNat * 2 ^ 20 + a.toNat * 2 ^ 14 + low))
    word 0x09 (b.toNat * 2 ^ 8) = .ok (.sCmp d cc a b) ∧ word 0x0A im.toNat = .ok (.sCmpi d cc a im) ∧
    ∀ z : Nat, 0 < z → z < 256 → word 0x09 (b.toNat * 2 ^ 8 + z) = .illegal 3) ∧
  (∀ (s : State) (c k j : Nat) (x : Snd) (d cc : BitVec 3) (a b : BitVec 6) (im : BitVec 14), ScalarAt s c k j x →
    let rel := fun p q : Word =>
      match cc with
      | 0#3 => decide (p = q)
      | 1#3 => decide (p ≠ q)
      | 2#3 => decide (p.toInt < q.toInt)
      | 3#3 => decide (q.toInt ≤ p.toInt)
      | 4#3 => decide (p.toNat < q.toNat)
      | 5#3 => decide (q.toNat ≤ p.toNat)
      | 6#3 => decide (p &&& q ≠ 0)
      | 7#3 => decide (p &&& q = 0)
    ∀ (i : Instr) (q : Word),
      (i = .sCmp d cc a b ∧ q = x.sreg b.toNat) ∨ (i = .sCmpi d cc a im ∧ q = im.signExtend 64) →
      ∃ y, exec i s = .next (s.putSnd c k j y) ∧ y = { x with c := y.c, pc := x.pc + 4 } ∧
        (d = 0 → y.c = x.c) ∧
        (d ≠ 0 → ∀ n : Nat, y.c.getLsbD n = if n = d.toNat then rel (x.sreg a.toNat) q else x.c.getLsbD n) ∧
        (d ≠ 0 → y.cond d.toNat = rel (x.sreg a.toNat) q) ∧ y.cond 0 = true) ∧
  (∀ (s : State) (c k j : Nat) (x : Snd) (cn : BitVec 3) (o22 : BitVec 22), ScalarAt s c k j x → x.cond 0 = true ∧
    (x.cond cn.toNat = false → exec (.sBc cn 0 o22) s = .next (s.passed c k j x)) ∧
    (x.cond cn.toNat = true → exec (.sBc cn 1 o22) s = .next (s.passed c k j x)))

/-- R121, R122, R54: the control transfers: their words, with the causes of the words of major 0x0E that are none. Where the
target is a word of the scalar code section, bc goes there if its condition XOR neg holds (else on to the next word), jmp
and call relative to the PC, jmpr, callr and ret to a register's value; call and callr leave the offset of the next word in
s63, and callr reads its target first. Where it is not, the transfer is the exact trap "misaligned target", cause 0x05, and
s63 is not written either. A stream that has come to the end of its section takes the same trap with WORD zero, at its next
step. -/
def Obligations.ScalarTransfers : Prop :=
  (∀ (a : BitVec 6) (cn : BitVec 3) (n : BitVec 1) (o22 : BitVec 22) (o26 : BitVec 26),
    let word := fun (op low : Nat) => decode .scalar (leBytes 4 (op * 2 ^ 26 + low))
    word 0x0B (cn.toNat * 2 ^ 23 + n.toNat * 2 ^ 22 + o22.toNat) = .ok (.sBc cn n o22) ∧ word 0x0C o26.toNat = .ok (.sJmp o26) ∧
    word 0x0D o26.toNat = .ok (.sCall o26) ∧ word 0x0E (a.toNat * 2 ^ 14 + 0x00) = .ok (.sJmpr a) ∧
    word 0x0E (a.toNat * 2 ^ 14 + 0x01) = .ok (.sCallr a) ∧ word 0x0E 0x02 = .ok .sRet ∧
    (∀ k : Nat, k < 2 ^ 26 → 0x02 < k % 2 ^ 8 → word 0x0E k = .illegal 2) ∧
    (∀ k : Nat, k < 2 ^ 26 → k % 2 ^ 8 < 0x02 → k / 2 ^ 20 ≠ 0 ∨ k / 2 ^ 8 % 2 ^ 6 ≠ 0 → word 0x0E k = .illegal 3) ∧
    (∀ k : Nat, k < 2 ^ 26 → k % 2 ^ 8 = 0x02 → k ≠ 0x02 → word 0x0E k = .illegal 3)) ∧
  (∀ (s : State) (c k j : Nat) (x : Snd) (a : BitVec 6) (n : BitVec 1) (cn : BitVec 3) (o22 : BitVec 22) (o26 : BitVec 26),
    ScalarAt s c k j x →
    let inside := fun t : Word => t.toNat % 4 = 0 ∧ t.toNat < scalarSize s c x
    let near := BitVec.ofNat 64 x.pc + (o22.signExtend 64 <<< 2)
    let far := BitVec.ofNat 64 x.pc + (o26.signExtend 64 <<< 2)
    let go := fun t : Word => s.putSnd c k j { x with pc := t.toNat }
    let link := fun t : Word => s.putSnd c k j { x with s := x.s.setOr 0 63 (BitVec.ofNat 64 (x.pc + 4)), pc := t.toNat }
    let trap := takeTrap s c k j { cause := 0x05, word := scalarWord s c x }
    let holds := (x.cond cn.toNat ^^ (n == 1)) = true
    (holds → inside near → exec (.sBc cn n o22) s = .next (go near)) ∧
    (holds → ¬ inside near → exec (.sBc cn n o22) s = .next trap) ∧
    (¬ holds → exec (.sBc cn n o22) s = .next (s.passed c k j x)) ∧
    (inside far → exec (.sJmp o26) s = .next (go far) ∧ exec (.sCall o26) s = .next (link far)) ∧
    (¬ inside far → exec (.sJmp o26) s = .next trap ∧ exec (.sCall o26) s = .next trap) ∧
    (inside (x.sreg a.toNat) → exec (.sJmpr a) s = .next (go (x.sreg a.toNat)) ∧ exec (.sCallr a) s = .next (link (x.sreg a.toNat))) ∧
    (¬ inside (x.sreg a.toNat) → exec (.sJmpr a) s = .next trap ∧ exec (.sCallr a) s = .next trap) ∧
    (inside (x.sreg 63) → exec .sRet s = .next (go (x.sreg 63))) ∧
    (¬ inside (x.sreg 63) → exec .sRet s = .next trap)) ∧
  (∀ (s : State) (rest : List Agent) (c k q j : Nat) (x : Snd), s.agenda = .scalar k q :: rest → issuingCtx s k = some c →
    (s.coreOf k).scalPort.find q = some j → s.snd? c k j = some x → x.mayIssue = true → x.wait = .ready → revoked s c = false →
    x.pc = scalarSize s c x →
    let u : State := { s with agenda := rest, freeCtr := s.freeCtr + freeStride }
    step s = .next (takeTrap (dropScalGrant u k q) c k j { cause := 0x05, word := 0 }))

/-- R110, R112, R114: the frame of the register-only scalar instructions (integer operations, immediates, lui, pcrel, compares,
rdtime): when one answers a next state, every byte of memory reads as before, every other party's sounder is as it was, and
of the sounder itself nothing changes but the destination register, the conditions and the pc. -/
def Obligations.ScalarRegisterFrame : Prop :=
  ∀ (i : Instr) (s t : State) (d a b n : BitVec 6) (im : BitVec 14) (up : BitVec 20) (e cc : BitVec 3),
    i ∈ [.sAdd d a b, .sAdd32 d a b, .sSub d a b, .sSub32 d a b, .sAnd d a b, .sAnd32 d a b, .sOr d a b, .sOr32 d a b,
         .sXor d a b, .sXor32 d a b, .sShl d a b, .sShl32 d a b, .sShr d a b, .sShr32 d a b, .sSra d a b, .sSra32 d a b,
         .sMul d a b, .sMul32 d a b, .sMulh d a b, .sMulh32 d a b, .sMulhn d a b, .sMulhn32 d a b, .sDiv d a b,
         .sDiv32 d a b, .sDivn d a b, .sDivn32 d a b, .sRem d a b, .sRem32 d a b, .sRemn d a b, .sRemn32 d a b,
         .sMin d a b, .sMin32 d a b, .sMax d a b, .sMax32 d a b, .sMinn d a b, .sMinn32 d a b, .sMaxn d a b, .sMaxn32 d a b,
         .sAddi d a im, .sAndi d a im, .sOri d a im, .sXori d a im, .sShli d a n, .sShri d a n, .sSrai d a n, .sLui d up,
         .sPcrel d up, .sCmp e cc a b, .sCmpi e cc a im, .sRdtime d] →
    exec i s = .next t →
    ∃ c k j x y, s.cur = .scalar c k j ∧ s.snd? c k j = some x ∧ t = s.putSnd c k j y ∧
      (∀ m : Nat, t.readPA m = s.readPA m) ∧
      (∀ m : Nat, t.hmem.getOr 0 m = s.hmem.getOr 0 m) ∧
      (∀ r : Nat, r ≠ d.toNat → y.sreg r = x.sreg r) ∧
      y = { x with s := y.s, c := y.c, pc := x.pc + 4 } ∧
      (∀ m : Nat, m ≠ j → t.snd? c k m = s.snd? c k m) ∧
      (∀ c' k' m : Nat, ccKey c' k' ≠ ccKey c k → t.snd? c' k' m = s.snd? c' k' m)

/-- R124, R125: a scalar load whose checks pass at a local byte address, with no earlier store of its stream left, no atomic of
scope .core between its read and its write on the core (R173), no unreleased write of another core's engine (R317) and no
uncorrectable error there, and whose context's key slot is not revoked, puts the little-endian value at that address into
s[sd], sign-extended for the i types and zero-extended for the n types, and goes on to the next word: nothing else changes.
Under a revoked key the context halts (R413). -/
def Obligations.ScalarLoadResults : Prop :=
  ∀ (s : State) (c k j : Nat) (x : Snd) (d a : BitVec 6) (im : BitVec 14) (tier : Bool) (pa : Nat), ScalarAt s c k j x →
    let ea := (x.sreg a.toNat + im.signExtend 64).toNat
    x.scalarPending = false → coreSplit s k = false →
    (revoked s c = true → scalarProbe s c x ea 8 false = .ok (.mem tier pa) →
      exec (.sSldI64 d a im) s = .next (haltRevoked s c x.idx k 0 ea)) ∧
    (revoked s c = false → s.poisoned pa = false →
    (scalarProbe s c x ea 1 false = .ok (.mem tier pa) → s.lags k pa 1 = false →
      exec (.sSldI8 d a im) s = .next (s.wrote c k j x d ((BitVec.ofNat 8 (s.readN pa 1)).signExtend 64)) ∧
      exec (.sSldN8 d a im) s = .next (s.wrote c k j x d ((BitVec.ofNat 8 (s.readN pa 1)).setWidth 64))) ∧
    (scalarProbe s c x ea 2 false = .ok (.mem tier pa) → s.lags k pa 2 = false →
      exec (.sSldI16 d a im) s = .next (s.wrote c k j x d ((BitVec.ofNat 16 (s.readN pa 2)).signExtend 64)) ∧
      exec (.sSldN16 d a im) s = .next (s.wrote c k j x d ((BitVec.ofNat 16 (s.readN pa 2)).setWidth 64))) ∧
    (scalarProbe s c x ea 4 false = .ok (.mem tier pa) → s.lags k pa 4 = false →
      exec (.sSldI32 d a im) s = .next (s.wrote c k j x d ((BitVec.ofNat 32 (s.readN pa 4)).signExtend 64)) ∧
      exec (.sSldN32 d a im) s = .next (s.wrote c k j x d ((BitVec.ofNat 32 (s.readN pa 4)).setWidth 64))) ∧
    (scalarProbe s c x ea 8 false = .ok (.mem tier pa) → s.lags k pa 8 = false →
      exec (.sSldI64 d a im) s = .next (s.wrote c k j x d (BitVec.ofNat 64 (s.readN pa 8)))))

/-- R124 to R126: a scalar store whose checks pass takes one free entry of the operand log with the low bytes of s[sd] and its
address, and retires; memory, every register and every other entry are as before, and the bytes are written when the entry
is performed. With no free entry it stays where it is. That the entry is the lowest free one is the model's choice
(assumption log 80). -/
def Obligations.ScalarStoreTakesLogEntry : Prop :=
  ∀ (s : State) (c k j : Nat) (x : Snd) (v a : BitVec 6) (im : BitVec 14) (loc : Loc) (i : Instr) (n : Nat),
    ScalarAt s c k j x →
    (i, n) ∈ [(.sSstN8 v a im, 1), (.sSstN16 v a im, 2), (.sSstN32 v a im, 4), (.sSstN64 v a im, 8)] →
    let ea := (x.sreg a.toNat + im.signExtend 64).toNat
    scalarProbe s c x ea n true = .ok loc →
    (x.freeEntry = none → exec i s = .next s) ∧
    (∀ m : Nat, x.freeEntry = some m →
      ∃ (t : State) (e : LogEntry), exec i s = .next t ∧
        t = s.putSnd c k j { x with oplog := x.oplog.put m e, seq := x.seq + 1, pc := x.pc + 4 } ∧
        e.kind = .scalarStore ∧ e.slices = 0 ∧ e.held = [] ∧ tySize e.ty = n ∧
        e.todo = [{ lane := 0, va := ea, loc := loc, data := (x.sreg v.toNat).toNat % 2 ^ (8 * n), new := 0, sent := false }] ∧
        (∀ p : Nat, t.readPA p = s.readPA p))

/-- R124, R45: the checks of a scalar access in their order, each with its cause: out of range, misaligned, in an alias window,
not translated for the access, in a record marked CONST. A check that fails is an exact trap with the address. -/
def Obligations.ScalarAccessChecksInOrder : Prop :=
  ∀ (s : State) (c k j : Nat) (x : Snd) (ea n : Nat) (w : Bool), 0 < n →
    (2 ^ 56 ≤ ea → scalarProbe s c x ea n w = .error 0x10) ∧
    (ea < 2 ^ 56 → ea % n ≠ 0 → scalarProbe s c x ea n w = .error 0x11) ∧
    (ea < 2 ^ 56 → ea % n = 0 → ∀ (en va : Nat), translate s c ea false false = .ok (.aliasWin en va) →
      scalarProbe s c x ea n w = .error 0x12) ∧
    (ea < 2 ^ 56 → ea % n = 0 → inAlias s c ea = false →
      (∀ dt : Nat, translate s c ea (!w) w = .fail dt → scalarProbe s c x ea n w = .error 0x1B) ∧
      (∀ loc : Loc, translate s c ea (!w) w = .ok loc →
        scalarProbe s c x ea n w = if w && constHit s c x.image ea n then .error 0x14 else .ok loc)) ∧
    (ScalarAt s c k j x → ∀ (d a : BitVec 6) (im : BitVec 14) (e : Nat),
      ea = (x.sreg a.toNat + im.signExtend 64).toNat → scalarProbe s c x ea n w = .error e →
      ∀ i : Instr,
        (i, n, w) ∈ [(.sSldI8 d a im, 1, false), (.sSldN8 d a im, 1, false), (.sSldI16 d a im, 2, false),
          (.sSldN16 d a im, 2, false), (.sSldI32 d a im, 4, false), (.sSldN32 d a im, 4, false), (.sSldI64 d a im, 8, false),
          (.sSstN8 d a im, 1, true), (.sSstN16 d a im, 2, true), (.sSstN32 d a im, 4, true), (.sSstN64 d a im, 8, true)] →
        exec i s = .next (takeTrap s c k j { cause := e, word := scalarWord s c x, addr := ea }))

/-- R127, R19: lrun appends a block with the entry's place and length, the activity mask of s56 to s58, the eight block
constants from s[8k] up and the control registers lanes see; with four blocks queued it stays; an entry that fails its check
is an illegal instruction of cause 4. -/
def Obligations.LrunQueuesBlock : Prop :=
  ∀ (s : State) (c co j : Nat) (x : Snd) (k : BitVec 3) (b : BitVec 12), ScalarAt s c co j x →
    (tableEntry s c x b.toNat = none →
      exec (.sLrun k b) s = .next (takeTrap s c co j { cause := 0x01, ill := 4, word := scalarWord s c x })) ∧
    (∀ en len : Nat, tableEntry s c x b.toNat = some (en, len) → 4 ≤ x.queue.length → exec (.sLrun k b) s = .next s) ∧
    (∀ en len : Nat, tableEntry s c x b.toNat = some (en, len) → x.queue.length < 4 →
      ∃ blk : Block, exec (.sLrun k b) s = .next (s.putSnd c co j { x with queue := x.queue ++ [blk], pc := x.pc + 4 }) ∧
        blk.index = b.toNat ∧ blk.entry = en ∧ blk.len = len ∧
        blk.mask = (x.sreg 56).toNat % 2 ^ 32 + (x.sreg 57).toNat % 2 ^ 32 * 2 ^ 32 + (x.sreg 58).toNat % 2 ^ 32 * 2 ^ 64 ∧
        blk.k.length = 8 ∧ (∀ n : Nat, n < 8 → blk.k[n]? = some (x.sreg (8 * k.toNat + n))) ∧
        blk.fpctl = x.fpctlSeen ∧ blk.ructl = x.ructlSeen)

/-- R129 to R131: the scalar fences and lsync go on, and change nothing but what they say, once what they wait for is done;
until then they stay. For what they wait is the model's reading: lsync and sfence.local until the stream's earlier stores
are performed (assumption log 81), and a fence in handler mode not for the held accesses of the interrupted stream
(assumption log 62). -/
def Obligations.ScalarFencesWaitThenPass : Prop :=
  ∀ (s : State) (c k j : Nat) (x : Snd), ScalarAt s c k j x →
    (exec .sLsync s = .next (if x.lsyncDone = true ∧ x.scalarPending = false then
      s.putSnd c k j { x with joined := x.seq, fpctlSeen := x.fpctl, ructlSeen := x.ructl, pc := x.pc + 4 } else s)) ∧
    (exec .sSfenceLocal s = .next (if x.scalarPending = false then
      s.putSnd c k j { x with fpctlSeen := x.fpctl, ructlSeen := x.ructl, pc := x.pc + 4 } else s)) ∧
    (exec .sSfenceCore s = .next (if x.fenceDone false = true then s.passed c k j x else s)) ∧
    (exec .sSfencePkg s = .next (if x.fenceDone false = true then s.passed c k j x else s)) ∧
    (exec .sSfenceSys s = .next (if x.fenceDone true = true then s.passed c k j x else s))

/-- R26, R227, R229, Tables 2, 3 and 5 of 01: sysrd reads each listed register, syswr changes the writable bits of each writable
one and nothing else, and a number that is not listed, or for syswr is not writable, is an illegal instruction of cause 4.
The value read is that of Table 2: the control register, counter or clock itself, EVSTAT packed of MASKED, PENDING and
ARMED, the binding of an event slot, the declared names, the domain and the index of the sounder, and of a tile of the share
its status bits (of any other tile 0). rdtime writes the package's cycle counter. -/
def Obligations.SystemRegistersReadAndWrite : Prop :=
  ∀ (s : State) (c k j : Nat) (x : Snd) (d a : BitVec 6) (r : BitVec 12), ScalarAt s c k j x →
    let v := x.sreg a.toNat
    let bad := takeTrap s c k j { cause := 0x01, ill := 4, word := scalarWord s c x }
    let wr := fun y : Snd => s.putSnd c k j { y with pc := x.pc + 4 }
    (r.toNat < 0x04 ∨ 0x08 ≤ r.toNat ∧ r.toNat < 0x14 ∨ 0x20 ≤ r.toNat ∧ r.toNat < 0x25 ∨ 0x40 ≤ r.toNat ∧ r.toNat < 0x50 →
      ∃ val : Word, exec (.sSysrd d r) s = .next (s.wrote c k j x d val) ∧
        (r = 0x000 → val = x.fpctl) ∧ (r = 0x001 → val = x.fpstat) ∧ (r = 0x002 → val = x.ructl) ∧
        (r = 0x003 → val = BitVec.ofNat 64 (x.masked.toNat * 2 ^ 16 + x.pending.toNat * 2 ^ 8 + x.armed.toNat)) ∧
        (∀ n : Nat, n < 8 → r.toNat = 8 + n → val = x.evbind.getOr 0 n) ∧
        (r = 0x010 → val = BitVec.ofNat 64 x.n) ∧
        (r = 0x011 → ∀ cx : Ctx, s.ctx? c = some cx → val = BitVec.ofNat 64 (cx.domain % 4096)) ∧
        (r = 0x012 → val = BitVec.ofNat 64 x.idx) ∧ (r = 0x013 → val = x.lclock) ∧
        (r = 0x020 → val = x.rlook) ∧ (r = 0x021 → val = x.rhits) ∧ (r = 0x022 → val = x.rshare) ∧
        (r = 0x023 → val = x.rsatur) ∧ (r = 0x024 → val = x.rpark) ∧
        (∀ n : Nat, n < 16 → r.toNat = 0x40 + n →
          (n ∉ (s.ccOf c k).share.tiles → val = 0) ∧
          (n ∈ (s.ccOf c k).share.tiles →
            let t := (s.ccOf c k).tiles.getOr Tile.reset n
            val.getLsbD 4 = true ∧ val.getLsbD 3 = t.isInt ∧ val.getLsbD 2 = (t.inflight != 0) ∧ val.getLsbD 1 = t.dirty ∧
            val.getLsbD 0 = t.valid ∧ ∀ b : Nat, 5 ≤ b → val.getLsbD b = false))) ∧
    (¬ (r.toNat < 0x04 ∨ 0x08 ≤ r.toNat ∧ r.toNat < 0x14 ∨ 0x20 ≤ r.toNat ∧ r.toNat < 0x25 ∨ 0x40 ≤ r.toNat ∧ r.toNat < 0x50) →
      exec (.sSysrd d r) s = .next bad) ∧
    (¬ (r.toNat < 0x04 ∨ 0x20 ≤ r.toNat ∧ r.toNat < 0x25) → exec (.sSyswr a r) s = .next bad) ∧
    (r = 0x000 → exec (.sSyswr a r) s = .next (wr { x with fpctl := v &&& 0x71F })) ∧
    (r = 0x001 → exec (.sSyswr a r) s = .next (wr { x with fpstat := v &&& 0x1F })) ∧
    (r = 0x002 → exec (.sSyswr a r) s = .next (wr { x with ructl := v &&& 0x1F })) ∧
    (r = 0x003 → exec (.sSyswr a r) s = .next
      (wr { x with masked := BitVec.ofNat 8 (v.toNat / 2 ^ 16), pending := x.pending &&& ~~~BitVec.ofNat 8 (v.toNat / 2 ^ 8) })) ∧
    (r = 0x020 → exec (.sSyswr a r) s = .next (wr { x with rlook := v })) ∧
    (r = 0x021 → exec (.sSyswr a r) s = .next (wr { x with rhits := v })) ∧
    (r = 0x022 → exec (.sSyswr a r) s = .next (wr { x with rshare := v })) ∧
    (r = 0x023 → exec (.sSyswr a r) s = .next (wr { x with rsatur := v })) ∧
    (r = 0x024 → exec (.sSyswr a r) s = .next (wr { x with rpark := v })) ∧
    exec (.sRdtime d) s = .next (s.wrote c k j x d (BitVec.ofNat 64 s.plat.cycle))

/-! ## Barriers, dreys, events and mailboxes -/

/-- R214 to R216, R293, R294: join takes a rank, leave gives it up, bar.arrive counts an arrival of n > 0 once the sounder is
idle (and for n = 0 only reads the phase), bar.wait returns where its phase has passed, and bar.sync arrives and then waits.
After each change the test of R212 is made. In deterministic mode a synchronising operation, once the sounder is idle, waits
while its stamp is not less than that of every counted party, and then takes the same effect; a waiting party is skipped
until every member of the drey has arrived in its phase and is then counted with the greatest clock of the arrivals. R211,
R214 to R216: a barrier reference outside the share is the exact trap 0x03; an arrival or a departure without a rank is
0x31; an arrival beyond NEED, or a count above 16 bits, is 0x3D; a join that cannot be is 0x3A, 0x3B or 0x3C. -/
def Obligations.BarrierInstructions : Prop :=
  (∀ (s : State) (c k j : Nat) (x : Snd) (d a b : BitVec 6), ScalarAt s c k j x →
     let v := (x.sreg a.toNat).toNat
     let w := (x.sreg b.toNat).toNat
     let ref := v % 2 ^ 18
     let rc := refCore ref
     let rn := refNumber ref
     let bar := barrierOf s c rc rn
     let joined : Snd := { x with joined := x.seq, fpctlSeen := x.fpctl, ructlSeen := x.ructl, wait := .ready }
     let turn : Prop := x.determ = false ∨ ∀ p ∈ dreyParties s c ref, p.uid = x.uid ∨ stampOf s c p = none ∨
       ∃ t, stampOf s c p = some t ∧ (x.lclock.toNat < t.1 ∨ x.lclock.toNat = t.1 ∧ x.idx < t.2)
     let launchTurn : Prop := ∀ p ∈ launchParties s c x.launch, p.uid = x.uid ∨ stampOf s c p = none ∨
       ∃ t, stampOf s c p = some t ∧ (x.lclock.toNat < t.1 ∨ x.lclock.toNat = t.1 ∧ x.idx < t.2)
     let waits := Host.Outcome.next (ρ := Refusal) (φ := Fault) (s.putSnd c k j { x with wait := .det (scalarWord s c x) })
     -- the stamp of a counted party
     (∀ p : Snd, (p.barWait = none → stampOf s c p = some (p.lclock.toNat, p.idx)) ∧
       ∀ (r tok : Nat), p.barWait = some (r, tok) →
         let q := barrierOf s c (refCore r) (refNumber r)
         (phasePassed q tok = true → stampOf s c p = some (p.lclock.toNat, p.idx)) ∧
         (phasePassed q tok = false → q.phase.toNat = tok % 2 ^ 56 → (∀ m ∈ q.ranks, m.2.2.1 ≠ 0) →
           stampOf s c p = some (max p.lclock.toNat q.clock, p.idx)) ∧
         (phasePassed q tok = false → (q.phase.toNat ≠ tok % 2 ^ 56 ∨ ∃ m ∈ q.ranks, m.2.2.1 = 0) → stampOf s c p = none)) ∧
     (refGranted s c ref = true →
     -- join
     (∀ r : Nat, joinRank bar k j v = .ok r → (x.determ = true → x.Idle ∧ launchTurn) →
       ∃ bar' : Barrier, exec (.sJoin d a) s = .next
           (testPhase (putBarrier (s.putSnd c k j ((((if x.determ then joined else { x with wait := .ready }) : Snd).entered ref).setS
             d.toNat (BitVec.ofNat 64 r)).adv) c rc rn bar') c rc rn) ∧
         bar'.drey = true ∧ bar'.ranks.find r = some (16 * k + j, 0, 0) ∧
         bar'.members = (if bar.drey then bar.members else 0) + 1 ∧ bar'.phase = bar.phase) ∧
     (x.determ = true → x.Idle → ¬ launchTurn → exec (.sJoin d a) s = waits) ∧
     -- leave
     (∀ r : Nat, rankOf bar k j = some r → x.Idle → turn →
       exec (.sLeave a) s = .next (leaveDrey (s.putSnd c k j (joined.left ref).adv) c ref r 0)) ∧
     -- bar.arrive with n = 0
     (w = 0 → exec (.sBarArrive d a b) s = .next (s.wrote c k j x d (BitVec.ofNat 64 bar.phase.toNat))) ∧
     -- bar.arrive
     (∀ r : Nat, rankOf bar k j = some r → x.Idle → turn → 0 < w → w < 2 ^ 16 → bar.arrived + w ≤ bar.need →
       ∃ bar' : Barrier, exec (.sBarArrive d a b) s = .next
           (testPhase (putBarrier ((wake s c rc).putSnd c k j
             (((joined.setS d.toNat (BitVec.ofNat 64 bar.phase.toNat)).adv).entered ref)) c rc rn bar') c rc rn) ∧
         bar'.arrived = bar.arrived + w ∧ bar'.phase = bar.phase) ∧
     -- bar.wait
     (exec (.sBarWait d a b) s = .next (if phasePassed bar w then
         s.wrote c k j { x with wait := .ready } d (BitVec.ofNat 64 (bar.lastStat.toNat * 2 ^ 56 + (bar.phase - 1).toNat))
       else s.putSnd c k j { x with wait := .bar d.toNat ref (w % 2 ^ 56) })) ∧
     -- bar.sync
     (∀ r : Nat, rankOf bar k j = some r → x.Idle → turn → bar.arrived + 1 ≤ bar.need →
       ∃ bar' : Barrier, exec (.sBarSync d a) s = .next
           (testPhase (putBarrier ((wake s c rc).putSnd c k j
             (({ joined with wait := .bar d.toNat ref bar.phase.toNat } : Snd).entered ref)) c rc rn bar') c rc rn) ∧
         bar'.arrived = bar.arrived + 1 ∧ bar'.phase = bar.phase) ∧
     -- the turn of a member
     (∀ r : Nat, rankOf bar k j = some r → x.Idle → ¬ turn →
       exec (.sLeave a) s = waits ∧ exec (.sBarSync d a) s = waits ∧
       (0 < w → w < 2 ^ 16 → exec (.sBarArrive d a b) s = waits)))) ∧
  (∀ (s : State) (c k j : Nat) (x : Snd) (d a b : BitVec 6), ScalarAt s c k j x →
     let v := (x.sreg a.toNat).toNat
     let w := (x.sreg b.toNat).toNat
     let ref := v % 2 ^ 18
     let bar := barrierOf s c (refCore ref) (refNumber ref)
     let trap := fun cause : Nat => Host.Outcome.next (ρ := Refusal) (φ := Fault)
       (takeTrap s c k j { cause := cause, word := scalarWord s c x })
     (refGranted s c ref = false → ∀ i ∈ [.sJoin d a, .sLeave a, .sBarArrive d a b, .sBarWait d a b, .sBarSync d a],
       exec i s = trap 0x03) ∧
     (refGranted s c ref = true → rankOf bar k j = none →
       exec (.sLeave a) s = trap 0x31 ∧ exec (.sBarSync d a) s = trap 0x31 ∧
       (w % 2 ^ 16 ≠ 0 → exec (.sBarArrive d a b) s = trap 0x31)) ∧
     (refGranted s c ref = true → w % 2 ^ 16 = 0 → 2 ^ 16 ≤ w → exec (.sBarArrive d a b) s = trap 0x3D) ∧
     (refGranted s c ref = true → ∀ r : Nat, rankOf bar k j = some r →
       (2 ^ 16 ≤ w → exec (.sBarArrive d a b) s = trap 0x3D) ∧
       (x.Idle → detTurn s c x (dreyParties s c ref) = true →
         (0 < w → w < 2 ^ 16 → bar.need < bar.arrived + w → exec (.sBarArrive d a b) s = trap 0x3D) ∧
         (bar.need < bar.arrived + 1 → exec (.sBarSync d a) s = trap 0x3D))) ∧
     (refGranted s c ref = true →
       (x.determ = true → x.Idle ∧ detTurn s c x (launchParties s c x.launch) = true) → ∀ e : Nat, joinRank bar k j v = .error e →
       (e = 0x3A ∨ e = 0x3B ∨ e = 0x3C) ∧ exec (.sJoin d a) s = trap e))

/-- R218: evdisarm: its word (sa and sb must be zero, cause 3), and its effect: ARMED[j], PENDING[j] and EVBINDj become 0,
MASKED is unchanged, and nothing else changes but the PC (and that a timer of the slot no longer runs). -/
def Obligations.EvdisarmClearsSlot : Prop :=
  (∀ (e a b : BitVec 6),
    let word := fun low : Nat => decode .scalar (leBytes 4 (0x25 * 2 ^ 26 + e.toNat * 2 ^ 20 + low))
    word 0x01 = .ok (.sEvdisarm e) ∧
    (a ≠ 0 ∨ b ≠ 0 → word (a.toNat * 2 ^ 14 + b.toNat * 2 ^ 8 + 0x01) = .illegal 3)) ∧
  (∀ (s : State) (c k j : Nat) (x : Snd) (e : BitVec 6), ScalarAt s c k j x →
    (8 ≤ e.toNat → exec (.sEvdisarm e) s = .next (takeTrap s c k j { cause := 0x01, ill := 3, word := scalarWord s c x })) ∧
    (e.toNat < 8 → ∃ y, exec (.sEvdisarm e) s = .next (s.putSnd c k j y) ∧
      (∀ n : Nat, y.armed.getLsbD n = (x.armed.getLsbD n && n != e.toNat)) ∧
      (∀ n : Nat, y.pending.getLsbD n = (x.pending.getLsbD n && n != e.toNat)) ∧
      (∀ n : Nat, y.evbind.getOr 0 n = if n = e.toNat then 0 else x.evbind.getOr 0 n) ∧
      (∀ n : Nat, y.timers.find n = if n = e.toNat then none else x.timers.find n) ∧ y.masked = x.masked ∧
      y = { x with evbind := y.evbind, armed := y.armed, pending := y.pending, timers := y.timers, pc := x.pc + 4 }))

/-- R217, R218, R220: evarm binds a slot and arms it, with a timer for kind 4 and a PENDING already set for a message that has
arrived; evdisarm clears the slot; waitany takes the lowest slot that is armed, not masked and pending, writes the return
offset and the slot, clears PENDING (and, of a timer, ARMED) and goes to the handler, with everything else as it was; with
none pending it parks, and with none armed it is the trap 0x39. An invalid binding is the trap 0x38, an object outside the
share 0x03 and a handler that is no scalar word 0x05, in that order, and the slot is as before. -/
def Obligations.EventInstructionsComplete : Prop :=
  ∀ (s : State) (c k j : Nat) (x : Snd) (d e a : BitVec 6), ScalarAt s c k j x →
    let b := x.sreg a.toNat
    let n := e.toNat
    (n < 8 → bindingBad b = false → bindingGranted s c k b = true → bindHandler b % 4 = 0 →
      bindHandler b < scalarSize s c x →
      ∃ y, exec (.sEvarm e a) s = .next (s.putSnd c k j y) ∧ y.evbind.getOr 0 n = b ∧ y.armed.getLsbD n = true ∧
        (y.pending.getLsbD n = true ↔ bindKind b = 3 ∧ ∃ r, mailOf s c k (bindObject b) = .arrived r) ∧
        y.timers.find n = (if bindKind b = 4 then some (s.plat.cycle + 64 * bindObject b) else none) ∧
        (∀ m : Nat, m < 8 → m ≠ n → y.evbind.getOr 0 m = x.evbind.getOr 0 m ∧ y.armed.getLsbD m = x.armed.getLsbD m ∧
          y.pending.getLsbD m = x.pending.getLsbD m ∧ y.timers.find m = x.timers.find m) ∧
        y = { x with evbind := y.evbind, armed := y.armed, pending := y.pending, timers := y.timers, pc := x.pc + 4 }) ∧
    (n < 8 →
      let trap := fun cause : Nat => Host.Outcome.next (ρ := Refusal) (φ := Fault)
        (takeTrap s c k j { cause := cause, word := scalarWord s c x })
      let bad := bindKind b = 0 ∨ 5 ≤ bindKind b ∨ bindKind b = 1 ∧ 2 ^ 9 ≤ bindObject b ∨ bindKind b = 2 ∧ 2 ^ 8 ≤ bindObject b ∨
        bindKind b = 3 ∧ 2 ^ 5 ≤ bindObject b
      let granted := (bindKind b = 1 → bindObject b ∈ (s.ccOf c k).share.barriers) ∧
        (bindKind b = 2 → bindObject b ∈ (s.ccOf c k).share.handles) ∧ (bindKind b = 3 → bindObject b ∈ (s.ccOf c k).share.mailboxes)
      (bad → exec (.sEvarm e a) s = trap 0x38) ∧
      (¬ bad → ¬ granted → exec (.sEvarm e a) s = trap 0x03) ∧
      (¬ bad → granted → (bindHandler b % 4 ≠ 0 ∨ scalarSize s c x ≤ bindHandler b) → exec (.sEvarm e a) s = trap 0x05)) ∧
    (n < 8 →
      ∃ y, exec (.sEvdisarm e) s = .next (s.putSnd c k j y) ∧ y.evbind.getOr 0 n = 0 ∧ y.armed.getLsbD n = false ∧
        y.pending.getLsbD n = false ∧ y.timers.find n = none ∧
        (∀ m : Nat, m < 8 → m ≠ n → y.evbind.getOr 0 m = x.evbind.getOr 0 m ∧ y.armed.getLsbD m = x.armed.getLsbD m ∧
          y.pending.getLsbD m = x.pending.getLsbD m ∧ y.timers.find m = x.timers.find m) ∧
        y = { x with evbind := y.evbind, armed := y.armed, pending := y.pending, timers := y.timers, pc := x.pc + 4 }) ∧
    (8 ≤ n → exec (.sEvarm e a) s = .next (takeTrap s c k j { cause := 0x01, ill := 3, word := scalarWord s c x }) ∧
      exec (.sEvdisarm e) s = .next (takeTrap s c k j { cause := 0x01, ill := 3, word := scalarWord s c x })) ∧
    (x.armed &&& ~~~x.masked = 0 →
      exec (.sWaitany d) s = .next (takeTrap s c k j { cause := 0x39, word := scalarWord s c x })) ∧
    (∀ m : Nat, x.eligible = some m →
      m < 8 ∧ (x.armed &&& ~~~x.masked &&& x.pending).getLsbD m = true ∧
        (∀ l : Nat, l < m → (x.armed &&& ~~~x.masked &&& x.pending).getLsbD l = false) ∧
      ∃ t y, exec (.sWaitany d) s = .next t ∧ t = s.putSnd c k j y ∧ y.pc = bindHandler (x.evbind.getOr 0 m) ∧
        y.sreg d.toNat = (BitVec.ofNat 64 (x.pc + 4) <<< 32 ||| BitVec.ofNat 64 m) ∧
        (∀ r : Nat, r ≠ d.toNat → y.sreg r = x.sreg r) ∧
        (∀ l : Nat, l < 8 → y.pending.getLsbD l = (x.pending.getLsbD l && l != m) ∧
          y.armed.getLsbD l = (x.armed.getLsbD l && !(l == m && bindKind (x.evbind.getOr 0 m) == 4))) ∧
        y = { x with s := y.s, pending := y.pending, armed := y.armed, pc := y.pc, wait := .ready } ∧
        (∀ p : Nat, t.readPA p = s.readPA p)) ∧
    (x.armed &&& ~~~x.masked ≠ 0 → x.eligible = none →
      exec (.sWaitany d) s = .next (s.putSnd c k j { x with wait := .waitany d.toNat }))

/-- R223, R225, R226: mbpost posts a buffer to a closed mailbox of the share; mbrecv takes an arrived record and closes the
mailbox, or waits while a buffer is posted; mbsend reads its bytes as scalar loads and, once the stream's accesses are
performed, sends them, at once within the package and in its ordered stream to another; a byte that faults is an exact trap,
and a byte behind a window is loaded there. An operand out of form is the trap 0x40, a slot outside the share 0x03, a
mailbox that is not closed 0x3E for mbpost, and one that is closed 0x3F for mbrecv. -/
def Obligations.MailboxInstructionsComplete : Prop :=
  ∀ (s : State) (c k j : Nat) (x : Snd) (d a b : BitVec 6), ScalarAt s c k j x →
    let u := (x.sreg a.toNat).toNat
    let v := (x.sreg b.toNat).toNat
    let trap := fun cause : Nat => Host.Outcome.next (ρ := Refusal) (φ := Fault)
      (takeTrap s c k j { cause := cause, word := scalarWord s c x })
    (∀ slot len : Nat, slot < 32 → len ≤ 256 → v = slot + len * 2 ^ 32 →
      (slot ∉ (s.ccOf c k).share.mailboxes → exec (.sMbpost a b) s = trap 0x03) ∧
      (slot ∈ (s.ccOf c k).share.mailboxes →
        (mailOf s c k slot = .closed → exec (.sMbpost a b) s = .next (putMail (s.passed c k j x) c k slot (.posted u len))) ∧
        (mailOf s c k slot ≠ .closed → exec (.sMbpost a b) s = trap 0x3E))) ∧
    ((¬ ∃ slot len : Nat, slot < 32 ∧ len ≤ 256 ∧ v = slot + len * 2 ^ 32) → exec (.sMbpost a b) s = trap 0x40) ∧
    (u % 32 ∉ (s.ccOf c k).share.mailboxes → exec (.sMbrecv d a) s = trap 0x03) ∧
    (u % 32 ∈ (s.ccOf c k).share.mailboxes →
      (∀ r : Word, mailOf s c k (u % 32) = .arrived r →
        exec (.sMbrecv d a) s = .next (putMail (s.wrote c k j { x with wait := .ready } d r) c k (u % 32) .closed)) ∧
      (∀ ad n : Nat, mailOf s c k (u % 32) = .posted ad n →
        exec (.sMbrecv d a) s = .next (s.putSnd c k j { x with wait := .mbrecv d.toNat (u % 32) })) ∧
      (mailOf s c k (u % 32) = .closed → exec (.sMbrecv d a) s = trap 0x3F)) ∧
    (2 ^ 39 ≤ u ∨ u < 2 ^ 38 ∧ destPkg u ≠ 0 → exec (.sMbsend d a b) s = trap 0x40) ∧
    -- the message is read
    ((u < 2 ^ 38 ∧ destPkg u = 0 ∨ 2 ^ 38 ≤ u ∧ u < 2 ^ 39) → (∀ d' de ad n bs, x.wait ≠ .mbread d' de ad n bs) →
      x.determ = false → x.scalarPending = false → coreSplit s k = false →
      let y : Snd := { x with wait := .ready }
      let pkg := if u < 2 ^ 38 then s.plat.pkgid else destPkg u
      (∀ (t : State) (bs : List Byte), mailRead s c k y (v % 2 ^ 56) (v / 2 ^ 56 + 1) [] = .done t bs →
        let m : OutMsg := .mail pkg (destCtx u) (destCore u) (destSlot u) c bs (.mail c k j) { pdc := 0, n := 0 }
        let w := t.putSnd c k j { x with wait := .mbsend d.toNat }
        (x.fenceDone (decide (2 ^ 38 ≤ u)) = true →
          (pkg = s.plat.pkgid → t.plat.pkgid = s.plat.pkgid → exec (.sMbsend d a b) s = .next (w.sendOp m)) ∧
          (pkg ≠ s.plat.pkgid → t.plat.pkgid = s.plat.pkgid →
            exec (.sMbsend d a b) s = .next
              ((w.nextSeq (mailKey pkg c (destCtx u) (destCore u) (destSlot u))).2.sendOp
                (.mail pkg (destCtx u) (destCore u) (destSlot u) c bs (.mail c k j)
                  (w.nextSeq (mailKey pkg c (destCtx u) (destCore u) (destSlot u))).1)))) ∧
        (x.fenceDone (decide (2 ^ 38 ≤ u)) = false →
          exec (.sMbsend d a b) s = .next (t.putSnd c k j { x with wait := .mbread d.toNat u 0 0 bs }))) ∧
      (∀ (t : State) (bs : List Byte) (va left p q : Nat), mailRead s c k y (v % 2 ^ 56) (v / 2 ^ 56 + 1) [] = .away t bs va left p q →
        exec (.sMbsend d a b) s = .next ((t.putSnd c k j { x with wait := .mbread d.toNat u va left bs }).sendOp
          (.load p q 1 (.mail c k j)))) ∧
      (∀ (t : State) (e va info : Nat), mailRead s c k y (v % 2 ^ 56) (v / 2 ^ 56 + 1) [] = .fault t e va info →
        exec (.sMbsend d a b) s = .next (takeTrap (t.putSnd c k j y) c k j
          { cause := e, word := scalarWord (t.putSnd c k j y) c y, addr := va, info := info }))) ∧
    -- a byte is read as a scalar load of one byte
    (∀ (ad n : Nat) (got : List Byte),
      mailRead s c k x ad 0 got = .done s got ∧
      (∀ e : Nat, scalarProbe s c x ad 1 false = .error e → mailRead s c k x ad (n + 1) got = .fault s e ad 0) ∧
      (∀ p q : Nat, scalarProbe s c x ad 1 false = .ok (.window p q) →
        mailRead s c k x ad (n + 1) got = .away s got ad (n + 1) p q) ∧
      (∀ (tier : Bool) (pa : Nat), scalarProbe s c x ad 1 false = .ok (.mem tier pa) → s.lags k pa 1 = false →
        (s.poisoned pa = true →
          mailRead s c k x ad (n + 1) got = .fault s 0x50 ad (nackDetail 0 0 true false + walkLevel s c ad)) ∧
        (s.poisoned pa = false →
          mailRead s c k x ad (n + 1) got = mailRead s c k x (ad + 1) n (got ++ [s.readPA pa]))))

/-! ## Traps, ends and returns -/

/-- R234, Table 8 of 08: taking a trap with a handler installed. The frame is written at the sounder's place of the frame area,
s0 holds its address and s1 the first word of it, the sounder is in handler mode at the handler's entry with no block, and
what the lanes were doing is set aside. No other scalar register changes. R236, R393: a trap of a sounder in handler mode
halts the context with FATALWHY 1, and one in a context without a handler with FATALWHY 4. The model's choice in it: what
becomes of a scalar instruction in flight (assumption log 38). -/
def Obligations.TrapEntryAndHalt : Prop :=
  (∀ (s : State) (c k j im en base : Nat) (x : Snd) (cx : Ctx) (t : TrapInfo), s.ctx? c = some cx →
     s.snd? c k j = some x → x.midSend = false → x.handler = false → cx.handler = some (im, en, base) →
     ∃ y, takeTrap s c k j t =
         (writeVirt (dropScalarLoads s c k j) c (frameAddr base k j) (toBytes 256 (frameNat x t))).putSnd c k j y ∧
       y.handler = true ∧ y.pc = en ∧ y.queue = [] ∧ y.running = false ∧ y.slices = [] ∧ y.wait = .ready ∧
       y.aside = some (x.setAside t) ∧
       y.sreg 0 = BitVec.ofNat 64 (frameAddr base k j) ∧ y.sreg 1 = BitVec.ofNat 64 (frameNat x t) ∧
       (∀ r : Nat, r ≠ 0 → r ≠ 1 → y.sreg r = x.sreg r) ∧
       y = { x with s := y.s, handler := true, aside := y.aside, pc := en, queue := [], running := false, slices := [], wait := .ready, probed := x.stillProbed t }) ∧
  (∀ (s : State) (c k j : Nat) (x : Snd) (cx : Ctx) (t : TrapInfo), s.ctx? c = some cx → s.snd? c k j = some x →
     x.midSend = false →
     (x.handler = true → takeTrap s c k j t =
       haltCtx (s.putSnd c k j { x with handler := false }) c 1 x.idx k 0 (frameNat x t % 2 ^ 1024)) ∧
     (x.handler = false → cx.handler = none → takeTrap s c k j t = haltCtx s c 4 x.idx k 0 (frameNat x t % 2 ^ 1024)))

/-- R236 to R239: svc is the trap "service call" with INFO the value of s[sa]; sndend ends the sounder once it is idle, in
deterministic mode one departure after the other, each in its turn (R215); tret resumes after RESUME 0 or 1, ends the
sounder after 2 and sends the trap up after 3; oplrd reads a word of a log entry; oplrep discards or performs the held lanes
of an entry. R236, R239: tret, oplrd and oplrep are privileged: outside handler mode each is the exact trap 0x02 with no
other effect. -/
def Obligations.TrapInstructions : Prop :=
  (∀ (s : State) (c k j : Nat) (x : Snd) (d a b : BitVec 6), ScalarAt s c k j x →
     let u := (x.sreg a.toNat).toNat
     let w := (x.sreg b.toNat).toNat
     exec (.sSvc a) s = .next (takeTrap s c k j { cause := 0x09, word := scalarWord s c x, info := u }) ∧
     (x.Idle → x.handler = false → x.determ = false → x.oplog = [] → exec .sSndend s = .next (endSounder s c k j 0)) ∧
     (x.Idle → x.handler = true → x.quiet = true → x.determ = false → exec .sSndend s = .next (endSounder s c k j 4)) ∧
     (x.Idle → x.handler = false → x.determ = true → x.oplog = [] →
       (dreysOf s c k j = [] → exec .sSndend s = .next (endSounder s c k j 0)) ∧
       ∀ (ref r : Nat) (rest : List (Nat × Nat)), dreysOf s c k j = (ref, r) :: rest →
         detTurn s c x (dreyParties s c ref) = true →
         exec .sSndend s = .next (leaveDrey (s.putSnd c k j (({ x with wait := .ready } : Snd).left ref)) c ref r 0)) ∧
     (x.handler = true → x.scalarPending = false →
       (∀ r : Nat, r < 2 → frameResume s c k j = r → exec .sTret s = .next (tretAct s c k j r)) ∧
       (frameResume s c k j = 2 → x.quiet = true → x.determ = false → exec .sTret s = .next (endSounder s c k j 4)) ∧
       (frameResume s c k j = 3 → exec .sTret s = .next (sendUp s c k j))) ∧
     (x.handler = true → u < 8 → w < 200 →
       (∀ e : LogEntry, x.oplog.find u = some e → exec (.sOplrd d a b) s = .next (s.wrote c k j x d (BitVec.ofNat 64 (e.view w)))) ∧
       (x.oplog.find u = none → exec (.sOplrd d a b) s = .next (s.wrote c k j x d 0))) ∧
     (x.handler = true → u < 8 → x.oplog.find u = none →
       exec (.sOplrep d a) s = .next (settleReplay (performLanes (rehearse (s.putSnd c k j { x with wait := .replay d.toNat u }) c k j u false)
         c k j u 96) c k j)) ∧
     (∀ e : LogEntry, x.handler = true → u < 8 → x.oplog.find u = some e → e.held ≠ [] →
       exec (.sOplrep d a) s = .next (settleReplay (performLanes (rehearse (s.putSnd c k j { x with wait := .replay d.toNat u }) c k j u false)
         c k j u 96) c k j)) ∧
     (∀ e : LogEntry, x.handler = true → 2 ^ 8 ≤ u → u < 2 ^ 8 + 8 → x.oplog.find (u % 8) = some e → e.held ≠ [] →
       exec (.sOplrep d a) s = .next (settleReplay (s.putSnd c k j
         (({ x with wait := .replay d.toNat (u % 8) } : Snd).discardHeld (u % 8))) c k j))) ∧
  (∀ (s : State) (c k j : Nat) (x : Snd) (d a b : BitVec 6), ScalarAt s c k j x → x.handler = false →
     ∀ i ∈ [.sTret, .sOplrd d a b, .sOplrep d a], exec i s = .next (takeTrap s c k j { cause := 0x02, word := scalarWord s c x }))

/-! ## Lane arithmetic -/

/-- R21, R22, Table 8 of 02: what a source field reads in lane l: the block constants, the constants 0 and the indices, q0 as
all ones (a write to it has no effect), a predicate's bit, and, with no slice ahead of another, a name or an even/odd pair
of names. -/
def Obligations.LaneOperandValues : Prop :=
  ∀ (s : State) (i : Issue) (l : Nat), l < 96 →
    let low := fun v : Nat => (i.source s .v32 v).getD l 0
    let wide := fun v : Nat => (i.source s .v64 v).getD l 0
    let flag := fun q : Nat => (i.source s .pred (656 + q)).getD l 0
    (∀ j : Nat, j < 8 → low (640 + j) = (i.blk.k.getD j 0).toNat % 2 ^ 32 ∧ wide (640 + j) = (i.blk.k.getD j 0).toNat) ∧
    (low 648 = 0 ∧ wide 648 = 0) ∧ (low 649 = l ∧ wide 649 = l) ∧ (low 650 = i.x.idx % 2 ^ 32 ∧ wide 650 = i.x.idx) ∧
    (low 651 = l / 4 ∧ wide 651 = l / 4) ∧ (low 652 = l / 32 ∧ wide 652 = l / 32) ∧ (low 653 = l % 4 ∧ wide 653 = l % 4) ∧
    flag 0 = 1 ∧ (∀ q : Nat, 0 < q → flag q = if (i.x.q.getOr 0 q).getLsbD l = true then 1 else 0) ∧
    (i.x.past = [] → (∀ n : Nat, n < 640 → low n = ((i.x.vreg n).getD l 0).toNat) ∧
      ∀ n : Nat, n + 1 < 640 → wide n = ((i.x.vreg n).getD l 0).toNat + 2 ^ 32 * ((i.x.vreg (n + 1)).getD l 0).toNat) ∧
    (∀ v : Bits96, i.x.setQ 0 v = i.x ∧ ∀ q : Nat, q ≠ 0 → (i.x.setQ q v).qreg q = v)

/-- R23, R87, R132, R22: what an issue that commits results leaves: the lanes of the effective mask of the destination take
their values (a pair takes the low and the high words, a predicate the bits that are not 0, q0 nothing), every other lane of
every name and predicate keeps its contents, FPSTAT takes the union of the flags of the lanes in the mask, the issuing
slices go on to the next word, and every other register, log entry, sounder and byte of memory is as before. -/
def Obligations.LaneCommitWritesDestination : Prop :=
  ∀ (s : State) (i : Issue) (rs : List (Nat × Nat)), s.snd? i.ctx i.core i.slot = some i.x →
    let v := fun l => (rs.map (·.1)).getD l 0
    let t := i.commit s rs
    ∃ y, t.snd? i.ctx i.core i.slot = some y ∧
      (i.spec.dst = .v32 → ∀ n l : Nat, l < 96 → (y.vreg n).getD l 0 =
        if n = i.dst ∧ i.mask.getLsbD l = true then BitVec.ofNat 32 (v l) else (i.x.vreg n).getD l 0) ∧
      (i.spec.dst = .v64 → ∀ n l : Nat, l < 96 → (y.vreg n).getD l 0 =
        if n = i.dst ∧ i.mask.getLsbD l = true then BitVec.ofNat 32 (v l)
        else if n = i.dst + 1 ∧ i.mask.getLsbD l = true then BitVec.ofNat 32 (v l / 2 ^ 32)
        else (i.x.vreg n).getD l 0) ∧
      (i.spec.dst = .pred → y.v = i.x.v ∧ ∀ n l : Nat, l < 96 → (y.qreg n).getLsbD l =
        if n = i.dst ∧ n ≠ 0 ∧ i.mask.getLsbD l = true then decide (v l ≠ 0) else (i.x.qreg n).getLsbD l) ∧
      (i.spec.dst ≠ .pred → y.q = i.x.q) ∧
      y.fpstat = i.x.fpstat ||| BitVec.ofNat 64 (unionFlags i.mask rs % 32) ∧
      (∀ k sl, i.x.slices.find k = some sl →
        y.slices.find k = some (if sliceBit i.slices k then { sl with pc := sl.pc + 1 } else sl)) ∧
      y = { i.x with v := y.v, q := y.q, past := y.past, fills := y.fills, fpstat := y.fpstat, slices := y.slices,
                     lclock := y.lclock, yielded := y.yielded, bound := y.bound, rlook := y.rlook, rhits := y.rhits,
                     rshare := y.rshare, rsatur := y.rsatur } ∧
      (∀ m : Nat, t.readPA m = s.readPA m) ∧
      (∀ m : Nat, m ≠ i.slot → t.snd? i.ctx i.core m = s.snd? i.ctx i.core m) ∧
      (∀ c' k' m : Nat, ccKey c' k' ≠ ccKey i.ctx i.core → t.snd? c' k' m = s.snd? c' k' m)

/-- R137, Table 2 of 05, R136: the integer operations of majors 0x01 and 0x11 on every element of every lane, at the width and
the signedness of the type; in an immediate form source b is IMM, sign-extended. -/
def Obligations.LaneIntegerResults : Prop :=
  ∀ (s : State) (i : Issue) (f : LaneR) (g : LaneI),
    let w := (Alu.shape i.ty).1
    let sg := Alu.signedT i.ty
    let v := Alu.toI sg w
    let least := Alu.iMin sg w
    let most := Alu.iMax sg w
    let clip := fun n : Int => Alu.wrap w (if n < least then least else if most < n then most else n)
    let im := List.replicate 96 (immValue i)
    let r := fun (ins : Instr) (min : Nat) (e : Nat → Nat → Nat → Nat) => LaneGives s i ins 1 min (.r f)
      (eachLane (fun a b c _ => Alu.perLane i.ty (fun a b c _ => (e a b c, 0)) a b c 0) (i.srcA s) (i.srcB s) (i.srcC s) (i.srcD s))
    let m := fun (ins : Instr) (min : Nat) (e : Nat → Nat → Nat → Nat) => LaneGives s i ins 0x11 min (.i g)
      (eachLane (fun a b c _ => Alu.perLane i.ty (fun a b c _ => (e a b c, 0)) a b c 0) (i.srcA s) im (i.srcC s) (i.srcD s))
    r (.vIadd f) 0x00 (fun a b _ => Alu.wrap w (v a + v b)) ∧
    r (.vIsub f) 0x01 (fun a b _ => Alu.wrap w (v a - v b)) ∧
    r (.vIaddsat f) 0x02 (fun a b _ => clip (v a + v b)) ∧
    r (.vIsubsat f) 0x03 (fun a b _ => clip (v a - v b)) ∧
    r (.vImul f) 0x04 (fun a b _ => Alu.wrap w (v a * v b)) ∧
    r (.vImulhi f) 0x05 (fun a b _ => Alu.wrap w (v a * v b / 2 ^ w)) ∧
    r (.vImad f) 0x06 (fun a b c => Alu.wrap w (v a * v b + v c)) ∧
    r (.vImin f) 0x07 (fun a b _ => (if decide (v b < v a) then b else a) % 2 ^ w) ∧
    r (.vImax f) 0x08 (fun a b _ => (if decide (v a < v b) then b else a) % 2 ^ w) ∧
    r (.vIabs f) 0x09 (fun a _ _ => Alu.wrap w (v a).natAbs) ∧
    r (.vIneg f) 0x0A (fun a _ _ => Alu.wrap w (-v a)) ∧
    r (.vIdiv f) 0x0B (fun a b _ => if b % 2 ^ w = 0 then 2 ^ w - 1 else Alu.wrap w ((v a).tdiv (v b))) ∧
    r (.vIrem f) 0x0C (fun a b _ => if b % 2 ^ w = 0 then a % 2 ^ w else Alu.wrap w ((v a).tmod (v b))) ∧
    r (.vIavg f) 0x0D (fun a b _ => Alu.wrap w ((v a + v b + 1) / 2)) ∧
    r (.vIsad f) 0x0E (fun a b c => Alu.wrap w ((v a - v b).natAbs + v c)) ∧
    m (.vIaddI g) 0x00 (fun a b _ => Alu.wrap w (v a + v b)) ∧
    m (.vIsubI g) 0x01 (fun a b _ => Alu.wrap w (v a - v b)) ∧
    m (.vIaddsatI g) 0x02 (fun a b _ => clip (v a + v b)) ∧
    m (.vIsubsatI g) 0x03 (fun a b _ => clip (v a - v b)) ∧
    m (.vImulI g) 0x04 (fun a b _ => Alu.wrap w (v a * v b)) ∧
    m (.vIminI g) 0x07 (fun a b _ => (if decide (v b < v a) then b else a) % 2 ^ w) ∧
    m (.vImaxI g) 0x08 (fun a b _ => (if decide (v a < v b) then b else a) % 2 ^ w) ∧
    (tyF i.ty = false → immValue i = Alu.wrap 64 (Alu.toI true 20 i.imm)) ∧
    (tyF i.ty = true → i.ty ≠ 0xC → immValue i = i.imm * 2 ^ 12)

/-- R138, Table 3 of 05: the bit operations of majors 0x02 and 0x12 on every element of every lane; shift counts are the low
log2(w) bits of b. R138: what the counts, the reversal, the fields and the table look-up of the bit operations are, bit by
bit. -/
def Obligations.LaneBitResults : Prop :=
  (∀ (s : State) (i : Issue) (f : LaneR) (g : LaneI),
     let w := (Alu.shape i.ty).1
     let im := List.replicate 96 (immValue i)
     let n := fun b => b % 2 ^ Nat.log2 w
     let r := fun (ins : Instr) (min : Nat) (e : Nat → Nat → Nat → Nat) => LaneGives s i ins 2 min (.r f)
       (eachLane (fun a b c _ => Alu.perLane i.ty (fun a b c _ => (e a b c, 0)) a b c 0) (i.srcA s) (i.srcB s) (i.srcC s) (i.srcD s))
     let m := fun (ins : Instr) (min : Nat) (e : Nat → Nat → Nat → Nat) => LaneGives s i ins 0x12 min (.i g)
       (eachLane (fun a b c _ => Alu.perLane i.ty (fun a b c _ => (e a b c, 0)) a b c 0) (i.srcA s) im (i.srcC s) (i.srcD s))
     let whole := fun (ins : Instr) (min : Nat) (e : Nat → Nat → Nat → Nat → Nat) => LaneGives s i ins 2 min (.r f)
       (eachLane (fun a b c d => (e a b c d, 0)) (i.srcA s) (i.srcB s) (i.srcC s) (i.srcD s))
     r (.vAnd f) 0x00 (fun a b _ => (a % 2 ^ w) &&& (b % 2 ^ w)) ∧
     r (.vOr f) 0x01 (fun a b _ => (a % 2 ^ w) ||| (b % 2 ^ w)) ∧
     r (.vXor f) 0x02 (fun a b _ => (a % 2 ^ w) ^^^ (b % 2 ^ w)) ∧
     r (.vNot f) 0x03 (fun a _ _ => 2 ^ w - 1 - a % 2 ^ w) ∧
     r (.vAndn f) 0x04 (fun a b _ => (a % 2 ^ w) &&& (2 ^ w - 1 - b % 2 ^ w)) ∧
     r (.vShl f) 0x05 (fun a b _ => a % 2 ^ w * 2 ^ n b % 2 ^ w) ∧
     r (.vShr f) 0x06 (fun a b _ => a % 2 ^ w / 2 ^ n b) ∧
     r (.vSra f) 0x07 (fun a b _ => Alu.wrap w (Alu.toI true w a / 2 ^ n b)) ∧
     r (.vRotl f) 0x08 (fun a b _ => a % 2 ^ w * 2 ^ n b % 2 ^ w + a % 2 ^ w / 2 ^ (w - n b)) ∧
     r (.vPopc f) 0x09 (fun a _ _ => Alu.popCount w a) ∧
     r (.vClz f) 0x0A (fun a _ _ => Alu.clz w a) ∧
     r (.vCtz f) 0x0B (fun a _ _ => Alu.ctz w a) ∧
     r (.vBrev f) 0x0C (fun a _ _ => Alu.brev w a) ∧
     whole (.vBfext f) 0x0D (fun a b _ _ => Alu.bfext (Alu.signedT i.ty) w a (b % 256) (b / 256 % 256)) ∧
     whole (.vBfins f) 0x0E (fun a b c _ => Alu.bfins w a (b % 256) (b / 256 % 256) c) ∧
     whole (.vTlut f) 0x0F (fun a b c d => Alu.tlut w a b c (d % 256)) ∧
     m (.vAndI g) 0x00 (fun a b _ => (a % 2 ^ w) &&& (b % 2 ^ w)) ∧
     m (.vOrI g) 0x01 (fun a b _ => (a % 2 ^ w) ||| (b % 2 ^ w)) ∧
     m (.vXorI g) 0x02 (fun a b _ => (a % 2 ^ w) ^^^ (b % 2 ^ w)) ∧
     m (.vShlI g) 0x05 (fun a b _ => a % 2 ^ w * 2 ^ n b % 2 ^ w) ∧
     m (.vShrI g) 0x06 (fun a b _ => a % 2 ^ w / 2 ^ n b) ∧
     m (.vSraI g) 0x07 (fun a b _ => Alu.wrap w (Alu.toI true w a / 2 ^ n b)) ∧
     m (.vRotlI g) 0x08 (fun a b _ => a % 2 ^ w * 2 ^ n b % 2 ^ w + a % 2 ^ w / 2 ^ (w - n b)) ∧
     LaneGives s i (.vBfextI g) 0x12 0x0D (.i g) (eachLane
       (fun a _ _ _ => (Alu.bfext (Alu.signedT i.ty) w a (i.imm % 256) (i.imm / 256 % 256), 0)) (i.srcA s) (i.srcB s) (i.srcC s) (i.srcD s))) ∧
  (∀ (w a b c t pos len k : Nat),
     (Alu.popCount w a = ((List.range w).filter (fun j => a.testBit j)).length) ∧
     (a % 2 ^ w ≠ 0 → ∃ n, Alu.clz w a + n + 1 = w ∧ (a % 2 ^ w).testBit n = true ∧ ∀ j, n < j → (a % 2 ^ w).testBit j = false) ∧
     (a % 2 ^ w = 0 → Alu.clz w a = w ∧ Alu.ctz w a = w) ∧
     (a % 2 ^ w ≠ 0 → a.testBit (Alu.ctz w a) = true ∧ ∀ j, j < Alu.ctz w a → a.testBit j = false) ∧
     (k < w → (Alu.brev w a).testBit k = a.testBit (w - 1 - k)) ∧
     (k < w → (Alu.tlut w a b c t).testBit k = t.testBit ((a.testBit k).toNat + 2 * (b.testBit k).toNat + 4 * (c.testBit k).toNat)) ∧
     (w ≤ pos ∨ len = 0 → Alu.bfext false w a pos len = 0 ∧ Alu.bfext true w a pos len = 0 ∧ Alu.bfins w a pos len c = a) ∧
     (pos < w → 0 < len → k < w → (Alu.bfins w a pos len c).testBit k =
       if pos ≤ k ∧ k < pos + len then c.testBit (k - pos) else a.testBit k) ∧
     (pos < w → 0 < len → k < w → (Alu.bfext false w a pos len).testBit k =
       if k < len ∧ k + pos < w then a.testBit (k + pos) else false))

/-- R139, R142, Table 6 of 05: icmp and fcmp write into the predicate the relation that the minor names, on the values of the
lane's type; fcmp's flags are those of the comparison. -/
def Obligations.LaneCompareResults : Prop :=
  ∀ (s : State) (i : Issue) (f : LaneR) (g : LaneI),
    let w := (Alu.shape i.ty).1
    let fm := Alu.fmtT i.ty
    let v := Alu.toI (Alu.signedT i.ty) w
    let im := List.replicate 96 (immValue i)
    let bit := fun b : Bool => if b then 1 else 0
    let r := fun (ins : Instr) (min : Nat) (e : Int → Int → Bool) => LaneGives s i ins 3 min (.r f)
      (eachLane (fun a b _ _ => (bit (e (v a) (v b)), 0)) (i.srcA s) (i.srcB s) (i.srcC s) (i.srcD s))
    let m := fun (ins : Instr) (min : Nat) (e : Int → Int → Bool) => LaneGives s i ins 0x13 min (.i g)
      (eachLane (fun a b _ _ => (bit (e (v a) (v b)), 0)) (i.srcA s) im (i.srcC s) (i.srcD s))
    let fr := fun (ins : Instr) (cc : Nat) => LaneGives s i ins 5 cc (.r f)
      (eachLane (fun a b _ _ => (bit (fm.fcmp cc (a % 2 ^ fm.w) (b % 2 ^ fm.w)).1, (fm.fcmp cc (a % 2 ^ fm.w) (b % 2 ^ fm.w)).2))
        (i.srcA s) (i.srcB s) (i.srcC s) (i.srcD s))
    let fi := fun (ins : Instr) (cc : Nat) => LaneGives s i ins 0x15 cc (.i g)
      (eachLane (fun a b _ _ => (bit (fm.fcmp cc (a % 2 ^ fm.w) (b % 2 ^ fm.w)).1, (fm.fcmp cc (a % 2 ^ fm.w) (b % 2 ^ fm.w)).2))
        (i.srcA s) im (i.srcC s) (i.srcD s))
    r (.vIcmpEq f) 0 (fun a b => a == b) ∧ r (.vIcmpNe f) 1 (fun a b => a != b) ∧ r (.vIcmpLt f) 2 (fun a b => a < b) ∧
    r (.vIcmpLe f) 3 (fun a b => a ≤ b) ∧ r (.vIcmpGt f) 4 (fun a b => b < a) ∧ r (.vIcmpGe f) 5 (fun a b => b ≤ a) ∧
    m (.vIcmpEqI g) 0 (fun a b => a == b) ∧ m (.vIcmpNeI g) 1 (fun a b => a != b) ∧ m (.vIcmpLtI g) 2 (fun a b => a < b) ∧
    m (.vIcmpLeI g) 3 (fun a b => a ≤ b) ∧ m (.vIcmpGtI g) 4 (fun a b => b < a) ∧ m (.vIcmpGeI g) 5 (fun a b => b ≤ a) ∧
    fr (.vFcmpEq f) 0 ∧ fr (.vFcmpNe f) 1 ∧ fr (.vFcmpLt f) 2 ∧ fr (.vFcmpLe f) 3 ∧ fr (.vFcmpGt f) 4 ∧ fr (.vFcmpGe f) 5 ∧
    fr (.vFcmpUn f) 6 ∧ fr (.vFcmpOrd f) 7 ∧
    fi (.vFcmpEqI g) 0 ∧ fi (.vFcmpNeI g) 1 ∧ fi (.vFcmpLtI g) 2 ∧ fi (.vFcmpLeI g) 3 ∧ fi (.vFcmpGtI g) 4 ∧
    fi (.vFcmpGeI g) 5 ∧ fi (.vFcmpUnI g) 6 ∧ fi (.vFcmpOrdI g) 7

/-- R140, R141, R143, R145, Table 4 of 05: the float operations of majors 0x04, 0x06, 0x14 and frint deliver, element by element
in the format of the type and under the mode of the word, the named operation and its flags; fabs, fneg and fcopysign change
the sign bit alone; fclass writes the class. -/
def Obligations.LaneFloatResults : Prop :=
  ∀ (s : State) (i : Issue) (f : LaneR) (g : LaneI),
    let fm := Alu.fmtT i.ty
    let m := Fl.modeOf i.rnd
    let im := List.replicate 96 (immValue i)
    let op := fun (e : Nat → Nat → Nat → Nat × Nat) (bs cs : List Nat) =>
      eachLane (Alu.perLane i.ty fun a b c _ => e a b c) (i.srcA s) bs cs (i.srcD s)
    let r := fun (ins : Instr) (min : Nat) (e : Nat → Nat → Nat → Nat × Nat) => LaneGives s i ins 4 min (.r f) (op e (i.srcB s) (i.srcC s))
    let x := fun (ins : Instr) (min : Nat) (e : Nat → Nat → Nat → Nat × Nat) => LaneGives s i ins 6 min (.r f) (op e (i.srcB s) (i.srcC s))
    let n := fun (ins : Instr) (min : Nat) (e : Nat → Nat → Nat → Nat × Nat) => LaneGives s i ins 0x14 min (.i g) (op e im (i.srcC s))
    r (.vFadd f) 0 (fun a b _ => fm.add m a b) ∧ r (.vFsub f) 1 (fun a b _ => fm.sub m a b) ∧
    r (.vFmul f) 2 (fun a b _ => fm.mul m a b) ∧ r (.vFfma f) 3 (fun a b c => fm.fma m a b c) ∧
    r (.vFmin f) 4 (fun a b _ => fm.minmax false a b) ∧ r (.vFmax f) 5 (fun a b _ => fm.minmax true a b) ∧
    r (.vFminnum f) 6 (fun a b _ => fm.minmaxNum false a b) ∧ r (.vFmaxnum f) 7 (fun a b _ => fm.minmaxNum true a b) ∧
    r (.vFabs f) 8 (fun a _ _ => (a % fm.signBit, 0)) ∧
    r (.vFneg f) 9 (fun a _ _ => (fm.withSign (!fm.sgn a) (a % fm.signBit), 0)) ∧
    r (.vFcopysign f) 10 (fun a b _ => (fm.withSign (fm.sgn b) (a % fm.signBit), 0)) ∧
    LaneGives s i (.vFclass f) 4 11 (.r f)
      (eachLane (fun a _ _ _ => (fm.classify (a % 2 ^ fm.w), 0)) (i.srcA s) (i.srcB s) (i.srcC s) (i.srcD s)) ∧
    x (.vRcp f) 0 (fun a _ _ => fm.rcp m a) ∧ x (.vRsq f) 1 (fun a _ _ => fm.rsq m a) ∧
    x (.vSqrt f) 2 (fun a _ _ => fm.sqrt m a) ∧ x (.vDiv f) 3 (fun a b _ => fm.div m a b) ∧
    x (.vExp2 f) 4 (fun a _ _ => fm.exp2 m a) ∧ x (.vLog2 f) 5 (fun a _ _ => fm.log2 m a) ∧
    LaneGives s i (.vFrint f) 7 0x40 (.r f) (op (fun a _ _ => fm.frint m a) (i.srcB s) (i.srcC s)) ∧
    n (.vFaddI g) 0 (fun a b _ => fm.add m a b) ∧ n (.vFmulI g) 2 (fun a b _ => fm.mul m a b) ∧
    n (.vFminI g) 4 (fun a b _ => fm.minmax false a b) ∧ n (.vFmaxI g) 5 (fun a b _ => fm.minmax true a b) ∧
    LaneGives s i (.vFfmaI g) 0x14 3 (.i g) (op (fun a b c => fm.fma m a b c) (i.srcB s) im)

/-- R84 to R86, R89, R90: what the float operations deliver, as a function of the exact values of their operands. The sum,
difference, product, fused product and sum, quotient, reciprocal, square root and reciprocal square root of finite values,
subnormals among them, are the exact result rounded once; an exact zero has the sign of R89; invalid operations deliver the
default NaN of Table 1 and raise invalid; a NaN operand is delivered quiet, the first one first, and raises invalid where
one signals; a conversion rounds the exact value and keeps a NaN's payload. -/
def Obligations.FloatValuesRounded : Prop :=
  ∀ (f g : Fl.Fmt) (mode : Fl.Mode) (a b c : Nat), f ∈ [Fl.f16, Fl.bf16, Fl.f32, Fl.f64] → g ∈ [Fl.f16, Fl.bf16, Fl.f32, Fl.f64] →
    let one := 2 ^ (-f.qmin).toNat
    let va := f.value a
    let vb := f.value b
    let sg := f.sgn a != f.sgn b
    let zero := fun s : Bool => (f.withSign s 0, 0)
    let inf := fun (s : Bool) (fl : Nat) => (f.withSign s f.infCode, fl)
    let invalid := (f.defNan, Fl.fInvalid)
    (Fl.f16.defNan = 0x7E00 ∧ Fl.bf16.defNan = 0x7FC0 ∧ Fl.f32.defNan = 0x7FC00000 ∧ Fl.f64.defNan = 0x7FF8000000000000) ∧
    -- two finite operands
    (f.Finite a → f.Finite b →
      (va + vb ≠ 0 → Fl.DeliversRatio f mode (decide (va + vb < 0)) (va + vb).natAbs 1 (f.add mode a b)) ∧
      (va + vb = 0 → f.add mode a b = zero (if f.sgn a = f.sgn b then f.sgn a else mode == .rm)) ∧
      (va - vb ≠ 0 → Fl.DeliversRatio f mode (decide (va - vb < 0)) (va - vb).natAbs 1 (f.sub mode a b)) ∧
      (va - vb = 0 → f.sub mode a b = zero (if f.sgn a = f.sgn b then mode == .rm else f.sgn a)) ∧
      (va * vb ≠ 0 → Fl.DeliversRatio f mode sg (va * vb).natAbs one (f.mul mode a b)) ∧
      (va * vb = 0 → f.mul mode a b = zero sg) ∧
      (va ≠ 0 → vb ≠ 0 → Fl.DeliversRatio f mode sg (va.natAbs * one) vb.natAbs (f.div mode a b)) ∧
      (va = 0 → vb ≠ 0 → f.div mode a b = zero sg) ∧ (va ≠ 0 → vb = 0 → f.div mode a b = inf sg Fl.fDivZero) ∧
      (va = 0 → vb = 0 → f.div mode a b = invalid) ∧
      (f.Finite c →
        let t := va * vb + f.value c * one
        (t ≠ 0 → Fl.DeliversRatio f mode (decide (t < 0)) t.natAbs one (f.fma mode a b c)) ∧
        (t = 0 → f.fma mode a b c = zero (if sg = f.sgn c then sg else mode == .rm)))) ∧
    -- one finite operand
    (f.Finite a →
      (va ≠ 0 → Fl.DeliversRatio f mode (f.sgn a) (one * one) va.natAbs (f.rcp mode a) ∧
        (f.sgn a = false → Fl.DeliversRoot f mode (va.natAbs * one) 1 (f.sqrt mode a) ∧
          Fl.DeliversRoot f mode (one * one * one) va.natAbs (f.rsq mode a)) ∧
        (f.sgn a = true → f.sqrt mode a = invalid ∧ f.rsq mode a = invalid ∧ f.log2 mode a = invalid)) ∧
      (va = 0 → f.rcp mode a = inf (f.sgn a) Fl.fDivZero ∧ f.sqrt mode a = zero (f.sgn a) ∧
        f.rsq mode a = inf (f.sgn a) Fl.fDivZero ∧ f.log2 mode a = inf true Fl.fDivZero)) ∧
    -- infinities
    (f.IsInf a →
      (f.Finite b → f.add mode a b = inf (f.sgn a) 0 ∧ f.sub mode a b = inf (f.sgn a) 0 ∧ f.div mode a b = inf sg 0 ∧
        f.div mode b a = zero sg ∧ (vb ≠ 0 → f.mul mode a b = inf sg 0) ∧ (vb = 0 → f.mul mode a b = invalid)) ∧
      (f.IsInf b → f.add mode a b = (if sg then invalid else inf (f.sgn a) 0) ∧
        f.sub mode a b = (if sg then inf (f.sgn a) 0 else invalid) ∧ f.mul mode a b = inf sg 0 ∧ f.div mode a b = invalid)) ∧
    -- NaN
    (f.IsNan a ∨ f.IsNan b →
      ∀ r ∈ [f.add mode a b, f.sub mode a b, f.mul mode a b, f.div mode a b, f.minmax false a b, f.minmax true a b],
        (f.IsNan a → r.1 = f.quieted a) ∧ (¬ f.IsNan a → r.1 = f.quieted b) ∧
        (f.Signals a ∨ f.Signals b → r.2 = Fl.fInvalid) ∧ (¬ f.Signals a → ¬ f.Signals b → r.2 = 0)) ∧
    ((f.IsNan a → (f.fma mode a b c).1 = f.quieted a) ∧ (¬ f.IsNan a → f.IsNan b → (f.fma mode a b c).1 = f.quieted b) ∧
      (¬ f.IsNan a → ¬ f.IsNan b → f.IsNan c → (f.fma mode a b c).1 = f.quieted c)) ∧
    (f.IsNan a → ∀ r ∈ [f.rcp mode a, f.sqrt mode a, f.rsq mode a, f.exp2 mode a, f.log2 mode a, f.frint mode a],
      r.1 = f.quieted a ∧ (f.Signals a → r.2 = Fl.fInvalid) ∧ (¬ f.Signals a → r.2 = 0)) ∧
    -- conversions
    (f.Finite a →
      (va ≠ 0 → Fl.DeliversRatio g mode (f.sgn a) (va.natAbs * 2 ^ (f.qmin - g.qmin).toNat) (2 ^ (g.qmin - f.qmin).toNat)
        (Fl.cvtFF f g mode a)) ∧
      (va = 0 → Fl.cvtFF f g mode a = (g.withSign (f.sgn a) 0, 0))) ∧
    (f.IsInf a → Fl.cvtFF f g mode a = (g.withSign (f.sgn a) g.infCode, 0)) ∧
    (f.IsNan a → f.w ≠ g.w ∨ f = g →
      let frac := a % 2 ^ f.m
      (Fl.cvtFF f g mode a).1 = g.withSign (f.sgn a)
        (g.infCode + (2 ^ (g.m - 1) ||| if f.m ≤ g.m then frac * 2 ^ (g.m - f.m) else frac / 2 ^ (f.m - g.m))) ∧
      (f.Signals a → (Fl.cvtFF f g mode a).2 = Fl.fInvalid) ∧ (¬ f.Signals a → (Fl.cvtFF f g mode a).2 = 0)) ∧
    (∀ v : Int, (v ≠ 0 → Fl.DeliversRatio f mode (decide (v < 0)) (v.natAbs * one) 1 (Fl.cvtIF f mode v)) ∧
      (v = 0 → Fl.cvtIF f mode v = zero false))

/-- R144, R91: cvt delivers in every lane the source value converted to the destination type: wrapped between integers, rounded
under the mode to and between floats, and from a float rounded to an integral value and clipped to the destination's range;
the result is extended to the lane as the destination type has it. R146, R147: with a valid control in lane 0 of source c,
qnt, dqnt and qscale commit the codes, the values and the block scales of the group; with an invalid one each takes the
exact trap "invalid format descriptor", cause 0x08, and writes nothing but the counters of its lookup (R40). -/
def Obligations.LaneConversionResults : Prop :=
  (∀ (s : State) (i : Issue) (src : BitVec 8) (f : LaneR),
     let ts := src.toNat
     let td := i.ty
     let ws := (Alu.shape ts).1
     let wd := (Alu.shape td).1
     let m := Fl.modeOf i.rnd
     let gives := fun e : Nat → Nat × Nat => LaneGives s i (.vCvt src f) 7 ts (.r f)
       (eachLane (fun a _ _ _ => (Alu.extend td (e a).1, (e a).2)) (i.srcA s) (i.srcB s) (i.srcC s) (i.srcD s))
     (tyS ts = true → tyS td = true → gives (fun a => (Alu.wrap wd (Alu.toI (Alu.signedT ts) ws a), 0))) ∧
     (tyS ts = true → tyS td = false → gives (fun a => Fl.cvtIF (Alu.fmtT td) m (Alu.toI (Alu.signedT ts) ws a))) ∧
     (tyS ts = false → tyS td = false → gives (fun a => Fl.cvtFF (Alu.fmtT ts) (Alu.fmtT td) m (a % 2 ^ ws))) ∧
     (tyS ts = false → tyS td = true → gives (fun a =>
       let q := Fl.cvtFI (Alu.fmtT ts) m (Alu.iMin (Alu.signedT td) wd) (Alu.iMax (Alu.signedT td) wd) (a % 2 ^ ws)
       (Alu.wrap wd q.1, q.2)))) ∧
  (∀ (s : State) (i : Issue) (f : LaneR),
     let ctl := (i.srcC s).getD 0 0
     let m := Fl.modeOf i.rnd
     let es := ((i.srcA s) ++ (i.srcB s)).map Fl.f32.unpack
     let x := Nr.descOf (ctl % 2 ^ 32)
     let l := Nr.blockLen (ctl / 2 ^ 32 % 4)
     let scale := fun k => ((List.range (192 / l)).map (fun k => Nr.blockScale x ((es.drop (k * l)).take l))).getD k 0
     let traps := fun ins : Instr => ∃ x', exec ins s = .next (takeTrap (s.putSnd i.ctx i.core i.slot x') i.ctx i.core i.slot
         { cause := 0x08, stream := 1, lpc := i.lpc, slices := i.slices, block := i.blk.index, word := i.word }) ∧
       x' = { i.x with rlook := x'.rlook, rsatur := x'.rsatur }
     (LaneAt s 8 0 (.r f) i → Nr.ctlValid ctl true = true → i.Ready s (Nr.qnt ctl m (i.srcA s) (i.srcB s)) →
       exec (.vQnt f) s = .next (i.commit s (Nr.qnt ctl m (i.srcA s) (i.srcB s)))) ∧
     (LaneAt s 8 1 (.r f) i → Nr.ctlValid ctl false = true → i.Ready s (Nr.dqnt ctl m (i.srcA s) (i.srcB s)) →
       exec (.vDqnt f) s = .next (i.commit s (Nr.dqnt ctl m (i.srcA s) (i.srcB s)))) ∧
     (LaneAt s 8 2 (.r f) i → Nr.ctlValid ctl true = true →
       let rs := (List.range 96).map (fun k => (Alu.wrap 32 (scale k), 0))
       i.Ready s rs → exec (.vQscale f) s = .next (i.commit s rs)) ∧
     (LaneAt s 8 0 (.r f) i → Nr.ctlValid ctl true = false → traps (.vQnt f)) ∧
     (LaneAt s 8 1 (.r f) i → Nr.ctlValid ctl false = false → traps (.vDqnt f)) ∧
     (LaneAt s 8 2 (.r f) i → Nr.ctlValid ctl true = false → traps (.vQscale f)))

/-- R148, Table 9 of 05: the predicate instructions, lane by lane; pfirst names the lowest lane of the mask with qa set. R149,
R150, Table 10 of 05: mov, sel and the cross-lane instructions: lane l takes the value, or the source lane's, and 0 where
that is no lane. -/
def Obligations.LanePredicateAndMoveResults : Prop :=
  (∀ (s : State) (i : Issue) (f : LaneR),
     let bit := fun b : Bool => if b then 1 else 0
     let r := fun (ins : Instr) (min : Nat) (e : Bool → Bool → Nat) => LaneGives s i ins 9 min (.r f)
       (eachLane (fun a b _ _ => (e (a != 0) (b != 0), 0)) (i.srcA s) (i.srcB s) (i.srcC s) (i.srcD s))
     r (.vPand f) 0 (fun a b => bit (a && b)) ∧ r (.vPor f) 1 (fun a b => bit (a || b)) ∧
     r (.vPxor f) 2 (fun a b => bit (a != b)) ∧ r (.vPandn f) 3 (fun a b => bit (a && !b)) ∧
     r (.vPnot f) 4 (fun a _ => bit (!a)) ∧ r (.vPmov f) 5 (fun a _ => bit a) ∧ r (.vPfromv f) 6 (fun a _ => bit a) ∧
     r (.vPvec f) 7 (fun a _ => if a then 2 ^ 32 - 1 else 0) ∧
     LaneGives s i (.vPfirst f) 9 8 (.r f) ((List.range 96).map fun l =>
       (bit (((List.range 96).filter (fun l => i.mask.getLsbD l)).find? (fun l => (i.srcA s).getD l 0 != 0) == some l), 0))) ∧
  (∀ (s : State) (i : Issue) (f : LaneR) (g : LaneI),
     let a := fun l => (i.srcA s).getD l 0
     let b := fun l => (i.srcB s).getD l 0
     let c := fun l => (i.srcC s).getD l 0
     let all := fun v : Nat → Nat => (List.range 96).map (fun l => (v l, 0))
     let take := fun src : Nat → Nat => all (fun l => if src l < 96 then a (src l) else 0)
     (i.srcA s).length = 96 ∧
     LaneGives s i (.vMov f) 0x0A 0 (.r f) ((i.srcA s).map (fun v => (v, 0))) ∧
     LaneGives s i (.vSel f) 0x0A 1 (.r f) (all fun l => if c l != 0 then a l else b l) ∧
     LaneGives s i (.vMovI g) 0x1A 0 (.i g) ((List.replicate 96 (immValue i)).map (fun v => (v, 0))) ∧
     LaneGives s i (.vSelI g) 0x1A 1 (.i g) (all fun l => if b l != 0 then a l else immValue i) ∧
     LaneGives s i (.vLidx f) 0x0B 0 (.r f) (take fun l => b l) ∧
     LaneGives s i (.vLxor f) 0x0B 1 (.r f) (take fun l => l ^^^ (b l % 32)) ∧
     LaneGives s i (.vLrot f) 0x0B 2 (.r f) (take fun l => (l + b l) % 96) ∧
     LaneGives s i (.vBcast f) 0x0B 3 (.r f) (take fun _ => b 0) ∧
     LaneGives s i (.vLidxI g) 0x1B 0 (.i g) (take fun l => l - l % 2 ^ (i.imm % 8) + i.imm / 8 % 32) ∧
     LaneGives s i (.vLxorI g) 0x1B 1 (.i g) (take fun l => l ^^^ (i.imm % 32)) ∧
     LaneGives s i (.vLrotI g) 0x1B 2 (.i g) (take fun l => (l + i.imm) % 96) ∧
     LaneGives s i (.vBcastI g) 0x1B 3 (.i g) (take fun _ => i.imm))

/-- R152, R153: a reduction writes to every lane of the mask the value of the fixed tree over the lanes of the mask with qb set,
or its identity where there is none; dp4 wraps the exact sum of four products and c, dp2 rounds the exact sum of two and c
once. -/
def Obligations.LaneReductionResults : Prop :=
  ∀ (s : State) (i : Issue) (f : LaneR),
    let w := (Alu.shape i.ty).1
    let sg := Alu.signedT i.ty
    let fm := Alu.fmtT i.ty
    let e8 := fun x k => Alu.toI sg 8 (x / 2 ^ (8 * k))
    let r := fun (ins : Instr) (min : Nat) (comb : Nat → Nat → Nat × Nat) (id : Nat) => LaneGives s i ins 0x0C min (.r f)
      (reduceOp comb id i (i.srcA s) (i.srcB s) (i.srcC s) (i.srcD s))
    (tyF i.ty = false → r (.vRadd f) 0 (fun a b => ((a + b) % 2 ^ w, 0)) 0) ∧
    (tyF i.ty = true → r (.vRadd f) 0 (fun a b => fm.add (Fl.modeOf i.rnd) a b) 0) ∧
    (tyF i.ty = false → r (.vRmin f) 1 (fun a b => (Alu.minI sg w a b, 0)) (Alu.wrap w (Alu.iMax sg w))) ∧
    (tyF i.ty = true → r (.vRmin f) 1 (fun a b => fm.minmax false a b) (fm.withSign false fm.infCode)) ∧
    (tyF i.ty = false → r (.vRmax f) 2 (fun a b => (Alu.maxI sg w a b, 0)) (Alu.wrap w (Alu.iMin sg w))) ∧
    (tyF i.ty = true → r (.vRmax f) 2 (fun a b => fm.minmax true a b) (fm.withSign true fm.infCode)) ∧
    r (.vRand f) 3 (fun a b => (a &&& b, 0)) (2 ^ w - 1) ∧ r (.vRor f) 4 (fun a b => (a ||| b, 0)) 0 ∧
    r (.vRxor f) 5 (fun a b => (a ^^^ b, 0)) 0 ∧
    LaneGives s i (.vDp4 f) 0x0D 0 (.r f) (eachLane (fun a b c _ =>
      (Alu.wrap 32 (e8 a 0 * e8 b 0 + e8 a 1 * e8 b 1 + e8 a 2 * e8 b 2 + e8 a 3 * e8 b 3 + Alu.toI true 32 c), 0))
      (i.srcA s) (i.srcB s) (i.srcC s) (i.srcD s)) ∧
    LaneGives s i (.vDp2 f) 0x0D 1 (.r f) (eachLane (fun a b c _ =>
      Fl.dp2 fm (Fl.modeOf i.rnd) (a % 2 ^ 16) (b % 2 ^ 16) (a / 2 ^ 16) (b / 2 ^ 16) c) (i.srcA s) (i.srcB s) (i.srcC s) (i.srcD s))

/-- R69, R70, R34: the checks of the issue of any lane instruction, in their order. An illegal lane word takes the exact trap
"illegal instruction" with its lowest cause, ahead of every other check; then an engine instruction that waits for an
operand but not for SRCA, and whose SRCA names a resource that is not granted, takes "resource not granted", cause 0x03;
then an empty source whose policy bit is set takes "empty operand", cause 0x04, naming the field and the name; and where
every empty source has it clear the issue stays where it is. An engine instruction under an empty mask, or one that has
passed its checks and is held, waits for no operand (R181, R402). R87: an enabled exception in a lane of the mask is the
exact trap "floating-point exception", cause 0x07, whose frame carries the union of the flags; no lane of the destination
and no flag of FPSTAT is written. Every lane instruction that can raise a flag does so: the float operations, the elementary
functions, the compares, cvt, frint, qnt, dqnt, the float reductions and dp2, register and immediate forms. The model's
choice in it: that an empty source of the trap policy traps where another of the wait policy is empty (assumption log 10),
and that the check of a resource of an engine command comes with that command's own (log 15). -/
def Obligations.LaneIssueTraps : Prop :=
  (∀ (s : State) (i : Issue) (maj min : Nat) (ins : Instr) (b : LaneBody),
     laneHead ins = some (maj, min, b) →
     s.cur = .lane i.ctx i.core i.slot i.slices → s.snd? i.ctx i.core i.slot = some i.x → i.x.runningBlock = some i.blk →
     i = Issue.of s i.ctx i.core i.slot i.slices i.x i.blk maj min b →
     let ill := laneIllegal (BitVec.ofNat 96 (maj * 2 ^ 88 + min * 2 ^ 80 + b.nat)) i.x.n (bits i.fpctl 10 8)
     let engine : Prop := 0x30 ≤ maj ∧ maj ≤ 0x35
     let words := if maj = 0x30 ∧ min = 0 ∧ i.dst % 2 = 1 then 2 else 1
     (∀ c : Nat, ill = some c → exec ins s = .next (i.trap s 0x01 (ill := c))) ∧
     (ill = none → (engine → i.mask ≠ 0 ∧ i.passed = none) →
       let refused : Prop := engine ∧ i.empties ≠ [] ∧ (∀ e ∈ i.empties, e.1 ≠ 0) ∧ i.granted s = false
       (refused → exec ins s = .next (i.trap s 0x03 (words := words))) ∧
       (¬ refused →
         (∀ (k n : Nat), i.empties.find? (fun e => e.2.2) = some (k, n, true) →
           exec ins s = .next (i.trap s 0x04 (src := k) (info := n) (words := words))) ∧
         (i.empties ≠ [] → i.empties.find? (fun e => e.2.2) = none → exec ins s = .next s)))) ∧
  (∀ (s : State) (i : Issue) (f : LaneR) (g : LaneI) (src : BitVec 8),
     let fm := Alu.fmtT i.ty
     let m := Fl.modeOf i.rnd
     let im := List.replicate 96 (immValue i)
     let ts := src.toNat
     let ws := (Alu.shape ts).1
     let wd := (Alu.shape i.ty).1
     let bit := fun b : Bool => if b then 1 else 0
     let each := fun (bs cs : List Nat) (e : Nat → Nat → Nat → Nat × Nat) =>
       eachLane (Alu.perLane i.ty fun a b c _ => e a b c) (i.srcA s) bs cs (i.srcD s)
     let r := fun (ins : Instr) (maj min : Nat) (e : Nat → Nat → Nat → Nat × Nat) =>
       LaneFpTraps s i ins maj min (.r f) (each (i.srcB s) (i.srcC s) e)
     let n := fun (ins : Instr) (min : Nat) (e : Nat → Nat → Nat → Nat × Nat) =>
       LaneFpTraps s i ins 0x14 min (.i g) (each im (i.srcC s) e)
     let rel := fun (cc : Nat) (bs : List Nat) =>
       eachLane (fun a b _ _ => (bit (fm.fcmp cc (a % 2 ^ fm.w) (b % 2 ^ fm.w)).1, (fm.fcmp cc (a % 2 ^ fm.w) (b % 2 ^ fm.w)).2))
         (i.srcA s) bs (i.srcC s) (i.srcD s)
     let cmp := fun (ins imm : Instr) (cc : Nat) =>
       LaneFpTraps s i ins 5 cc (.r f) (rel cc (i.srcB s)) ∧ LaneFpTraps s i imm 0x15 cc (.i g) (rel cc im)
     let cvt := fun e : Nat → Nat × Nat => LaneFpTraps s i (.vCvt src f) 7 ts (.r f)
       (eachLane (fun a _ _ _ => (Alu.extend i.ty (e a).1, (e a).2)) (i.srcA s) (i.srcB s) (i.srcC s) (i.srcD s))
     let red := fun (ins : Instr) (min : Nat) (comb : Nat → Nat → Nat × Nat) (id : Nat) => LaneFpTraps s i ins 0x0C min (.r f)
       (reduceOp comb id i (i.srcA s) (i.srcB s) (i.srcC s) (i.srcD s))
     r (.vFadd f) 4 0 (fun a b _ => fm.add m a b) ∧ r (.vFsub f) 4 1 (fun a b _ => fm.sub m a b) ∧
     r (.vFmul f) 4 2 (fun a b _ => fm.mul m a b) ∧ r (.vFfma f) 4 3 (fun a b c => fm.fma m a b c) ∧
     r (.vFmin f) 4 4 (fun a b _ => fm.minmax false a b) ∧ r (.vFmax f) 4 5 (fun a b _ => fm.minmax true a b) ∧
     r (.vFminnum f) 4 6 (fun a b _ => fm.minmaxNum false a b) ∧ r (.vFmaxnum f) 4 7 (fun a b _ => fm.minmaxNum true a b) ∧
     r (.vRcp f) 6 0 (fun a _ _ => fm.rcp m a) ∧ r (.vRsq f) 6 1 (fun a _ _ => fm.rsq m a) ∧
     r (.vSqrt f) 6 2 (fun a _ _ => fm.sqrt m a) ∧ r (.vDiv f) 6 3 (fun a b _ => fm.div m a b) ∧
     r (.vExp2 f) 6 4 (fun a _ _ => fm.exp2 m a) ∧ r (.vLog2 f) 6 5 (fun a _ _ => fm.log2 m a) ∧
     r (.vFrint f) 7 0x40 (fun a _ _ => fm.frint m a) ∧
     n (.vFaddI g) 0 (fun a b _ => fm.add m a b) ∧ n (.vFmulI g) 2 (fun a b _ => fm.mul m a b) ∧
     n (.vFminI g) 4 (fun a b _ => fm.minmax false a b) ∧ n (.vFmaxI g) 5 (fun a b _ => fm.minmax true a b) ∧
     LaneFpTraps s i (.vFfmaI g) 0x14 3 (.i g) (each (i.srcB s) im fun a b c => fm.fma m a b c) ∧
     cmp (.vFcmpEq f) (.vFcmpEqI g) 0 ∧ cmp (.vFcmpNe f) (.vFcmpNeI g) 1 ∧ cmp (.vFcmpLt f) (.vFcmpLtI g) 2 ∧
     cmp (.vFcmpLe f) (.vFcmpLeI g) 3 ∧ cmp (.vFcmpGt f) (.vFcmpGtI g) 4 ∧ cmp (.vFcmpGe f) (.vFcmpGeI g) 5 ∧
     cmp (.vFcmpUn f) (.vFcmpUnI g) 6 ∧ cmp (.vFcmpOrd f) (.vFcmpOrdI g) 7 ∧
     (tyS ts = true → tyS i.ty = false → cvt (fun a => Fl.cvtIF fm m (Alu.toI (Alu.signedT ts) ws a))) ∧
     (tyS ts = false → tyS i.ty = false → cvt (fun a => Fl.cvtFF (Alu.fmtT ts) fm m (a % 2 ^ ws))) ∧
     (tyS ts = false → tyS i.ty = true → cvt (fun a =>
       let q := Fl.cvtFI (Alu.fmtT ts) m (Alu.iMin (Alu.signedT i.ty) wd) (Alu.iMax (Alu.signedT i.ty) wd) (a % 2 ^ ws)
       (Alu.wrap wd q.1, q.2))) ∧
     (Nr.ctlValid ((i.srcC s).getD 0 0) true = true →
       LaneFpTraps s i (.vQnt f) 8 0 (.r f) (Nr.qnt ((i.srcC s).getD 0 0) m (i.srcA s) (i.srcB s))) ∧
     (Nr.ctlValid ((i.srcC s).getD 0 0) false = true →
       LaneFpTraps s i (.vDqnt f) 8 1 (.r f) (Nr.dqnt ((i.srcC s).getD 0 0) m (i.srcA s) (i.srcB s))) ∧
     (tyF i.ty = true →
       red (.vRadd f) 0 (fun a b => fm.add m a b) 0 ∧
       red (.vRmin f) 1 (fun a b => fm.minmax false a b) (fm.withSign false fm.infCode) ∧
       red (.vRmax f) 2 (fun a b => fm.minmax true a b) (fm.withSign true fm.infCode)) ∧
     LaneFpTraps s i (.vDp2 f) 0x0D 1 (.r f) (eachLane (fun a b c _ =>
       Fl.dp2 fm m (a % 2 ^ 16) (b % 2 ^ 16) (a / 2 ^ 16) (b / 2 ^ 16) c) (i.srcA s) (i.srcB s) (i.srcC s) (i.srcD s)))

/-! ## Lane memory and lane control -/

/-- R162, R164, R165, R171, R172, R176, Table 5 of 06: every lane load, store and atomic and append whose probe passes takes one
free entry of the operand log, with the address, the place and the operand of each lane of the mask (for append of the
lowest, with the row of lanes 0 to n − 1 of b). That the entry is the lowest free one is the model's choice (assumption log
80). The model's choice in it: that the second operand of an acas that comes from a special operand, at either width, is
free (assumption log 43). -/
def Obligations.LaneAccessesTakeLogEntry : Prop :=
  ∀ (s : State) (i : Issue) (f : LaneI) (k : Nat) (sc : BitVec 2),
    let n := tySize i.ty
    let b := fun l => (i.srcB s).getD l 0
    let none_ := fun _ : Nat => 0
    let load : Ask := { kind := .load, size := n, rd := true, wr := false, scope := none, gst := false }
    let store := fun g : Bool => { kind := .store, size := n, rd := false, wr := true, scope := none, gst := g : Ask }
    let atom : Ask := { kind := .atomic, size := n, rd := true, wr := true, scope := some (i.min / 16), gst := false }
    let row : Ask := { kind := .append, size := 32, rd := false, wr := true, scope := none, gst := false }
    let a := fun (ins : Instr) (op : Nat) => LaneLogs s i ins 0x22 (sc.toNat * 16 + op) f atom k (fun l => b l % 2 ^ (8 * n)) none_ []
    LaneLogs s i (.vSpld f) 0x20 0 f load k none_ none_ [] ∧
    LaneLogs s i (.vSpst f) 0x20 1 f (store false) k (fun l => b l % 2 ^ (8 * n)) none_ [] ∧
    LaneLogs s i (.vGld f) 0x21 0 f load k none_ none_ [] ∧
    LaneLogs s i (.vGst f) 0x21 1 f (store true) k (fun l => b l % 2 ^ (8 * n)) none_ [] ∧
    a (.vAadd sc f) 0 ∧ a (.vAmin sc f) 1 ∧ a (.vAmax sc f) 2 ∧ a (.vAand sc f) 3 ∧ a (.vAor sc f) 4 ∧ a (.vAxor sc f) 5 ∧
    a (.vAxchg sc f) 6 ∧ a (.vAfadd sc f) 8 ∧
    (ty64 i.ty = false → i.fb < 640 → LaneLogs s i (.vAcas sc f) 0x22 (sc.toNat * 16 + 7) f atom k (fun l => b l % 2 ^ (8 * n))
      (fun l => b l / 2 ^ 32 % 2 ^ 32) []) ∧
    (ty64 i.ty = true → i.fb < 640 → LaneLogs s i (.vAcas sc f) 0x22 (sc.toNat * 16 + 7) f atom k (fun l => b l % 2 ^ (8 * n))
      (fun l => (i.source s .v64 (i.fb + 2)).getD l 0 % 2 ^ 64) []) ∧
    (640 ≤ i.fb → ∃ free, LaneLogs s i (.vAcas sc f) 0x22 (sc.toNat * 16 + 7) f atom k (fun l => b l % 2 ^ (8 * n)) free []) ∧
    LaneLogs s i (.vAppend f) 0x23 0 f row k none_ none_
      ((List.range (i.imm % 128 + 1)).flatMap fun l => (List.range 4).map fun j => BitVec.ofNat 8 (b l / 2 ^ (8 * j)))

/-- R160, R162, R176: where a lane of the mask (for append the lowest) fails the probe, the instruction takes the exact trap of
the lowest such lane, with the cause of the first check it fails, that lane and its address, whether or not an entry of the
operand log is free; no lane is performed and no entry is taken. Where every lane passes and no entry is free, the
instruction waits and has passed its probe. R156 to R158, R160, R170, R174, Tables 1 and 4 of 06: the address mode of a
memory instruction, and the checks of a lane's address in their order, each with its cause: record number, reserved bits,
address range, limit, alignment, scratchpad bank, alias window, atomic scope, translation, NOWRITE and CONST, for an address
through a buffer record, a flat one and one of the scratchpad. -/
def Obligations.LaneProbeTraps : Prop :=
  (∀ (s : State) (i : Issue) (f : LaneI) (sc : BitVec 2) (ins : Instr) (maj min : Nat) (kind : LogKind) (l e : Nat),
     (ins, maj, min, kind) ∈ [(.vSpld f, 0x20, 0, .load), (.vSpst f, 0x20, 1, .store), (.vGld f, 0x21, 0, .load),
       (.vGst f, 0x21, 1, .store), (.vAadd sc f, 0x22, sc.toNat * 16, .atomic), (.vAmin sc f, 0x22, sc.toNat * 16 + 1, .atomic),
       (.vAmax sc f, 0x22, sc.toNat * 16 + 2, .atomic), (.vAand sc f, 0x22, sc.toNat * 16 + 3, .atomic),
       (.vAor sc f, 0x22, sc.toNat * 16 + 4, .atomic), (.vAxor sc f, 0x22, sc.toNat * 16 + 5, .atomic),
       (.vAxchg sc f, 0x22, sc.toNat * 16 + 6, .atomic), (.vAcas sc f, 0x22, sc.toNat * 16 + 7, .atomic),
       (.vAfadd sc f, 0x22, sc.toNat * 16 + 8, .atomic), (.vAppend f, 0x23, 0, .append)] →
     LaneAt s maj min (.i f) i → i.mask ≠ 0 →
     let lanes := if kind = .append then i.lanes.take 1 else i.lanes
     let q : Ask := { kind := kind, size := if kind = .append then 32 else tySize i.ty, rd := kind == .load || kind == .atomic,
                      wr := kind != .load, scope := if kind = .atomic then some (i.min / 16) else none,
                      gst := kind == .store && i.maj == 0x21 }
     lanes.any (fun l => i.bankBusy s ((i.srcA s).getD l 0)) = false → i.probed = none →
     (l ∈ lanes → i.failCheck s q ((i.srcA s).getD l 0) = some e →
       (∀ m ∈ lanes, m < l → i.failCheck s q ((i.srcA s).getD m 0) = none) →
       exec ins s = .next (i.trap s e (lane := some l) (addr := (i.lea s ((i.srcA s).getD l 0) % 2 ^ 64).toNat))) ∧
     ((∀ m ∈ lanes, i.failCheck s q ((i.srcA s).getD m 0) = none) → (kind = .load → i.loadKey s (i.srcA s) = none) →
       i.room s false (i.memoKey s []) = true → i.x.freeEntry = none →
       exec ins s = .next (i.hold s (i.entryOf s q (i.srcA s) (i.dataOf s) (i.newOf s) [] (i.rowOf s))))) ∧
  (∀ (s : State) (i : Issue) (q : Ask) (av : Nat), 0 < q.size →
     -- the address mode
     (i.maj = 0x20 → i.amode = .sp i.imm) ∧ (i.maj = 0x23 → i.amode = .flat 0) ∧
     (i.maj = 0x21 ∨ i.maj = 0x22 → i.imm < 3 * 2 ^ 18 →
       (i.imm < 2 ^ 18 → i.amode = .rec_ (i.imm / 2 ^ 6) (i.imm / 2 ^ 4 % 4)) ∧
       (2 ^ 18 ≤ i.imm → i.imm < 2 ^ 19 → i.amode = .flat ((BitVec.ofNat 18 i.imm).toInt)) ∧
       (2 ^ 19 ≤ i.imm → i.amode = .sp (i.imm - 2 ^ 19))) ∧
     -- the checks from alignment on
     (let later := fun (ea : Nat) (noWrite : Prop) =>
       let at_ := translate s i.ctx ea false false
       let aliasUse : Prop := ∃ en va, at_ = .ok (.aliasWin en va) ∧ ¬ ∃ e w, s.entry? i.ctx en = some e ∧ e.win = some w ∧
         q.gst = true ∧ q.size = w.size ∧ w.base ≤ ea ∧ ea < w.base + 2 * w.half ∧ (ea - w.base) % w.half < e.length ∧
         membersOf s i.ctx i.core i.slot e ≠ [] ∧ (w.kind = 0 → w.root ∈ membersOf s i.ctx i.core i.slot e)
       let narrow : Prop := ∃ sc, q.scope = some sc ∧
         ((∃ p w, at_ = .ok (.window p w)) ∧ sc ≠ 2 ∨ (∃ pa, at_ = .ok (.mem true pa)) ∧ sc = 0)
       (ea % q.size ≠ 0 → i.failCheck s q av = some 0x11) ∧
       (ea % q.size = 0 →
         (aliasUse → i.failCheck s q av = some 0x13) ∧
         (¬ aliasUse → narrow → i.failCheck s q av = some 0x1A) ∧
         (¬ aliasUse → ¬ narrow →
           (∀ d, translate s i.ctx ea q.rd q.wr = .fail d → i.failCheck s q av = some 0x1B) ∧
           (∀ loc, translate s i.ctx ea q.rd q.wr = .ok loc →
             (q.wr = true → noWrite → i.failCheck s q av = some 0x18) ∧
             (¬ (q.wr = true ∧ noWrite) → i.failCheck s q av =
               if q.wr = true ∧ constHit s i.ctx i.x.image ea q.size = true then some 0x14 else none))))
     -- through a buffer record
     (∀ b sc : Nat, i.amode = .rec_ b sc →
       (i.record s b = none → i.failCheck s q av = some 0x15) ∧
       (∀ r : Nat, i.record s b = some r →
         let off := av % 2 ^ 32 * 2 ^ sc
         let ea := r % 2 ^ 56 + off
         (r / 2 ^ 108 ≠ 0 ∨ r / 2 ^ 56 % 2 ^ 8 ≠ 0 → i.failCheck s q av = some 0x16) ∧
         (r / 2 ^ 108 = 0 → r / 2 ^ 56 % 2 ^ 8 = 0 →
           (2 ^ 56 ≤ ea → i.failCheck s q av = some 0x10) ∧
           (ea < 2 ^ 56 → r / 2 ^ 64 % 2 ^ 42 < off + q.size → i.failCheck s q av = some 0x17) ∧
           (ea < 2 ^ 56 → off + q.size ≤ r / 2 ^ 64 % 2 ^ 42 → later ea (r / 2 ^ 106 % 2 = 1))))) ∧
     -- flat
     (∀ d : Int, i.amode = .flat d →
       let ea := (av : Int) + d
       (ea < 0 ∨ 2 ^ 56 ≤ ea → i.failCheck s q av = some 0x10) ∧ (0 ≤ ea → ea < 2 ^ 56 → later ea.toNat False)) ∧
     -- the scratchpad
     (∀ d : Nat, i.amode = .sp d →
       let ea := av % 2 ^ 32 + d
       let mapped : Prop := ea < 0xC0000 ∧ bankMode s i.ctx i.core (ea / 2 ^ 15) = some 1
       (∀ k b : Nat, (s.ccOf i.ctx i.core).place = .bank k → b < 24 →
         let e := (s.coreOf i.core).entries.getOr BankEntry.reset b
         (bankMode s i.ctx i.core b = some 1 ↔ e.owner = k + 1 ∧ e.mode = 1)) ∧
       (ea % q.size ≠ 0 → i.failCheck s q av = some 0x11) ∧
       (ea % q.size = 0 → (mapped → i.failCheck s q av = none) ∧ (¬ mapped → i.failCheck s q av = some 0x19)))))

/-- R155, R166, R81: an access of an empty mask (a load, a store, an atomic or an append), gprefetch and lnop change nothing but
the places of the issuing slices (and the yield note and the deterministic clock that every retirement sets). R177, R179: a
lane fence retires, whatever the mask, once every earlier entry of its slices is settled (for fence.sys also acknowledged;
for fence.eng also the engine commands the slices issued; the handler does not wait for held accesses of the block it
interrupted, assumption log 62); until then it stays. fence.eng notes that engine commands of its slices issued later read
nothing older (R316). -/
def Obligations.LaneEmptyIssuesAndFences : Prop :=
  (∀ (s : State) (i : Issue) (f : LaneI) (sc : BitVec 2) (ins : Instr) (maj min : Nat),
     (ins, maj, min) ∈ [(.vGprefetch f, 0x21, 2), (.vLnop f, 0x38, 1)] ∨
       (i.mask = 0 ∧ (ins, maj, min) ∈ [(.vSpld f, 0x20, 0), (.vSpst f, 0x20, 1), (.vGld f, 0x21, 0), (.vGst f, 0x21, 1),
         (.vAppend f, 0x23, 0), (.vAadd sc f, 0x22, sc.toNat * 16), (.vAmin sc f, 0x22, sc.toNat * 16 + 1),
         (.vAmax sc f, 0x22, sc.toNat * 16 + 2), (.vAand sc f, 0x22, sc.toNat * 16 + 3), (.vAor sc f, 0x22, sc.toNat * 16 + 4),
         (.vAxor sc f, 0x22, sc.toNat * 16 + 5), (.vAxchg sc f, 0x22, sc.toNat * 16 + 6), (.vAcas sc f, 0x22, sc.toNat * 16 + 7),
         (.vAfadd sc f, 0x22, sc.toNat * 16 + 8)]) →
     LaneAt s maj min (.i f) i →
     ∃ y, exec ins s = .next { s.putSnd i.ctx i.core i.slot y with freeCtr := s.freeCtr + 1 } ∧
       y = { i.x with slices := y.slices, lclock := y.lclock, yielded := y.yielded } ∧
       (i.x.determ = false → y.lclock = i.x.lclock) ∧
       ∀ j sl, i.x.slices.find j = some sl →
         y.slices.find j = some (if sliceBit i.slices j then { sl with pc := sl.pc + 1 } else sl)) ∧
  (∀ (s : State) (i : Issue) (f : LaneR),
     let settled := fun sys : Bool => ∀ k e, (k, e) ∈ i.x.oplog → e.slices ≠ 0 → Alu.andN e.slices i.slices ≠ 0 →
       i.x.settledFor e sys = true
     let goes := fun (ins : Instr) (min : Nat) (p : Prop) (t : State) => LaneAt s 0x24 min (.r f) i →
       (p → exec ins s = .next (i.retire t)) ∧ (¬ p → exec ins s = .next s)
     goes (.vFenceCore f) 0 (settled false) s ∧ goes (.vFencePkg f) 1 (settled false) s ∧ goes (.vFenceSys f) 2 (settled true) s ∧
     goes (.vFenceEng f) 3 (settled false ∧ i.enginesDone s = true) (s.putSnd i.ctx i.core i.slot
       { i.x with engAt := ((List.range 24).filter (sliceBit i.slices)).foldl (fun t n => t.put n s.writes) i.x.engAt }))

/-- R77, R231: the lane branches: with the target inside the block, a slice of the issue goes to it where lbr.any finds the
predicate in some lane of the mask, lbr.all in all of one or more, and ljmp where the slice has a lane in the mask or no
guard is given; the other slices go on. A target outside the block is the exact trap "branch out of block", cause 0x06. -/
def Obligations.LaneBranchesMoveSlices : Prop :=
  ∀ (s : State) (i : Issue) (f : LaneI),
    let t := (i.lpc : Int) + Alu.toI true 16 i.imm
    let inside := (i.blk.entry : Int) ≤ t ∧ t < ((i.blk.entry + i.blk.len : Nat) : Int)
    let p := i.x.qreg (i.fa - 656)
    let lane := fun (k : Nat) (c : Nat → Prop) => ∃ l, l < 96 ∧ l / 4 = k ∧ i.mask.getLsbD l = true ∧ c l
    let goes := fun (ins : Instr) (min : Nat) (taken : Nat → Prop) => LaneAt s 0x38 min (.i f) i →
      (¬ inside → exec ins s = .next (i.trap s 0x06)) ∧
      (inside → ∃ u y, exec ins s = .next u ∧ u.snd? i.ctx i.core i.slot = some y ∧
        y = { i.x with slices := y.slices, lclock := y.lclock, yielded := y.yielded } ∧
        ∀ k sl, i.x.slices.find k = some sl → ∃ sl', y.slices.find k = some sl' ∧
          (sliceBit i.slices k = true → taken k → sl'.pc = t.toNat) ∧
          (sliceBit i.slices k = true → ¬ taken k → sl'.pc = sl.pc + 1) ∧
          (sliceBit i.slices k = false → sl' = sl) ∧ sl'.done = sl.done)
    goes (.vLbrAny f) 2 (fun k => lane k fun l => p.getLsbD l = true) ∧
    goes (.vLbrAll f) 2 (fun k => lane k (fun _ => True) ∧ ¬ lane k fun l => p.getLsbD l = false) ∧
    goes (.vLjmp f) 3 (fun k => (f.g1 = 0 ∧ f.g2 = 0) ∨ lane k fun _ => True)

/-- R80, R78, R232, R231: lend ends the issuing slices, and the block leaves the queue once no slice is left; regang has them
wait; ltrap is the exact trap 0x0A with its immediate where the mask has a lane, and else only retires. -/
def Obligations.LaneEndsWaitsAndTraps : Prop :=
  ∀ (s : State) (i : Issue) (f : LaneI),
    (LaneAt s 0x38 0 (.i f) i → ∃ u y, exec (.vLend f) s = .next u ∧ u.snd? i.ctx i.core i.slot = some y ∧
      ((∀ k sl, (k, sl) ∈ i.x.slices → sl.done = true ∨ sliceBit i.slices k = true) →
        y.queue = i.x.queue.tail ∧ y.running = false ∧ y.slices = []) ∧
      ((∃ k sl, (k, sl) ∈ i.x.slices ∧ sl.done = false ∧ sliceBit i.slices k = false) →
        y.queue = i.x.queue ∧ y.running = true ∧ ∀ k sl, i.x.slices.find k = some sl →
          y.slices.find k = some (if sliceBit i.slices k then { sl with done := true } else sl)) ∧
      y.v = i.x.v ∧ y.q = i.x.q ∧ y.s = i.x.s ∧ y.oplog = i.x.oplog) ∧
    (LaneAt s 0x38 4 (.i f) i → ∃ u y, exec (.vRegang f) s = .next u ∧ u.snd? i.ctx i.core i.slot = some y ∧
      y = { i.x with slices := y.slices, lclock := y.lclock, yielded := y.yielded } ∧
      ∀ k sl, i.x.slices.find k = some sl →
        y.slices.find k = some (if sliceBit i.slices k then { sl with atRegang := true } else sl)) ∧
    (LaneAt s 0x38 5 (.i f) i → exec (.vLtrap f) s = .next (if i.mask = 0 then i.retire s else i.trap s 0x0A (info := i.imm % 2 ^ 16)))

/-! ## Engine commands -/

/-- R181, R192, R193: a copy whose checks pass and which has nothing to wait for is accepted: its handle goes to filling and its
command joins the core's queue with the control word, the layout and the coordinates read at issue; a zero copy's handle
goes to full at once. copy.fo is one instruction of two words that carries its follow-on. A failing check is an exact trap
with its address, an invalid follow-on the trap 0x20, and an empty mask issues nothing. While a bank that it names is
changing its mode it waits and does not trap (R310); from the end of a slice to the safe point one that has passed its
checks is held with its command (R402). A record that cannot be read ends the command with ERR 1 (R185, R307). A record that
no write has reached since the last fence.eng of the issuing slices is read as it stands (R188). The model's choice in it:
that copy.fo waits for the copy queue and for the array's order (assumption log 58), that the checks of its follow-on come
after the copy's own (log 84) and from which point its record is read (log 61); the depth of the queue is free (log 37). -/
def Obligations.CopyCommandsAccepted : Prop :=
  ∀ (s : State) (i : Issue) (f : LaneR), LaneAt s 0x30 0 (.r f) i → i.passed = none →
    let c := i.opA s
    let l := layoutAt s i.req (i.opB s)
    let o := coords (i.opC s) (i.opD s)
    let check := copyChecks s i.req c (i.opB s) o
    let waits := copyWaits s i.req c l o
    let bad := padBad s i.ctx i.core (i.opB s) 128
    let free := (s.coreOf i.core).holding = false
    let queued := fun (t : State) (m : Option MatCmd) =>
      handleOf t i.ctx i.core (c % 256) = { state := 1, bytes := 0, err := 0 } ∧
      (∀ n : Nat, t.readPA n = s.readPA n) ∧
      ∃ cmd, (t.ccOf i.ctx i.core).copies = (s.ccOf i.ctx i.core).copies ++ [cmd] ∧ cmd.id = (s.ccOf i.ctx i.core).nextCmd ∧
        cmd.ctl = c ∧ cmd.handle = c % 256 ∧ cmd.lay = l ∧ cmd.coord = o ∧ cmd.follow = m ∧ cmd.fired = false ∧ cmd.bytes = 0
    ((∀ e ∈ s.history, i.since ≤ e.stamp →
        e.place < spPlace i.ctx i.core (i.opB s) ∨ spPlace i.ctx i.core (i.opB s) + 128 ≤ e.place) →
      l = layoutOf (spN s i.ctx i.core (i.opB s) 128)) ∧
    (i.mask = 0 → exec (.vCopy f) s = .next (i.retire s) ∧ exec (.vCopyFo f) s = .next (i.retire s 2)) ∧
    (i.mask ≠ 0 → i.copyBanks s = true → exec (.vCopy f) s = .next s) ∧
    (i.mask ≠ 0 → i.copyBanks s = false → (∀ e, check = some e → exec (.vCopy f) s = .next (i.trap s e.1 (addr := e.2))) ∧
      (check = none → (s.coreOf i.core).holding = true → exec (.vCopy f) s = .next (i.notePassed s (some (i.copyCmd s none)))) ∧
      (check = none → free → ∀ a, bad = some a → (handleOf s i.ctx i.core (c % 256)).state = 0 →
        ∃ t, exec (.vCopy f) s = .next t ∧ handleOf t i.ctx i.core (c % 256) = { state := 2, bytes := 0, err := 1 } ∧
          (t.ccOf i.ctx i.core).copies = (s.ccOf i.ctx i.core).copies) ∧
      (check = none → free → bad = none → waits = true → exec (.vCopy f) s = .next s) ∧
      (check = none → free → bad = none → waits = false → ∃ t, exec (.vCopy f) s = .next t ∧
        (l.isZero = false → queued t none) ∧
        (l.isZero = true → handleOf t i.ctx i.core (c % 256) = { state := 2, bytes := 0, err := 0 } ∧
          (t.ccOf i.ctx i.core).copies = (s.ccOf i.ctx i.core).copies))) ∧
    (i.mask ≠ 0 → (∀ ill, i.follow s = .error ill → exec (.vCopyFo f) s = .next (i.trap s 0x20 (ill := ill) (words := 2))) ∧
      ∀ k r w, i.follow s = .ok (k, r, w) →
        let fa := i.followOp s r.a.toNat
        let fb := i.followOp s r.b.toNat
        i.copyBanks s = false → matBusy s i.core i.ctx (matCmd s i.req k fa fb 0 0 w (some (c % 256))) (some fb) = false →
        (∀ e, check = some e → exec (.vCopyFo f) s = .next (i.trap s e.1 (addr := e.2) (words := 2))) ∧
        (check = none → i.followEmpties r = [] → (k.readsPad && i.ahead) = false → matChecks s i.ctx i.core k fa fb = none →
          free → bad = none → waits = false → l.isZero = false →
          ∃ t m, exec (.vCopyFo f) s = .next t ∧ queued t (some m) ∧ m.kind = k ∧ m.ctl = fa ∧ m.handle = some (c % 256) ∧
            m.fired = false))

/-- R196, Tables 4 and 5 of 07: hwait goes on where the handle's state is in the set and else stays; hrel moves a full handle to
handed (b = 0) or free (b = 1), and a handed one to free, and in any other state is the trap 0x2A; hstat writes the status
word. -/
def Obligations.HandleInstructions : Prop :=
  ∀ (s : State) (i : Issue) (f : LaneR), i.mask ≠ 0 →
    let a := i.opA s
    let b := i.opB s
    let h := handleOf s i.ctx i.core a
    let mine := (s.ccOf i.ctx i.core).share.handles.contains a
    let status := List.replicate 96 (h.bytes % 2 ^ 32 * 2 ^ 32 + h.err % 16 * 16 + h.state % 4, 0)
    (LaneAt s 0x35 0 (.r f) i → a < 256 → 0 < b → b < 16 → mine = true →
      (b.testBit h.state = true → exec (.vHwait f) s = .next (i.retire s)) ∧
      (b.testBit h.state = false → exec (.vHwait f) s = .next s)) ∧
    (LaneAt s 0x35 1 (.r f) i → a < 256 → b < 2 → mine = true →
      (h.state = 2 ∨ h.state = 3 ∧ b = 1 → ∃ t, exec (.vHrel f) s = .next t ∧
        handleOf t i.ctx i.core a = { h with state := if b = 0 then 3 else 0 } ∧
        (∀ n : Nat, n ≠ a → handleOf t i.ctx i.core n = handleOf s i.ctx i.core n) ∧
        (∀ n : Nat, t.readPA n = s.readPA n)) ∧
      (¬ (h.state = 2 ∨ h.state = 3 ∧ b = 1) → exec (.vHrel f) s = .next (i.trap s 0x2A))) ∧
    (LaneAt s 0x35 2 (.r f) i → a < 256 → mine = true → i.Ready s status → exec (.vHstat f) s = .next (i.commit s status)) ∧
    (LaneAt s 0x35 2 (.r f) i → 256 ≤ a → exec (.vHstat f) s = .next (i.trap s 0x21)) ∧
    (LaneAt s 0x35 2 (.r f) i → a < 256 → mine = false → exec (.vHstat f) s = .next (i.trap s 0x03))

/-- R197 to R199: while no bank of the buffer is changing its mode (R310), cbset configures an idle buffer, cbpush appends a row
of stored lanes where a row is free and every earlier producer has reserved, cbpop marks its name empty and queues its
claim, and cbstat writes the status word. The model's choice in it: the status of a buffer that is not configured
(assumption log 87). -/
def Obligations.CircularBufferInstructions : Prop :=
  ∀ (s : State) (i : Issue) (f : LaneR), i.mask ≠ 0 →
    let a := i.opA s
    let b := i.opB s
    let cc := s.ccOf i.ctx i.core
    let x := cbOf s i.ctx i.core a
    let row := (List.range (x.rowSize / 4)).flatMap (fun l => toBytes 4 ((i.srcB s).getD l 0))
    let status := List.replicate 96
      (if x.en then x.present % 2 ^ 16 + x.free % 2 ^ 16 * 2 ^ 16 + x.capacity % 2 ^ 16 * 2 ^ 32 + 2 ^ 48 else 0, 0)
    a < 16 → cc.share.cbufs.contains a = true →
    (LaneAt s 0x31 0 (.r f) i → i.cbsetBusy s = false →
      (cbConfigBad s i.ctx i.core a b = true → exec (.vCbset f) s = .next (i.trap s 0x27)) ∧
      (cbConfigBad s i.ctx i.core a b = false → cbBusy s i.ctx i.core a = true → exec (.vCbset f) s = .next (i.trap s 0x28)) ∧
      (cbConfigBad s i.ctx i.core a b = false → cbBusy s i.ctx i.core a = false →
        ∃ t, exec (.vCbset f) s = .next t ∧
          cbOf t i.ctx i.core a = { cfg := if b % 2 ^ 32 / 2 ^ 31 = 1 then b % 2 ^ 32 else 0, rows := [], claimed := 0 } ∧
          ∀ n : Nat, n ≠ a → cbOf t i.ctx i.core n = cbOf s i.ctx i.core n)) ∧
    (LaneAt s 0x31 0 (.r f) i → i.cbsetBusy s = true → exec (.vCbset f) s = .next s) ∧
    (LaneAt s 0x31 1 (.r f) i → i.cbBankBusy s = false → x.en = true → x.rowSize ≤ 384 →
      (x.free = 0 → exec (.vCbpush f) s = .next s) ∧
      (x.free ≠ 0 → producerTurn cc a cc.nextCmd = true → (∀ r ∈ x.rows, r.owner ≠ cc.nextCmd) →
        ∃ t, exec (.vCbpush f) s = .next t ∧
        cbOf t i.ctx i.core a = { x with rows := x.rows ++ [Row.mk row true cc.nextCmd] })) ∧
    (LaneAt s 0x31 2 (.r f) i → i.cbBankBusy s = false → x.en = true → x.rowSize ≤ 384 → i.room s false [] = true →
      ∃ t y fills, exec (.vCbpop f) s = .next t ∧ t.snd? i.ctx i.core i.slot = some y ∧
        (∀ n ∈ i.dstNames, y.isEmpty n = true) ∧
        (t.ccOf i.ctx i.core).pops = cc.pops ++ [PopCmd.mk cc.nextCmd a i.slot i.x.uid i.slices i.lanes fills]) ∧
    (LaneAt s 0x31 3 (.r f) i → i.Ready s status → exec (.vCbstat f) s = .next (i.commit s status))

/-- R200, R204 to R206, Table 2 of 07: a matrix instruction that names no bank whose mode is changing (R310), whose checks pass,
whose accesses are in order and for which the array has room takes the next place of the array order, and INFLIGHT of the
tile it names advances; a failing check is an exact trap; from the end of a slice to the safe point one that has passed its
checks is held with its command (R402). The model's choice in it: that the depth of the array is free (assumption log 37),
how many scale bytes are checked where the descriptors are invalid (log 88), and that an uncorrectable error in the block or
the table ends the command after its acceptance (log 86). -/
def Obligations.MatrixCommandsJoinArray : Prop :=
  ∀ (s : State) (i : Issue) (f : LaneR) (ins : Instr) (min : Nat) (k : MatKind),
    (ins, min, k) ∈ [(.vMldw f, 0, MatKind.mldw), (.vMswap f, 1, .mswap), (.vMstream f, 2, .mstream), (.vMdrain f, 3, .mdrain),
      (.vMclear f, 4, .mclear), (.vMperm f, 5, .mperm)] →
    LaneAt s 0x32 min (.r f) i → i.mask ≠ 0 → (k.readsPad && i.ahead) = false → i.passed = none →
    let cc := s.ccOf i.ctx i.core
    let cmd := matCmd s i.req k (i.opA s) (i.opB s) i.ty i.rnd i.word none
    matBusy s i.core i.ctx cmd (some (i.opB s)) = false →
    (∀ e, matChecks s i.ctx i.core k (i.opA s) (i.opB s) = some e → exec ins s = .next (i.trap s e.1 (addr := e.2))) ∧
    (matChecks s i.ctx i.core k (i.opA s) (i.opB s) = none → ∀ e, matPlace cc cmd = some e →
      exec ins s = .next (i.trap s e.1 (addr := e.2))) ∧
    (matChecks s i.ctx i.core k (i.opA s) (i.opB s) = none → matPlace cc cmd = none →
      (s.coreOf i.core).holding = true → exec ins s = .next (i.notePassed s (some (.mat cmd)))) ∧
    (matChecks s i.ctx i.core k (i.opA s) (i.opB s) = none → matPlace cc cmd = none →
      cc.array.length ≤ Config.engineDepth → (s.coreOf i.core).holding = false →
      ∃ t, exec ins s = .next t ∧ (t.ccOf i.ctx i.core).array = cc.array ++ [cmd] ∧
        (t.ccOf i.ctx i.core).nextCmd = cc.nextCmd + 1 ∧ cmd.id = cc.nextCmd ∧ cmd.kind = k ∧ cmd.ctl = i.opA s ∧
        (∀ n : Nat, ((t.ccOf i.ctx i.core).tiles.getOr Tile.reset n).inflight =
          (cc.tiles.getOr Tile.reset n).inflight + if cmd.tile = some n then 1 else 0) ∧
        (t.ccOf i.ctx i.core).active = cc.active ∧ (t.ccOf i.ctx i.core).shadow = cc.shadow ∧
        (t.ccOf i.ctx i.core).perm = cc.perm ∧ (∀ n : Nat, t.readPA n = s.readPA n))

/-- R208, R209, R323: a route that names no bank whose mode is changing and whose checks pass is queued at the engine of its die
with the handle filling; cstart starts the member's part of its open instance with the addresses and the control word given,
once its previous part is over. From the end of a slice to the safe point both are held with their command (R402). The
model's choice in it: that the depth of the routing queue is free (assumption log 37) and from which point the record is
read (log 61). -/
def Obligations.RouteAndCstartAccepted : Prop :=
  ∀ (s : State) (i : Issue) (f : LaneR), i.mask ≠ 0 → i.passed = none →
    let c := i.opA s
    let recs := routeRecs s i.req (i.opB s)
    (LaneAt s 0x33 0 (.r f) i → i.routeBanks s = false →
      (∀ e, routeChecks s i.req c (i.opB s) = some e → exec (.vRoute f) s = .next (i.trap s e.1 (addr := e.2))) ∧
      (routeChecks s i.req c (i.opB s) = none → (s.coreOf i.core).holding = true →
        exec (.vRoute f) s = .next (i.notePassed s (some (i.routeCmd s)))) ∧
      (routeChecks s i.req c (i.opB s) = none → (s.coreOf i.core).holding = false → padBad s i.ctx i.core (i.opB s) 64 = none →
        padBad s i.ctx i.core recs.1.srec 128 = none → routeWaits s i.req c recs.2 = false →
        ∃ t cmd, exec (.vRoute f) s = .next t ∧ handleOf t i.ctx i.core (c % 256) = { state := 1, bytes := 0, err := 0 } ∧
          t.routeQ.getOr [] (dieOf i.core) = s.routeQ.getOr [] (dieOf i.core) ++ [cmd] ∧
          cmd.ctl = c ∧ cmd.handle = c % 256 ∧ cmd.ctx = i.ctx ∧ cmd.core = i.core ∧
          cmd.k = recs.1.k ∧ cmd.score = recs.2 ∧
          (∀ n : Nat, t.readPA n = s.readPA n))) ∧
    (LaneAt s 0x34 0 (.r f) i →
      (∀ e, cstartChecks i s = some e → exec (.vCstart f) s = .next (i.trap s e.1 (addr := e.2))) ∧
      (cstartChecks i s = none → (s.coreOf i.core).holding = true →
        exec (.vCstart f) s = .next (i.notePassed s (some (.start c (i.opB s) (i.opC s) (i.opD s))))) ∧
      (cstartChecks i s = none → (s.coreOf i.core).holding = false → ∀ e m, s.entry? i.ctx (i.opB s) = some e →
        startMember i s e = some m → (e.part m).started = false → (e.part m).owed.contains (e.part m).inst = false →
        ∃ t e' p, exec (.vCstart f) s = .next t ∧ t.entry? i.ctx (i.opB s) = some e' ∧ e'.parts.find m = some p ∧
          p.started = true ∧ p.src = i.opC s ∧ p.dst = i.opD s ∧ p.ctl = c ∧ p.bar = i.core * 2 ^ 9 + c % 2 ^ 9 ∧
          p.inst = (e.part m).inst ∧ (∀ n : Nat, n ≠ m → e'.parts.find n = e.parts.find n) ∧
          (∀ n : Nat, t.readPA n = s.readPA n)))

/-! ## Programs of the port engines -/

/-- R240, R247: the register words of a program leave the result of their operation in xd, x0 reading 0 and taking nothing, and
go on; nothing but the thread's register and pc changes. R248: a branch goes to its own place plus the offset where its
relation holds, else to the next word. -/
def Obligations.McfRegistersAndBranches : Prop :=
  (∀ (s : State) (port ctx cid : Nat) (e : CollEntry) (t : Thread) (d a b : BitVec 4) (im : BitVec 32),
     McfAt s port ctx cid e t →
     let p := t.reg a
     let q := t.reg b
     let put := fun v : Word => s.putThread port ctx cid
       { t with x := if d = 0 then t.x else t.x.setOr 0 d.toNat v, pc := t.pc + 1 }
     t.reg 0 = 0 ∧
     exec (.mLi d im) s = .next (put (im.signExtend 64)) ∧
     exec (.mAddi d a im) s = .next (put (p + im.signExtend 64)) ∧
     exec (.mAdd d a b) s = .next (put (p + q)) ∧
     exec (.mSub d a b) s = .next (put (p - q)) ∧
     exec (.mAnd d a b) s = .next (put (p &&& q)) ∧
     exec (.mOr d a b) s = .next (put (p ||| q)) ∧
     exec (.mXor d a b) s = .next (put (p ^^^ q)) ∧
     exec (.mShl d a b) s = .next (put (p <<< (q.toNat % 64))) ∧
     exec (.mShr d a b) s = .next (put (p >>> (q.toNat % 64))) ∧
     exec (.mMinn d a b) s = .next (put (if q.toNat < p.toNat then q else p))) ∧
  (∀ (s : State) (port ctx cid : Nat) (e : CollEntry) (t : Thread) (a b : BitVec 4) (off : BitVec 32),
     McfAt s port ctx cid e t →
     let p := t.reg a
     let q := t.reg b
     let taken := s.putThread port ctx cid { t with pc := (BitVec.ofNat 64 t.pc + off.signExtend 64).toNat }
     let next := s.putThread port ctx cid { t with pc := t.pc + 1 }
     exec (.mBAl off) s = .next taken ∧
     exec (.mBEq a b off) s = .next (if p = q then taken else next) ∧
     exec (.mBNe a b off) s = .next (if p = q then next else taken) ∧
     exec (.mBLtn a b off) s = .next (if p.toNat < q.toNat then taken else next) ∧
     exec (.mBGen a b off) s = .next (if p.toNat < q.toNat then next else taken) ∧
     exec (.mBLt a b off) s = .next (if p.toInt < q.toInt then taken else next) ∧
     exec (.mBGe a b off) s = .next (if p.toInt < q.toInt then next else taken))

/-- R249, R250: match takes the oldest queued packet of an accepted kind into its empty register, and waits while there is none;
rdh, rdm, mark, hold and drop read and keep what Table 3 of 09 says, and a word that names an empty packet register is a
program error. The model's choice in it: that the hold area is one for each chunk and how deep it is (assumption logs 37,
53). -/
def Obligations.McfPacketWords : Prop :=
  ∀ (s : State) (port ctx cid : Nat) (e : CollEntry) (t : Thread) (d a : BitVec 4) (pk : BitVec 2) (kinds : BitVec 5)
    (tmo : BitVec 32) (fld : BitVec 3), McfAt s port ctx cid e t →
    let go := fun (u : State) (t' : Thread) => Host.Outcome.next (ρ := Refusal) (φ := Fault) (u.putThread port ctx cid t')
    let set := fun (t' : Thread) (v : Word) => { t'.setReg d v with pc := t.pc + 1 : Thread }
    let out := { t with pk := t.pk.del pk.toNat, pc := t.pc + 1 : Thread }
    (t.pk.find pk.toNat = none →
      (∀ i ∈ [Instr.mRdh d pk fld, .mMark d pk, .mHold pk, .mDrop pk, .mDlvPk a pk, .mDlvG a pk],
        exec i s = .next (progError s port ctx cid e t)) ∧
      (∀ p r, takeKind kinds t.inTime = some (p, r) → t.cut = none →
        exec (.mMatch d pk kinds tmo) s = go s (set
          { t with rq := r, pk := t.pk.put pk.toNat { pkt := p, fresh := false }, matchEnd := none } 0)) ∧
      (takeKind kinds t.inTime = none → tmo = 0 → exec (.mMatch d pk kinds tmo) s = go s t)) ∧
    (∀ k : PkReg, t.pk.find pk.toNat = some k →
      let m := k.pkt.member
      let c := t.chunk e port k.pkt.chunk
      let bit := (1 : BitVec 64) <<< m
      let ack := s.emit (.answer k.pkt.srcpkg 0 0 [])
      exec (.mMatch d pk kinds tmo) s = .next (progError s port ctx cid e t) ∧
      exec (.mRdh d pk fld) s = go s (set t (BitVec.ofNat 64 (match fld.toNat with
        | 0 => m | 1 => k.pkt.chunk | 2 => k.pkt.inst | 3 => k.pkt.kind | 4 => k.pkt.payload.length | 5 => k.pkt.srcpkg
        | _ => if k.fresh then 1 else 0))) ∧
      exec (.mDrop pk) s = go ack out ∧
      (c.bits.getLsbD m = false → exec (.mMark d pk) s = go s (set
        { t with chunks := t.chunks.put k.pkt.chunk { c with bits := c.bits ||| bit }, pk := t.pk.put pk.toNat { k with fresh := true } } 0)) ∧
      (c.bits.getLsbD m = true → exec (.mMark d pk) s = go s (set
        { t with chunks := t.chunks.put k.pkt.chunk { c with bits := c.bits ||| bit } } 1)) ∧
      (let held := { c with held := c.held ||| bit, hold := c.hold.put m k.pkt.payload }
       k.pkt.kind < 2 → k.fresh = true → c.absent.getLsbD m = false → c.hold.length < Config.holdDepth + 3 →
        exec (.mHold pk) s = go ack { out with chunks := t.chunks.put k.pkt.chunk held })) ∧
    (let m := (t.reg a).toNat
     (e.rows.length ≤ m → exec (.mRdm d a fld) s = .next (progError s port ctx cid e t)) ∧
     (m < e.rows.length → (fld = 0 → exec (.mRdm d a fld) s = go s (set t (BitVec.ofNat 64 (e.row m).pkg))) ∧
       (fld = 1 → exec (.mRdm d a fld) s = go s (set t (if (e.row m).pkg = s.plat.pkgid then 1 else 0))) ∧
       (fld = 2 → exec (.mRdm d a fld) s = go s (set t (BitVec.ofNat 64 (e.row m).buddy))) ∧
       ((e.row m).pkg = s.plat.pkgid → e.isAbsent m = false →
         (∀ p, e.partAt m t.inst = some p →
           (fld = 3 → exec (.mRdm d a fld) s = go s (set t (BitVec.ofNat 64 p.src))) ∧
           (fld = 4 → exec (.mRdm d a fld) s = go s (set t (BitVec.ofNat 64 p.dst))) ∧
           (5 ≤ fld.toNat → exec (.mRdm d a fld) s = go s (set t (BitVec.ofNat 64 p.bar)))) ∧
         (e.partAt m t.inst = none → 3 ≤ fld.toNat → exec (.mRdm d a fld) s = go s t)) ∧
       ((e.row m).pkg = s.plat.pkgid → e.isAbsent m = true → 3 ≤ fld.toNat → exec (.mRdm d a fld) s = go s (set t 0))))

/-- R252 to R254: stream holds a started member's source chunk; fold combines the held chunks in ascending member order as far
as they reach and reports the end; fold.q reads NEXT; comb combines a fresh packet with the member's own chunk and sets its
bit. The model's choice in it: comb of an absent member and when staging is released (assumption logs 51, 52); the positions
beyond a short payload are a free function of the tags (log 43). -/
def Obligations.McfCombiningWords : Prop :=
  ∀ (s : State) (port ctx cid : Nat) (e : CollEntry) (t : Thread) (d a b : BitVec 4) (pk : BitVec 2) (lo : BitVec 1),
    McfAt s port ctx cid e t →
    let go := fun (u : State) (t' : Thread) => Host.Outcome.next (ρ := Refusal) (φ := Fault) (u.putThread port ctx cid t')
    let m := (t.reg a).toNat
    let c := (t.reg b).toNat
    let x := t.chunk e port c
    let set := fun (t' : Thread) (v : Word) => { t'.setReg d v with pc := t.pc + 1 : Thread }
    let bit := fun n : Nat => (1 : BitVec 64) <<< n
    let mine := fun bs => { x with bits := x.bits ||| bit m, held := x.held ||| bit m, hold := x.hold.put m bs }
    (m < e.rows.length → c < e.chunks → (e.row m).pkg = s.plat.pkgid → e.excluded port m = false → e.isAbsent m = false →
      startedIn e t m = true → x.bits.getLsbD m = false → ∀ bs, readSource s port ctx cid e t m c = .data bs →
      exec (.mStream a b) s = go s { t with got := [], pc := t.pc + 1, chunks := t.chunks.put c (mine bs) }) ∧
    (e.chunks ≤ c → ∀ i ∈ [Instr.mStream a b, .mFoldSum d b, .mFoldMin d b, .mFoldMax d b, .mFoldQ d b],
      exec i s = .next (progError s port ctx cid e t)) ∧
    (c < e.chunks →
      exec (.mFoldQ d b) s = go s (set t (BitVec.ofNat 64 x.next)) ∧
      (x.done = true → ∀ i ∈ [Instr.mFoldSum d b, .mFoldMin d b, .mFoldMax d b], exec i s = go s (set t 0)) ∧
      (x.done = false → ∀ (i : Instr) (op : Nat), (i, op) ∈ [(.mFoldSum d b, 0), (.mFoldMin d b, 1), (.mFoldMax d b, 2)] →
        let r := foldFrom e op c (e.rows.length - x.next) x []
        let fin := r.1.next == e.rows.length
        let acc := if fin && !r.1.folded then List.replicate (e.clen c / e.esize) 0 else r.1.acc
        exec i s = go (releaseStaged s port ctx cid e t.inst c r.2)
          (set { t with chunks := t.chunks.put c { r.1 with done := fin, acc := acc } } (if fin then 1 else 0)))) ∧
    (∀ k : PkReg, t.pk.find pk.toNat = some k → k.fresh = true → k.pkt.kind < 2 →
      let n := k.pkt.chunk
      let y := t.chunk e port n
      c < e.rows.length → (e.row c).pkg = s.plat.pkgid → e.excluded port c = false → y.bits.getLsbD c = false →
      e.isAbsent c = false → startedIn e t c = true → ∀ bs, readSource s port ctx cid e t c n = .data bs →
      ∀ (i : Instr) (op : Nat), (i, op) ∈ [(.mCombSum pk b lo, 0), (.mCombMin pk b lo, 1), (.mCombMax pk b lo, 2)] →
        let v := (e.widen k.pkt.payload).zipIdx.map fun p =>
          match (e.widen bs)[p.2]? with
          | some q => if lo = 1 then combine op q p.1 else combine op p.1 q
          | none => p.1
        let done := { y with bits := y.bits ||| bit c }
        let full := { k with pkt := { k.pkt with payload := e.narrow v ++ k.pkt.payload.drop (e.narrow v).length } }
        exec i s = go (releaseStaged s port ctx cid e t.inst n [c])
          { t with got := [], pc := t.pc + 1, pk := t.pk.put pk.toNat full, chunks := t.chunks.put n done })

/-- R255 to R257, R247: the words that send and deliver, and the end of an instance: fwd and fwd.acc send the packet to the hops
of the mask, dlv, dlv.pk and dlv.g write the member's bytes, tkreq asks the buddy, arrive makes the member's one arrival,
and end goes on to the next instance once every local member has arrived. The model's choice in it: what a second arrive is,
the copy to the buddy store, when a dlv is tried again and what it meets at a poisoned line (assumption logs 46, 48 to 50,
55); bytes that complete no element are free (log 43). -/
def Obligations.McfDeliveryWords : Prop :=
  ∀ (s : State) (port ctx cid : Nat) (e : CollEntry) (t : Thread) (a b c : BitVec 4) (pk : BitVec 2) (k : BitVec 3)
    (st : BitVec 8), McfAt s port ctx cid e t →
    let go := fun (u : State) (t' : Thread) => Host.Outcome.next (ρ := Refusal) (φ := Fault) (u.putThread port ctx cid t')
    let on := { t with pc := t.pc + 1 : Thread }
    let m := (t.reg a).toNat
    let ch := (t.reg b).toNat
    let hops := (t.reg a).toNat % 2 ^ 16
    let tag := (t.reg c).toNat % 2 ^ 6
    let packet := fun (n : Nat) (bs : List Byte) => (Packet.mk tag n t.inst k.toNat s.plat.pkgid bs)
    let p := (e.partAt m t.inst).getD (e.part m)
    let here := m < e.rows.length ∧ (e.row m).pkg = s.plat.pkgid ∧ e.isAbsent m = false ∧ startedIn e t m = true ∧
      t.again.any (fun g => decide (s.cycle < g.2)) = false
    let img := match s.launch? (p.snd / 2 ^ 24) with | some l => l.image | none => 0
    let out := fun u : State => u.veil s.writes (ctlWide p.ctl) p.core (p.snd / 2 ^ 24)
    let write := fun (off : Nat) (bs : List Byte) => dlvWrite s ctx p.wid img (.thread port ctx cid m t.inst) (p.dst + off) bs
    let wrote := { on with again := none : Thread }
    let posted := fun n : Nat => { wrote with unacked := t.unacked.put (ackKey t m) (t.unacked.getOr 0 (ackKey t m) + n) : Thread }
    let delivers := fun (i : Instr) (off : Nat) (bs : List Byte) => ∀ u n,
      (write off bs = (.done u, n) → exec i s = go (out u) wrote) ∧
      (write off bs = (.remote u, n) → exec i s = go (out u) (posted n)) ∧
      (∀ k d, write off bs = (.bad k d, n) → exec i s = .next (threadFault s port ctx cid e t m k d n))
    (tag < e.rows.length → (∀ h, h < 16 → hops.testBit h = true → (e.hops.find h).isSome = true) →
      (∀ r, t.pk.find pk.toNat = some r → exec (.mFwd pk k a c) s = go (forward s ctx cid e hops (packet r.pkt.chunk r.pkt.payload)) on) ∧
      (ch < e.chunks → (t.chunk e port ch).done = true →
        exec (.mFwdAcc b k a c) s = go (forward s ctx cid e hops (packet ch (accBytes e ch (t.chunk e port ch).acc))) on)) ∧
    (here →
      (ch < e.chunks → (t.chunk e port ch).done = true →
        delivers (.mDlv a b) (ch * e.cb) (accBytes e ch (t.chunk e port ch).acc)) ∧
      (∀ r, t.pk.find pk.toNat = some r →
        delivers (.mDlvPk a pk) (r.pkt.chunk * e.cb) r.pkt.payload ∧
        delivers (.mDlvG a pk) ((r.pkt.member * e.chunks + r.pkt.chunk) * e.cb) r.pkt.payload) ∧
      (t.arrived.contains m = false → laterInst t.inst (e.part m).inst = false →
        (ctlScope (e.part m).ctl = 2 → t.unacked.getOr 0 (ackKey t m) = 0) →
        exec (.mArrive a st) s = go (partDone s ctx cid m (Alu.orN st.toNat (if e.absent = 0 then 0 else 1)) port)
          { on with arrived := m :: t.arrived })) ∧
    (m < e.rows.length → ch < e.chunks → exec (.mTkreq a b) s =
      go (s.sendOp (.takeover (e.row (e.row m).buddy).pkg port ctx cid m ch t.inst)) on) ∧
    (t.rq = [] → ((membersOn e s.plat.pkgid).all (arrivedIn e t) = true → ∃ u t', exec .mEnd s = .next u ∧
        u.thread? port ctx cid = some t' ∧ t'.inst = (t.inst + 1) % 2 ^ 32 ∧ t'.pc = 0 ∧ t'.rq = t.overflow ∧ t'.chunks = [] ∧
        t'.pk = [] ∧ t'.arrived = []) ∧
      ((membersOn e s.plat.pkgid).all (arrivedIn e t) = false → exec .mEnd s = .next (progError s port ctx cid e t)))

/-! ## Events of accesses and of the core -/

/-- R33, R161, R163, R225, R326, R399: what becomes of accesses after issue. A load's returned values go to the lanes its name
still takes and to no other lane; the next lane of a log entry that nothing holds back is performed at its local place, or
faults and is held; an alias store that staging accepts leaves its entry; a held fault is delivered outside handler mode; an
answer settles the remote operation it belongs to; a placement whose backoff has passed is sent again; a message's status
retires mbsend. The model's choice in it: which counter counts discarded alias stores, how a message and its placement end
and what a whole-line store is (assumption logs 36, 60, 64, 66); where an atomic of .core is split, and what a load sees of
an unreleased engine write, are free (log 61). -/
def Obligations.AccessEventsComplete : Prop :=
  ∀ (s : State) (c k j n : Nat),
    (∀ x f, s.snd? c k j = some x → x.fills.find n = some f → f.got.sorted = true → f.memo = none → f.share = false → f.want = [] →
      f.hi = false → (x.fills.find (n + 1)).all (fun g => !g.hi) = true →
      ∃ t y, exec (.eLaneLoadFill c k j n) s = .next t ∧ t.snd? c k j = some y ∧ y.fills.find n = none ∧
        (∀ m l : Nat, l < 96 → (y.vreg m).getD l 0 =
          if m = f.name ∧ f.keep.contains l = true ∧ (f.got.find l).isSome = true then BitVec.ofNat 32 (f.got.getOr 0 l)
          else (x.vreg m).getD l 0) ∧
        (∀ a : Nat, t.readPA a = s.readPA a)) ∧
    (∀ x e la far pa, s.snd? c k j = some x → x.wait = .ready → x.oplog.find n = some e → x.dueLane e = some la →
      revoked s c = false → coreSplit s k = false → la.got = none →
      la.loc = .mem far pa → racing s c la.va = false →
      (e.kind = .load → s.poisoned pa = false → s.lags k pa (tySize e.ty) = false → exec (.eAccessPerformed c k j n 0 false) s =
        .next (s.putSnd c k j (x.finishLane n e la (loadExt e.ty (s.readN pa (tySize e.ty)))))) ∧
      (e.kind = .store → exec (.eAccessPerformed c k j n 0 false) s =
        .next ((storeMem s c pa e.wid (toBytes (tySize e.ty) la.data)).putSnd c k j (x.finishLane n e la 0))) ∧
      (e.kind = .atomic → 1 ≤ e.minor / 16 % 4 → s.poisoned pa = false → exec (.eAccessPerformed c k j n 0 false) s =
        .next ((storeMem s c pa e.wid (toBytes (tySize e.ty)
            (atomNew (e.minor % 16) e.ty (s.readN pa (tySize e.ty)) la.data la.new))).putSnd c k j
          (x.finishLane n e la (s.readN pa (tySize e.ty))))) ∧
      (e.kind = .load → s.poison.contains (pa / 64) = false → exec (.eAccessPerformed c k j n 0 true) s =
        .next ((countError { s with poison := pa / 64 :: s.poison } poisonedLines).putSnd c k j
          (x.holdLane n e la 0x50 (nackDetail 0 0 true false + la.level s c))))) ∧
    (∀ x e la cid va t, s.snd? c k j = some x → x.wait = .ready → x.oplog.find n = some e →
      e.todo.find? (fun a => a.lane == la.lane && a.sent) = some la → la.loc = .aliasWin cid va →
      e.todo.any (fun b => b.sent && decide (b.lane < la.lane) && b.va / 8 == va / 8) = false →
      aliasAccept s c cid la.new va (toBytes (tySize e.ty) la.data) x k e.slices = (t, true) → t.snd? c k j = some x →
      exec (.eAliasStoreAccept c k j n la.lane) s = .next (t.putSnd c k j (x.finishLane n e la 0))) ∧
    (∀ x e la rest, s.snd? c k j = some x → x.oplog.find n = some e → e.held = la :: rest → e.told = false → x.handler = false →
      x.parked = false → x.suspended = none → x.midSend = false → x.oplog.all (fun o => o.2.again.isEmpty) = true →
      exec (.eDeferredFaultDelivery c k j n) s =
        .next (takeTrap (s.putSnd c k j { x with oplog := x.oplog.put n { e with told := true } }) c k j
          { cause := e.cause, stream := 2, oplog := some n, lpc := e.lpc, slices := e.slices,
            lane := if e.slices = 0 then none else some la.lane, block := e.block, word := e.word, addr := la.va, info := e.detail })) ∧
    (∀ p x d y pkg va v, s.pend.find n = some p → p.msg.origin? = some (.scalar c k j) → s.snd? c k j = some x →
      x.wait = .load d y pkg va → racing s c va = false →
      exec (.eWindowAckArrival n (.ok v)) s =
        .next (({ s with pend := s.pend.del n } : State).putSnd c k j (({ x with wait := .ready } : Snd).setS d (scalarExt y v)).adv)) ∧
    (∀ p due, s.pend.find n = some p → p.backoff = some due → due ≤ s.cycle →
      exec (.eDirectPlacementRetry n) s =
        .next (({ s with pend := s.pend.put n { p with backoff := none, status := none, sentAt := s.cycle,
                                                       port := if p.msg.pkg = s.plat.pkgid then none else s.portFor p.msg } }
          : State).emit p.msg)) ∧
    (∀ p x d st pkg a b e f bs q, s.pend.find n = some p → p.msg = .mail pkg a b e f bs (.mail c k j) q → pkg ≠ s.plat.pkgid → st < 4 →
      s.snd? c k j = some x → x.wait = .mbsend d →
      exec (.eMailboxStatusReturn n st) s =
        .next (({ s with pend := s.pend.del n } : State).putSnd c k j (({ x with wait := .ready } : Snd).setS d (BitVec.ofNat 64 st)).adv))

/-- R48, R49, R216, R217, R220, R232, R127, R249, R293, R286: a waiting sounder goes on where what it waits for has come, at its
place. The youngest sounder that may be parked is parked and keeps its values; the oldest parked one resumes; the regang
joins the slices that wait; the oldest queued block starts; a match times out with 1; a wait for a handle, a barrier phase,
an event or its turn in deterministic mode ends; an armed timer latches once its delay has passed. The model's choice in it:
which registers SOUNDER_PARK names (assumption log 39), when a set is ready (log 47) and for what a handler's stream waits
(log 62). -/
def Obligations.WaitsEnd : Prop :=
  ∀ (s : State) (c k j : Nat),
    (∀ x n l, s.snd? c k j = some x → (s.ccOf c k).sounders.filter (fun e => !e.2.parked) = l →
      (l.filter (fun e => !e.2.cores && e.2.age != l.foldl (fun m e => min m e.2.age) (2 ^ 64))).find?
        (fun e => e.2.age == (l.filter (fun e => !e.2.cores && e.2.age != l.foldl (fun m e => min m e.2.age) (2 ^ 64))).foldl
          (fun m e => max m e.2.age) 0) = some (j, x) →
      (waitedRegs s c k).contains n = true → Issue.poolRoom s c k n = false → x.fills = [] →
      exec (.eSounderPark c k n) s = .next
        ((saveNames s c k j (match residentBank s c k with | some b => (ownedBanks s k b).keys | none => []) x).putSnd c k j
          { x with parked := true, rpark := x.rpark + 1, bound := [] })) ∧
    (∀ x l, (s.ccOf c k).sounders.filter (fun e => e.2.parked) = l →
      l.find? (fun e => e.2.age == l.foldl (fun m e => min m e.2.age) (2 ^ 64)) = some (j, x) → Issue.poolRoom s c k x.n = true →
      (residentBank s c k).isSome = true →
      exec (.eSounderResume c k) s = .next (Issue.bindEach (s.putSnd c k j { x with parked := false }) c k j x.v.keys).1) ∧
    (∀ x, s.snd? c k j = some x → x.running = true → x.slices.all (fun e => e.2.done || e.2.atRegang) = true →
      x.slices.any (fun e => !e.2.done) = true → exec (.eRegangJoin c k j) s = .next (s.putSnd c k j x.rejoin)) ∧
    (∀ x b q, s.snd? c k j = some x → x.running = false → x.queue = b :: q →
      exec (.eLaneBlockStart c k j) s = .next (s.putSnd c k j
        ({ x with running := true, slices := startSlices b, yielded := [],
                  joins := if x.past.isEmpty then x.joins else stampPairs x.joins x.past.length (fun _ _ => true) } : Snd).endBlock)) ∧
    (∀ p cid e t due, s.entry? c cid = some e → s.thread? p c cid = some t → e.prog.getD t.pc 0 / 2 ^ 56 = 5 → t.matchEnd = some due →
      due ≤ s.cycle → takeKind (BitVec.ofNat 5 (e.prog.getD t.pc 0 / 2 ^ 32)) t.inTime = none →
      exec (.eMatchTimeout p c cid) s = .next (s.putThread p c cid (t.matched (BitVec.ofNat 4 (e.prog.getD t.pc 0 / 2 ^ 52)) 1))) ∧
    (∀ x d ref token, s.snd? c k j = some x → x.wait = .bar d ref token → mayWake s c k x = true →
      phasePassed (barrierOf (wake s c k) c (refCore ref) (refNumber ref)) token = true →
      exec (.eBarrierWaitRelease c k j) s =
        .next ((wake s c k).putSnd c k j (({ x with wait := .ready } : Snd).setS d (waitResult (wake s c k) c ref)).adv)) ∧
    (∀ x d n, s.snd? c k j = some x → x.wait = .waitany d → x.eligible = some n → mayWake s c k x = true →
      exec (.eWaitanyWake c k j) s = .next ((wake s c k).putSnd c k j (x.takeEvent d n))) ∧
    (∀ x n due, s.snd? c k j = some x → x.timers.find n = some due → due ≤ s.cycle → x.armed.getLsbD n = true →
      exec (.eEventTimerExpiry c k j n) s =
        .next ((wake s c k).putSnd c k j { x with pending := setBit8 x.pending n true, timers := x.timers.del n })) ∧
    (∀ x w ins, s.snd? c k j = some x → x.wait = .det w → mayWake s c k x = true →
      (let d := BitVec.ofNat 6 (w / 2 ^ 20)
       let a := BitVec.ofNat 6 (w / 2 ^ 14)
       let b := BitVec.ofNat 6 (w / 2 ^ 8)
       [(0x26, 0, Instr.sJoin d a), (0x26, 1, .sLeave a), (0x26, 2, .sBarArrive d a b), (0x26, 4, .sBarSync d a),
        (0x27, 1, .sMbsend d a b), (0x29, 1, .sSndend), (0x29, 2, .sTret)].contains (w / 2 ^ 26, w % 2 ^ 8, ins) = true) →
      ∃ t, exec ins { s with cur := .scalar c k j } = .next t ∧
        exec (.eDeterministicRelease c k j) s = .next { t with cur := s.cur }) ∧
    (∀ x sl i, s.snd? c k j = some x → x.running = true → mayWake s c k x = true →
      laneWordAt s c x (x.slices.getOr Slice.reset (lowSlice sl)).pc / 2 ^ 80 = 0x3500 →
      (List.range 24).all (fun i => !sliceBit sl i || ((x.slices.getOr Slice.reset i).pc == (x.slices.getOr Slice.reset (lowSlice sl)).pc
        && !(x.slices.getOr Slice.reset i).done)) = true →
      LaneAt { s with cur := .lane c k j sl } 0x35 0
        (.r (laneRof (laneWordAt s c x (x.slices.getOr Slice.reset (lowSlice sl)).pc))) i → i.mask ≠ 0 →
      i.opA { s with cur := .lane c k j sl } < 256 → 0 < i.opB { s with cur := .lane c k j sl } →
      i.opB { s with cur := .lane c k j sl } < 16 →
      (s.ccOf c k).share.handles.contains (i.opA { s with cur := .lane c k j sl }) = true →
      (i.opB { s with cur := .lane c k j sl }).testBit (handleOf s c k (i.opA { s with cur := .lane c k j sl })).state = true →
      exec (.eHwaitReturn c k j sl) s = .next { i.retire { s with cur := .lane c k j sl } with cur := s.cur }) ∧
    (∀ q x, quadSounders s k q = (c, [(j, x)]) → x.mayIssue = true → x.wait = .ready → (s.coreOf k).scalPort.find q = none →
      exec (.eQuadrantArbitration k q false) s = .next { ((s.modSnd c k j (fun y =>
          { y with waits := y.waits.setOr 0 24 0, yielded := y.yielded.filter (· != 24) })).modCore k
          (fun z => { z with scalPort := z.scalPort.put q j })) with freeCtr := s.freeCtr + 16 })

/-! ## Events of engines, launches and time slices -/

/-- R103, R185, R192, R198, R200, R208, R316: a command that uses no circular buffer and whose ACQ is met fires, and with ACQ
reads nothing older than that; a copy or a route with nothing left to move completes, its handle full with ERR 0 and its
count of bytes; a fired array command leaves its order with its effect, a transient error has it executed again from what it
kept, and an uncorrectable error or a faulting access ends or suspends the command that meets it. The model's choice in it:
how a copy into registers ends with an error (assumption log 58), the handle of a follow-on that is ended by a fault (log
85), an uncorrectable error in a block or table (log 86), and that BYTES counts a store of a window when it leaves (log 83);
the bytes beyond a drained row are free (log 43), and so is the point of a read within its interval (log 61). -/
def Obligations.EngineEventsComplete : Prop :=
  ∀ (s : State) (c k n : Nat),
    (∀ m, arrayHead s c k = some m →
      (badScale s c k m = none → exec (.eArrayCommandComplete c k) s = .next (leaveArray (matEffect s c k m) c k m)) ∧
      (∀ a, badScale s c k m = some a → exec (.eArrayCommandComplete c k) s = .next (faultArray s c k m a)) ∧
      exec (.eArrayTransientError c k) s = .next (countError (putMat s c k { m with retries := m.retries + 1 }) arrayRetries) ∧
      (m.scales.2 = 0 → exec (.eEngineAccessFault c k 1 n true) s = .next (faultArray s c k m 0)) ∧
      (m.scales.2 ≠ 0 → exec (.eEngineAccessFault c k 1 n true) s =
        .next (faultArray (poisonLoc s c k (.sp m.scales.1)) c k m m.scales.1))) ∧
    (∀ y cause d a ue, (s.ccOf c k).copies.find? (fun e => e.id == n) = some y → copyStep s c k y = .bad cause d a →
      exec (.eEngineAccessFault c k 0 n ue) s = .next (faultCopy s c k y cause d a)) ∧
    (∀ y m, (s.ccOf c k).copies.find? (fun e => e.id == n) = some y → y.fired = true → y.suspended = none → y.lay.dkind < 2 →
      y.lay.skind < 2 → y.lay.total ≤ y.next → y.unacked = 0 → y.follow = none → y.fills = [] → ctxLive s c = true →
      ∃ t, exec (.eCopyLastByte c k n (m + 1)) s = .next t ∧
        handleOf t c k y.handle = { state := 2, bytes := y.bytes, err := 0 } ∧
        (t.ccOf c k).copies = (s.ccOf c k).copies.filter (fun e => e.id != n) ∧ (∀ a : Nat, t.readPA a = s.readPA a)) ∧
    (∀ r q m, s.routeQ.getOr [] k = r :: q → r.fired = true → r.suspended = none → r.score.e 1 ≤ r.next → r.score.e 0 ≤ r.wrote →
      r.unacked = 0 → exec (.eRouteComplete k (m + 1)) s = .next (leaveRoute s r 0)) ∧
    (∀ y, (s.ccOf c k).copies.find? (fun e => !e.fired) = some y → y.inBuf = none → y.outBuf = none →
      acqMet s c k y.snd y.slices y.after (ctlScope y.ctl == 2) = true →
      exec (.eEngineCommandFire c k 0) s = .next (putCopy s c k { y with fired := true, input := [], claim := 0, since := if ctlAcq y.ctl then s.writes else y.since })) ∧
    (∀ m, (s.ccOf c k).array.find? (fun e => !e.fired) = some m → m.inBuf = none → m.outBuf = none → isActive s c k = true →
      acqMet s c k m.snd m.slices m.after (ctlScope m.ctl == 2) = true →
      exec (.eEngineCommandFire c k 1) s = .next (putMat s c k { m with fired := true, since := if ctlAcq m.ctl then s.writes else m.since })) ∧
    (∀ r q, s.routeQ.getOr [] k = r :: q → r.fired = false →
      acqMet s r.ctx r.core r.snd r.slices r.after (ctlScope r.ctl == 2) = true →
      exec (.eEngineCommandFire c k 2) s = .next { s with routeQ := s.routeQ.put k ({ r with fired := true, since := if ctlAcq r.ctl then s.writes else r.since } :: q) })

/-- R279 to R281, R299, R301, R365 to R373: the graph engine. A doorbell moves TAIL, or sets DBERR where the value is out of
range; intake takes the head packet of the queue that R371 chooses into the ready pool, or completes it with 0x06 or 0x04; a
ready barrier node completes and frees what depends on it, and a node of another kind starts what it names: a launch with
its header, its arguments and its sounders in the waiting lists, an armed record queue, or a copy or a route issued as by a
sounder of its core, whose failed check fails the node; the sounder at the head of a waiting list is admitted to the lowest
free slot; a co-resident launch is admitted whole; an armed record queue launches a full tile, starts its flush timer, and
launches what is ready when that runs out; a launch whose sounders and commands have ended completes. The model's choice in
it: the context of a refused packet's signals, the range checks that hold for every KIND, a SERIAL predecessor that has
failed, the order of the failure statuses, the life of a record queue's node and the slots that permits reserve (assumption
logs 13 to 18, 65); where a launch header goes is free (log 12), and so are argument bytes that cannot be read (log 68). -/
def Obligations.GraphEngineEventsComplete : Prop :=
  ∀ (s : State) (d q n : Nat),
    (∀ tail, q < 1024 → let x := s.queues.getOr Queue.reset q
      let y := if tail < x.tail ∨ x.head + 2 ^ x.cap < tail + (if x.tail < tail then permitsOf s q else 0) then { x with dberr := true } else { x with tail := tail }
      exec (.eQueueDoorbell q tail) s = .next { s with queues := s.queues.put q y }) ∧
    (∀ x, intakeQueue s d = some (q, x) → revoked s x.ctx = false →
      let pkt := leNat (readVirt s x.ctx (x.ring + 256 * (x.head % 2 ^ x.cap)) 256)
      let x' : Queue := { x with head := x.head + 1, served := some s.nextNode, lastNode := some s.nextNode, lastFail := false }
      let t : State := { s with nextNode := s.nextNode + 1, queues := s.queues.put q x', freeCtr := s.freeCtr + 1 }
      (s.nodes.filter (fun n => n.2.die == d)).length < 4096 → bufRoom s d x.ctx pkt = true →
      (ctxLive s x.ctx = false → exec (.ePacketIntake d) s = .next (refusePacket t q x pkt 0x06)) ∧
      (ctxLive s x.ctx = true → pktBad s x.ctx pkt = true → exec (.ePacketIntake d) s = .next (refusePacket t q x pkt 0x04)) ∧
      (ctxLive s x.ctx = true → pktBad s x.ctx pkt = false → exec (.ePacketIntake d) s = .next (poolNode t d q x s.nextNode pkt))) ∧
    (∀ m, s.nodes.filter (fun e => e.2.die == d && e.2.preds.isEmpty && e.2.st == .waiting) = [(n, m)] →
      (m.failed = true → exec (.eNodeDispatch d) s = .next (completeNode s n 0x05)) ∧
      (m.failed = false → pktKind m.pkt = 3 → exec (.eNodeDispatch d) s = .next (completeNode s n 0x00)) ∧
      (m.failed = false → pktKind m.pkt = 1 → pktCntmem m.pkt = false → m.count = none → 16777215 < pktZsrc m.pkt →
        exec (.eNodeDispatch d) s = .next (completeNode s n 0x02)) ∧
      (∀ z x a, m.failed = false → pktKind m.pkt = 1 → (m.count = some z ∨ (m.count = none ∧ pktCntmem m.pkt = false ∧ pktZsrc m.pkt = z)) →
        z ≤ 16777215 → z ≠ 0 → rangeDown s m.pkt = false →
        (pktStkSize m.pkt = 0 ∨ pktStkBase m.pkt + z * pktStkSize m.pkt < 2 ^ 56) → neverWhole s (pktCtx m.pkt) m.pkt z = false →
        s.ctx? (pktCtx m.pkt) = some x → areaPlace s x (64 + pktArgLen m.pkt) = some a → readArgs s n { m with count := some z } = none →
        let ln : Launch :=
          { node := some n, rq := none, ctx := pktCtx m.pkt, image := pktImage m.pkt, z := z, n := pktN m.pkt, f := pktOvc m.pkt,
            cores := pktCores m.pkt, determ := pktDeterm m.pkt, sysrel := pktSysrel m.pkt, cbase := pktCBase m.pkt,
            ccount := pktCCount m.pkt, per := pktPer m.pkt, header := a, hdrLen := 64 + pktArgLen m.pkt, pkt := m.pkt, left := z,
            handle := none, admitted := !pktCores m.pkt, since := s.writes }
        let t := writeVirt (s.putCtx (pktCtx m.pkt) { x with area := (a, 64 + pktArgLen m.pkt) :: x.area }) (pktCtx m.pkt) a
          (toBytes 64 (launchHeader m.pkt z none) ++ gatherArgs s m.pkt (pktArgLen m.pkt - m.args.length) m.args)
        exec (.eNodeDispatch d) s = .next (setNode (enqueueSounders
          { t with launches := t.launches.put s.nextLaunch ln, nextLaunch := s.nextLaunch + 1, freeCtr := t.freeCtr + 1 }
          (pktCtx m.pkt) s.nextLaunch m.pkt z) n m .running)) ∧
      (∀ h, m.failed = false → pktKind m.pkt = 2 → readRqHdr s (pktCtx m.pkt) (pktRqHdr m.pkt) = some h →
        (h.bad = true → exec (.eNodeDispatch d) s = .next (completeNode s n 0x03)) ∧
        (h.bad = false → readArgs s n m = none →
          let r : RecQueue := { node := n, ctx := pktCtx m.pkt, hdr := pktRqHdr m.pkt, pkt := m.pkt, next := h.head, flushAt := none, runs := [] }
          exec (.eNodeDispatch d) s = .next { setNode s n m .running with recqs := s.recqs.put n r })) ∧
      (m.failed = false → pktKind m.pkt = 4 ∨ pktKind m.pkt = 5 →
        s.plat.dieup.getLsbD (dieOf (pktCBase m.pkt)) = false ∨ (s.coreOf (pktCBase m.pkt)).failed = true →
        exec (.eNodeDispatch d) s = .next (completeNode s n 0x07)) ∧
      (m.failed = false → pktKind m.pkt = 4 ∨ pktKind m.pkt = 5 → s.plat.dieup.getLsbD (dieOf (pktCBase m.pkt)) = true →
        (s.coreOf (pktCBase m.pkt)).failed = false →
        let ctx := pktCtx m.pkt
        let core := pktCBase m.pkt
        let q : EngReq := { ctx := ctx, core := core, launch := s.nextLaunch, image := pktImage m.pkt,
                            uid := s.nextLaunch * 2 ^ 24, slices := 0, wid := 0, seq := 0, since := s.writes }
        let ctl := pktS m.pkt 0 % 2 ^ 32
        let r := pktS m.pkt 1 % 2 ^ 32
        let o := coords (pktS m.pkt 2) (pktS m.pkt 3)
        let ln : Launch :=
          { node := some n, rq := none, ctx := ctx, image := pktImage m.pkt, z := 0, n := 0, f := 0, cores := false, determ := false,
            sysrel := pktSysrel m.pkt, cbase := core, ccount := 1, per := 1, header := 0, hdrLen := 0, pkt := m.pkt, left := 0,
            handle := some (core, ctl % 256), admitted := true }
        let t : State := { setNode s n m .running with launches := s.launches.put s.nextLaunch ln, nextLaunch := s.nextLaunch + 1 }
        (isActive s ctx core = false → exec (.eNodeDispatch d) s = .next s) ∧
        (∀ cause a, isActive s ctx core = true →
          (if pktKind m.pkt = 4 then copyChecks s q ctl r o else routeChecks s q ctl r) = some (cause, a) →
          exec (.eNodeDispatch d) s = .next (failNode s n m cause (ctl % 256) a 0)) ∧
        (pktKind m.pkt = 4 → isActive s ctx core = true → copyChecks s q ctl r o = none → padBad s ctx core r 128 = none →
          exec (.eNodeDispatch d) s = .next (if copyWaits s q ctl (layoutAt s q r) o = true then s
            else acceptCopy t q ctl (layoutAt s q r) o none)) ∧
        (pktKind m.pkt = 5 → isActive s ctx core = true → routeChecks s q ctl r = none → padBad s ctx core r 64 = none →
          padBad s ctx core (routeRecs s q r).1.srec 128 = none →
          exec (.eNodeDispatch d) s = .next (if routeWaits s q ctl (routeRecs s q r).2 = true then s
            else acceptRoute t q ctl (routeRecs s q r).1 (routeRecs s q r).2)))) ∧
    (∀ c k l i rest j ln im, ctxLive s c = true → (residentBank s c k).isSome = true → admissible s c k = true →
      (s.ccOf c k).waiting = (l, i) :: rest → freeSlot (s.ccOf c k) = some j → s.launch? l = some ln → s.image? c ln.image = some im →
      ∃ t y, exec (.eSounderAdmission c k) s = .next t ∧ t.snd? c k j = some y ∧
        y = Snd.fresh l i ln.image ln.n (s.ccOf c k).nextAge ln.cores ln.determ (startRegs ln im.constVA i) im.entry ln.since ∧
        (t.ccOf c k).waiting = rest ∧ (∀ m : Nat, m ≠ j → t.snd? c k m = s.snd? c k m) ∧ (∀ a : Nat, t.readPA a = s.readPA a)) ∧
    (∀ ln, s.launch? n = some ln → ln.admitted = false → ctxLive s ln.ctx = true →
      ((List.range ln.ccount).map (· + ln.cbase)).all (wholeFits s ln n) = true →
      exec (.eCoresidentAdmission n) s =
        .next ((((List.range ln.ccount).map (· + ln.cbase)).foldl (fun s c =>
            admitMany s ln.ctx c (placedOn ln.z ln.per ln.cbase ln.ccount c).length) s).modLaunch n (fun ln => { ln with admitted := true }))) ∧
    (∀ r h, s.recqs.find n = some r → readRqHdr s r.ctx r.hdr = some h →
      let ready := rqReady s r.ctx h h.tile r.next
      (h.tile ≤ ready → exec (.eRecordQueueFullTile n) s = .next (launchRecords s n r h h.tile)) ∧
      (h.flush ≠ 0 → 0 < ready → ready < h.tile → r.flushAt = none → let r' : RecQueue := { r with flushAt := some (s.cycle + 64 * h.flush) }
        exec (.eFlushTimerExpiry n) s = .next { s with recqs := s.recqs.put n r' }) ∧
      (∀ due, h.flush ≠ 0 → 0 < ready → r.flushAt = some due → due ≤ s.cycle →
        exec (.eFlushTimerExpiry n) s = .next (launchRecords s n r h ready))) ∧
    (∀ ln, s.launch? n = some ln → launchOver s n ln = true → exec (.eLaunchCompletion n) s = .next (endLaunch s n ln))

/-- R48, R290, R308 to R311, R388, R401 to R407, R422: time slices and the objects of a core. A slice that has run out starts
anew where no other context is ready, and holds the core for a safe point where one is; at a safe point the banks are
exchanged and the overrun is added to the debt; a save empties the shadow bank and a fill puts a context into it, an
uncorrectable error in either halts the context; a bank control write is checked and then carried out after its drain; an
idle core is gated; a core moves to a spare of its die once its contexts stand at safe points, and one that fails with no
spare left is out of service; the oldest shoot-down frees its frames and completes its request. The model's choice in it:
what makes a context ready, what bank control and saves do, the turn of the contexts, the numbers of spare cores and what a
lost core ends (assumption logs 11, 36, 44, 56, 57, 77, 79). -/
def Obligations.SchedulingEventsComplete : Prop :=
  ∀ (s : State) (c k b : Nat),
    (∀ x, s.coreOf k = x → x.holding = false → x.failed = false → x.sliceEnd ≤ s.cycle →
      (shadowCtx x = none → exec (.eSliceEnd k) s = .next (startSlice s k x.sliceEnd)) ∧
      (∀ o, shadowCtx x = some o → readyToRun s o k = true →
        exec (.eSliceEnd k) s = .next (s.putCore k { x with holding := true, sliceAt := x.sliceEnd }))) ∧
    (∀ x o, s.coreOf k = x → x.holding = true → x.moveTo = none → activeCtx x = some c → shadowCtx x = some o → atSafePoint s c k = true →
      exec (.eSafePoint k) s =
        .next (swapBanks (s.modCC c k (fun cc => { cc with debt := cc.debt + (s.cycle - x.sliceAt) })) k)) ∧
    (∀ x o, s.coreOf k = x → shadowCtx x = some c → x.holding = false → nextTurn s k = some o → canReturn s c k = true →
      exec (.eBadgerSaveDone k true) s = .next (segState (saveFailed s c k (1 - x.active)) o k 2) ∧
      (fillsDone (s.ccOf c k) = true →
        exec (.eBadgerSaveDone k false) s = .next (segState (leaveBank s c k (1 - x.active)) o k 2))) ∧
    (∀ x, s.coreOf k = x → shadowCtx x = some c → nextTurn s k = none → ∀ ue, exec (.eBadgerSaveDone k ue) s = .next s) ∧
    (∀ x, s.coreOf k = x → shadowCtx x = none → x.failed = false → x.holding = false → ctxLive s c = true →
      (s.ccOf c k).share.regs ≠ 0 → residentBank s c k = none → fitsBeside s c k = true → banksFree s c k = true →
      (nextTurn s k).getD c = c →
      exec (.eBadgerFillDone c k true) s = .next (saveFailed s c k (1 - x.active)) ∧
      ((activeCtx x).isSome = true → exec (.eBadgerFillDone c k false) s =
        .next ((enterBank s c k (1 - x.active)).modCore k (fun x => { x with turns := x.turns.filter (· != c) ++ [c] })))) ∧
    (∀ v e, (s.coreOf k).entries.getOr BankEntry.reset b = e → b < 24 →
      let mode := v % 4
      let owner := v / 16 % 4
      let put := fun e : BankEntry => (.next (s.putCore k { s.coreOf k with entries := (s.coreOf k).entries.put b e }) : Host.Outcome State Fault Refusal)
      (mode = 3 ∨ owner = 3 ∨ (mode = 0 ∧ owner ≠ 0) ∨ (mode ≠ 0 ∧ owner = 0) → exec (.eBankControlWrite k b v) s = put { e with err := 2 }) ∧
      (¬ (mode = 3 ∨ owner = 3 ∨ (mode = 0 ∧ owner ≠ 0) ∨ (mode ≠ 0 ∧ owner = 0)) →
        (heldByCB s k b && (mode != 2 || owner != e.owner)) = true → exec (.eBankControlWrite k b v) s = put { e with err := 1 }) ∧
      (¬ (mode = 3 ∨ owner = 3 ∨ (mode = 0 ∧ owner ≠ 0) ∨ (mode ≠ 0 ∧ owner = 0)) →
        (heldByCB s k b && (mode != 2 || owner != e.owner)) = false → exec (.eBankControlWrite k b v) s =
          put (if e.busy = true then { e with err := 3 } else { e with err := 0, busy := true, next := some (mode, owner) }))) ∧
    (∀ e mode owner, (s.coreOf k).entries.getOr BankEntry.reset b = e → e.next = some (mode, owner) → e.busy = true →
      bankDrained s k b = true → ∃ t, exec (.eBankChangeComplete k b) s = .next t ∧
        (t.coreOf k).entries.getOr BankEntry.reset b =
          { mode := mode, owner := owner, busy := false, err := e.err, wcount := e.wcount + 1, next := none }) ∧
    ((s.coreOf k).bank0 = none → (s.coreOf k).bank1 = none → (s.coreOf k).failed = false →
      exec (.eCorePowerGate k) s = .next (s.putCore k { s.coreOf k with gated := true })) ∧
    (∀ spare lost, (s.plat.spares.getOr [] (dieOf k)).contains spare = true → (s.coreOf k).bank0 = none → (s.coreOf k).bank1 = none →
      ∃ t u, exec (.eCoreMigration k spare lost) s = .next t ∧ (t.coreOf k).phys = spare ∧ (t.coreOf k).failed = false ∧
        t.plat.spares.getOr [] (dieOf k) = (s.plat.spares.getOr [] (dieOf k)).erase spare ∧
        exec (.eCoreFailure k spare lost) s = .next u ∧ (u.coreOf k).phys = spare ∧ (u.coreOf k).failed = false) ∧
    (∀ spare lost x, s.coreOf k = x → (s.plat.spares.getOr [] (dieOf k)).contains spare = true → movable s k lost = false →
      exec (.eCoreMigration k spare lost) s = .next (s.putCore k
        { x with moveTo := some spare, holding := true, sliceAt := if x.holding = true then x.sliceAt else s.cycle })) ∧
    (∀ spare lost, (s.plat.spares.getOr [] (dieOf k)).isEmpty = true → exec (.eCoreFailure k spare lost) s =
      .next (loseCore { s with plat := { s.plat with degraded := true } } k)) ∧
    (∀ h r, s.shoots.getOr [] c = h :: r → shootPending s c h = false → ∃ t, exec (.eShootDownComplete c) s = .next t ∧
      t.shoots.getOr [] c = r ∧ t.out = .completion h.reply.1 h.reply.2.1 0 h.reply.2.2 :: s.out) ∧
    (∀ x w r t, s.ctx? c = some x → x.trapq.recs = w :: r → recType w = 1 → recCause w ≠ 0x1B →
      putTrapq s c x { x.trapq with recs := r, head := x.trapq.head + 1 } = t → ∀ resume,
      exec (.eSentUpRecordService c resume) s =
        .next (notify (releaseSounder t c (recToken w) resume) x.die 4 (if resume = 2 then 1 else 0) c 0 0 0 w))

/-! ## Events of the fabric -/

/-- R224, R225, R318, R375 to R377, R385: what other packages ask. A request that the access-control table denies changes
nothing and is answered so; a permit is granted within MAXPERM and the free slots, renewed every half lease, and reclaimed
once it has expired; a packet goes out under a permit and takes its reserved slot with CONTEXT replaced; a window access
that the table admits is applied in the context the entry names; a message reaches a posted slot, or is answered with status
3. What has an order takes its place in it: `onStream` (assumption log 64). The model's choice in it: the refusal of other
accesses than writes at a page not present, the reasons of peer launches, the length of a microsecond, the link counter, the
delivery contexts and the slots that permits reserve (assumption logs 19 to 21, 24, 64, 65). -/
def Obligations.InboundEventsComplete : Prop :=
  ∀ (s : State) (v : Via) (src sctx q : Nat), src ≠ s.plat.pkgid → (s.port v.port).up = true → foreignMode v.mode = false →
    portBusy s v.port = false →
    authentic s v = true →
    let t := countPacket s v.port
    let y := t.queues.getOr Queue.reset q
    let key := streamKey src sctx q
    (∀ a n, launchAdmitted t src sctx q = some a →
      (permitsFrom t src sctx q < a.maxperm → permitsOf t q + (y.tail - y.head) < 2 ^ y.cap →
        let p : Permit := { id := t.nextPermit, pkg := src, ctx := sctx, queue := q, expiry := t.cycle + a.lease * microsecond,
                            lease := a.lease }
        exec (.ePermitRequest (.ask v src sctx q n)) s = .next (onStream t key n fun _ =>
          ({ t with granted := t.granted ++ [p], nextPermit := t.nextPermit + 1 }, .permit src q sctx (some (p.id, a.lease))))) ∧
      (¬ (permitsFrom t src sctx q < a.maxperm ∧ permitsOf t q + (y.tail - y.head) < 2 ^ y.cap) →
        exec (.ePermitRequest (.ask v src sctx q n)) s = .next (onStream t key n fun _ => (t, .permit src q sctx none))) ∧
      (∀ pkt id, let its := fun p : Permit => p.is src sctx q && p.id == id && decide (t.cycle ≤ p.expiry)
        (revoked t y.ctx = true → exec (.ePeerLaunchArrival (.arrives v src sctx q pkt id n)) s =
          .next (onStream t key n fun _ => (t, .refuseLaunch src sctx q 1))) ∧
        (revoked t y.ctx = false → t.granted.any its = true →
          let u := writeVirt { t with granted := dropFirst its t.granted } y.ctx (y.ring + 256 * (y.tail % 2 ^ y.cap))
            (toBytes 256 (rehome pkt y.ctx))
          exec (.ePeerLaunchArrival (.arrives v src sctx q pkt id n)) s = .next (onStream t key n fun _ =>
            ({ u with queues := u.queues.put q { y with tail := y.tail + 1 } }, .answer src 0 0 []))) ∧
        (revoked t y.ctx = false → t.granted.any its = false → exec (.ePeerLaunchArrival (.arrives v src sctx q pkt id n)) s =
          .next (onStream t key n fun _ => (t, .refuseLaunch src sctx q 2))))) ∧
    (∀ n, launchAdmitted t src sctx q = none →
      exec (.ePermitRequest (.ask v src sctx q n)) s = .next (onStream t key n fun _ => (t, .refuseLaunch src sctx q 1)) ∧
      ∀ pkt id, exec (.ePeerLaunchArrival (.arrives v src sctx q pkt id n)) s =
        .next (onStream t key n fun _ => (t, .refuseLaunch src sctx q 1))) ∧
    (∀ id n, exec (.ePermitRenewal (.arrives v src sctx id n)) s = .next (onStream t (renewKey src sctx) n fun _ =>
      ({ t with granted := t.granted.map (fun p =>
          if p.id = id ∧ p.pkg = src ∧ p.ctx = sctx then { p with expiry := t.cycle + p.lease * microsecond } else p) },
        .answer src 0 0 []))) ∧
    exec (.ePermitExpiry src sctx q) s =
      .next { s with granted := dropFirst (fun p => p.is src sctx q && decide (p.expiry ≤ s.cycle)) s.granted } ∧
    (∀ x c pkt, s.queues.find q = some x → headPacket s x = pkt → x.en = true → x.peerout = true → x.head ≠ x.tail →
      ctxLive s x.ctx = true → s.ctx? x.ctx = some c →
      let pkg := pktDstPkg pkt
      let dq := pktDstQ pkt
      let its := fun p : Permit => p.is pkg x.ctx dq
      let n := s.nextSeq (streamKey pkg x.ctx dq)
      (∀ p, c.permits.find? its = some p →
        let u := n.2.putCtx x.ctx { c with permits := dropFirst its c.permits }
        exec (.ePeerLaunchSend q) s = .next (({ u with queues := u.queues.put q { x with head := x.head + 1 } } : State).sendOp
          (.launch pkg dq x.ctx pkt p.id n.1))) ∧
      (c.permits.find? its = none → x.asked = false → exec (.ePeerLaunchSend q) s =
        .next (({ n.2 with queues := n.2.queues.put q { x with asked := true } } : State).sendOp (.permitAsk pkg dq x.ctx n.1)))) ∧
    (∀ r, aclFor t src sctx = none → exec (.eInboundWindowAccess { via := v, srcpkg := src, srcctx := sctx, req := r }) s =
      .next (t.emit (.answer src 2 1 []))) ∧
    (∀ a r, aclFor t src sctx = some a →
      (a.win = false ∨ ctxLive t a.dstctx = false ∨ revoked t a.dstctx = true →
        exec (.eInboundWindowAccess { via := v, srcpkg := src, srcctx := sctx, req := r }) s = .next (t.emit (.answer src 2 1 []))) ∧
      (a.win = true → ctxLive t a.dstctx = true → revoked t a.dstctx = false →
        exec (.eInboundWindowAccess { via := v, srcpkg := src, srcctx := sctx, req := r }) s =
          .next (match winAccess t a.dstctx src (if determRunning t a.dstctx then widPkg src else 0) r with
            | .ok u bs => u.emit (.answer src 0 0 bs)
            | .nack u why => u.emit (.answer src 2 why [])
            | .retry u => u.emit (.answer src 1 0 [])))) ∧
    (∀ ctx core slot bs n, admits t src sctx ctx (·.mbox) = false →
      exec (.eMailboxMessageArrival (.inbound v src sctx ctx core slot bs n)) s =
        .next (onStream t (mailKey src sctx ctx core slot) n fun _ => (t, .answer src 0 3 []))) ∧
    (∀ ctx core slot bs n, admits t src sctx ctx (·.mbox) = true → determRunning t ctx = false →
      exec (.eMailboxMessageArrival (.inbound v src sctx ctx core slot bs n)) s =
        .next (onStream t (mailKey src sctx ctx core slot) n fun _ =>
          match mailArrive t src sctx ctx core slot 0 bs (.port v.port) with
          | (u, .status n) => (u, .answer src 0 n [])
          | (u, .nack w) => (u, .answer src 2 w [])
          | (u, .wait) => (u, .answer src 1 0 [])))

/-- R242, R243, R257, R333, R378, R379, R415, R422: links. A packet that is not answered in time is sent again while RETRYMAX
allows, and after that its operation fails with NACKWHY 4; a link that fails is down, one that is enabled and trained is up;
a failed lane is replaced by the spare and, once that is used, takes the link down; a re-keyed link starts a new epoch; a
collective packet, from this package or over an authentic link from one that the access-control table admits, whose MEMBER,
CHUNK or KIND is out of range is counted and discarded, a current one joins its thread's queue, and one that the table
denies is NACKed (assumption log 54); a takeover request is answered from the buddy store; a failed package's members are
made absent, here and on the other packages of their collectives. The model's choice in it: DEGRADED, the mark of an
enclave, the link counter, what the table checks of a package's own packets, the renewal of a delivery context and how a
notice of absence travels (assumption logs 22 to 24, 35, 54, 64); the depths of the queues are free (log 37). -/
def Obligations.LinkEventsComplete : Prop :=
  ∀ (s : State) (n : Nat),
    (∀ p q, s.pend.find n = some p → p.backoff = none → p.status = none → p.msg.pkg ≠ s.plat.pkgid → p.port = some q →
      (s.upPorts p.msg.pkg ≠ [] → p.sentAt + rtoCycles s q ≤ s.cycle → p.retries < bits (s.port q).cfg 39 36 →
        let t := countError s packetRetries
        let p' : Pending := { p with retries := p.retries + 1, sentAt := t.cycle, port := t.portFor p.msg }
        exec (.eRetransmissionTimeout n) s = .next (({ t with pend := t.pend.put n p' } : State).emit p.msg)) ∧
      (∀ pkg a m o, s.upPorts p.msg.pkg = [] ∨ (p.sentAt + rtoCycles s q ≤ s.cycle ∧ bits (s.port q).cfg 39 36 ≤ p.retries) →
        p.msg = .load pkg a m o → exec (.eRetransmissionTimeout n) s = .next (applyReply s n (.nack 4)))) ∧
    (∀ w : WinIn, w.srcpkg ≠ s.plat.pkgid → (s.port w.via.port).up = true →
      (foreignMode w.via.mode = true → exec (.eInboundWindowAccess w) s =
        .next (s.putPort w.via.port { s.port w.via.port with unsupported := (s.port w.via.port).unsupported + 1 })) ∧
      (foreignMode w.via.mode = false → portBusy s w.via.port = true →
        exec (.eInboundWindowAccess w) s = .next (s.send (.over w.via.port (.answer w.srcpkg 1 0 [])))) ∧
      (foreignMode w.via.mode = false → portBusy s w.via.port = false → authentic s w.via = false →
        exec (.eInboundWindowAccess w) s = .next s)) ∧
    exec (.eLinkFailure n) s =
      .next (degrade ((s.putPort n { s.port n with up := false, err := true, moving := false }).emitKept n)) ∧
    (bits (s.port n).cfg 0 0 = 1 → s.plat.pkgid ≠ 0 → (s.port n).dead = false →
      exec (.eLinkUp n) s = .next (s.putPort n { s.port n with up := true, err := false })) ∧
    ((s.port n).spareUsed = false →
      exec (.ePortLaneFailure n) s = .next (degrade (s.putPort n { s.port n with spareUsed := true, moving := true }))) ∧
    ((s.port n).spareUsed = true → exec (.ePortLaneFailure n) s = exec (.eLinkFailure n) s) ∧
    (∃ m : Nat → Bool, (∀ c, m c = (c == n || s.plat.moving.contains c)) ∧ ∃ t, exec (.eMemoryLaneFailure n) s = .next t ∧
      (∀ c, t.plat.moving.contains c = m c) ∧ (∀ c, t.plat.lanesUsed.contains c = (c == n || s.plat.lanesUsed.contains c)) ∧
      t.plat.degraded = true ∧ t.cc = s.cc ∧ t.pmem = s.pmem) ∧
    exec (.eSpareLaneSwitchDone true n) s = .next (s.putPort n { s.port n with moving := false }) ∧
    exec (.eSpareLaneSwitchDone false n) s =
      .next { s with plat := { s.plat with moving := s.plat.moving.filter (· != n) } } ∧
    (∀ x, (s.port n).session = some x →
      exec (.eLinkRekey n false) s = .next (s.putPort n { s.port n with rekeying := true }) ∧
      ((s.port n).rekeying = true → exec (.eLinkRekey n true) s =
        .next ((s.putPort n { s.port n with rekeying := false, epoch := (s.port n).epoch + 1, counter := 0, sealed := 0 }).emitKept n))) ∧
    (∀ (c : CollIn) u, ((c.pkt.srcpkg = s.plat.pkgid ∧ u = s) ∨ (c.pkt.srcpkg ≠ s.plat.pkgid ∧ (s.port c.via.port).up = true ∧
        foreignMode c.via.mode = false ∧ portBusy s c.via.port = false ∧ authentic s c.via = true ∧ u = countPacket s c.via.port)) →
      (c.pkt.srcpkg ≠ s.plat.pkgid → admits u c.pkt.srcpkg c.srcctx c.ctx (·.coll) = false →
        exec (.eCollectivePacketArrival c) s = .next (u.emit (.answer c.pkt.srcpkg 2 1 []))) ∧
      (∀ e, (c.pkt.srcpkg = s.plat.pkgid ∨ admits u c.pkt.srcpkg c.srcctx c.ctx (·.coll) = true) →
        (inEnclave u c.ctx = true → attested u c.pkt.srcpkg = true) → u.entry? c.ctx c.entry = some e →
        (e.S ≤ c.pkt.member ∨ e.chunks ≤ c.pkt.chunk ∨ 5 ≤ c.pkt.kind → exec (.eCollectivePacketArrival c) s =
          .next ((u.putPort c.via.port { u.port c.via.port with malformed := (u.port c.via.port).malformed + 1 }).emit
            (.answer c.pkt.srcpkg 0 0 []))) ∧
        (∀ t, c.pkt.member < e.S → c.pkt.chunk < e.chunks → c.pkt.kind < 5 → c.store = false →
          u.thread? c.via.port c.ctx c.entry = some t → c.pkt.inst = t.inst → t.rq.length ≤ Config.receiveDepth → t.matchEnd = none →
          t.cut = none → exec (.eCollectivePacketArrival c) s =
            .next (u.putThread c.via.port c.ctx c.entry { t with rq := t.rq ++ [c.pkt] })))) ∧
    (∀ (r : Takeover) u e, ((r.srcpkg = s.plat.pkgid ∧ u = s) ∨ (r.srcpkg ≠ s.plat.pkgid ∧ (s.port r.via.port).up = true ∧
        foreignMode r.via.mode = false ∧ portBusy s r.via.port = false ∧ authentic s r.via = true ∧ u = countPacket s r.via.port ∧
        admits u r.srcpkg r.srcctx r.ctx (·.coll) = true)) →
      (inEnclave u r.ctx = true → attested u r.srcpkg = true) → u.entry? r.ctx r.entry = some e →
      (e.store.find? (fun b => b.1 == r.member && b.2.1 == r.chunk && b.2.2.1 == r.inst) = none →
        let p : Packet := { member := r.member, chunk := r.chunk, inst := r.inst, kind := 4, srcpkg := u.plat.pkgid, payload := [] }
        exec (.eTakeoverRequestArrival r) s = .next (u.sendOp (.coll r.srcpkg r.asker r.ctx r.entry p))) ∧
      (∀ b, e.store.find? (fun b => b.1 == r.member && b.2.1 == r.chunk && b.2.2.1 == r.inst) = some b →
        let p : Packet := { member := r.member, chunk := r.chunk, inst := r.inst, kind := 1, srcpkg := u.plat.pkgid, payload := b.2.2.2 }
        exec (.eTakeoverRequestArrival r) s = .next (u.sendOp (.coll r.srcpkg r.asker r.ctx r.entry p)))) ∧
    (∀ ctx entry, exec (.ePackageDeclaredFailed (.member ctx entry n)) s = .next (absentMember s ctx entry n)) ∧
    (∃ t, exec (.ePackageDeclaredFailed (.package n)) s = .next t ∧ t.plat.degraded = true ∧
      (∀ ctx entry e k, s.entry? ctx entry = some e → (membersOn e n).contains k = true →
        (∃ e', t.entry? ctx entry = some e' ∧ e'.absent.testBit k = true) ∧
        (∀ r : MemberRow, e.rows.contains r = true → r.pkg ≠ s.plat.pkgid → r.pkg ≠ n → t.out.contains (.tellAbsent r.pkg ctx entry k) = true)))

/-! ## Requests of the device service -/

/-- R363, R364, R380, R411, R425, R28, R272: requests about contexts. The driver opens a ring and writes its tail, and the
partition takes the requests between; a request on the context's home partition is carried out and completes with status 0
and the value the spec gives, one elsewhere or about no context completes with 5 or 1 and changes nothing. The model's
choice in it: what a rewritten queue keeps, the limits of a share, what a reset of a context keeps and where the completion
area lies (assumption logs 27 to 29, 67); a new number and a VALUE that is not stated are free (logs 40, 41). -/
def Obligations.ContextRequestsComplete : Prop :=
  ∀ (s : State) (part k q ctx : Nat),
    let r := s.rings.getOr Ring.reset part
    let t := s.took part k
    (part < 5 → s.plat.ready = true →
      (∀ base log2, let r' : Ring := { r with base := base, log2 := log2, isOpen := true, head := 0, tail := 0, taken := [], done := 0 }
        exec (.eServiceRingDoorbell part (.opens base log2)) s = .next { s with rings := s.rings.put part r' }) ∧
      (∀ v, r.isOpen = true → r.tail ≤ v →
        let r' : Ring := { r with tail := v, head := v, taken := r.taken ++ readReqs s r.base r.log2 (v - r.tail) r.tail }
        exec (.eServiceRingDoorbell part (.tail v)) s = .next { s with rings := s.rings.put part r' })) ∧
    (∀ dom slot base size n root hdr ring sett u w, Taken s part k 0x01 q → part < 4 → slot ≠ 0 → slot < 256 →
      (keySlot s slot).state = 1 → (keySlot s slot).domain = dom → base + size ≤ 2 ^ 56 → newCtx t = some n →
      ctxFrames t part = some (root, hdr, ring, sett, u) → mapArea u part root base size = some w →
      let w' := putSlot w slot { keySlot s slot with contexts := (keySlot s slot).contexts + 1 }
      let c := Ctx.fresh dom slot part root base size hdr ring sett
      exec (.eCreateContext part k dom slot base size) s =
        .next (completeReq { putTrapq w' n c c.trapq with freeCtr := w'.freeCtr + 1 } part (reqTag q) 0 n)) ∧
    (∀ c, s.ctx? ctx = some c → c.die = part →
      (Taken s part k 0x02 q → exec (.eResetContext part k ctx) s = .next (answerReq (resetCtx t ctx) part q 0) ∧
        (canDestroy t ctx = true → exec (.eDestroyContext part k ctx) s = .next (answerReq (destroyCtx t ctx) part q 0)) ∧
        (canDestroy t ctx = false → exec (.eDestroyContext part k ctx) s = .next s)) ∧
      (∀ kzo va binds u h, Taken s part k 0x03 q → loadImage t ctx kzo va binds = .ok u h →
        exec (.eLoadImage part k ctx kzo va binds) s = .next (completeReq u part (reqTag q) 0 h)) ∧
      (∀ queue desc, Taken s part k 0x04 q → queue < 1024 → queueBad t desc = false → nbitsOf desc 47 36 = ctx →
        (∀ x d, s.queues.find queue = some x → s.ctx? x.ctx = some d → d.die = part) →
        exec (.eCreateOrChangeQueue part k queue desc none) s =
          .next (answerReq { t with queues := s.queues.put queue ((s.queues.getOr Queue.reset queue).write desc) } part q 0)) ∧
      (∀ core words share u, Taken s part k 0x05 q → core < 512 → shareOk share = true → shareHolds t ctx core share = true →
        residentBank s ctx core = none → openSegment t ctx core = some u →
        let v := u.modCC ctx core (fun cc => { cc.grant share with quantum := if cc.quantum = 0 then someQuantum t else cc.quantum })
        exec (.eSetSramBanksTilesBarriers part k ctx core words share) s =
          .next (answerReq (setBanks { v with freeCtr := v.freeCtr + 1 } ctx core words) part q 0))) ∧
    (∀ c, s.ctx? ctx = some c → c.die ≠ part → Taken s part k 0x02 q →
      exec (.eResetContext part k ctx) s = .next (answerReq t part q 5)) ∧
    (s.ctx? ctx = none → Taken s part k 0x02 q → exec (.eResetContext part k ctx) s = .next (answerReq t part q 1))

/-- R386 to R390, R393, R394, R426: translation requests (0x06). A map installs pages and completes with their number; an unmap
or a reduction of permission queues a shoot-down that completes it; a reserve records its range, an unreserve drops it; the
notifier ring, the trap handler and the size of the trap queue are set; what breaks the rules completes with status 1. The
model's choice in it: how records are served and that tables an unmap leaves empty stay (assumption log 57). -/
def Obligations.TranslationRequestsComplete : Prop :=
  ∀ (s : State) (part k r : Nat) (c : Ctx), Taken s part k 0x06 r → s.ctx? (rqCtx r) = some c →
    let t := s.took part k
    let n := pagesOf (rqSize r) (pgBytes (rqPgsz r))
    let perms := fun p : Bool => ({ pgsz := rqPgsz r, kind := rqKind r, r := rqR r, w := rqW r, pin := p, die := rqDie r, pkg := if p then rqPkg r % 4096 else 0, target := rqTarget r } : MapReq)
    (∀ u, rqOp r = 0 → rqKind r = 0 → rqDie r = part → part < 4 → rqPgsz r ≤ 3 → rqRest r [(191, 128), (255, 192), (263, 256), (271, 264), (274, 272), (287, 280)] = true →
      rangeOk (rqVA r) (rqSize r) (pgBytes (rqPgsz r)) = true → rqR r = true → c.resv = [] → rqPin r = true →
      rangeFree t c.troot (rqPgsz r) (rqVA r) n = true → mapRange t c.die c.troot (perms true) true (rqVA r) n 0 = some u →
      ∃ v, exec (.eMap part k) s = .next v ∧ v.out = .completion part (reqTag r) 0 n :: u.out ∧ v.pmem = u.pmem) ∧
    (∀ ps, rqOp r = 1 → rqRest r [(191, 128), (255, 192)] = true →
      rangePages t c part (rqVA r) (rqSize r) (fun _ => true) = .ok ps →
      ∃ v h, exec (.eUnmap part k) s = .next v ∧ v.shoots.getOr [] (rqCtx r) = s.shoots.getOr [] (rqCtx r) ++ [h] ∧ h.va = rqVA r ∧
        h.size = rqSize r ∧ h.reply = (part, reqTag r, ps.length) ∧ v.out = s.out ∧
        v.pmem = (ps.foldl (fun t p => changeLeaf t c.troot p.1 (fun _ => 0)) t).pmem) ∧
    (∀ ps, rqOp r = 2 → rqRest r [(191, 128), (255, 192), (273, 272)] = true → rqR r = true →
      rangePages t c part (rqVA r) (rqSize r) (fun e => (pteR e && !rqR r) || (pteW e && !rqW r)) = .ok ps →
      ps.any (fun p => (pteR p.2.2 && !rqR r) || (pteW p.2.2 && !rqW r)) = false → rqW r = false ∨ c.areaSize = 0 →
      exec (.eProtect part k) s = .next (answerReq (ps.foldl (fun t p => changeLeaf t c.troot p.1
        (fun e => e - e / 4 % 4 * 4 + 4 + (if rqW r then 8 else 0))) t) part r 0)) ∧
    (∀ u, rqOp r = 3 → rqKind r = 0 → rqDie r = part → part < 4 → rqPgsz r ≤ 3 →
      rqRest r [(191, 128), (255, 192), (263, 256), (271, 264), (273, 272), (287, 280)] = true →
      rangeOk (rqVA r) (rqSize r) (pgBytes (rqPgsz r)) = true → rqR r = true → rangeFree t c.troot (rqPgsz r) (rqVA r) n = true →
      mapRange t c.die c.troot { perms false with target := 0 } false (rqVA r) n 0 = some u →
      exec (.eReserve part k) s =
        .next (answerReq (u.modCtx (rqCtx r) (fun c => { c with resv := c.resv ++ [(rqVA r, rqSize r, part)] })) part r 0)) ∧
    (rqOp r = 4 → rqRest r [(191, 128), (255, 192)] = true → rangeOk (rqVA r) (rqSize r) 4096 = true → c.resv = [] →
      ∃ v, exec (.eUnreserve part k) s = .next v ∧ (v.ctx? (rqCtx r)).map (·.resv) = some []) ∧
    (rqOp r = 5 → c.die = part → rqRest r [(383, 320), (391, 384)] = true → rqTarget r % 4096 = 0 → 4 ≤ rqCap r → rqCap r ≤ 16 →
      let x := t.rings.getOr Ring.reset part
      let y : Ring := { x with notifyOn := true, notifyBase := rqTarget r, notifyLog2 := rqCap r, notifyTail := 0, notifyLost := 0 }
      exec (.eSetNotifierRing part k) s = .next (answerReq (flushNotes { t with rings := t.rings.put part y } part y.waiting) part r 0)) ∧
    (rqOp r = 6 → c.die = part → rqRest r [(335, 320), (383, 352), (511, 448)] = true → (c.images.find (rqTarget r % 2 ^ 16)).isSome = true →
      rqFrame r + 2 ^ 21 ≤ 2 ^ 56 →
      pinnedRW t c.troot ((rqFrame r % 4096 + 2 ^ 21 + 4095) / 4096) (rqFrame r / 4096 * 4096) = true → exec (.eSetTrapHandler part k) s = .next (answerReq (t.modCtx (rqCtx r) (fun c =>
        { c with handler := some (rqTarget r % 2 ^ 16, rqTarget r / 2 ^ 32, rqFrame r) })) part r 0)) ∧
    (∀ a u, rqOp r = 7 → c.die = part → rqRest r [(391, 384)] = true → 3 ≤ rqCap r → rqCap r ≤ 16 → c.trapq.recs = [] →
      takeFrame t c.die (ringSize (rqCap r)) = some (a, u) →
      let v := if c.trapq.ring = 0 then u else freeFrame u c.die c.trapq.ring (ringSize c.trapq.cap)
      let y : TrapQueue := { TrapQueue.reset with hdr := c.trapq.hdr, ring := a, cap := rqCap r, fatal := c.trapq.fatal,
                                                  fatals := c.trapq.fatals }
      exec (.eSizeTrapQueue part k) s = .next (answerReq (putTrapq v (rqCtx r) c y) part r 0)) ∧
    (8 ≤ rqOp r → ∀ i ∈ [Instr.eMap part k, .eUnmap part k, .eProtect part k, .eReserve part k, .eUnreserve part k,
      .eSetNotifierRing part k, .eSetTrapHandler part k, .eSizeTrapQueue part k], exec i s = .next (answerReq t part r 1)) ∧
    (rqOp r = 7 → c.die = part → rqCap r < 3 → exec (.eSizeTrapQueue part k) s = .next (answerReq t part r 1))

/-- R361, R362, R375, R378, R380, R381, R408 to R414, R417: requests of partition 4. The package identifier, a port's record, a
route's mask, an access-control entry, a collective entry, the states of key slots and a signed report; a service write to
the route table of the control space; on another partition such a request completes with 5. The model's choice in it: the
status of a port enabled while PKGID is 0, the turns of RECLAIM_SLOT and the place of the report (assumption logs 24, 31,
32). -/
def Obligations.FabricAndKeyRequestsComplete : Prop :=
  ∀ (s : State) (k q n v : Nat),
    let t := s.took 4 k
    let x := keySlot s n
    let ok := fun u : State => (.next (answerReq u 4 q 0) : Host.Outcome State Fault Refusal)
    (Taken s 4 k 0x10 q → v < 4096 → s.ports = [] →
      exec (.eSetPackageIdentifier 4 k v) s = ok { t with plat := { s.plat with pkgid := v } }) ∧
    (Taken s 4 k 0x11 q → n < 64 → portBad v = false → v % 2 = 0 ∨ s.plat.pkgid ≠ 0 →
      exec (.eConfigurePortOrRoute 4 k (.port n v)) s = ok (portWrite t n v)) ∧
    (Taken s 4 k 0x11 q → n < 4096 → v < 2 ^ 64 →
      exec (.eConfigurePortOrRoute 4 k (.route n v)) s = ok { t with routes := s.routes.put n v }) ∧
    (Taken s 4 k 0x12 q → n < 4096 → aclBad v = false →
      exec (.eWriteAccessControlEntry 4 k n v) s = ok { t with acl := s.acl.put n (aclOf v) }) ∧
    (∀ (r : CollReq) c im ws, Taken s 4 k 0x13 q → s.ctx? r.ctx = some c → s.image? r.ctx r.image = some im →
      im.mcf[r.sect]? = some ws → r.entry < 4096 → c.colls.find r.entry = none → collBad t r = false →
      (progRefusal ws = none → exec (.eLoadCollectiveEntry 4 k r) s = ok (installEntry t r ws)) ∧
      (∀ i cause, progRefusal ws = some (i, cause) →
        exec (.eLoadCollectiveEntry 4 k r) s = .next (completeReq t 4 (reqTag q) 4 (i % 2 ^ 12 + cause * 2 ^ 16)))) ∧
    (∀ e, Taken s 4 k 0x14 q → s.entry? n v = some e → e.parts = [] → exec (.eDestroyCollectiveEntry 4 k n v) s =
      ok ((dropThreads t n v).modCtx n (fun c => { c with colls := c.colls.del v }))) ∧
    (Taken s 4 k 0x20 q → n < 256 → exec (.eQuerySlot 4 k n) s = .next (completeReq t 4 (reqTag q) 0 x.word)) ∧
    (Taken s 4 k 0x21 q → n < 256 → v < 4096 → x.state ≠ 0 → exec (.eGenerateKey 4 k n v) s = .next (answerReq t 4 q 2)) ∧
    (Taken s 4 k 0x21 q → n < 256 → v < 4096 → x.state = 0 → ∃ key u, exec (.eGenerateKey 4 k n v) s = .next u ∧
      keySlot u n = { x with domain := v, epoch := x.epoch + 1, origin := 1, state := 1, key := key } ∧
      u.out = .completion 4 (reqTag q) 0 (x.epoch + 1).toNat :: s.out) ∧
    (Taken s 4 k 0x22 q → n ≠ 0 → n < 256 → exec (.eRevokeSlot 4 k n) s = ok (revokeSlot t n)) ∧
    (Taken s 4 k 0x23 q → n < 256 →
      (x.state = 2 → x.contexts = 0 →
        exec (.eReclaimSlot 4 k n) s = .next (putSlot s n { x with state := 3, scrub := some (reqTag q) })) ∧
      (x.state = 3 → x.scrub = some (reqTag q) → exec (.eReclaimSlot 4 k n) s =
        ok (putSlot (scrubFree t) n { x with state := 0, domain := 0, origin := 0, owner := none, scrub := none })) ∧
      ((x.state = 3 → x.scrub ≠ some (reqTag q)) → x.state ≠ 2 ∨ x.contexts ≠ 0 →
        exec (.eReclaimSlot 4 k n) s = .next (answerReq t 4 q 2))) ∧
    (∀ c, Taken s 4 k 0x24 q → s.ctx? n = some c → exec (.eAttestationReport 4 k n v) s =
      .next (completeReq (t.writeHost v (report t n c (reqBytes q 47 16))) 4 (reqTag q) 0 v)) ∧
    (Taken s 4 k 0x12 q → ∀ p, p ≠ 4 → Taken s p k 0x12 q →
      exec (.eWriteAccessControlEntry p k n v) s = .next (answerReq (s.took p k) p q 5)) ∧
    (n < 4096 → exec (.eControlSpaceWrite (0x4010000 + 8 * n) v true) s = .next { s with routes := s.routes.put n (v % 2 ^ 64) } ∧
      exec (.eControlSpaceWrite (0x4010000 + 8 * n) v false) s = .next s)

/-! ## The platform and the security processor -/

/-- R2, R360, R418 to R420, R422 to R424: the events of the platform, each with the state it leaves. A reset or a loss of power
leaves the fuses, the boot flash and the host's memory; a reset boots the flash image where it verifies and is not too old,
with the service's key in slot 0, and else leaves the package in recovery with BOOTERR 1; power lost during a write leaves
an image that does not verify. The steps of bring-up end in order; a die, the second tier or a port that fails is left down
and DEGRADED is set. A recovery image that verifies is written to the flash and booted, a staged one is kept for the next
reset. The fused version never goes back. Unlocking the debug port zeroes the slots and halts the contexts. PCAP is 1,000 to
3,200 W in steps of 25 W; at 100 °C issue is gated, at 110 °C the package resets. Telemetry, vendor and control messages are
answered; what an answer to a vendor or control message holds, and the order of the words of telemetry, are the model's
choice (assumption log 42). A failed memory range is retired and reads as poisoned. The model's choice in it: DEGRADED,
which BOOTERR stays, and what survives a reset (assumption logs 22, 29, 33); the sensors' values and correction counts are
free and the answers to vendor messages chosen (log 42). -/
def Obligations.PlatformEventsComplete : Prop :=
  ∀ (s : State),
    let p := s.plat
    let blank : State := { State.reset with plat := { Platform.reset with flash := p.flash, fuse := p.fuse }, hmem := s.hmem,
                                            agenda := s.agenda, freeCtr := s.freeCtr }
    let set := fun f : Platform => (.next { s with plat := f } : Host.Outcome State Fault Refusal)
    let keyed := fun (t : State) (i : FlashImage) =>
      let x := t.slots.getOr KeySlot.reset 0
      ({ t with plat := { t.plat with step := 1, booted := some i, recovery := false, booterr := 0 }, freeCtr := t.freeCtr + 1,
                slots := t.slots.put 0 { x with domain := 0, epoch := x.epoch + 1, origin := 1, state := 1,
                                                key := Config.genKey t.freeCtr } } : State)
    let told := fun (t : State) (op code : Nat) => (.next (t.send (.mctp 0 [0x7E, op, code])) : Host.Outcome State Fault Refusal)
    let failed := fun (q : Platform) (code : Nat) => { q with degraded := true, booterr := if p.booterr = 0 then code else p.booterr : Platform }
    (∀ ins, ins = .ePackageReset ∨ (∃ c, 110 ≤ c ∧ ins = .eThermalTrip c) →
      (∀ i, p.flash = some i → i.valid = true → p.fuse ≤ i.version → exec ins s = .next (keyed blank i)) ∧
      ((∀ i, p.flash = some i → ¬ (i.valid = true ∧ p.fuse ≤ i.version)) →
        exec ins s = .next { blank with plat := { blank.plat with recovery := true, booterr := 1 } })) ∧
    exec (.eLossOfPower false) s = .next blank ∧
    (let bad := p.flash.map (fun i => { i with valid := false })
     exec (.eLossOfPower true) s = .next { blank with plat := { blank.plat with flash := bad } }) ∧
    (p.step = 1 → exec (.eBringUpStepDone .hostLink) s = set { p with step := 2, alive := true }) ∧
    (∀ n, p.step = 2 → n < 4 → p.ended.getLsbD n = false →
      let q := { p with ended := p.ended ||| ((1 : BitVec 6) <<< n) }
      exec (.eBringUpStepDone (.die n true)) s = set { q with dieup := p.dieup ||| ((1 : BitVec 4) <<< n) } ∧
      exec (.eBringUpStepDone (.die n false)) s = set (failed q 4)) ∧
    (∀ unused, p.step = 2 → p.ended.getLsbD 4 = false →
      let x := poolOf s 4
      let q := { p with ended := p.ended ||| 16, ddrUnused := unused }
      exec (.eBringUpStepDone (.ddr unused true)) s =
        .next { s with plat := { q with ddrDown := false }, pools := s.pools.put 4 { x with last := x.last - unused } } ∧
      exec (.eBringUpStepDone (.ddr unused false)) s =
        .next { s with plat := failed { q with ddrDown := true } 2, pools := s.pools.put 4 { x with last := x.next } }) ∧
    (∀ mask, p.step = 2 → p.ended.getLsbD 5 = false →
      let q := { p with ended := p.ended ||| 32 }
      ∃ t, exec (.eBringUpStepDone (.ports mask)) s = .next t ∧ t.plat = (if mask = 0 then q else failed q 3) ∧ t.pmem = s.pmem ∧
        ∀ n, n < 64 → t.port n = if mask / 2 ^ n % 2 = 1 then { s.port n with err := true, dead := true } else s.port n) ∧
    (p.step = 2 → p.ended = 63 → exec (.eBringUpStepDone .ready) s = set { p with step := 5, ready := true }) ∧
    (p.step ≠ 1 → exec (.eBringUpStepDone .hostLink) s = .next s) ∧
    (p.step ≠ 2 ∨ p.ended ≠ 63 → exec (.eBringUpStepDone .ready) s = .next s) ∧
    (∀ img, let i : FlashImage := { digest := img.digest, version := img.version, valid := img.valid }
      (img.valid = true ∧ p.fuse ≤ img.version ∧ img.bytes ≤ 64 * 2 ^ 20 →
        (p.recovery = true → exec (.eRecoveryImageTransfer img) s = told (keyed { s with plat := { p with flash := some i } } i) 3 0) ∧
        (p.recovery = false → p.booted.isSome = true → exec (.eFirmwareStaging img) s = told { s with plat := { p with flash := some i } } 2 0)) ∧
      (¬ (img.valid = true ∧ p.fuse ≤ img.version ∧ img.bytes ≤ 64 * 2 ^ 20) →
        exec (.eRecoveryImageTransfer img) s = told s 3 1 ∧ exec (.eFirmwareStaging img) s = told s 2 1)) ∧
    (∀ i, p.booted = some i → exec .eSecurityVersionAdvance s = set { p with fuse := max p.fuse i.version }) ∧
    (p.booted = none → exec .eSecurityVersionAdvance s = .next s) ∧
    (∃ t, exec (.eDebugTokenUnlock p.serial true) s = .next t ∧ t.plat.jtag = true ∧ t.plat.debugOpen = true ∧
      (∀ n : Nat, keySlot t n = KeySlot.reset) ∧
      (∀ c x, s.ctx? c = some x → ∃ y, t.ctx? c = some y ∧ y.halted = true)) ∧
    (∀ v, exec (.eDebugTokenUnlock v false) s = .next s ∧ (v ≠ p.serial → exec (.eDebugTokenUnlock v true) s = .next s)) ∧
    (∀ w, 1000 ≤ w → w ≤ 3200 → w % 25 = 0 → exec (.eSetPcap w) s = told { s with plat := { p with pcap := w } } 1 0) ∧
    (∀ w, ¬ (1000 ≤ w ∧ w ≤ 3200 ∧ w % 25 = 0) → exec (.eSetPcap w) s = told s 1 1) ∧
    (∀ w, exec (.ePowerWindowExpiry w) s = set { p with gating := decide (p.pcap < w) || p.thermal }) ∧
    (∀ c, exec (.eThermalGating c) s = set { p with temp := c, thermal := decide (100 ≤ c), gating := p.gating || decide (100 ≤ c) }) ∧
    (∀ c, c < 110 → exec (.eThermalTrip c) s = .next s) ∧
    (∀ bus, ∃ (xs : List Nat) (es : Tbl Nat), xs.length = 7 ∧ (∀ k, p.errors.getOr 0 k ≤ es.getOr 0 k) ∧
      let u : State := { s with plat := { p with errors := es }, freeCtr := s.freeCtr + 12 }
      exec (.eTelemetryRead bus) s = .next (u.send (.mctp bus (0x7E :: xs ++ telemetry u)))) ∧
    (∀ bus cmd, ∃ v : Nat, exec (.eMctpControl bus cmd) s =
      .next (({ s with freeCtr := s.freeCtr + 1 } : State).send (.mctp bus [0x00, cmd, v]))) ∧
    (∀ n base size, let x := poolOf s n
      let t : State := { s with plat := { p with degraded := true },
                                pools := s.pools.put n { x with retired := (base, size) :: x.retired } }
      exec (.eHbmChannelOrDimmFailure n base size) s = .next t ∧
      ∀ a, base ≤ a / 64 * 64 → a / 64 * 64 < base + size → t.poisoned a = true)

/-- R410, R413, R415 to R417 and Table 4 of 21: the SPDM responder. Negotiation goes through its stages in order; certificates,
challenges and measurements are answered with signatures; a session is set up by KEY_EXCHANGE and FINISH, and what FINISH
opens is a link's key epoch; in a session a key goes into an empty slot for its importer, comes out only for its owner, and
is revoked by its owner; a message out of order is answered with an error and changes nothing else. The model's choice in
it: the SPDM response codes, the owner of a key slot and the session of a link (assumption logs 30, 31, 34); the
cryptographic values are opaque but for SHA-256. -/
def Obligations.SecurityMessagesComplete : Prop :=
  ∀ (s : State) (bus n v : Nat),
    let say := fun (t : State) (code : Nat) (body : List Nat) => (.next (t.send (.spdm bus code body)) : Host.Outcome State Fault Refusal)
    let at_ := fun (t : State) (x : Spdm) => ({ t with spdm := t.spdm.put bus x } : State)
    exec (.eGetVersion bus) s = say (at_ s { version := 0, stage := 1 }) 0x04 [0x12, 0x13] ∧
    (s.connected bus 1 → v = 0x12 ∨ v = 0x13 → exec (.eGetCapabilities bus v) s = say (at_ s { version := v, stage := 2 }) 0x61 [v]) ∧
    (s.connected bus 2 → exec (.eNegotiateAlgorithms bus true) s = say (at_ s { spdmOf s bus with stage := 3 }) 0x63 []) ∧
    (¬ s.connected bus 3 → exec (.eGetDigests bus) s = say s 0x7F [] ∧ exec (.eChallenge bus v) s = say s 0x7F []) ∧
    (s.connected bus 3 →
      exec (.eGetDigests bus) s = say s 0x01 [digestNats (chain s)] ∧
      (∀ off len, exec (.eGetCertificate bus off len) s = say s 0x02 (((chain s).drop off).take (min len 4096))) ∧
      exec (.eChallenge bus v) s = say s 0x03 [v, signNats s [v, digestNats (chain s)]] ∧
      (1 ≤ n → n ≤ 4 → exec (.eGetMeasurements bus n v) s = say s 0x60 [n, measurement s n, signNats s [v, n, measurement s n]]) ∧
      (∀ both link, ∃ x : Session, x.bus = bus ∧ x.peer = v ∧ x.bothAuth = both ∧ x.ready = false ∧ x.link = link ∧
        exec (.eKeyExchange bus v both link) s =
          say { s with sessions := s.sessions.put s.nextSession x, nextSession := s.nextSession + 1 } 0x64 [s.nextSession]) ∧
      (∀ c, s.ctx? n = some c → exec (.eContextReport bus n v) s = say s 0x7E [leNat (report s n c v)])) ∧
    (∀ x, s.connected bus 3 → s.sessions.find n = some x → x.bus = bus →
      (x.ready = false → x.link = none → exec (.eFinish bus n) s = say { s with sessions := s.sessions.put n { x with ready := true } } 0x65 []) ∧
      (∀ p, x.ready = false → x.link = some p → ∃ t, exec (.eFinish bus n) s = .next t ∧ (t.port p).session = some x.peer ∧
        (t.port p).epoch = (s.port p).epoch + 1 ∧ (t.port p).counter = 0) ∧
      (x.ready = true →
        exec (.eHeartbeat bus n) s = say { s with sessions := s.sessions.put n { x with beats := x.beats + 1 } } 0x68 [] ∧
        exec (.eKeyUpdate bus n) s = say { s with sessions := s.sessions.put n { x with gen := x.gen + 1 } } 0x69 [] ∧
        (x.link = none → exec (.eEndSession bus n) s = say { s with sessions := s.sessions.del n } 0x6C []) ∧
        (∀ p, x.link = some p → ∃ t, exec (.eEndSession bus n) s = .next t ∧ (t.port p).session = none ∧ t.sessions = s.sessions.del n) ∧
        (∀ slot dom key, x.bothAuth = true → slot ≠ 0 → slot < 256 → dom < 4096 → (keySlot s slot).state = 0 →
          let y : KeySlot := { keySlot s slot with domain := dom, epoch := (keySlot s slot).epoch + 1, origin := 2, state := 1, key := key, owner := some x.peer }
          ∃ t, exec (.eKeyImport bus n slot dom key) s = .next t ∧ keySlot t slot = y ∧ t.out = .spdm bus 0x7E [y.epoch.toNat] :: s.out) ∧
        (∀ slot, (keySlot s slot).owner = some x.peer → (keySlot s slot).state = 1 →
          exec (.eKeyExport bus n slot) s = say s 0x7E [Config.wrapKey (keySlot s slot).key x.peer]) ∧
        (∀ slot, (keySlot s slot).owner ≠ some x.peer → exec (.eKeyExport bus n slot) s = say s 0x7F []) ∧
        (∀ slot, x.bothAuth = true → slot ≠ 0 → (keySlot s slot).owner = some x.peer →
          exec (.eRevoke bus n slot) s = say (revokeSlot s slot) 0x7E [])))

/-! ## The machine as a whole -/

/-- R53, R58, R77, R245, R284, R286: a step runs the decoded instruction. The agent at the head of the agenda takes its turn:
the scalar port of a quadrant executes the word at the chosen stream's pc (that of an mbsend again once it has read its
message, R225), the lane port the word at the join set's lane pc, a port engine's thread the word at its pc, and an event is
carried out; around the instruction a step only takes the agent off the agenda, uses up the port's grant, says whose
instruction it is and moves the free values on. A scalar word that is no instruction is the illegal-instruction trap with
its lowest cause; the fetch of a context whose key is revoked is refused and halts it (R413). Until the package has booted,
only the events of the package as a whole and of its security processor are carried out (R360, R418). The model's choice in
it: the agenda (assumption log 2) and the trap past the end of the scalar section (log 5). -/
def Obligations.StepRunsDecodedInstruction : Prop :=
  ∀ (s : State) (rest : List Agent) (i : Instr) (c k q j : Nat) (x : Snd),
    let u : State := { s with agenda := rest, freeCtr := s.freeCtr + freeStride }
    (s.agenda = .scalar k q :: rest → issuingCtx s k = some c → (s.coreOf k).scalPort.find q = some j → s.snd? c k j = some x →
      x.mayIssue = true → x.wait.issues = true →
      (revoked s c = true → step s = .next (haltRevoked (dropScalGrant u k q) c x.idx k 0 x.pc)) ∧
      (revoked s c = false → x.pc < scalarSize s c x →
      (decode .scalar (leBytes 4 (scalarWord s c x)) = .ok i →
        step s = exec i { dropScalGrant u k q with cur := .scalar c k j }) ∧
      (∀ cause, decode .scalar (leBytes 4 (scalarWord s c x)) = .illegal cause →
        step s = .next (scalarTrap (dropScalGrant u k q) c k j x 0x01 (ill := cause))))) ∧
    (∀ g b e, s.agenda = .lane k q :: rest → issuingCtx s k = some c → (s.coreOf k).lanePort.find q = some g →
      s.snd? c k (g / 32) = some x → x.mayIssue = true → x.runningBlock = some b →
      (joinSets x).find? (fun y => y.1 == g % 32) = some e →
      let pc := (x.slices.getOr Slice.reset (lowSlice e.2)).pc
      revoked s c = false → b.entry ≤ pc → pc < b.entry + b.len → decode .lane (leBytes 12 (laneWordAt s c x pc)) = .ok i →
      step s = exec i { dropLaneGrant u k q with cur := .lane c k (g / 32) e.2 }) ∧
    (∀ e t w, s.agenda = .mcf k c j :: rest → s.entry? c j = some e → s.thread? k c j = some t → e.prog[t.pc]? = some w →
      decode .mcf (leBytes 8 w) = .ok i → step s = exec i { u with cur := .mcf k c j }) ∧
    (s.agenda = .event i :: rest → i.stream = .event → (s.plat.step ≠ 0 ∨ inReset i = true →
        step s = exec i { u with cur := .none }) ∧ (s.plat.step = 0 → inReset i = false → step s = .next u))

/-- R55, R58 to R60, R118, R116, R120, R245: words written out in the spec's chapters and from its encodings decode to the
instructions they stand for. -/
def Obligations.SpecWordsDecode : Prop :=
  decodeTableWord 32 0x1C400005 = some (.sLui 4 5) ∧
  decodeTableWord 32 0x08412345 = some (.sAddi 4 4 0x2345) ∧
  decodeTableWord 32 0x29214010 = some (.sCmpi 2 2 5 0x10) ∧
  decodeTableWord 32 0xA4000001 = some (.sSndend) ∧
  decodeTableWord 32 0xA4000002 = some (.sTret) ∧
  decodeTableWord 32 0x94050000 = some (.sEvarm 0 20) ∧
  decodeTableWord 32 0x9005D003 = some (.sSyswr 23 3) ∧
  decodeTableWord 32 0x9850CB02 = some (.sBarArrive 5 3 11) ∧
  decodeTableWord 32 0x94A00002 = some (.sWaitany 10) ∧
  decodeTableWord 32 0x9C660002 = some (.sMbrecv 6 24) ∧
  decodeTableWord 32 0x80800200 = some (.sLrun 1 2) ∧
  decodeTableWord 32 0x0B8E3FFF = some (.sAddi 56 56 0x3FFF) ∧
  decodeTableWord 96 0x04030200200C04000000000B = some (.vFfma (LaneR.mk 8 2 3 4 0 0 0 0 0 0 0 0 0 11)) ∧
  decodeTableWord 96 0x06010140100000000000008B = some (.vRsq (LaneR.mk 5 1 0 0 0 0 0 0 0 0 0 0 2 11)) ∧
  decodeTableWord 96 0x030200C00A24000000000003 = some (.vIcmpLt (LaneR.mk 3 0 649 0 0 0 0 0 0 0 0 0 0 3)) ∧
  decodeTableWord 96 0x140001C07000003FC000000B = some (.vFaddI (LaneI.mk 7 7 0 0 0 0x3FC00 0 0 0 0 0 0 11)) ∧
  decodeTableWord 96 0x21000140200000001E004007 = some (.vGld (LaneI.mk 5 2 0 0 0 0x1E0 0 2 0 0 0 0 7)) ∧
  decodeTableWord 96 0x221002404018008010000007 = some (.vAadd 1 (LaneI.mk 9 4 6 0 0 0x80100 0 0 0 0 0 0 7)) ∧
  decodeTableWord 96 0x240200000000000000000000 = some (.vFenceSys (LaneR.mk 0 0 0 0 0 0 0 0 0 0 0 0 0 0)) ∧
  decodeTableWord 96 0x300000680A0682A10A000000 = some (.vCopyFo (LaneR.mk 1 640 641 642 644 5 0 0 0 0 0 0 0 0)) ∧
  decodeTableWord 96 0x320200283A14000000000000 = some (.vMstream (LaneR.mk 0 643 645 0 0 0 0 0 0 0 0 0 0 0)) ∧
  decodeTableWord 96 0x380200292000000FFFB00000 = some (.vLbrAny (LaneI.mk 0 658 0 0 0 0xFFFB 0 0 0 0 0 0 0)) ∧
  decodeTableWord 96 0x380400000000000000000000 = some (.vRegang (LaneI.mk 0 0 0 0 0 0 0 0 0 0 0 0 0)) ∧
  decodeTableWord 96 0x20000328700000A00000000B = some (.vSpld (LaneI.mk 12 647 0 0 0 0xA0000 0 0 0 0 0 0 11)) ∧
  decodeTableWord 96 0x330000010044000000000000 = some (.vRoute (LaneR.mk 0 16 17 0 0 0 0 0 0 0 0 0 0 0)) ∧
  decodeTableWord 96 0x30000002409688A20C000000 = some (.vCopy (LaneR.mk 0 36 37 648 648 6 0 0 0 0 0 0 0 0)) ∧
  decodeTableWord 96 0x0B0207415070000000000007 = some (.vLrot (LaneR.mk 29 21 28 0 0 0 0 0 0 0 0 0 0 7)) ∧
  decodeTableWord 96 0x010005C17064000002300007 = some (.vIadd (LaneR.mk 23 23 25 0 0 1 3 0 0 0 0 0 0 7)) ∧
  decodeTableWord 96 0x120D05286000000101000007 = some (.vBfextI (LaneI.mk 20 646 0 0 0 0x1010 0 0 0 0 0 0 7)) ∧
  decodeTableWord 96 0x070A0B82C00000000000000B = some (.vCvt 0x0A (LaneR.mk 46 44 0 0 0 0 0 0 0 0 0 0 0 11)) ∧
  decodeTableWord 96 0x21010000A014204000000007 = some (.vGst (LaneI.mk 0 10 5 1 0 0x40000 0 0 0 0 0 0 7)) ∧
  decodeTableWord 96 0x32030028300000000000000B = some (.vMdrain (LaneR.mk 0 643 0 0 0 0 0 0 0 0 0 0 0 11)) ∧
  decodeTableWord 96 0x380000000000000000000000 = some (.vLend (LaneI.mk 0 0 0 0 0 0 0 0 0 0 0 0 0)) ∧
  decodeTableWord 64 0x0A07600000000000 = some (.mStream 7 6) ∧
  decodeTableWord 64 0x04072003FFFFFFFB = some (.mBLtn 7 2 0xFFFFFFFB) ∧
  decodeTableWord 64 0x0B80600000000000 = some (.mFoldSum 8 6) ∧
  decodeTableWord 64 0x0590001300000004 = some (.mMatch 9 0 0x13 4) ∧
  decodeTableWord 64 0 = none ∧
  decodeTableWord 32 0x18003000 = none ∧
  decodeTableWord 96 0x010000800004000000000403 = none

/-- Decode and encode agree: for every well-formed instruction of the three streams, every operand at every value its encoding
admits, its bytes decode to it (an event has no bytes). -/
def Obligations.DecodeEncodeAgree : Prop :=
  ∀ i : Instr, wellFormed i = true → i.stream ≠ .event → decode i.stream (encode i) = .ok i

/-- Every step keeps physical memory, the host's memory and the service's memory in canonical form, so that equal contents are
equal states. -/
def Obligations.StepKeepsMemoryCanonical : Prop :=
  ∀ s t : State, s.MemOk → step s = .next t → t.MemOk

/-- No run of the package stops: from every state the next step answers a next state, neither a fault nor a refusal. -/
def Obligations.EveryStepAnswers : Prop :=
  ∀ s : State, s.Safe

/-- R2, R360, R361: the state right after reset. Nothing has been brought up: DEVSTAT's ALIVE, READY, DEGRADED and RECOVERY and
BOOTERR are 0, no die is in service, PKGID is 0; no context, key, queue or launch exists; no byte of memory is listed, so
all memories are canonical and every byte of device memory reads 0 (frames are zeroed before use, R386; that the host's
bytes read 0 is the model's choice, assumption log 7). A package reset from here without a boot image comes to recovery. The
model's choice in it: that unlisted host memory reads 0 and that the boot flash is empty (assumption logs 7, 26). -/
def Obligations.ResetState : Prop :=
  let s := State.reset
  s.plat.alive = false ∧ s.plat.ready = false ∧ s.plat.degraded = false ∧ s.plat.recovery = false ∧ s.plat.booterr = 0 ∧
  s.plat.dieup = 0 ∧ s.plat.pkgid = 0 ∧ s.plat.cycle = 0 ∧ s.plat.pcap = 3200 ∧ s.ctxs = [] ∧ s.slots = [] ∧ s.queues = [] ∧
  s.launches = [] ∧ s.cc = [] ∧ s.ports = [] ∧ s.MemOk ∧ (∀ a : Nat, s.readPA a = 0) ∧ devstat s.plat = 0 ∧
  ∃ t, exec .ePackageReset s = .next t ∧ t.plat.recovery = true ∧ t.plat.booterr = 1
end

