-- ==== Sys2Proof/Laws/Arms.lean ====
section
/-! SUPPORT. The arm of exec for each constructor, as an equation: a proof about an instruction starts from its own. -/

namespace Sys2Proof.Machine

open Sys2Proof

theorem exec_ePackageReset (s : State) :
    exec (.ePackageReset) s = execEPackageReset s := rfl
theorem exec_eLossOfPower (writing : Bool) (s : State) :
    exec (.eLossOfPower writing) s = execELossOfPower writing s := rfl
theorem exec_eBringUpStepDone (d : StepDone) (s : State) :
    exec (.eBringUpStepDone d) s = execEBringUpStepDone d s := rfl
theorem exec_eRecoveryImageTransfer (img : FwImage) (s : State) :
    exec (.eRecoveryImageTransfer img) s = execERecoveryImageTransfer img s := rfl
theorem exec_eFirmwareStaging (img : FwImage) (s : State) :
    exec (.eFirmwareStaging img) s = execEFirmwareStaging img s := rfl
theorem exec_eSecurityVersionAdvance (s : State) :
    exec (.eSecurityVersionAdvance) s = execESecurityVersionAdvance s := rfl
theorem exec_eDebugTokenUnlock (serial : Nat) (signed : Bool) (s : State) :
    exec (.eDebugTokenUnlock serial signed) s = execEDebugTokenUnlock serial signed s := rfl
theorem exec_eSetPcap (watts : Nat) (s : State) :
    exec (.eSetPcap watts) s = execESetPcap watts s := rfl
theorem exec_eTelemetryRead (bus : Nat) (s : State) :
    exec (.eTelemetryRead bus) s = execETelemetryRead bus s := rfl
theorem exec_eMctpControl (bus : Nat) (command : Nat) (s : State) :
    exec (.eMctpControl bus command) s = execEMctpControl bus command s := rfl
theorem exec_ePowerWindowExpiry (watts : Nat) (s : State) :
    exec (.ePowerWindowExpiry watts) s = execEPowerWindowExpiry watts s := rfl
theorem exec_eThermalGating (celsius : Nat) (s : State) :
    exec (.eThermalGating celsius) s = execEThermalGating celsius s := rfl
theorem exec_eThermalTrip (celsius : Nat) (s : State) :
    exec (.eThermalTrip celsius) s = execEThermalTrip celsius s := rfl
theorem exec_eGetVersion (bus : Nat) (s : State) :
    exec (.eGetVersion bus) s = execEGetVersion bus s := rfl
theorem exec_eGetCapabilities (bus : Nat) (version : Nat) (s : State) :
    exec (.eGetCapabilities bus version) s = execEGetCapabilities bus version s := rfl
theorem exec_eNegotiateAlgorithms (bus : Nat) (offered : Bool) (s : State) :
    exec (.eNegotiateAlgorithms bus offered) s = execENegotiateAlgorithms bus offered s := rfl
theorem exec_eGetDigests (bus : Nat) (s : State) :
    exec (.eGetDigests bus) s = execEGetDigests bus s := rfl
theorem exec_eGetCertificate (bus : Nat) (off : Nat) (len : Nat) (s : State) :
    exec (.eGetCertificate bus off len) s = execEGetCertificate bus off len s := rfl
theorem exec_eChallenge (bus : Nat) (nonce : Nat) (s : State) :
    exec (.eChallenge bus nonce) s = execEChallenge bus nonce s := rfl
theorem exec_eGetMeasurements (bus : Nat) (index : Nat) (nonce : Nat) (s : State) :
    exec (.eGetMeasurements bus index nonce) s = execEGetMeasurements bus index nonce s := rfl
theorem exec_eKeyExchange (bus : Nat) (peer : Nat) (bothAuth : Bool) (link : Option Nat) (s : State) :
    exec (.eKeyExchange bus peer bothAuth link) s = execEKeyExchange bus peer bothAuth link s := rfl
theorem exec_eFinish (bus : Nat) (n : Nat) (s : State) :
    exec (.eFinish bus n) s = execEFinish bus n s := rfl
theorem exec_eHeartbeat (bus : Nat) (n : Nat) (s : State) :
    exec (.eHeartbeat bus n) s = execEHeartbeat bus n s := rfl
theorem exec_eKeyUpdate (bus : Nat) (n : Nat) (s : State) :
    exec (.eKeyUpdate bus n) s = execEKeyUpdate bus n s := rfl
theorem exec_eEndSession (bus : Nat) (n : Nat) (s : State) :
    exec (.eEndSession bus n) s = execEEndSession bus n s := rfl
theorem exec_eKeyImport (bus : Nat) (n : Nat) (slot : Nat) (domain : Nat) (key : Nat) (s : State) :
    exec (.eKeyImport bus n slot domain key) s = execEKeyImport bus n slot domain key s := rfl
theorem exec_eKeyExport (bus : Nat) (n : Nat) (slot : Nat) (s : State) :
    exec (.eKeyExport bus n slot) s = execEKeyExport bus n slot s := rfl
theorem exec_eRevoke (bus : Nat) (n : Nat) (slot : Nat) (s : State) :
    exec (.eRevoke bus n slot) s = execERevoke bus n slot s := rfl
theorem exec_eContextReport (bus : Nat) (ctx : Nat) (nonce : Nat) (s : State) :
    exec (.eContextReport bus ctx nonce) s = execEContextReport bus ctx nonce s := rfl
theorem exec_eLinkRekey (port : Nat) (done : Bool) (s : State) :
    exec (.eLinkRekey port done) s = execELinkRekey port done s := rfl
theorem exec_eControlSpaceWrite (off : Nat) (value : Nat) (byService : Bool) (s : State) :
    exec (.eControlSpaceWrite off value byService) s = execEControlSpaceWrite off value byService s := rfl
theorem exec_eServiceRingDoorbell (part : Nat) (m : RingMsg) (s : State) :
    exec (.eServiceRingDoorbell part m) s = execEServiceRingDoorbell part m s := rfl
theorem exec_eCreateContext (part : Nat) (k : Nat) (domain : Nat) (slot : Nat) (base : Nat) (size : Nat) (s : State) :
    exec (.eCreateContext part k domain slot base size) s = execECreateContext part k domain slot base size s := rfl
theorem exec_eResetContext (part : Nat) (k : Nat) (ctx : Nat) (s : State) :
    exec (.eResetContext part k ctx) s = execEResetContext part k ctx s := rfl
theorem exec_eDestroyContext (part : Nat) (k : Nat) (ctx : Nat) (s : State) :
    exec (.eDestroyContext part k ctx) s = execEDestroyContext part k ctx s := rfl
theorem exec_eLoadImage (part : Nat) (k : Nat) (ctx : Nat) (kzo : Nat) (va : Nat) (binds : List (Nat × Nat)) (s : State) :
    exec (.eLoadImage part k ctx kzo va binds) s = execELoadImage part k ctx kzo va binds s := rfl
theorem exec_eCreateOrChangeQueue (part : Nat) (k : Nat) (queue : Nat) (desc : Nat) (page : Option Nat) (s : State) :
    exec (.eCreateOrChangeQueue part k queue desc page) s = execECreateOrChangeQueue part k queue desc page s := rfl
theorem exec_eSetSramBanksTilesBarriers (part : Nat) (k : Nat) (ctx : Nat) (core : Nat) (words : List (Nat × Nat)) (share : Share) (s : State) :
    exec (.eSetSramBanksTilesBarriers part k ctx core words share) s = execESetSramBanksTilesBarriers part k ctx core words share s := rfl
theorem exec_eMap (part : Nat) (k : Nat) (s : State) :
    exec (.eMap part k) s = execEMap part k s := rfl
theorem exec_eUnmap (part : Nat) (k : Nat) (s : State) :
    exec (.eUnmap part k) s = execEUnmap part k s := rfl
theorem exec_eProtect (part : Nat) (k : Nat) (s : State) :
    exec (.eProtect part k) s = execEProtect part k s := rfl
theorem exec_eReserve (part : Nat) (k : Nat) (s : State) :
    exec (.eReserve part k) s = execEReserve part k s := rfl
theorem exec_eUnreserve (part : Nat) (k : Nat) (s : State) :
    exec (.eUnreserve part k) s = execEUnreserve part k s := rfl
theorem exec_eSetNotifierRing (part : Nat) (k : Nat) (s : State) :
    exec (.eSetNotifierRing part k) s = execESetNotifierRing part k s := rfl
theorem exec_eSetTrapHandler (part : Nat) (k : Nat) (s : State) :
    exec (.eSetTrapHandler part k) s = execESetTrapHandler part k s := rfl
theorem exec_eSizeTrapQueue (part : Nat) (k : Nat) (s : State) :
    exec (.eSizeTrapQueue part k) s = execESizeTrapQueue part k s := rfl
theorem exec_eSetPackageIdentifier (part : Nat) (k : Nat) (id : Nat) (s : State) :
    exec (.eSetPackageIdentifier part k id) s = execESetPackageIdentifier part k id s := rfl
theorem exec_eConfigurePortOrRoute (part : Nat) (k : Nat) (m : PortCfg) (s : State) :
    exec (.eConfigurePortOrRoute part k m) s = execEConfigurePortOrRoute part k m s := rfl
theorem exec_eWriteAccessControlEntry (part : Nat) (k : Nat) (idx : Nat) (word : Nat) (s : State) :
    exec (.eWriteAccessControlEntry part k idx word) s = execEWriteAccessControlEntry part k idx word s := rfl
theorem exec_eLoadCollectiveEntry (part : Nat) (k : Nat) (r : CollReq) (s : State) :
    exec (.eLoadCollectiveEntry part k r) s = execELoadCollectiveEntry part k r s := rfl
theorem exec_eDestroyCollectiveEntry (part : Nat) (k : Nat) (ctx : Nat) (entry : Nat) (s : State) :
    exec (.eDestroyCollectiveEntry part k ctx entry) s = execEDestroyCollectiveEntry part k ctx entry s := rfl
theorem exec_eQuerySlot (part : Nat) (k : Nat) (slot : Nat) (s : State) :
    exec (.eQuerySlot part k slot) s = execEQuerySlot part k slot s := rfl
theorem exec_eGenerateKey (part : Nat) (k : Nat) (slot : Nat) (domain : Nat) (s : State) :
    exec (.eGenerateKey part k slot domain) s = execEGenerateKey part k slot domain s := rfl
theorem exec_eRevokeSlot (part : Nat) (k : Nat) (slot : Nat) (s : State) :
    exec (.eRevokeSlot part k slot) s = execERevokeSlot part k slot s := rfl
theorem exec_eReclaimSlot (part : Nat) (k : Nat) (slot : Nat) (s : State) :
    exec (.eReclaimSlot part k slot) s = execEReclaimSlot part k slot s := rfl
theorem exec_eAttestationReport (part : Nat) (k : Nat) (ctx : Nat) (addr : Nat) (s : State) :
    exec (.eAttestationReport part k ctx addr) s = execEAttestationReport part k ctx addr s := rfl
theorem exec_eQueueDoorbell (q : Nat) (tail : Nat) (s : State) :
    exec (.eQueueDoorbell q tail) s = execEQueueDoorbell q tail s := rfl
theorem exec_ePacketIntake (die : Nat) (s : State) :
    exec (.ePacketIntake die) s = execEPacketIntake die s := rfl
theorem exec_eNodeDispatch (die : Nat) (s : State) :
    exec (.eNodeDispatch die) s = execENodeDispatch die s := rfl
theorem exec_eSounderAdmission (ctx : Nat) (core : Nat) (s : State) :
    exec (.eSounderAdmission ctx core) s = execESounderAdmission ctx core s := rfl
theorem exec_eCoresidentAdmission (l : Nat) (s : State) :
    exec (.eCoresidentAdmission l) s = execECoresidentAdmission l s := rfl
theorem exec_eLaunchCompletion (l : Nat) (s : State) :
    exec (.eLaunchCompletion l) s = execELaunchCompletion l s := rfl
theorem exec_eRecordQueueFullTile (node : Nat) (s : State) :
    exec (.eRecordQueueFullTile node) s = execERecordQueueFullTile node s := rfl
theorem exec_eFlushTimerExpiry (node : Nat) (s : State) :
    exec (.eFlushTimerExpiry node) s = execEFlushTimerExpiry node s := rfl
theorem exec_ePeerLaunchSend (queue : Nat) (s : State) :
    exec (.ePeerLaunchSend queue) s = execEPeerLaunchSend queue s := rfl
theorem exec_ePermitRequest (m : PermitMsg) (s : State) :
    exec (.ePermitRequest m) s = execEPermitRequest m s := rfl
theorem exec_ePermitRenewal (m : RenewMsg) (s : State) :
    exec (.ePermitRenewal m) s = execEPermitRenewal m s := rfl
theorem exec_ePermitExpiry (srcpkg : Nat) (srcctx : Nat) (queue : Nat) (s : State) :
    exec (.ePermitExpiry srcpkg srcctx queue) s = execEPermitExpiry srcpkg srcctx queue s := rfl
theorem exec_ePeerLaunchArrival (m : PeerMsg) (s : State) :
    exec (.ePeerLaunchArrival m) s = execEPeerLaunchArrival m s := rfl
theorem exec_eInboundWindowAccess (w : WinIn) (s : State) :
    exec (.eInboundWindowAccess w) s = execEInboundWindowAccess w s := rfl
theorem exec_eWindowAckArrival (op : Nat) (reply : Reply) (s : State) :
    exec (.eWindowAckArrival op reply) s = execEWindowAckArrival op reply s := rfl
theorem exec_eRetransmissionTimeout (op : Nat) (s : State) :
    exec (.eRetransmissionTimeout op) s = execERetransmissionTimeout op s := rfl
theorem exec_eDirectPlacementRetry (op : Nat) (s : State) :
    exec (.eDirectPlacementRetry op) s = execEDirectPlacementRetry op s := rfl
theorem exec_eLinkFailure (port : Nat) (s : State) :
    exec (.eLinkFailure port) s = execELinkFailure port s := rfl
theorem exec_ePortLaneFailure (port : Nat) (s : State) :
    exec (.ePortLaneFailure port) s = execEPortLaneFailure port s := rfl
theorem exec_eMemoryLaneFailure (channel : Nat) (s : State) :
    exec (.eMemoryLaneFailure channel) s = execEMemoryLaneFailure channel s := rfl
theorem exec_eCoreFailure (core : Nat) (spare : Nat) (lost : Nat) (s : State) :
    exec (.eCoreFailure core spare lost) s = execECoreFailure core spare lost s := rfl
theorem exec_eCoreMigration (core : Nat) (spare : Nat) (lost : Nat) (s : State) :
    exec (.eCoreMigration core spare lost) s = execECoreMigration core spare lost s := rfl
theorem exec_eCollectivePacketArrival (c : CollIn) (s : State) :
    exec (.eCollectivePacketArrival c) s = execECollectivePacketArrival c s := rfl
theorem exec_eTakeoverRequestArrival (r : Takeover) (s : State) :
    exec (.eTakeoverRequestArrival r) s = execETakeoverRequestArrival r s := rfl
theorem exec_eMatchTimeout (port : Nat) (ctx : Nat) (cid : Nat) (s : State) :
    exec (.eMatchTimeout port ctx cid) s = execEMatchTimeout port ctx cid s := rfl
theorem exec_eAliasStoreAccept (ctx : Nat) (core : Nat) (slot : Nat) (entry : Nat) (lane : Nat) (s : State) :
    exec (.eAliasStoreAccept ctx core slot entry lane) s = execEAliasStoreAccept ctx core slot entry lane s := rfl
theorem exec_eLaneBlockStart (ctx : Nat) (core : Nat) (slot : Nat) (s : State) :
    exec (.eLaneBlockStart ctx core slot) s = execELaneBlockStart ctx core slot s := rfl
theorem exec_eLaneLoadFill (ctx : Nat) (core : Nat) (slot : Nat) (fill : Nat) (s : State) :
    exec (.eLaneLoadFill ctx core slot fill) s = execELaneLoadFill ctx core slot fill s := rfl
theorem exec_eAccessPerformed (ctx : Nat) (core : Nat) (slot : Nat) (entry : Nat) (count : Nat) (ue : Bool) (s : State) :
    exec (.eAccessPerformed ctx core slot entry count ue) s = execEAccessPerformed ctx core slot entry count ue s := rfl
theorem exec_eDeferredFaultDelivery (ctx : Nat) (core : Nat) (slot : Nat) (entry : Nat) (s : State) :
    exec (.eDeferredFaultDelivery ctx core slot entry) s = execEDeferredFaultDelivery ctx core slot entry s := rfl
theorem exec_eSounderPark (ctx : Nat) (core : Nat) (n : Nat) (s : State) :
    exec (.eSounderPark ctx core n) s = execESounderPark ctx core n s := rfl
theorem exec_eSounderResume (ctx : Nat) (core : Nat) (s : State) :
    exec (.eSounderResume ctx core) s = execESounderResume ctx core s := rfl
theorem exec_eQuadrantArbitration (core : Nat) (quad : Nat) (lane : Bool) (s : State) :
    exec (.eQuadrantArbitration core quad lane) s = execEQuadrantArbitration core quad lane s := rfl
theorem exec_eDeterministicRelease (ctx : Nat) (core : Nat) (slot : Nat) (s : State) :
    exec (.eDeterministicRelease ctx core slot) s = execEDeterministicRelease ctx core slot s := rfl
theorem exec_eEventTimerExpiry (ctx : Nat) (core : Nat) (slot : Nat) (n : Nat) (s : State) :
    exec (.eEventTimerExpiry ctx core slot n) s = execEEventTimerExpiry ctx core slot n s := rfl
theorem exec_eMailboxMessageArrival (m : MailMsg) (s : State) :
    exec (.eMailboxMessageArrival m) s = execEMailboxMessageArrival m s := rfl
theorem exec_eMailboxStatusReturn (op : Nat) (status : Nat) (s : State) :
    exec (.eMailboxStatusReturn op status) s = execEMailboxStatusReturn op status s := rfl
theorem exec_eWaitanyWake (ctx : Nat) (core : Nat) (slot : Nat) (s : State) :
    exec (.eWaitanyWake ctx core slot) s = execEWaitanyWake ctx core slot s := rfl
theorem exec_eBarrierWaitRelease (ctx : Nat) (core : Nat) (slot : Nat) (s : State) :
    exec (.eBarrierWaitRelease ctx core slot) s = execEBarrierWaitRelease ctx core slot s := rfl
theorem exec_eHwaitReturn (ctx : Nat) (core : Nat) (slot : Nat) (slices : Nat) (s : State) :
    exec (.eHwaitReturn ctx core slot slices) s = execEHwaitReturn ctx core slot slices s := rfl
theorem exec_eRegangJoin (ctx : Nat) (core : Nat) (slot : Nat) (s : State) :
    exec (.eRegangJoin ctx core slot) s = execERegangJoin ctx core slot s := rfl
theorem exec_eCopyLastByte (ctx : Nat) (core : Nat) (id : Nat) (n : Nat) (s : State) :
    exec (.eCopyLastByte ctx core id n) s = execECopyLastByte ctx core id n s := rfl
theorem exec_eEngineCommandFire (ctx : Nat) (core : Nat) (unit : Nat) (s : State) :
    exec (.eEngineCommandFire ctx core unit) s = execEEngineCommandFire ctx core unit s := rfl
theorem exec_eArrayCommandComplete (ctx : Nat) (core : Nat) (s : State) :
    exec (.eArrayCommandComplete ctx core) s = execEArrayCommandComplete ctx core s := rfl
theorem exec_eArrayTransientError (ctx : Nat) (core : Nat) (s : State) :
    exec (.eArrayTransientError ctx core) s = execEArrayTransientError ctx core s := rfl
theorem exec_eRouteComplete (die : Nat) (n : Nat) (s : State) :
    exec (.eRouteComplete die n) s = execERouteComplete die n s := rfl
theorem exec_eEngineAccessFault (ctx : Nat) (core : Nat) (unit : Nat) (id : Nat) (ue : Bool) (s : State) :
    exec (.eEngineAccessFault ctx core unit id ue) s = execEEngineAccessFault ctx core unit id ue s := rfl
theorem exec_eSliceEnd (core : Nat) (s : State) :
    exec (.eSliceEnd core) s = execESliceEnd core s := rfl
theorem exec_eSafePoint (core : Nat) (s : State) :
    exec (.eSafePoint core) s = execESafePoint core s := rfl
theorem exec_eBadgerSaveDone (core : Nat) (ue : Bool) (s : State) :
    exec (.eBadgerSaveDone core ue) s = execEBadgerSaveDone core ue s := rfl
theorem exec_eBadgerFillDone (ctx : Nat) (core : Nat) (ue : Bool) (s : State) :
    exec (.eBadgerFillDone ctx core ue) s = execEBadgerFillDone ctx core ue s := rfl
theorem exec_eBankControlWrite (core : Nat) (b : Nat) (value : Nat) (s : State) :
    exec (.eBankControlWrite core b value) s = execEBankControlWrite core b value s := rfl
theorem exec_eBankChangeComplete (core : Nat) (b : Nat) (s : State) :
    exec (.eBankChangeComplete core b) s = execEBankChangeComplete core b s := rfl
theorem exec_eShootDownComplete (ctx : Nat) (s : State) :
    exec (.eShootDownComplete ctx) s = execEShootDownComplete ctx s := rfl
theorem exec_eSentUpRecordService (ctx : Nat) (resume : Nat) (s : State) :
    exec (.eSentUpRecordService ctx resume) s = execESentUpRecordService ctx resume s := rfl
theorem exec_sAdd (d : BitVec 6) (a : BitVec 6) (b : BitVec 6) (s : State) :
    exec (.sAdd d a b) s = execSAdd d a b s := rfl
theorem exec_sAdd32 (d : BitVec 6) (a : BitVec 6) (b : BitVec 6) (s : State) :
    exec (.sAdd32 d a b) s = execSAdd32 d a b s := rfl
theorem exec_sSub (d : BitVec 6) (a : BitVec 6) (b : BitVec 6) (s : State) :
    exec (.sSub d a b) s = execSSub d a b s := rfl
theorem exec_sSub32 (d : BitVec 6) (a : BitVec 6) (b : BitVec 6) (s : State) :
    exec (.sSub32 d a b) s = execSSub32 d a b s := rfl
theorem exec_sAnd (d : BitVec 6) (a : BitVec 6) (b : BitVec 6) (s : State) :
    exec (.sAnd d a b) s = execSAnd d a b s := rfl
theorem exec_sAnd32 (d : BitVec 6) (a : BitVec 6) (b : BitVec 6) (s : State) :
    exec (.sAnd32 d a b) s = execSAnd32 d a b s := rfl
theorem exec_sOr (d : BitVec 6) (a : BitVec 6) (b : BitVec 6) (s : State) :
    exec (.sOr d a b) s = execSOr d a b s := rfl
theorem exec_sOr32 (d : BitVec 6) (a : BitVec 6) (b : BitVec 6) (s : State) :
    exec (.sOr32 d a b) s = execSOr32 d a b s := rfl
theorem exec_sXor (d : BitVec 6) (a : BitVec 6) (b : BitVec 6) (s : State) :
    exec (.sXor d a b) s = execSXor d a b s := rfl
theorem exec_sXor32 (d : BitVec 6) (a : BitVec 6) (b : BitVec 6) (s : State) :
    exec (.sXor32 d a b) s = execSXor32 d a b s := rfl
theorem exec_sShl (d : BitVec 6) (a : BitVec 6) (b : BitVec 6) (s : State) :
    exec (.sShl d a b) s = execSShl d a b s := rfl
theorem exec_sShl32 (d : BitVec 6) (a : BitVec 6) (b : BitVec 6) (s : State) :
    exec (.sShl32 d a b) s = execSShl32 d a b s := rfl
theorem exec_sShr (d : BitVec 6) (a : BitVec 6) (b : BitVec 6) (s : State) :
    exec (.sShr d a b) s = execSShr d a b s := rfl
theorem exec_sShr32 (d : BitVec 6) (a : BitVec 6) (b : BitVec 6) (s : State) :
    exec (.sShr32 d a b) s = execSShr32 d a b s := rfl
theorem exec_sSra (d : BitVec 6) (a : BitVec 6) (b : BitVec 6) (s : State) :
    exec (.sSra d a b) s = execSSra d a b s := rfl
theorem exec_sSra32 (d : BitVec 6) (a : BitVec 6) (b : BitVec 6) (s : State) :
    exec (.sSra32 d a b) s = execSSra32 d a b s := rfl
theorem exec_sMul (d : BitVec 6) (a : BitVec 6) (b : BitVec 6) (s : State) :
    exec (.sMul d a b) s = execSMul d a b s := rfl
theorem exec_sMul32 (d : BitVec 6) (a : BitVec 6) (b : BitVec 6) (s : State) :
    exec (.sMul32 d a b) s = execSMul32 d a b s := rfl
theorem exec_sMulh (d : BitVec 6) (a : BitVec 6) (b : BitVec 6) (s : State) :
    exec (.sMulh d a b) s = execSMulh d a b s := rfl
theorem exec_sMulh32 (d : BitVec 6) (a : BitVec 6) (b : BitVec 6) (s : State) :
    exec (.sMulh32 d a b) s = execSMulh32 d a b s := rfl
theorem exec_sMulhn (d : BitVec 6) (a : BitVec 6) (b : BitVec 6) (s : State) :
    exec (.sMulhn d a b) s = execSMulhn d a b s := rfl
theorem exec_sMulhn32 (d : BitVec 6) (a : BitVec 6) (b : BitVec 6) (s : State) :
    exec (.sMulhn32 d a b) s = execSMulhn32 d a b s := rfl
theorem exec_sDiv (d : BitVec 6) (a : BitVec 6) (b : BitVec 6) (s : State) :
    exec (.sDiv d a b) s = execSDiv d a b s := rfl
theorem exec_sDiv32 (d : BitVec 6) (a : BitVec 6) (b : BitVec 6) (s : State) :
    exec (.sDiv32 d a b) s = execSDiv32 d a b s := rfl
theorem exec_sDivn (d : BitVec 6) (a : BitVec 6) (b : BitVec 6) (s : State) :
    exec (.sDivn d a b) s = execSDivn d a b s := rfl
theorem exec_sDivn32 (d : BitVec 6) (a : BitVec 6) (b : BitVec 6) (s : State) :
    exec (.sDivn32 d a b) s = execSDivn32 d a b s := rfl
theorem exec_sRem (d : BitVec 6) (a : BitVec 6) (b : BitVec 6) (s : State) :
    exec (.sRem d a b) s = execSRem d a b s := rfl
theorem exec_sRem32 (d : BitVec 6) (a : BitVec 6) (b : BitVec 6) (s : State) :
    exec (.sRem32 d a b) s = execSRem32 d a b s := rfl
theorem exec_sRemn (d : BitVec 6) (a : BitVec 6) (b : BitVec 6) (s : State) :
    exec (.sRemn d a b) s = execSRemn d a b s := rfl
theorem exec_sRemn32 (d : BitVec 6) (a : BitVec 6) (b : BitVec 6) (s : State) :
    exec (.sRemn32 d a b) s = execSRemn32 d a b s := rfl
theorem exec_sMin (d : BitVec 6) (a : BitVec 6) (b : BitVec 6) (s : State) :
    exec (.sMin d a b) s = execSMin d a b s := rfl
theorem exec_sMin32 (d : BitVec 6) (a : BitVec 6) (b : BitVec 6) (s : State) :
    exec (.sMin32 d a b) s = execSMin32 d a b s := rfl
theorem exec_sMax (d : BitVec 6) (a : BitVec 6) (b : BitVec 6) (s : State) :
    exec (.sMax d a b) s = execSMax d a b s := rfl
theorem exec_sMax32 (d : BitVec 6) (a : BitVec 6) (b : BitVec 6) (s : State) :
    exec (.sMax32 d a b) s = execSMax32 d a b s := rfl
theorem exec_sMinn (d : BitVec 6) (a : BitVec 6) (b : BitVec 6) (s : State) :
    exec (.sMinn d a b) s = execSMinn d a b s := rfl
theorem exec_sMinn32 (d : BitVec 6) (a : BitVec 6) (b : BitVec 6) (s : State) :
    exec (.sMinn32 d a b) s = execSMinn32 d a b s := rfl
theorem exec_sMaxn (d : BitVec 6) (a : BitVec 6) (b : BitVec 6) (s : State) :
    exec (.sMaxn d a b) s = execSMaxn d a b s := rfl
theorem exec_sMaxn32 (d : BitVec 6) (a : BitVec 6) (b : BitVec 6) (s : State) :
    exec (.sMaxn32 d a b) s = execSMaxn32 d a b s := rfl
theorem exec_sAddi (d : BitVec 6) (a : BitVec 6) (im : BitVec 14) (s : State) :
    exec (.sAddi d a im) s = execSAddi d a im s := rfl
theorem exec_sAndi (d : BitVec 6) (a : BitVec 6) (im : BitVec 14) (s : State) :
    exec (.sAndi d a im) s = execSAndi d a im s := rfl
theorem exec_sOri (d : BitVec 6) (a : BitVec 6) (im : BitVec 14) (s : State) :
    exec (.sOri d a im) s = execSOri d a im s := rfl
theorem exec_sXori (d : BitVec 6) (a : BitVec 6) (im : BitVec 14) (s : State) :
    exec (.sXori d a im) s = execSXori d a im s := rfl
theorem exec_sShli (d : BitVec 6) (a : BitVec 6) (n : BitVec 6) (s : State) :
    exec (.sShli d a n) s = execSShli d a n s := rfl
theorem exec_sShri (d : BitVec 6) (a : BitVec 6) (n : BitVec 6) (s : State) :
    exec (.sShri d a n) s = execSShri d a n s := rfl
theorem exec_sSrai (d : BitVec 6) (a : BitVec 6) (n : BitVec 6) (s : State) :
    exec (.sSrai d a n) s = execSSrai d a n s := rfl
theorem exec_sLui (d : BitVec 6) (im : BitVec 20) (s : State) :
    exec (.sLui d im) s = execSLui d im s := rfl
theorem exec_sPcrel (d : BitVec 6) (im : BitVec 20) (s : State) :
    exec (.sPcrel d im) s = execSPcrel d im s := rfl
theorem exec_sCmp (d : BitVec 3) (c : BitVec 3) (a : BitVec 6) (b : BitVec 6) (s : State) :
    exec (.sCmp d c a b) s = execSCmp d c a b s := rfl
theorem exec_sCmpi (d : BitVec 3) (c : BitVec 3) (a : BitVec 6) (im : BitVec 14) (s : State) :
    exec (.sCmpi d c a im) s = execSCmpi d c a im s := rfl
theorem exec_sBc (c : BitVec 3) (n : BitVec 1) (o : BitVec 22) (s : State) :
    exec (.sBc c n o) s = execSBc c n o s := rfl
theorem exec_sJmp (o : BitVec 26) (s : State) :
    exec (.sJmp o) s = execSJmp o s := rfl
theorem exec_sCall (o : BitVec 26) (s : State) :
    exec (.sCall o) s = execSCall o s := rfl
theorem exec_sJmpr (a : BitVec 6) (s : State) :
    exec (.sJmpr a) s = execSJmpr a s := rfl
theorem exec_sCallr (a : BitVec 6) (s : State) :
    exec (.sCallr a) s = execSCallr a s := rfl
theorem exec_sRet (s : State) :
    exec (.sRet) s = execSRet s := rfl
theorem exec_sSldI8 (d : BitVec 6) (a : BitVec 6) (im : BitVec 14) (s : State) :
    exec (.sSldI8 d a im) s = execSSldI8 d a im s := rfl
theorem exec_sSldN8 (d : BitVec 6) (a : BitVec 6) (im : BitVec 14) (s : State) :
    exec (.sSldN8 d a im) s = execSSldN8 d a im s := rfl
theorem exec_sSldI16 (d : BitVec 6) (a : BitVec 6) (im : BitVec 14) (s : State) :
    exec (.sSldI16 d a im) s = execSSldI16 d a im s := rfl
theorem exec_sSldN16 (d : BitVec 6) (a : BitVec 6) (im : BitVec 14) (s : State) :
    exec (.sSldN16 d a im) s = execSSldN16 d a im s := rfl
theorem exec_sSldI32 (d : BitVec 6) (a : BitVec 6) (im : BitVec 14) (s : State) :
    exec (.sSldI32 d a im) s = execSSldI32 d a im s := rfl
theorem exec_sSldN32 (d : BitVec 6) (a : BitVec 6) (im : BitVec 14) (s : State) :
    exec (.sSldN32 d a im) s = execSSldN32 d a im s := rfl
theorem exec_sSldI64 (d : BitVec 6) (a : BitVec 6) (im : BitVec 14) (s : State) :
    exec (.sSldI64 d a im) s = execSSldI64 d a im s := rfl
theorem exec_sSstN8 (v : BitVec 6) (a : BitVec 6) (im : BitVec 14) (s : State) :
    exec (.sSstN8 v a im) s = execSSstN8 v a im s := rfl
theorem exec_sSstN16 (v : BitVec 6) (a : BitVec 6) (im : BitVec 14) (s : State) :
    exec (.sSstN16 v a im) s = execSSstN16 v a im s := rfl
theorem exec_sSstN32 (v : BitVec 6) (a : BitVec 6) (im : BitVec 14) (s : State) :
    exec (.sSstN32 v a im) s = execSSstN32 v a im s := rfl
theorem exec_sSstN64 (v : BitVec 6) (a : BitVec 6) (im : BitVec 14) (s : State) :
    exec (.sSstN64 v a im) s = execSSstN64 v a im s := rfl
theorem exec_sLrun (k : BitVec 3) (b : BitVec 12) (s : State) :
    exec (.sLrun k b) s = execSLrun k b s := rfl
theorem exec_sLsync (s : State) :
    exec (.sLsync) s = execSLsync s := rfl
theorem exec_sSysrd (d : BitVec 6) (r : BitVec 12) (s : State) :
    exec (.sSysrd d r) s = execSSysrd d r s := rfl
theorem exec_sSyswr (a : BitVec 6) (r : BitVec 12) (s : State) :
    exec (.sSyswr a r) s = execSSyswr a r s := rfl
theorem exec_sEvarm (j : BitVec 6) (a : BitVec 6) (s : State) :
    exec (.sEvarm j a) s = execSEvarm j a s := rfl
theorem exec_sEvdisarm (j : BitVec 6) (s : State) :
    exec (.sEvdisarm j) s = execSEvdisarm j s := rfl
theorem exec_sWaitany (d : BitVec 6) (s : State) :
    exec (.sWaitany d) s = execSWaitany d s := rfl
theorem exec_sJoin (d : BitVec 6) (a : BitVec 6) (s : State) :
    exec (.sJoin d a) s = execSJoin d a s := rfl
theorem exec_sLeave (a : BitVec 6) (s : State) :
    exec (.sLeave a) s = execSLeave a s := rfl
theorem exec_sBarArrive (d : BitVec 6) (a : BitVec 6) (b : BitVec 6) (s : State) :
    exec (.sBarArrive d a b) s = execSBarArrive d a b s := rfl
theorem exec_sBarWait (d : BitVec 6) (a : BitVec 6) (b : BitVec 6) (s : State) :
    exec (.sBarWait d a b) s = execSBarWait d a b s := rfl
theorem exec_sBarSync (d : BitVec 6) (a : BitVec 6) (s : State) :
    exec (.sBarSync d a) s = execSBarSync d a s := rfl
theorem exec_sMbpost (a : BitVec 6) (b : BitVec 6) (s : State) :
    exec (.sMbpost a b) s = execSMbpost a b s := rfl
theorem exec_sMbsend (d : BitVec 6) (a : BitVec 6) (b : BitVec 6) (s : State) :
    exec (.sMbsend d a b) s = execSMbsend d a b s := rfl
theorem exec_sMbrecv (d : BitVec 6) (a : BitVec 6) (s : State) :
    exec (.sMbrecv d a) s = execSMbrecv d a s := rfl
theorem exec_sSfenceLocal (s : State) :
    exec (.sSfenceLocal) s = execSSfenceLocal s := rfl
theorem exec_sSfenceCore (s : State) :
    exec (.sSfenceCore) s = execSSfenceCore s := rfl
theorem exec_sSfencePkg (s : State) :
    exec (.sSfencePkg) s = execSSfencePkg s := rfl
theorem exec_sSfenceSys (s : State) :
    exec (.sSfenceSys) s = execSSfenceSys s := rfl
theorem exec_sSvc (a : BitVec 6) (s : State) :
    exec (.sSvc a) s = execSSvc a s := rfl
theorem exec_sSndend (s : State) :
    exec (.sSndend) s = execSSndend s := rfl
theorem exec_sTret (s : State) :
    exec (.sTret) s = execSTret s := rfl
theorem exec_sOplrd (d : BitVec 6) (a : BitVec 6) (b : BitVec 6) (s : State) :
    exec (.sOplrd d a b) s = execSOplrd d a b s := rfl
theorem exec_sOplrep (d : BitVec 6) (a : BitVec 6) (s : State) :
    exec (.sOplrep d a) s = execSOplrep d a s := rfl
theorem exec_sRdtime (d : BitVec 6) (s : State) :
    exec (.sRdtime d) s = execSRdtime d s := rfl
theorem exec_vIadd (f : LaneR) (s : State) :
    exec (.vIadd f) s = execVIadd f s := rfl
theorem exec_vIsub (f : LaneR) (s : State) :
    exec (.vIsub f) s = execVIsub f s := rfl
theorem exec_vIaddsat (f : LaneR) (s : State) :
    exec (.vIaddsat f) s = execVIaddsat f s := rfl
theorem exec_vIsubsat (f : LaneR) (s : State) :
    exec (.vIsubsat f) s = execVIsubsat f s := rfl
theorem exec_vImul (f : LaneR) (s : State) :
    exec (.vImul f) s = execVImul f s := rfl
theorem exec_vImulhi (f : LaneR) (s : State) :
    exec (.vImulhi f) s = execVImulhi f s := rfl
theorem exec_vImad (f : LaneR) (s : State) :
    exec (.vImad f) s = execVImad f s := rfl
theorem exec_vImin (f : LaneR) (s : State) :
    exec (.vImin f) s = execVImin f s := rfl
theorem exec_vImax (f : LaneR) (s : State) :
    exec (.vImax f) s = execVImax f s := rfl
theorem exec_vIabs (f : LaneR) (s : State) :
    exec (.vIabs f) s = execVIabs f s := rfl
theorem exec_vIneg (f : LaneR) (s : State) :
    exec (.vIneg f) s = execVIneg f s := rfl
theorem exec_vIdiv (f : LaneR) (s : State) :
    exec (.vIdiv f) s = execVIdiv f s := rfl
theorem exec_vIrem (f : LaneR) (s : State) :
    exec (.vIrem f) s = execVIrem f s := rfl
theorem exec_vIavg (f : LaneR) (s : State) :
    exec (.vIavg f) s = execVIavg f s := rfl
theorem exec_vIsad (f : LaneR) (s : State) :
    exec (.vIsad f) s = execVIsad f s := rfl
theorem exec_vAnd (f : LaneR) (s : State) :
    exec (.vAnd f) s = execVAnd f s := rfl
theorem exec_vOr (f : LaneR) (s : State) :
    exec (.vOr f) s = execVOr f s := rfl
theorem exec_vXor (f : LaneR) (s : State) :
    exec (.vXor f) s = execVXor f s := rfl
theorem exec_vNot (f : LaneR) (s : State) :
    exec (.vNot f) s = execVNot f s := rfl
theorem exec_vAndn (f : LaneR) (s : State) :
    exec (.vAndn f) s = execVAndn f s := rfl
theorem exec_vShl (f : LaneR) (s : State) :
    exec (.vShl f) s = execVShl f s := rfl
theorem exec_vShr (f : LaneR) (s : State) :
    exec (.vShr f) s = execVShr f s := rfl
theorem exec_vSra (f : LaneR) (s : State) :
    exec (.vSra f) s = execVSra f s := rfl
theorem exec_vRotl (f : LaneR) (s : State) :
    exec (.vRotl f) s = execVRotl f s := rfl
theorem exec_vPopc (f : LaneR) (s : State) :
    exec (.vPopc f) s = execVPopc f s := rfl
theorem exec_vClz (f : LaneR) (s : State) :
    exec (.vClz f) s = execVClz f s := rfl
theorem exec_vCtz (f : LaneR) (s : State) :
    exec (.vCtz f) s = execVCtz f s := rfl
theorem exec_vBrev (f : LaneR) (s : State) :
    exec (.vBrev f) s = execVBrev f s := rfl
theorem exec_vBfext (f : LaneR) (s : State) :
    exec (.vBfext f) s = execVBfext f s := rfl
theorem exec_vBfins (f : LaneR) (s : State) :
    exec (.vBfins f) s = execVBfins f s := rfl
theorem exec_vTlut (f : LaneR) (s : State) :
    exec (.vTlut f) s = execVTlut f s := rfl
theorem exec_vIcmpEq (f : LaneR) (s : State) :
    exec (.vIcmpEq f) s = execVIcmpEq f s := rfl
theorem exec_vIcmpNe (f : LaneR) (s : State) :
    exec (.vIcmpNe f) s = execVIcmpNe f s := rfl
theorem exec_vIcmpLt (f : LaneR) (s : State) :
    exec (.vIcmpLt f) s = execVIcmpLt f s := rfl
theorem exec_vIcmpLe (f : LaneR) (s : State) :
    exec (.vIcmpLe f) s = execVIcmpLe f s := rfl
theorem exec_vIcmpGt (f : LaneR) (s : State) :
    exec (.vIcmpGt f) s = execVIcmpGt f s := rfl
theorem exec_vIcmpGe (f : LaneR) (s : State) :
    exec (.vIcmpGe f) s = execVIcmpGe f s := rfl
theorem exec_vFadd (f : LaneR) (s : State) :
    exec (.vFadd f) s = execVFadd f s := rfl
theorem exec_vFsub (f : LaneR) (s : State) :
    exec (.vFsub f) s = execVFsub f s := rfl
theorem exec_vFmul (f : LaneR) (s : State) :
    exec (.vFmul f) s = execVFmul f s := rfl
theorem exec_vFfma (f : LaneR) (s : State) :
    exec (.vFfma f) s = execVFfma f s := rfl
theorem exec_vFmin (f : LaneR) (s : State) :
    exec (.vFmin f) s = execVFmin f s := rfl
theorem exec_vFmax (f : LaneR) (s : State) :
    exec (.vFmax f) s = execVFmax f s := rfl
theorem exec_vFminnum (f : LaneR) (s : State) :
    exec (.vFminnum f) s = execVFminnum f s := rfl
theorem exec_vFmaxnum (f : LaneR) (s : State) :
    exec (.vFmaxnum f) s = execVFmaxnum f s := rfl
theorem exec_vFabs (f : LaneR) (s : State) :
    exec (.vFabs f) s = execVFabs f s := rfl
theorem exec_vFneg (f : LaneR) (s : State) :
    exec (.vFneg f) s = execVFneg f s := rfl
theorem exec_vFcopysign (f : LaneR) (s : State) :
    exec (.vFcopysign f) s = execVFcopysign f s := rfl
theorem exec_vFclass (f : LaneR) (s : State) :
    exec (.vFclass f) s = execVFclass f s := rfl
theorem exec_vFcmpEq (f : LaneR) (s : State) :
    exec (.vFcmpEq f) s = execVFcmpEq f s := rfl
theorem exec_vFcmpNe (f : LaneR) (s : State) :
    exec (.vFcmpNe f) s = execVFcmpNe f s := rfl
theorem exec_vFcmpLt (f : LaneR) (s : State) :
    exec (.vFcmpLt f) s = execVFcmpLt f s := rfl
theorem exec_vFcmpLe (f : LaneR) (s : State) :
    exec (.vFcmpLe f) s = execVFcmpLe f s := rfl
theorem exec_vFcmpGt (f : LaneR) (s : State) :
    exec (.vFcmpGt f) s = execVFcmpGt f s := rfl
theorem exec_vFcmpGe (f : LaneR) (s : State) :
    exec (.vFcmpGe f) s = execVFcmpGe f s := rfl
theorem exec_vFcmpUn (f : LaneR) (s : State) :
    exec (.vFcmpUn f) s = execVFcmpUn f s := rfl
theorem exec_vFcmpOrd (f : LaneR) (s : State) :
    exec (.vFcmpOrd f) s = execVFcmpOrd f s := rfl
theorem exec_vRcp (f : LaneR) (s : State) :
    exec (.vRcp f) s = execVRcp f s := rfl
theorem exec_vRsq (f : LaneR) (s : State) :
    exec (.vRsq f) s = execVRsq f s := rfl
theorem exec_vSqrt (f : LaneR) (s : State) :
    exec (.vSqrt f) s = execVSqrt f s := rfl
theorem exec_vDiv (f : LaneR) (s : State) :
    exec (.vDiv f) s = execVDiv f s := rfl
theorem exec_vExp2 (f : LaneR) (s : State) :
    exec (.vExp2 f) s = execVExp2 f s := rfl
theorem exec_vLog2 (f : LaneR) (s : State) :
    exec (.vLog2 f) s = execVLog2 f s := rfl
theorem exec_vCvt (src : BitVec 8) (f : LaneR) (s : State) :
    exec (.vCvt src f) s = execVCvt src f s := rfl
theorem exec_vFrint (f : LaneR) (s : State) :
    exec (.vFrint f) s = execVFrint f s := rfl
theorem exec_vQnt (f : LaneR) (s : State) :
    exec (.vQnt f) s = execVQnt f s := rfl
theorem exec_vDqnt (f : LaneR) (s : State) :
    exec (.vDqnt f) s = execVDqnt f s := rfl
theorem exec_vQscale (f : LaneR) (s : State) :
    exec (.vQscale f) s = execVQscale f s := rfl
theorem exec_vPand (f : LaneR) (s : State) :
    exec (.vPand f) s = execVPand f s := rfl
theorem exec_vPor (f : LaneR) (s : State) :
    exec (.vPor f) s = execVPor f s := rfl
theorem exec_vPxor (f : LaneR) (s : State) :
    exec (.vPxor f) s = execVPxor f s := rfl
theorem exec_vPandn (f : LaneR) (s : State) :
    exec (.vPandn f) s = execVPandn f s := rfl
theorem exec_vPnot (f : LaneR) (s : State) :
    exec (.vPnot f) s = execVPnot f s := rfl
theorem exec_vPmov (f : LaneR) (s : State) :
    exec (.vPmov f) s = execVPmov f s := rfl
theorem exec_vPfromv (f : LaneR) (s : State) :
    exec (.vPfromv f) s = execVPfromv f s := rfl
theorem exec_vPvec (f : LaneR) (s : State) :
    exec (.vPvec f) s = execVPvec f s := rfl
theorem exec_vPfirst (f : LaneR) (s : State) :
    exec (.vPfirst f) s = execVPfirst f s := rfl
theorem exec_vMov (f : LaneR) (s : State) :
    exec (.vMov f) s = execVMov f s := rfl
theorem exec_vSel (f : LaneR) (s : State) :
    exec (.vSel f) s = execVSel f s := rfl
theorem exec_vLidx (f : LaneR) (s : State) :
    exec (.vLidx f) s = execVLidx f s := rfl
theorem exec_vLxor (f : LaneR) (s : State) :
    exec (.vLxor f) s = execVLxor f s := rfl
theorem exec_vLrot (f : LaneR) (s : State) :
    exec (.vLrot f) s = execVLrot f s := rfl
theorem exec_vBcast (f : LaneR) (s : State) :
    exec (.vBcast f) s = execVBcast f s := rfl
theorem exec_vRadd (f : LaneR) (s : State) :
    exec (.vRadd f) s = execVRadd f s := rfl
theorem exec_vRmin (f : LaneR) (s : State) :
    exec (.vRmin f) s = execVRmin f s := rfl
theorem exec_vRmax (f : LaneR) (s : State) :
    exec (.vRmax f) s = execVRmax f s := rfl
theorem exec_vRand (f : LaneR) (s : State) :
    exec (.vRand f) s = execVRand f s := rfl
theorem exec_vRor (f : LaneR) (s : State) :
    exec (.vRor f) s = execVRor f s := rfl
theorem exec_vRxor (f : LaneR) (s : State) :
    exec (.vRxor f) s = execVRxor f s := rfl
theorem exec_vDp4 (f : LaneR) (s : State) :
    exec (.vDp4 f) s = execVDp4 f s := rfl
theorem exec_vDp2 (f : LaneR) (s : State) :
    exec (.vDp2 f) s = execVDp2 f s := rfl
theorem exec_vIaddI (f : LaneI) (s : State) :
    exec (.vIaddI f) s = execVIaddI f s := rfl
theorem exec_vIsubI (f : LaneI) (s : State) :
    exec (.vIsubI f) s = execVIsubI f s := rfl
theorem exec_vIaddsatI (f : LaneI) (s : State) :
    exec (.vIaddsatI f) s = execVIaddsatI f s := rfl
theorem exec_vIsubsatI (f : LaneI) (s : State) :
    exec (.vIsubsatI f) s = execVIsubsatI f s := rfl
theorem exec_vImulI (f : LaneI) (s : State) :
    exec (.vImulI f) s = execVImulI f s := rfl
theorem exec_vIminI (f : LaneI) (s : State) :
    exec (.vIminI f) s = execVIminI f s := rfl
theorem exec_vImaxI (f : LaneI) (s : State) :
    exec (.vImaxI f) s = execVImaxI f s := rfl
theorem exec_vAndI (f : LaneI) (s : State) :
    exec (.vAndI f) s = execVAndI f s := rfl
theorem exec_vOrI (f : LaneI) (s : State) :
    exec (.vOrI f) s = execVOrI f s := rfl
theorem exec_vXorI (f : LaneI) (s : State) :
    exec (.vXorI f) s = execVXorI f s := rfl
theorem exec_vShlI (f : LaneI) (s : State) :
    exec (.vShlI f) s = execVShlI f s := rfl
theorem exec_vShrI (f : LaneI) (s : State) :
    exec (.vShrI f) s = execVShrI f s := rfl
theorem exec_vSraI (f : LaneI) (s : State) :
    exec (.vSraI f) s = execVSraI f s := rfl
theorem exec_vRotlI (f : LaneI) (s : State) :
    exec (.vRotlI f) s = execVRotlI f s := rfl
theorem exec_vBfextI (f : LaneI) (s : State) :
    exec (.vBfextI f) s = execVBfextI f s := rfl
theorem exec_vIcmpEqI (f : LaneI) (s : State) :
    exec (.vIcmpEqI f) s = execVIcmpEqI f s := rfl
theorem exec_vIcmpNeI (f : LaneI) (s : State) :
    exec (.vIcmpNeI f) s = execVIcmpNeI f s := rfl
theorem exec_vIcmpLtI (f : LaneI) (s : State) :
    exec (.vIcmpLtI f) s = execVIcmpLtI f s := rfl
theorem exec_vIcmpLeI (f : LaneI) (s : State) :
    exec (.vIcmpLeI f) s = execVIcmpLeI f s := rfl
theorem exec_vIcmpGtI (f : LaneI) (s : State) :
    exec (.vIcmpGtI f) s = execVIcmpGtI f s := rfl
theorem exec_vIcmpGeI (f : LaneI) (s : State) :
    exec (.vIcmpGeI f) s = execVIcmpGeI f s := rfl
theorem exec_vFaddI (f : LaneI) (s : State) :
    exec (.vFaddI f) s = execVFaddI f s := rfl
theorem exec_vFmulI (f : LaneI) (s : State) :
    exec (.vFmulI f) s = execVFmulI f s := rfl
theorem exec_vFfmaI (f : LaneI) (s : State) :
    exec (.vFfmaI f) s = execVFfmaI f s := rfl
theorem exec_vFminI (f : LaneI) (s : State) :
    exec (.vFminI f) s = execVFminI f s := rfl
theorem exec_vFmaxI (f : LaneI) (s : State) :
    exec (.vFmaxI f) s = execVFmaxI f s := rfl
theorem exec_vFcmpEqI (f : LaneI) (s : State) :
    exec (.vFcmpEqI f) s = execVFcmpEqI f s := rfl
theorem exec_vFcmpNeI (f : LaneI) (s : State) :
    exec (.vFcmpNeI f) s = execVFcmpNeI f s := rfl
theorem exec_vFcmpLtI (f : LaneI) (s : State) :
    exec (.vFcmpLtI f) s = execVFcmpLtI f s := rfl
theorem exec_vFcmpLeI (f : LaneI) (s : State) :
    exec (.vFcmpLeI f) s = execVFcmpLeI f s := rfl
theorem exec_vFcmpGtI (f : LaneI) (s : State) :
    exec (.vFcmpGtI f) s = execVFcmpGtI f s := rfl
theorem exec_vFcmpGeI (f : LaneI) (s : State) :
    exec (.vFcmpGeI f) s = execVFcmpGeI f s := rfl
theorem exec_vFcmpUnI (f : LaneI) (s : State) :
    exec (.vFcmpUnI f) s = execVFcmpUnI f s := rfl
theorem exec_vFcmpOrdI (f : LaneI) (s : State) :
    exec (.vFcmpOrdI f) s = execVFcmpOrdI f s := rfl
theorem exec_vMovI (f : LaneI) (s : State) :
    exec (.vMovI f) s = execVMovI f s := rfl
theorem exec_vSelI (f : LaneI) (s : State) :
    exec (.vSelI f) s = execVSelI f s := rfl
theorem exec_vLidxI (f : LaneI) (s : State) :
    exec (.vLidxI f) s = execVLidxI f s := rfl
theorem exec_vLxorI (f : LaneI) (s : State) :
    exec (.vLxorI f) s = execVLxorI f s := rfl
theorem exec_vLrotI (f : LaneI) (s : State) :
    exec (.vLrotI f) s = execVLrotI f s := rfl
theorem exec_vBcastI (f : LaneI) (s : State) :
    exec (.vBcastI f) s = execVBcastI f s := rfl
theorem exec_vSpld (f : LaneI) (s : State) :
    exec (.vSpld f) s = execVSpld f s := rfl
theorem exec_vSpst (f : LaneI) (s : State) :
    exec (.vSpst f) s = execVSpst f s := rfl
theorem exec_vGld (f : LaneI) (s : State) :
    exec (.vGld f) s = execVGld f s := rfl
theorem exec_vGst (f : LaneI) (s : State) :
    exec (.vGst f) s = execVGst f s := rfl
theorem exec_vGprefetch (f : LaneI) (s : State) :
    exec (.vGprefetch f) s = execVGprefetch f s := rfl
theorem exec_vAadd (scope : BitVec 2) (f : LaneI) (s : State) :
    exec (.vAadd scope f) s = execVAadd scope f s := rfl
theorem exec_vAmin (scope : BitVec 2) (f : LaneI) (s : State) :
    exec (.vAmin scope f) s = execVAmin scope f s := rfl
theorem exec_vAmax (scope : BitVec 2) (f : LaneI) (s : State) :
    exec (.vAmax scope f) s = execVAmax scope f s := rfl
theorem exec_vAand (scope : BitVec 2) (f : LaneI) (s : State) :
    exec (.vAand scope f) s = execVAand scope f s := rfl
theorem exec_vAor (scope : BitVec 2) (f : LaneI) (s : State) :
    exec (.vAor scope f) s = execVAor scope f s := rfl
theorem exec_vAxor (scope : BitVec 2) (f : LaneI) (s : State) :
    exec (.vAxor scope f) s = execVAxor scope f s := rfl
theorem exec_vAxchg (scope : BitVec 2) (f : LaneI) (s : State) :
    exec (.vAxchg scope f) s = execVAxchg scope f s := rfl
theorem exec_vAcas (scope : BitVec 2) (f : LaneI) (s : State) :
    exec (.vAcas scope f) s = execVAcas scope f s := rfl
theorem exec_vAfadd (scope : BitVec 2) (f : LaneI) (s : State) :
    exec (.vAfadd scope f) s = execVAfadd scope f s := rfl
theorem exec_vAppend (f : LaneI) (s : State) :
    exec (.vAppend f) s = execVAppend f s := rfl
theorem exec_vFenceCore (f : LaneR) (s : State) :
    exec (.vFenceCore f) s = execVFenceCore f s := rfl
theorem exec_vFencePkg (f : LaneR) (s : State) :
    exec (.vFencePkg f) s = execVFencePkg f s := rfl
theorem exec_vFenceSys (f : LaneR) (s : State) :
    exec (.vFenceSys f) s = execVFenceSys f s := rfl
theorem exec_vFenceEng (f : LaneR) (s : State) :
    exec (.vFenceEng f) s = execVFenceEng f s := rfl
theorem exec_vCopy (f : LaneR) (s : State) :
    exec (.vCopy f) s = execVCopy f s := rfl
theorem exec_vCopyFo (f : LaneR) (s : State) :
    exec (.vCopyFo f) s = execVCopyFo f s := rfl
theorem exec_vCbset (f : LaneR) (s : State) :
    exec (.vCbset f) s = execVCbset f s := rfl
theorem exec_vCbpush (f : LaneR) (s : State) :
    exec (.vCbpush f) s = execVCbpush f s := rfl
theorem exec_vCbpop (f : LaneR) (s : State) :
    exec (.vCbpop f) s = execVCbpop f s := rfl
theorem exec_vCbstat (f : LaneR) (s : State) :
    exec (.vCbstat f) s = execVCbstat f s := rfl
theorem exec_vMldw (f : LaneR) (s : State) :
    exec (.vMldw f) s = execVMldw f s := rfl
theorem exec_vMswap (f : LaneR) (s : State) :
    exec (.vMswap f) s = execVMswap f s := rfl
theorem exec_vMstream (f : LaneR) (s : State) :
    exec (.vMstream f) s = execVMstream f s := rfl
theorem exec_vMdrain (f : LaneR) (s : State) :
    exec (.vMdrain f) s = execVMdrain f s := rfl
theorem exec_vMclear (f : LaneR) (s : State) :
    exec (.vMclear f) s = execVMclear f s := rfl
theorem exec_vMperm (f : LaneR) (s : State) :
    exec (.vMperm f) s = execVMperm f s := rfl
theorem exec_vRoute (f : LaneR) (s : State) :
    exec (.vRoute f) s = execVRoute f s := rfl
theorem exec_vCstart (f : LaneR) (s : State) :
    exec (.vCstart f) s = execVCstart f s := rfl
theorem exec_vHwait (f : LaneR) (s : State) :
    exec (.vHwait f) s = execVHwait f s := rfl
theorem exec_vHrel (f : LaneR) (s : State) :
    exec (.vHrel f) s = execVHrel f s := rfl
theorem exec_vHstat (f : LaneR) (s : State) :
    exec (.vHstat f) s = execVHstat f s := rfl
theorem exec_vLend (f : LaneI) (s : State) :
    exec (.vLend f) s = execVLend f s := rfl
theorem exec_vLnop (f : LaneI) (s : State) :
    exec (.vLnop f) s = execVLnop f s := rfl
theorem exec_vLbrAny (f : LaneI) (s : State) :
    exec (.vLbrAny f) s = execVLbrAny f s := rfl
theorem exec_vLbrAll (f : LaneI) (s : State) :
    exec (.vLbrAll f) s = execVLbrAll f s := rfl
theorem exec_vLjmp (f : LaneI) (s : State) :
    exec (.vLjmp f) s = execVLjmp f s := rfl
theorem exec_vRegang (f : LaneI) (s : State) :
    exec (.vRegang f) s = execVRegang f s := rfl
theorem exec_vLtrap (f : LaneI) (s : State) :
    exec (.vLtrap f) s = execVLtrap f s := rfl
theorem exec_mLi (d : BitVec 4) (imm : BitVec 32) (s : State) :
    exec (.mLi d imm) s = execMLi d imm s := rfl
theorem exec_mAddi (d : BitVec 4) (a : BitVec 4) (imm : BitVec 32) (s : State) :
    exec (.mAddi d a imm) s = execMAddi d a imm s := rfl
theorem exec_mAdd (d : BitVec 4) (a : BitVec 4) (b : BitVec 4) (s : State) :
    exec (.mAdd d a b) s = execMAdd d a b s := rfl
theorem exec_mSub (d : BitVec 4) (a : BitVec 4) (b : BitVec 4) (s : State) :
    exec (.mSub d a b) s = execMSub d a b s := rfl
theorem exec_mAnd (d : BitVec 4) (a : BitVec 4) (b : BitVec 4) (s : State) :
    exec (.mAnd d a b) s = execMAnd d a b s := rfl
theorem exec_mOr (d : BitVec 4) (a : BitVec 4) (b : BitVec 4) (s : State) :
    exec (.mOr d a b) s = execMOr d a b s := rfl
theorem exec_mXor (d : BitVec 4) (a : BitVec 4) (b : BitVec 4) (s : State) :
    exec (.mXor d a b) s = execMXor d a b s := rfl
theorem exec_mShl (d : BitVec 4) (a : BitVec 4) (b : BitVec 4) (s : State) :
    exec (.mShl d a b) s = execMShl d a b s := rfl
theorem exec_mShr (d : BitVec 4) (a : BitVec 4) (b : BitVec 4) (s : State) :
    exec (.mShr d a b) s = execMShr d a b s := rfl
theorem exec_mMinn (d : BitVec 4) (a : BitVec 4) (b : BitVec 4) (s : State) :
    exec (.mMinn d a b) s = execMMinn d a b s := rfl
theorem exec_mBAl (off : BitVec 32) (s : State) :
    exec (.mBAl off) s = execMBAl off s := rfl
theorem exec_mBEq (a : BitVec 4) (b : BitVec 4) (off : BitVec 32) (s : State) :
    exec (.mBEq a b off) s = execMBEq a b off s := rfl
theorem exec_mBNe (a : BitVec 4) (b : BitVec 4) (off : BitVec 32) (s : State) :
    exec (.mBNe a b off) s = execMBNe a b off s := rfl
theorem exec_mBLtn (a : BitVec 4) (b : BitVec 4) (off : BitVec 32) (s : State) :
    exec (.mBLtn a b off) s = execMBLtn a b off s := rfl
theorem exec_mBGen (a : BitVec 4) (b : BitVec 4) (off : BitVec 32) (s : State) :
    exec (.mBGen a b off) s = execMBGen a b off s := rfl
theorem exec_mBLt (a : BitVec 4) (b : BitVec 4) (off : BitVec 32) (s : State) :
    exec (.mBLt a b off) s = execMBLt a b off s := rfl
theorem exec_mBGe (a : BitVec 4) (b : BitVec 4) (off : BitVec 32) (s : State) :
    exec (.mBGe a b off) s = execMBGe a b off s := rfl
theorem exec_mMatch (d : BitVec 4) (pk : BitVec 2) (kinds : BitVec 5) (tmo : BitVec 32) (s : State) :
    exec (.mMatch d pk kinds tmo) s = execMMatch d pk kinds tmo s := rfl
theorem exec_mRdh (d : BitVec 4) (pk : BitVec 2) (f : BitVec 3) (s : State) :
    exec (.mRdh d pk f) s = execMRdh d pk f s := rfl
theorem exec_mRdm (d : BitVec 4) (a : BitVec 4) (f : BitVec 3) (s : State) :
    exec (.mRdm d a f) s = execMRdm d a f s := rfl
theorem exec_mMark (d : BitVec 4) (pk : BitVec 2) (s : State) :
    exec (.mMark d pk) s = execMMark d pk s := rfl
theorem exec_mHold (pk : BitVec 2) (s : State) :
    exec (.mHold pk) s = execMHold pk s := rfl
theorem exec_mDrop (pk : BitVec 2) (s : State) :
    exec (.mDrop pk) s = execMDrop pk s := rfl
theorem exec_mStream (a : BitVec 4) (b : BitVec 4) (s : State) :
    exec (.mStream a b) s = execMStream a b s := rfl
theorem exec_mFoldSum (d : BitVec 4) (b : BitVec 4) (s : State) :
    exec (.mFoldSum d b) s = execMFoldSum d b s := rfl
theorem exec_mFoldMin (d : BitVec 4) (b : BitVec 4) (s : State) :
    exec (.mFoldMin d b) s = execMFoldMin d b s := rfl
theorem exec_mFoldMax (d : BitVec 4) (b : BitVec 4) (s : State) :
    exec (.mFoldMax d b) s = execMFoldMax d b s := rfl
theorem exec_mFoldQ (d : BitVec 4) (b : BitVec 4) (s : State) :
    exec (.mFoldQ d b) s = execMFoldQ d b s := rfl
theorem exec_mCombSum (pk : BitVec 2) (b : BitVec 4) (lo : BitVec 1) (s : State) :
    exec (.mCombSum pk b lo) s = execMCombSum pk b lo s := rfl
theorem exec_mCombMin (pk : BitVec 2) (b : BitVec 4) (lo : BitVec 1) (s : State) :
    exec (.mCombMin pk b lo) s = execMCombMin pk b lo s := rfl
theorem exec_mCombMax (pk : BitVec 2) (b : BitVec 4) (lo : BitVec 1) (s : State) :
    exec (.mCombMax pk b lo) s = execMCombMax pk b lo s := rfl
theorem exec_mFwd (pk : BitVec 2) (k : BitVec 3) (a : BitVec 4) (c : BitVec 4) (s : State) :
    exec (.mFwd pk k a c) s = execMFwd pk k a c s := rfl
theorem exec_mFwdAcc (b : BitVec 4) (k : BitVec 3) (a : BitVec 4) (c : BitVec 4) (s : State) :
    exec (.mFwdAcc b k a c) s = execMFwdAcc b k a c s := rfl
theorem exec_mDlv (a : BitVec 4) (b : BitVec 4) (s : State) :
    exec (.mDlv a b) s = execMDlv a b s := rfl
theorem exec_mDlvPk (a : BitVec 4) (pk : BitVec 2) (s : State) :
    exec (.mDlvPk a pk) s = execMDlvPk a pk s := rfl
theorem exec_mDlvG (a : BitVec 4) (pk : BitVec 2) (s : State) :
    exec (.mDlvG a pk) s = execMDlvG a pk s := rfl
theorem exec_mTkreq (a : BitVec 4) (b : BitVec 4) (s : State) :
    exec (.mTkreq a b) s = execMTkreq a b s := rfl
theorem exec_mArrive (a : BitVec 4) (status : BitVec 8) (s : State) :
    exec (.mArrive a status) s = execMArrive a status s := rfl
theorem exec_mEnd (s : State) :
    exec (.mEnd) s = execMEnd s := rfl
theorem exec_eCorePowerGate (core : Nat) (s : State) :
    exec (.eCorePowerGate core) s = execECorePowerGate core s := rfl
theorem exec_eLinkUp (port : Nat) (s : State) :
    exec (.eLinkUp port) s = execELinkUp port s := rfl
theorem exec_ePackageDeclaredFailed (m : AbsentMsg) (s : State) :
    exec (.ePackageDeclaredFailed m) s = execEPackageDeclaredFailed m s := rfl
theorem exec_eHbmChannelOrDimmFailure (pool : Nat) (base : Nat) (size : Nat) (s : State) :
    exec (.eHbmChannelOrDimmFailure pool base size) s = execEHbmChannelOrDimmFailure pool base size s := rfl
theorem exec_eSpareLaneSwitchDone (isPort : Bool) (n : Nat) (s : State) :
    exec (.eSpareLaneSwitchDone isPort n) s = execESpareLaneSwitchDone isPort n s := rfl

end Sys2Proof.Machine
end

