-- ==== Sys2Proof/Laws/State.lean ====
section
/-! SUPPORT. Small lemmas over tables and over the updates of the state: one per field and update, so that no proof unfolds a
record update. -/

namespace Sys2Proof

namespace Tbl

@[simp] theorem find_put_self {α : Type} (t : Tbl α) (k : Nat) (a : α) : (t.put k a).find k = some a := by
  induction t with
  | nil => simp [put, find]
  | cons e r ih =>
    obtain ⟨j, b⟩ := e
    simp only [put]
    split
    · simp [find]
    · split
      · simp [find]
      · have : j ≠ k := by omega
        simp [find, this, ih]

theorem find_put_ne {α : Type} (t : Tbl α) {k m : Nat} (a : α) (h : m ≠ k) : (t.put k a).find m = t.find m := by
  induction t with
  | nil => simp [put, find, Ne.symm h]
  | cons e r ih =>
    obtain ⟨j, b⟩ := e
    simp only [put]
    split
    · simp [find, Ne.symm h]
    · split
      · next hk => subst hk; simp [find, Ne.symm h]
      · simp only [find, ih]

@[simp] theorem find_del_self {α : Type} (t : Tbl α) (k : Nat) : (t.del k).find k = none := by
  induction t with
  | nil => rfl
  | cons e r ih =>
    obtain ⟨j, b⟩ := e
    simp only [del]
    split
    · exact ih
    · next h => simp [find, h, ih]

theorem find_del_ne {α : Type} (t : Tbl α) {k m : Nat} (h : m ≠ k) : (t.del k).find m = t.find m := by
  induction t with
  | nil => rfl
  | cons e r ih =>
    obtain ⟨j, b⟩ := e
    simp only [del]
    split
    · next hj => subst hj; simp [find, Ne.symm h, ih]
    · simp only [find, ih]

@[simp] theorem getOr_put_self {α : Type} (t : Tbl α) (d : α) (k : Nat) (a : α) : (t.put k a).getOr d k = a := by
  simp [getOr]

theorem getOr_put_ne {α : Type} (t : Tbl α) (d : α) {k m : Nat} (a : α) (h : m ≠ k) :
    (t.put k a).getOr d m = t.getOr d m := by simp [getOr, find_put_ne t a h]

@[simp] theorem getOr_setOr_self {α : Type} [DecidableEq α] (t : Tbl α) (d : α) (k : Nat) (a : α) :
    (t.setOr d k a).getOr d k = a := by
  unfold setOr
  split
  · next h => subst h; simp [getOr]
  · simp

theorem getOr_setOr_ne {α : Type} [DecidableEq α] (t : Tbl α) (d : α) {k m : Nat} (a : α) (h : m ≠ k) :
    (t.setOr d k a).getOr d m = t.getOr d m := by
  unfold setOr
  split
  · simp [getOr, find_del_ne t h]
  · exact getOr_put_ne t d a h

/-- Reading a table after writing one place. -/
theorem getOr_setOr {α : Type} [DecidableEq α] (t : Tbl α) (d : α) (k m : Nat) (a : α) :
    (t.setOr d k a).getOr d m = if m = k then a else t.getOr d m := by
  split
  · next h => subst h; simp
  · next h => exact getOr_setOr_ne t d a h

end Tbl

namespace Machine

open Sys2Proof

namespace State

@[simp] theorem putCC_plat (s : State) (c k : Nat) (x : CtxCore) : (s.putCC c k x).plat = s.plat := rfl
@[simp] theorem putCC_slots (s : State) (c k : Nat) (x : CtxCore) : (s.putCC c k x).slots = s.slots := rfl
@[simp] theorem putCC_spdm (s : State) (c k : Nat) (x : CtxCore) : (s.putCC c k x).spdm = s.spdm := rfl
@[simp] theorem putCC_sessions (s : State) (c k : Nat) (x : CtxCore) : (s.putCC c k x).sessions = s.sessions := rfl
@[simp] theorem putCC_nextSession (s : State) (c k : Nat) (x : CtxCore) : (s.putCC c k x).nextSession = s.nextSession := rfl
@[simp] theorem putCC_pmem (s : State) (c k : Nat) (x : CtxCore) : (s.putCC c k x).pmem = s.pmem := rfl
@[simp] theorem putCC_hmem (s : State) (c k : Nat) (x : CtxCore) : (s.putCC c k x).hmem = s.hmem := rfl
@[simp] theorem putCC_poison (s : State) (c k : Nat) (x : CtxCore) : (s.putCC c k x).poison = s.poison := rfl
@[simp] theorem putCC_pools (s : State) (c k : Nat) (x : CtxCore) : (s.putCC c k x).pools = s.pools := rfl
@[simp] theorem putCC_ctxs (s : State) (c k : Nat) (x : CtxCore) : (s.putCC c k x).ctxs = s.ctxs := rfl
@[simp] theorem putCC_cc (s : State) (c k : Nat) (x : CtxCore) : (s.putCC c k x).cc = s.cc.put (ccKey c k) x := rfl
@[simp] theorem putCC_cores (s : State) (c k : Nat) (x : CtxCore) : (s.putCC c k x).cores = s.cores := rfl
@[simp] theorem putCC_queues (s : State) (c k : Nat) (x : CtxCore) : (s.putCC c k x).queues = s.queues := rfl
@[simp] theorem putCC_nodes (s : State) (c k : Nat) (x : CtxCore) : (s.putCC c k x).nodes = s.nodes := rfl
@[simp] theorem putCC_nextNode (s : State) (c k : Nat) (x : CtxCore) : (s.putCC c k x).nextNode = s.nextNode := rfl
@[simp] theorem putCC_bufs (s : State) (c k : Nat) (x : CtxCore) : (s.putCC c k x).bufs = s.bufs := rfl
@[simp] theorem putCC_recqs (s : State) (c k : Nat) (x : CtxCore) : (s.putCC c k x).recqs = s.recqs := rfl
@[simp] theorem putCC_launches (s : State) (c k : Nat) (x : CtxCore) : (s.putCC c k x).launches = s.launches := rfl
@[simp] theorem putCC_nextLaunch (s : State) (c k : Nat) (x : CtxCore) : (s.putCC c k x).nextLaunch = s.nextLaunch := rfl
@[simp] theorem putCC_routes (s : State) (c k : Nat) (x : CtxCore) : (s.putCC c k x).routes = s.routes := rfl
@[simp] theorem putCC_ports (s : State) (c k : Nat) (x : CtxCore) : (s.putCC c k x).ports = s.ports := rfl
@[simp] theorem putCC_acl (s : State) (c k : Nat) (x : CtxCore) : (s.putCC c k x).acl = s.acl := rfl
@[simp] theorem putCC_granted (s : State) (c k : Nat) (x : CtxCore) : (s.putCC c k x).granted = s.granted := rfl
@[simp] theorem putCC_routeQ (s : State) (c k : Nat) (x : CtxCore) : (s.putCC c k x).routeQ = s.routeQ := rfl
@[simp] theorem putCC_routeDropped (s : State) (c k : Nat) (x : CtxCore) : (s.putCC c k x).routeDropped = s.routeDropped := rfl
@[simp] theorem putCC_nextRoute (s : State) (c k : Nat) (x : CtxCore) : (s.putCC c k x).nextRoute = s.nextRoute := rfl
@[simp] theorem putCC_threads (s : State) (c k : Nat) (x : CtxCore) : (s.putCC c k x).threads = s.threads := rfl
@[simp] theorem putCC_rings (s : State) (c k : Nat) (x : CtxCore) : (s.putCC c k x).rings = s.rings := rfl
@[simp] theorem putCC_shoots (s : State) (c k : Nat) (x : CtxCore) : (s.putCC c k x).shoots = s.shoots := rfl
@[simp] theorem putCC_pend (s : State) (c k : Nat) (x : CtxCore) : (s.putCC c k x).pend = s.pend := rfl
@[simp] theorem putCC_nextOp (s : State) (c k : Nat) (x : CtxCore) : (s.putCC c k x).nextOp = s.nextOp := rfl
@[simp] theorem putCC_out (s : State) (c k : Nat) (x : CtxCore) : (s.putCC c k x).out = s.out := rfl
@[simp] theorem putCC_nextToken (s : State) (c k : Nat) (x : CtxCore) : (s.putCC c k x).nextToken = s.nextToken := rfl
@[simp] theorem putCC_agenda (s : State) (c k : Nat) (x : CtxCore) : (s.putCC c k x).agenda = s.agenda := rfl
@[simp] theorem putCC_freeCtr (s : State) (c k : Nat) (x : CtxCore) : (s.putCC c k x).freeCtr = s.freeCtr := rfl
@[simp] theorem putCC_cur (s : State) (c k : Nat) (x : CtxCore) : (s.putCC c k x).cur = s.cur := rfl
@[simp] theorem putCC_history (s : State) (c k : Nat) (x : CtxCore) : (s.putCC c k x).history = s.history := rfl
@[simp] theorem putCC_writes (s : State) (c k : Nat) (x : CtxCore) : (s.putCC c k x).writes = s.writes := rfl
@[simp] theorem putCC_smem (s : State) (c k : Nat) (x : CtxCore) : (s.putCC c k x).smem = s.smem := rfl
@[simp] theorem putCC_rows (s : State) (c k : Nat) (x : CtxCore) : (s.putCC c k x).rows = s.rows := rfl
@[simp] theorem putCC_nextPermit (s : State) (c k : Nat) (x : CtxCore) : (s.putCC c k x).nextPermit = s.nextPermit := rfl
@[simp] theorem putCC_sent (s : State) (c k : Nat) (x : CtxCore) : (s.putCC c k x).sent = s.sent := rfl
@[simp] theorem putCC_inOrder (s : State) (c k : Nat) (x : CtxCore) : (s.putCC c k x).inOrder = s.inOrder := rfl

@[simp] theorem putCore_plat (s : State) (c : Nat) (x : Core) : (s.putCore c x).plat = s.plat := rfl
@[simp] theorem putCore_slots (s : State) (c : Nat) (x : Core) : (s.putCore c x).slots = s.slots := rfl
@[simp] theorem putCore_spdm (s : State) (c : Nat) (x : Core) : (s.putCore c x).spdm = s.spdm := rfl
@[simp] theorem putCore_sessions (s : State) (c : Nat) (x : Core) : (s.putCore c x).sessions = s.sessions := rfl
@[simp] theorem putCore_nextSession (s : State) (c : Nat) (x : Core) : (s.putCore c x).nextSession = s.nextSession := rfl
@[simp] theorem putCore_pmem (s : State) (c : Nat) (x : Core) : (s.putCore c x).pmem = s.pmem := rfl
@[simp] theorem putCore_hmem (s : State) (c : Nat) (x : Core) : (s.putCore c x).hmem = s.hmem := rfl
@[simp] theorem putCore_poison (s : State) (c : Nat) (x : Core) : (s.putCore c x).poison = s.poison := rfl
@[simp] theorem putCore_pools (s : State) (c : Nat) (x : Core) : (s.putCore c x).pools = s.pools := rfl
@[simp] theorem putCore_ctxs (s : State) (c : Nat) (x : Core) : (s.putCore c x).ctxs = s.ctxs := rfl
@[simp] theorem putCore_cc (s : State) (c : Nat) (x : Core) : (s.putCore c x).cc = s.cc := rfl
@[simp] theorem putCore_cores (s : State) (c : Nat) (x : Core) : (s.putCore c x).cores = s.cores.put c x := rfl
@[simp] theorem putCore_queues (s : State) (c : Nat) (x : Core) : (s.putCore c x).queues = s.queues := rfl
@[simp] theorem putCore_nodes (s : State) (c : Nat) (x : Core) : (s.putCore c x).nodes = s.nodes := rfl
@[simp] theorem putCore_nextNode (s : State) (c : Nat) (x : Core) : (s.putCore c x).nextNode = s.nextNode := rfl
@[simp] theorem putCore_bufs (s : State) (c : Nat) (x : Core) : (s.putCore c x).bufs = s.bufs := rfl
@[simp] theorem putCore_recqs (s : State) (c : Nat) (x : Core) : (s.putCore c x).recqs = s.recqs := rfl
@[simp] theorem putCore_launches (s : State) (c : Nat) (x : Core) : (s.putCore c x).launches = s.launches := rfl
@[simp] theorem putCore_nextLaunch (s : State) (c : Nat) (x : Core) : (s.putCore c x).nextLaunch = s.nextLaunch := rfl
@[simp] theorem putCore_routes (s : State) (c : Nat) (x : Core) : (s.putCore c x).routes = s.routes := rfl
@[simp] theorem putCore_ports (s : State) (c : Nat) (x : Core) : (s.putCore c x).ports = s.ports := rfl
@[simp] theorem putCore_acl (s : State) (c : Nat) (x : Core) : (s.putCore c x).acl = s.acl := rfl
@[simp] theorem putCore_granted (s : State) (c : Nat) (x : Core) : (s.putCore c x).granted = s.granted := rfl
@[simp] theorem putCore_routeQ (s : State) (c : Nat) (x : Core) : (s.putCore c x).routeQ = s.routeQ := rfl
@[simp] theorem putCore_routeDropped (s : State) (c : Nat) (x : Core) : (s.putCore c x).routeDropped = s.routeDropped := rfl
@[simp] theorem putCore_nextRoute (s : State) (c : Nat) (x : Core) : (s.putCore c x).nextRoute = s.nextRoute := rfl
@[simp] theorem putCore_threads (s : State) (c : Nat) (x : Core) : (s.putCore c x).threads = s.threads := rfl
@[simp] theorem putCore_rings (s : State) (c : Nat) (x : Core) : (s.putCore c x).rings = s.rings := rfl
@[simp] theorem putCore_shoots (s : State) (c : Nat) (x : Core) : (s.putCore c x).shoots = s.shoots := rfl
@[simp] theorem putCore_pend (s : State) (c : Nat) (x : Core) : (s.putCore c x).pend = s.pend := rfl
@[simp] theorem putCore_nextOp (s : State) (c : Nat) (x : Core) : (s.putCore c x).nextOp = s.nextOp := rfl
@[simp] theorem putCore_out (s : State) (c : Nat) (x : Core) : (s.putCore c x).out = s.out := rfl
@[simp] theorem putCore_nextToken (s : State) (c : Nat) (x : Core) : (s.putCore c x).nextToken = s.nextToken := rfl
@[simp] theorem putCore_agenda (s : State) (c : Nat) (x : Core) : (s.putCore c x).agenda = s.agenda := rfl
@[simp] theorem putCore_freeCtr (s : State) (c : Nat) (x : Core) : (s.putCore c x).freeCtr = s.freeCtr := rfl
@[simp] theorem putCore_cur (s : State) (c : Nat) (x : Core) : (s.putCore c x).cur = s.cur := rfl
@[simp] theorem putCore_history (s : State) (c : Nat) (x : Core) : (s.putCore c x).history = s.history := rfl
@[simp] theorem putCore_writes (s : State) (c : Nat) (x : Core) : (s.putCore c x).writes = s.writes := rfl
@[simp] theorem putCore_smem (s : State) (c : Nat) (x : Core) : (s.putCore c x).smem = s.smem := rfl
@[simp] theorem putCore_rows (s : State) (c : Nat) (x : Core) : (s.putCore c x).rows = s.rows := rfl
@[simp] theorem putCore_nextPermit (s : State) (c : Nat) (x : Core) : (s.putCore c x).nextPermit = s.nextPermit := rfl
@[simp] theorem putCore_sent (s : State) (c : Nat) (x : Core) : (s.putCore c x).sent = s.sent := rfl
@[simp] theorem putCore_inOrder (s : State) (c : Nat) (x : Core) : (s.putCore c x).inOrder = s.inOrder := rfl

@[simp] theorem putSnd_plat (s : State) (c k j : Nat) (x : Snd) : (s.putSnd c k j x).plat = s.plat := rfl
@[simp] theorem putSnd_slots (s : State) (c k j : Nat) (x : Snd) : (s.putSnd c k j x).slots = s.slots := rfl
@[simp] theorem putSnd_spdm (s : State) (c k j : Nat) (x : Snd) : (s.putSnd c k j x).spdm = s.spdm := rfl
@[simp] theorem putSnd_sessions (s : State) (c k j : Nat) (x : Snd) : (s.putSnd c k j x).sessions = s.sessions := rfl
@[simp] theorem putSnd_nextSession (s : State) (c k j : Nat) (x : Snd) : (s.putSnd c k j x).nextSession = s.nextSession := rfl
@[simp] theorem putSnd_pmem (s : State) (c k j : Nat) (x : Snd) : (s.putSnd c k j x).pmem = s.pmem := rfl
@[simp] theorem putSnd_hmem (s : State) (c k j : Nat) (x : Snd) : (s.putSnd c k j x).hmem = s.hmem := rfl
@[simp] theorem putSnd_poison (s : State) (c k j : Nat) (x : Snd) : (s.putSnd c k j x).poison = s.poison := rfl
@[simp] theorem putSnd_pools (s : State) (c k j : Nat) (x : Snd) : (s.putSnd c k j x).pools = s.pools := rfl
@[simp] theorem putSnd_ctxs (s : State) (c k j : Nat) (x : Snd) : (s.putSnd c k j x).ctxs = s.ctxs := rfl
@[simp] theorem putSnd_cores (s : State) (c k j : Nat) (x : Snd) : (s.putSnd c k j x).cores = s.cores := rfl
@[simp] theorem putSnd_queues (s : State) (c k j : Nat) (x : Snd) : (s.putSnd c k j x).queues = s.queues := rfl
@[simp] theorem putSnd_nodes (s : State) (c k j : Nat) (x : Snd) : (s.putSnd c k j x).nodes = s.nodes := rfl
@[simp] theorem putSnd_nextNode (s : State) (c k j : Nat) (x : Snd) : (s.putSnd c k j x).nextNode = s.nextNode := rfl
@[simp] theorem putSnd_bufs (s : State) (c k j : Nat) (x : Snd) : (s.putSnd c k j x).bufs = s.bufs := rfl
@[simp] theorem putSnd_recqs (s : State) (c k j : Nat) (x : Snd) : (s.putSnd c k j x).recqs = s.recqs := rfl
@[simp] theorem putSnd_launches (s : State) (c k j : Nat) (x : Snd) : (s.putSnd c k j x).launches = s.launches := rfl
@[simp] theorem putSnd_nextLaunch (s : State) (c k j : Nat) (x : Snd) : (s.putSnd c k j x).nextLaunch = s.nextLaunch := rfl
@[simp] theorem putSnd_routes (s : State) (c k j : Nat) (x : Snd) : (s.putSnd c k j x).routes = s.routes := rfl
@[simp] theorem putSnd_ports (s : State) (c k j : Nat) (x : Snd) : (s.putSnd c k j x).ports = s.ports := rfl
@[simp] theorem putSnd_acl (s : State) (c k j : Nat) (x : Snd) : (s.putSnd c k j x).acl = s.acl := rfl
@[simp] theorem putSnd_granted (s : State) (c k j : Nat) (x : Snd) : (s.putSnd c k j x).granted = s.granted := rfl
@[simp] theorem putSnd_routeQ (s : State) (c k j : Nat) (x : Snd) : (s.putSnd c k j x).routeQ = s.routeQ := rfl
@[simp] theorem putSnd_routeDropped (s : State) (c k j : Nat) (x : Snd) : (s.putSnd c k j x).routeDropped = s.routeDropped := rfl
@[simp] theorem putSnd_nextRoute (s : State) (c k j : Nat) (x : Snd) : (s.putSnd c k j x).nextRoute = s.nextRoute := rfl
@[simp] theorem putSnd_threads (s : State) (c k j : Nat) (x : Snd) : (s.putSnd c k j x).threads = s.threads := rfl
@[simp] theorem putSnd_rings (s : State) (c k j : Nat) (x : Snd) : (s.putSnd c k j x).rings = s.rings := rfl
@[simp] theorem putSnd_shoots (s : State) (c k j : Nat) (x : Snd) : (s.putSnd c k j x).shoots = s.shoots := rfl
@[simp] theorem putSnd_pend (s : State) (c k j : Nat) (x : Snd) : (s.putSnd c k j x).pend = s.pend := rfl
@[simp] theorem putSnd_nextOp (s : State) (c k j : Nat) (x : Snd) : (s.putSnd c k j x).nextOp = s.nextOp := rfl
@[simp] theorem putSnd_out (s : State) (c k j : Nat) (x : Snd) : (s.putSnd c k j x).out = s.out := rfl
@[simp] theorem putSnd_nextToken (s : State) (c k j : Nat) (x : Snd) : (s.putSnd c k j x).nextToken = s.nextToken := rfl
@[simp] theorem putSnd_agenda (s : State) (c k j : Nat) (x : Snd) : (s.putSnd c k j x).agenda = s.agenda := rfl
@[simp] theorem putSnd_freeCtr (s : State) (c k j : Nat) (x : Snd) : (s.putSnd c k j x).freeCtr = s.freeCtr := rfl
@[simp] theorem putSnd_cur (s : State) (c k j : Nat) (x : Snd) : (s.putSnd c k j x).cur = s.cur := rfl
@[simp] theorem putSnd_history (s : State) (c k j : Nat) (x : Snd) : (s.putSnd c k j x).history = s.history := rfl
@[simp] theorem putSnd_writes (s : State) (c k j : Nat) (x : Snd) : (s.putSnd c k j x).writes = s.writes := rfl
@[simp] theorem putSnd_smem (s : State) (c k j : Nat) (x : Snd) : (s.putSnd c k j x).smem = s.smem := rfl
@[simp] theorem putSnd_rows (s : State) (c k j : Nat) (x : Snd) : (s.putSnd c k j x).rows = s.rows := rfl
@[simp] theorem putSnd_nextPermit (s : State) (c k j : Nat) (x : Snd) : (s.putSnd c k j x).nextPermit = s.nextPermit := rfl
@[simp] theorem putSnd_sent (s : State) (c k j : Nat) (x : Snd) : (s.putSnd c k j x).sent = s.sent := rfl
@[simp] theorem putSnd_inOrder (s : State) (c k j : Nat) (x : Snd) : (s.putSnd c k j x).inOrder = s.inOrder := rfl

@[simp] theorem putCtx_plat (s : State) (c : Nat) (x : Ctx) : (s.putCtx c x).plat = s.plat := rfl
@[simp] theorem putCtx_slots (s : State) (c : Nat) (x : Ctx) : (s.putCtx c x).slots = s.slots := rfl
@[simp] theorem putCtx_spdm (s : State) (c : Nat) (x : Ctx) : (s.putCtx c x).spdm = s.spdm := rfl
@[simp] theorem putCtx_sessions (s : State) (c : Nat) (x : Ctx) : (s.putCtx c x).sessions = s.sessions := rfl
@[simp] theorem putCtx_nextSession (s : State) (c : Nat) (x : Ctx) : (s.putCtx c x).nextSession = s.nextSession := rfl
@[simp] theorem putCtx_pmem (s : State) (c : Nat) (x : Ctx) : (s.putCtx c x).pmem = s.pmem := rfl
@[simp] theorem putCtx_hmem (s : State) (c : Nat) (x : Ctx) : (s.putCtx c x).hmem = s.hmem := rfl
@[simp] theorem putCtx_poison (s : State) (c : Nat) (x : Ctx) : (s.putCtx c x).poison = s.poison := rfl
@[simp] theorem putCtx_pools (s : State) (c : Nat) (x : Ctx) : (s.putCtx c x).pools = s.pools := rfl
@[simp] theorem putCtx_ctxs (s : State) (c : Nat) (x : Ctx) : (s.putCtx c x).ctxs = s.ctxs.put c x := rfl
@[simp] theorem putCtx_cc (s : State) (c : Nat) (x : Ctx) : (s.putCtx c x).cc = s.cc := rfl
@[simp] theorem putCtx_cores (s : State) (c : Nat) (x : Ctx) : (s.putCtx c x).cores = s.cores := rfl
@[simp] theorem putCtx_queues (s : State) (c : Nat) (x : Ctx) : (s.putCtx c x).queues = s.queues := rfl
@[simp] theorem putCtx_nodes (s : State) (c : Nat) (x : Ctx) : (s.putCtx c x).nodes = s.nodes := rfl
@[simp] theorem putCtx_nextNode (s : State) (c : Nat) (x : Ctx) : (s.putCtx c x).nextNode = s.nextNode := rfl
@[simp] theorem putCtx_bufs (s : State) (c : Nat) (x : Ctx) : (s.putCtx c x).bufs = s.bufs := rfl
@[simp] theorem putCtx_recqs (s : State) (c : Nat) (x : Ctx) : (s.putCtx c x).recqs = s.recqs := rfl
@[simp] theorem putCtx_launches (s : State) (c : Nat) (x : Ctx) : (s.putCtx c x).launches = s.launches := rfl
@[simp] theorem putCtx_nextLaunch (s : State) (c : Nat) (x : Ctx) : (s.putCtx c x).nextLaunch = s.nextLaunch := rfl
@[simp] theorem putCtx_routes (s : State) (c : Nat) (x : Ctx) : (s.putCtx c x).routes = s.routes := rfl
@[simp] theorem putCtx_ports (s : State) (c : Nat) (x : Ctx) : (s.putCtx c x).ports = s.ports := rfl
@[simp] theorem putCtx_acl (s : State) (c : Nat) (x : Ctx) : (s.putCtx c x).acl = s.acl := rfl
@[simp] theorem putCtx_granted (s : State) (c : Nat) (x : Ctx) : (s.putCtx c x).granted = s.granted := rfl
@[simp] theorem putCtx_routeQ (s : State) (c : Nat) (x : Ctx) : (s.putCtx c x).routeQ = s.routeQ := rfl
@[simp] theorem putCtx_routeDropped (s : State) (c : Nat) (x : Ctx) : (s.putCtx c x).routeDropped = s.routeDropped := rfl
@[simp] theorem putCtx_nextRoute (s : State) (c : Nat) (x : Ctx) : (s.putCtx c x).nextRoute = s.nextRoute := rfl
@[simp] theorem putCtx_threads (s : State) (c : Nat) (x : Ctx) : (s.putCtx c x).threads = s.threads := rfl
@[simp] theorem putCtx_rings (s : State) (c : Nat) (x : Ctx) : (s.putCtx c x).rings = s.rings := rfl
@[simp] theorem putCtx_shoots (s : State) (c : Nat) (x : Ctx) : (s.putCtx c x).shoots = s.shoots := rfl
@[simp] theorem putCtx_pend (s : State) (c : Nat) (x : Ctx) : (s.putCtx c x).pend = s.pend := rfl
@[simp] theorem putCtx_nextOp (s : State) (c : Nat) (x : Ctx) : (s.putCtx c x).nextOp = s.nextOp := rfl
@[simp] theorem putCtx_out (s : State) (c : Nat) (x : Ctx) : (s.putCtx c x).out = s.out := rfl
@[simp] theorem putCtx_nextToken (s : State) (c : Nat) (x : Ctx) : (s.putCtx c x).nextToken = s.nextToken := rfl
@[simp] theorem putCtx_agenda (s : State) (c : Nat) (x : Ctx) : (s.putCtx c x).agenda = s.agenda := rfl
@[simp] theorem putCtx_freeCtr (s : State) (c : Nat) (x : Ctx) : (s.putCtx c x).freeCtr = s.freeCtr := rfl
@[simp] theorem putCtx_cur (s : State) (c : Nat) (x : Ctx) : (s.putCtx c x).cur = s.cur := rfl
@[simp] theorem putCtx_history (s : State) (c : Nat) (x : Ctx) : (s.putCtx c x).history = s.history := rfl
@[simp] theorem putCtx_writes (s : State) (c : Nat) (x : Ctx) : (s.putCtx c x).writes = s.writes := rfl
@[simp] theorem putCtx_smem (s : State) (c : Nat) (x : Ctx) : (s.putCtx c x).smem = s.smem := rfl
@[simp] theorem putCtx_rows (s : State) (c : Nat) (x : Ctx) : (s.putCtx c x).rows = s.rows := rfl
@[simp] theorem putCtx_nextPermit (s : State) (c : Nat) (x : Ctx) : (s.putCtx c x).nextPermit = s.nextPermit := rfl
@[simp] theorem putCtx_sent (s : State) (c : Nat) (x : Ctx) : (s.putCtx c x).sent = s.sent := rfl
@[simp] theorem putCtx_inOrder (s : State) (c : Nat) (x : Ctx) : (s.putCtx c x).inOrder = s.inOrder := rfl

@[simp] theorem modCtx_plat (s : State) (c : Nat) (f : Ctx → Ctx) : (s.modCtx c f).plat = s.plat := rfl
@[simp] theorem modCtx_slots (s : State) (c : Nat) (f : Ctx → Ctx) : (s.modCtx c f).slots = s.slots := rfl
@[simp] theorem modCtx_spdm (s : State) (c : Nat) (f : Ctx → Ctx) : (s.modCtx c f).spdm = s.spdm := rfl
@[simp] theorem modCtx_sessions (s : State) (c : Nat) (f : Ctx → Ctx) : (s.modCtx c f).sessions = s.sessions := rfl
@[simp] theorem modCtx_nextSession (s : State) (c : Nat) (f : Ctx → Ctx) : (s.modCtx c f).nextSession = s.nextSession := rfl
@[simp] theorem modCtx_pmem (s : State) (c : Nat) (f : Ctx → Ctx) : (s.modCtx c f).pmem = s.pmem := rfl
@[simp] theorem modCtx_hmem (s : State) (c : Nat) (f : Ctx → Ctx) : (s.modCtx c f).hmem = s.hmem := rfl
@[simp] theorem modCtx_poison (s : State) (c : Nat) (f : Ctx → Ctx) : (s.modCtx c f).poison = s.poison := rfl
@[simp] theorem modCtx_pools (s : State) (c : Nat) (f : Ctx → Ctx) : (s.modCtx c f).pools = s.pools := rfl
@[simp] theorem modCtx_ctxs (s : State) (c : Nat) (f : Ctx → Ctx) : (s.modCtx c f).ctxs = s.ctxs.modify c f := rfl
@[simp] theorem modCtx_cc (s : State) (c : Nat) (f : Ctx → Ctx) : (s.modCtx c f).cc = s.cc := rfl
@[simp] theorem modCtx_cores (s : State) (c : Nat) (f : Ctx → Ctx) : (s.modCtx c f).cores = s.cores := rfl
@[simp] theorem modCtx_queues (s : State) (c : Nat) (f : Ctx → Ctx) : (s.modCtx c f).queues = s.queues := rfl
@[simp] theorem modCtx_nodes (s : State) (c : Nat) (f : Ctx → Ctx) : (s.modCtx c f).nodes = s.nodes := rfl
@[simp] theorem modCtx_nextNode (s : State) (c : Nat) (f : Ctx → Ctx) : (s.modCtx c f).nextNode = s.nextNode := rfl
@[simp] theorem modCtx_bufs (s : State) (c : Nat) (f : Ctx → Ctx) : (s.modCtx c f).bufs = s.bufs := rfl
@[simp] theorem modCtx_recqs (s : State) (c : Nat) (f : Ctx → Ctx) : (s.modCtx c f).recqs = s.recqs := rfl
@[simp] theorem modCtx_launches (s : State) (c : Nat) (f : Ctx → Ctx) : (s.modCtx c f).launches = s.launches := rfl
@[simp] theorem modCtx_nextLaunch (s : State) (c : Nat) (f : Ctx → Ctx) : (s.modCtx c f).nextLaunch = s.nextLaunch := rfl
@[simp] theorem modCtx_routes (s : State) (c : Nat) (f : Ctx → Ctx) : (s.modCtx c f).routes = s.routes := rfl
@[simp] theorem modCtx_ports (s : State) (c : Nat) (f : Ctx → Ctx) : (s.modCtx c f).ports = s.ports := rfl
@[simp] theorem modCtx_acl (s : State) (c : Nat) (f : Ctx → Ctx) : (s.modCtx c f).acl = s.acl := rfl
@[simp] theorem modCtx_granted (s : State) (c : Nat) (f : Ctx → Ctx) : (s.modCtx c f).granted = s.granted := rfl
@[simp] theorem modCtx_routeQ (s : State) (c : Nat) (f : Ctx → Ctx) : (s.modCtx c f).routeQ = s.routeQ := rfl
@[simp] theorem modCtx_routeDropped (s : State) (c : Nat) (f : Ctx → Ctx) : (s.modCtx c f).routeDropped = s.routeDropped := rfl
@[simp] theorem modCtx_nextRoute (s : State) (c : Nat) (f : Ctx → Ctx) : (s.modCtx c f).nextRoute = s.nextRoute := rfl
@[simp] theorem modCtx_threads (s : State) (c : Nat) (f : Ctx → Ctx) : (s.modCtx c f).threads = s.threads := rfl
@[simp] theorem modCtx_rings (s : State) (c : Nat) (f : Ctx → Ctx) : (s.modCtx c f).rings = s.rings := rfl
@[simp] theorem modCtx_shoots (s : State) (c : Nat) (f : Ctx → Ctx) : (s.modCtx c f).shoots = s.shoots := rfl
@[simp] theorem modCtx_pend (s : State) (c : Nat) (f : Ctx → Ctx) : (s.modCtx c f).pend = s.pend := rfl
@[simp] theorem modCtx_nextOp (s : State) (c : Nat) (f : Ctx → Ctx) : (s.modCtx c f).nextOp = s.nextOp := rfl
@[simp] theorem modCtx_out (s : State) (c : Nat) (f : Ctx → Ctx) : (s.modCtx c f).out = s.out := rfl
@[simp] theorem modCtx_nextToken (s : State) (c : Nat) (f : Ctx → Ctx) : (s.modCtx c f).nextToken = s.nextToken := rfl
@[simp] theorem modCtx_agenda (s : State) (c : Nat) (f : Ctx → Ctx) : (s.modCtx c f).agenda = s.agenda := rfl
@[simp] theorem modCtx_freeCtr (s : State) (c : Nat) (f : Ctx → Ctx) : (s.modCtx c f).freeCtr = s.freeCtr := rfl
@[simp] theorem modCtx_cur (s : State) (c : Nat) (f : Ctx → Ctx) : (s.modCtx c f).cur = s.cur := rfl
@[simp] theorem modCtx_history (s : State) (c : Nat) (f : Ctx → Ctx) : (s.modCtx c f).history = s.history := rfl
@[simp] theorem modCtx_writes (s : State) (c : Nat) (f : Ctx → Ctx) : (s.modCtx c f).writes = s.writes := rfl
@[simp] theorem modCtx_smem (s : State) (c : Nat) (f : Ctx → Ctx) : (s.modCtx c f).smem = s.smem := rfl
@[simp] theorem modCtx_rows (s : State) (c : Nat) (f : Ctx → Ctx) : (s.modCtx c f).rows = s.rows := rfl
@[simp] theorem modCtx_nextPermit (s : State) (c : Nat) (f : Ctx → Ctx) : (s.modCtx c f).nextPermit = s.nextPermit := rfl
@[simp] theorem modCtx_sent (s : State) (c : Nat) (f : Ctx → Ctx) : (s.modCtx c f).sent = s.sent := rfl
@[simp] theorem modCtx_inOrder (s : State) (c : Nat) (f : Ctx → Ctx) : (s.modCtx c f).inOrder = s.inOrder := rfl

@[simp] theorem modLaunch_plat (s : State) (l : Nat) (f : Launch → Launch) : (s.modLaunch l f).plat = s.plat := rfl
@[simp] theorem modLaunch_slots (s : State) (l : Nat) (f : Launch → Launch) : (s.modLaunch l f).slots = s.slots := rfl
@[simp] theorem modLaunch_spdm (s : State) (l : Nat) (f : Launch → Launch) : (s.modLaunch l f).spdm = s.spdm := rfl
@[simp] theorem modLaunch_sessions (s : State) (l : Nat) (f : Launch → Launch) : (s.modLaunch l f).sessions = s.sessions := rfl
@[simp] theorem modLaunch_nextSession (s : State) (l : Nat) (f : Launch → Launch) : (s.modLaunch l f).nextSession = s.nextSession := rfl
@[simp] theorem modLaunch_pmem (s : State) (l : Nat) (f : Launch → Launch) : (s.modLaunch l f).pmem = s.pmem := rfl
@[simp] theorem modLaunch_hmem (s : State) (l : Nat) (f : Launch → Launch) : (s.modLaunch l f).hmem = s.hmem := rfl
@[simp] theorem modLaunch_poison (s : State) (l : Nat) (f : Launch → Launch) : (s.modLaunch l f).poison = s.poison := rfl
@[simp] theorem modLaunch_pools (s : State) (l : Nat) (f : Launch → Launch) : (s.modLaunch l f).pools = s.pools := rfl
@[simp] theorem modLaunch_ctxs (s : State) (l : Nat) (f : Launch → Launch) : (s.modLaunch l f).ctxs = s.ctxs := rfl
@[simp] theorem modLaunch_cc (s : State) (l : Nat) (f : Launch → Launch) : (s.modLaunch l f).cc = s.cc := rfl
@[simp] theorem modLaunch_cores (s : State) (l : Nat) (f : Launch → Launch) : (s.modLaunch l f).cores = s.cores := rfl
@[simp] theorem modLaunch_queues (s : State) (l : Nat) (f : Launch → Launch) : (s.modLaunch l f).queues = s.queues := rfl
@[simp] theorem modLaunch_nodes (s : State) (l : Nat) (f : Launch → Launch) : (s.modLaunch l f).nodes = s.nodes := rfl
@[simp] theorem modLaunch_nextNode (s : State) (l : Nat) (f : Launch → Launch) : (s.modLaunch l f).nextNode = s.nextNode := rfl
@[simp] theorem modLaunch_bufs (s : State) (l : Nat) (f : Launch → Launch) : (s.modLaunch l f).bufs = s.bufs := rfl
@[simp] theorem modLaunch_recqs (s : State) (l : Nat) (f : Launch → Launch) : (s.modLaunch l f).recqs = s.recqs := rfl
@[simp] theorem modLaunch_launches (s : State) (l : Nat) (f : Launch → Launch) : (s.modLaunch l f).launches = s.launches.modify l f := rfl
@[simp] theorem modLaunch_nextLaunch (s : State) (l : Nat) (f : Launch → Launch) : (s.modLaunch l f).nextLaunch = s.nextLaunch := rfl
@[simp] theorem modLaunch_routes (s : State) (l : Nat) (f : Launch → Launch) : (s.modLaunch l f).routes = s.routes := rfl
@[simp] theorem modLaunch_ports (s : State) (l : Nat) (f : Launch → Launch) : (s.modLaunch l f).ports = s.ports := rfl
@[simp] theorem modLaunch_acl (s : State) (l : Nat) (f : Launch → Launch) : (s.modLaunch l f).acl = s.acl := rfl
@[simp] theorem modLaunch_granted (s : State) (l : Nat) (f : Launch → Launch) : (s.modLaunch l f).granted = s.granted := rfl
@[simp] theorem modLaunch_routeQ (s : State) (l : Nat) (f : Launch → Launch) : (s.modLaunch l f).routeQ = s.routeQ := rfl
@[simp] theorem modLaunch_routeDropped (s : State) (l : Nat) (f : Launch → Launch) : (s.modLaunch l f).routeDropped = s.routeDropped := rfl
@[simp] theorem modLaunch_nextRoute (s : State) (l : Nat) (f : Launch → Launch) : (s.modLaunch l f).nextRoute = s.nextRoute := rfl
@[simp] theorem modLaunch_threads (s : State) (l : Nat) (f : Launch → Launch) : (s.modLaunch l f).threads = s.threads := rfl
@[simp] theorem modLaunch_rings (s : State) (l : Nat) (f : Launch → Launch) : (s.modLaunch l f).rings = s.rings := rfl
@[simp] theorem modLaunch_shoots (s : State) (l : Nat) (f : Launch → Launch) : (s.modLaunch l f).shoots = s.shoots := rfl
@[simp] theorem modLaunch_pend (s : State) (l : Nat) (f : Launch → Launch) : (s.modLaunch l f).pend = s.pend := rfl
@[simp] theorem modLaunch_nextOp (s : State) (l : Nat) (f : Launch → Launch) : (s.modLaunch l f).nextOp = s.nextOp := rfl
@[simp] theorem modLaunch_out (s : State) (l : Nat) (f : Launch → Launch) : (s.modLaunch l f).out = s.out := rfl
@[simp] theorem modLaunch_nextToken (s : State) (l : Nat) (f : Launch → Launch) : (s.modLaunch l f).nextToken = s.nextToken := rfl
@[simp] theorem modLaunch_agenda (s : State) (l : Nat) (f : Launch → Launch) : (s.modLaunch l f).agenda = s.agenda := rfl
@[simp] theorem modLaunch_freeCtr (s : State) (l : Nat) (f : Launch → Launch) : (s.modLaunch l f).freeCtr = s.freeCtr := rfl
@[simp] theorem modLaunch_cur (s : State) (l : Nat) (f : Launch → Launch) : (s.modLaunch l f).cur = s.cur := rfl
@[simp] theorem modLaunch_history (s : State) (l : Nat) (f : Launch → Launch) : (s.modLaunch l f).history = s.history := rfl
@[simp] theorem modLaunch_writes (s : State) (l : Nat) (f : Launch → Launch) : (s.modLaunch l f).writes = s.writes := rfl
@[simp] theorem modLaunch_smem (s : State) (l : Nat) (f : Launch → Launch) : (s.modLaunch l f).smem = s.smem := rfl
@[simp] theorem modLaunch_rows (s : State) (l : Nat) (f : Launch → Launch) : (s.modLaunch l f).rows = s.rows := rfl
@[simp] theorem modLaunch_nextPermit (s : State) (l : Nat) (f : Launch → Launch) : (s.modLaunch l f).nextPermit = s.nextPermit := rfl
@[simp] theorem modLaunch_sent (s : State) (l : Nat) (f : Launch → Launch) : (s.modLaunch l f).sent = s.sent := rfl
@[simp] theorem modLaunch_inOrder (s : State) (l : Nat) (f : Launch → Launch) : (s.modLaunch l f).inOrder = s.inOrder := rfl

@[simp] theorem putPort_plat (s : State) (p : Nat) (x : Port) : (s.putPort p x).plat = s.plat := rfl
@[simp] theorem putPort_slots (s : State) (p : Nat) (x : Port) : (s.putPort p x).slots = s.slots := rfl
@[simp] theorem putPort_spdm (s : State) (p : Nat) (x : Port) : (s.putPort p x).spdm = s.spdm := rfl
@[simp] theorem putPort_sessions (s : State) (p : Nat) (x : Port) : (s.putPort p x).sessions = s.sessions := rfl
@[simp] theorem putPort_nextSession (s : State) (p : Nat) (x : Port) : (s.putPort p x).nextSession = s.nextSession := rfl
@[simp] theorem putPort_pmem (s : State) (p : Nat) (x : Port) : (s.putPort p x).pmem = s.pmem := rfl
@[simp] theorem putPort_hmem (s : State) (p : Nat) (x : Port) : (s.putPort p x).hmem = s.hmem := rfl
@[simp] theorem putPort_poison (s : State) (p : Nat) (x : Port) : (s.putPort p x).poison = s.poison := rfl
@[simp] theorem putPort_pools (s : State) (p : Nat) (x : Port) : (s.putPort p x).pools = s.pools := rfl
@[simp] theorem putPort_ctxs (s : State) (p : Nat) (x : Port) : (s.putPort p x).ctxs = s.ctxs := rfl
@[simp] theorem putPort_cc (s : State) (p : Nat) (x : Port) : (s.putPort p x).cc = s.cc := rfl
@[simp] theorem putPort_cores (s : State) (p : Nat) (x : Port) : (s.putPort p x).cores = s.cores := rfl
@[simp] theorem putPort_queues (s : State) (p : Nat) (x : Port) : (s.putPort p x).queues = s.queues := rfl
@[simp] theorem putPort_nodes (s : State) (p : Nat) (x : Port) : (s.putPort p x).nodes = s.nodes := rfl
@[simp] theorem putPort_nextNode (s : State) (p : Nat) (x : Port) : (s.putPort p x).nextNode = s.nextNode := rfl
@[simp] theorem putPort_bufs (s : State) (p : Nat) (x : Port) : (s.putPort p x).bufs = s.bufs := rfl
@[simp] theorem putPort_recqs (s : State) (p : Nat) (x : Port) : (s.putPort p x).recqs = s.recqs := rfl
@[simp] theorem putPort_launches (s : State) (p : Nat) (x : Port) : (s.putPort p x).launches = s.launches := rfl
@[simp] theorem putPort_nextLaunch (s : State) (p : Nat) (x : Port) : (s.putPort p x).nextLaunch = s.nextLaunch := rfl
@[simp] theorem putPort_routes (s : State) (p : Nat) (x : Port) : (s.putPort p x).routes = s.routes := rfl
@[simp] theorem putPort_ports (s : State) (p : Nat) (x : Port) : (s.putPort p x).ports = s.ports.put p x := rfl
@[simp] theorem putPort_acl (s : State) (p : Nat) (x : Port) : (s.putPort p x).acl = s.acl := rfl
@[simp] theorem putPort_granted (s : State) (p : Nat) (x : Port) : (s.putPort p x).granted = s.granted := rfl
@[simp] theorem putPort_routeQ (s : State) (p : Nat) (x : Port) : (s.putPort p x).routeQ = s.routeQ := rfl
@[simp] theorem putPort_routeDropped (s : State) (p : Nat) (x : Port) : (s.putPort p x).routeDropped = s.routeDropped := rfl
@[simp] theorem putPort_nextRoute (s : State) (p : Nat) (x : Port) : (s.putPort p x).nextRoute = s.nextRoute := rfl
@[simp] theorem putPort_threads (s : State) (p : Nat) (x : Port) : (s.putPort p x).threads = s.threads := rfl
@[simp] theorem putPort_rings (s : State) (p : Nat) (x : Port) : (s.putPort p x).rings = s.rings := rfl
@[simp] theorem putPort_shoots (s : State) (p : Nat) (x : Port) : (s.putPort p x).shoots = s.shoots := rfl
@[simp] theorem putPort_pend (s : State) (p : Nat) (x : Port) : (s.putPort p x).pend = s.pend := rfl
@[simp] theorem putPort_nextOp (s : State) (p : Nat) (x : Port) : (s.putPort p x).nextOp = s.nextOp := rfl
@[simp] theorem putPort_out (s : State) (p : Nat) (x : Port) : (s.putPort p x).out = s.out := rfl
@[simp] theorem putPort_nextToken (s : State) (p : Nat) (x : Port) : (s.putPort p x).nextToken = s.nextToken := rfl
@[simp] theorem putPort_agenda (s : State) (p : Nat) (x : Port) : (s.putPort p x).agenda = s.agenda := rfl
@[simp] theorem putPort_freeCtr (s : State) (p : Nat) (x : Port) : (s.putPort p x).freeCtr = s.freeCtr := rfl
@[simp] theorem putPort_cur (s : State) (p : Nat) (x : Port) : (s.putPort p x).cur = s.cur := rfl
@[simp] theorem putPort_history (s : State) (p : Nat) (x : Port) : (s.putPort p x).history = s.history := rfl
@[simp] theorem putPort_writes (s : State) (p : Nat) (x : Port) : (s.putPort p x).writes = s.writes := rfl
@[simp] theorem putPort_smem (s : State) (p : Nat) (x : Port) : (s.putPort p x).smem = s.smem := rfl
@[simp] theorem putPort_rows (s : State) (p : Nat) (x : Port) : (s.putPort p x).rows = s.rows := rfl
@[simp] theorem putPort_nextPermit (s : State) (p : Nat) (x : Port) : (s.putPort p x).nextPermit = s.nextPermit := rfl
@[simp] theorem putPort_sent (s : State) (p : Nat) (x : Port) : (s.putPort p x).sent = s.sent := rfl
@[simp] theorem putPort_inOrder (s : State) (p : Nat) (x : Port) : (s.putPort p x).inOrder = s.inOrder := rfl

@[simp] theorem putThread_plat (s : State) (p c e : Nat) (t : Thread) : (s.putThread p c e t).plat = s.plat := rfl
@[simp] theorem putThread_slots (s : State) (p c e : Nat) (t : Thread) : (s.putThread p c e t).slots = s.slots := rfl
@[simp] theorem putThread_spdm (s : State) (p c e : Nat) (t : Thread) : (s.putThread p c e t).spdm = s.spdm := rfl
@[simp] theorem putThread_sessions (s : State) (p c e : Nat) (t : Thread) : (s.putThread p c e t).sessions = s.sessions := rfl
@[simp] theorem putThread_nextSession (s : State) (p c e : Nat) (t : Thread) : (s.putThread p c e t).nextSession = s.nextSession := rfl
@[simp] theorem putThread_pmem (s : State) (p c e : Nat) (t : Thread) : (s.putThread p c e t).pmem = s.pmem := rfl
@[simp] theorem putThread_hmem (s : State) (p c e : Nat) (t : Thread) : (s.putThread p c e t).hmem = s.hmem := rfl
@[simp] theorem putThread_poison (s : State) (p c e : Nat) (t : Thread) : (s.putThread p c e t).poison = s.poison := rfl
@[simp] theorem putThread_pools (s : State) (p c e : Nat) (t : Thread) : (s.putThread p c e t).pools = s.pools := rfl
@[simp] theorem putThread_ctxs (s : State) (p c e : Nat) (t : Thread) : (s.putThread p c e t).ctxs = s.ctxs := rfl
@[simp] theorem putThread_cc (s : State) (p c e : Nat) (t : Thread) : (s.putThread p c e t).cc = s.cc := rfl
@[simp] theorem putThread_cores (s : State) (p c e : Nat) (t : Thread) : (s.putThread p c e t).cores = s.cores := rfl
@[simp] theorem putThread_queues (s : State) (p c e : Nat) (t : Thread) : (s.putThread p c e t).queues = s.queues := rfl
@[simp] theorem putThread_nodes (s : State) (p c e : Nat) (t : Thread) : (s.putThread p c e t).nodes = s.nodes := rfl
@[simp] theorem putThread_nextNode (s : State) (p c e : Nat) (t : Thread) : (s.putThread p c e t).nextNode = s.nextNode := rfl
@[simp] theorem putThread_bufs (s : State) (p c e : Nat) (t : Thread) : (s.putThread p c e t).bufs = s.bufs := rfl
@[simp] theorem putThread_recqs (s : State) (p c e : Nat) (t : Thread) : (s.putThread p c e t).recqs = s.recqs := rfl
@[simp] theorem putThread_launches (s : State) (p c e : Nat) (t : Thread) : (s.putThread p c e t).launches = s.launches := rfl
@[simp] theorem putThread_nextLaunch (s : State) (p c e : Nat) (t : Thread) : (s.putThread p c e t).nextLaunch = s.nextLaunch := rfl
@[simp] theorem putThread_routes (s : State) (p c e : Nat) (t : Thread) : (s.putThread p c e t).routes = s.routes := rfl
@[simp] theorem putThread_ports (s : State) (p c e : Nat) (t : Thread) : (s.putThread p c e t).ports = s.ports := rfl
@[simp] theorem putThread_acl (s : State) (p c e : Nat) (t : Thread) : (s.putThread p c e t).acl = s.acl := rfl
@[simp] theorem putThread_granted (s : State) (p c e : Nat) (t : Thread) : (s.putThread p c e t).granted = s.granted := rfl
@[simp] theorem putThread_routeQ (s : State) (p c e : Nat) (t : Thread) : (s.putThread p c e t).routeQ = s.routeQ := rfl
@[simp] theorem putThread_routeDropped (s : State) (p c e : Nat) (t : Thread) : (s.putThread p c e t).routeDropped = s.routeDropped := rfl
@[simp] theorem putThread_nextRoute (s : State) (p c e : Nat) (t : Thread) : (s.putThread p c e t).nextRoute = s.nextRoute := rfl
@[simp] theorem putThread_threads (s : State) (p c e : Nat) (t : Thread) : (s.putThread p c e t).threads = s.threads.put (State.threadKey p c e) t := rfl
@[simp] theorem putThread_rings (s : State) (p c e : Nat) (t : Thread) : (s.putThread p c e t).rings = s.rings := rfl
@[simp] theorem putThread_shoots (s : State) (p c e : Nat) (t : Thread) : (s.putThread p c e t).shoots = s.shoots := rfl
@[simp] theorem putThread_pend (s : State) (p c e : Nat) (t : Thread) : (s.putThread p c e t).pend = s.pend := rfl
@[simp] theorem putThread_nextOp (s : State) (p c e : Nat) (t : Thread) : (s.putThread p c e t).nextOp = s.nextOp := rfl
@[simp] theorem putThread_out (s : State) (p c e : Nat) (t : Thread) : (s.putThread p c e t).out = s.out := rfl
@[simp] theorem putThread_nextToken (s : State) (p c e : Nat) (t : Thread) : (s.putThread p c e t).nextToken = s.nextToken := rfl
@[simp] theorem putThread_agenda (s : State) (p c e : Nat) (t : Thread) : (s.putThread p c e t).agenda = s.agenda := rfl
@[simp] theorem putThread_freeCtr (s : State) (p c e : Nat) (t : Thread) : (s.putThread p c e t).freeCtr = s.freeCtr := rfl
@[simp] theorem putThread_cur (s : State) (p c e : Nat) (t : Thread) : (s.putThread p c e t).cur = s.cur := rfl
@[simp] theorem putThread_history (s : State) (p c e : Nat) (t : Thread) : (s.putThread p c e t).history = s.history := rfl
@[simp] theorem putThread_writes (s : State) (p c e : Nat) (t : Thread) : (s.putThread p c e t).writes = s.writes := rfl
@[simp] theorem putThread_smem (s : State) (p c e : Nat) (t : Thread) : (s.putThread p c e t).smem = s.smem := rfl
@[simp] theorem putThread_rows (s : State) (p c e : Nat) (t : Thread) : (s.putThread p c e t).rows = s.rows := rfl
@[simp] theorem putThread_nextPermit (s : State) (p c e : Nat) (t : Thread) : (s.putThread p c e t).nextPermit = s.nextPermit := rfl
@[simp] theorem putThread_sent (s : State) (p c e : Nat) (t : Thread) : (s.putThread p c e t).sent = s.sent := rfl
@[simp] theorem putThread_inOrder (s : State) (p c e : Nat) (t : Thread) : (s.putThread p c e t).inOrder = s.inOrder := rfl

@[simp] theorem modThread_plat (s : State) (p c e : Nat) (f : Thread → Thread) : (s.modThread p c e f).plat = s.plat := rfl
@[simp] theorem modThread_slots (s : State) (p c e : Nat) (f : Thread → Thread) : (s.modThread p c e f).slots = s.slots := rfl
@[simp] theorem modThread_spdm (s : State) (p c e : Nat) (f : Thread → Thread) : (s.modThread p c e f).spdm = s.spdm := rfl
@[simp] theorem modThread_sessions (s : State) (p c e : Nat) (f : Thread → Thread) : (s.modThread p c e f).sessions = s.sessions := rfl
@[simp] theorem modThread_nextSession (s : State) (p c e : Nat) (f : Thread → Thread) : (s.modThread p c e f).nextSession = s.nextSession := rfl
@[simp] theorem modThread_pmem (s : State) (p c e : Nat) (f : Thread → Thread) : (s.modThread p c e f).pmem = s.pmem := rfl
@[simp] theorem modThread_hmem (s : State) (p c e : Nat) (f : Thread → Thread) : (s.modThread p c e f).hmem = s.hmem := rfl
@[simp] theorem modThread_poison (s : State) (p c e : Nat) (f : Thread → Thread) : (s.modThread p c e f).poison = s.poison := rfl
@[simp] theorem modThread_pools (s : State) (p c e : Nat) (f : Thread → Thread) : (s.modThread p c e f).pools = s.pools := rfl
@[simp] theorem modThread_ctxs (s : State) (p c e : Nat) (f : Thread → Thread) : (s.modThread p c e f).ctxs = s.ctxs := rfl
@[simp] theorem modThread_cc (s : State) (p c e : Nat) (f : Thread → Thread) : (s.modThread p c e f).cc = s.cc := rfl
@[simp] theorem modThread_cores (s : State) (p c e : Nat) (f : Thread → Thread) : (s.modThread p c e f).cores = s.cores := rfl
@[simp] theorem modThread_queues (s : State) (p c e : Nat) (f : Thread → Thread) : (s.modThread p c e f).queues = s.queues := rfl
@[simp] theorem modThread_nodes (s : State) (p c e : Nat) (f : Thread → Thread) : (s.modThread p c e f).nodes = s.nodes := rfl
@[simp] theorem modThread_nextNode (s : State) (p c e : Nat) (f : Thread → Thread) : (s.modThread p c e f).nextNode = s.nextNode := rfl
@[simp] theorem modThread_bufs (s : State) (p c e : Nat) (f : Thread → Thread) : (s.modThread p c e f).bufs = s.bufs := rfl
@[simp] theorem modThread_recqs (s : State) (p c e : Nat) (f : Thread → Thread) : (s.modThread p c e f).recqs = s.recqs := rfl
@[simp] theorem modThread_launches (s : State) (p c e : Nat) (f : Thread → Thread) : (s.modThread p c e f).launches = s.launches := rfl
@[simp] theorem modThread_nextLaunch (s : State) (p c e : Nat) (f : Thread → Thread) : (s.modThread p c e f).nextLaunch = s.nextLaunch := rfl
@[simp] theorem modThread_routes (s : State) (p c e : Nat) (f : Thread → Thread) : (s.modThread p c e f).routes = s.routes := rfl
@[simp] theorem modThread_ports (s : State) (p c e : Nat) (f : Thread → Thread) : (s.modThread p c e f).ports = s.ports := rfl
@[simp] theorem modThread_acl (s : State) (p c e : Nat) (f : Thread → Thread) : (s.modThread p c e f).acl = s.acl := rfl
@[simp] theorem modThread_granted (s : State) (p c e : Nat) (f : Thread → Thread) : (s.modThread p c e f).granted = s.granted := rfl
@[simp] theorem modThread_routeQ (s : State) (p c e : Nat) (f : Thread → Thread) : (s.modThread p c e f).routeQ = s.routeQ := rfl
@[simp] theorem modThread_routeDropped (s : State) (p c e : Nat) (f : Thread → Thread) : (s.modThread p c e f).routeDropped = s.routeDropped := rfl
@[simp] theorem modThread_nextRoute (s : State) (p c e : Nat) (f : Thread → Thread) : (s.modThread p c e f).nextRoute = s.nextRoute := rfl
@[simp] theorem modThread_threads (s : State) (p c e : Nat) (f : Thread → Thread) : (s.modThread p c e f).threads = s.threads.modify (State.threadKey p c e) f := rfl
@[simp] theorem modThread_rings (s : State) (p c e : Nat) (f : Thread → Thread) : (s.modThread p c e f).rings = s.rings := rfl
@[simp] theorem modThread_shoots (s : State) (p c e : Nat) (f : Thread → Thread) : (s.modThread p c e f).shoots = s.shoots := rfl
@[simp] theorem modThread_pend (s : State) (p c e : Nat) (f : Thread → Thread) : (s.modThread p c e f).pend = s.pend := rfl
@[simp] theorem modThread_nextOp (s : State) (p c e : Nat) (f : Thread → Thread) : (s.modThread p c e f).nextOp = s.nextOp := rfl
@[simp] theorem modThread_out (s : State) (p c e : Nat) (f : Thread → Thread) : (s.modThread p c e f).out = s.out := rfl
@[simp] theorem modThread_nextToken (s : State) (p c e : Nat) (f : Thread → Thread) : (s.modThread p c e f).nextToken = s.nextToken := rfl
@[simp] theorem modThread_agenda (s : State) (p c e : Nat) (f : Thread → Thread) : (s.modThread p c e f).agenda = s.agenda := rfl
@[simp] theorem modThread_freeCtr (s : State) (p c e : Nat) (f : Thread → Thread) : (s.modThread p c e f).freeCtr = s.freeCtr := rfl
@[simp] theorem modThread_cur (s : State) (p c e : Nat) (f : Thread → Thread) : (s.modThread p c e f).cur = s.cur := rfl
@[simp] theorem modThread_history (s : State) (p c e : Nat) (f : Thread → Thread) : (s.modThread p c e f).history = s.history := rfl
@[simp] theorem modThread_writes (s : State) (p c e : Nat) (f : Thread → Thread) : (s.modThread p c e f).writes = s.writes := rfl
@[simp] theorem modThread_smem (s : State) (p c e : Nat) (f : Thread → Thread) : (s.modThread p c e f).smem = s.smem := rfl
@[simp] theorem modThread_rows (s : State) (p c e : Nat) (f : Thread → Thread) : (s.modThread p c e f).rows = s.rows := rfl
@[simp] theorem modThread_nextPermit (s : State) (p c e : Nat) (f : Thread → Thread) : (s.modThread p c e f).nextPermit = s.nextPermit := rfl
@[simp] theorem modThread_sent (s : State) (p c e : Nat) (f : Thread → Thread) : (s.modThread p c e f).sent = s.sent := rfl
@[simp] theorem modThread_inOrder (s : State) (p c e : Nat) (f : Thread → Thread) : (s.modThread p c e f).inOrder = s.inOrder := rfl

@[simp] theorem send_plat (s : State) (m : OutMsg) : (s.send m).plat = s.plat := rfl
@[simp] theorem send_slots (s : State) (m : OutMsg) : (s.send m).slots = s.slots := rfl
@[simp] theorem send_spdm (s : State) (m : OutMsg) : (s.send m).spdm = s.spdm := rfl
@[simp] theorem send_sessions (s : State) (m : OutMsg) : (s.send m).sessions = s.sessions := rfl
@[simp] theorem send_nextSession (s : State) (m : OutMsg) : (s.send m).nextSession = s.nextSession := rfl
@[simp] theorem send_pmem (s : State) (m : OutMsg) : (s.send m).pmem = s.pmem := rfl
@[simp] theorem send_hmem (s : State) (m : OutMsg) : (s.send m).hmem = s.hmem := rfl
@[simp] theorem send_poison (s : State) (m : OutMsg) : (s.send m).poison = s.poison := rfl
@[simp] theorem send_pools (s : State) (m : OutMsg) : (s.send m).pools = s.pools := rfl
@[simp] theorem send_ctxs (s : State) (m : OutMsg) : (s.send m).ctxs = s.ctxs := rfl
@[simp] theorem send_cc (s : State) (m : OutMsg) : (s.send m).cc = s.cc := rfl
@[simp] theorem send_cores (s : State) (m : OutMsg) : (s.send m).cores = s.cores := rfl
@[simp] theorem send_queues (s : State) (m : OutMsg) : (s.send m).queues = s.queues := rfl
@[simp] theorem send_nodes (s : State) (m : OutMsg) : (s.send m).nodes = s.nodes := rfl
@[simp] theorem send_nextNode (s : State) (m : OutMsg) : (s.send m).nextNode = s.nextNode := rfl
@[simp] theorem send_bufs (s : State) (m : OutMsg) : (s.send m).bufs = s.bufs := rfl
@[simp] theorem send_recqs (s : State) (m : OutMsg) : (s.send m).recqs = s.recqs := rfl
@[simp] theorem send_launches (s : State) (m : OutMsg) : (s.send m).launches = s.launches := rfl
@[simp] theorem send_nextLaunch (s : State) (m : OutMsg) : (s.send m).nextLaunch = s.nextLaunch := rfl
@[simp] theorem send_routes (s : State) (m : OutMsg) : (s.send m).routes = s.routes := rfl
@[simp] theorem send_ports (s : State) (m : OutMsg) : (s.send m).ports = s.ports := rfl
@[simp] theorem send_acl (s : State) (m : OutMsg) : (s.send m).acl = s.acl := rfl
@[simp] theorem send_granted (s : State) (m : OutMsg) : (s.send m).granted = s.granted := rfl
@[simp] theorem send_routeQ (s : State) (m : OutMsg) : (s.send m).routeQ = s.routeQ := rfl
@[simp] theorem send_routeDropped (s : State) (m : OutMsg) : (s.send m).routeDropped = s.routeDropped := rfl
@[simp] theorem send_nextRoute (s : State) (m : OutMsg) : (s.send m).nextRoute = s.nextRoute := rfl
@[simp] theorem send_threads (s : State) (m : OutMsg) : (s.send m).threads = s.threads := rfl
@[simp] theorem send_rings (s : State) (m : OutMsg) : (s.send m).rings = s.rings := rfl
@[simp] theorem send_shoots (s : State) (m : OutMsg) : (s.send m).shoots = s.shoots := rfl
@[simp] theorem send_pend (s : State) (m : OutMsg) : (s.send m).pend = s.pend := rfl
@[simp] theorem send_nextOp (s : State) (m : OutMsg) : (s.send m).nextOp = s.nextOp := rfl
@[simp] theorem send_out (s : State) (m : OutMsg) : (s.send m).out = m :: s.out := rfl
@[simp] theorem send_nextToken (s : State) (m : OutMsg) : (s.send m).nextToken = s.nextToken := rfl
@[simp] theorem send_agenda (s : State) (m : OutMsg) : (s.send m).agenda = s.agenda := rfl
@[simp] theorem send_freeCtr (s : State) (m : OutMsg) : (s.send m).freeCtr = s.freeCtr := rfl
@[simp] theorem send_cur (s : State) (m : OutMsg) : (s.send m).cur = s.cur := rfl
@[simp] theorem send_history (s : State) (m : OutMsg) : (s.send m).history = s.history := rfl
@[simp] theorem send_writes (s : State) (m : OutMsg) : (s.send m).writes = s.writes := rfl
@[simp] theorem send_smem (s : State) (m : OutMsg) : (s.send m).smem = s.smem := rfl
@[simp] theorem send_rows (s : State) (m : OutMsg) : (s.send m).rows = s.rows := rfl
@[simp] theorem send_nextPermit (s : State) (m : OutMsg) : (s.send m).nextPermit = s.nextPermit := rfl
@[simp] theorem send_sent (s : State) (m : OutMsg) : (s.send m).sent = s.sent := rfl
@[simp] theorem send_inOrder (s : State) (m : OutMsg) : (s.send m).inOrder = s.inOrder := rfl

/-! A message goes out: `emit` changes the counters of a port and the messages sent. -/

@[simp] theorem countSealed_plat (s : State) (p : Nat) : (s.countSealed p).plat = s.plat := rfl
@[simp] theorem countSealed_slots (s : State) (p : Nat) : (s.countSealed p).slots = s.slots := rfl
@[simp] theorem countSealed_spdm (s : State) (p : Nat) : (s.countSealed p).spdm = s.spdm := rfl
@[simp] theorem countSealed_sessions (s : State) (p : Nat) : (s.countSealed p).sessions = s.sessions := rfl
@[simp] theorem countSealed_nextSession (s : State) (p : Nat) : (s.countSealed p).nextSession = s.nextSession := rfl
@[simp] theorem countSealed_pmem (s : State) (p : Nat) : (s.countSealed p).pmem = s.pmem := rfl
@[simp] theorem countSealed_hmem (s : State) (p : Nat) : (s.countSealed p).hmem = s.hmem := rfl
@[simp] theorem countSealed_smem (s : State) (p : Nat) : (s.countSealed p).smem = s.smem := rfl
@[simp] theorem countSealed_poison (s : State) (p : Nat) : (s.countSealed p).poison = s.poison := rfl
@[simp] theorem countSealed_rows (s : State) (p : Nat) : (s.countSealed p).rows = s.rows := rfl
@[simp] theorem countSealed_pools (s : State) (p : Nat) : (s.countSealed p).pools = s.pools := rfl
@[simp] theorem countSealed_ctxs (s : State) (p : Nat) : (s.countSealed p).ctxs = s.ctxs := rfl
@[simp] theorem countSealed_cc (s : State) (p : Nat) : (s.countSealed p).cc = s.cc := rfl
@[simp] theorem countSealed_cores (s : State) (p : Nat) : (s.countSealed p).cores = s.cores := rfl
@[simp] theorem countSealed_queues (s : State) (p : Nat) : (s.countSealed p).queues = s.queues := rfl
@[simp] theorem countSealed_nodes (s : State) (p : Nat) : (s.countSealed p).nodes = s.nodes := rfl
@[simp] theorem countSealed_nextNode (s : State) (p : Nat) : (s.countSealed p).nextNode = s.nextNode := rfl
@[simp] theorem countSealed_bufs (s : State) (p : Nat) : (s.countSealed p).bufs = s.bufs := rfl
@[simp] theorem countSealed_recqs (s : State) (p : Nat) : (s.countSealed p).recqs = s.recqs := rfl
@[simp] theorem countSealed_launches (s : State) (p : Nat) : (s.countSealed p).launches = s.launches := rfl
@[simp] theorem countSealed_nextLaunch (s : State) (p : Nat) : (s.countSealed p).nextLaunch = s.nextLaunch := rfl
@[simp] theorem countSealed_routes (s : State) (p : Nat) : (s.countSealed p).routes = s.routes := rfl
@[simp] theorem countSealed_acl (s : State) (p : Nat) : (s.countSealed p).acl = s.acl := rfl
@[simp] theorem countSealed_granted (s : State) (p : Nat) : (s.countSealed p).granted = s.granted := rfl
@[simp] theorem countSealed_nextPermit (s : State) (p : Nat) : (s.countSealed p).nextPermit = s.nextPermit := rfl
@[simp] theorem countSealed_sent (s : State) (p : Nat) : (s.countSealed p).sent = s.sent := rfl
@[simp] theorem countSealed_inOrder (s : State) (p : Nat) : (s.countSealed p).inOrder = s.inOrder := rfl
@[simp] theorem countSealed_routeQ (s : State) (p : Nat) : (s.countSealed p).routeQ = s.routeQ := rfl
@[simp] theorem countSealed_routeDropped (s : State) (p : Nat) : (s.countSealed p).routeDropped = s.routeDropped := rfl
@[simp] theorem countSealed_nextRoute (s : State) (p : Nat) : (s.countSealed p).nextRoute = s.nextRoute := rfl
@[simp] theorem countSealed_threads (s : State) (p : Nat) : (s.countSealed p).threads = s.threads := rfl
@[simp] theorem countSealed_rings (s : State) (p : Nat) : (s.countSealed p).rings = s.rings := rfl
@[simp] theorem countSealed_shoots (s : State) (p : Nat) : (s.countSealed p).shoots = s.shoots := rfl
@[simp] theorem countSealed_pend (s : State) (p : Nat) : (s.countSealed p).pend = s.pend := rfl
@[simp] theorem countSealed_nextOp (s : State) (p : Nat) : (s.countSealed p).nextOp = s.nextOp := rfl
@[simp] theorem countSealed_nextToken (s : State) (p : Nat) : (s.countSealed p).nextToken = s.nextToken := rfl
@[simp] theorem countSealed_history (s : State) (p : Nat) : (s.countSealed p).history = s.history := rfl
@[simp] theorem countSealed_writes (s : State) (p : Nat) : (s.countSealed p).writes = s.writes := rfl
@[simp] theorem countSealed_agenda (s : State) (p : Nat) : (s.countSealed p).agenda = s.agenda := rfl
@[simp] theorem countSealed_freeCtr (s : State) (p : Nat) : (s.countSealed p).freeCtr = s.freeCtr := rfl
@[simp] theorem countSealed_cur (s : State) (p : Nat) : (s.countSealed p).cur = s.cur := rfl

theorem emit_same (s : State) (m : OutMsg) : s.emit m = { s with ports := (s.emit m).ports, out := (s.emit m).out } := by
  unfold emit
  split
  · rfl
  · split
    · split <;> rfl
    · rfl

@[simp] theorem emit_plat (s : State) (m : OutMsg) : (s.emit m).plat = s.plat := (congrArg State.plat (s.emit_same m) :)
@[simp] theorem emit_slots (s : State) (m : OutMsg) : (s.emit m).slots = s.slots := (congrArg State.slots (s.emit_same m) :)
@[simp] theorem emit_spdm (s : State) (m : OutMsg) : (s.emit m).spdm = s.spdm := (congrArg State.spdm (s.emit_same m) :)
@[simp] theorem emit_sessions (s : State) (m : OutMsg) : (s.emit m).sessions = s.sessions := (congrArg State.sessions (s.emit_same m) :)
@[simp] theorem emit_nextSession (s : State) (m : OutMsg) : (s.emit m).nextSession = s.nextSession := (congrArg State.nextSession (s.emit_same m) :)
@[simp] theorem emit_pmem (s : State) (m : OutMsg) : (s.emit m).pmem = s.pmem := (congrArg State.pmem (s.emit_same m) :)
@[simp] theorem emit_hmem (s : State) (m : OutMsg) : (s.emit m).hmem = s.hmem := (congrArg State.hmem (s.emit_same m) :)
@[simp] theorem emit_smem (s : State) (m : OutMsg) : (s.emit m).smem = s.smem := (congrArg State.smem (s.emit_same m) :)
@[simp] theorem emit_poison (s : State) (m : OutMsg) : (s.emit m).poison = s.poison := (congrArg State.poison (s.emit_same m) :)
@[simp] theorem emit_rows (s : State) (m : OutMsg) : (s.emit m).rows = s.rows := (congrArg State.rows (s.emit_same m) :)
@[simp] theorem emit_pools (s : State) (m : OutMsg) : (s.emit m).pools = s.pools := (congrArg State.pools (s.emit_same m) :)
@[simp] theorem emit_ctxs (s : State) (m : OutMsg) : (s.emit m).ctxs = s.ctxs := (congrArg State.ctxs (s.emit_same m) :)
@[simp] theorem emit_cc (s : State) (m : OutMsg) : (s.emit m).cc = s.cc := (congrArg State.cc (s.emit_same m) :)
@[simp] theorem emit_cores (s : State) (m : OutMsg) : (s.emit m).cores = s.cores := (congrArg State.cores (s.emit_same m) :)
@[simp] theorem emit_queues (s : State) (m : OutMsg) : (s.emit m).queues = s.queues := (congrArg State.queues (s.emit_same m) :)
@[simp] theorem emit_nodes (s : State) (m : OutMsg) : (s.emit m).nodes = s.nodes := (congrArg State.nodes (s.emit_same m) :)
@[simp] theorem emit_nextNode (s : State) (m : OutMsg) : (s.emit m).nextNode = s.nextNode := (congrArg State.nextNode (s.emit_same m) :)
@[simp] theorem emit_bufs (s : State) (m : OutMsg) : (s.emit m).bufs = s.bufs := (congrArg State.bufs (s.emit_same m) :)
@[simp] theorem emit_recqs (s : State) (m : OutMsg) : (s.emit m).recqs = s.recqs := (congrArg State.recqs (s.emit_same m) :)
@[simp] theorem emit_launches (s : State) (m : OutMsg) : (s.emit m).launches = s.launches := (congrArg State.launches (s.emit_same m) :)
@[simp] theorem emit_nextLaunch (s : State) (m : OutMsg) : (s.emit m).nextLaunch = s.nextLaunch := (congrArg State.nextLaunch (s.emit_same m) :)
@[simp] theorem emit_routes (s : State) (m : OutMsg) : (s.emit m).routes = s.routes := (congrArg State.routes (s.emit_same m) :)
@[simp] theorem emit_acl (s : State) (m : OutMsg) : (s.emit m).acl = s.acl := (congrArg State.acl (s.emit_same m) :)
@[simp] theorem emit_granted (s : State) (m : OutMsg) : (s.emit m).granted = s.granted := (congrArg State.granted (s.emit_same m) :)
@[simp] theorem emit_nextPermit (s : State) (m : OutMsg) : (s.emit m).nextPermit = s.nextPermit := (congrArg State.nextPermit (s.emit_same m) :)
@[simp] theorem emit_sent (s : State) (m : OutMsg) : (s.emit m).sent = s.sent := (congrArg State.sent (s.emit_same m) :)
@[simp] theorem emit_inOrder (s : State) (m : OutMsg) : (s.emit m).inOrder = s.inOrder := (congrArg State.inOrder (s.emit_same m) :)
@[simp] theorem emit_routeQ (s : State) (m : OutMsg) : (s.emit m).routeQ = s.routeQ := (congrArg State.routeQ (s.emit_same m) :)
@[simp] theorem emit_routeDropped (s : State) (m : OutMsg) : (s.emit m).routeDropped = s.routeDropped := (congrArg State.routeDropped (s.emit_same m) :)
@[simp] theorem emit_nextRoute (s : State) (m : OutMsg) : (s.emit m).nextRoute = s.nextRoute := (congrArg State.nextRoute (s.emit_same m) :)
@[simp] theorem emit_threads (s : State) (m : OutMsg) : (s.emit m).threads = s.threads := (congrArg State.threads (s.emit_same m) :)
@[simp] theorem emit_rings (s : State) (m : OutMsg) : (s.emit m).rings = s.rings := (congrArg State.rings (s.emit_same m) :)
@[simp] theorem emit_shoots (s : State) (m : OutMsg) : (s.emit m).shoots = s.shoots := (congrArg State.shoots (s.emit_same m) :)
@[simp] theorem emit_pend (s : State) (m : OutMsg) : (s.emit m).pend = s.pend := (congrArg State.pend (s.emit_same m) :)
@[simp] theorem emit_nextOp (s : State) (m : OutMsg) : (s.emit m).nextOp = s.nextOp := (congrArg State.nextOp (s.emit_same m) :)
@[simp] theorem emit_nextToken (s : State) (m : OutMsg) : (s.emit m).nextToken = s.nextToken := (congrArg State.nextToken (s.emit_same m) :)
@[simp] theorem emit_history (s : State) (m : OutMsg) : (s.emit m).history = s.history := (congrArg State.history (s.emit_same m) :)
@[simp] theorem emit_writes (s : State) (m : OutMsg) : (s.emit m).writes = s.writes := (congrArg State.writes (s.emit_same m) :)
@[simp] theorem emit_agenda (s : State) (m : OutMsg) : (s.emit m).agenda = s.agenda := (congrArg State.agenda (s.emit_same m) :)
@[simp] theorem emit_freeCtr (s : State) (m : OutMsg) : (s.emit m).freeCtr = s.freeCtr := (congrArg State.freeCtr (s.emit_same m) :)
@[simp] theorem emit_cur (s : State) (m : OutMsg) : (s.emit m).cur = s.cur := (congrArg State.cur (s.emit_same m) :)

@[simp] theorem sendOp_plat (s : State) (m : OutMsg) : (s.sendOp m).plat = s.plat := s.emit_plat m
@[simp] theorem sendOp_slots (s : State) (m : OutMsg) : (s.sendOp m).slots = s.slots := s.emit_slots m
@[simp] theorem sendOp_spdm (s : State) (m : OutMsg) : (s.sendOp m).spdm = s.spdm := s.emit_spdm m
@[simp] theorem sendOp_sessions (s : State) (m : OutMsg) : (s.sendOp m).sessions = s.sessions := s.emit_sessions m
@[simp] theorem sendOp_nextSession (s : State) (m : OutMsg) : (s.sendOp m).nextSession = s.nextSession := s.emit_nextSession m
@[simp] theorem sendOp_pmem (s : State) (m : OutMsg) : (s.sendOp m).pmem = s.pmem := s.emit_pmem m
@[simp] theorem sendOp_hmem (s : State) (m : OutMsg) : (s.sendOp m).hmem = s.hmem := s.emit_hmem m
@[simp] theorem sendOp_smem (s : State) (m : OutMsg) : (s.sendOp m).smem = s.smem := s.emit_smem m
@[simp] theorem sendOp_poison (s : State) (m : OutMsg) : (s.sendOp m).poison = s.poison := s.emit_poison m
@[simp] theorem sendOp_rows (s : State) (m : OutMsg) : (s.sendOp m).rows = s.rows := s.emit_rows m
@[simp] theorem sendOp_pools (s : State) (m : OutMsg) : (s.sendOp m).pools = s.pools := s.emit_pools m
@[simp] theorem sendOp_ctxs (s : State) (m : OutMsg) : (s.sendOp m).ctxs = s.ctxs := s.emit_ctxs m
@[simp] theorem sendOp_cc (s : State) (m : OutMsg) : (s.sendOp m).cc = s.cc := s.emit_cc m
@[simp] theorem sendOp_cores (s : State) (m : OutMsg) : (s.sendOp m).cores = s.cores := s.emit_cores m
@[simp] theorem sendOp_queues (s : State) (m : OutMsg) : (s.sendOp m).queues = s.queues := s.emit_queues m
@[simp] theorem sendOp_nodes (s : State) (m : OutMsg) : (s.sendOp m).nodes = s.nodes := s.emit_nodes m
@[simp] theorem sendOp_nextNode (s : State) (m : OutMsg) : (s.sendOp m).nextNode = s.nextNode := s.emit_nextNode m
@[simp] theorem sendOp_bufs (s : State) (m : OutMsg) : (s.sendOp m).bufs = s.bufs := s.emit_bufs m
@[simp] theorem sendOp_recqs (s : State) (m : OutMsg) : (s.sendOp m).recqs = s.recqs := s.emit_recqs m
@[simp] theorem sendOp_launches (s : State) (m : OutMsg) : (s.sendOp m).launches = s.launches := s.emit_launches m
@[simp] theorem sendOp_nextLaunch (s : State) (m : OutMsg) : (s.sendOp m).nextLaunch = s.nextLaunch := s.emit_nextLaunch m
@[simp] theorem sendOp_routes (s : State) (m : OutMsg) : (s.sendOp m).routes = s.routes := s.emit_routes m
@[simp] theorem sendOp_acl (s : State) (m : OutMsg) : (s.sendOp m).acl = s.acl := s.emit_acl m
@[simp] theorem sendOp_granted (s : State) (m : OutMsg) : (s.sendOp m).granted = s.granted := s.emit_granted m
@[simp] theorem sendOp_nextPermit (s : State) (m : OutMsg) : (s.sendOp m).nextPermit = s.nextPermit := s.emit_nextPermit m
@[simp] theorem sendOp_sent (s : State) (m : OutMsg) : (s.sendOp m).sent = s.sent := s.emit_sent m
@[simp] theorem sendOp_inOrder (s : State) (m : OutMsg) : (s.sendOp m).inOrder = s.inOrder := s.emit_inOrder m
@[simp] theorem sendOp_routeQ (s : State) (m : OutMsg) : (s.sendOp m).routeQ = s.routeQ := s.emit_routeQ m
@[simp] theorem sendOp_routeDropped (s : State) (m : OutMsg) : (s.sendOp m).routeDropped = s.routeDropped := s.emit_routeDropped m
@[simp] theorem sendOp_nextRoute (s : State) (m : OutMsg) : (s.sendOp m).nextRoute = s.nextRoute := s.emit_nextRoute m
@[simp] theorem sendOp_threads (s : State) (m : OutMsg) : (s.sendOp m).threads = s.threads := s.emit_threads m
@[simp] theorem sendOp_rings (s : State) (m : OutMsg) : (s.sendOp m).rings = s.rings := s.emit_rings m
@[simp] theorem sendOp_shoots (s : State) (m : OutMsg) : (s.sendOp m).shoots = s.shoots := s.emit_shoots m
@[simp] theorem sendOp_nextToken (s : State) (m : OutMsg) : (s.sendOp m).nextToken = s.nextToken := s.emit_nextToken m
@[simp] theorem sendOp_history (s : State) (m : OutMsg) : (s.sendOp m).history = s.history := s.emit_history m
@[simp] theorem sendOp_writes (s : State) (m : OutMsg) : (s.sendOp m).writes = s.writes := s.emit_writes m
@[simp] theorem sendOp_agenda (s : State) (m : OutMsg) : (s.sendOp m).agenda = s.agenda := s.emit_agenda m
@[simp] theorem sendOp_freeCtr (s : State) (m : OutMsg) : (s.sendOp m).freeCtr = s.freeCtr := s.emit_freeCtr m
@[simp] theorem sendOp_cur (s : State) (m : OutMsg) : (s.sendOp m).cur = s.cur := s.emit_cur m
@[simp] theorem sendOp_nextOp (s : State) (m : OutMsg) : (s.sendOp m).nextOp = s.nextOp + 1 := rfl

@[simp] theorem nextSeq_plat (s : State) (k : Nat) : (s.nextSeq k).2.plat = s.plat := rfl
@[simp] theorem nextSeq_slots (s : State) (k : Nat) : (s.nextSeq k).2.slots = s.slots := rfl
@[simp] theorem nextSeq_spdm (s : State) (k : Nat) : (s.nextSeq k).2.spdm = s.spdm := rfl
@[simp] theorem nextSeq_sessions (s : State) (k : Nat) : (s.nextSeq k).2.sessions = s.sessions := rfl
@[simp] theorem nextSeq_nextSession (s : State) (k : Nat) : (s.nextSeq k).2.nextSession = s.nextSession := rfl
@[simp] theorem nextSeq_pmem (s : State) (k : Nat) : (s.nextSeq k).2.pmem = s.pmem := rfl
@[simp] theorem nextSeq_hmem (s : State) (k : Nat) : (s.nextSeq k).2.hmem = s.hmem := rfl
@[simp] theorem nextSeq_smem (s : State) (k : Nat) : (s.nextSeq k).2.smem = s.smem := rfl
@[simp] theorem nextSeq_poison (s : State) (k : Nat) : (s.nextSeq k).2.poison = s.poison := rfl
@[simp] theorem nextSeq_rows (s : State) (k : Nat) : (s.nextSeq k).2.rows = s.rows := rfl
@[simp] theorem nextSeq_pools (s : State) (k : Nat) : (s.nextSeq k).2.pools = s.pools := rfl
@[simp] theorem nextSeq_ctxs (s : State) (k : Nat) : (s.nextSeq k).2.ctxs = s.ctxs := rfl
@[simp] theorem nextSeq_cc (s : State) (k : Nat) : (s.nextSeq k).2.cc = s.cc := rfl
@[simp] theorem nextSeq_cores (s : State) (k : Nat) : (s.nextSeq k).2.cores = s.cores := rfl
@[simp] theorem nextSeq_queues (s : State) (k : Nat) : (s.nextSeq k).2.queues = s.queues := rfl
@[simp] theorem nextSeq_nodes (s : State) (k : Nat) : (s.nextSeq k).2.nodes = s.nodes := rfl
@[simp] theorem nextSeq_nextNode (s : State) (k : Nat) : (s.nextSeq k).2.nextNode = s.nextNode := rfl
@[simp] theorem nextSeq_bufs (s : State) (k : Nat) : (s.nextSeq k).2.bufs = s.bufs := rfl
@[simp] theorem nextSeq_recqs (s : State) (k : Nat) : (s.nextSeq k).2.recqs = s.recqs := rfl
@[simp] theorem nextSeq_launches (s : State) (k : Nat) : (s.nextSeq k).2.launches = s.launches := rfl
@[simp] theorem nextSeq_nextLaunch (s : State) (k : Nat) : (s.nextSeq k).2.nextLaunch = s.nextLaunch := rfl
@[simp] theorem nextSeq_routes (s : State) (k : Nat) : (s.nextSeq k).2.routes = s.routes := rfl
@[simp] theorem nextSeq_acl (s : State) (k : Nat) : (s.nextSeq k).2.acl = s.acl := rfl
@[simp] theorem nextSeq_granted (s : State) (k : Nat) : (s.nextSeq k).2.granted = s.granted := rfl
@[simp] theorem nextSeq_nextPermit (s : State) (k : Nat) : (s.nextSeq k).2.nextPermit = s.nextPermit := rfl
@[simp] theorem nextSeq_inOrder (s : State) (k : Nat) : (s.nextSeq k).2.inOrder = s.inOrder := rfl
@[simp] theorem nextSeq_routeQ (s : State) (k : Nat) : (s.nextSeq k).2.routeQ = s.routeQ := rfl
@[simp] theorem nextSeq_routeDropped (s : State) (k : Nat) : (s.nextSeq k).2.routeDropped = s.routeDropped := rfl
@[simp] theorem nextSeq_nextRoute (s : State) (k : Nat) : (s.nextSeq k).2.nextRoute = s.nextRoute := rfl
@[simp] theorem nextSeq_threads (s : State) (k : Nat) : (s.nextSeq k).2.threads = s.threads := rfl
@[simp] theorem nextSeq_rings (s : State) (k : Nat) : (s.nextSeq k).2.rings = s.rings := rfl
@[simp] theorem nextSeq_shoots (s : State) (k : Nat) : (s.nextSeq k).2.shoots = s.shoots := rfl
@[simp] theorem nextSeq_pend (s : State) (k : Nat) : (s.nextSeq k).2.pend = s.pend := rfl
@[simp] theorem nextSeq_nextOp (s : State) (k : Nat) : (s.nextSeq k).2.nextOp = s.nextOp := rfl
@[simp] theorem nextSeq_nextToken (s : State) (k : Nat) : (s.nextSeq k).2.nextToken = s.nextToken := rfl
@[simp] theorem nextSeq_history (s : State) (k : Nat) : (s.nextSeq k).2.history = s.history := rfl
@[simp] theorem nextSeq_writes (s : State) (k : Nat) : (s.nextSeq k).2.writes = s.writes := rfl
@[simp] theorem nextSeq_agenda (s : State) (k : Nat) : (s.nextSeq k).2.agenda = s.agenda := rfl
@[simp] theorem nextSeq_freeCtr (s : State) (k : Nat) : (s.nextSeq k).2.freeCtr = s.freeCtr := rfl
@[simp] theorem nextSeq_cur (s : State) (k : Nat) : (s.nextSeq k).2.cur = s.cur := rfl
@[simp] theorem nextSeq_ports (s : State) (k : Nat) : (s.nextSeq k).2.ports = s.ports := rfl
@[simp] theorem nextSeq_out (s : State) (k : Nat) : (s.nextSeq k).2.out = s.out := rfl

@[simp] theorem sendNext_plat (s : State) (m : OutMsg) : (s.sendNext m).plat = s.plat := by unfold sendNext; split <;> simp
@[simp] theorem sendNext_slots (s : State) (m : OutMsg) : (s.sendNext m).slots = s.slots := by unfold sendNext; split <;> simp
@[simp] theorem sendNext_spdm (s : State) (m : OutMsg) : (s.sendNext m).spdm = s.spdm := by unfold sendNext; split <;> simp
@[simp] theorem sendNext_sessions (s : State) (m : OutMsg) : (s.sendNext m).sessions = s.sessions := by unfold sendNext; split <;> simp
@[simp] theorem sendNext_nextSession (s : State) (m : OutMsg) : (s.sendNext m).nextSession = s.nextSession := by unfold sendNext; split <;> simp
@[simp] theorem sendNext_pmem (s : State) (m : OutMsg) : (s.sendNext m).pmem = s.pmem := by unfold sendNext; split <;> simp
@[simp] theorem sendNext_hmem (s : State) (m : OutMsg) : (s.sendNext m).hmem = s.hmem := by unfold sendNext; split <;> simp
@[simp] theorem sendNext_smem (s : State) (m : OutMsg) : (s.sendNext m).smem = s.smem := by unfold sendNext; split <;> simp
@[simp] theorem sendNext_poison (s : State) (m : OutMsg) : (s.sendNext m).poison = s.poison := by unfold sendNext; split <;> simp
@[simp] theorem sendNext_rows (s : State) (m : OutMsg) : (s.sendNext m).rows = s.rows := by unfold sendNext; split <;> simp
@[simp] theorem sendNext_pools (s : State) (m : OutMsg) : (s.sendNext m).pools = s.pools := by unfold sendNext; split <;> simp
@[simp] theorem sendNext_ctxs (s : State) (m : OutMsg) : (s.sendNext m).ctxs = s.ctxs := by unfold sendNext; split <;> simp
@[simp] theorem sendNext_cc (s : State) (m : OutMsg) : (s.sendNext m).cc = s.cc := by unfold sendNext; split <;> simp
@[simp] theorem sendNext_cores (s : State) (m : OutMsg) : (s.sendNext m).cores = s.cores := by unfold sendNext; split <;> simp
@[simp] theorem sendNext_queues (s : State) (m : OutMsg) : (s.sendNext m).queues = s.queues := by unfold sendNext; split <;> simp
@[simp] theorem sendNext_nodes (s : State) (m : OutMsg) : (s.sendNext m).nodes = s.nodes := by unfold sendNext; split <;> simp
@[simp] theorem sendNext_nextNode (s : State) (m : OutMsg) : (s.sendNext m).nextNode = s.nextNode := by unfold sendNext; split <;> simp
@[simp] theorem sendNext_bufs (s : State) (m : OutMsg) : (s.sendNext m).bufs = s.bufs := by unfold sendNext; split <;> simp
@[simp] theorem sendNext_recqs (s : State) (m : OutMsg) : (s.sendNext m).recqs = s.recqs := by unfold sendNext; split <;> simp
@[simp] theorem sendNext_launches (s : State) (m : OutMsg) : (s.sendNext m).launches = s.launches := by unfold sendNext; split <;> simp
@[simp] theorem sendNext_nextLaunch (s : State) (m : OutMsg) : (s.sendNext m).nextLaunch = s.nextLaunch := by unfold sendNext; split <;> simp
@[simp] theorem sendNext_routes (s : State) (m : OutMsg) : (s.sendNext m).routes = s.routes := by unfold sendNext; split <;> simp
@[simp] theorem sendNext_acl (s : State) (m : OutMsg) : (s.sendNext m).acl = s.acl := by unfold sendNext; split <;> simp
@[simp] theorem sendNext_granted (s : State) (m : OutMsg) : (s.sendNext m).granted = s.granted := by unfold sendNext; split <;> simp
@[simp] theorem sendNext_nextPermit (s : State) (m : OutMsg) : (s.sendNext m).nextPermit = s.nextPermit := by unfold sendNext; split <;> simp
@[simp] theorem sendNext_inOrder (s : State) (m : OutMsg) : (s.sendNext m).inOrder = s.inOrder := by unfold sendNext; split <;> simp
@[simp] theorem sendNext_routeQ (s : State) (m : OutMsg) : (s.sendNext m).routeQ = s.routeQ := by unfold sendNext; split <;> simp
@[simp] theorem sendNext_routeDropped (s : State) (m : OutMsg) : (s.sendNext m).routeDropped = s.routeDropped := by unfold sendNext; split <;> simp
@[simp] theorem sendNext_nextRoute (s : State) (m : OutMsg) : (s.sendNext m).nextRoute = s.nextRoute := by unfold sendNext; split <;> simp
@[simp] theorem sendNext_threads (s : State) (m : OutMsg) : (s.sendNext m).threads = s.threads := by unfold sendNext; split <;> simp
@[simp] theorem sendNext_rings (s : State) (m : OutMsg) : (s.sendNext m).rings = s.rings := by unfold sendNext; split <;> simp
@[simp] theorem sendNext_shoots (s : State) (m : OutMsg) : (s.sendNext m).shoots = s.shoots := by unfold sendNext; split <;> simp
@[simp] theorem sendNext_nextToken (s : State) (m : OutMsg) : (s.sendNext m).nextToken = s.nextToken := by unfold sendNext; split <;> simp
@[simp] theorem sendNext_history (s : State) (m : OutMsg) : (s.sendNext m).history = s.history := by unfold sendNext; split <;> simp
@[simp] theorem sendNext_writes (s : State) (m : OutMsg) : (s.sendNext m).writes = s.writes := by unfold sendNext; split <;> simp
@[simp] theorem sendNext_agenda (s : State) (m : OutMsg) : (s.sendNext m).agenda = s.agenda := by unfold sendNext; split <;> simp
@[simp] theorem sendNext_cur (s : State) (m : OutMsg) : (s.sendNext m).cur = s.cur := by unfold sendNext; split <;> simp
@[simp] theorem sendNext_freeCtr (s : State) (m : OutMsg) : (s.sendNext m).freeCtr = s.freeCtr := by unfold sendNext; split <;> simp

@[simp] theorem writePA_plat (s : State) (a : Nat) (b : Byte) : (s.writePA a b).plat = s.plat := rfl
@[simp] theorem writePA_slots (s : State) (a : Nat) (b : Byte) : (s.writePA a b).slots = s.slots := rfl
@[simp] theorem writePA_spdm (s : State) (a : Nat) (b : Byte) : (s.writePA a b).spdm = s.spdm := rfl
@[simp] theorem writePA_sessions (s : State) (a : Nat) (b : Byte) : (s.writePA a b).sessions = s.sessions := rfl
@[simp] theorem writePA_nextSession (s : State) (a : Nat) (b : Byte) : (s.writePA a b).nextSession = s.nextSession := rfl
@[simp] theorem writePA_pmem (s : State) (a : Nat) (b : Byte) : (s.writePA a b).pmem = s.pmem.setOr 0 a b := rfl
@[simp] theorem writePA_hmem (s : State) (a : Nat) (b : Byte) : (s.writePA a b).hmem = s.hmem := rfl
@[simp] theorem writePA_poison (s : State) (a : Nat) (b : Byte) : (s.writePA a b).poison = s.poison := rfl
@[simp] theorem writePA_pools (s : State) (a : Nat) (b : Byte) : (s.writePA a b).pools = s.pools := rfl
@[simp] theorem writePA_ctxs (s : State) (a : Nat) (b : Byte) : (s.writePA a b).ctxs = s.ctxs := rfl
@[simp] theorem writePA_cc (s : State) (a : Nat) (b : Byte) : (s.writePA a b).cc = s.cc := rfl
@[simp] theorem writePA_cores (s : State) (a : Nat) (b : Byte) : (s.writePA a b).cores = s.cores := rfl
@[simp] theorem writePA_queues (s : State) (a : Nat) (b : Byte) : (s.writePA a b).queues = s.queues := rfl
@[simp] theorem writePA_nodes (s : State) (a : Nat) (b : Byte) : (s.writePA a b).nodes = s.nodes := rfl
@[simp] theorem writePA_nextNode (s : State) (a : Nat) (b : Byte) : (s.writePA a b).nextNode = s.nextNode := rfl
@[simp] theorem writePA_bufs (s : State) (a : Nat) (b : Byte) : (s.writePA a b).bufs = s.bufs := rfl
@[simp] theorem writePA_recqs (s : State) (a : Nat) (b : Byte) : (s.writePA a b).recqs = s.recqs := rfl
@[simp] theorem writePA_launches (s : State) (a : Nat) (b : Byte) : (s.writePA a b).launches = s.launches := rfl
@[simp] theorem writePA_nextLaunch (s : State) (a : Nat) (b : Byte) : (s.writePA a b).nextLaunch = s.nextLaunch := rfl
@[simp] theorem writePA_routes (s : State) (a : Nat) (b : Byte) : (s.writePA a b).routes = s.routes := rfl
@[simp] theorem writePA_ports (s : State) (a : Nat) (b : Byte) : (s.writePA a b).ports = s.ports := rfl
@[simp] theorem writePA_acl (s : State) (a : Nat) (b : Byte) : (s.writePA a b).acl = s.acl := rfl
@[simp] theorem writePA_granted (s : State) (a : Nat) (b : Byte) : (s.writePA a b).granted = s.granted := rfl
@[simp] theorem writePA_routeQ (s : State) (a : Nat) (b : Byte) : (s.writePA a b).routeQ = s.routeQ := rfl
@[simp] theorem writePA_routeDropped (s : State) (a : Nat) (b : Byte) : (s.writePA a b).routeDropped = s.routeDropped := rfl
@[simp] theorem writePA_nextRoute (s : State) (a : Nat) (b : Byte) : (s.writePA a b).nextRoute = s.nextRoute := rfl
@[simp] theorem writePA_threads (s : State) (a : Nat) (b : Byte) : (s.writePA a b).threads = s.threads := rfl
@[simp] theorem writePA_rings (s : State) (a : Nat) (b : Byte) : (s.writePA a b).rings = s.rings := rfl
@[simp] theorem writePA_shoots (s : State) (a : Nat) (b : Byte) : (s.writePA a b).shoots = s.shoots := rfl
@[simp] theorem writePA_pend (s : State) (a : Nat) (b : Byte) : (s.writePA a b).pend = s.pend := rfl
@[simp] theorem writePA_nextOp (s : State) (a : Nat) (b : Byte) : (s.writePA a b).nextOp = s.nextOp := rfl
@[simp] theorem writePA_out (s : State) (a : Nat) (b : Byte) : (s.writePA a b).out = s.out := rfl
@[simp] theorem writePA_nextToken (s : State) (a : Nat) (b : Byte) : (s.writePA a b).nextToken = s.nextToken := rfl
@[simp] theorem writePA_agenda (s : State) (a : Nat) (b : Byte) : (s.writePA a b).agenda = s.agenda := rfl
@[simp] theorem writePA_freeCtr (s : State) (a : Nat) (b : Byte) : (s.writePA a b).freeCtr = s.freeCtr := rfl
@[simp] theorem writePA_cur (s : State) (a : Nat) (b : Byte) : (s.writePA a b).cur = s.cur := rfl
@[simp] theorem writePA_writes (s : State) (a : Nat) (b : Byte) : (s.writePA a b).writes = s.writes := rfl
@[simp] theorem writePA_smem (s : State) (a : Nat) (b : Byte) : (s.writePA a b).smem = s.smem := rfl
@[simp] theorem writePA_rows (s : State) (a : Nat) (b : Byte) : (s.writePA a b).rows = s.rows := rfl
@[simp] theorem writePA_nextPermit (s : State) (a : Nat) (b : Byte) : (s.writePA a b).nextPermit = s.nextPermit := rfl
@[simp] theorem writePA_sent (s : State) (a : Nat) (b : Byte) : (s.writePA a b).sent = s.sent := rfl
@[simp] theorem writePA_inOrder (s : State) (a : Nat) (b : Byte) : (s.writePA a b).inOrder = s.inOrder := rfl

/-! ## Reading a home after writing one -/

@[simp] theorem ccOf_putCC_self (s : State) (c k : Nat) (x : CtxCore) : (s.putCC c k x).ccOf c k = x := by simp [ccOf]

theorem ccOf_putCC_ne (s : State) {c k c' k' : Nat} (x : CtxCore) (h : ccKey c' k' ≠ ccKey c k) :
    (s.putCC c k x).ccOf c' k' = s.ccOf c' k' := by simp [ccOf, Tbl.getOr_put_ne _ _ x h]

@[simp] theorem snd?_putSnd_self (s : State) (c k j : Nat) (x : Snd) : (s.putSnd c k j x).snd? c k j = some x := by
  simp [snd?, putSnd, modCC]

theorem snd?_putSnd_slot (s : State) {c k j i : Nat} (x : Snd) (h : i ≠ j) :
    (s.putSnd c k j x).snd? c k i = s.snd? c k i := by
  simp [snd?, putSnd, modCC, Tbl.find_put_ne _ x h]

theorem snd?_putSnd_home (s : State) {c k j c' k' i : Nat} (x : Snd) (h : ccKey c' k' ≠ ccKey c k) :
    (s.putSnd c k j x).snd? c' k' i = s.snd? c' k' i := by
  simp [snd?, putSnd, modCC, ccOf_putCC_ne s _ h]

theorem modSnd_of (s : State) {c k j : Nat} {x : Snd} (f : Snd → Snd) (h : s.snd? c k j = some x) :
    s.modSnd c k j f = s.putSnd c k j (f x) := by simp [modSnd, h]

@[simp] theorem coreOf_putCore_self (s : State) (c : Nat) (x : Core) : (s.putCore c x).coreOf c = x := by simp [coreOf]

@[simp] theorem coreOf_putSnd (s : State) (c k j : Nat) (x : Snd) (n : Nat) : (s.putSnd c k j x).coreOf n = s.coreOf n := rfl

@[simp] theorem ctx?_putCtx_self (s : State) (c : Nat) (x : Ctx) : (s.putCtx c x).ctx? c = some x := by simp [ctx?]

@[simp] theorem ctx?_putSnd (s : State) (c k j : Nat) (x : Snd) (n : Nat) : (s.putSnd c k j x).ctx? n = s.ctx? n := rfl

@[simp] theorem thread?_putThread_self (s : State) (p c e : Nat) (t : Thread) :
    (s.putThread p c e t).thread? p c e = some t := by simp [thread?]

@[simp] theorem port_putPort_self (s : State) (p : Nat) (x : Port) : (s.putPort p x).port p = x := by simp [port]

/-! ## Physical memory -/

@[simp] theorem readPA_writePA_self (s : State) (a : Nat) (b : Byte) : (s.writePA a b).readPA a = b := by simp [readPA]

theorem readPA_writePA_ne (s : State) {a m : Nat} (b : Byte) (h : m ≠ a) : (s.writePA a b).readPA m = s.readPA m := by
  simp [readPA, Tbl.getOr_setOr_ne _ _ b h]

/-- Bytes outside those written read as before. -/
theorem readPA_writeBytes (s : State) (a : Nat) (bs : List Byte) (m : Nat) (h : m < a ∨ a + bs.length ≤ m) :
    (s.writeBytes a bs).readPA m = s.readPA m := by
  induction bs generalizing s a with
  | nil => rfl
  | cons b r ih =>
    simp only [List.length_cons] at h
    rw [writeBytes, ih _ _ (by omega), readPA_writePA_ne s b (by omega)]

/-! A write replaces bytes of poisoned lines: `cleanLines` changes which lines are poisoned and nothing else. -/

theorem cleanLines_same (s : State) (lo n : Nat) : s.cleanLines lo n = { s with poison := (s.cleanLines lo n).poison } := rfl

@[simp] theorem readPA_cleanLines (s : State) (lo n a : Nat) : (s.cleanLines lo n).readPA a = s.readPA a := rfl

@[simp] theorem readPA_putSnd (s : State) (c k j : Nat) (x : Snd) (a : Nat) : (s.putSnd c k j x).readPA a = s.readPA a := rfl

@[simp] theorem readPA_putCtx (s : State) (c : Nat) (x : Ctx) (a : Nat) : (s.putCtx c x).readPA a = s.readPA a := rfl

@[simp] theorem readPA_sendOp (s : State) (m : OutMsg) (a : Nat) : (s.sendOp m).readPA a = s.readPA a := by simp [readPA]

end State

end Machine

end Sys2Proof
end

