-- ==== Sys2Proof/Laws/Exec.lean ====
section
/-! SUPPORT. What the shared frames of instructions do when their party is there: scalarStep, laneStep, the end of an
arithmetic issue, engineStep, statusStep, mcfStep, service and onConn. A proof about an instruction cites these and unfolds
none of them. -/

namespace Sys2Proof.Machine

open Sys2Proof

/-! ## The scalar stream -/

theorem scalarStep_at {s : State} {c k j : Nat} {x : Snd} (h : ScalarAt s c k j x) (f : Nat → Nat → Nat → Snd → State) :
    scalarStep s f = .next (f c k j x) := by simp [scalarStep, h.cur, h.snd]

/-- A scalar step answers a next state exactly where its party is there. -/
theorem scalarStep_next {s t : State} {f : Nat → Nat → Nat → Snd → State} (h : scalarStep s f = .next t) :
    ∃ c k j x, ScalarAt s c k j x ∧ t = f c k j x := by
  unfold scalarStep at h
  split at h
  · next c k j hc =>
    split at h
    · next x hx => cases h; exact ⟨c, k, j, x, ⟨hc, hx⟩, rfl⟩
    · cases h
  · cases h

theorem scalarWrite_at {s : State} {c k j : Nat} {x : Snd} (h : ScalarAt s c k j x) (d : BitVec 6) (f : Snd → Word) :
    scalarWrite s d f = .next (s.putSnd c k j (x.setS d.toNat (f x)).adv) := scalarStep_at h _

theorem scalarAlu_at {s : State} {c k j : Nat} {x : Snd} (h : ScalarAt s c k j x) (op : SOp) (d a b : BitVec 6) :
    scalarAlu op d a b s = .next (s.wrote c k j x d (op.eval 64 (x.sreg a.toNat) (x.sreg b.toNat))) := scalarWrite_at h d _

theorem scalarAlu32_at {s : State} {c k j : Nat} {x : Snd} (h : ScalarAt s c k j x) (op : SOp) (d a b : BitVec 6) :
    scalarAlu32 op d a b s = .next (s.wrote c k j x d
      ((op.eval 32 ((x.sreg a.toNat).setWidth 32) ((x.sreg b.toNat).setWidth 32)).signExtend 64)) := scalarWrite_at h d _

theorem scalarCmp_at {s : State} {c k j : Nat} {x : Snd} (h : ScalarAt s c k j x) (d cc : BitVec 3) (f : Snd → Word × Word) :
    scalarCmp s d cc f = .next (s.putSnd c k j (x.setCond d.toNat (condHolds cc (f x).1 (f x).2)).adv) := scalarStep_at h _

/-! ## Lane issues -/

/-- A lane word whose party is there is issued. -/
theorem laneStep_party {s : State} {maj min : Nat} {b : LaneBody} {c k j slices : Nat} {x : Snd} {blk : Block}
    (hc : s.cur = .lane c k j slices) (hs : s.snd? c k j = some x) (hb : x.runningBlock = some blk)
    (eff : Issue → State → State) :
    laneStep s maj min b eff = laneIssue s (Issue.of s c k j slices x blk maj min b) eff := by
  simp only [laneStep, hc, hs, hb]

/-- The check of a resource comes first only where an operand is empty (R70). -/
theorem notMine_of_full {s : State} {i : Issue} (hf : i.emptyNow = []) : i.notMine s = false := by simp [Issue.notMine, hf]

theorem laneIssue_ok {s : State} {i : Issue} (hl : laneIllegal (BitVec.ofNat 96 i.word) i.x.n (bits i.fpctl 10 8) = none)
    (hf : i.emptyNow = []) (eff : Issue → State → State) : laneIssue s i eff = .next (eff i s) := by
  simp [laneIssue, hl, hf, notMine_of_full hf]

theorem laneStep_at {s : State} {maj min : Nat} {b : LaneBody} {i : Issue} (h : LaneAt s maj min b i)
    (eff : Issue → State → State) : laneStep s maj min b eff = .next (eff i s) := by
  rw [laneStep_party h.cur h.snd h.blk eff, ← h.made]
  exact laneIssue_ok h.legal h.full eff

/-- A lane issue always answers a next state. -/
theorem laneIssue_next (s : State) (i : Issue) (eff : Issue → State → State) : ∃ t, laneIssue s i eff = .next t := by
  unfold laneIssue
  split
  · exact ⟨_, rfl⟩
  · split
    · exact ⟨_, rfl⟩
    · split
      · exact ⟨_, rfl⟩
      · split <;> exact ⟨_, rfl⟩

/-- The end of an arithmetic issue that raises no enabled exception and finds its registers. -/
theorem finish_ready {s : State} {i : Issue} {rs : List (Nat × Nat)} (h : i.Ready s rs) : i.finish s rs = i.commit s rs := by
  simp [Issue.finish, h.quiet, h.room]

theorem laneArith_at {s : State} {maj min : Nat} {b : LaneBody} {i : Issue} (h : LaneAt s maj min b i)
    (op : Issue → List Nat → List Nat → List Nat → List Nat → List (Nat × Nat)) (r : i.Ready s (i.results s op)) :
    laneArith s maj min b op = .next (i.commit s (i.results s op)) := by
  rw [laneArith, laneStep_at h]
  exact congrArg _ (finish_ready r)

/-- A lane arithmetic instruction gives the results of its operation. -/
theorem laneGives_of {s : State} {i : Issue} {ins : Instr} {maj min : Nat} {b : LaneBody} {rs : List (Nat × Nat)}
    (op : Issue → List Nat → List Nat → List Nat → List Nat → List (Nat × Nat))
    (he : exec ins s = laneArith s maj min b op) (hr : i.results s op = rs) : LaneGives s i ins maj min b rs := by
  intro h r
  subst hr
  rw [he]
  exact laneArith_at h op r

theorem laneArith_trap {s : State} {maj min : Nat} {b : LaneBody} {i : Issue} (h : LaneAt s maj min b i)
    (op : Issue → List Nat → List Nat → List Nat → List Nat → List (Nat × Nat))
    (e : trapEnabled i.fpctl (unionFlags i.mask (i.results s op)) = true) :
    laneArith s maj min b op = .next (i.fpTrap s (unionFlags i.mask (i.results s op))) := by
  rw [laneArith, laneStep_at h]
  exact congrArg _ (by simp only [Issue.finish]; exact if_pos e)

/-- An engine instruction whose banks stand, whose checks pass and which has nothing to wait for has its effect. -/
theorem engineStep_at {s : State} {maj min : Nat} {f : LaneR} {i : Issue} (h : LaneAt s maj min (.r f) i)
    {busy waits : Issue → State → Bool} {check : Issue → State → Check} {eff : Issue → State → State} (m : i.mask ≠ 0)
    (b : busy i s = false) (c : check i s = none) (w : waits i s = false) :
    engineStep s maj min f busy check waits eff = .next (i.retire (eff i s)) := by
  rw [engineStep, laneStep_at h, if_neg m, b, c, w]
  rfl

theorem engineStep_trap {s : State} {maj min : Nat} {f : LaneR} {i : Issue} (h : LaneAt s maj min (.r f) i)
    {busy waits : Issue → State → Bool} {check : Issue → State → Check} {eff : Issue → State → State} (m : i.mask ≠ 0)
    (b : busy i s = false) {e : Nat × Nat} (c : check i s = some e) :
    engineStep s maj min f busy check waits eff = .next (i.trapCheck s e) := by
  rw [engineStep, laneStep_at h, if_neg m, b, c]
  rfl

theorem engineStep_empty {s : State} {maj min : Nat} {f : LaneR} {i : Issue} (h : LaneAt s maj min (.r f) i)
    {busy waits : Issue → State → Bool} {check : Issue → State → Check} {eff : Issue → State → State} (m : i.mask = 0) :
    engineStep s maj min f busy check waits eff = .next (i.retire s) := by
  rw [engineStep, laneStep_at h, if_pos m]

/-- A command whose checks pass is accepted where the slice goes on and nothing is to be waited for (R402). -/
theorem engineQueue_at {i : Issue} {s : State} {cmd : EngCmd} (p : i.passed = none)
    (h : (s.coreOf i.core).holding = false) (w : i.cmdWaits s cmd = false) (words : Nat) :
    i.engineQueue s false none cmd words = i.retire (i.accept s cmd) words := by simp [Issue.engineQueue, p, h, w]

theorem engineQueue_trap {i : Issue} {s : State} {cmd : EngCmd} (p : i.passed = none) (e : Nat × Nat) (words : Nat) :
    i.engineQueue s false (some e) cmd words = i.trapCheck s e (words := words) := by simp [Issue.engineQueue, p]

theorem engineQueue_wait {i : Issue} {s : State} {cmd : EngCmd} (p : i.passed = none)
    (h : (s.coreOf i.core).holding = false) (w : i.cmdWaits s cmd = true) (words : Nat) :
    i.engineQueue s false none cmd words = s := by simp [Issue.engineQueue, p, h, w]

/-- From the end of a slice to the safe point a command whose checks pass is held (R402). -/
theorem engineQueue_hold {i : Issue} {s : State} {cmd : EngCmd} (p : i.passed = none)
    (h : (s.coreOf i.core).holding = true) (words : Nat) :
    i.engineQueue s false none cmd words = i.notePassed s (some cmd) := by simp [Issue.engineQueue, p, h]

/-- While a bank that it names is changing its mode, a command waits and makes no check (R310). -/
theorem engineQueue_busy {i : Issue} {s : State} {check : Check} {cmd : EngCmd} (p : i.passed = none) (words : Nat) :
    i.engineQueue s true check cmd words = s := by simp [Issue.engineQueue, p]

theorem statusStep_at {s : State} {maj min : Nat} {f : LaneR} {i : Issue} (h : LaneAt s maj min (.r f) i)
    {check : Issue → State → Check} {val : Issue → State → Nat} (m : i.mask ≠ 0) (c : check i s = none)
    (r : i.Ready s (List.replicate 96 (val i s, 0))) :
    statusStep s maj min f check val = .next (i.commit s (List.replicate 96 (val i s, 0))) := by
  rw [statusStep, laneStep_at h, if_neg m, c]
  exact congrArg _ (finish_ready r)

/-! ## MCF threads -/

theorem mcfStep_at {s : State} {port ctx cid : Nat} {e : CollEntry} {t : Thread} (h : McfAt s port ctx cid e t)
    {f : Nat → Nat → Nat → CollEntry → Thread → McfRes} {u : State} {t' : Thread} (r : f port ctx cid e t = .next u t') :
    mcfStep s f = .next (u.putThread port ctx cid t') := by simp [mcfStep, h.cur, h.entry, h.thread, h.ok, r]

theorem mcfStep_wait {s : State} {port ctx cid : Nat} {e : CollEntry} {t : Thread} (h : McfAt s port ctx cid e t)
    {f : Nat → Nat → Nat → CollEntry → Thread → McfRes} {u : State} {t' : Thread} (r : f port ctx cid e t = .wait u t') :
    mcfStep s f = .next (u.putThread port ctx cid t') := by simp [mcfStep, h.cur, h.entry, h.thread, h.ok, r]

theorem mcfStep_error {s : State} {port ctx cid : Nat} {e : CollEntry} {t : Thread} (h : McfAt s port ctx cid e t)
    {f : Nat → Nat → Nat → CollEntry → Thread → McfRes} {u : State} (r : f port ctx cid e t = .error u) :
    mcfStep s f = .next (progError u port ctx cid e t) := by simp [mcfStep, h.cur, h.entry, h.thread, h.ok, r]

theorem mcfReg_at {s : State} {port ctx cid : Nat} {e : CollEntry} {t : Thread} (h : McfAt s port ctx cid e t) (d : BitVec 4)
    (v : Thread → Word) : mcfReg s d v = .next (s.putThread port ctx cid (t.setReg d (v t)).adv) := mcfStep_at h rfl

theorem mcfBranch_at {s : State} {port ctx cid : Nat} {e : CollEntry} {t : Thread} (h : McfAt s port ctx cid e t)
    (off : BitVec 32) (c : Thread → Bool) :
    mcfBranch s off c = .next (s.putThread port ctx cid
      (if c t then { t with pc := (BitVec.ofNat 64 t.pc + off.signExtend 64).toNat } else t.adv)) := mcfStep_at h rfl

theorem withPk_at {s : State} {port ctx cid : Nat} {e : CollEntry} {t : Thread} {p : PkReg} {pk : BitVec 2}
    (h : McfAt s port ctx cid e t) (k : t.pk.find pk.toNat = some p)
    {f : Nat → Nat → Nat → CollEntry → Thread → PkReg → McfRes} {u : State} {t' : Thread}
    (r : f port ctx cid e t p = .next u t') : withPk s pk f = .next (u.putThread port ctx cid t') :=
  mcfStep_at h (by simp [k, r])

/-- A word that names an empty packet register is a program error (R250). -/
theorem withPk_empty {s : State} {port ctx cid : Nat} {e : CollEntry} {t : Thread} {pk : BitVec 2}
    (h : McfAt s port ctx cid e t) (k : t.pk.find pk.toNat = none)
    {f : Nat → Nat → Nat → CollEntry → Thread → PkReg → McfRes} :
    withPk s pk f = .next (progError s port ctx cid e t) := mcfStep_error h (by simp [k])

/-! ## Requests and SPDM -/

theorem service_at {s : State} {part k code q : Nat} (h : Taken s part k code q) (f : State → Nat → State) :
    service s part k code f = .next (f (s.took part k) q) := by simp [service, h.req, h.code, State.took]

theorem onHome_of {s : State} {part ctx q : Nat} {c : Ctx} (f : Ctx → State) (h : s.ctx? ctx = some c) (d : c.die = part) :
    onHome s part ctx q f = f c := by simp [onHome, h, d]

@[simp] theorem took_ctx? (s : State) (part k n : Nat) : (s.took part k).ctx? n = s.ctx? n := rfl

theorem onConn_of {s : State} {bus stage : Nat} (f : State → State) (h : s.connected bus stage) :
    onConn s bus stage f = .next (f s) := by simp [onConn, show stage ≤ (spdmOf s bus).stage from h]

end Sys2Proof.Machine
end

