-- ==== Sys2Proof/Laws/Commit.lean ====
section
/-! SUPPORT. What the end of a lane issue can do: the bookkeeping of reuse touches nothing of the sounder but its bindings and
its reuse counters, and a commit nothing beyond that but its destination, FPSTAT and the slices' places. -/

namespace Sys2Proof.Machine

open Sys2Proof

/-- Memory and the sounders of every other party are the same. -/
structure SameElse (s t : State) (c k j : Nat) : Prop where
  mem   : t.pmem = s.pmem
  slot  : ∀ m : Nat, m ≠ j → t.snd? c k m = s.snd? c k m
  home  : ∀ c' k' m : Nat, ccKey c' k' ≠ ccKey c k → t.snd? c' k' m = s.snd? c' k' m

namespace SameElse

theorem refl (s : State) (c k j : Nat) : SameElse s s c k j := ⟨rfl, fun _ _ => rfl, fun _ _ _ _ => rfl⟩

theorem trans {s t u : State} {c k j : Nat} (a : SameElse s t c k j) (b : SameElse t u c k j) : SameElse s u c k j :=
  ⟨b.mem.trans a.mem, fun m h => (b.slot m h).trans (a.slot m h), fun c' k' m h => (b.home c' k' m h).trans (a.home c' k' m h)⟩

/-- A core has allotted a physical register (R39). -/
theorem fresh (s : State) (c k j : Nat) : SameElse s (Issue.freshPhys s c k).1 c k j := ⟨rfl, fun _ _ => rfl, fun _ _ _ _ => rfl⟩

theorem putSnd (s : State) (c k j : Nat) (y : Snd) : SameElse s (s.putSnd c k j y) c k j :=
  ⟨rfl, fun _ h => State.snd?_putSnd_slot s y h, fun _ _ _ h => State.snd?_putSnd_home s y h⟩

end SameElse

/-- Nothing of a sounder but its bindings, its fills and its reuse counters differs. -/
def SameRegs (x y : Snd) : Prop :=
  y = { x with bound := y.bound, fills := y.fills, rlook := y.rlook, rhits := y.rhits, rshare := y.rshare, rsatur := y.rsatur }

theorem SameRegs.refl (x : Snd) : SameRegs x x := rfl

/-- A lookup is counted. -/
theorem SameRegs.counted (x : Snd) (a b : Word) : SameRegs x { x with rlook := x.rlook + a, rsatur := x.rsatur + b } := rfl

theorem SameRegs.trans {x y z : Snd} (a : SameRegs x y) (b : SameRegs y z) : SameRegs x z := by
  unfold SameRegs at *
  rw [b, a]

/-- A transition of the bookkeeping of reuse, from a sounder on. -/
def KeepsRegs (s t : State) (c k j : Nat) (x : Snd) : Prop := SameElse s t c k j ∧ ∃ y, t.snd? c k j = some y ∧ SameRegs x y

theorem KeepsRegs.refl {s : State} {c k j : Nat} {x : Snd} (h : s.snd? c k j = some x) : KeepsRegs s s c k j x :=
  ⟨SameElse.refl .., x, h, rfl⟩

theorem KeepsRegs.bind {s t u : State} {c k j : Nat} {x : Snd} (a : KeepsRegs s t c k j x)
    (b : ∀ y, t.snd? c k j = some y → KeepsRegs t u c k j y) : KeepsRegs s u c k j x := by
  obtain ⟨e, y, hy, r⟩ := a
  obtain ⟨e', z, hz, r'⟩ := b y hy
  exact ⟨e.trans e', z, hz, r.trans r'⟩

theorem KeepsRegs.putSnd (s : State) (c k j : Nat) {x y : Snd} (r : SameRegs x y) : KeepsRegs s (s.putSnd c k j y) c k j x :=
  ⟨SameElse.putSnd .., y, State.snd?_putSnd_self .., r⟩

theorem KeepsRegs.modCore {s t : State} {c k j : Nat} {x : Snd} (a : KeepsRegs s t c k j x) (b : Prop) [Decidable b] (n : Nat)
    (f : Core → Core) : KeepsRegs s (if b then t.modCore n f else t) c k j x := by
  split
  · exact ⟨⟨a.1.mem, a.1.slot, a.1.home⟩, a.2⟩
  · exact a

namespace Issue

theorem snd?_freshPhys (s : State) (c k j : Nat) : (freshPhys s c k).1.snd? c k j = s.snd? c k j := rfl

theorem bindNew_same (s : State) (c k j n : Nat) (x : Snd) (h : s.snd? c k j = some x) :
    KeepsRegs s (bindNew s c k j n).1 c k j x := by
  have h1 : (freshPhys s c k).1.snd? c k j = some x := h
  simp only [bindNew, State.modSnd_of _ _ h1]
  exact ⟨(SameElse.fresh ..).trans (SameElse.putSnd ..), _, State.snd?_putSnd_self .., rfl⟩

theorem bindEach_same (c k j : Nat) (ns : List Nat) (s : State) (x : Snd) (h : s.snd? c k j = some x) :
    KeepsRegs s (bindEach s c k j ns).1 c k j x := by
  induction ns generalizing s x with
  | nil => exact .refl h
  | cons n r ih => exact (bindNew_same s c k j n x h).bind fun y hy => ih _ y hy

theorem shareFull_same (s : State) (c k j n p : Nat) (x : Snd) (h : s.snd? c k j = some x) :
    KeepsRegs s (shareFull s c k j n p) c k j x := by
  simp only [shareFull, h]
  split
  · exact .refl h
  · split
    · exact .putSnd _ _ _ _ rfl
    · exact .putSnd _ _ _ _ rfl
    · exact .refl h

theorem shares_same (c k j : Nat) (l : List (Nat × Nat)) (s : State) (x : Snd) (h : s.snd? c k j = some x) :
    KeepsRegs s (l.foldl (fun s (n, p) => shareFull s c k j n p) s) c k j x := by
  induction l generalizing s x with
  | nil => exact .refl h
  | cons e r ih => exact (shareFull_same s c k j e.1 e.2 x h).bind fun y hy => ih _ y hy

theorem bindResult_same (i : Issue) (s : State) (x : Snd) (h : s.snd? i.ctx i.core i.slot = some x) :
    KeepsRegs s (i.bindResult s).1 i.ctx i.core i.slot x := by
  unfold bindResult
  dsimp only
  refine (bindEach_same i.ctx i.core i.slot i.dstNames s x h).bind fun y hy => ?_
  split
  · exact shares_same _ _ _ _ _ y hy
  · exact .refl hy

/-- The bookkeeping of reuse once a destination has been written. -/
theorem book_same (i : Issue) (s : State) (use : Bool) (key : List Nat) (fl : Nat) (x : Snd)
    (h : s.snd? i.ctx i.core i.slot = some x) : KeepsRegs s (i.book s use key fl) i.ctx i.core i.slot x := by
  unfold book
  split
  · rw [State.modSnd_of _ _ h]
    exact .putSnd _ _ _ _ (by unfold SameRegs bindHit; rfl)
  · dsimp only
    rw [State.modSnd_of _ _ h]
    generalize (if use then i.lookup s key else Lookup.off) = r
    refine KeepsRegs.bind (.putSnd s _ _ _ (SameRegs.counted x r.counts.1 r.counts.2)) fun y hy => ?_
    exact (i.bindResult_same _ y hy).modCore _ _ _

/-- The sounder once its issuing slices have gone on. -/
def retired (i : Issue) (n : Nat) (x : Snd) : Snd :=
  { x with slices := x.slices.mapV (fun k sl => if sliceBit i.slices k then { sl with pc := sl.pc + n } else sl),
           lclock := if x.determ && !x.handler then x.lclock + 1 else x.lclock,
           yielded := if i.yd = 1 then lowSlice i.slices :: x.yielded.filter (· != lowSlice i.slices)
                      else x.yielded.filter (· != lowSlice i.slices) }

theorem retire_of (i : Issue) (s : State) (n : Nat) (x : Snd) (h : s.snd? i.ctx i.core i.slot = some x) :
    i.retire s n = { s.putSnd i.ctx i.core i.slot (i.retired n x) with freeCtr := s.freeCtr + 1 } := by
  unfold retire
  dsimp only
  rw [State.modSnd_of _ _ h]
  rfl

/-- What a commit leaves. -/
theorem commit_same (i : Issue) (s : State) (rs : List (Nat × Nat)) (x : Snd) (h : s.snd? i.ctx i.core i.slot = some x) :
    SameElse s (i.commit s rs) i.ctx i.core i.slot ∧
    ∃ y, (i.commit s rs).snd? i.ctx i.core i.slot = some (i.retired 1 y) ∧
      SameRegs ((i.writeDst (rs.map (·.1)) x).raise (unionFlags i.mask rs)) y := by
  unfold commit
  dsimp only
  rw [State.modSnd_of _ _ h]
  generalize hz : (i.writeDst (rs.map (·.1)) x).raise (unionFlags i.mask rs) = z
  have e0 := SameElse.putSnd s i.ctx i.core i.slot z
  have h0 := State.snd?_putSnd_self s i.ctx i.core i.slot z
  split
  · rw [retire_of _ _ _ _ h0]
    exact ⟨e0.trans ⟨rfl, fun m hm => State.snd?_putSnd_slot _ _ hm, fun c' k' m hk => State.snd?_putSnd_home _ _ hk⟩, z,
      State.snd?_putSnd_self .., rfl⟩
  · obtain ⟨a, y, hy, hs⟩ := book_same i _ i.reusable (i.memoKey s []) (unionFlags i.mask rs) z h0
    rw [retire_of _ _ _ _ hy]
    exact ⟨(e0.trans a).trans ⟨rfl, fun m hm => State.snd?_putSnd_slot _ _ hm, fun c' k' m hk => State.snd?_putSnd_home _ _ hk⟩, y,
      State.snd?_putSnd_self .., hs⟩

/-! ## The destination -/

theorem vreg_setV (x : Snd) (n m : Nat) (v : LaneVec) : (x.setV n v).vreg m = if m = n then v else x.vreg m := by
  unfold Snd.setV Snd.vreg
  by_cases h : m = n
  · subst h; simp
  · simp [h, Tbl.getOr_setOr_ne _ _ _ h]

/-- A lane of a name once a name has been written under a mask. -/
theorem vreg_writeName (x : Snd) (p : Option Nat) (n : Nat) (mask : Bits96) (vals : List Nat) (m l : Nat) (hl : l < 96) :
    ((writeName x p n mask vals).vreg m).getD l 0 =
      if m = n ∧ mask.getLsbD l = true then BitVec.ofNat 32 (vals.getD l 0) else (x.vreg m).getD l 0 := by
  have hv : ∀ (z : Snd) (fl : Tbl Fill) (v : LaneVec), ({ z.setV n v with fills := fl } : Snd).vreg m = (z.setV n v).vreg m :=
    fun _ _ _ => rfl
  have key : (writeName x p n mask vals).vreg m = if m = n then
      (List.range 96).map (fun l => if mask.getLsbD l then BitVec.ofNat 32 (vals.getD l 0) else (x.vreg n).getD l 0)
      else x.vreg m := by
    unfold writeName
    cases p
    · exact (hv _ _ _).trans (vreg_setV ..)
    · exact (hv _ _ _).trans ((vreg_setV ..).trans rfl)
  rw [key]
  by_cases h : m = n
  · subst h
    simp [List.getD_eq_getElem?_getD, hl]
  · simp [h]

/-- A write of a name touches only its lanes, what was remembered of them and its fills. -/
theorem writeName_same (x : Snd) (p : Option Nat) (n : Nat) (mask : Bits96) (vals : List Nat) :
    writeName x p n mask vals = { x with v := (writeName x p n mask vals).v, past := (writeName x p n mask vals).past,
                                         fills := (writeName x p n mask vals).fills } := by
  unfold writeName
  cases p <;> rfl

end Issue

end Sys2Proof.Machine
end

