-- ==== Sys2Proof/Laws/Access.lean ====
section
/-! SUPPORT. What the issue of a lane memory instruction can do: it only retires, traps, waits, or takes one entry of the
operand log and marks its destination empty. -/

namespace Sys2Proof

namespace Tbl

theorem find_mapV {α : Type} (f : Nat → α → α) (t : Tbl α) (k : Nat) : (t.mapV f).find k = (t.find k).map (f k) := by
  induction t with
  | nil => rfl
  | cons e r ih =>
    obtain ⟨j, b⟩ := e
    simp only [mapV, find]
    split
    · next h => subst h; rfl
    · exact ih

theorem mem_of_find {α : Type} (t : Tbl α) (k : Nat) (a : α) (h : t.find k = some a) : (k, a) ∈ t := by
  induction t with
  | nil => cases h
  | cons e r ih =>
    obtain ⟨j, b⟩ := e
    simp only [find] at h
    split at h
    · next hj => cases h; subst hj; exact List.mem_cons_self ..
    · exact List.mem_cons_of_mem _ (ih h)

end Tbl

namespace Machine

/-- Nothing of a sounder but its fills, their numbers, its bindings and what is remembered of its names differs. -/
def SameButFills (x y : Snd) : Prop := y = { x with fills := y.fills, nextFill := y.nextFill, bound := y.bound, past := y.past }

theorem SameButFills.trans {x y z : Snd} (a : SameButFills x y) (b : SameButFills y z) : SameButFills x z := by
  unfold SameButFills at *
  rw [b, a]

/-- A fill for a name with lanes to bring. -/
def Snd.filling (x : Snd) (n : Nat) : Prop := ∃ k f, x.fills.find k = some f ∧ f.name = n ∧ f.keep ≠ []

theorem Snd.filling_isEmpty {x : Snd} {n : Nat} (h : x.filling n) : x.isEmpty n = true := by
  obtain ⟨k, f, hf, hn, hk⟩ := h
  unfold Snd.isEmpty
  rw [List.any_eq_true]
  refine ⟨(k, f), Tbl.mem_of_find _ _ _ hf, ?_⟩
  simp [hn, hk]

theorem openFill_same (s : State) (c k j n : Nat) (hi : Bool) (lanes : List Nat) (eng hand : Bool) (m : Option Memo) (sh : Bool)
    (x : Snd) (h : s.snd? c k j = some x) (hl : lanes ≠ []) :
    SameElse s (Issue.openFill s c k j n hi lanes eng hand m sh).1 c k j ∧
    ∃ y, (Issue.openFill s c k j n hi lanes eng hand m sh).1.snd? c k j = some y ∧ SameButFills x y ∧
      (∃ q f, q < y.nextFill ∧ y.fills.find q = some f ∧ f.name = n ∧ f.keep ≠ []) ∧ y.nextFill = x.nextFill + 1 ∧
      ∀ n', n' ≠ n → (∃ q f, q < x.nextFill ∧ x.fills.find q = some f ∧ f.name = n' ∧ f.keep ≠ []) →
        ∃ q f, q < y.nextFill ∧ y.fills.find q = some f ∧ f.name = n' ∧ f.keep ≠ [] := by
  have h1 : (Issue.freshPhys s c k).1.snd? c k j = some x := h
  simp only [Issue.openFill, h1]
  refine ⟨(SameElse.fresh ..).trans (SameElse.putSnd ..), _, State.snd?_putSnd_self .., ?_, ?_, ?_, ?_⟩
  · unfold SameButFills; rfl
  · exact ⟨x.nextFill, _, Nat.lt_succ_self _, Tbl.find_put_self .., rfl, hl⟩
  · rfl
  · rintro n' hn ⟨q, f, hq, hf, hfn, hk⟩
    refine ⟨q, f, by dsimp only; omega, ?_, hfn, hk⟩
    dsimp only
    rw [Tbl.find_put_ne _ _ (by omega), Tbl.find_mapV, hf]
    simp only [Option.map_some]
    rw [if_neg (by rw [hfn]; exact hn)]

namespace Issue

theorem lanes_ne_nil (i : Issue) (h : i.mask ≠ 0) : i.lanes ≠ [] := by
  intro hn
  apply h
  apply BitVec.eq_of_getLsbD_eq
  intro l hl
  have := List.filter_eq_nil_iff.mp hn l (List.mem_range.mpr hl)
  simpa using this

/-- The fill of one destination name, as startFills makes them in turn. -/
def fillStep (i : Issue) (m : Option Memo) (sh : Bool) (a : State × List Nat) (e : Nat × Nat) : State × List Nat :=
  ((openFill a.1 i.ctx i.core i.slot e.1 (e.2 == 1) i.lanes false i.x.handler m sh).1,
   a.2 ++ [(openFill a.1 i.ctx i.core i.slot e.1 (e.2 == 1) i.lanes false i.x.handler m sh).2])

theorem startFills_eq (i : Issue) (s : State) (memo : Option (List Nat)) :
    ∃ m sh, i.startFills s memo = i.dstNames.zipIdx.foldl (i.fillStep m sh) (s, []) := ⟨_, _, rfl⟩

/-- Starting the fills of an access. -/
theorem startFills_same (i : Issue) (s : State) (memo : Option (List Nat)) (x : Snd)
    (h : s.snd? i.ctx i.core i.slot = some x) (hm : i.mask ≠ 0) :
    SameElse s (i.startFills s memo).1 i.ctx i.core i.slot ∧
    ∃ y, (i.startFills s memo).1.snd? i.ctx i.core i.slot = some y ∧ SameButFills x y ∧
      ∀ n ∈ i.dstNames, y.isEmpty n = true := by
  have hl := i.lanes_ne_nil hm
  obtain ⟨m, sh, he⟩ := startFills_eq i s memo
  rw [he]
  have hd : i.dstNames = [i.dst] ∨ i.dstNames = [i.dst, i.dst + 1] ∨ i.dstNames = [] := by
    unfold dstNames; split <;> simp
  rcases hd with hd | hd | hd
  · rw [hd]
    obtain ⟨a, y, hy, hs, hf, _⟩ := openFill_same s i.ctx i.core i.slot i.dst (0 == 1) i.lanes false i.x.handler m sh x h hl
    obtain ⟨q, f, _, h3⟩ := hf
    exact ⟨a, y, hy, hs, by simpa using Snd.filling_isEmpty ⟨q, f, h3⟩⟩
  · rw [hd]
    obtain ⟨a, y, hy, hs, hf, hn, _⟩ := openFill_same s i.ctx i.core i.slot i.dst (0 == 1) i.lanes false i.x.handler m sh x h hl
    obtain ⟨a2, y2, hy2, hs2, hf2, hn2, ho⟩ := openFill_same _ i.ctx i.core i.slot (i.dst + 1) (1 == 1) i.lanes false i.x.handler m sh y hy hl
    refine ⟨a.trans a2, y2, hy2, hs.trans hs2, ?_⟩
    intro n hn'
    simp only [List.mem_cons, List.not_mem_nil, or_false] at hn'
    rcases hn' with rfl | rfl
    · obtain ⟨q, f, hq, hqf⟩ := hf
      obtain ⟨q', f', _, h3⟩ := ho i.dst (by omega) ⟨q, f, by omega, hqf⟩
      exact Snd.filling_isEmpty ⟨q', f', h3⟩
    · obtain ⟨q, f, _, h3⟩ := hf2
      exact Snd.filling_isEmpty ⟨q, f, h3⟩
  · rw [hd]
    exact ⟨SameElse.refl .., x, h, rfl, by simp⟩

/-- The issue of an access that passes takes its log entry, marks its destination empty and retires. -/
theorem access_logs (i : Issue) (s : State) (q : Ask) (data new : Nat → Nat) (row : List Byte) (k : Nat)
    (h : s.snd? i.ctx i.core i.slot = some i.x) (p : i.Passes s q k) (n : i.Fetches s q) :
    ∃ t y e fills, i.access s q data new row = t ∧ SameElse s t i.ctx i.core i.slot ∧
      t.snd? i.ctx i.core i.slot = some y ∧ e = i.entryOf s q (i.srcA s) data new fills row ∧
      (∀ n ∈ i.dstNames, y.isEmpty n = true) ∧
      y = { i.x with fills := y.fills, nextFill := y.nextFill, bound := y.bound, past := y.past, rlook := y.rlook, rsatur := y.rsatur,
                     oplog := i.x.oplog.put k e, seq := i.x.seq + 1, probed := i.others i.x,
                     slices := i.x.slices.mapV (fun k sl => if sliceBit i.slices k then { sl with pc := sl.pc + 1 } else sl),
                     lclock := y.lclock, yielded := y.yielded } := by
  have key : ∃ m dl dsat, i.access s q data new row = i.retire (i.logEntry
      ((i.startFills s m).1.modSnd i.ctx i.core i.slot (fun x => { x with rlook := x.rlook + dl, rsatur := x.rsatur + dsat })) k
      (i.entryOf s q (i.srcA s) data new (i.startFills s m).2 row)) := by
    unfold access
    dsimp only
    rw [if_neg p.some_, if_neg (by rw [p.calm]; simp), p.fresh]
    have hf : i.accessLanes.find? (fun l => (i.failCheck s q ((i.srcA s).getD l 0)).isSome) = none := by
      rw [List.find?_eq_none]
      intro l hl
      rw [p.ok l hl]
      decide
    rw [if_neg (by simp), hf]
    dsimp only
    have hr := p.room
    have hfree := p.free
    have hn := n
    unfold Fetches at hn
    generalize (if q.kind = .load then i.loadKey s (i.srcA s) else none) = extra at *
    cases hx : i.loadLookup s (i.srcA s) extra with
    | hit m => exact absurd hx (hn m)
    | off => dsimp only; rw [if_neg (by simp [hr]), hfree]; exact ⟨extra.map (fun _ => i.memoKey s (extra.getD [])), 0, 0, rfl⟩
    | miss => dsimp only; rw [if_neg (by simp [hr]), hfree]; exact ⟨extra.map (fun _ => i.memoKey s (extra.getD [])), 1, 0, rfl⟩
    | saturated => dsimp only; rw [if_neg (by simp [hr]), hfree]; exact ⟨extra.map (fun _ => i.memoKey s (extra.getD [])), 1, 1, rfl⟩
  obtain ⟨m, dl, dsat, he⟩ := key
  obtain ⟨a, y, hy, hs, hd⟩ := i.startFills_same s m i.x h p.some_
  rw [he]
  generalize i.startFills s m = w at *
  rw [State.modSnd_of _ _ hy, logEntry, State.modSnd_of _ _ (State.snd?_putSnd_self ..), retire_of _ _ _ _ (State.snd?_putSnd_self ..)]
  refine ⟨_, _, _, w.2, rfl, a.trans ⟨rfl, fun m hm => ?_, fun c' k' m hk => ?_⟩, State.snd?_putSnd_self .., rfl, ?_, ?_⟩
  · refine (State.snd?_putSnd_slot _ _ hm).trans ((State.snd?_putSnd_slot _ _ hm).trans (State.snd?_putSnd_slot _ _ hm))
  · refine (State.snd?_putSnd_home _ _ hk).trans ((State.snd?_putSnd_home _ _ hk).trans (State.snd?_putSnd_home _ _ hk))
  · exact hd
  · unfold SameButFills at hs
    rw [hs]
    rfl

end Issue

end Machine

end Sys2Proof
end

