-- ==== Sys2Proof/Laws/Encoding.lean ====
section
/-! SUPPORT. The round trip of a word by shape: for each word format, what an encoder of that shape owes so that decoding
its bytes gives the instruction back. Laws/PerInstr.lean applies them constructor by constructor. -/

namespace Sys2Proof.Laws

/-- Little-endian bytes give back the value below their number of bits (R10). -/
theorem leNat_leBytes (n v : Nat) : leNat (leBytes n v) = v % 256 ^ n := by
  induction n generalizing v with
  | zero => simp [leBytes, leNat, Nat.mod_one]
  | succ n ih =>
    have h : 256 ^ (n + 1) = 256 * 256 ^ n := by rw [Nat.pow_succ, Nat.mul_comm]
    have e : (BitVec.ofNat 8 v).toNat = v % 256 := by simp
    simp only [leBytes, leNat, ih, h, e]
    rw [Nat.mod_mul]

theorem length_leBytes (n v : Nat) : (leBytes n v).length = n := by
  induction n generalizing v with
  | zero => rfl
  | succ n ih => simp [leBytes, ih]

theorem take_leBytes (n v : Nat) : (leBytes n v).take n = leBytes n v :=
  List.take_of_length_le (by simp [length_leBytes])

/-- A field of `n` bits read from a number. -/
theorem field_of {n : Nat} (x : BitVec n) (m : Nat) (h : m % 2 ^ n = x.toNat) : BitVec.ofNat n m = x :=
  BitVec.eq_of_toNat_eq (by simpa using h)

/-- What the round trip says of one instruction: its bytes decode to it. -/
def Roundtrips (i : Instr) : Prop :=
  wellFormed i = true → i.stream ≠ .event → decode i.stream (encode i) = .ok i

theorem roundtrips_event {i : Instr} (h : i.stream = .event) : Roundtrips i := fun _ n => absurd h n

theorem roundtrips_scalar {i : Instr} (hs : i.stream = .scalar) (hl : scalarNat i < 2 ^ 32)
    (hc : scalarCand (scalarNat i) = .ok i) : Roundtrips i := by
  intro hw _
  have hc' : sysregCause i = none := by
    simp only [wellFormed, wordCause, hs, Bool.and_eq_true, beq_iff_eq] at hw
    exact hw.1
  have e : (BitVec.ofNat 32 (leNat ((leBytes 4 (scalarNat i)).take 4))).toNat = scalarNat i := by
    rw [take_leBytes, leNat_leBytes, BitVec.toNat_ofNat]; omega
  rw [encode, wordOf, hs]
  show decodeScalar (BitVec.ofNat 32 (leNat ((leBytes 4 (scalarNat i)).take 4))) = _
  simp only [decodeScalar, e, hc, hc', if_true]

/-- Formats with three register fields (SR, R55). -/
theorem roundtrips_s3 (mk : BitVec 6 → BitVec 6 → BitVec 6 → Instr) (maj f : Nat) (hm : maj < 64) (hf : f < 256)
    (hs : ∀ d a b, (mk d a b).stream = .scalar)
    (hn : ∀ d a b, scalarNat (mk d a b) = sw3 20 14 8 (maj * 2 ^ 26 + f) d.toNat a.toNat b.toNat)
    (hc : ∀ w, w / 2 ^ 26 % 64 = maj → w % 256 = f → scalarCand w =
      .ok (mk (BitVec.ofNat 6 (w / 2 ^ 20)) (BitVec.ofNat 6 (w / 2 ^ 14)) (BitVec.ofNat 6 (w / 2 ^ 8))))
    (d a b : BitVec 6) : Roundtrips (mk d a b) := by
  have h1 := d.isLt; have h2 := a.isLt; have h3 := b.isLt
  have e := hn d a b
  simp only [sw3] at e
  refine roundtrips_scalar (hs d a b) (by omega) ?_
  rw [hc _ (by omega) (by omega), field_of d, field_of a, field_of b] <;> omega

/-- Two register fields at bits `p` and `q`. -/
theorem roundtrips_s2 (mk : BitVec 6 → BitVec 6 → Instr) (p q maj f : Nat) (hm : maj < 64) (hf : f < 256)
    (hpq : (p = 20 ∧ q = 14) ∨ (p = 14 ∧ q = 8))
    (hs : ∀ d a, (mk d a).stream = .scalar)
    (hn : ∀ d a, scalarNat (mk d a) = sw2 p q (maj * 2 ^ 26 + f) d.toNat a.toNat)
    (hc : ∀ w, w / 2 ^ 26 % 64 = maj → w % 256 = f → scalarCand w =
      .ok (mk (BitVec.ofNat 6 (w / 2 ^ p)) (BitVec.ofNat 6 (w / 2 ^ q))))
    (d a : BitVec 6) : Roundtrips (mk d a) := by
  have h1 := d.isLt; have h2 := a.isLt
  have e := hn d a
  simp only [sw2] at e
  obtain ⟨rfl, rfl⟩ | ⟨rfl, rfl⟩ := hpq
  all_goals
    refine roundtrips_scalar (hs d a) (by omega) ?_
    rw [hc _ (by omega) (by omega), field_of d, field_of a] <;> omega

/-- One register field at bit `p`. -/
theorem roundtrips_s1 (mk : BitVec 6 → Instr) (p maj f : Nat) (hm : maj < 64) (hf : f < 256) (hp : p = 20 ∨ p = 14)
    (hs : ∀ d, (mk d).stream = .scalar)
    (hn : ∀ d, scalarNat (mk d) = sw1 p (maj * 2 ^ 26 + f) d.toNat)
    (hc : ∀ w, w / 2 ^ 26 % 64 = maj → w % 256 = f → scalarCand w = .ok (mk (BitVec.ofNat 6 (w / 2 ^ p))))
    (d : BitVec 6) : Roundtrips (mk d) := by
  have h1 := d.isLt
  have e := hn d
  simp only [sw1] at e
  obtain rfl | rfl := hp
  all_goals
    refine roundtrips_scalar (hs d) (by omega) ?_
    rw [hc _ (by omega) (by omega), field_of d] ; omega

/-- No field at all. -/
theorem roundtrips_s0 (i : Instr) (m : Nat) (hs : i.stream = .scalar) (hn : scalarNat i = m) (hm : m < 2 ^ 32)
    (hc : scalarCand m = .ok i) : Roundtrips i :=
  roundtrips_scalar hs (by omega) (by rw [hn]; exact hc)

/-- Two registers and a 14-bit immediate (SI, R55). -/
theorem roundtrips_si (mk : BitVec 6 → BitVec 6 → BitVec 14 → Instr) (maj : Nat) (hm : maj < 64)
    (hs : ∀ d a i, (mk d a i).stream = .scalar)
    (hn : ∀ d a i, scalarNat (mk d a i) = sw3 20 14 0 (maj * 2 ^ 26) d.toNat a.toNat i.toNat)
    (hc : ∀ w, w / 2 ^ 26 % 64 = maj → scalarCand w =
      .ok (mk (BitVec.ofNat 6 (w / 2 ^ 20)) (BitVec.ofNat 6 (w / 2 ^ 14)) (BitVec.ofNat 14 (w / 2 ^ 0))))
    (d a : BitVec 6) (i : BitVec 14) : Roundtrips (mk d a i) := by
  have h1 := d.isLt; have h2 := a.isLt; have h3 := i.isLt
  have e := hn d a i
  simp only [sw3] at e
  refine roundtrips_scalar (hs d a i) (by omega) ?_
  rw [hc _ (by omega), field_of d, field_of a, field_of i] <;> omega

/-! ## Lane words -/

theorem laneRof_of (maj min : Nat) (f : LaneR) : laneRof (maj * 2 ^ 88 + min * 2 ^ 80 + f.nat) = f := by
  obtain ⟨dst, a, b, c, d, g1, g2, fe, hint, yd, nr, rsv, rnd, ty⟩ := f
  have := dst.isLt; have := a.isLt; have := b.isLt; have := c.isLt; have := d.isLt; have := g1.isLt
  have := g2.isLt; have := fe.isLt; have := hint.isLt; have := yd.isLt; have := nr.isLt; have := rsv.isLt
  have := rnd.isLt; have := ty.isLt
  simp only [laneRof, LaneR.nat]
  congr 1 <;> (apply field_of; omega)

theorem laneIof_of (maj min : Nat) (f : LaneI) : laneIof (maj * 2 ^ 88 + min * 2 ^ 80 + f.nat) = f := by
  obtain ⟨dst, a, b, g1, g2, imm, fe, hint, yd, nr, rsv, rnd, ty⟩ := f
  have := dst.isLt; have := a.isLt; have := b.isLt; have := g1.isLt
  have := g2.isLt; have := imm.isLt; have := fe.isLt; have := hint.isLt; have := yd.isLt; have := nr.isLt
  have := rsv.isLt; have := rnd.isLt; have := ty.isLt
  simp only [laneIof, LaneI.nat]
  congr 1 <;> (apply field_of; omega)

theorem LaneR.nat_lt (f : LaneR) : f.nat < 2 ^ 80 := by
  obtain ⟨dst, a, b, c, d, g1, g2, fe, hint, yd, nr, rsv, rnd, ty⟩ := f
  have := dst.isLt; have := a.isLt; have := b.isLt; have := c.isLt; have := d.isLt; have := g1.isLt
  have := g2.isLt; have := fe.isLt; have := hint.isLt; have := yd.isLt; have := nr.isLt; have := rsv.isLt
  have := rnd.isLt; have := ty.isLt
  simp only [LaneR.nat]; omega

theorem LaneI.nat_lt (f : LaneI) : f.nat < 2 ^ 80 := by
  obtain ⟨dst, a, b, g1, g2, imm, fe, hint, yd, nr, rsv, rnd, ty⟩ := f
  have := dst.isLt; have := a.isLt; have := b.isLt; have := g1.isLt
  have := g2.isLt; have := imm.isLt; have := fe.isLt; have := hint.isLt; have := yd.isLt; have := nr.isLt
  have := rsv.isLt; have := rnd.isLt; have := ty.isLt
  simp only [LaneI.nat]; omega

theorem LaneBody.nat_lt (b : LaneBody) : b.nat < 2 ^ 80 := by
  cases b with
  | r f => exact LaneR.nat_lt f
  | i f => exact LaneI.nat_lt f

theorem roundtrips_lane {i : Instr} (maj min : Nat) (b : LaneBody) (hs : i.stream = .lane) (hm : maj < 256)
    (hn : min < 256) (hh : laneHead i = some (maj, min, b))
    (hc : wellFormed i = true → laneCand maj min (laneRof (maj * 2 ^ 88 + min * 2 ^ 80 + b.nat))
      (laneIof (maj * 2 ^ 88 + min * 2 ^ 80 + b.nat)) = .ok i) : Roundtrips i := by
  intro hw _
  have hb := LaneBody.nat_lt b
  have hl : laneNat i = maj * 2 ^ 88 + min * 2 ^ 80 + b.nat := by simp only [laneNat, hh]
  have hi : laneIllegal (BitVec.ofNat 96 (laneNat i)) 640 0 = none := by
    simp only [wellFormed, wordCause, hs, Bool.and_eq_true, beq_iff_eq] at hw
    exact hw.1
  have e : BitVec.ofNat 96 (leNat ((leBytes 12 (laneNat i)).take 12)) = BitVec.ofNat 96 (laneNat i) := by
    rw [take_leBytes, leNat_leBytes]
    apply BitVec.eq_of_toNat_eq
    simp only [BitVec.toNat_ofNat]; omega
  have t : (BitVec.ofNat 96 (laneNat i)).toNat = maj * 2 ^ 88 + min * 2 ^ 80 + b.nat := by
    rw [BitVec.toNat_ofNat, hl]; omega
  rw [encode, wordOf, hs]
  show decodeLane (BitVec.ofNat 96 (leNat ((leBytes 12 (laneNat i)).take 12))) = _
  rw [e, decodeLane, hi]
  simp only [laneWordCand, t]
  have m1 : (maj * 2 ^ 88 + min * 2 ^ 80 + b.nat) / 2 ^ 88 = maj := by omega
  have m2 : (maj * 2 ^ 88 + min * 2 ^ 80 + b.nat) / 2 ^ 80 % 256 = min := by omega
  rw [m1, m2]
  exact hc hw

/-- A lane instruction of layout R with a fixed minor. -/
theorem roundtrips_r (mk : LaneR → Instr) (maj min : Nat) (hm : maj < 256) (hn : min < 256)
    (hs : ∀ f, (mk f).stream = .lane) (hh : ∀ f, laneHead (mk f) = some (maj, min, .r f))
    (hc : ∀ f g, laneCand maj min f g = .ok (mk f)) (f : LaneR) : Roundtrips (mk f) :=
  roundtrips_lane maj min (.r f) (hs f) hm hn (hh f) fun _ => by
    rw [show (LaneBody.r f).nat = f.nat from rfl, laneRof_of]; exact hc f _

/-- A lane instruction of layout I with a fixed minor. -/
theorem roundtrips_i (mk : LaneI → Instr) (maj min : Nat) (hm : maj < 256) (hn : min < 256)
    (hs : ∀ f, (mk f).stream = .lane) (hh : ∀ f, laneHead (mk f) = some (maj, min, .i f))
    (hc : ∀ f g, laneCand maj min f g = .ok (mk g)) (f : LaneI) : Roundtrips (mk f) :=
  roundtrips_lane maj min (.i f) (hs f) hm hn (hh f) fun _ => by
    rw [show (LaneBody.i f).nat = f.nat from rfl, laneIof_of]; exact hc _ f

/-- An atomic: its scope is MINOR[5:4] (R171). -/
theorem roundtrips_atomic (mk : BitVec 2 → LaneI → Instr) (k : Nat) (hk : k < 16)
    (hs : ∀ x f, (mk x f).stream = .lane)
    (hh : ∀ x f, laneHead (mk x f) = some (0x22, x.toNat * 16 + k, .i f))
    (hc : ∀ min f g, ¬ 3 ≤ min / 16 → min % 16 = k → laneCand 0x22 min f g = .ok (mk (BitVec.ofNat 2 (min / 16)) g))
    (x : BitVec 2) (f : LaneI) : Roundtrips (mk x f) := by
  have hx := x.isLt
  refine roundtrips_lane 0x22 (x.toNat * 16 + k) (.i f) (hs x f) (by omega) (by omega) (hh x f) ?_
  intro hw
  rw [show (LaneBody.i f).nat = f.nat from rfl, laneIof_of]
  by_cases h3 : x.toNat = 3
  · exfalso
    have hi : laneIllegal (BitVec.ofNat 96 (laneNat (mk x f))) 640 0 = none := by
      simp only [wellFormed, wordCause, hs, Bool.and_eq_true, beq_iff_eq] at hw
      exact hw.1
    have hf := LaneI.nat_lt f
    have t : (BitVec.ofNat 96 (laneNat (mk x f))).toNat = 0x22 * 2 ^ 88 + (x.toNat * 16 + k) * 2 ^ 80 + f.nat := by
      rw [BitVec.toNat_ofNat, laneNat, hh]; simp only [LaneBody.nat]; omega
    have m1 : (0x22 * 2 ^ 88 + (x.toNat * 16 + k) * 2 ^ 80 + f.nat) / 2 ^ 88 = 0x22 := by omega
    have m2 : (0x22 * 2 ^ 88 + (x.toNat * 16 + k) * 2 ^ 80 + f.nat) / 2 ^ 80 % 256 = 48 + k := by omega
    have hz : ∀ t imm, laneSpec 0x22 (48 + k) t imm = none := by
      intro t imm; simp only [laneSpec]; rw [if_pos (by omega)]
    simp only [laneIllegal, t, m1, m2, hz, if_true] at hi
    simp [laneMajorOk] at hi
  · rw [hc _ _ f (by omega) (by omega), field_of x]; omega

/-! ## MCF words -/

theorem roundtrips_mcf {i : Instr} (hs : i.stream = .mcf) (hl : mcfNat i < 2 ^ 64)
    (hc : wellFormed i = true → mcfCand (mcfNat i) = some i) : Roundtrips i := by
  intro hw _
  have hi : mcfCause (mcfNat i) = none := by
    simp only [wellFormed, wordCause, hs, Bool.and_eq_true, beq_iff_eq] at hw
    exact hw.1
  have e : (BitVec.ofNat 64 (leNat ((leBytes 8 (mcfNat i)).take 8))).toNat = mcfNat i := by
    rw [take_leBytes, leNat_leBytes, BitVec.toNat_ofNat]; omega
  rw [encode, wordOf, hs]
  show decodeMcf (BitVec.ofNat 64 (leNat ((leBytes 8 (mcfNat i)).take 8))) = _
  simp only [decodeMcf, e, hi, hc hw]

end Sys2Proof.Laws
end

