-- ==== Sys2Proof/Laws/Memory.lean ====
section
/-! SUPPORT. Every memory operation keeps the canonical form: addresses rise strictly and no listed byte is 0. -/

namespace Sys2Proof

namespace Tbl

/-- Every key of a table lies above `k`. -/
def above {α : Type} (k : Nat) (t : Tbl α) : Prop := ∀ e ∈ t, k < e.1

theorem sorted_cons {α : Type} (j : Nat) (b : α) (t : Tbl α) :
    sorted ((j, b) :: t) = true ↔ above j t ∧ sorted t = true := by
  induction t generalizing j b with
  | nil => simp [sorted, above]
  | cons e r ih =>
    obtain ⟨k, a⟩ := e
    simp only [sorted, Bool.and_eq_true, decide_eq_true_eq, ih k a]
    constructor
    · rintro ⟨h1, h2, h3⟩
      refine ⟨?_, h2, h3⟩
      intro e he
      rcases List.mem_cons.1 he with rfl | he
      · exact h1
      · exact Nat.lt_trans h1 (h2 e he)
    · rintro ⟨h1, h2, h3⟩
      exact ⟨h1 (k, a) (List.mem_cons_self ..), h2, h3⟩

theorem mem_put {α : Type} (t : Tbl α) (k : Nat) (a : α) (e : Nat × α) (h : e ∈ t.put k a) : e = (k, a) ∨ e ∈ t := by
  induction t with
  | nil => exact .inl (by simpa [put] using h)
  | cons p r ih =>
    obtain ⟨j, b⟩ := p
    unfold put at h
    split at h
    · simpa using h
    · split at h
      · rcases List.mem_cons.1 h with h | h
        · exact .inl h
        · exact .inr (List.mem_cons_of_mem _ h)
      · rcases List.mem_cons.1 h with h | h
        · exact .inr (h ▸ List.mem_cons_self ..)
        · exact (ih h).imp id (List.mem_cons_of_mem _)

theorem mem_del {α : Type} (t : Tbl α) (k : Nat) (e : Nat × α) (h : e ∈ t.del k) : e ∈ t := by
  induction t with
  | nil => simp [del] at h
  | cons p r ih =>
    obtain ⟨j, b⟩ := p
    unfold del at h
    split at h
    · exact List.mem_cons_of_mem _ (ih h)
    · rcases List.mem_cons.1 h with h | h
      · exact h ▸ List.mem_cons_self ..
      · exact List.mem_cons_of_mem _ (ih h)

theorem sorted_put {α : Type} (t : Tbl α) (k : Nat) (a : α) (h : sorted t = true) : sorted (t.put k a) = true := by
  induction t with
  | nil => rfl
  | cons p r ih =>
    obtain ⟨j, b⟩ := p
    have hs := (sorted_cons j b r).1 h
    unfold put
    split
    · rename_i hk
      exact (sorted_cons ..).2 ⟨fun e he => by
        rcases List.mem_cons.1 he with rfl | he
        · exact hk
        · exact Nat.lt_trans hk (hs.1 e he), h⟩
    · split
      · rename_i hk
        subst hk
        exact (sorted_cons ..).2 hs
      · rename_i h1 h2
        refine (sorted_cons ..).2 ⟨fun e he => ?_, ih hs.2⟩
        rcases mem_put r k a e he with rfl | he
        · show j < k
          omega
        · exact hs.1 e he

theorem sorted_del {α : Type} (t : Tbl α) (k : Nat) (h : sorted t = true) : sorted (t.del k) = true := by
  induction t with
  | nil => rfl
  | cons p r ih =>
    obtain ⟨j, b⟩ := p
    have hs := (sorted_cons j b r).1 h
    unfold del
    split
    · exact ih hs.2
    · exact (sorted_cons ..).2 ⟨fun e he => hs.1 e (mem_del r k e he), ih hs.2⟩

theorem sorted_filter {α : Type} (t : Tbl α) (p : Nat × α → Bool) (h : sorted t = true) : sorted (t.filter p) = true := by
  induction t with
  | nil => rfl
  | cons q r ih =>
    obtain ⟨j, b⟩ := q
    have hs := (sorted_cons j b r).1 h
    rw [List.filter_cons]
    split
    · exact (sorted_cons ..).2 ⟨fun e he => hs.1 e (List.mem_filter.1 he).1, ih hs.2⟩
    · exact ih hs.2

end Tbl

namespace Machine

namespace Memory

theorem wf_iff (t : Tbl Byte) : Memory.wf t = true ↔ t.sorted = true ∧ ∀ e ∈ t, e.2 ≠ 0 := by
  simp [Memory.wf, Bool.and_eq_true, List.all_eq_true]

/-- Writing one byte. -/
theorem wf_setOr (t : Tbl Byte) (a : Nat) (b : Byte) (h : Memory.wf t = true) : Memory.wf (t.setOr 0 a b) = true := by
  rw [wf_iff] at h ⊢
  unfold Tbl.setOr
  split
  · exact ⟨Tbl.sorted_del _ _ h.1, fun e he => h.2 e (Tbl.mem_del _ _ _ he)⟩
  · rename_i hb
    refine ⟨Tbl.sorted_put _ _ _ h.1, fun e he => ?_⟩
    rcases Tbl.mem_put _ _ _ _ he with rfl | he
    · exact hb
    · exact h.2 e he

/-- Making bytes read 0. -/
theorem wf_filter (t : Tbl Byte) (p : Nat × Byte → Bool) (h : Memory.wf t = true) : Memory.wf (t.filter p) = true := by
  rw [wf_iff] at h ⊢
  exact ⟨Tbl.sorted_filter _ _ h.1, fun e he => h.2 e (List.mem_filter.1 he).1⟩

end Memory

namespace State

/-- A transition that keeps the memories, byte for byte, keeps them in canonical form. -/
theorem memOk_of_eq {s t : State} (h : s.MemOk) (h1 : t.pmem = s.pmem) (h2 : t.hmem = s.hmem) (h3 : t.smem = s.smem) : t.MemOk := by
  rw [MemOk, h1, h2, h3]; exact h

theorem memOk_writePA (s : State) (a : Nat) (b : Byte) (h : s.MemOk) : (s.writePA a b).MemOk :=
  ⟨Memory.wf_setOr _ _ _ h.1, h.2⟩

theorem memOk_writeBytes (s : State) (a : Nat) (bs : List Byte) (h : s.MemOk) : (s.writeBytes a bs).MemOk := by
  induction bs generalizing s a with
  | nil => exact h
  | cons b r ih => exact ih _ _ (memOk_writePA s a b h)

theorem memOk_cleanLines (s : State) (a n : Nat) (h : s.MemOk) : (s.cleanLines a n).MemOk := h

theorem memOk_writeHost (s : State) (a : Nat) (bs : List Byte) (h : s.MemOk) : (s.writeHost a bs).MemOk := by
  induction bs generalizing s a with
  | nil => exact h
  | cons b r ih => exact ih _ _ ⟨h.1, Memory.wf_setOr _ _ _ h.2.1, h.2.2⟩

/-- Bytes at places of a memory, one after another. -/
theorem wf_places (l : List (Byte × Nat)) (a : Nat) (m : Tbl Byte) (h : Memory.wf m = true) :
    Memory.wf (l.foldl (fun t (b, i) => t.setOr 0 (a + i) b) m) = true := by
  induction l generalizing m with
  | nil => exact h
  | cons e r ih => exact ih _ (Memory.wf_setOr _ _ _ h)

/-- A fold of transitions that keep the memories canonical keeps them canonical. -/
theorem memOk_foldl {α : Type} (f : State → α → State) (hf : ∀ s a, s.MemOk → (f s a).MemOk) (l : List α) (s : State)
    (h : s.MemOk) : (l.foldl f s).MemOk := by
  induction l generalizing s with
  | nil => exact h
  | cons a r ih => exact ih _ (hf s a h)

end State

open State

theorem memOk_zeroRange (s : State) (a n : Nat) (h : s.MemOk) : (zeroRange s a n).MemOk :=
  ⟨Memory.wf_filter _ _ h.1, h.2.1, Memory.wf_filter _ _ h.2.2⟩

theorem memOk_writeService (s : State) (a : Nat) (bs : List Byte) (h : s.MemOk) : (writeService s a bs).MemOk :=
  ⟨h.1, h.2.1, wf_places _ _ _ h.2.2⟩

theorem memOk_writeVirt (s : State) (ctx va : Nat) (bs : List Byte) (h : s.MemOk) : (writeVirt s ctx va bs).MemOk := by
  induction bs generalizing s va with
  | nil => exact h
  | cons b r ih =>
    unfold writeVirt
    split
    · exact ih _ _ (memOk_cleanLines _ _ _ (memOk_writePA s _ b h))
    · exact ih _ _ h

theorem memOk_putTrapq (s : State) (ctx : Nat) (c : Ctx) (q : TrapQueue) (h : s.MemOk) : (putTrapq s ctx c q).MemOk := by
  unfold putTrapq
  dsimp only
  split
  · exact h
  · exact memOk_writeService _ _ _ h

theorem memOk_writeSlot (s : State) (q : TrapQueue) (w : Nat) (h : s.MemOk) : (writeSlot s q w).MemOk := by
  unfold writeSlot
  split
  · exact h
  · exact memOk_writeService _ _ _ h

theorem memOk_putRecord (s t : State) (ctx : Nat) (r : RecHdr) (body : Nat) (h : s.MemOk) (ht : putRecord s ctx r body = some t) :
    t.MemOk := by
  unfold putRecord at ht
  dsimp only at ht
  split at ht
  · exact absurd ht (by simp)
  · split at ht
    · split at ht <;> cases ht
      · exact memOk_putTrapq _ _ _ _ (memOk_writeSlot _ _ _ h)
      · exact memOk_putTrapq _ _ _ _ h
    · split at ht
      · cases ht; exact memOk_putTrapq _ _ _ _ (memOk_writeSlot _ _ _ h)
      · exact absurd ht (by simp)

theorem memOk_noteRecord (s : State) (ctx : Nat) (r : RecHdr) (body : Nat) (h : s.MemOk) : (noteRecord s ctx r body).MemOk := by
  unfold noteRecord
  split
  · exact memOk_putRecord _ _ _ _ _ h ‹_›
  · split
    · exact memOk_putTrapq _ _ _ _ h
    · exact h

theorem memOk_rewriteRecs (s : State) (q : TrapQueue) (h : s.MemOk) : (rewriteRecs s q).MemOk := by
  unfold rewriteRecs
  split
  · exact h
  · exact memOk_foldl _ (fun s _ h => memOk_writeService s _ _ h) _ _ h

theorem memOk_noteLine (s : State) (ctx line wid : Nat) (h : s.MemOk) : (noteLine s ctx line wid).MemOk := by
  unfold noteLine
  repeat' first
    | exact h
    | exact memOk_noteRecord _ _ _ _ h
    | exact memOk_rewriteRecs _ _ h
    | split

theorem memOk_noteLines (ctx wid n : Nat) (s : State) (line : Nat) (h : s.MemOk) : (noteLines s ctx line wid n).MemOk := by
  induction n generalizing s line with
  | zero => exact h
  | succ n ih => exact ih _ _ (memOk_noteLine _ _ _ _ h)

/-- A store to physical memory under a writing identity. -/
theorem memOk_storeMem (s : State) (ctx pa wid : Nat) (bs : List Byte) (h : s.MemOk) : (storeMem s ctx pa wid bs).MemOk :=
  memOk_noteLines _ _ _ _ _ (memOk_cleanLines _ _ _ (memOk_writeBytes s pa bs h))

/-- The bytes that a store to a scratchpad leaves are canonical where they were. -/
theorem wf_writeSP_go (t : Tbl Byte) (a : Nat) (bs : List Byte) (h : Memory.wf t = true) :
    Memory.wf (writeSP.go t a bs) = true := by
  induction bs generalizing t a with
  | nil => exact h
  | cons b r ih => exact ih _ _ (Memory.wf_setOr _ _ _ h)

/-- A store to a scratchpad leaves both memories alone. -/
theorem memOk_writeSP (s : State) (ctx core a : Nat) (bs : List Byte) (h : s.MemOk) : (writeSP s ctx core a bs).MemOk := h

end Machine

end Sys2Proof
end

