-- ==== Sys2Proof/Laws/PerInstr.lean ====
section
/-! SUPPORT. The family RoundTrip: for every constructor of Instr, the bytes of its word decode to it. -/

namespace Sys2Proof.Laws.RoundTrip

open Sys2Proof Sys2Proof.Laws

/-- Decoding the bytes of a well-formed instruction gives the instruction back; an event has no bytes. -/
def Statement (i : Instr) : Prop := Roundtrips i

theorem ePackageReset : Statement .ePackageReset :=
  roundtrips_event rfl
theorem eLossOfPower (writing : Bool) : Statement (.eLossOfPower writing) :=
  roundtrips_event rfl
theorem eBringUpStepDone (d : StepDone) : Statement (.eBringUpStepDone d) :=
  roundtrips_event rfl
theorem eRecoveryImageTransfer (img : FwImage) : Statement (.eRecoveryImageTransfer img) :=
  roundtrips_event rfl
theorem eFirmwareStaging (img : FwImage) : Statement (.eFirmwareStaging img) :=
  roundtrips_event rfl
theorem eSecurityVersionAdvance : Statement .eSecurityVersionAdvance :=
  roundtrips_event rfl
theorem eDebugTokenUnlock (serial : Nat) (signed : Bool) : Statement (.eDebugTokenUnlock serial signed) :=
  roundtrips_event rfl
theorem eSetPcap (watts : Nat) : Statement (.eSetPcap watts) :=
  roundtrips_event rfl
theorem eTelemetryRead (bus : Nat) : Statement (.eTelemetryRead bus) :=
  roundtrips_event rfl
theorem eMctpControl (bus : Nat) (command : Nat) : Statement (.eMctpControl bus command) :=
  roundtrips_event rfl
theorem ePowerWindowExpiry (watts : Nat) : Statement (.ePowerWindowExpiry watts) :=
  roundtrips_event rfl
theorem eThermalGating (celsius : Nat) : Statement (.eThermalGating celsius) :=
  roundtrips_event rfl
theorem eThermalTrip (celsius : Nat) : Statement (.eThermalTrip celsius) :=
  roundtrips_event rfl
theorem eGetVersion (bus : Nat) : Statement (.eGetVersion bus) :=
  roundtrips_event rfl
theorem eGetCapabilities (bus : Nat) (version : Nat) : Statement (.eGetCapabilities bus version) :=
  roundtrips_event rfl
theorem eNegotiateAlgorithms (bus : Nat) (offered : Bool) : Statement (.eNegotiateAlgorithms bus offered) :=
  roundtrips_event rfl
theorem eGetDigests (bus : Nat) : Statement (.eGetDigests bus) :=
  roundtrips_event rfl
theorem eGetCertificate (bus : Nat) (off : Nat) (len : Nat) : Statement (.eGetCertificate bus off len) :=
  roundtrips_event rfl
theorem eChallenge (bus : Nat) (nonce : Nat) : Statement (.eChallenge bus nonce) :=
  roundtrips_event rfl
theorem eGetMeasurements (bus : Nat) (index : Nat) (nonce : Nat) : Statement (.eGetMeasurements bus index nonce) :=
  roundtrips_event rfl
theorem eKeyExchange (bus : Nat) (peer : Nat) (bothAuth : Bool) (link : Option Nat) : Statement (.eKeyExchange bus peer bothAuth link) :=
  roundtrips_event rfl
theorem eFinish (bus : Nat) (n : Nat) : Statement (.eFinish bus n) :=
  roundtrips_event rfl
theorem eHeartbeat (bus : Nat) (n : Nat) : Statement (.eHeartbeat bus n) :=
  roundtrips_event rfl
theorem eKeyUpdate (bus : Nat) (n : Nat) : Statement (.eKeyUpdate bus n) :=
  roundtrips_event rfl
theorem eEndSession (bus : Nat) (n : Nat) : Statement (.eEndSession bus n) :=
  roundtrips_event rfl
theorem eKeyImport (bus : Nat) (n : Nat) (slot : Nat) (domain : Nat) (key : Nat) : Statement (.eKeyImport bus n slot domain key) :=
  roundtrips_event rfl
theorem eKeyExport (bus : Nat) (n : Nat) (slot : Nat) : Statement (.eKeyExport bus n slot) :=
  roundtrips_event rfl
theorem eRevoke (bus : Nat) (n : Nat) (slot : Nat) : Statement (.eRevoke bus n slot) :=
  roundtrips_event rfl
theorem eContextReport (bus : Nat) (ctx : Nat) (nonce : Nat) : Statement (.eContextReport bus ctx nonce) :=
  roundtrips_event rfl
theorem eLinkRekey (port : Nat) (done : Bool) : Statement (.eLinkRekey port done) :=
  roundtrips_event rfl
theorem eControlSpaceWrite (off : Nat) (value : Nat) (byService : Bool) : Statement (.eControlSpaceWrite off value byService) :=
  roundtrips_event rfl
theorem eServiceRingDoorbell (part : Nat) (m : RingMsg) : Statement (.eServiceRingDoorbell part m) :=
  roundtrips_event rfl
theorem eCreateContext (part : Nat) (k : Nat) (domain : Nat) (slot : Nat) (base : Nat) (size : Nat) : Statement (.eCreateContext part k domain slot base size) :=
  roundtrips_event rfl
theorem eResetContext (part : Nat) (k : Nat) (ctx : Nat) : Statement (.eResetContext part k ctx) :=
  roundtrips_event rfl
theorem eDestroyContext (part : Nat) (k : Nat) (ctx : Nat) : Statement (.eDestroyContext part k ctx) :=
  roundtrips_event rfl
theorem eLoadImage (part : Nat) (k : Nat) (ctx : Nat) (kzo : Nat) (va : Nat) (binds : List (Nat × Nat)) : Statement (.eLoadImage part k ctx kzo va binds) :=
  roundtrips_event rfl
theorem eCreateOrChangeQueue (part : Nat) (k : Nat) (queue : Nat) (desc : Nat) (page : Option Nat) : Statement (.eCreateOrChangeQueue part k queue desc page) :=
  roundtrips_event rfl
theorem eSetSramBanksTilesBarriers (part : Nat) (k : Nat) (ctx : Nat) (core : Nat) (words : List (Nat × Nat)) (share : Share) : Statement (.eSetSramBanksTilesBarriers part k ctx core words share) :=
  roundtrips_event rfl
theorem eMap (part : Nat) (k : Nat) : Statement (.eMap part k) :=
  roundtrips_event rfl
theorem eUnmap (part : Nat) (k : Nat) : Statement (.eUnmap part k) :=
  roundtrips_event rfl
theorem eProtect (part : Nat) (k : Nat) : Statement (.eProtect part k) :=
  roundtrips_event rfl
theorem eReserve (part : Nat) (k : Nat) : Statement (.eReserve part k) :=
  roundtrips_event rfl
theorem eUnreserve (part : Nat) (k : Nat) : Statement (.eUnreserve part k) :=
  roundtrips_event rfl
theorem eSetNotifierRing (part : Nat) (k : Nat) : Statement (.eSetNotifierRing part k) :=
  roundtrips_event rfl
theorem eSetTrapHandler (part : Nat) (k : Nat) : Statement (.eSetTrapHandler part k) :=
  roundtrips_event rfl
theorem eSizeTrapQueue (part : Nat) (k : Nat) : Statement (.eSizeTrapQueue part k) :=
  roundtrips_event rfl
theorem eSetPackageIdentifier (part : Nat) (k : Nat) (id : Nat) : Statement (.eSetPackageIdentifier part k id) :=
  roundtrips_event rfl
theorem eConfigurePortOrRoute (part : Nat) (k : Nat) (m : PortCfg) : Statement (.eConfigurePortOrRoute part k m) :=
  roundtrips_event rfl
theorem eWriteAccessControlEntry (part : Nat) (k : Nat) (idx : Nat) (word : Nat) : Statement (.eWriteAccessControlEntry part k idx word) :=
  roundtrips_event rfl
theorem eLoadCollectiveEntry (part : Nat) (k : Nat) (r : CollReq) : Statement (.eLoadCollectiveEntry part k r) :=
  roundtrips_event rfl
theorem eDestroyCollectiveEntry (part : Nat) (k : Nat) (ctx : Nat) (entry : Nat) : Statement (.eDestroyCollectiveEntry part k ctx entry) :=
  roundtrips_event rfl
theorem eQuerySlot (part : Nat) (k : Nat) (slot : Nat) : Statement (.eQuerySlot part k slot) :=
  roundtrips_event rfl
theorem eGenerateKey (part : Nat) (k : Nat) (slot : Nat) (domain : Nat) : Statement (.eGenerateKey part k slot domain) :=
  roundtrips_event rfl
theorem eRevokeSlot (part : Nat) (k : Nat) (slot : Nat) : Statement (.eRevokeSlot part k slot) :=
  roundtrips_event rfl
theorem eReclaimSlot (part : Nat) (k : Nat) (slot : Nat) : Statement (.eReclaimSlot part k slot) :=
  roundtrips_event rfl
theorem eAttestationReport (part : Nat) (k : Nat) (ctx : Nat) (addr : Nat) : Statement (.eAttestationReport part k ctx addr) :=
  roundtrips_event rfl
theorem eQueueDoorbell (q : Nat) (tail : Nat) : Statement (.eQueueDoorbell q tail) :=
  roundtrips_event rfl
theorem ePacketIntake (die : Nat) : Statement (.ePacketIntake die) :=
  roundtrips_event rfl
theorem eNodeDispatch (die : Nat) : Statement (.eNodeDispatch die) :=
  roundtrips_event rfl
theorem eSounderAdmission (ctx : Nat) (core : Nat) : Statement (.eSounderAdmission ctx core) :=
  roundtrips_event rfl
theorem eCoresidentAdmission (l : Nat) : Statement (.eCoresidentAdmission l) :=
  roundtrips_event rfl
theorem eLaunchCompletion (l : Nat) : Statement (.eLaunchCompletion l) :=
  roundtrips_event rfl
theorem eRecordQueueFullTile (node : Nat) : Statement (.eRecordQueueFullTile node) :=
  roundtrips_event rfl
theorem eFlushTimerExpiry (node : Nat) : Statement (.eFlushTimerExpiry node) :=
  roundtrips_event rfl
theorem ePeerLaunchSend (queue : Nat) : Statement (.ePeerLaunchSend queue) :=
  roundtrips_event rfl
theorem ePermitRequest (m : PermitMsg) : Statement (.ePermitRequest m) :=
  roundtrips_event rfl
theorem ePermitRenewal (m : RenewMsg) : Statement (.ePermitRenewal m) :=
  roundtrips_event rfl
theorem ePermitExpiry (srcpkg : Nat) (srcctx : Nat) (queue : Nat) : Statement (.ePermitExpiry srcpkg srcctx queue) :=
  roundtrips_event rfl
theorem ePeerLaunchArrival (m : PeerMsg) : Statement (.ePeerLaunchArrival m) :=
  roundtrips_event rfl
theorem eInboundWindowAccess (w : WinIn) : Statement (.eInboundWindowAccess w) :=
  roundtrips_event rfl
theorem eWindowAckArrival (op : Nat) (reply : Reply) : Statement (.eWindowAckArrival op reply) :=
  roundtrips_event rfl
theorem eRetransmissionTimeout (op : Nat) : Statement (.eRetransmissionTimeout op) :=
  roundtrips_event rfl
theorem eDirectPlacementRetry (op : Nat) : Statement (.eDirectPlacementRetry op) :=
  roundtrips_event rfl
theorem eLinkFailure (port : Nat) : Statement (.eLinkFailure port) :=
  roundtrips_event rfl
theorem ePortLaneFailure (port : Nat) : Statement (.ePortLaneFailure port) :=
  roundtrips_event rfl
theorem eMemoryLaneFailure (channel : Nat) : Statement (.eMemoryLaneFailure channel) :=
  roundtrips_event rfl
theorem eCoreFailure (core : Nat) (spare : Nat) (lost : Nat) : Statement (.eCoreFailure core spare lost) :=
  roundtrips_event rfl
theorem eCoreMigration (core : Nat) (spare : Nat) (lost : Nat) : Statement (.eCoreMigration core spare lost) :=
  roundtrips_event rfl
theorem eCollectivePacketArrival (c : CollIn) : Statement (.eCollectivePacketArrival c) :=
  roundtrips_event rfl
theorem eTakeoverRequestArrival (r : Takeover) : Statement (.eTakeoverRequestArrival r) :=
  roundtrips_event rfl
theorem eMatchTimeout (port : Nat) (ctx : Nat) (cid : Nat) : Statement (.eMatchTimeout port ctx cid) :=
  roundtrips_event rfl
theorem eAliasStoreAccept (ctx : Nat) (core : Nat) (slot : Nat) (entry : Nat) (lane : Nat) : Statement (.eAliasStoreAccept ctx core slot entry lane) :=
  roundtrips_event rfl
theorem eLaneBlockStart (ctx : Nat) (core : Nat) (slot : Nat) : Statement (.eLaneBlockStart ctx core slot) :=
  roundtrips_event rfl
theorem eLaneLoadFill (ctx : Nat) (core : Nat) (slot : Nat) (fill : Nat) : Statement (.eLaneLoadFill ctx core slot fill) :=
  roundtrips_event rfl
theorem eAccessPerformed (ctx : Nat) (core : Nat) (slot : Nat) (entry : Nat) (count : Nat) (ue : Bool) : Statement (.eAccessPerformed ctx core slot entry count ue) :=
  roundtrips_event rfl
theorem eDeferredFaultDelivery (ctx : Nat) (core : Nat) (slot : Nat) (entry : Nat) : Statement (.eDeferredFaultDelivery ctx core slot entry) :=
  roundtrips_event rfl
theorem eSounderPark (ctx : Nat) (core : Nat) (n : Nat) : Statement (.eSounderPark ctx core n) :=
  roundtrips_event rfl
theorem eSounderResume (ctx : Nat) (core : Nat) : Statement (.eSounderResume ctx core) :=
  roundtrips_event rfl
theorem eQuadrantArbitration (core : Nat) (quad : Nat) (lane : Bool) : Statement (.eQuadrantArbitration core quad lane) :=
  roundtrips_event rfl
theorem eDeterministicRelease (ctx : Nat) (core : Nat) (slot : Nat) : Statement (.eDeterministicRelease ctx core slot) :=
  roundtrips_event rfl
theorem eEventTimerExpiry (ctx : Nat) (core : Nat) (slot : Nat) (n : Nat) : Statement (.eEventTimerExpiry ctx core slot n) :=
  roundtrips_event rfl
theorem eMailboxMessageArrival (m : MailMsg) : Statement (.eMailboxMessageArrival m) :=
  roundtrips_event rfl
theorem eMailboxStatusReturn (op : Nat) (status : Nat) : Statement (.eMailboxStatusReturn op status) :=
  roundtrips_event rfl
theorem eWaitanyWake (ctx : Nat) (core : Nat) (slot : Nat) : Statement (.eWaitanyWake ctx core slot) :=
  roundtrips_event rfl
theorem eBarrierWaitRelease (ctx : Nat) (core : Nat) (slot : Nat) : Statement (.eBarrierWaitRelease ctx core slot) :=
  roundtrips_event rfl
theorem eHwaitReturn (ctx : Nat) (core : Nat) (slot : Nat) (slices : Nat) : Statement (.eHwaitReturn ctx core slot slices) :=
  roundtrips_event rfl
theorem eRegangJoin (ctx : Nat) (core : Nat) (slot : Nat) : Statement (.eRegangJoin ctx core slot) :=
  roundtrips_event rfl
theorem eCopyLastByte (ctx : Nat) (core : Nat) (id : Nat) (n : Nat) : Statement (.eCopyLastByte ctx core id n) :=
  roundtrips_event rfl
theorem eEngineCommandFire (ctx : Nat) (core : Nat) (unit : Nat) : Statement (.eEngineCommandFire ctx core unit) :=
  roundtrips_event rfl
theorem eArrayCommandComplete (ctx : Nat) (core : Nat) : Statement (.eArrayCommandComplete ctx core) :=
  roundtrips_event rfl
theorem eArrayTransientError (ctx : Nat) (core : Nat) : Statement (.eArrayTransientError ctx core) :=
  roundtrips_event rfl
theorem eRouteComplete (die : Nat) (n : Nat) : Statement (.eRouteComplete die n) :=
  roundtrips_event rfl
theorem eEngineAccessFault (ctx : Nat) (core : Nat) (unit : Nat) (id : Nat) (ue : Bool) : Statement (.eEngineAccessFault ctx core unit id ue) :=
  roundtrips_event rfl
theorem eSliceEnd (core : Nat) : Statement (.eSliceEnd core) :=
  roundtrips_event rfl
theorem eSafePoint (core : Nat) : Statement (.eSafePoint core) :=
  roundtrips_event rfl
theorem eBadgerSaveDone (core : Nat) (ue : Bool) : Statement (.eBadgerSaveDone core ue) :=
  roundtrips_event rfl
theorem eBadgerFillDone (ctx : Nat) (core : Nat) (ue : Bool) : Statement (.eBadgerFillDone ctx core ue) :=
  roundtrips_event rfl
theorem eBankControlWrite (core : Nat) (b : Nat) (value : Nat) : Statement (.eBankControlWrite core b value) :=
  roundtrips_event rfl
theorem eBankChangeComplete (core : Nat) (b : Nat) : Statement (.eBankChangeComplete core b) :=
  roundtrips_event rfl
theorem eShootDownComplete (ctx : Nat) : Statement (.eShootDownComplete ctx) :=
  roundtrips_event rfl
theorem eSentUpRecordService (ctx : Nat) (resume : Nat) : Statement (.eSentUpRecordService ctx resume) :=
  roundtrips_event rfl
theorem sAdd (d : BitVec 6) (a : BitVec 6) (b : BitVec 6) : Statement (.sAdd d a b) :=
  roundtrips_s3 .sAdd 1 0 (by decide) (by decide) (fun _ _ _ => rfl) (fun _ _ _ => rfl) (fun w h1 h2 => by delta scalarCand; rw [h1, h2]; rfl) d a b
theorem sAdd32 (d : BitVec 6) (a : BitVec 6) (b : BitVec 6) : Statement (.sAdd32 d a b) :=
  roundtrips_s3 .sAdd32 1 128 (by decide) (by decide) (fun _ _ _ => rfl) (fun _ _ _ => rfl) (fun w h1 h2 => by delta scalarCand; rw [h1, h2]; rfl) d a b
theorem sSub (d : BitVec 6) (a : BitVec 6) (b : BitVec 6) : Statement (.sSub d a b) :=
  roundtrips_s3 .sSub 1 1 (by decide) (by decide) (fun _ _ _ => rfl) (fun _ _ _ => rfl) (fun w h1 h2 => by delta scalarCand; rw [h1, h2]; rfl) d a b
theorem sSub32 (d : BitVec 6) (a : BitVec 6) (b : BitVec 6) : Statement (.sSub32 d a b) :=
  roundtrips_s3 .sSub32 1 129 (by decide) (by decide) (fun _ _ _ => rfl) (fun _ _ _ => rfl) (fun w h1 h2 => by delta scalarCand; rw [h1, h2]; rfl) d a b
theorem sAnd (d : BitVec 6) (a : BitVec 6) (b : BitVec 6) : Statement (.sAnd d a b) :=
  roundtrips_s3 .sAnd 1 2 (by decide) (by decide) (fun _ _ _ => rfl) (fun _ _ _ => rfl) (fun w h1 h2 => by delta scalarCand; rw [h1, h2]; rfl) d a b
theorem sAnd32 (d : BitVec 6) (a : BitVec 6) (b : BitVec 6) : Statement (.sAnd32 d a b) :=
  roundtrips_s3 .sAnd32 1 130 (by decide) (by decide) (fun _ _ _ => rfl) (fun _ _ _ => rfl) (fun w h1 h2 => by delta scalarCand; rw [h1, h2]; rfl) d a b
theorem sOr (d : BitVec 6) (a : BitVec 6) (b : BitVec 6) : Statement (.sOr d a b) :=
  roundtrips_s3 .sOr 1 3 (by decide) (by decide) (fun _ _ _ => rfl) (fun _ _ _ => rfl) (fun w h1 h2 => by delta scalarCand; rw [h1, h2]; rfl) d a b
theorem sOr32 (d : BitVec 6) (a : BitVec 6) (b : BitVec 6) : Statement (.sOr32 d a b) :=
  roundtrips_s3 .sOr32 1 131 (by decide) (by decide) (fun _ _ _ => rfl) (fun _ _ _ => rfl) (fun w h1 h2 => by delta scalarCand; rw [h1, h2]; rfl) d a b
theorem sXor (d : BitVec 6) (a : BitVec 6) (b : BitVec 6) : Statement (.sXor d a b) :=
  roundtrips_s3 .sXor 1 4 (by decide) (by decide) (fun _ _ _ => rfl) (fun _ _ _ => rfl) (fun w h1 h2 => by delta scalarCand; rw [h1, h2]; rfl) d a b
theorem sXor32 (d : BitVec 6) (a : BitVec 6) (b : BitVec 6) : Statement (.sXor32 d a b) :=
  roundtrips_s3 .sXor32 1 132 (by decide) (by decide) (fun _ _ _ => rfl) (fun _ _ _ => rfl) (fun w h1 h2 => by delta scalarCand; rw [h1, h2]; rfl) d a b
theorem sShl (d : BitVec 6) (a : BitVec 6) (b : BitVec 6) : Statement (.sShl d a b) :=
  roundtrips_s3 .sShl 1 5 (by decide) (by decide) (fun _ _ _ => rfl) (fun _ _ _ => rfl) (fun w h1 h2 => by delta scalarCand; rw [h1, h2]; rfl) d a b
theorem sShl32 (d : BitVec 6) (a : BitVec 6) (b : BitVec 6) : Statement (.sShl32 d a b) :=
  roundtrips_s3 .sShl32 1 133 (by decide) (by decide) (fun _ _ _ => rfl) (fun _ _ _ => rfl) (fun w h1 h2 => by delta scalarCand; rw [h1, h2]; rfl) d a b
theorem sShr (d : BitVec 6) (a : BitVec 6) (b : BitVec 6) : Statement (.sShr d a b) :=
  roundtrips_s3 .sShr 1 6 (by decide) (by decide) (fun _ _ _ => rfl) (fun _ _ _ => rfl) (fun w h1 h2 => by delta scalarCand; rw [h1, h2]; rfl) d a b
theorem sShr32 (d : BitVec 6) (a : BitVec 6) (b : BitVec 6) : Statement (.sShr32 d a b) :=
  roundtrips_s3 .sShr32 1 134 (by decide) (by decide) (fun _ _ _ => rfl) (fun _ _ _ => rfl) (fun w h1 h2 => by delta scalarCand; rw [h1, h2]; rfl) d a b
theorem sSra (d : BitVec 6) (a : BitVec 6) (b : BitVec 6) : Statement (.sSra d a b) :=
  roundtrips_s3 .sSra 1 7 (by decide) (by decide) (fun _ _ _ => rfl) (fun _ _ _ => rfl) (fun w h1 h2 => by delta scalarCand; rw [h1, h2]; rfl) d a b
theorem sSra32 (d : BitVec 6) (a : BitVec 6) (b : BitVec 6) : Statement (.sSra32 d a b) :=
  roundtrips_s3 .sSra32 1 135 (by decide) (by decide) (fun _ _ _ => rfl) (fun _ _ _ => rfl) (fun w h1 h2 => by delta scalarCand; rw [h1, h2]; rfl) d a b
theorem sMul (d : BitVec 6) (a : BitVec 6) (b : BitVec 6) : Statement (.sMul d a b) :=
  roundtrips_s3 .sMul 1 8 (by decide) (by decide) (fun _ _ _ => rfl) (fun _ _ _ => rfl) (fun w h1 h2 => by delta scalarCand; rw [h1, h2]; rfl) d a b
theorem sMul32 (d : BitVec 6) (a : BitVec 6) (b : BitVec 6) : Statement (.sMul32 d a b) :=
  roundtrips_s3 .sMul32 1 136 (by decide) (by decide) (fun _ _ _ => rfl) (fun _ _ _ => rfl) (fun w h1 h2 => by delta scalarCand; rw [h1, h2]; rfl) d a b
theorem sMulh (d : BitVec 6) (a : BitVec 6) (b : BitVec 6) : Statement (.sMulh d a b) :=
  roundtrips_s3 .sMulh 1 9 (by decide) (by decide) (fun _ _ _ => rfl) (fun _ _ _ => rfl) (fun w h1 h2 => by delta scalarCand; rw [h1, h2]; rfl) d a b
theorem sMulh32 (d : BitVec 6) (a : BitVec 6) (b : BitVec 6) : Statement (.sMulh32 d a b) :=
  roundtrips_s3 .sMulh32 1 137 (by decide) (by decide) (fun _ _ _ => rfl) (fun _ _ _ => rfl) (fun w h1 h2 => by delta scalarCand; rw [h1, h2]; rfl) d a b
theorem sMulhn (d : BitVec 6) (a : BitVec 6) (b : BitVec 6) : Statement (.sMulhn d a b) :=
  roundtrips_s3 .sMulhn 1 10 (by decide) (by decide) (fun _ _ _ => rfl) (fun _ _ _ => rfl) (fun w h1 h2 => by delta scalarCand; rw [h1, h2]; rfl) d a b
theorem sMulhn32 (d : BitVec 6) (a : BitVec 6) (b : BitVec 6) : Statement (.sMulhn32 d a b) :=
  roundtrips_s3 .sMulhn32 1 138 (by decide) (by decide) (fun _ _ _ => rfl) (fun _ _ _ => rfl) (fun w h1 h2 => by delta scalarCand; rw [h1, h2]; rfl) d a b
theorem sDiv (d : BitVec 6) (a : BitVec 6) (b : BitVec 6) : Statement (.sDiv d a b) :=
  roundtrips_s3 .sDiv 1 11 (by decide) (by decide) (fun _ _ _ => rfl) (fun _ _ _ => rfl) (fun w h1 h2 => by delta scalarCand; rw [h1, h2]; rfl) d a b
theorem sDiv32 (d : BitVec 6) (a : BitVec 6) (b : BitVec 6) : Statement (.sDiv32 d a b) :=
  roundtrips_s3 .sDiv32 1 139 (by decide) (by decide) (fun _ _ _ => rfl) (fun _ _ _ => rfl) (fun w h1 h2 => by delta scalarCand; rw [h1, h2]; rfl) d a b
theorem sDivn (d : BitVec 6) (a : BitVec 6) (b : BitVec 6) : Statement (.sDivn d a b) :=
  roundtrips_s3 .sDivn 1 12 (by decide) (by decide) (fun _ _ _ => rfl) (fun _ _ _ => rfl) (fun w h1 h2 => by delta scalarCand; rw [h1, h2]; rfl) d a b
theorem sDivn32 (d : BitVec 6) (a : BitVec 6) (b : BitVec 6) : Statement (.sDivn32 d a b) :=
  roundtrips_s3 .sDivn32 1 140 (by decide) (by decide) (fun _ _ _ => rfl) (fun _ _ _ => rfl) (fun w h1 h2 => by delta scalarCand; rw [h1, h2]; rfl) d a b
theorem sRem (d : BitVec 6) (a : BitVec 6) (b : BitVec 6) : Statement (.sRem d a b) :=
  roundtrips_s3 .sRem 1 13 (by decide) (by decide) (fun _ _ _ => rfl) (fun _ _ _ => rfl) (fun w h1 h2 => by delta scalarCand; rw [h1, h2]; rfl) d a b
theorem sRem32 (d : BitVec 6) (a : BitVec 6) (b : BitVec 6) : Statement (.sRem32 d a b) :=
  roundtrips_s3 .sRem32 1 141 (by decide) (by decide) (fun _ _ _ => rfl) (fun _ _ _ => rfl) (fun w h1 h2 => by delta scalarCand; rw [h1, h2]; rfl) d a b
theorem sRemn (d : BitVec 6) (a : BitVec 6) (b : BitVec 6) : Statement (.sRemn d a b) :=
  roundtrips_s3 .sRemn 1 14 (by decide) (by decide) (fun _ _ _ => rfl) (fun _ _ _ => rfl) (fun w h1 h2 => by delta scalarCand; rw [h1, h2]; rfl) d a b
theorem sRemn32 (d : BitVec 6) (a : BitVec 6) (b : BitVec 6) : Statement (.sRemn32 d a b) :=
  roundtrips_s3 .sRemn32 1 142 (by decide) (by decide) (fun _ _ _ => rfl) (fun _ _ _ => rfl) (fun w h1 h2 => by delta scalarCand; rw [h1, h2]; rfl) d a b
theorem sMin (d : BitVec 6) (a : BitVec 6) (b : BitVec 6) : Statement (.sMin d a b) :=
  roundtrips_s3 .sMin 1 15 (by decide) (by decide) (fun _ _ _ => rfl) (fun _ _ _ => rfl) (fun w h1 h2 => by delta scalarCand; rw [h1, h2]; rfl) d a b
theorem sMin32 (d : BitVec 6) (a : BitVec 6) (b : BitVec 6) : Statement (.sMin32 d a b) :=
  roundtrips_s3 .sMin32 1 143 (by decide) (by decide) (fun _ _ _ => rfl) (fun _ _ _ => rfl) (fun w h1 h2 => by delta scalarCand; rw [h1, h2]; rfl) d a b
theorem sMax (d : BitVec 6) (a : BitVec 6) (b : BitVec 6) : Statement (.sMax d a b) :=
  roundtrips_s3 .sMax 1 16 (by decide) (by decide) (fun _ _ _ => rfl) (fun _ _ _ => rfl) (fun w h1 h2 => by delta scalarCand; rw [h1, h2]; rfl) d a b
theorem sMax32 (d : BitVec 6) (a : BitVec 6) (b : BitVec 6) : Statement (.sMax32 d a b) :=
  roundtrips_s3 .sMax32 1 144 (by decide) (by decide) (fun _ _ _ => rfl) (fun _ _ _ => rfl) (fun w h1 h2 => by delta scalarCand; rw [h1, h2]; rfl) d a b
theorem sMinn (d : BitVec 6) (a : BitVec 6) (b : BitVec 6) : Statement (.sMinn d a b) :=
  roundtrips_s3 .sMinn 1 17 (by decide) (by decide) (fun _ _ _ => rfl) (fun _ _ _ => rfl) (fun w h1 h2 => by delta scalarCand; rw [h1, h2]; rfl) d a b
theorem sMinn32 (d : BitVec 6) (a : BitVec 6) (b : BitVec 6) : Statement (.sMinn32 d a b) :=
  roundtrips_s3 .sMinn32 1 145 (by decide) (by decide) (fun _ _ _ => rfl) (fun _ _ _ => rfl) (fun w h1 h2 => by delta scalarCand; rw [h1, h2]; rfl) d a b
theorem sMaxn (d : BitVec 6) (a : BitVec 6) (b : BitVec 6) : Statement (.sMaxn d a b) :=
  roundtrips_s3 .sMaxn 1 18 (by decide) (by decide) (fun _ _ _ => rfl) (fun _ _ _ => rfl) (fun w h1 h2 => by delta scalarCand; rw [h1, h2]; rfl) d a b
theorem sMaxn32 (d : BitVec 6) (a : BitVec 6) (b : BitVec 6) : Statement (.sMaxn32 d a b) :=
  roundtrips_s3 .sMaxn32 1 146 (by decide) (by decide) (fun _ _ _ => rfl) (fun _ _ _ => rfl) (fun w h1 h2 => by delta scalarCand; rw [h1, h2]; rfl) d a b
theorem sAddi (d : BitVec 6) (a : BitVec 6) (i : BitVec 14) : Statement (.sAddi d a i) :=
  roundtrips_si .sAddi 2 (by decide) (fun _ _ _ => rfl) (fun _ _ _ => rfl) (fun w h1 => by delta scalarCand; rw [h1]; rfl) d a i
theorem sAndi (d : BitVec 6) (a : BitVec 6) (i : BitVec 14) : Statement (.sAndi d a i) :=
  roundtrips_si .sAndi 3 (by decide) (fun _ _ _ => rfl) (fun _ _ _ => rfl) (fun w h1 => by delta scalarCand; rw [h1]; rfl) d a i
theorem sOri (d : BitVec 6) (a : BitVec 6) (i : BitVec 14) : Statement (.sOri d a i) :=
  roundtrips_si .sOri 4 (by decide) (fun _ _ _ => rfl) (fun _ _ _ => rfl) (fun w h1 => by delta scalarCand; rw [h1]; rfl) d a i
theorem sXori (d : BitVec 6) (a : BitVec 6) (i : BitVec 14) : Statement (.sXori d a i) :=
  roundtrips_si .sXori 5 (by decide) (fun _ _ _ => rfl) (fun _ _ _ => rfl) (fun w h1 => by delta scalarCand; rw [h1]; rfl) d a i
theorem sShli (d : BitVec 6) (a : BitVec 6) (n : BitVec 6) : Statement (.sShli d a n) := by
  have h0 := d.isLt; have h1 := a.isLt; have h2 := n.isLt
  have e : scalarNat (.sShli d a n) = sw3 20 14 0 0x18000000 d.toNat a.toNat n.toNat := rfl
  simp only [sw3] at e
  refine roundtrips_scalar rfl (by omega) ?_
  have m1 : scalarNat (.sShli d a n) / 2 ^ 26 % 64 = 6 := by omega
  have m2 : scalarNat (.sShli d a n) / 2 ^ 12 % 4 = 0 := by omega
  delta scalarCand
  rw [m1, m2]
  show Decoded.ok _ = _
  rw [field_of d, field_of a, field_of n] <;> omega
theorem sShri (d : BitVec 6) (a : BitVec 6) (n : BitVec 6) : Statement (.sShri d a n) := by
  have h0 := d.isLt; have h1 := a.isLt; have h2 := n.isLt
  have e : scalarNat (.sShri d a n) = sw3 20 14 0 0x18001000 d.toNat a.toNat n.toNat := rfl
  simp only [sw3] at e
  refine roundtrips_scalar rfl (by omega) ?_
  have m1 : scalarNat (.sShri d a n) / 2 ^ 26 % 64 = 6 := by omega
  have m2 : scalarNat (.sShri d a n) / 2 ^ 12 % 4 = 1 := by omega
  delta scalarCand
  rw [m1, m2]
  show Decoded.ok _ = _
  rw [field_of d, field_of a, field_of n] <;> omega
theorem sSrai (d : BitVec 6) (a : BitVec 6) (n : BitVec 6) : Statement (.sSrai d a n) := by
  have h0 := d.isLt; have h1 := a.isLt; have h2 := n.isLt
  have e : scalarNat (.sSrai d a n) = sw3 20 14 0 0x18002000 d.toNat a.toNat n.toNat := rfl
  simp only [sw3] at e
  refine roundtrips_scalar rfl (by omega) ?_
  have m1 : scalarNat (.sSrai d a n) / 2 ^ 26 % 64 = 6 := by omega
  have m2 : scalarNat (.sSrai d a n) / 2 ^ 12 % 4 = 2 := by omega
  delta scalarCand
  rw [m1, m2]
  show Decoded.ok _ = _
  rw [field_of d, field_of a, field_of n] <;> omega
theorem sLui (d : BitVec 6) (i : BitVec 20) : Statement (.sLui d i) := by
  have h0 := d.isLt; have h1 := i.isLt
  have e : scalarNat (.sLui d i) = sw2 20 0 0x1C000000 d.toNat i.toNat := rfl
  simp only [sw2] at e
  refine roundtrips_scalar rfl (by omega) ?_
  have m1 : scalarNat (.sLui d i) / 2 ^ 26 % 64 = 7 := by omega
  delta scalarCand
  rw [m1]
  show Decoded.ok _ = _
  rw [field_of d, field_of i] <;> omega
theorem sPcrel (d : BitVec 6) (i : BitVec 20) : Statement (.sPcrel d i) := by
  have h0 := d.isLt; have h1 := i.isLt
  have e : scalarNat (.sPcrel d i) = sw2 20 0 0x20000000 d.toNat i.toNat := rfl
  simp only [sw2] at e
  refine roundtrips_scalar rfl (by omega) ?_
  have m1 : scalarNat (.sPcrel d i) / 2 ^ 26 % 64 = 8 := by omega
  delta scalarCand
  rw [m1]
  show Decoded.ok _ = _
  rw [field_of d, field_of i] <;> omega
theorem sCmp (d : BitVec 3) (c : BitVec 3) (a : BitVec 6) (b : BitVec 6) : Statement (.sCmp d c a b) := by
  have h0 := d.isLt; have h1 := c.isLt; have h2 := a.isLt; have h3 := b.isLt
  have e : scalarNat (.sCmp d c a b) = sw4 23 20 14 8 0x24000000 d.toNat c.toNat a.toNat b.toNat := rfl
  simp only [sw4] at e
  refine roundtrips_scalar rfl (by omega) ?_
  have m1 : scalarNat (.sCmp d c a b) / 2 ^ 26 % 64 = 9 := by omega
  delta scalarCand
  rw [m1]
  show Decoded.ok _ = _
  rw [field_of d, field_of c, field_of a, field_of b] <;> omega
theorem sCmpi (d : BitVec 3) (c : BitVec 3) (a : BitVec 6) (i : BitVec 14) : Statement (.sCmpi d c a i) := by
  have h0 := d.isLt; have h1 := c.isLt; have h2 := a.isLt; have h3 := i.isLt
  have e : scalarNat (.sCmpi d c a i) = sw4 23 20 14 0 0x28000000 d.toNat c.toNat a.toNat i.toNat := rfl
  simp only [sw4] at e
  refine roundtrips_scalar rfl (by omega) ?_
  have m1 : scalarNat (.sCmpi d c a i) / 2 ^ 26 % 64 = 10 := by omega
  delta scalarCand
  rw [m1]
  show Decoded.ok _ = _
  rw [field_of d, field_of c, field_of a, field_of i] <;> omega
theorem sBc (c : BitVec 3) (n : BitVec 1) (o : BitVec 22) : Statement (.sBc c n o) := by
  have h0 := c.isLt; have h1 := n.isLt; have h2 := o.isLt
  have e : scalarNat (.sBc c n o) = sw3 23 22 0 0x2C000000 c.toNat n.toNat o.toNat := rfl
  simp only [sw3] at e
  refine roundtrips_scalar rfl (by omega) ?_
  have m1 : scalarNat (.sBc c n o) / 2 ^ 26 % 64 = 11 := by omega
  delta scalarCand
  rw [m1]
  show Decoded.ok _ = _
  rw [field_of c, field_of n, field_of o] <;> omega
theorem sJmp (o : BitVec 26) : Statement (.sJmp o) := by
  have h0 := o.isLt
  have e : scalarNat (.sJmp o) = sw1 0 0x30000000 o.toNat := rfl
  simp only [sw1] at e
  refine roundtrips_scalar rfl (by omega) ?_
  have m1 : scalarNat (.sJmp o) / 2 ^ 26 % 64 = 12 := by omega
  delta scalarCand
  rw [m1]
  show Decoded.ok _ = _
  rw [field_of o] <;> omega
theorem sCall (o : BitVec 26) : Statement (.sCall o) := by
  have h0 := o.isLt
  have e : scalarNat (.sCall o) = sw1 0 0x34000000 o.toNat := rfl
  simp only [sw1] at e
  refine roundtrips_scalar rfl (by omega) ?_
  have m1 : scalarNat (.sCall o) / 2 ^ 26 % 64 = 13 := by omega
  delta scalarCand
  rw [m1]
  show Decoded.ok _ = _
  rw [field_of o] <;> omega
theorem sJmpr (a : BitVec 6) : Statement (.sJmpr a) :=
  roundtrips_s1 .sJmpr 14 14 0 (by decide) (by decide) (by decide) (fun _ => rfl) (fun _ => rfl) (fun w h1 h2 => by delta scalarCand; rw [h1, h2]; rfl) a
theorem sCallr (a : BitVec 6) : Statement (.sCallr a) :=
  roundtrips_s1 .sCallr 14 14 1 (by decide) (by decide) (by decide) (fun _ => rfl) (fun _ => rfl) (fun w h1 h2 => by delta scalarCand; rw [h1, h2]; rfl) a
theorem sRet : Statement .sRet :=
  roundtrips_s0 _ 0x38000002 rfl rfl (by decide) (by delta scalarCand; rfl)
theorem sSldI8 (d : BitVec 6) (a : BitVec 6) (i : BitVec 14) : Statement (.sSldI8 d a i) :=
  roundtrips_si .sSldI8 16 (by decide) (fun _ _ _ => rfl) (fun _ _ _ => rfl) (fun w h1 => by delta scalarCand; rw [h1]; rfl) d a i
theorem sSldN8 (d : BitVec 6) (a : BitVec 6) (i : BitVec 14) : Statement (.sSldN8 d a i) :=
  roundtrips_si .sSldN8 17 (by decide) (fun _ _ _ => rfl) (fun _ _ _ => rfl) (fun w h1 => by delta scalarCand; rw [h1]; rfl) d a i
theorem sSldI16 (d : BitVec 6) (a : BitVec 6) (i : BitVec 14) : Statement (.sSldI16 d a i) :=
  roundtrips_si .sSldI16 18 (by decide) (fun _ _ _ => rfl) (fun _ _ _ => rfl) (fun w h1 => by delta scalarCand; rw [h1]; rfl) d a i
theorem sSldN16 (d : BitVec 6) (a : BitVec 6) (i : BitVec 14) : Statement (.sSldN16 d a i) :=
  roundtrips_si .sSldN16 19 (by decide) (fun _ _ _ => rfl) (fun _ _ _ => rfl) (fun w h1 => by delta scalarCand; rw [h1]; rfl) d a i
theorem sSldI32 (d : BitVec 6) (a : BitVec 6) (i : BitVec 14) : Statement (.sSldI32 d a i) :=
  roundtrips_si .sSldI32 20 (by decide) (fun _ _ _ => rfl) (fun _ _ _ => rfl) (fun w h1 => by delta scalarCand; rw [h1]; rfl) d a i
theorem sSldN32 (d : BitVec 6) (a : BitVec 6) (i : BitVec 14) : Statement (.sSldN32 d a i) :=
  roundtrips_si .sSldN32 21 (by decide) (fun _ _ _ => rfl) (fun _ _ _ => rfl) (fun w h1 => by delta scalarCand; rw [h1]; rfl) d a i
theorem sSldI64 (d : BitVec 6) (a : BitVec 6) (i : BitVec 14) : Statement (.sSldI64 d a i) :=
  roundtrips_si .sSldI64 22 (by decide) (fun _ _ _ => rfl) (fun _ _ _ => rfl) (fun w h1 => by delta scalarCand; rw [h1]; rfl) d a i
theorem sSstN8 (v : BitVec 6) (a : BitVec 6) (i : BitVec 14) : Statement (.sSstN8 v a i) :=
  roundtrips_si .sSstN8 24 (by decide) (fun _ _ _ => rfl) (fun _ _ _ => rfl) (fun w h1 => by delta scalarCand; rw [h1]; rfl) v a i
theorem sSstN16 (v : BitVec 6) (a : BitVec 6) (i : BitVec 14) : Statement (.sSstN16 v a i) :=
  roundtrips_si .sSstN16 25 (by decide) (fun _ _ _ => rfl) (fun _ _ _ => rfl) (fun w h1 => by delta scalarCand; rw [h1]; rfl) v a i
theorem sSstN32 (v : BitVec 6) (a : BitVec 6) (i : BitVec 14) : Statement (.sSstN32 v a i) :=
  roundtrips_si .sSstN32 26 (by decide) (fun _ _ _ => rfl) (fun _ _ _ => rfl) (fun w h1 => by delta scalarCand; rw [h1]; rfl) v a i
theorem sSstN64 (v : BitVec 6) (a : BitVec 6) (i : BitVec 14) : Statement (.sSstN64 v a i) :=
  roundtrips_si .sSstN64 27 (by decide) (fun _ _ _ => rfl) (fun _ _ _ => rfl) (fun w h1 => by delta scalarCand; rw [h1]; rfl) v a i
theorem sLrun (k : BitVec 3) (b : BitVec 12) : Statement (.sLrun k b) := by
  have h0 := k.isLt; have h1 := b.isLt
  have e : scalarNat (.sLrun k b) = sw2 23 8 0x80000000 k.toNat b.toNat := rfl
  simp only [sw2] at e
  refine roundtrips_scalar rfl (by omega) ?_
  have m1 : scalarNat (.sLrun k b) / 2 ^ 26 % 64 = 32 := by omega
  delta scalarCand
  rw [m1]
  show Decoded.ok _ = _
  rw [field_of k, field_of b] <;> omega
theorem sLsync : Statement .sLsync :=
  roundtrips_s0 _ 0x84000000 rfl rfl (by decide) (by delta scalarCand; rfl)
theorem sSysrd (d : BitVec 6) (r : BitVec 12) : Statement (.sSysrd d r) := by
  have h0 := d.isLt; have h1 := r.isLt
  have e : scalarNat (.sSysrd d r) = sw2 20 0 0x90000000 d.toNat r.toNat := rfl
  simp only [sw2] at e
  refine roundtrips_scalar rfl (by omega) ?_
  have m1 : scalarNat (.sSysrd d r) / 2 ^ 26 % 64 = 36 := by omega
  have m2 : scalarNat (.sSysrd d r) / 2 ^ 12 % 4 = 0 := by omega
  delta scalarCand
  rw [m1, m2]
  show Decoded.ok _ = _
  rw [field_of d, field_of r] <;> omega
theorem sSyswr (a : BitVec 6) (r : BitVec 12) : Statement (.sSyswr a r) := by
  have h0 := a.isLt; have h1 := r.isLt
  have e : scalarNat (.sSyswr a r) = sw2 14 0 0x90001000 a.toNat r.toNat := rfl
  simp only [sw2] at e
  refine roundtrips_scalar rfl (by omega) ?_
  have m1 : scalarNat (.sSyswr a r) / 2 ^ 26 % 64 = 36 := by omega
  have m2 : scalarNat (.sSyswr a r) / 2 ^ 12 % 4 = 1 := by omega
  delta scalarCand
  rw [m1, m2]
  show Decoded.ok _ = _
  rw [field_of a, field_of r] <;> omega
theorem sEvarm (j : BitVec 6) (a : BitVec 6) : Statement (.sEvarm j a) :=
  roundtrips_s2 .sEvarm 20 14 37 0 (by decide) (by decide) (by decide) (fun _ _ => rfl) (fun _ _ => rfl) (fun w h1 h2 => by delta scalarCand; rw [h1, h2]; rfl) j a
theorem sEvdisarm (j : BitVec 6) : Statement (.sEvdisarm j) :=
  roundtrips_s1 .sEvdisarm 20 37 1 (by decide) (by decide) (by decide) (fun _ => rfl) (fun _ => rfl) (fun w h1 h2 => by delta scalarCand; rw [h1, h2]; rfl) j
theorem sWaitany (d : BitVec 6) : Statement (.sWaitany d) :=
  roundtrips_s1 .sWaitany 20 37 2 (by decide) (by decide) (by decide) (fun _ => rfl) (fun _ => rfl) (fun w h1 h2 => by delta scalarCand; rw [h1, h2]; rfl) d
theorem sJoin (d : BitVec 6) (a : BitVec 6) : Statement (.sJoin d a) :=
  roundtrips_s2 .sJoin 20 14 38 0 (by decide) (by decide) (by decide) (fun _ _ => rfl) (fun _ _ => rfl) (fun w h1 h2 => by delta scalarCand; rw [h1, h2]; rfl) d a
theorem sLeave (a : BitVec 6) : Statement (.sLeave a) :=
  roundtrips_s1 .sLeave 14 38 1 (by decide) (by decide) (by decide) (fun _ => rfl) (fun _ => rfl) (fun w h1 h2 => by delta scalarCand; rw [h1, h2]; rfl) a
theorem sBarArrive (d : BitVec 6) (a : BitVec 6) (b : BitVec 6) : Statement (.sBarArrive d a b) :=
  roundtrips_s3 .sBarArrive 38 2 (by decide) (by decide) (fun _ _ _ => rfl) (fun _ _ _ => rfl) (fun w h1 h2 => by delta scalarCand; rw [h1, h2]; rfl) d a b
theorem sBarWait (d : BitVec 6) (a : BitVec 6) (b : BitVec 6) : Statement (.sBarWait d a b) :=
  roundtrips_s3 .sBarWait 38 3 (by decide) (by decide) (fun _ _ _ => rfl) (fun _ _ _ => rfl) (fun w h1 h2 => by delta scalarCand; rw [h1, h2]; rfl) d a b
theorem sBarSync (d : BitVec 6) (a : BitVec 6) : Statement (.sBarSync d a) :=
  roundtrips_s2 .sBarSync 20 14 38 4 (by decide) (by decide) (by decide) (fun _ _ => rfl) (fun _ _ => rfl) (fun w h1 h2 => by delta scalarCand; rw [h1, h2]; rfl) d a
theorem sMbpost (a : BitVec 6) (b : BitVec 6) : Statement (.sMbpost a b) :=
  roundtrips_s2 .sMbpost 14 8 39 0 (by decide) (by decide) (by decide) (fun _ _ => rfl) (fun _ _ => rfl) (fun w h1 h2 => by delta scalarCand; rw [h1, h2]; rfl) a b
theorem sMbsend (d : BitVec 6) (a : BitVec 6) (b : BitVec 6) : Statement (.sMbsend d a b) :=
  roundtrips_s3 .sMbsend 39 1 (by decide) (by decide) (fun _ _ _ => rfl) (fun _ _ _ => rfl) (fun w h1 h2 => by delta scalarCand; rw [h1, h2]; rfl) d a b
theorem sMbrecv (d : BitVec 6) (a : BitVec 6) : Statement (.sMbrecv d a) :=
  roundtrips_s2 .sMbrecv 20 14 39 2 (by decide) (by decide) (by decide) (fun _ _ => rfl) (fun _ _ => rfl) (fun w h1 h2 => by delta scalarCand; rw [h1, h2]; rfl) d a
theorem sSfenceLocal : Statement .sSfenceLocal :=
  roundtrips_s0 _ 0xA0000000 rfl rfl (by decide) (by delta scalarCand; rfl)
theorem sSfenceCore : Statement .sSfenceCore :=
  roundtrips_s0 _ 0xA0000001 rfl rfl (by decide) (by delta scalarCand; rfl)
theorem sSfencePkg : Statement .sSfencePkg :=
  roundtrips_s0 _ 0xA0000002 rfl rfl (by decide) (by delta scalarCand; rfl)
theorem sSfenceSys : Statement .sSfenceSys :=
  roundtrips_s0 _ 0xA0000003 rfl rfl (by decide) (by delta scalarCand; rfl)
theorem sSvc (a : BitVec 6) : Statement (.sSvc a) :=
  roundtrips_s1 .sSvc 14 41 0 (by decide) (by decide) (by decide) (fun _ => rfl) (fun _ => rfl) (fun w h1 h2 => by delta scalarCand; rw [h1, h2]; rfl) a
theorem sSndend : Statement .sSndend :=
  roundtrips_s0 _ 0xA4000001 rfl rfl (by decide) (by delta scalarCand; rfl)
theorem sTret : Statement .sTret :=
  roundtrips_s0 _ 0xA4000002 rfl rfl (by decide) (by delta scalarCand; rfl)
theorem sOplrd (d : BitVec 6) (a : BitVec 6) (b : BitVec 6) : Statement (.sOplrd d a b) :=
  roundtrips_s3 .sOplrd 41 3 (by decide) (by decide) (fun _ _ _ => rfl) (fun _ _ _ => rfl) (fun w h1 h2 => by delta scalarCand; rw [h1, h2]; rfl) d a b
theorem sOplrep (d : BitVec 6) (a : BitVec 6) : Statement (.sOplrep d a) :=
  roundtrips_s2 .sOplrep 20 14 41 4 (by decide) (by decide) (by decide) (fun _ _ => rfl) (fun _ _ => rfl) (fun w h1 h2 => by delta scalarCand; rw [h1, h2]; rfl) d a
theorem sRdtime (d : BitVec 6) : Statement (.sRdtime d) :=
  roundtrips_s1 .sRdtime 20 42 0 (by decide) (by decide) (by decide) (fun _ => rfl) (fun _ => rfl) (fun w h1 h2 => by delta scalarCand; rw [h1, h2]; rfl) d
theorem vIadd (f : LaneR) : Statement (.vIadd f) :=
  roundtrips_r .vIadd 1 0 (by decide) (by decide) (fun _ => rfl) (fun _ => rfl) (fun _ _ => rfl) f
theorem vIsub (f : LaneR) : Statement (.vIsub f) :=
  roundtrips_r .vIsub 1 1 (by decide) (by decide) (fun _ => rfl) (fun _ => rfl) (fun _ _ => rfl) f
theorem vIaddsat (f : LaneR) : Statement (.vIaddsat f) :=
  roundtrips_r .vIaddsat 1 2 (by decide) (by decide) (fun _ => rfl) (fun _ => rfl) (fun _ _ => rfl) f
theorem vIsubsat (f : LaneR) : Statement (.vIsubsat f) :=
  roundtrips_r .vIsubsat 1 3 (by decide) (by decide) (fun _ => rfl) (fun _ => rfl) (fun _ _ => rfl) f
theorem vImul (f : LaneR) : Statement (.vImul f) :=
  roundtrips_r .vImul 1 4 (by decide) (by decide) (fun _ => rfl) (fun _ => rfl) (fun _ _ => rfl) f
theorem vImulhi (f : LaneR) : Statement (.vImulhi f) :=
  roundtrips_r .vImulhi 1 5 (by decide) (by decide) (fun _ => rfl) (fun _ => rfl) (fun _ _ => rfl) f
theorem vImad (f : LaneR) : Statement (.vImad f) :=
  roundtrips_r .vImad 1 6 (by decide) (by decide) (fun _ => rfl) (fun _ => rfl) (fun _ _ => rfl) f
theorem vImin (f : LaneR) : Statement (.vImin f) :=
  roundtrips_r .vImin 1 7 (by decide) (by decide) (fun _ => rfl) (fun _ => rfl) (fun _ _ => rfl) f
theorem vImax (f : LaneR) : Statement (.vImax f) :=
  roundtrips_r .vImax 1 8 (by decide) (by decide) (fun _ => rfl) (fun _ => rfl) (fun _ _ => rfl) f
theorem vIabs (f : LaneR) : Statement (.vIabs f) :=
  roundtrips_r .vIabs 1 9 (by decide) (by decide) (fun _ => rfl) (fun _ => rfl) (fun _ _ => rfl) f
theorem vIneg (f : LaneR) : Statement (.vIneg f) :=
  roundtrips_r .vIneg 1 10 (by decide) (by decide) (fun _ => rfl) (fun _ => rfl) (fun _ _ => rfl) f
theorem vIdiv (f : LaneR) : Statement (.vIdiv f) :=
  roundtrips_r .vIdiv 1 11 (by decide) (by decide) (fun _ => rfl) (fun _ => rfl) (fun _ _ => rfl) f
theorem vIrem (f : LaneR) : Statement (.vIrem f) :=
  roundtrips_r .vIrem 1 12 (by decide) (by decide) (fun _ => rfl) (fun _ => rfl) (fun _ _ => rfl) f
theorem vIavg (f : LaneR) : Statement (.vIavg f) :=
  roundtrips_r .vIavg 1 13 (by decide) (by decide) (fun _ => rfl) (fun _ => rfl) (fun _ _ => rfl) f
theorem vIsad (f : LaneR) : Statement (.vIsad f) :=
  roundtrips_r .vIsad 1 14 (by decide) (by decide) (fun _ => rfl) (fun _ => rfl) (fun _ _ => rfl) f
theorem vAnd (f : LaneR) : Statement (.vAnd f) :=
  roundtrips_r .vAnd 2 0 (by decide) (by decide) (fun _ => rfl) (fun _ => rfl) (fun _ _ => rfl) f
theorem vOr (f : LaneR) : Statement (.vOr f) :=
  roundtrips_r .vOr 2 1 (by decide) (by decide) (fun _ => rfl) (fun _ => rfl) (fun _ _ => rfl) f
theorem vXor (f : LaneR) : Statement (.vXor f) :=
  roundtrips_r .vXor 2 2 (by decide) (by decide) (fun _ => rfl) (fun _ => rfl) (fun _ _ => rfl) f
theorem vNot (f : LaneR) : Statement (.vNot f) :=
  roundtrips_r .vNot 2 3 (by decide) (by decide) (fun _ => rfl) (fun _ => rfl) (fun _ _ => rfl) f
theorem vAndn (f : LaneR) : Statement (.vAndn f) :=
  roundtrips_r .vAndn 2 4 (by decide) (by decide) (fun _ => rfl) (fun _ => rfl) (fun _ _ => rfl) f
theorem vShl (f : LaneR) : Statement (.vShl f) :=
  roundtrips_r .vShl 2 5 (by decide) (by decide) (fun _ => rfl) (fun _ => rfl) (fun _ _ => rfl) f
theorem vShr (f : LaneR) : Statement (.vShr f) :=
  roundtrips_r .vShr 2 6 (by decide) (by decide) (fun _ => rfl) (fun _ => rfl) (fun _ _ => rfl) f
theorem vSra (f : LaneR) : Statement (.vSra f) :=
  roundtrips_r .vSra 2 7 (by decide) (by decide) (fun _ => rfl) (fun _ => rfl) (fun _ _ => rfl) f
theorem vRotl (f : LaneR) : Statement (.vRotl f) :=
  roundtrips_r .vRotl 2 8 (by decide) (by decide) (fun _ => rfl) (fun _ => rfl) (fun _ _ => rfl) f
theorem vPopc (f : LaneR) : Statement (.vPopc f) :=
  roundtrips_r .vPopc 2 9 (by decide) (by decide) (fun _ => rfl) (fun _ => rfl) (fun _ _ => rfl) f
theorem vClz (f : LaneR) : Statement (.vClz f) :=
  roundtrips_r .vClz 2 10 (by decide) (by decide) (fun _ => rfl) (fun _ => rfl) (fun _ _ => rfl) f
theorem vCtz (f : LaneR) : Statement (.vCtz f) :=
  roundtrips_r .vCtz 2 11 (by decide) (by decide) (fun _ => rfl) (fun _ => rfl) (fun _ _ => rfl) f
theorem vBrev (f : LaneR) : Statement (.vBrev f) :=
  roundtrips_r .vBrev 2 12 (by decide) (by decide) (fun _ => rfl) (fun _ => rfl) (fun _ _ => rfl) f
theorem vBfext (f : LaneR) : Statement (.vBfext f) :=
  roundtrips_r .vBfext 2 13 (by decide) (by decide) (fun _ => rfl) (fun _ => rfl) (fun _ _ => rfl) f
theorem vBfins (f : LaneR) : Statement (.vBfins f) :=
  roundtrips_r .vBfins 2 14 (by decide) (by decide) (fun _ => rfl) (fun _ => rfl) (fun _ _ => rfl) f
theorem vTlut (f : LaneR) : Statement (.vTlut f) :=
  roundtrips_r .vTlut 2 15 (by decide) (by decide) (fun _ => rfl) (fun _ => rfl) (fun _ _ => rfl) f
theorem vIcmpEq (f : LaneR) : Statement (.vIcmpEq f) :=
  roundtrips_r .vIcmpEq 3 0 (by decide) (by decide) (fun _ => rfl) (fun _ => rfl) (fun _ _ => rfl) f
theorem vIcmpNe (f : LaneR) : Statement (.vIcmpNe f) :=
  roundtrips_r .vIcmpNe 3 1 (by decide) (by decide) (fun _ => rfl) (fun _ => rfl) (fun _ _ => rfl) f
theorem vIcmpLt (f : LaneR) : Statement (.vIcmpLt f) :=
  roundtrips_r .vIcmpLt 3 2 (by decide) (by decide) (fun _ => rfl) (fun _ => rfl) (fun _ _ => rfl) f
theorem vIcmpLe (f : LaneR) : Statement (.vIcmpLe f) :=
  roundtrips_r .vIcmpLe 3 3 (by decide) (by decide) (fun _ => rfl) (fun _ => rfl) (fun _ _ => rfl) f
theorem vIcmpGt (f : LaneR) : Statement (.vIcmpGt f) :=
  roundtrips_r .vIcmpGt 3 4 (by decide) (by decide) (fun _ => rfl) (fun _ => rfl) (fun _ _ => rfl) f
theorem vIcmpGe (f : LaneR) : Statement (.vIcmpGe f) :=
  roundtrips_r .vIcmpGe 3 5 (by decide) (by decide) (fun _ => rfl) (fun _ => rfl) (fun _ _ => rfl) f
theorem vFadd (f : LaneR) : Statement (.vFadd f) :=
  roundtrips_r .vFadd 4 0 (by decide) (by decide) (fun _ => rfl) (fun _ => rfl) (fun _ _ => rfl) f
theorem vFsub (f : LaneR) : Statement (.vFsub f) :=
  roundtrips_r .vFsub 4 1 (by decide) (by decide) (fun _ => rfl) (fun _ => rfl) (fun _ _ => rfl) f
theorem vFmul (f : LaneR) : Statement (.vFmul f) :=
  roundtrips_r .vFmul 4 2 (by decide) (by decide) (fun _ => rfl) (fun _ => rfl) (fun _ _ => rfl) f
theorem vFfma (f : LaneR) : Statement (.vFfma f) :=
  roundtrips_r .vFfma 4 3 (by decide) (by decide) (fun _ => rfl) (fun _ => rfl) (fun _ _ => rfl) f
theorem vFmin (f : LaneR) : Statement (.vFmin f) :=
  roundtrips_r .vFmin 4 4 (by decide) (by decide) (fun _ => rfl) (fun _ => rfl) (fun _ _ => rfl) f
theorem vFmax (f : LaneR) : Statement (.vFmax f) :=
  roundtrips_r .vFmax 4 5 (by decide) (by decide) (fun _ => rfl) (fun _ => rfl) (fun _ _ => rfl) f
theorem vFminnum (f : LaneR) : Statement (.vFminnum f) :=
  roundtrips_r .vFminnum 4 6 (by decide) (by decide) (fun _ => rfl) (fun _ => rfl) (fun _ _ => rfl) f
theorem vFmaxnum (f : LaneR) : Statement (.vFmaxnum f) :=
  roundtrips_r .vFmaxnum 4 7 (by decide) (by decide) (fun _ => rfl) (fun _ => rfl) (fun _ _ => rfl) f
theorem vFabs (f : LaneR) : Statement (.vFabs f) :=
  roundtrips_r .vFabs 4 8 (by decide) (by decide) (fun _ => rfl) (fun _ => rfl) (fun _ _ => rfl) f
theorem vFneg (f : LaneR) : Statement (.vFneg f) :=
  roundtrips_r .vFneg 4 9 (by decide) (by decide) (fun _ => rfl) (fun _ => rfl) (fun _ _ => rfl) f
theorem vFcopysign (f : LaneR) : Statement (.vFcopysign f) :=
  roundtrips_r .vFcopysign 4 10 (by decide) (by decide) (fun _ => rfl) (fun _ => rfl) (fun _ _ => rfl) f
theorem vFclass (f : LaneR) : Statement (.vFclass f) :=
  roundtrips_r .vFclass 4 11 (by decide) (by decide) (fun _ => rfl) (fun _ => rfl) (fun _ _ => rfl) f
theorem vFcmpEq (f : LaneR) : Statement (.vFcmpEq f) :=
  roundtrips_r .vFcmpEq 5 0 (by decide) (by decide) (fun _ => rfl) (fun _ => rfl) (fun _ _ => rfl) f
theorem vFcmpNe (f : LaneR) : Statement (.vFcmpNe f) :=
  roundtrips_r .vFcmpNe 5 1 (by decide) (by decide) (fun _ => rfl) (fun _ => rfl) (fun _ _ => rfl) f
theorem vFcmpLt (f : LaneR) : Statement (.vFcmpLt f) :=
  roundtrips_r .vFcmpLt 5 2 (by decide) (by decide) (fun _ => rfl) (fun _ => rfl) (fun _ _ => rfl) f
theorem vFcmpLe (f : LaneR) : Statement (.vFcmpLe f) :=
  roundtrips_r .vFcmpLe 5 3 (by decide) (by decide) (fun _ => rfl) (fun _ => rfl) (fun _ _ => rfl) f
theorem vFcmpGt (f : LaneR) : Statement (.vFcmpGt f) :=
  roundtrips_r .vFcmpGt 5 4 (by decide) (by decide) (fun _ => rfl) (fun _ => rfl) (fun _ _ => rfl) f
theorem vFcmpGe (f : LaneR) : Statement (.vFcmpGe f) :=
  roundtrips_r .vFcmpGe 5 5 (by decide) (by decide) (fun _ => rfl) (fun _ => rfl) (fun _ _ => rfl) f
theorem vFcmpUn (f : LaneR) : Statement (.vFcmpUn f) :=
  roundtrips_r .vFcmpUn 5 6 (by decide) (by decide) (fun _ => rfl) (fun _ => rfl) (fun _ _ => rfl) f
theorem vFcmpOrd (f : LaneR) : Statement (.vFcmpOrd f) :=
  roundtrips_r .vFcmpOrd 5 7 (by decide) (by decide) (fun _ => rfl) (fun _ => rfl) (fun _ _ => rfl) f
theorem vRcp (f : LaneR) : Statement (.vRcp f) :=
  roundtrips_r .vRcp 6 0 (by decide) (by decide) (fun _ => rfl) (fun _ => rfl) (fun _ _ => rfl) f
theorem vRsq (f : LaneR) : Statement (.vRsq f) :=
  roundtrips_r .vRsq 6 1 (by decide) (by decide) (fun _ => rfl) (fun _ => rfl) (fun _ _ => rfl) f
theorem vSqrt (f : LaneR) : Statement (.vSqrt f) :=
  roundtrips_r .vSqrt 6 2 (by decide) (by decide) (fun _ => rfl) (fun _ => rfl) (fun _ _ => rfl) f
theorem vDiv (f : LaneR) : Statement (.vDiv f) :=
  roundtrips_r .vDiv 6 3 (by decide) (by decide) (fun _ => rfl) (fun _ => rfl) (fun _ _ => rfl) f
theorem vExp2 (f : LaneR) : Statement (.vExp2 f) :=
  roundtrips_r .vExp2 6 4 (by decide) (by decide) (fun _ => rfl) (fun _ => rfl) (fun _ _ => rfl) f
theorem vLog2 (f : LaneR) : Statement (.vLog2 f) :=
  roundtrips_r .vLog2 6 5 (by decide) (by decide) (fun _ => rfl) (fun _ => rfl) (fun _ _ => rfl) f
theorem vCvt (src : BitVec 8) (f : LaneR) : Statement (.vCvt src f) := by
  refine roundtrips_lane 7 src.toNat (.r f) rfl (by decide) src.isLt rfl fun hw => ?_
  rw [show (LaneBody.r f).nat = f.nat from rfl, laneRof_of]
  have hb := LaneR.nat_lt f
  have hx := src.isLt
  have hi : laneIllegal (BitVec.ofNat 96 (laneNat (.vCvt src f))) 640 0 = none ∧ src.toNat ≠ 0x40 := by
    simp only [wellFormed, Bool.and_eq_true, beq_iff_eq, bne_iff_ne] at hw
    exact ⟨hw.1, hw.2⟩
  have t : (BitVec.ofNat 96 (laneNat (.vCvt src f))).toNat = 7 * 2 ^ 88 + src.toNat * 2 ^ 80 + f.nat := by
    have e : laneNat (.vCvt src f) = 7 * 2 ^ 88 + src.toNat * 2 ^ 80 + f.nat := rfl
    rw [BitVec.toNat_ofNat, e]; omega
  have m1 : (7 * 2 ^ 88 + src.toNat * 2 ^ 80 + f.nat) / 2 ^ 88 = 7 := by omega
  have m2 : (7 * 2 ^ 88 + src.toNat * 2 ^ 80 + f.nat) / 2 ^ 80 % 256 = src.toNat := by omega
  have ht : (7 * 2 ^ 88 + src.toNat * 2 ^ 80 + f.nat) % 64 = f.ty.toNat := by
    have := f.ty.isLt; simp only [LaneR.nat]; omega
  have hcond : 1 ≤ src.toNat ∧ src.toNat ≤ 0x0C ∧ src.toNat ≠ f.ty.toNat := by
    by_contra hn
    have hz : ∀ imm, laneSpec 7 src.toNat f.ty.toNat imm = none := by
      intro imm; simp only [laneSpec]; rw [if_neg hi.2, if_neg hn]
    have hk := hi.1
    simp only [laneIllegal, t, m1, m2, ht, hz, if_true] at hk
    simp [laneMajorOk] at hk
  show (if src.toNat = 0x40 then _ else if 1 ≤ src.toNat ∧ src.toNat ≤ 0x0C ∧ src.toNat ≠ f.ty.toNat then _ else _) = _
  rw [if_neg hi.2, if_pos hcond, field_of src]
  omega
theorem vFrint (f : LaneR) : Statement (.vFrint f) :=
  roundtrips_r .vFrint 7 64 (by decide) (by decide) (fun _ => rfl) (fun _ => rfl) (fun _ _ => rfl) f
theorem vQnt (f : LaneR) : Statement (.vQnt f) :=
  roundtrips_r .vQnt 8 0 (by decide) (by decide) (fun _ => rfl) (fun _ => rfl) (fun _ _ => rfl) f
theorem vDqnt (f : LaneR) : Statement (.vDqnt f) :=
  roundtrips_r .vDqnt 8 1 (by decide) (by decide) (fun _ => rfl) (fun _ => rfl) (fun _ _ => rfl) f
theorem vQscale (f : LaneR) : Statement (.vQscale f) :=
  roundtrips_r .vQscale 8 2 (by decide) (by decide) (fun _ => rfl) (fun _ => rfl) (fun _ _ => rfl) f
theorem vPand (f : LaneR) : Statement (.vPand f) :=
  roundtrips_r .vPand 9 0 (by decide) (by decide) (fun _ => rfl) (fun _ => rfl) (fun _ _ => rfl) f
theorem vPor (f : LaneR) : Statement (.vPor f) :=
  roundtrips_r .vPor 9 1 (by decide) (by decide) (fun _ => rfl) (fun _ => rfl) (fun _ _ => rfl) f
theorem vPxor (f : LaneR) : Statement (.vPxor f) :=
  roundtrips_r .vPxor 9 2 (by decide) (by decide) (fun _ => rfl) (fun _ => rfl) (fun _ _ => rfl) f
theorem vPandn (f : LaneR) : Statement (.vPandn f) :=
  roundtrips_r .vPandn 9 3 (by decide) (by decide) (fun _ => rfl) (fun _ => rfl) (fun _ _ => rfl) f
theorem vPnot (f : LaneR) : Statement (.vPnot f) :=
  roundtrips_r .vPnot 9 4 (by decide) (by decide) (fun _ => rfl) (fun _ => rfl) (fun _ _ => rfl) f
theorem vPmov (f : LaneR) : Statement (.vPmov f) :=
  roundtrips_r .vPmov 9 5 (by decide) (by decide) (fun _ => rfl) (fun _ => rfl) (fun _ _ => rfl) f
theorem vPfromv (f : LaneR) : Statement (.vPfromv f) :=
  roundtrips_r .vPfromv 9 6 (by decide) (by decide) (fun _ => rfl) (fun _ => rfl) (fun _ _ => rfl) f
theorem vPvec (f : LaneR) : Statement (.vPvec f) :=
  roundtrips_r .vPvec 9 7 (by decide) (by decide) (fun _ => rfl) (fun _ => rfl) (fun _ _ => rfl) f
theorem vPfirst (f : LaneR) : Statement (.vPfirst f) :=
  roundtrips_r .vPfirst 9 8 (by decide) (by decide) (fun _ => rfl) (fun _ => rfl) (fun _ _ => rfl) f
theorem vMov (f : LaneR) : Statement (.vMov f) :=
  roundtrips_r .vMov 10 0 (by decide) (by decide) (fun _ => rfl) (fun _ => rfl) (fun _ _ => rfl) f
theorem vSel (f : LaneR) : Statement (.vSel f) :=
  roundtrips_r .vSel 10 1 (by decide) (by decide) (fun _ => rfl) (fun _ => rfl) (fun _ _ => rfl) f
theorem vLidx (f : LaneR) : Statement (.vLidx f) :=
  roundtrips_r .vLidx 11 0 (by decide) (by decide) (fun _ => rfl) (fun _ => rfl) (fun _ _ => rfl) f
theorem vLxor (f : LaneR) : Statement (.vLxor f) :=
  roundtrips_r .vLxor 11 1 (by decide) (by decide) (fun _ => rfl) (fun _ => rfl) (fun _ _ => rfl) f
theorem vLrot (f : LaneR) : Statement (.vLrot f) :=
  roundtrips_r .vLrot 11 2 (by decide) (by decide) (fun _ => rfl) (fun _ => rfl) (fun _ _ => rfl) f
theorem vBcast (f : LaneR) : Statement (.vBcast f) :=
  roundtrips_r .vBcast 11 3 (by decide) (by decide) (fun _ => rfl) (fun _ => rfl) (fun _ _ => rfl) f
theorem vRadd (f : LaneR) : Statement (.vRadd f) :=
  roundtrips_r .vRadd 12 0 (by decide) (by decide) (fun _ => rfl) (fun _ => rfl) (fun _ _ => rfl) f
theorem vRmin (f : LaneR) : Statement (.vRmin f) :=
  roundtrips_r .vRmin 12 1 (by decide) (by decide) (fun _ => rfl) (fun _ => rfl) (fun _ _ => rfl) f
theorem vRmax (f : LaneR) : Statement (.vRmax f) :=
  roundtrips_r .vRmax 12 2 (by decide) (by decide) (fun _ => rfl) (fun _ => rfl) (fun _ _ => rfl) f
theorem vRand (f : LaneR) : Statement (.vRand f) :=
  roundtrips_r .vRand 12 3 (by decide) (by decide) (fun _ => rfl) (fun _ => rfl) (fun _ _ => rfl) f
theorem vRor (f : LaneR) : Statement (.vRor f) :=
  roundtrips_r .vRor 12 4 (by decide) (by decide) (fun _ => rfl) (fun _ => rfl) (fun _ _ => rfl) f
theorem vRxor (f : LaneR) : Statement (.vRxor f) :=
  roundtrips_r .vRxor 12 5 (by decide) (by decide) (fun _ => rfl) (fun _ => rfl) (fun _ _ => rfl) f
theorem vDp4 (f : LaneR) : Statement (.vDp4 f) :=
  roundtrips_r .vDp4 13 0 (by decide) (by decide) (fun _ => rfl) (fun _ => rfl) (fun _ _ => rfl) f
theorem vDp2 (f : LaneR) : Statement (.vDp2 f) :=
  roundtrips_r .vDp2 13 1 (by decide) (by decide) (fun _ => rfl) (fun _ => rfl) (fun _ _ => rfl) f
theorem vIaddI (f : LaneI) : Statement (.vIaddI f) :=
  roundtrips_i .vIaddI 17 0 (by decide) (by decide) (fun _ => rfl) (fun _ => rfl) (fun _ _ => rfl) f
theorem vIsubI (f : LaneI) : Statement (.vIsubI f) :=
  roundtrips_i .vIsubI 17 1 (by decide) (by decide) (fun _ => rfl) (fun _ => rfl) (fun _ _ => rfl) f
theorem vIaddsatI (f : LaneI) : Statement (.vIaddsatI f) :=
  roundtrips_i .vIaddsatI 17 2 (by decide) (by decide) (fun _ => rfl) (fun _ => rfl) (fun _ _ => rfl) f
theorem vIsubsatI (f : LaneI) : Statement (.vIsubsatI f) :=
  roundtrips_i .vIsubsatI 17 3 (by decide) (by decide) (fun _ => rfl) (fun _ => rfl) (fun _ _ => rfl) f
theorem vImulI (f : LaneI) : Statement (.vImulI f) :=
  roundtrips_i .vImulI 17 4 (by decide) (by decide) (fun _ => rfl) (fun _ => rfl) (fun _ _ => rfl) f
theorem vIminI (f : LaneI) : Statement (.vIminI f) :=
  roundtrips_i .vIminI 17 7 (by decide) (by decide) (fun _ => rfl) (fun _ => rfl) (fun _ _ => rfl) f
theorem vImaxI (f : LaneI) : Statement (.vImaxI f) :=
  roundtrips_i .vImaxI 17 8 (by decide) (by decide) (fun _ => rfl) (fun _ => rfl) (fun _ _ => rfl) f
theorem vAndI (f : LaneI) : Statement (.vAndI f) :=
  roundtrips_i .vAndI 18 0 (by decide) (by decide) (fun _ => rfl) (fun _ => rfl) (fun _ _ => rfl) f
theorem vOrI (f : LaneI) : Statement (.vOrI f) :=
  roundtrips_i .vOrI 18 1 (by decide) (by decide) (fun _ => rfl) (fun _ => rfl) (fun _ _ => rfl) f
theorem vXorI (f : LaneI) : Statement (.vXorI f) :=
  roundtrips_i .vXorI 18 2 (by decide) (by decide) (fun _ => rfl) (fun _ => rfl) (fun _ _ => rfl) f
theorem vShlI (f : LaneI) : Statement (.vShlI f) :=
  roundtrips_i .vShlI 18 5 (by decide) (by decide) (fun _ => rfl) (fun _ => rfl) (fun _ _ => rfl) f
theorem vShrI (f : LaneI) : Statement (.vShrI f) :=
  roundtrips_i .vShrI 18 6 (by decide) (by decide) (fun _ => rfl) (fun _ => rfl) (fun _ _ => rfl) f
theorem vSraI (f : LaneI) : Statement (.vSraI f) :=
  roundtrips_i .vSraI 18 7 (by decide) (by decide) (fun _ => rfl) (fun _ => rfl) (fun _ _ => rfl) f
theorem vRotlI (f : LaneI) : Statement (.vRotlI f) :=
  roundtrips_i .vRotlI 18 8 (by decide) (by decide) (fun _ => rfl) (fun _ => rfl) (fun _ _ => rfl) f
theorem vBfextI (f : LaneI) : Statement (.vBfextI f) :=
  roundtrips_i .vBfextI 18 13 (by decide) (by decide) (fun _ => rfl) (fun _ => rfl) (fun _ _ => rfl) f
theorem vIcmpEqI (f : LaneI) : Statement (.vIcmpEqI f) :=
  roundtrips_i .vIcmpEqI 19 0 (by decide) (by decide) (fun _ => rfl) (fun _ => rfl) (fun _ _ => rfl) f
theorem vIcmpNeI (f : LaneI) : Statement (.vIcmpNeI f) :=
  roundtrips_i .vIcmpNeI 19 1 (by decide) (by decide) (fun _ => rfl) (fun _ => rfl) (fun _ _ => rfl) f
theorem vIcmpLtI (f : LaneI) : Statement (.vIcmpLtI f) :=
  roundtrips_i .vIcmpLtI 19 2 (by decide) (by decide) (fun _ => rfl) (fun _ => rfl) (fun _ _ => rfl) f
theorem vIcmpLeI (f : LaneI) : Statement (.vIcmpLeI f) :=
  roundtrips_i .vIcmpLeI 19 3 (by decide) (by decide) (fun _ => rfl) (fun _ => rfl) (fun _ _ => rfl) f
theorem vIcmpGtI (f : LaneI) : Statement (.vIcmpGtI f) :=
  roundtrips_i .vIcmpGtI 19 4 (by decide) (by decide) (fun _ => rfl) (fun _ => rfl) (fun _ _ => rfl) f
theorem vIcmpGeI (f : LaneI) : Statement (.vIcmpGeI f) :=
  roundtrips_i .vIcmpGeI 19 5 (by decide) (by decide) (fun _ => rfl) (fun _ => rfl) (fun _ _ => rfl) f
theorem vFaddI (f : LaneI) : Statement (.vFaddI f) :=
  roundtrips_i .vFaddI 20 0 (by decide) (by decide) (fun _ => rfl) (fun _ => rfl) (fun _ _ => rfl) f
theorem vFmulI (f : LaneI) : Statement (.vFmulI f) :=
  roundtrips_i .vFmulI 20 2 (by decide) (by decide) (fun _ => rfl) (fun _ => rfl) (fun _ _ => rfl) f
theorem vFfmaI (f : LaneI) : Statement (.vFfmaI f) :=
  roundtrips_i .vFfmaI 20 3 (by decide) (by decide) (fun _ => rfl) (fun _ => rfl) (fun _ _ => rfl) f
theorem vFminI (f : LaneI) : Statement (.vFminI f) :=
  roundtrips_i .vFminI 20 4 (by decide) (by decide) (fun _ => rfl) (fun _ => rfl) (fun _ _ => rfl) f
theorem vFmaxI (f : LaneI) : Statement (.vFmaxI f) :=
  roundtrips_i .vFmaxI 20 5 (by decide) (by decide) (fun _ => rfl) (fun _ => rfl) (fun _ _ => rfl) f
theorem vFcmpEqI (f : LaneI) : Statement (.vFcmpEqI f) :=
  roundtrips_i .vFcmpEqI 21 0 (by decide) (by decide) (fun _ => rfl) (fun _ => rfl) (fun _ _ => rfl) f
theorem vFcmpNeI (f : LaneI) : Statement (.vFcmpNeI f) :=
  roundtrips_i .vFcmpNeI 21 1 (by decide) (by decide) (fun _ => rfl) (fun _ => rfl) (fun _ _ => rfl) f
theorem vFcmpLtI (f : LaneI) : Statement (.vFcmpLtI f) :=
  roundtrips_i .vFcmpLtI 21 2 (by decide) (by decide) (fun _ => rfl) (fun _ => rfl) (fun _ _ => rfl) f
theorem vFcmpLeI (f : LaneI) : Statement (.vFcmpLeI f) :=
  roundtrips_i .vFcmpLeI 21 3 (by decide) (by decide) (fun _ => rfl) (fun _ => rfl) (fun _ _ => rfl) f
theorem vFcmpGtI (f : LaneI) : Statement (.vFcmpGtI f) :=
  roundtrips_i .vFcmpGtI 21 4 (by decide) (by decide) (fun _ => rfl) (fun _ => rfl) (fun _ _ => rfl) f
theorem vFcmpGeI (f : LaneI) : Statement (.vFcmpGeI f) :=
  roundtrips_i .vFcmpGeI 21 5 (by decide) (by decide) (fun _ => rfl) (fun _ => rfl) (fun _ _ => rfl) f
theorem vFcmpUnI (f : LaneI) : Statement (.vFcmpUnI f) :=
  roundtrips_i .vFcmpUnI 21 6 (by decide) (by decide) (fun _ => rfl) (fun _ => rfl) (fun _ _ => rfl) f
theorem vFcmpOrdI (f : LaneI) : Statement (.vFcmpOrdI f) :=
  roundtrips_i .vFcmpOrdI 21 7 (by decide) (by decide) (fun _ => rfl) (fun _ => rfl) (fun _ _ => rfl) f
theorem vMovI (f : LaneI) : Statement (.vMovI f) :=
  roundtrips_i .vMovI 26 0 (by decide) (by decide) (fun _ => rfl) (fun _ => rfl) (fun _ _ => rfl) f
theorem vSelI (f : LaneI) : Statement (.vSelI f) :=
  roundtrips_i .vSelI 26 1 (by decide) (by decide) (fun _ => rfl) (fun _ => rfl) (fun _ _ => rfl) f
theorem vLidxI (f : LaneI) : Statement (.vLidxI f) :=
  roundtrips_i .vLidxI 27 0 (by decide) (by decide) (fun _ => rfl) (fun _ => rfl) (fun _ _ => rfl) f
theorem vLxorI (f : LaneI) : Statement (.vLxorI f) :=
  roundtrips_i .vLxorI 27 1 (by decide) (by decide) (fun _ => rfl) (fun _ => rfl) (fun _ _ => rfl) f
theorem vLrotI (f : LaneI) : Statement (.vLrotI f) :=
  roundtrips_i .vLrotI 27 2 (by decide) (by decide) (fun _ => rfl) (fun _ => rfl) (fun _ _ => rfl) f
theorem vBcastI (f : LaneI) : Statement (.vBcastI f) :=
  roundtrips_i .vBcastI 27 3 (by decide) (by decide) (fun _ => rfl) (fun _ => rfl) (fun _ _ => rfl) f
theorem vSpld (f : LaneI) : Statement (.vSpld f) :=
  roundtrips_i .vSpld 32 0 (by decide) (by decide) (fun _ => rfl) (fun _ => rfl) (fun _ _ => rfl) f
theorem vSpst (f : LaneI) : Statement (.vSpst f) :=
  roundtrips_i .vSpst 32 1 (by decide) (by decide) (fun _ => rfl) (fun _ => rfl) (fun _ _ => rfl) f
theorem vGld (f : LaneI) : Statement (.vGld f) :=
  roundtrips_i .vGld 33 0 (by decide) (by decide) (fun _ => rfl) (fun _ => rfl) (fun _ _ => rfl) f
theorem vGst (f : LaneI) : Statement (.vGst f) :=
  roundtrips_i .vGst 33 1 (by decide) (by decide) (fun _ => rfl) (fun _ => rfl) (fun _ _ => rfl) f
theorem vGprefetch (f : LaneI) : Statement (.vGprefetch f) :=
  roundtrips_i .vGprefetch 33 2 (by decide) (by decide) (fun _ => rfl) (fun _ => rfl) (fun _ _ => rfl) f
theorem vAadd (scope : BitVec 2) (f : LaneI) : Statement (.vAadd scope f) :=
  roundtrips_atomic .vAadd 0 (by decide) (fun _ _ => rfl) (fun _ _ => rfl) (fun n _ _ h1 h2 => by delta laneCand; show (if 3 ≤ n / 16 then _ else _) = _; rw [if_neg h1, h2]; rfl) scope f
theorem vAmin (scope : BitVec 2) (f : LaneI) : Statement (.vAmin scope f) :=
  roundtrips_atomic .vAmin 1 (by decide) (fun _ _ => rfl) (fun _ _ => rfl) (fun n _ _ h1 h2 => by delta laneCand; show (if 3 ≤ n / 16 then _ else _) = _; rw [if_neg h1, h2]; rfl) scope f
theorem vAmax (scope : BitVec 2) (f : LaneI) : Statement (.vAmax scope f) :=
  roundtrips_atomic .vAmax 2 (by decide) (fun _ _ => rfl) (fun _ _ => rfl) (fun n _ _ h1 h2 => by delta laneCand; show (if 3 ≤ n / 16 then _ else _) = _; rw [if_neg h1, h2]; rfl) scope f
theorem vAand (scope : BitVec 2) (f : LaneI) : Statement (.vAand scope f) :=
  roundtrips_atomic .vAand 3 (by decide) (fun _ _ => rfl) (fun _ _ => rfl) (fun n _ _ h1 h2 => by delta laneCand; show (if 3 ≤ n / 16 then _ else _) = _; rw [if_neg h1, h2]; rfl) scope f
theorem vAor (scope : BitVec 2) (f : LaneI) : Statement (.vAor scope f) :=
  roundtrips_atomic .vAor 4 (by decide) (fun _ _ => rfl) (fun _ _ => rfl) (fun n _ _ h1 h2 => by delta laneCand; show (if 3 ≤ n / 16 then _ else _) = _; rw [if_neg h1, h2]; rfl) scope f
theorem vAxor (scope : BitVec 2) (f : LaneI) : Statement (.vAxor scope f) :=
  roundtrips_atomic .vAxor 5 (by decide) (fun _ _ => rfl) (fun _ _ => rfl) (fun n _ _ h1 h2 => by delta laneCand; show (if 3 ≤ n / 16 then _ else _) = _; rw [if_neg h1, h2]; rfl) scope f
theorem vAxchg (scope : BitVec 2) (f : LaneI) : Statement (.vAxchg scope f) :=
  roundtrips_atomic .vAxchg 6 (by decide) (fun _ _ => rfl) (fun _ _ => rfl) (fun n _ _ h1 h2 => by delta laneCand; show (if 3 ≤ n / 16 then _ else _) = _; rw [if_neg h1, h2]; rfl) scope f
theorem vAcas (scope : BitVec 2) (f : LaneI) : Statement (.vAcas scope f) :=
  roundtrips_atomic .vAcas 7 (by decide) (fun _ _ => rfl) (fun _ _ => rfl) (fun n _ _ h1 h2 => by delta laneCand; show (if 3 ≤ n / 16 then _ else _) = _; rw [if_neg h1, h2]; rfl) scope f
theorem vAfadd (scope : BitVec 2) (f : LaneI) : Statement (.vAfadd scope f) :=
  roundtrips_atomic .vAfadd 8 (by decide) (fun _ _ => rfl) (fun _ _ => rfl) (fun n _ _ h1 h2 => by delta laneCand; show (if 3 ≤ n / 16 then _ else _) = _; rw [if_neg h1, h2]; rfl) scope f
theorem vAppend (f : LaneI) : Statement (.vAppend f) :=
  roundtrips_i .vAppend 35 0 (by decide) (by decide) (fun _ => rfl) (fun _ => rfl) (fun _ _ => rfl) f
theorem vFenceCore (f : LaneR) : Statement (.vFenceCore f) :=
  roundtrips_r .vFenceCore 36 0 (by decide) (by decide) (fun _ => rfl) (fun _ => rfl) (fun _ _ => rfl) f
theorem vFencePkg (f : LaneR) : Statement (.vFencePkg f) :=
  roundtrips_r .vFencePkg 36 1 (by decide) (by decide) (fun _ => rfl) (fun _ => rfl) (fun _ _ => rfl) f
theorem vFenceSys (f : LaneR) : Statement (.vFenceSys f) :=
  roundtrips_r .vFenceSys 36 2 (by decide) (by decide) (fun _ => rfl) (fun _ => rfl) (fun _ _ => rfl) f
theorem vFenceEng (f : LaneR) : Statement (.vFenceEng f) :=
  roundtrips_r .vFenceEng 36 3 (by decide) (by decide) (fun _ => rfl) (fun _ => rfl) (fun _ _ => rfl) f
theorem vCopy (f : LaneR) : Statement (.vCopy f) := by
  refine roundtrips_lane 48 0 (.r f) rfl (by decide) (by decide) rfl fun hw => ?_
  have h : f.dst.toNat % 2 = 0 := by simp only [wellFormed, Bool.and_eq_true, beq_iff_eq] at hw; exact hw.2
  rw [show (LaneBody.r f).nat = f.nat from rfl, laneRof_of]
  show (if f.dst.toNat % 2 = 1 then _ else _) = _
  rw [if_neg (by omega)]
theorem vCopyFo (f : LaneR) : Statement (.vCopyFo f) := by
  refine roundtrips_lane 48 0 (.r f) rfl (by decide) (by decide) rfl fun hw => ?_
  have h : f.dst.toNat % 2 = 1 := by simp only [wellFormed, Bool.and_eq_true, beq_iff_eq] at hw; exact hw.2
  rw [show (LaneBody.r f).nat = f.nat from rfl, laneRof_of]
  show (if f.dst.toNat % 2 = 1 then _ else _) = _
  rw [if_pos h]
theorem vCbset (f : LaneR) : Statement (.vCbset f) :=
  roundtrips_r .vCbset 49 0 (by decide) (by decide) (fun _ => rfl) (fun _ => rfl) (fun _ _ => rfl) f
theorem vCbpush (f : LaneR) : Statement (.vCbpush f) :=
  roundtrips_r .vCbpush 49 1 (by decide) (by decide) (fun _ => rfl) (fun _ => rfl) (fun _ _ => rfl) f
theorem vCbpop (f : LaneR) : Statement (.vCbpop f) :=
  roundtrips_r .vCbpop 49 2 (by decide) (by decide) (fun _ => rfl) (fun _ => rfl) (fun _ _ => rfl) f
theorem vCbstat (f : LaneR) : Statement (.vCbstat f) :=
  roundtrips_r .vCbstat 49 3 (by decide) (by decide) (fun _ => rfl) (fun _ => rfl) (fun _ _ => rfl) f
theorem vMldw (f : LaneR) : Statement (.vMldw f) :=
  roundtrips_r .vMldw 50 0 (by decide) (by decide) (fun _ => rfl) (fun _ => rfl) (fun _ _ => rfl) f
theorem vMswap (f : LaneR) : Statement (.vMswap f) :=
  roundtrips_r .vMswap 50 1 (by decide) (by decide) (fun _ => rfl) (fun _ => rfl) (fun _ _ => rfl) f
theorem vMstream (f : LaneR) : Statement (.vMstream f) :=
  roundtrips_r .vMstream 50 2 (by decide) (by decide) (fun _ => rfl) (fun _ => rfl) (fun _ _ => rfl) f
theorem vMdrain (f : LaneR) : Statement (.vMdrain f) :=
  roundtrips_r .vMdrain 50 3 (by decide) (by decide) (fun _ => rfl) (fun _ => rfl) (fun _ _ => rfl) f
theorem vMclear (f : LaneR) : Statement (.vMclear f) :=
  roundtrips_r .vMclear 50 4 (by decide) (by decide) (fun _ => rfl) (fun _ => rfl) (fun _ _ => rfl) f
theorem vMperm (f : LaneR) : Statement (.vMperm f) :=
  roundtrips_r .vMperm 50 5 (by decide) (by decide) (fun _ => rfl) (fun _ => rfl) (fun _ _ => rfl) f
theorem vRoute (f : LaneR) : Statement (.vRoute f) :=
  roundtrips_r .vRoute 51 0 (by decide) (by decide) (fun _ => rfl) (fun _ => rfl) (fun _ _ => rfl) f
theorem vCstart (f : LaneR) : Statement (.vCstart f) :=
  roundtrips_r .vCstart 52 0 (by decide) (by decide) (fun _ => rfl) (fun _ => rfl) (fun _ _ => rfl) f
theorem vHwait (f : LaneR) : Statement (.vHwait f) :=
  roundtrips_r .vHwait 53 0 (by decide) (by decide) (fun _ => rfl) (fun _ => rfl) (fun _ _ => rfl) f
theorem vHrel (f : LaneR) : Statement (.vHrel f) :=
  roundtrips_r .vHrel 53 1 (by decide) (by decide) (fun _ => rfl) (fun _ => rfl) (fun _ _ => rfl) f
theorem vHstat (f : LaneR) : Statement (.vHstat f) :=
  roundtrips_r .vHstat 53 2 (by decide) (by decide) (fun _ => rfl) (fun _ => rfl) (fun _ _ => rfl) f
theorem vLend (f : LaneI) : Statement (.vLend f) :=
  roundtrips_i .vLend 56 0 (by decide) (by decide) (fun _ => rfl) (fun _ => rfl) (fun _ _ => rfl) f
theorem vLnop (f : LaneI) : Statement (.vLnop f) :=
  roundtrips_i .vLnop 56 1 (by decide) (by decide) (fun _ => rfl) (fun _ => rfl) (fun _ _ => rfl) f
theorem vLbrAny (f : LaneI) : Statement (.vLbrAny f) := by
  refine roundtrips_lane 56 2 (.i f) rfl (by decide) (by decide) rfl fun hw => ?_
  have h : f.imm.toNat / 2 ^ 16 % 2 = 0 := by simp only [wellFormed, Bool.and_eq_true, beq_iff_eq] at hw; exact hw.2
  rw [show (LaneBody.i f).nat = f.nat from rfl, laneIof_of]
  show (if f.imm.toNat / 2 ^ 16 % 2 = 1 then _ else _) = _
  rw [if_neg (by omega)]
theorem vLbrAll (f : LaneI) : Statement (.vLbrAll f) := by
  refine roundtrips_lane 56 2 (.i f) rfl (by decide) (by decide) rfl fun hw => ?_
  have h : f.imm.toNat / 2 ^ 16 % 2 = 1 := by simp only [wellFormed, Bool.and_eq_true, beq_iff_eq] at hw; exact hw.2
  rw [show (LaneBody.i f).nat = f.nat from rfl, laneIof_of]
  show (if f.imm.toNat / 2 ^ 16 % 2 = 1 then _ else _) = _
  rw [if_pos h]
theorem vLjmp (f : LaneI) : Statement (.vLjmp f) :=
  roundtrips_i .vLjmp 56 3 (by decide) (by decide) (fun _ => rfl) (fun _ => rfl) (fun _ _ => rfl) f
theorem vRegang (f : LaneI) : Statement (.vRegang f) :=
  roundtrips_i .vRegang 56 4 (by decide) (by decide) (fun _ => rfl) (fun _ => rfl) (fun _ _ => rfl) f
theorem vLtrap (f : LaneI) : Statement (.vLtrap f) :=
  roundtrips_i .vLtrap 56 5 (by decide) (by decide) (fun _ => rfl) (fun _ => rfl) (fun _ _ => rfl) f
theorem mLi (d : BitVec 4) (imm : BitVec 32) : Statement (.mLi d imm) := by
  have h0 := d.isLt
  have h1 := imm.isLt
  have e : mcfNat (.mLi d imm) = mcfPack 1 d.toNat 0 0 0 0 imm.toNat := rfl
  simp only [mcfPack] at e
  refine roundtrips_mcf rfl (by omega) fun _ => ?_
  have m1 : mcfNat (.mLi d imm) / 2 ^ 56 % 256 = 1 := by omega
  delta mcfCand
  simp only []
  rw [m1]
  show some _ = some _
  rw [field_of d, field_of imm] <;> omega
theorem mAddi (d : BitVec 4) (a : BitVec 4) (imm : BitVec 32) : Statement (.mAddi d a imm) := by
  have h0 := d.isLt
  have h1 := a.isLt
  have h2 := imm.isLt
  have e : mcfNat (.mAddi d a imm) = mcfPack 2 d.toNat a.toNat 0 0 0 imm.toNat := rfl
  simp only [mcfPack] at e
  refine roundtrips_mcf rfl (by omega) fun _ => ?_
  have m1 : mcfNat (.mAddi d a imm) / 2 ^ 56 % 256 = 2 := by omega
  delta mcfCand
  simp only []
  rw [m1]
  show some _ = some _
  rw [field_of d, field_of a, field_of imm] <;> omega
theorem mAdd (d : BitVec 4) (a : BitVec 4) (b : BitVec 4) : Statement (.mAdd d a b) := by
  have h0 := d.isLt
  have h1 := a.isLt
  have h2 := b.isLt
  have e : mcfNat (.mAdd d a b) = mcfPack 3 d.toNat a.toNat b.toNat 0 0 0 := rfl
  simp only [mcfPack] at e
  refine roundtrips_mcf rfl (by omega) fun _ => ?_
  have m1 : mcfNat (.mAdd d a b) / 2 ^ 56 % 256 = 3 := by omega
  have m2 : mcfNat (.mAdd d a b) / 2 ^ 32 % 256 = 0 := by omega
  delta mcfCand
  simp only []
  rw [m1, m2]
  show some _ = some _
  rw [field_of d, field_of a, field_of b] <;> omega
theorem mSub (d : BitVec 4) (a : BitVec 4) (b : BitVec 4) : Statement (.mSub d a b) := by
  have h0 := d.isLt
  have h1 := a.isLt
  have h2 := b.isLt
  have e : mcfNat (.mSub d a b) = mcfPack 3 d.toNat a.toNat b.toNat 0 1 0 := rfl
  simp only [mcfPack] at e
  refine roundtrips_mcf rfl (by omega) fun _ => ?_
  have m1 : mcfNat (.mSub d a b) / 2 ^ 56 % 256 = 3 := by omega
  have m2 : mcfNat (.mSub d a b) / 2 ^ 32 % 256 = 1 := by omega
  delta mcfCand
  simp only []
  rw [m1, m2]
  show some _ = some _
  rw [field_of d, field_of a, field_of b] <;> omega
theorem mAnd (d : BitVec 4) (a : BitVec 4) (b : BitVec 4) : Statement (.mAnd d a b) := by
  have h0 := d.isLt
  have h1 := a.isLt
  have h2 := b.isLt
  have e : mcfNat (.mAnd d a b) = mcfPack 3 d.toNat a.toNat b.toNat 0 2 0 := rfl
  simp only [mcfPack] at e
  refine roundtrips_mcf rfl (by omega) fun _ => ?_
  have m1 : mcfNat (.mAnd d a b) / 2 ^ 56 % 256 = 3 := by omega
  have m2 : mcfNat (.mAnd d a b) / 2 ^ 32 % 256 = 2 := by omega
  delta mcfCand
  simp only []
  rw [m1, m2]
  show some _ = some _
  rw [field_of d, field_of a, field_of b] <;> omega
theorem mOr (d : BitVec 4) (a : BitVec 4) (b : BitVec 4) : Statement (.mOr d a b) := by
  have h0 := d.isLt
  have h1 := a.isLt
  have h2 := b.isLt
  have e : mcfNat (.mOr d a b) = mcfPack 3 d.toNat a.toNat b.toNat 0 3 0 := rfl
  simp only [mcfPack] at e
  refine roundtrips_mcf rfl (by omega) fun _ => ?_
  have m1 : mcfNat (.mOr d a b) / 2 ^ 56 % 256 = 3 := by omega
  have m2 : mcfNat (.mOr d a b) / 2 ^ 32 % 256 = 3 := by omega
  delta mcfCand
  simp only []
  rw [m1, m2]
  show some _ = some _
  rw [field_of d, field_of a, field_of b] <;> omega
theorem mXor (d : BitVec 4) (a : BitVec 4) (b : BitVec 4) : Statement (.mXor d a b) := by
  have h0 := d.isLt
  have h1 := a.isLt
  have h2 := b.isLt
  have e : mcfNat (.mXor d a b) = mcfPack 3 d.toNat a.toNat b.toNat 0 4 0 := rfl
  simp only [mcfPack] at e
  refine roundtrips_mcf rfl (by omega) fun _ => ?_
  have m1 : mcfNat (.mXor d a b) / 2 ^ 56 % 256 = 3 := by omega
  have m2 : mcfNat (.mXor d a b) / 2 ^ 32 % 256 = 4 := by omega
  delta mcfCand
  simp only []
  rw [m1, m2]
  show some _ = some _
  rw [field_of d, field_of a, field_of b] <;> omega
theorem mShl (d : BitVec 4) (a : BitVec 4) (b : BitVec 4) : Statement (.mShl d a b) := by
  have h0 := d.isLt
  have h1 := a.isLt
  have h2 := b.isLt
  have e : mcfNat (.mShl d a b) = mcfPack 3 d.toNat a.toNat b.toNat 0 5 0 := rfl
  simp only [mcfPack] at e
  refine roundtrips_mcf rfl (by omega) fun _ => ?_
  have m1 : mcfNat (.mShl d a b) / 2 ^ 56 % 256 = 3 := by omega
  have m2 : mcfNat (.mShl d a b) / 2 ^ 32 % 256 = 5 := by omega
  delta mcfCand
  simp only []
  rw [m1, m2]
  show some _ = some _
  rw [field_of d, field_of a, field_of b] <;> omega
theorem mShr (d : BitVec 4) (a : BitVec 4) (b : BitVec 4) : Statement (.mShr d a b) := by
  have h0 := d.isLt
  have h1 := a.isLt
  have h2 := b.isLt
  have e : mcfNat (.mShr d a b) = mcfPack 3 d.toNat a.toNat b.toNat 0 6 0 := rfl
  simp only [mcfPack] at e
  refine roundtrips_mcf rfl (by omega) fun _ => ?_
  have m1 : mcfNat (.mShr d a b) / 2 ^ 56 % 256 = 3 := by omega
  have m2 : mcfNat (.mShr d a b) / 2 ^ 32 % 256 = 6 := by omega
  delta mcfCand
  simp only []
  rw [m1, m2]
  show some _ = some _
  rw [field_of d, field_of a, field_of b] <;> omega
theorem mMinn (d : BitVec 4) (a : BitVec 4) (b : BitVec 4) : Statement (.mMinn d a b) := by
  have h0 := d.isLt
  have h1 := a.isLt
  have h2 := b.isLt
  have e : mcfNat (.mMinn d a b) = mcfPack 3 d.toNat a.toNat b.toNat 0 7 0 := rfl
  simp only [mcfPack] at e
  refine roundtrips_mcf rfl (by omega) fun _ => ?_
  have m1 : mcfNat (.mMinn d a b) / 2 ^ 56 % 256 = 3 := by omega
  have m2 : mcfNat (.mMinn d a b) / 2 ^ 32 % 256 = 7 := by omega
  delta mcfCand
  simp only []
  rw [m1, m2]
  show some _ = some _
  rw [field_of d, field_of a, field_of b] <;> omega
theorem mBAl (off : BitVec 32) : Statement (.mBAl off) := by
  have h0 := off.isLt
  have e : mcfNat (.mBAl off) = mcfPack 4 0 0 0 0 0 off.toNat := rfl
  simp only [mcfPack] at e
  refine roundtrips_mcf rfl (by omega) fun _ => ?_
  have m1 : mcfNat (.mBAl off) / 2 ^ 56 % 256 = 4 := by omega
  have m2 : mcfNat (.mBAl off) / 2 ^ 32 % 256 = 0 := by omega
  delta mcfCand
  simp only []
  rw [m1, m2]
  show some _ = some _
  rw [field_of off] <;> omega
theorem mBEq (a : BitVec 4) (b : BitVec 4) (off : BitVec 32) : Statement (.mBEq a b off) := by
  have h0 := a.isLt
  have h1 := b.isLt
  have h2 := off.isLt
  have e : mcfNat (.mBEq a b off) = mcfPack 4 0 a.toNat b.toNat 0 1 off.toNat := rfl
  simp only [mcfPack] at e
  refine roundtrips_mcf rfl (by omega) fun _ => ?_
  have m1 : mcfNat (.mBEq a b off) / 2 ^ 56 % 256 = 4 := by omega
  have m2 : mcfNat (.mBEq a b off) / 2 ^ 32 % 256 = 1 := by omega
  delta mcfCand
  simp only []
  rw [m1, m2]
  show some _ = some _
  rw [field_of a, field_of b, field_of off] <;> omega
theorem mBNe (a : BitVec 4) (b : BitVec 4) (off : BitVec 32) : Statement (.mBNe a b off) := by
  have h0 := a.isLt
  have h1 := b.isLt
  have h2 := off.isLt
  have e : mcfNat (.mBNe a b off) = mcfPack 4 0 a.toNat b.toNat 0 2 off.toNat := rfl
  simp only [mcfPack] at e
  refine roundtrips_mcf rfl (by omega) fun _ => ?_
  have m1 : mcfNat (.mBNe a b off) / 2 ^ 56 % 256 = 4 := by omega
  have m2 : mcfNat (.mBNe a b off) / 2 ^ 32 % 256 = 2 := by omega
  delta mcfCand
  simp only []
  rw [m1, m2]
  show some _ = some _
  rw [field_of a, field_of b, field_of off] <;> omega
theorem mBLtn (a : BitVec 4) (b : BitVec 4) (off : BitVec 32) : Statement (.mBLtn a b off) := by
  have h0 := a.isLt
  have h1 := b.isLt
  have h2 := off.isLt
  have e : mcfNat (.mBLtn a b off) = mcfPack 4 0 a.toNat b.toNat 0 3 off.toNat := rfl
  simp only [mcfPack] at e
  refine roundtrips_mcf rfl (by omega) fun _ => ?_
  have m1 : mcfNat (.mBLtn a b off) / 2 ^ 56 % 256 = 4 := by omega
  have m2 : mcfNat (.mBLtn a b off) / 2 ^ 32 % 256 = 3 := by omega
  delta mcfCand
  simp only []
  rw [m1, m2]
  show some _ = some _
  rw [field_of a, field_of b, field_of off] <;> omega
theorem mBGen (a : BitVec 4) (b : BitVec 4) (off : BitVec 32) : Statement (.mBGen a b off) := by
  have h0 := a.isLt
  have h1 := b.isLt
  have h2 := off.isLt
  have e : mcfNat (.mBGen a b off) = mcfPack 4 0 a.toNat b.toNat 0 4 off.toNat := rfl
  simp only [mcfPack] at e
  refine roundtrips_mcf rfl (by omega) fun _ => ?_
  have m1 : mcfNat (.mBGen a b off) / 2 ^ 56 % 256 = 4 := by omega
  have m2 : mcfNat (.mBGen a b off) / 2 ^ 32 % 256 = 4 := by omega
  delta mcfCand
  simp only []
  rw [m1, m2]
  show some _ = some _
  rw [field_of a, field_of b, field_of off] <;> omega
theorem mBLt (a : BitVec 4) (b : BitVec 4) (off : BitVec 32) : Statement (.mBLt a b off) := by
  have h0 := a.isLt
  have h1 := b.isLt
  have h2 := off.isLt
  have e : mcfNat (.mBLt a b off) = mcfPack 4 0 a.toNat b.toNat 0 5 off.toNat := rfl
  simp only [mcfPack] at e
  refine roundtrips_mcf rfl (by omega) fun _ => ?_
  have m1 : mcfNat (.mBLt a b off) / 2 ^ 56 % 256 = 4 := by omega
  have m2 : mcfNat (.mBLt a b off) / 2 ^ 32 % 256 = 5 := by omega
  delta mcfCand
  simp only []
  rw [m1, m2]
  show some _ = some _
  rw [field_of a, field_of b, field_of off] <;> omega
theorem mBGe (a : BitVec 4) (b : BitVec 4) (off : BitVec 32) : Statement (.mBGe a b off) := by
  have h0 := a.isLt
  have h1 := b.isLt
  have h2 := off.isLt
  have e : mcfNat (.mBGe a b off) = mcfPack 4 0 a.toNat b.toNat 0 6 off.toNat := rfl
  simp only [mcfPack] at e
  refine roundtrips_mcf rfl (by omega) fun _ => ?_
  have m1 : mcfNat (.mBGe a b off) / 2 ^ 56 % 256 = 4 := by omega
  have m2 : mcfNat (.mBGe a b off) / 2 ^ 32 % 256 = 6 := by omega
  delta mcfCand
  simp only []
  rw [m1, m2]
  show some _ = some _
  rw [field_of a, field_of b, field_of off] <;> omega
theorem mMatch (d : BitVec 4) (pk : BitVec 2) (kinds : BitVec 5) (tmo : BitVec 32) : Statement (.mMatch d pk kinds tmo) := by
  have h0 := d.isLt
  have h1 := pk.isLt
  have h2 := kinds.isLt
  have h3 := tmo.isLt
  have e : mcfNat (.mMatch d pk kinds tmo) = mcfPack 5 d.toNat pk.toNat 0 0 kinds.toNat tmo.toNat := rfl
  simp only [mcfPack] at e
  refine roundtrips_mcf rfl (by omega) fun _ => ?_
  have m1 : mcfNat (.mMatch d pk kinds tmo) / 2 ^ 56 % 256 = 5 := by omega
  delta mcfCand
  simp only []
  rw [m1]
  show some _ = some _
  rw [field_of d, field_of pk, field_of kinds, field_of tmo] <;> omega
theorem mRdh (d : BitVec 4) (pk : BitVec 2) (f : BitVec 3) : Statement (.mRdh d pk f) := by
  have h0 := d.isLt
  have h1 := pk.isLt
  have h2 := f.isLt
  have e : mcfNat (.mRdh d pk f) = mcfPack 6 d.toNat pk.toNat 0 0 f.toNat 0 := rfl
  simp only [mcfPack] at e
  refine roundtrips_mcf rfl (by omega) fun _ => ?_
  have m1 : mcfNat (.mRdh d pk f) / 2 ^ 56 % 256 = 6 := by omega
  delta mcfCand
  simp only []
  rw [m1]
  show some _ = some _
  rw [field_of d, field_of pk, field_of f] <;> omega
theorem mRdm (d : BitVec 4) (a : BitVec 4) (f : BitVec 3) : Statement (.mRdm d a f) := by
  have h0 := d.isLt
  have h1 := a.isLt
  have h2 := f.isLt
  have e : mcfNat (.mRdm d a f) = mcfPack 7 d.toNat a.toNat 0 0 f.toNat 0 := rfl
  simp only [mcfPack] at e
  refine roundtrips_mcf rfl (by omega) fun _ => ?_
  have m1 : mcfNat (.mRdm d a f) / 2 ^ 56 % 256 = 7 := by omega
  delta mcfCand
  simp only []
  rw [m1]
  show some _ = some _
  rw [field_of d, field_of a, field_of f] <;> omega
theorem mMark (d : BitVec 4) (pk : BitVec 2) : Statement (.mMark d pk) := by
  have h0 := d.isLt
  have h1 := pk.isLt
  have e : mcfNat (.mMark d pk) = mcfPack 8 d.toNat pk.toNat 0 0 0 0 := rfl
  simp only [mcfPack] at e
  refine roundtrips_mcf rfl (by omega) fun _ => ?_
  have m1 : mcfNat (.mMark d pk) / 2 ^ 56 % 256 = 8 := by omega
  delta mcfCand
  simp only []
  rw [m1]
  show some _ = some _
  rw [field_of d, field_of pk] <;> omega
theorem mHold (pk : BitVec 2) : Statement (.mHold pk) := by
  have h0 := pk.isLt
  have e : mcfNat (.mHold pk) = mcfPack 9 0 pk.toNat 0 0 0 0 := rfl
  simp only [mcfPack] at e
  refine roundtrips_mcf rfl (by omega) fun _ => ?_
  have m1 : mcfNat (.mHold pk) / 2 ^ 56 % 256 = 9 := by omega
  delta mcfCand
  simp only []
  rw [m1]
  show some _ = some _
  rw [field_of pk] <;> omega
theorem mDrop (pk : BitVec 2) : Statement (.mDrop pk) := by
  have h0 := pk.isLt
  have e : mcfNat (.mDrop pk) = mcfPack 0x10 0 pk.toNat 0 0 0 0 := rfl
  simp only [mcfPack] at e
  refine roundtrips_mcf rfl (by omega) fun _ => ?_
  have m1 : mcfNat (.mDrop pk) / 2 ^ 56 % 256 = 16 := by omega
  delta mcfCand
  simp only []
  rw [m1]
  show some _ = some _
  rw [field_of pk] <;> omega
theorem mStream (a : BitVec 4) (b : BitVec 4) : Statement (.mStream a b) := by
  have h0 := a.isLt
  have h1 := b.isLt
  have e : mcfNat (.mStream a b) = mcfPack 0x0A 0 a.toNat b.toNat 0 0 0 := rfl
  simp only [mcfPack] at e
  refine roundtrips_mcf rfl (by omega) fun _ => ?_
  have m1 : mcfNat (.mStream a b) / 2 ^ 56 % 256 = 10 := by omega
  delta mcfCand
  simp only []
  rw [m1]
  show some _ = some _
  rw [field_of a, field_of b] <;> omega
theorem mFoldSum (d : BitVec 4) (b : BitVec 4) : Statement (.mFoldSum d b) := by
  have h0 := d.isLt
  have h1 := b.isLt
  have e : mcfNat (.mFoldSum d b) = mcfPack 0x0B d.toNat 0 b.toNat 0 0 0 := rfl
  simp only [mcfPack] at e
  refine roundtrips_mcf rfl (by omega) fun _ => ?_
  have m1 : mcfNat (.mFoldSum d b) / 2 ^ 56 % 256 = 11 := by omega
  have m2 : mcfNat (.mFoldSum d b) / 2 ^ 32 % 256 = 0 := by omega
  delta mcfCand
  simp only []
  rw [m1, m2]
  show some _ = some _
  rw [field_of d, field_of b] <;> omega
theorem mFoldMin (d : BitVec 4) (b : BitVec 4) : Statement (.mFoldMin d b) := by
  have h0 := d.isLt
  have h1 := b.isLt
  have e : mcfNat (.mFoldMin d b) = mcfPack 0x0B d.toNat 0 b.toNat 0 1 0 := rfl
  simp only [mcfPack] at e
  refine roundtrips_mcf rfl (by omega) fun _ => ?_
  have m1 : mcfNat (.mFoldMin d b) / 2 ^ 56 % 256 = 11 := by omega
  have m2 : mcfNat (.mFoldMin d b) / 2 ^ 32 % 256 = 1 := by omega
  delta mcfCand
  simp only []
  rw [m1, m2]
  show some _ = some _
  rw [field_of d, field_of b] <;> omega
theorem mFoldMax (d : BitVec 4) (b : BitVec 4) : Statement (.mFoldMax d b) := by
  have h0 := d.isLt
  have h1 := b.isLt
  have e : mcfNat (.mFoldMax d b) = mcfPack 0x0B d.toNat 0 b.toNat 0 2 0 := rfl
  simp only [mcfPack] at e
  refine roundtrips_mcf rfl (by omega) fun _ => ?_
  have m1 : mcfNat (.mFoldMax d b) / 2 ^ 56 % 256 = 11 := by omega
  have m2 : mcfNat (.mFoldMax d b) / 2 ^ 32 % 256 = 2 := by omega
  delta mcfCand
  simp only []
  rw [m1, m2]
  show some _ = some _
  rw [field_of d, field_of b] <;> omega
theorem mFoldQ (d : BitVec 4) (b : BitVec 4) : Statement (.mFoldQ d b) := by
  have h0 := d.isLt
  have h1 := b.isLt
  have e : mcfNat (.mFoldQ d b) = mcfPack 0x0B d.toNat 0 b.toNat 0 16 0 := rfl
  simp only [mcfPack] at e
  refine roundtrips_mcf rfl (by omega) fun _ => ?_
  have m1 : mcfNat (.mFoldQ d b) / 2 ^ 56 % 256 = 11 := by omega
  have m2 : mcfNat (.mFoldQ d b) / 2 ^ 32 % 256 = 16 := by omega
  delta mcfCand
  simp only []
  rw [m1, m2]
  show some _ = some _
  rw [field_of d, field_of b] <;> omega
theorem mCombSum (pk : BitVec 2) (b : BitVec 4) (lo : BitVec 1) : Statement (.mCombSum pk b lo) := by
  have h0 := pk.isLt
  have h1 := b.isLt
  have h2 := lo.isLt
  have e : mcfNat (.mCombSum pk b lo) = mcfPack 0x0C 0 pk.toNat b.toNat 0 (lo.toNat * 8) 0 := rfl
  simp only [mcfPack] at e
  refine roundtrips_mcf rfl (by omega) fun _ => ?_
  have m1 : mcfNat (.mCombSum pk b lo) / 2 ^ 56 % 256 = 12 := by omega
  have m2 : mcfNat (.mCombSum pk b lo) / 2 ^ 32 % 256 % 8 = 0 := by omega
  delta mcfCand
  simp only []
  rw [m1, m2]
  show some _ = some _
  rw [field_of pk, field_of b, field_of lo] <;> omega
theorem mCombMin (pk : BitVec 2) (b : BitVec 4) (lo : BitVec 1) : Statement (.mCombMin pk b lo) := by
  have h0 := pk.isLt
  have h1 := b.isLt
  have h2 := lo.isLt
  have e : mcfNat (.mCombMin pk b lo) = mcfPack 0x0C 0 pk.toNat b.toNat 0 (1 + lo.toNat * 8) 0 := rfl
  simp only [mcfPack] at e
  refine roundtrips_mcf rfl (by omega) fun _ => ?_
  have m1 : mcfNat (.mCombMin pk b lo) / 2 ^ 56 % 256 = 12 := by omega
  have m2 : mcfNat (.mCombMin pk b lo) / 2 ^ 32 % 256 % 8 = 1 := by omega
  delta mcfCand
  simp only []
  rw [m1, m2]
  show some _ = some _
  rw [field_of pk, field_of b, field_of lo] <;> omega
theorem mCombMax (pk : BitVec 2) (b : BitVec 4) (lo : BitVec 1) : Statement (.mCombMax pk b lo) := by
  have h0 := pk.isLt
  have h1 := b.isLt
  have h2 := lo.isLt
  have e : mcfNat (.mCombMax pk b lo) = mcfPack 0x0C 0 pk.toNat b.toNat 0 (2 + lo.toNat * 8) 0 := rfl
  simp only [mcfPack] at e
  refine roundtrips_mcf rfl (by omega) fun _ => ?_
  have m1 : mcfNat (.mCombMax pk b lo) / 2 ^ 56 % 256 = 12 := by omega
  have m2 : mcfNat (.mCombMax pk b lo) / 2 ^ 32 % 256 % 8 = 2 := by omega
  delta mcfCand
  simp only []
  rw [m1, m2]
  show some _ = some _
  rw [field_of pk, field_of b, field_of lo] <;> omega
theorem mFwd (pk : BitVec 2) (k : BitVec 3) (a : BitVec 4) (c : BitVec 4) : Statement (.mFwd pk k a c) := by
  have h0 := pk.isLt
  have h1 := k.isLt
  have h2 := a.isLt
  have h3 := c.isLt
  have e : mcfNat (.mFwd pk k a c) = mcfPack 0x0D 0 a.toNat 0 c.toNat (pk.toNat * 4 + k.toNat * 16) 0 := rfl
  simp only [mcfPack] at e
  refine roundtrips_mcf rfl (by omega) fun _ => ?_
  have m1 : mcfNat (.mFwd pk k a c) / 2 ^ 56 % 256 = 13 := by omega
  have m2 : mcfNat (.mFwd pk k a c) / 2 ^ 32 % 256 % 2 = 0 := by omega
  have key : ∀ w, w / 2 ^ 56 % 256 = 13 → w / 2 ^ 32 % 256 % 2 = 0 → mcfCand w = some (.mFwd (BitVec.ofNat 2 (w / 2 ^ 34)) (BitVec.ofNat 3 (w / 2 ^ 36)) (BitVec.ofNat 4 (w / 2 ^ 48)) (BitVec.ofNat 4 (w / 2 ^ 40))) := by
    intro w h1 h2
    delta mcfCand
    simp only []
    rw [h1]
    show (if w / 2 ^ 32 % 256 % 2 = 0 then _ else _) = _
    rw [if_pos h2]
  rw [key _ m1 m2, field_of pk, field_of k, field_of a, field_of c] <;> omega
theorem mFwdAcc (b : BitVec 4) (k : BitVec 3) (a : BitVec 4) (c : BitVec 4) : Statement (.mFwdAcc b k a c) := by
  have h0 := b.isLt
  have h1 := k.isLt
  have h2 := a.isLt
  have h3 := c.isLt
  have e : mcfNat (.mFwdAcc b k a c) = mcfPack 0x0D 0 a.toNat b.toNat c.toNat (1 + k.toNat * 16) 0 := rfl
  simp only [mcfPack] at e
  refine roundtrips_mcf rfl (by omega) fun _ => ?_
  have m1 : mcfNat (.mFwdAcc b k a c) / 2 ^ 56 % 256 = 13 := by omega
  have m2 : mcfNat (.mFwdAcc b k a c) / 2 ^ 32 % 256 % 2 = 1 := by omega
  have key : ∀ w, w / 2 ^ 56 % 256 = 13 → w / 2 ^ 32 % 256 % 2 = 1 → mcfCand w = some (.mFwdAcc (BitVec.ofNat 4 (w / 2 ^ 44)) (BitVec.ofNat 3 (w / 2 ^ 36)) (BitVec.ofNat 4 (w / 2 ^ 48)) (BitVec.ofNat 4 (w / 2 ^ 40))) := by
    intro w h1 h2
    delta mcfCand
    simp only []
    rw [h1]
    show (if w / 2 ^ 32 % 256 % 2 = 0 then _ else _) = _
    rw [if_neg (by omega)]
  rw [key _ m1 m2, field_of b, field_of k, field_of a, field_of c] <;> omega
theorem mDlv (a : BitVec 4) (b : BitVec 4) : Statement (.mDlv a b) := by
  have h0 := a.isLt
  have h1 := b.isLt
  have e : mcfNat (.mDlv a b) = mcfPack 0x0E 0 a.toNat b.toNat 0 0 0 := rfl
  simp only [mcfPack] at e
  refine roundtrips_mcf rfl (by omega) fun _ => ?_
  have m1 : mcfNat (.mDlv a b) / 2 ^ 56 % 256 = 14 := by omega
  have m2 : mcfNat (.mDlv a b) / 2 ^ 32 % 256 = 0 := by omega
  delta mcfCand
  simp only []
  rw [m1, m2]
  show some _ = some _
  rw [field_of a, field_of b] <;> omega
theorem mDlvPk (a : BitVec 4) (pk : BitVec 2) : Statement (.mDlvPk a pk) := by
  have h0 := a.isLt
  have h1 := pk.isLt
  have e : mcfNat (.mDlvPk a pk) = mcfPack 0x0E 0 a.toNat 0 pk.toNat 1 0 := rfl
  simp only [mcfPack] at e
  refine roundtrips_mcf rfl (by omega) fun _ => ?_
  have m1 : mcfNat (.mDlvPk a pk) / 2 ^ 56 % 256 = 14 := by omega
  have m2 : mcfNat (.mDlvPk a pk) / 2 ^ 32 % 256 = 1 := by omega
  delta mcfCand
  simp only []
  rw [m1, m2]
  show some _ = some _
  rw [field_of a, field_of pk] <;> omega
theorem mDlvG (a : BitVec 4) (pk : BitVec 2) : Statement (.mDlvG a pk) := by
  have h0 := a.isLt
  have h1 := pk.isLt
  have e : mcfNat (.mDlvG a pk) = mcfPack 0x0E 0 a.toNat 0 pk.toNat 2 0 := rfl
  simp only [mcfPack] at e
  refine roundtrips_mcf rfl (by omega) fun _ => ?_
  have m1 : mcfNat (.mDlvG a pk) / 2 ^ 56 % 256 = 14 := by omega
  have m2 : mcfNat (.mDlvG a pk) / 2 ^ 32 % 256 = 2 := by omega
  delta mcfCand
  simp only []
  rw [m1, m2]
  show some _ = some _
  rw [field_of a, field_of pk] <;> omega
theorem mTkreq (a : BitVec 4) (b : BitVec 4) : Statement (.mTkreq a b) := by
  have h0 := a.isLt
  have h1 := b.isLt
  have e : mcfNat (.mTkreq a b) = mcfPack 0x11 0 a.toNat b.toNat 0 0 0 := rfl
  simp only [mcfPack] at e
  refine roundtrips_mcf rfl (by omega) fun _ => ?_
  have m1 : mcfNat (.mTkreq a b) / 2 ^ 56 % 256 = 17 := by omega
  delta mcfCand
  simp only []
  rw [m1]
  show some _ = some _
  rw [field_of a, field_of b] <;> omega
theorem mArrive (a : BitVec 4) (status : BitVec 8) : Statement (.mArrive a status) := by
  have h0 := a.isLt
  have h1 := status.isLt
  have e : mcfNat (.mArrive a status) = mcfPack 0x0F 0 a.toNat 0 0 0 status.toNat := rfl
  simp only [mcfPack] at e
  refine roundtrips_mcf rfl (by omega) fun _ => ?_
  have m1 : mcfNat (.mArrive a status) / 2 ^ 56 % 256 = 15 := by omega
  delta mcfCand
  simp only []
  rw [m1]
  show some _ = some _
  rw [field_of a, field_of status] <;> omega
theorem mEnd : Statement .mEnd := by
  have e : mcfNat (.mEnd) = mcfPack 0x12 0 0 0 0 0 0 := rfl
  simp only [mcfPack] at e
  refine roundtrips_mcf rfl (by omega) fun _ => ?_
  have m1 : mcfNat (.mEnd) / 2 ^ 56 % 256 = 18 := by omega
  delta mcfCand
  simp only []
  rw [m1]
  rfl
theorem eCorePowerGate (core : Nat) : Statement (.eCorePowerGate core) :=
  roundtrips_event rfl
theorem eLinkUp (port : Nat) : Statement (.eLinkUp port) :=
  roundtrips_event rfl
theorem ePackageDeclaredFailed (m : AbsentMsg) : Statement (.ePackageDeclaredFailed m) :=
  roundtrips_event rfl
theorem eHbmChannelOrDimmFailure (pool : Nat) (base : Nat) (size : Nat) : Statement (.eHbmChannelOrDimmFailure pool base size) :=
  roundtrips_event rfl
theorem eSpareLaneSwitchDone (isPort : Bool) (n : Nat) : Statement (.eSpareLaneSwitchDone isPort n) :=
  roundtrips_event rfl

end Sys2Proof.Laws.RoundTrip
end

