-- ==== Sys2Proof/Tests/Slice0.lean ====
section
/-! SUPPORT. Tests: words written out from the encoding tables of the spec decode to what they stand for, ill-formed terms are
refused, and for every statement small states and operands meet its hypotheses, at the boundaries where its clauses meet. -/

open Sys2Proof Sys2Proof.Machine

-- One theorem at a time: each is evaluated on a thread with a large stack.
set_option Elab.async false

/-! ## Small states -/

/-- Context 0 with a sounder on core 0, its scalar stream current. -/
def tS (x : Snd) : State := ({ placeWord State.reset .scalar 0 with cur := .scalar 0 0 0 } : State).putSnd 0 0 0 x
/-- The sounder as it starts. -/
def tX : Snd := placedSnd false
/-- A state with one page of device memory, read and write, at virtual 0x10000, an alias page at 0x20000, and a page of package 5
at 0x28000. -/
def tMap (s : State) : State :=
  match takeFrame s 0 8192 with
  | none => s
  | some (_, s) =>
    match takeFrame s 0 4096 with
    | none => s
    | some (root, s) =>
      let t := (mapRange (s.modCtx 0 (fun c => { c with troot := root })) 0 root (MapReq.mk 0 0 true true true 0 0 0) true 0x10000 1 0).getD s
      let u := (mapRange t 0 root (MapReq.mk 0 3 true true true 0 0 0) true 0x20000 1 0).getD t
      (mapRange u 0 root (MapReq.mk 0 2 true true true 0 5 0x9000) true 0x28000 1 0).getD u
def tM (x : Snd) : State := tMap (tS x)
/-- A log entry with one access of lane 0. -/
def tEntry (kind : LogKind) (slices : Nat) (loc : Loc) (held : Bool) : LogEntry :=
  let a : LaneAcc := { lane := 0, va := 0x10000, loc := loc, data := 7, new := 0, sent := false }
  { seq := 0, slices := slices, kind := kind, word := 0, mask := 1, ty := 7, minor := 0x10, addrs := [], datas := [],
    todo := if held then [] else [a], held := if held then [a] else [], cause := if held then 0x1B else 0, detail := 0, told := false,
    fills := [], lpc := 0, block := 0, hand := false, wid := 0, row := [] }
/-- Eight of them: no entry of the log is free. -/
def tFull : Tbl LogEntry := (List.range 8).map fun k => (k, tEntry .load 1 (.sp 0) false)
/-- An image whose lane code table has one entry of two words at its scalar section's frame. -/
def tTable (s : State) : State :=
  let im : Image := { placedImage with tablePA := placedScalarPA + 64, tableCount := 1 }
  (s.writeBytes (placedScalarPA + 64) (leBytes 8 (2 * 2 ^ 32))).modCtx 0 (fun c => { c with images := [(0, im)] })
/-- The resources of the context's share of core 0. -/
def tShare : Share := { regs := 640, tiles := [0, 15], handles := [3, 255], cbufs := [0, 15], barriers := [5], mailboxes := [3, 31] }
/-- A drey of two with one member, rank 1. -/
def tBar : Barrier :=
  { Barrier.reset with drey := true, formed := true, size := 2, members := 1, ranks := [(1, 0, 0, 0)], phase := 7 }
/-- The same with that share, and barrier 5 with the sounder as rank 1 of a drey of two. -/
def tB (x : Snd) : State :=
  (tS x).modCC 0 0 (fun cc => { cc with share := tShare, barriers := [(5, tBar)] })
/-- The same with the mailboxes 3 and 31 in a state. -/
def tMail (s : State) (m : Mailbox) : State := s.modCC 0 0 (fun cc => { cc with share := tShare, mail := [(3, m), (31, m)] })
/-- A handler: the placed image at its first word, its frames at virtual 0x10000. -/
def tHand (s : State) : State := s.modCtx 0 (fun c => { c with handler := some (0, 0, 0x10000) })
/-- A block, and a sounder with it running. -/
def tBlk (k0 fpctl : Nat) : Block := { placedBlock with k := BitVec.ofNat 64 k0 :: List.replicate 7 0, fpctl := BitVec.ofNat 64 fpctl }
def tRun (b : Block) : Snd := { placedSnd true with queue := [b], fpctl := b.fpctl }
def tY : Snd := tRun (tBlk 0x10000 0)
/-- The join set of all its slices issues, in context 0 with the share and the mapped page. -/
def tL (x : Snd) : State :=
  let s : State := { tMap (placeWord State.reset .lane 0) with cur := .lane 0 0 0 (2 ^ 24 - 1) }
  (s.modCC 0 0 (fun cc => { cc with share := tShare })).putSnd 0 0 0 x
def tIn (s : State) (x : Snd) (maj min : Nat) (b : LaneBody) : Issue :=
  Issue.of s 0 0 0 (2 ^ 24 - 1) x (x.queue.headD placedBlock) maj min b
def tI (x : Snd) (maj min : Nat) (b : LaneBody) : Issue := tIn (tL x) x maj min b
/-- Fields in layout R and in layout I, with the guards q0. -/
def tR (dst a b c ty : Nat) : LaneR :=
  LaneR.mk (BitVec.ofNat 10 dst) (BitVec.ofNat 10 a) (BitVec.ofNat 10 b) (BitVec.ofNat 10 c) 0 0 0 0 0 0 0 0 0 (BitVec.ofNat 6 ty)
def tF (dst a b imm ty : Nat) : LaneI :=
  LaneI.mk (BitVec.ofNat 10 dst) (BitVec.ofNat 10 a) (BitVec.ofNat 10 b) 0 0 (BitVec.ofNat 20 imm) 0 0 0 0 0 0 (BitVec.ofNat 6 ty)
/-- The word is legal for the sounder and no source is empty. -/
def tOk (x : Snd) (maj min : Nat) (b : LaneBody) : Bool :=
  let i := tI x maj min b
  laneIllegal (BitVec.ofNat 96 i.word) x.n (bits i.fpctl 10 8) == none && i.emptyNow.isEmpty && x.runningBlock == some (x.queue.headD placedBlock)
theorem tOk_at {x : Snd} {maj min : Nat} {b : LaneBody} (h : tOk x maj min b = true) : LaneAt (tL x) maj min b (tI x maj min b) := by
  simp only [tOk, Bool.and_eq_true, beq_iff_eq, List.isEmpty_iff] at h
  exact ⟨rfl, State.snd?_putSnd_self _ _ _ _ _, h.2, rfl, h.1.1, h.1.2⟩
/-- It also raises no enabled exception with the flags `u` and finds its registers. -/
def tReady (x : Snd) (maj min : Nat) (b : LaneBody) (u : Nat) : Bool :=
  let i := tI x maj min b
  tOk x maj min b && !trapEnabled i.fpctl u && i.room (tL x) i.reusable (i.memoKey (tL x) [])
theorem tReady_at {x : Snd} {maj min : Nat} {b : LaneBody} {rs : List (Nat × Nat)} (h : tReady x maj min b (unionFlags (tI x maj min b).mask rs) = true) :
    LaneAt (tL x) maj min b (tI x maj min b) ∧ (tI x maj min b).Ready (tL x) rs := by
  simp only [tReady, Bool.and_eq_true, Bool.not_eq_true'] at h
  exact ⟨tOk_at h.1.1, ⟨h.1.2, h.2⟩⟩
/-- A record pool of one record (R157). -/
def tRec (r : Nat) : State :=
  let im : Image := { placedImage with recPA := placedScalarPA + 128, recCount := 1 }
  ((tL tY).writeBytes (placedScalarPA + 128) (leBytes 16 r)).modCtx 0 (fun c => { c with images := [(0, im)] })
/-- A sounder whose block holds the constants `ks` as the names 640 and up. -/
def tK (ks : List Nat) : Snd := tRun { tBlk 0 0 with k := ks.map (BitVec.ofNat 64) }
/-- A layout record of rows of four 32-bit elements from virtual 0x10000 to 0x10800; with `n` 0 its box is empty. -/
def tLay (n : Nat) : Nat :=
  0x10000 + 0x10800 * 2 ^ 64 + n * 2 ^ 320 + 2 ^ 336 + 2 ^ 352 + 2 ^ 368 + 4 * 2 ^ 384 + 2 ^ 416 + 2 ^ 448 + 2 ^ 480 + 2 * 2 ^ 576
/-- Scratchpad: the record at 0, an empty box at 128, and at 256 the parameters of a route of the record with k = 2,
at 320 a format block of kinds 1. -/
def tPad : Tbl Byte := ((toBytes 128 (tLay 4) ++ toBytes 128 (tLay 0) ++ toBytes 64 (2 ^ 32) ++ toBytes 32 (2 ^ 64 + 2 ^ 68)).zipIdx.map fun e => (e.2, e.1)).filter (·.2 != 0)
/-- The issue's state with bank 0 in scratchpad mode and banks 1 and 2 in FIFO mode, what `f` puts into the context's objects,
and the mapped page. -/
def tE (x : Snd) (f : CtxCore → CtxCore) : State :=
  ((tL x).modCore 0 (fun c => { c with entries :=
    [(0, { BankEntry.reset with mode := 1, owner := 1 }), (1, { BankEntry.reset with mode := 2, owner := 1 }),
     (2, { BankEntry.reset with mode := 2, owner := 1 })] })).modCC 0 0 (fun cc => f { cc with sram := tPad })
/-- The word is legal for the sounder in state `s` and no source is empty. -/
def tAt (s : State) (x : Snd) (maj min : Nat) (b : LaneBody) : Bool :=
  let i := tIn s x maj min b
  s.cur == .lane 0 0 0 (2 ^ 24 - 1) && s.snd? 0 0 0 == some x && x.runningBlock == some (x.queue.headD placedBlock) &&
  laneIllegal (BitVec.ofNat 96 i.word) x.n (bits i.fpctl 10 8) == none && i.emptyNow.isEmpty && i.mask != 0
theorem tAt_at {s : State} {x : Snd} {maj min : Nat} {b : LaneBody} (h : tAt s x maj min b = true) :
    LaneAt s maj min b (tIn s x maj min b) ∧ (tIn s x maj min b).mask ≠ 0 := by
  simp only [tAt, Bool.and_eq_true, beq_iff_eq, List.isEmpty_iff, bne_iff_ne] at h
  exact ⟨⟨h.1.1.1.1.1, h.1.1.1.1.2, h.1.1.1.2, rfl, h.1.1.2, h.1.2⟩, h.2⟩
/-- An enabled buffer of rows of 16 bytes in bank 1 with the rows `r`. -/
def tBuf (r : List Row) (claimed : Nat) : CBuf := { cfg := 2 ^ 31 + 1, rows := r, claimed := claimed }
/-- The thread `t` of entry `e`, its program current, with the mapped page. -/
def tP (e : CollEntry) (t : Thread) : State :=
  ({ tMap (placeWord State.reset .mcf 0) with cur := .mcf 0 0 0 }.modCtx 0 (fun c => { c with colls := [(0, e)] })).putThread 0 0 0 t
def tPok (e : CollEntry) (t : Thread) : Bool :=
  let s := tP e t
  s.cur == .mcf 0 0 0 && s.entry? 0 0 == some e && s.thread? 0 0 0 == some t && t.failed == none
theorem tPok_at {e : CollEntry} {t : Thread} (h : tPok e t = true) : McfAt (tP e t) 0 0 0 e t := by
  simp only [tPok, Bool.and_eq_true, beq_iff_eq] at h
  exact ⟨h.1.1.1, h.1.1.2, h.1.2, h.2⟩
/-- An entry of one chunk of 16 bytes whose one member has started instance 0 from and to virtual 0x10000. -/
def tOn : CollEntry :=
  { placedEntry [0] with parts := [(0, { Part.reset with started := true, src := 0x10000, dst := 0x10100 })] }
def tT : Thread := { Thread.reset with x := [(1, 1), (2, 2)] }
def tPkt (kind : Nat) : Packet := { member := 0, chunk := 0, inst := 0, kind := kind, srcpkg := 0, payload := List.replicate 16 1 }
def tHold (fresh : Bool) (c : Chunk) : Thread := { tT with pk := [(0, { pkt := tPkt 0, fresh := fresh })], chunks := [(0, c)] }
/-- The sounder with one entry in its operand log. -/
def tLog (e : LogEntry) : Snd := { tX with oplog := [(0, e)] }
def tFill (got : Tbl Nat) : Fill :=
  { name := 2, hi := false, want := [], got := got, keep := [0], engine := false, hand := false, phys := 5, memo := none, share := false }
/-- A remote operation of the sounder's that waits. -/
def tPend (m : OutMsg) (b : Option Nat) : Pending := { msg := m, port := some 0, retries := 0, sentAt := 0, placed := 0, backoff := b, status := none }
/-- An alias window of one chunk whose contribution has been folded. -/
def tWin : CollEntry :=
  { placedEntry [] with win := some { base := 0, half := 4096, size := 4096, kind := 0, root := 0 },
                        staging := [(0, { bytes := [], released := [0], taken := [], snd := 0, slices := 0, wid := 0, core := 0 })] }
/-- Two sounders, the younger in slot 1. -/
def tTwo (a b : Snd) (regs : Nat) : State :=
  (tS tX).modCC 0 0 (fun cc => { cc with share := { tShare with regs := regs }, sounders := [(0, a), (1, b)] })
/-- A copy of the record with nothing left to move, and a matrix command and a route. -/
def tCopy (n : Nat) : CopyCmd :=
  { id := 0, ctl := 3, handle := 3, lay := layoutOf (tLay 4), coord := [0, 0, 0, 0], follow := none, snd := 0, slices := 1, wid := 0, image := 0,
    target := 0, tsnd := 0, fills := [], fired := true, input := [], claim := 0, next := n, idx := none, part := [], wrote := 0, bytes := 16,
    await := false, unacked := 0, suspended := none, after := 0, since := 0 }
def tMat (fired : Bool) : MatCmd := { matCmd (tS tX) (tI tY 0x32 4 (.r (tR 0 0 0 0 0))).req .mclear 0 0 0 0 0 none with fired := fired }
def tRoute (n w : Nat) : RouteCmd :=
  { id := 0, core := 0, ctx := 0, ctl := 3, handle := 3, score := layoutOf (tLay 4), k := 2, hadd := false, idxout := 0, wout := 0, histout := 0,
    snd := 0, slices := 1, wid := 0, image := 0, fired := true, next := n, scores := [], idx := none, part := [], wrote := w, hist := [], bytes := 0,
    await := false, unacked := 0, suspended := none, after := 0, since := 0 }
/-- A page of a context with an empty table: an unpinned one at 0x50000; or a pinned one of 1 GiB at 2^30. -/
def tPages (big : Bool) : State :=
  let s := tS tX
  match takeFrame s 0 4096 with
  | none => s
  | some (root, s) =>
    let s := s.modCtx 0 (fun c => { c with troot := root })
    if big then (mapRange s 0 root (MapReq.mk 3 0 true true true 0 0 0) true (2 ^ 30) 1 0).getD s
    else (mapRange s 0 root (MapReq.mk 0 0 true true false 0 0 0) true 0x50000 1 0).getD s
/-- A queue of the context on die 0, its ring in that page of 1 GiB, a packet in it, and room in the launch area. -/
def tQueue (tail : Nat) : Queue := { Queue.reset with ring := 2 ^ 30, en := true, ctx := 0, cap := 2, tail := tail }
def tQ (pkt : Nat) (halted : Bool) : State :=
  { (writeVirt (if pkt = 0 then tS tX else tPages true) 0 (2 ^ 30) (toBytes 1 pkt)).modCtx 0 (fun c => { c with halted := halted, areaSize := 4096 }) with
    queues := [(0, tQueue 1)] }
theorem tIntake {s : State} {c : Ctx} (hq : s.queues = [(0, tQueue 1)]) (h : s.ctx? 0 = some c) (ha : areaFits c 64 (up64 c.areaBase) = true) :
    intakeQueue s 0 = some (0, tQueue 1) := by
  have hf : areaFull s 0 = false := by
    simp only [areaFull, h, areaPlace, List.find?]
    split
    · rfl
    · simp [ha]
  simp [intakeQueue, hq, hf, tQueue, Queue.ready, Queue.reset, firstBy]
def tNode (failed : Bool) (pkt : Nat) : Node :=
  { die := 0, queue := 0, qindex := 0, pkt := pkt, preds := [], failed := failed, st := .waiting, count := none, args := [] }
def tIntakeOk (pkt : Nat) (halted : Bool) : Bool :=
  let s := tQ pkt halted
  ((s.ctx? 0).map (fun c => areaFits c 64 (up64 c.areaBase))) == some true && s.queues == [(0, tQueue 1)] && s.nodes.isEmpty && decide ((s.nodes.filter (fun n => n.2.die == 0)).length < 4096) &&
  ctxLive s 0 == !halted && !revoked s 0 && leNat (readVirt s 0 (2 ^ 30) 256) == pkt && bufRoom s 0 0 pkt && pktBad s 0 pkt == (pkt == 0)
/-- Core 0 with what `f` makes of it, and context 1 ready in its shadow bank. -/
def tC (f : Core → Core) : State :=
  let s := tS tX
  { s with ctxs := s.ctxs.put 1 (placedCtx []), cc := s.cc.put 512 { CtxCore.reset with place := .bank 1, sounders := [(0, tX)], share := tShare } }.modCore 0 f
/-- Port 0 up, and an entry that admits package 1, source context 2, to the context's queues 0 to 3, mailboxes and windows. -/
def tIn1 (y : Queue) (g : List Permit) : State :=
  { tS tX with ports := [(0, { Port.reset with up := true, cfg := 1 })], queues := [(0, y)], granted := g, routes := [(1, 1)],
               acl := [(0, { Acl.reset with en := true, launch := true, mbox := true, win := true, srcpkg := 1, srcctx := 2, dstctx := 0, qhi := 3, maxperm := 2, lease := 5 })] }
def tPermit : Permit := { id := 4, pkg := 1, ctx := 2, queue := 0, expiry := 0, lease := 5 }
/-- Requests that a partition has taken. -/
def tReq (s : State) (part : Nat) (qs : List Nat) : State := { s with rings := [(part, { Ring.reset with isOpen := true, taken := qs })] }
/-- An image of one scalar word in the host's memory (R267, R268). -/
def tKzo : Nat := 0x4F5A4B7F + 2 ^ 32 + 2 ^ 48 + 2 ^ 96 + 64 * 2 ^ 128 + (1 + 2 * 2 ^ 40 + 4 * 2 ^ 128 + 96 * 2 ^ 192) * 2 ^ 512
def tHost : State := (tM tX).writeHost 0x1000 (toBytes 100 tKzo)
def tColl : CollReq :=
  { ctx := 0, entry := 1, image := 0, sect := 0, wide := true, op := 0, cb := 64, length := 64,
    rows := [{ pkg := 1, bar := 0, rank := 0, buddy := 0, dest := 0 }], hops := [], win := none, ports := 1, xmask := [] }
theorem tNewCtx {s : State} (h : s.ctxs.find 1 = none) : ∃ n, newCtx s = some n := by
  refine Option.isSome_iff_exists.mp (List.find?_isSome.mpr ⟨1, ?_, by simp [h]⟩)
  simp
/-- The key of slot 1 revoked: that of the placed context. -/
def tRev (s : State) : State := { s with slots := [(1, { KeySlot.reset with state := 2 })] }
/-- Two sounders on core 0, the younger with a block whose next word is an addition into v6, and so many registers. -/
def tParkX : Snd := { tRun { tBlk 0 0 with mask := 1 } with age := 1 }
def tPark (regs : Nat) : State :=
  ((tL tParkX).modCC 0 0 (fun cc => { cc with share := { tShare with regs := regs }, sounders := [(0, tParkX), (1, tX)] })).writeBytes placedLanePA
    (leBytes 12 (0x0100 * 2 ^ 80 + (tR 6 2 4 0 3).nat))

/-! ## Encodings -/

/-- The scalar words: the fixed bits and the fields of Tables 1 and 10 of 02. -/
theorem test_scalar_words_1 :
    decodeTableWord 32 0x04614900 = some (.sAdd 6 5 9) ∧
    decodeTableWord 32 0x04614980 = some (.sAdd32 6 5 9) ∧
    decodeTableWord 32 0x04614901 = some (.sSub 6 5 9) ∧
    decodeTableWord 32 0x04614981 = some (.sSub32 6 5 9) ∧
    decodeTableWord 32 0x04614902 = some (.sAnd 6 5 9) ∧
    decodeTableWord 32 0x04614982 = some (.sAnd32 6 5 9) ∧
    decodeTableWord 32 0x04614903 = some (.sOr 6 5 9) ∧
    decodeTableWord 32 0x04614983 = some (.sOr32 6 5 9) ∧
    decodeTableWord 32 0x04614904 = some (.sXor 6 5 9) ∧
    decodeTableWord 32 0x04614984 = some (.sXor32 6 5 9) ∧
    decodeTableWord 32 0x04614905 = some (.sShl 6 5 9) ∧
    decodeTableWord 32 0x04614985 = some (.sShl32 6 5 9) ∧
    decodeTableWord 32 0x04614906 = some (.sShr 6 5 9) ∧
    decodeTableWord 32 0x04614986 = some (.sShr32 6 5 9) ∧
    decodeTableWord 32 0x04614907 = some (.sSra 6 5 9) ∧
    decodeTableWord 32 0x04614987 = some (.sSra32 6 5 9) ∧
    decodeTableWord 32 0x04614908 = some (.sMul 6 5 9) ∧
    decodeTableWord 32 0x04614988 = some (.sMul32 6 5 9) ∧
    decodeTableWord 32 0x04614909 = some (.sMulh 6 5 9) ∧
    decodeTableWord 32 0x04614989 = some (.sMulh32 6 5 9) ∧
    decodeTableWord 32 0x0461490A = some (.sMulhn 6 5 9) ∧
    decodeTableWord 32 0x0461498A = some (.sMulhn32 6 5 9) ∧
    decodeTableWord 32 0x0461490B = some (.sDiv 6 5 9) ∧
    decodeTableWord 32 0x0461498B = some (.sDiv32 6 5 9) ∧
    decodeTableWord 32 0x0461490C = some (.sDivn 6 5 9) ∧
    decodeTableWord 32 0x0461498C = some (.sDivn32 6 5 9) ∧
    decodeTableWord 32 0x0461490D = some (.sRem 6 5 9) ∧
    decodeTableWord 32 0x0461498D = some (.sRem32 6 5 9) ∧
    decodeTableWord 32 0x0461490E = some (.sRemn 6 5 9) ∧
    decodeTableWord 32 0x0461498E = some (.sRemn32 6 5 9) ∧
    decodeTableWord 32 0x0461490F = some (.sMin 6 5 9) ∧
    decodeTableWord 32 0x0461498F = some (.sMin32 6 5 9) := by
  refine ⟨?_, ?_, ?_, ?_, ?_, ?_, ?_, ?_, ?_, ?_, ?_, ?_, ?_, ?_, ?_, ?_, ?_, ?_, ?_, ?_, ?_, ?_, ?_, ?_, ?_, ?_, ?_, ?_, ?_, ?_, ?_, ?_⟩ <;> rfl

/-- The scalar words: the fixed bits and the fields of Tables 1 and 10 of 02. -/
theorem test_scalar_words_2 :
    decodeTableWord 32 0x04614910 = some (.sMax 6 5 9) ∧
    decodeTableWord 32 0x04614990 = some (.sMax32 6 5 9) ∧
    decodeTableWord 32 0x04614911 = some (.sMinn 6 5 9) ∧
    decodeTableWord 32 0x04614991 = some (.sMinn32 6 5 9) ∧
    decodeTableWord 32 0x04614912 = some (.sMaxn 6 5 9) ∧
    decodeTableWord 32 0x04614992 = some (.sMaxn32 6 5 9) ∧
    decodeTableWord 32 0x08616345 = some (.sAddi 6 5 0x2345) ∧
    decodeTableWord 32 0x0C616345 = some (.sAndi 6 5 0x2345) ∧
    decodeTableWord 32 0x10616345 = some (.sOri 6 5 0x2345) ∧
    decodeTableWord 32 0x14616345 = some (.sXori 6 5 0x2345) ∧
    decodeTableWord 32 0x18614009 = some (.sShli 6 5 9) ∧
    decodeTableWord 32 0x18615009 = some (.sShri 6 5 9) ∧
    decodeTableWord 32 0x18616009 = some (.sSrai 6 5 9) ∧
    decodeTableWord 32 0x1C612345 = some (.sLui 6 0x12345) ∧
    decodeTableWord 32 0x20612345 = some (.sPcrel 6 0x12345) ∧
    decodeTableWord 32 0x27524300 = some (.sCmp 6 5 9 3) ∧
    decodeTableWord 32 0x2B526345 = some (.sCmpi 6 5 9 0x2345) ∧
    decodeTableWord 32 0x2F612345 = some (.sBc 6 1 0x212345) ∧
    decodeTableWord 32 0x32123456 = some (.sJmp 0x2123456) ∧
    decodeTableWord 32 0x36123456 = some (.sCall 0x2123456) ∧
    decodeTableWord 32 0x38018000 = some (.sJmpr 6) ∧
    decodeTableWord 32 0x38018001 = some (.sCallr 6) ∧
    decodeTableWord 32 0x38000002 = some (.sRet) ∧
    decodeTableWord 32 0x40616345 = some (.sSldI8 6 5 0x2345) ∧
    decodeTableWord 32 0x44616345 = some (.sSldN8 6 5 0x2345) ∧
    decodeTableWord 32 0x48616345 = some (.sSldI16 6 5 0x2345) ∧
    decodeTableWord 32 0x4C616345 = some (.sSldN16 6 5 0x2345) ∧
    decodeTableWord 32 0x50616345 = some (.sSldI32 6 5 0x2345) ∧
    decodeTableWord 32 0x54616345 = some (.sSldN32 6 5 0x2345) ∧
    decodeTableWord 32 0x58616345 = some (.sSldI64 6 5 0x2345) ∧
    decodeTableWord 32 0x60616345 = some (.sSstN8 6 5 0x2345) ∧
    decodeTableWord 32 0x64616345 = some (.sSstN16 6 5 0x2345) := by
  refine ⟨?_, ?_, ?_, ?_, ?_, ?_, ?_, ?_, ?_, ?_, ?_, ?_, ?_, ?_, ?_, ?_, ?_, ?_, ?_, ?_, ?_, ?_, ?_, ?_, ?_, ?_, ?_, ?_, ?_, ?_, ?_, ?_⟩ <;> rfl

/-- The scalar words: the fixed bits and the fields of Tables 1 and 10 of 02. -/
theorem test_scalar_words_3 :
    decodeTableWord 32 0x68616345 = some (.sSstN32 6 5 0x2345) ∧
    decodeTableWord 32 0x6C616345 = some (.sSstN64 6 5 0x2345) ∧
    decodeTableWord 32 0x83012300 = some (.sLrun 6 0x123) ∧
    decodeTableWord 32 0x84000000 = some (.sLsync) ∧
    decodeTableWord 32 0x90600003 = some (.sSysrd 6 3) ∧
    decodeTableWord 32 0x90019003 = some (.sSyswr 6 3) ∧
    decodeTableWord 32 0x94614000 = some (.sEvarm 6 5) ∧
    decodeTableWord 32 0x94600001 = some (.sEvdisarm 6) ∧
    decodeTableWord 32 0x94600002 = some (.sWaitany 6) ∧
    decodeTableWord 32 0x98614000 = some (.sJoin 6 5) ∧
    decodeTableWord 32 0x98018001 = some (.sLeave 6) ∧
    decodeTableWord 32 0x98614902 = some (.sBarArrive 6 5 9) ∧
    decodeTableWord 32 0x98614903 = some (.sBarWait 6 5 9) ∧
    decodeTableWord 32 0x98614004 = some (.sBarSync 6 5) ∧
    decodeTableWord 32 0x9C018500 = some (.sMbpost 6 5) ∧
    decodeTableWord 32 0x9C614901 = some (.sMbsend 6 5 9) ∧
    decodeTableWord 32 0x9C614002 = some (.sMbrecv 6 5) ∧
    decodeTableWord 32 0xA0000000 = some (.sSfenceLocal) ∧
    decodeTableWord 32 0xA0000001 = some (.sSfenceCore) ∧
    decodeTableWord 32 0xA0000002 = some (.sSfencePkg) ∧
    decodeTableWord 32 0xA0000003 = some (.sSfenceSys) ∧
    decodeTableWord 32 0xA4018000 = some (.sSvc 6) ∧
    decodeTableWord 32 0xA4000001 = some (.sSndend) ∧
    decodeTableWord 32 0xA4000002 = some (.sTret) ∧
    decodeTableWord 32 0xA4614903 = some (.sOplrd 6 5 9) ∧
    decodeTableWord 32 0xA4614004 = some (.sOplrep 6 5) ∧
    decodeTableWord 32 0xA8600000 = some (.sRdtime 6) := by
  refine ⟨?_, ?_, ?_, ?_, ?_, ?_, ?_, ?_, ?_, ?_, ?_, ?_, ?_, ?_, ?_, ?_, ?_, ?_, ?_, ?_, ?_, ?_, ?_, ?_, ?_, ?_, ?_⟩ <;> rfl

/-- The lane words: major, minor and the fields of Tables 3 and 4 of 02. -/
theorem test_lane_words_1 :
    decodeTableWord 96 0x01000180201000000A001007 = some (.vIadd (LaneR.mk 6 2 4 0 0 5 0 0 0 1 0 0 0 7)) ∧
    decodeTableWord 96 0x01010180201000000A001007 = some (.vIsub (LaneR.mk 6 2 4 0 0 5 0 0 0 1 0 0 0 7)) ∧
    decodeTableWord 96 0x01020180201000000A001007 = some (.vIaddsat (LaneR.mk 6 2 4 0 0 5 0 0 0 1 0 0 0 7)) ∧
    decodeTableWord 96 0x01030180201000000A001007 = some (.vIsubsat (LaneR.mk 6 2 4 0 0 5 0 0 0 1 0 0 0 7)) ∧
    decodeTableWord 96 0x01040180201000000A001007 = some (.vImul (LaneR.mk 6 2 4 0 0 5 0 0 0 1 0 0 0 7)) ∧
    decodeTableWord 96 0x01050180201000000A001007 = some (.vImulhi (LaneR.mk 6 2 4 0 0 5 0 0 0 1 0 0 0 7)) ∧
    decodeTableWord 96 0x01060180201008000A001007 = some (.vImad (LaneR.mk 6 2 4 8 0 5 0 0 0 1 0 0 0 7)) ∧
    decodeTableWord 96 0x01070180201000000A001007 = some (.vImin (LaneR.mk 6 2 4 0 0 5 0 0 0 1 0 0 0 7)) ∧
    decodeTableWord 96 0x01080180201000000A001007 = some (.vImax (LaneR.mk 6 2 4 0 0 5 0 0 0 1 0 0 0 7)) ∧
    decodeTableWord 96 0x01090180200000000A001003 = some (.vIabs (LaneR.mk 6 2 0 0 0 5 0 0 0 1 0 0 0 3)) ∧
    decodeTableWord 96 0x010A0180200000000A001007 = some (.vIneg (LaneR.mk 6 2 0 0 0 5 0 0 0 1 0 0 0 7)) ∧
    decodeTableWord 96 0x010B0180201000000A001007 = some (.vIdiv (LaneR.mk 6 2 4 0 0 5 0 0 0 1 0 0 0 7)) ∧
    decodeTableWord 96 0x010C0180201000000A001007 = some (.vIrem (LaneR.mk 6 2 4 0 0 5 0 0 0 1 0 0 0 7)) ∧
    decodeTableWord 96 0x010D0180201000000A001007 = some (.vIavg (LaneR.mk 6 2 4 0 0 5 0 0 0 1 0 0 0 7)) ∧
    decodeTableWord 96 0x010E0180201008000A001007 = some (.vIsad (LaneR.mk 6 2 4 8 0 5 0 0 0 1 0 0 0 7)) ∧
    decodeTableWord 96 0x02000180201000000A001007 = some (.vAnd (LaneR.mk 6 2 4 0 0 5 0 0 0 1 0 0 0 7)) ∧
    decodeTableWord 96 0x02010180201000000A001007 = some (.vOr (LaneR.mk 6 2 4 0 0 5 0 0 0 1 0 0 0 7)) ∧
    decodeTableWord 96 0x02020180201000000A001007 = some (.vXor (LaneR.mk 6 2 4 0 0 5 0 0 0 1 0 0 0 7)) ∧
    decodeTableWord 96 0x02030180200000000A001007 = some (.vNot (LaneR.mk 6 2 0 0 0 5 0 0 0 1 0 0 0 7)) ∧
    decodeTableWord 96 0x02040180201000000A001007 = some (.vAndn (LaneR.mk 6 2 4 0 0 5 0 0 0 1 0 0 0 7)) ∧
    decodeTableWord 96 0x02050180201000000A001007 = some (.vShl (LaneR.mk 6 2 4 0 0 5 0 0 0 1 0 0 0 7)) ∧
    decodeTableWord 96 0x02060180201000000A001007 = some (.vShr (LaneR.mk 6 2 4 0 0 5 0 0 0 1 0 0 0 7)) ∧
    decodeTableWord 96 0x02070180201000000A001007 = some (.vSra (LaneR.mk 6 2 4 0 0 5 0 0 0 1 0 0 0 7)) ∧
    decodeTableWord 96 0x02080180201000000A001007 = some (.vRotl (LaneR.mk 6 2 4 0 0 5 0 0 0 1 0 0 0 7)) ∧
    decodeTableWord 96 0x02090180200000000A001007 = some (.vPopc (LaneR.mk 6 2 0 0 0 5 0 0 0 1 0 0 0 7)) ∧
    decodeTableWord 96 0x020A0180200000000A001007 = some (.vClz (LaneR.mk 6 2 0 0 0 5 0 0 0 1 0 0 0 7)) ∧
    decodeTableWord 96 0x020B0180200000000A001007 = some (.vCtz (LaneR.mk 6 2 0 0 0 5 0 0 0 1 0 0 0 7)) ∧
    decodeTableWord 96 0x020C0180200000000A001007 = some (.vBrev (LaneR.mk 6 2 0 0 0 5 0 0 0 1 0 0 0 7)) ∧
    decodeTableWord 96 0x020D0180201000000A001007 = some (.vBfext (LaneR.mk 6 2 4 0 0 5 0 0 0 1 0 0 0 7)) ∧
    decodeTableWord 96 0x020E0180201008000A001007 = some (.vBfins (LaneR.mk 6 2 4 8 0 5 0 0 0 1 0 0 0 7)) ∧
    decodeTableWord 96 0x020F0180201008028A001007 = some (.vTlut (LaneR.mk 6 2 4 8 10 5 0 0 0 1 0 0 0 7)) ∧
    decodeTableWord 96 0x03000180201000000A001007 = some (.vIcmpEq (LaneR.mk 6 2 4 0 0 5 0 0 0 1 0 0 0 7)) := by
  refine ⟨?_, ?_, ?_, ?_, ?_, ?_, ?_, ?_, ?_, ?_, ?_, ?_, ?_, ?_, ?_, ?_, ?_, ?_, ?_, ?_, ?_, ?_, ?_, ?_, ?_, ?_, ?_, ?_, ?_, ?_, ?_, ?_⟩ <;> rfl

/-- The lane words: major, minor and the fields of Tables 3 and 4 of 02. -/
theorem test_lane_words_2 :
    decodeTableWord 96 0x03010180201000000A001007 = some (.vIcmpNe (LaneR.mk 6 2 4 0 0 5 0 0 0 1 0 0 0 7)) ∧
    decodeTableWord 96 0x03020180201000000A001007 = some (.vIcmpLt (LaneR.mk 6 2 4 0 0 5 0 0 0 1 0 0 0 7)) ∧
    decodeTableWord 96 0x03030180201000000A001007 = some (.vIcmpLe (LaneR.mk 6 2 4 0 0 5 0 0 0 1 0 0 0 7)) ∧
    decodeTableWord 96 0x03040180201000000A001007 = some (.vIcmpGt (LaneR.mk 6 2 4 0 0 5 0 0 0 1 0 0 0 7)) ∧
    decodeTableWord 96 0x03050180201000000A001007 = some (.vIcmpGe (LaneR.mk 6 2 4 0 0 5 0 0 0 1 0 0 0 7)) ∧
    decodeTableWord 96 0x04000180201000000A00100B = some (.vFadd (LaneR.mk 6 2 4 0 0 5 0 0 0 1 0 0 0 11)) ∧
    decodeTableWord 96 0x04010180201000000A00100B = some (.vFsub (LaneR.mk 6 2 4 0 0 5 0 0 0 1 0 0 0 11)) ∧
    decodeTableWord 96 0x04020180201000000A00100B = some (.vFmul (LaneR.mk 6 2 4 0 0 5 0 0 0 1 0 0 0 11)) ∧
    decodeTableWord 96 0x04030180201008000A00100B = some (.vFfma (LaneR.mk 6 2 4 8 0 5 0 0 0 1 0 0 0 11)) ∧
    decodeTableWord 96 0x04040180201000000A00100B = some (.vFmin (LaneR.mk 6 2 4 0 0 5 0 0 0 1 0 0 0 11)) ∧
    decodeTableWord 96 0x04050180201000000A00100B = some (.vFmax (LaneR.mk 6 2 4 0 0 5 0 0 0 1 0 0 0 11)) ∧
    decodeTableWord 96 0x04060180201000000A00100B = some (.vFminnum (LaneR.mk 6 2 4 0 0 5 0 0 0 1 0 0 0 11)) ∧
    decodeTableWord 96 0x04070180201000000A00100B = some (.vFmaxnum (LaneR.mk 6 2 4 0 0 5 0 0 0 1 0 0 0 11)) ∧
    decodeTableWord 96 0x04080180200000000A00100B = some (.vFabs (LaneR.mk 6 2 0 0 0 5 0 0 0 1 0 0 0 11)) ∧
    decodeTableWord 96 0x04090180200000000A00100B = some (.vFneg (LaneR.mk 6 2 0 0 0 5 0 0 0 1 0 0 0 11)) ∧
    decodeTableWord 96 0x040A0180201000000A00100B = some (.vFcopysign (LaneR.mk 6 2 4 0 0 5 0 0 0 1 0 0 0 11)) ∧
    decodeTableWord 96 0x040B0180200000000A00100B = some (.vFclass (LaneR.mk 6 2 0 0 0 5 0 0 0 1 0 0 0 11)) ∧
    decodeTableWord 96 0x05000180201000000A00100B = some (.vFcmpEq (LaneR.mk 6 2 4 0 0 5 0 0 0 1 0 0 0 11)) ∧
    decodeTableWord 96 0x05010180201000000A00100B = some (.vFcmpNe (LaneR.mk 6 2 4 0 0 5 0 0 0 1 0 0 0 11)) ∧
    decodeTableWord 96 0x05020180201000000A00100B = some (.vFcmpLt (LaneR.mk 6 2 4 0 0 5 0 0 0 1 0 0 0 11)) ∧
    decodeTableWord 96 0x05030180201000000A00100B = some (.vFcmpLe (LaneR.mk 6 2 4 0 0 5 0 0 0 1 0 0 0 11)) ∧
    decodeTableWord 96 0x05040180201000000A00100B = some (.vFcmpGt (LaneR.mk 6 2 4 0 0 5 0 0 0 1 0 0 0 11)) ∧
    decodeTableWord 96 0x05050180201000000A00100B = some (.vFcmpGe (LaneR.mk 6 2 4 0 0 5 0 0 0 1 0 0 0 11)) ∧
    decodeTableWord 96 0x05060180201000000A00100B = some (.vFcmpUn (LaneR.mk 6 2 4 0 0 5 0 0 0 1 0 0 0 11)) ∧
    decodeTableWord 96 0x05070180201000000A00100B = some (.vFcmpOrd (LaneR.mk 6 2 4 0 0 5 0 0 0 1 0 0 0 11)) ∧
    decodeTableWord 96 0x06000180200000000A00100B = some (.vRcp (LaneR.mk 6 2 0 0 0 5 0 0 0 1 0 0 0 11)) ∧
    decodeTableWord 96 0x06010180200000000A00100B = some (.vRsq (LaneR.mk 6 2 0 0 0 5 0 0 0 1 0 0 0 11)) ∧
    decodeTableWord 96 0x06020180200000000A00100B = some (.vSqrt (LaneR.mk 6 2 0 0 0 5 0 0 0 1 0 0 0 11)) ∧
    decodeTableWord 96 0x06030180201000000A00100B = some (.vDiv (LaneR.mk 6 2 4 0 0 5 0 0 0 1 0 0 0 11)) ∧
    decodeTableWord 96 0x06040180200000000A00100B = some (.vExp2 (LaneR.mk 6 2 0 0 0 5 0 0 0 1 0 0 0 11)) ∧
    decodeTableWord 96 0x06050180200000000A00100B = some (.vLog2 (LaneR.mk 6 2 0 0 0 5 0 0 0 1 0 0 0 11)) ∧
    decodeTableWord 96 0x070A0180200000000A001007 = some (.vCvt 0x0A (LaneR.mk 6 2 0 0 0 5 0 0 0 1 0 0 0 7)) := by
  refine ⟨?_, ?_, ?_, ?_, ?_, ?_, ?_, ?_, ?_, ?_, ?_, ?_, ?_, ?_, ?_, ?_, ?_, ?_, ?_, ?_, ?_, ?_, ?_, ?_, ?_, ?_, ?_, ?_, ?_, ?_, ?_, ?_⟩ <;> rfl

/-- The lane words: major, minor and the fields of Tables 3 and 4 of 02. -/
theorem test_lane_words_3 :
    decodeTableWord 96 0x07400180200000000A00100B = some (.vFrint (LaneR.mk 6 2 0 0 0 5 0 0 0 1 0 0 0 11)) ∧
    decodeTableWord 96 0x08000180201008000A001018 = some (.vQnt (LaneR.mk 6 2 4 8 0 5 0 0 0 1 0 0 0 24)) ∧
    decodeTableWord 96 0x08010180201008000A001018 = some (.vDqnt (LaneR.mk 6 2 4 8 0 5 0 0 0 1 0 0 0 24)) ∧
    decodeTableWord 96 0x08020180201008000A001018 = some (.vQscale (LaneR.mk 6 2 4 8 0 5 0 0 0 1 0 0 0 24)) ∧
    decodeTableWord 96 0x090001A92A4C00000A001000 = some (.vPand (LaneR.mk 6 658 659 0 0 5 0 0 0 1 0 0 0 0)) ∧
    decodeTableWord 96 0x090101A92A4C00000A001000 = some (.vPor (LaneR.mk 6 658 659 0 0 5 0 0 0 1 0 0 0 0)) ∧
    decodeTableWord 96 0x090201A92A4C00000A001000 = some (.vPxor (LaneR.mk 6 658 659 0 0 5 0 0 0 1 0 0 0 0)) ∧
    decodeTableWord 96 0x090301A92A4C00000A001000 = some (.vPandn (LaneR.mk 6 658 659 0 0 5 0 0 0 1 0 0 0 0)) ∧
    decodeTableWord 96 0x090401A9200000000A001000 = some (.vPnot (LaneR.mk 6 658 0 0 0 5 0 0 0 1 0 0 0 0)) ∧
    decodeTableWord 96 0x090501A9200000000A001000 = some (.vPmov (LaneR.mk 6 658 0 0 0 5 0 0 0 1 0 0 0 0)) ∧
    decodeTableWord 96 0x09060180200000000A001007 = some (.vPfromv (LaneR.mk 6 2 0 0 0 5 0 0 0 1 0 0 0 7)) ∧
    decodeTableWord 96 0x090701A9200000000A001007 = some (.vPvec (LaneR.mk 6 658 0 0 0 5 0 0 0 1 0 0 0 7)) ∧
    decodeTableWord 96 0x090801A9200000000A001000 = some (.vPfirst (LaneR.mk 6 658 0 0 0 5 0 0 0 1 0 0 0 0)) ∧
    decodeTableWord 96 0x0A000180200000000A001007 = some (.vMov (LaneR.mk 6 2 0 0 0 5 0 0 0 1 0 0 0 7)) ∧
    decodeTableWord 96 0x0A010180201294000A001007 = some (.vSel (LaneR.mk 6 2 4 660 0 5 0 0 0 1 0 0 0 7)) ∧
    decodeTableWord 96 0x0B000180201000000A001007 = some (.vLidx (LaneR.mk 6 2 4 0 0 5 0 0 0 1 0 0 0 7)) ∧
    decodeTableWord 96 0x0B010180201000000A001007 = some (.vLxor (LaneR.mk 6 2 4 0 0 5 0 0 0 1 0 0 0 7)) ∧
    decodeTableWord 96 0x0B020180201000000A001007 = some (.vLrot (LaneR.mk 6 2 4 0 0 5 0 0 0 1 0 0 0 7)) ∧
    decodeTableWord 96 0x0B030180201000000A001007 = some (.vBcast (LaneR.mk 6 2 4 0 0 5 0 0 0 1 0 0 0 7)) ∧
    decodeTableWord 96 0x0C0001802A4C00000A001007 = some (.vRadd (LaneR.mk 6 2 659 0 0 5 0 0 0 1 0 0 0 7)) ∧
    decodeTableWord 96 0x0C0101802A4C00000A001007 = some (.vRmin (LaneR.mk 6 2 659 0 0 5 0 0 0 1 0 0 0 7)) ∧
    decodeTableWord 96 0x0C0201802A4C00000A001007 = some (.vRmax (LaneR.mk 6 2 659 0 0 5 0 0 0 1 0 0 0 7)) ∧
    decodeTableWord 96 0x0C0301802A4C00000A001007 = some (.vRand (LaneR.mk 6 2 659 0 0 5 0 0 0 1 0 0 0 7)) ∧
    decodeTableWord 96 0x0C0401802A4C00000A001007 = some (.vRor (LaneR.mk 6 2 659 0 0 5 0 0 0 1 0 0 0 7)) ∧
    decodeTableWord 96 0x0C0501802A4C00000A001007 = some (.vRxor (LaneR.mk 6 2 659 0 0 5 0 0 0 1 0 0 0 7)) ∧
    decodeTableWord 96 0x0D000180201008000A001010 = some (.vDp4 (LaneR.mk 6 2 4 8 0 5 0 0 0 1 0 0 0 16)) ∧
    decodeTableWord 96 0x0D010180201008000A001014 = some (.vDp2 (LaneR.mk 6 2 4 8 0 5 0 0 0 1 0 0 0 20)) ∧
    decodeTableWord 96 0x110001802000A00012301007 = some (.vIaddI (LaneI.mk 6 2 0 5 0 0x123 0 0 1 0 0 0 7)) ∧
    decodeTableWord 96 0x110101802000A00012301007 = some (.vIsubI (LaneI.mk 6 2 0 5 0 0x123 0 0 1 0 0 0 7)) ∧
    decodeTableWord 96 0x110201802000A00012301007 = some (.vIaddsatI (LaneI.mk 6 2 0 5 0 0x123 0 0 1 0 0 0 7)) ∧
    decodeTableWord 96 0x110301802000A00012301007 = some (.vIsubsatI (LaneI.mk 6 2 0 5 0 0x123 0 0 1 0 0 0 7)) ∧
    decodeTableWord 96 0x110401802000A00012301007 = some (.vImulI (LaneI.mk 6 2 0 5 0 0x123 0 0 1 0 0 0 7)) := by
  refine ⟨?_, ?_, ?_, ?_, ?_, ?_, ?_, ?_, ?_, ?_, ?_, ?_, ?_, ?_, ?_, ?_, ?_, ?_, ?_, ?_, ?_, ?_, ?_, ?_, ?_, ?_, ?_, ?_, ?_, ?_, ?_, ?_⟩ <;> rfl

/-- The lane words: major, minor and the fields of Tables 3 and 4 of 02. -/
theorem test_lane_words_4 :
    decodeTableWord 96 0x110701802000A00012301007 = some (.vIminI (LaneI.mk 6 2 0 5 0 0x123 0 0 1 0 0 0 7)) ∧
    decodeTableWord 96 0x110801802000A00012301007 = some (.vImaxI (LaneI.mk 6 2 0 5 0 0x123 0 0 1 0 0 0 7)) ∧
    decodeTableWord 96 0x120001802000A00012301007 = some (.vAndI (LaneI.mk 6 2 0 5 0 0x123 0 0 1 0 0 0 7)) ∧
    decodeTableWord 96 0x120101802000A00012301007 = some (.vOrI (LaneI.mk 6 2 0 5 0 0x123 0 0 1 0 0 0 7)) ∧
    decodeTableWord 96 0x120201802000A00012301007 = some (.vXorI (LaneI.mk 6 2 0 5 0 0x123 0 0 1 0 0 0 7)) ∧
    decodeTableWord 96 0x120501802000A00001001007 = some (.vShlI (LaneI.mk 6 2 0 5 0 0x10 0 0 1 0 0 0 7)) ∧
    decodeTableWord 96 0x120601802000A00001001007 = some (.vShrI (LaneI.mk 6 2 0 5 0 0x10 0 0 1 0 0 0 7)) ∧
    decodeTableWord 96 0x120701802000A00001001007 = some (.vSraI (LaneI.mk 6 2 0 5 0 0x10 0 0 1 0 0 0 7)) ∧
    decodeTableWord 96 0x120801802000A00001001007 = some (.vRotlI (LaneI.mk 6 2 0 5 0 0x10 0 0 1 0 0 0 7)) ∧
    decodeTableWord 96 0x120D01802000A00012301007 = some (.vBfextI (LaneI.mk 6 2 0 5 0 0x123 0 0 1 0 0 0 7)) ∧
    decodeTableWord 96 0x130001802000A00012301007 = some (.vIcmpEqI (LaneI.mk 6 2 0 5 0 0x123 0 0 1 0 0 0 7)) ∧
    decodeTableWord 96 0x130101802000A00012301007 = some (.vIcmpNeI (LaneI.mk 6 2 0 5 0 0x123 0 0 1 0 0 0 7)) ∧
    decodeTableWord 96 0x130201802000A00012301007 = some (.vIcmpLtI (LaneI.mk 6 2 0 5 0 0x123 0 0 1 0 0 0 7)) ∧
    decodeTableWord 96 0x130301802000A00012301007 = some (.vIcmpLeI (LaneI.mk 6 2 0 5 0 0x123 0 0 1 0 0 0 7)) ∧
    decodeTableWord 96 0x130401802000A00012301007 = some (.vIcmpGtI (LaneI.mk 6 2 0 5 0 0x123 0 0 1 0 0 0 7)) ∧
    decodeTableWord 96 0x130501802000A00012301007 = some (.vIcmpGeI (LaneI.mk 6 2 0 5 0 0x123 0 0 1 0 0 0 7)) ∧
    decodeTableWord 96 0x140001802000A0001230100B = some (.vFaddI (LaneI.mk 6 2 0 5 0 0x123 0 0 1 0 0 0 11)) ∧
    decodeTableWord 96 0x140201802000A0001230100B = some (.vFmulI (LaneI.mk 6 2 0 5 0 0x123 0 0 1 0 0 0 11)) ∧
    decodeTableWord 96 0x140301802010A0001230100B = some (.vFfmaI (LaneI.mk 6 2 4 5 0 0x123 0 0 1 0 0 0 11)) ∧
    decodeTableWord 96 0x140401802000A0001230100B = some (.vFminI (LaneI.mk 6 2 0 5 0 0x123 0 0 1 0 0 0 11)) ∧
    decodeTableWord 96 0x140501802000A0001230100B = some (.vFmaxI (LaneI.mk 6 2 0 5 0 0x123 0 0 1 0 0 0 11)) ∧
    decodeTableWord 96 0x150001802000A0001230100B = some (.vFcmpEqI (LaneI.mk 6 2 0 5 0 0x123 0 0 1 0 0 0 11)) ∧
    decodeTableWord 96 0x150101802000A0001230100B = some (.vFcmpNeI (LaneI.mk 6 2 0 5 0 0x123 0 0 1 0 0 0 11)) ∧
    decodeTableWord 96 0x150201802000A0001230100B = some (.vFcmpLtI (LaneI.mk 6 2 0 5 0 0x123 0 0 1 0 0 0 11)) ∧
    decodeTableWord 96 0x150301802000A0001230100B = some (.vFcmpLeI (LaneI.mk 6 2 0 5 0 0x123 0 0 1 0 0 0 11)) ∧
    decodeTableWord 96 0x150401802000A0001230100B = some (.vFcmpGtI (LaneI.mk 6 2 0 5 0 0x123 0 0 1 0 0 0 11)) ∧
    decodeTableWord 96 0x150501802000A0001230100B = some (.vFcmpGeI (LaneI.mk 6 2 0 5 0 0x123 0 0 1 0 0 0 11)) ∧
    decodeTableWord 96 0x150601802000A0001230100B = some (.vFcmpUnI (LaneI.mk 6 2 0 5 0 0x123 0 0 1 0 0 0 11)) ∧
    decodeTableWord 96 0x150701802000A0001230100B = some (.vFcmpOrdI (LaneI.mk 6 2 0 5 0 0x123 0 0 1 0 0 0 11)) ∧
    decodeTableWord 96 0x1A0001800000A00012301007 = some (.vMovI (LaneI.mk 6 0 0 5 0 0x123 0 0 1 0 0 0 7)) ∧
    decodeTableWord 96 0x1A0101802A4CA00012301007 = some (.vSelI (LaneI.mk 6 2 659 5 0 0x123 0 0 1 0 0 0 7)) ∧
    decodeTableWord 96 0x1B0001802000A00000501007 = some (.vLidxI (LaneI.mk 6 2 0 5 0 0x5 0 0 1 0 0 0 7)) := by
  refine ⟨?_, ?_, ?_, ?_, ?_, ?_, ?_, ?_, ?_, ?_, ?_, ?_, ?_, ?_, ?_, ?_, ?_, ?_, ?_, ?_, ?_, ?_, ?_, ?_, ?_, ?_, ?_, ?_, ?_, ?_, ?_, ?_⟩ <;> rfl

/-- The lane words: major, minor and the fields of Tables 3 and 4 of 02. -/
theorem test_lane_words_5 :
    decodeTableWord 96 0x1B0101802000A00001001007 = some (.vLxorI (LaneI.mk 6 2 0 5 0 0x10 0 0 1 0 0 0 7)) ∧
    decodeTableWord 96 0x1B0201802000A00001001007 = some (.vLrotI (LaneI.mk 6 2 0 5 0 0x10 0 0 1 0 0 0 7)) ∧
    decodeTableWord 96 0x1B0301802000A00001001007 = some (.vBcastI (LaneI.mk 6 2 0 5 0 0x10 0 0 1 0 0 0 7)) ∧
    decodeTableWord 96 0x200001802000A00012301007 = some (.vSpld (LaneI.mk 6 2 0 5 0 0x123 0 0 1 0 0 0 7)) ∧
    decodeTableWord 96 0x200100002010A00012301007 = some (.vSpst (LaneI.mk 0 2 4 5 0 0x123 0 0 1 0 0 0 7)) ∧
    decodeTableWord 96 0x210001802000A03FC0001007 = some (.vGld (LaneI.mk 6 2 0 5 0 0x3FC00 0 0 1 0 0 0 7)) ∧
    decodeTableWord 96 0x210100002010A03FC0001007 = some (.vGst (LaneI.mk 0 2 4 5 0 0x3FC00 0 0 1 0 0 0 7)) ∧
    decodeTableWord 96 0x210200002000A03FC0001000 = some (.vGprefetch (LaneI.mk 0 2 0 5 0 0x3FC00 0 0 1 0 0 0 0)) ∧
    decodeTableWord 96 0x222001802010A08010001007 = some (.vAadd 2 (LaneI.mk 6 2 4 5 0 0x80100 0 0 1 0 0 0 7)) ∧
    decodeTableWord 96 0x222101802010A08010001007 = some (.vAmin 2 (LaneI.mk 6 2 4 5 0 0x80100 0 0 1 0 0 0 7)) ∧
    decodeTableWord 96 0x222201802010A08010001007 = some (.vAmax 2 (LaneI.mk 6 2 4 5 0 0x80100 0 0 1 0 0 0 7)) ∧
    decodeTableWord 96 0x222301802010A08010001007 = some (.vAand 2 (LaneI.mk 6 2 4 5 0 0x80100 0 0 1 0 0 0 7)) ∧
    decodeTableWord 96 0x222401802010A08010001007 = some (.vAor 2 (LaneI.mk 6 2 4 5 0 0x80100 0 0 1 0 0 0 7)) ∧
    decodeTableWord 96 0x222501802010A08010001007 = some (.vAxor 2 (LaneI.mk 6 2 4 5 0 0x80100 0 0 1 0 0 0 7)) ∧
    decodeTableWord 96 0x222601802010A08010001007 = some (.vAxchg 2 (LaneI.mk 6 2 4 5 0 0x80100 0 0 1 0 0 0 7)) ∧
    decodeTableWord 96 0x222701802010A08010001007 = some (.vAcas 2 (LaneI.mk 6 2 4 5 0 0x80100 0 0 1 0 0 0 7)) ∧
    decodeTableWord 96 0x222801802010A0801000100B = some (.vAfadd 2 (LaneI.mk 6 2 4 5 0 0x80100 0 0 1 0 0 0 11)) ∧
    decodeTableWord 96 0x230001802010A00001001007 = some (.vAppend (LaneI.mk 6 2 4 5 0 0x10 0 0 1 0 0 0 7)) ∧
    decodeTableWord 96 0x240000000000000000001000 = some (.vFenceCore (LaneR.mk 0 0 0 0 0 0 0 0 0 1 0 0 0 0)) ∧
    decodeTableWord 96 0x240100000000000000001000 = some (.vFencePkg (LaneR.mk 0 0 0 0 0 0 0 0 0 1 0 0 0 0)) ∧
    decodeTableWord 96 0x240200000000000000001000 = some (.vFenceSys (LaneR.mk 0 0 0 0 0 0 0 0 0 1 0 0 0 0)) ∧
    decodeTableWord 96 0x240300000000000000001000 = some (.vFenceEng (LaneR.mk 0 0 0 0 0 0 0 0 0 1 0 0 0 0)) ∧
    decodeTableWord 96 0x30000000201008028A001000 = some (.vCopy (LaneR.mk 0 2 4 8 10 5 0 0 0 1 0 0 0 0)) ∧
    decodeTableWord 96 0x30000040201008028A001000 = some (.vCopyFo (LaneR.mk 1 2 4 8 10 5 0 0 0 1 0 0 0 0)) ∧
    decodeTableWord 96 0x31000000201000000A001000 = some (.vCbset (LaneR.mk 0 2 4 0 0 5 0 0 0 1 0 0 0 0)) ∧
    decodeTableWord 96 0x31010000201000000A001007 = some (.vCbpush (LaneR.mk 0 2 4 0 0 5 0 0 0 1 0 0 0 7)) ∧
    decodeTableWord 96 0x31020180200000000A001007 = some (.vCbpop (LaneR.mk 6 2 0 0 0 5 0 0 0 1 0 0 0 7)) ∧
    decodeTableWord 96 0x31030180200000000A001008 = some (.vCbstat (LaneR.mk 6 2 0 0 0 5 0 0 0 1 0 0 0 8)) ∧
    decodeTableWord 96 0x32000000201000000A001000 = some (.vMldw (LaneR.mk 0 2 4 0 0 5 0 0 0 1 0 0 0 0)) ∧
    decodeTableWord 96 0x32010000200000000A001000 = some (.vMswap (LaneR.mk 0 2 0 0 0 5 0 0 0 1 0 0 0 0)) ∧
    decodeTableWord 96 0x32020000201000000A001000 = some (.vMstream (LaneR.mk 0 2 4 0 0 5 0 0 0 1 0 0 0 0)) ∧
    decodeTableWord 96 0x32030000200000000A00100B = some (.vMdrain (LaneR.mk 0 2 0 0 0 5 0 0 0 1 0 0 0 11)) := by
  refine ⟨?_, ?_, ?_, ?_, ?_, ?_, ?_, ?_, ?_, ?_, ?_, ?_, ?_, ?_, ?_, ?_, ?_, ?_, ?_, ?_, ?_, ?_, ?_, ?_, ?_, ?_, ?_, ?_, ?_, ?_, ?_, ?_⟩ <;> rfl

/-- The lane words: major, minor and the fields of Tables 3 and 4 of 02. -/
theorem test_lane_words_6 :
    decodeTableWord 96 0x32040000200000000A001000 = some (.vMclear (LaneR.mk 0 2 0 0 0 5 0 0 0 1 0 0 0 0)) ∧
    decodeTableWord 96 0x32050000201000000A001000 = some (.vMperm (LaneR.mk 0 2 4 0 0 5 0 0 0 1 0 0 0 0)) ∧
    decodeTableWord 96 0x33000000201000000A001000 = some (.vRoute (LaneR.mk 0 2 4 0 0 5 0 0 0 1 0 0 0 0)) ∧
    decodeTableWord 96 0x34000000201008028A001000 = some (.vCstart (LaneR.mk 0 2 4 8 10 5 0 0 0 1 0 0 0 0)) ∧
    decodeTableWord 96 0x35000000201000000A001000 = some (.vHwait (LaneR.mk 0 2 4 0 0 5 0 0 0 1 0 0 0 0)) ∧
    decodeTableWord 96 0x35010000201000000A001000 = some (.vHrel (LaneR.mk 0 2 4 0 0 5 0 0 0 1 0 0 0 0)) ∧
    decodeTableWord 96 0x35020180200000000A001008 = some (.vHstat (LaneR.mk 6 2 0 0 0 5 0 0 0 1 0 0 0 8)) ∧
    decodeTableWord 96 0x380000000000000000000000 = some (.vLend (LaneI.mk 0 0 0 0 0 0 0 0 0 0 0 0 0)) ∧
    decodeTableWord 96 0x380100000000000000001000 = some (.vLnop (LaneI.mk 0 0 0 0 0 0 0 0 1 0 0 0 0)) ∧
    decodeTableWord 96 0x380200292000A00000500000 = some (.vLbrAny (LaneI.mk 0 658 0 5 0 0x5 0 0 0 0 0 0 0)) ∧
    decodeTableWord 96 0x380200292000A01000500000 = some (.vLbrAll (LaneI.mk 0 658 0 5 0 0x10005 0 0 0 0 0 0 0)) ∧
    decodeTableWord 96 0x380300000000A00012300000 = some (.vLjmp (LaneI.mk 0 0 0 5 0 0x123 0 0 0 0 0 0 0)) ∧
    decodeTableWord 96 0x380400000000000000000000 = some (.vRegang (LaneI.mk 0 0 0 0 0 0 0 0 0 0 0 0 0)) ∧
    decodeTableWord 96 0x380500000000A00012300000 = some (.vLtrap (LaneI.mk 0 0 0 5 0 0x123 0 0 0 0 0 0 0)) := by
  refine ⟨?_, ?_, ?_, ?_, ?_, ?_, ?_, ?_, ?_, ?_, ?_, ?_, ?_, ?_⟩ <;> rfl

/-- The MCF words: Tables 5 to 8 of 09. -/
theorem test_mcf_words_1 :
    decodeTableWord 64 0x01900000FFFFFFFE = some (.mLi 9 0xFFFFFFFE) ∧
    decodeTableWord 64 0x0295000000000004 = some (.mAddi 9 5 4) ∧
    decodeTableWord 64 0x0395300000000000 = some (.mAdd 9 5 3) ∧
    decodeTableWord 64 0x0395300100000000 = some (.mSub 9 5 3) ∧
    decodeTableWord 64 0x0395300200000000 = some (.mAnd 9 5 3) ∧
    decodeTableWord 64 0x0395300300000000 = some (.mOr 9 5 3) ∧
    decodeTableWord 64 0x0395300400000000 = some (.mXor 9 5 3) ∧
    decodeTableWord 64 0x0395300500000000 = some (.mShl 9 5 3) ∧
    decodeTableWord 64 0x0395300600000000 = some (.mShr 9 5 3) ∧
    decodeTableWord 64 0x0395300700000000 = some (.mMinn 9 5 3) ∧
    decodeTableWord 64 0x04000000FFFFFFFD = some (.mBAl 0xFFFFFFFD) ∧
    decodeTableWord 64 0x0405300100000002 = some (.mBEq 5 3 2) ∧
    decodeTableWord 64 0x0405300200000002 = some (.mBNe 5 3 2) ∧
    decodeTableWord 64 0x0405300300000002 = some (.mBLtn 5 3 2) ∧
    decodeTableWord 64 0x0405300400000002 = some (.mBGen 5 3 2) ∧
    decodeTableWord 64 0x0405300500000002 = some (.mBLt 5 3 2) ∧
    decodeTableWord 64 0x0405300600000002 = some (.mBGe 5 3 2) ∧
    decodeTableWord 64 0x0592001300000004 = some (.mMatch 9 2 0x13 4) ∧
    decodeTableWord 64 0x0692000600000000 = some (.mRdh 9 2 6) ∧
    decodeTableWord 64 0x0795000500000000 = some (.mRdm 9 5 5) ∧
    decodeTableWord 64 0x0892000000000000 = some (.mMark 9 2) ∧
    decodeTableWord 64 0x0902000000000000 = some (.mHold 2) ∧
    decodeTableWord 64 0x1002000000000000 = some (.mDrop 2) ∧
    decodeTableWord 64 0x0A05300000000000 = some (.mStream 5 3) ∧
    decodeTableWord 64 0x0B90300000000000 = some (.mFoldSum 9 3) ∧
    decodeTableWord 64 0x0B90300100000000 = some (.mFoldMin 9 3) ∧
    decodeTableWord 64 0x0B90300200000000 = some (.mFoldMax 9 3) ∧
    decodeTableWord 64 0x0B90301000000000 = some (.mFoldQ 9 3) ∧
    decodeTableWord 64 0x0C02300800000000 = some (.mCombSum 2 3 1) ∧
    decodeTableWord 64 0x0C02300100000000 = some (.mCombMin 2 3 0) ∧
    decodeTableWord 64 0x0C02300A00000000 = some (.mCombMax 2 3 1) ∧
    decodeTableWord 64 0x0D05073800000000 = some (.mFwd 2 3 5 7) := by
  refine ⟨?_, ?_, ?_, ?_, ?_, ?_, ?_, ?_, ?_, ?_, ?_, ?_, ?_, ?_, ?_, ?_, ?_, ?_, ?_, ?_, ?_, ?_, ?_, ?_, ?_, ?_, ?_, ?_, ?_, ?_, ?_, ?_⟩ <;> rfl

/-- The MCF words: Tables 5 to 8 of 09. -/
theorem test_mcf_words_2 :
    decodeTableWord 64 0x0D05372100000000 = some (.mFwdAcc 3 2 5 7) ∧
    decodeTableWord 64 0x0E05300000000000 = some (.mDlv 5 3) ∧
    decodeTableWord 64 0x0E05020100000000 = some (.mDlvPk 5 2) ∧
    decodeTableWord 64 0x0E05020200000000 = some (.mDlvG 5 2) ∧
    decodeTableWord 64 0x1105300000000000 = some (.mTkreq 5 3) ∧
    decodeTableWord 64 0x0F05000000000009 = some (.mArrive 5 9) ∧
    decodeTableWord 64 0x1200000000000000 = some (.mEnd) := by
  refine ⟨?_, ?_, ?_, ?_, ?_, ?_, ?_⟩ <;> rfl
/-- Ill-formed terms: a register number that sysrd and syswr do not list, a lane word with TYPE 0, an odd destination of copy and an even
one of copy.fo, the any and all bits of lbr exchanged, a conversion code that is none, a field number that rdh does not have. -/
theorem test_ill_formed : [Instr.sSysrd 0 0xFF, .sSyswr 0 0xFF, .vIadd (tR 6 2 4 0 0), .vCopy (tR 1 640 641 642 0), .vCopyFo (tR 0 640 641 642 0),
    .vLbrAny (tF 0 658 0 0x10000 0), .vLbrAll (tF 0 658 0 0 0), .vCvt 0x40 (tR 6 2 0 0 7), .mRdh 0 0 7].all (fun i => !wellFormed i) = true := by decide +kernel

/-! ## The scalar stream -/

/-! ## What the statements about the scalar stream assume is met -/

theorem test_scalar_at : ScalarAt (tS tX) 0 0 0 tX := ⟨rfl, rfl⟩
/-- R115 to R122: the ends of the ranges of the words that are none, after Tables 1 and 10 of 02 and R115, R117, R120, R122. -/
theorem test_scalar_refused_words :
    (∀ f ∈ [0x13, 0x7F, 0x93, 0xFF], f < 256 ∧ 0x12 < f % 128 ∧ decode .scalar (leBytes 4 (0x04614900 + f)) = .illegal 2) ∧
    (∀ k ∈ [0x3000, 0x3FFF], decode .scalar (leBytes 4 (0x18614000 + k)) = .illegal 2) ∧
    (∀ k ∈ [0x0040, 0x2FFF], decode .scalar (leBytes 4 (0x18614000 + k)) = .illegal 3) ∧
    (∀ z ∈ [1, 255], decode .scalar (leBytes 4 (0x24614900 + z)) = .illegal 3) ∧
    (∀ k ∈ [0x03, 0x3FFFFFF], decode .scalar (leBytes 4 (0x38000000 + k)) = .illegal 2) ∧
    (∀ k ∈ [0x0100000, 0x0000101, 0x0004002], decode .scalar (leBytes 4 (0x38000000 + k)) = .illegal 3) ∧
    (∀ k ∈ [0x4001, 0x0101], decode .scalar (leBytes 4 (0x94600000 + k)) = .illegal 3) := by decide +kernel
/-- R54: with a section of four bytes, target 0 lies inside, 4 is its end and 2 is misaligned; c0 holds and c1 does not. -/
theorem test_scalar_transfer_cases :
    scalarSize (tS tX) 0 tX = 4 ∧ tX.pc = 0 ∧ tX.cond 0 = true ∧ tX.cond 1 = false ∧ tX.sreg 5 = 0 ∧ tX.sreg 63 = 0 ∧
    (tX.setS 5 4).sreg 5 = 4 ∧ (tX.setS 63 2).sreg 63 = 2 ∧ ScalarAt (tS (tX.setS 5 4)) 0 0 0 (tX.setS 5 4) ∧
    (let y : Snd := { tX with pc := 4 }
     let s : State := { tS y with agenda := [.scalar 0 0] }
     issuingCtx s 0 = some 0 ∧ (s.coreOf 0).scalPort.find 0 = some 0 ∧ s.snd? 0 0 0 = some y ∧ y.mayIssue = true ∧
       y.wait = .ready ∧ revoked s 0 = false ∧ y.pc = scalarSize s 0 y) := by
  refine ⟨rfl, rfl, rfl, rfl, rfl, rfl, rfl, rfl, ⟨rfl, rfl⟩, rfl, rfl, rfl, rfl, rfl, rfl, rfl⟩
/-- R115: 0 + 0 into s1, a next state to which the frame applies. -/
theorem test_scalar_frame_met : ∃ t, exec (.sAdd 1 2 3) (tS tX) = .next t := ⟨_, rfl⟩
/-- R124, R413: the four sizes at the top of the mapped page; the key of the context active, and revoked. -/
theorem test_scalar_loads_met :
    tX.scalarPending = false ∧ coreSplit (tM tX) 0 = false ∧ (∀ p ∈ [(0x10FFF, 1), (0x10FFE, 2), (0x10FFC, 4), (0x10FF8, 8)], ∃ pa ∈ [poolBase 0 + 12288 + p.1 % 4096],
      (tM tX).poisoned pa = false ∧ (tM tX).lags 0 pa p.2 = false ∧ scalarProbe (tM tX) 0 tX p.1 p.2 false = .ok (.mem false pa) ∧
      scalarProbe (tM tX) 0 tX p.1 p.2 true = .ok (.mem false pa)) ∧
    (tX.setS 5 0x10FF8).sreg 5 = 0x10FF8 ∧ revoked (tM tX) 0 = false ∧ revoked (tRev (tM tX)) 0 = true ∧
    scalarProbe (tRev (tM tX)) 0 tX 0x10FF8 8 false = .ok (.mem false (poolBase 0 + 12288 + 0xFF8)) := by decide +kernel
theorem test_scalar_store_met : tX.freeEntry = some 0 ∧ ({ tX with oplog := tFull } : Snd).freeEntry = none := by decide +kernel
/-- R124, R45: an address of each check. -/
theorem test_scalar_checks_met :
    0x10001 % 2 ≠ 0 ∧ translate (tM tX) 0 0x20000 false false = .ok (.aliasWin 0 0x20000) ∧ inAlias (tM tX) 0 0 = false ∧
    inAlias (tM tX) 0 0x10000 = false ∧ (∃ d ∈ [32], translate (tM tX) 0 0 true false = .fail d) ∧
    scalarProbe (tM tX) 0 tX 0 1 false = .error 0x1B ∧ scalarProbe (tM tX) 0 tX (2 ^ 56) 1 true = .error 0x10 := by decide +kernel
/-- R127: no entry, an entry with room, and a full queue. -/
theorem test_lrun_met :
    tableEntry (tS tX) 0 tX 0 = none ∧ tableEntry (tTable (tS tX)) 0 tX 0 = some (0, 2) ∧ tX.queue.length < 4 ∧
    4 ≤ ({ tX with queue := List.replicate 4 placedBlock } : Snd).queue.length := by decide +kernel
/-- R26, Table 2 of 01: the ends of the ranges of listed and of writable numbers. -/
theorem test_sysreg_ranges :
    [0x00, 0x03, 0x08, 0x13, 0x20, 0x24, 0x40, 0x4F].all (fun r => sysregListed r) = true ∧
    [0x04, 0x07, 0x14, 0x1F, 0x25, 0x3F, 0x50, 0xFFF].all (fun r => !sysregListed r) = true ∧
    [0x00, 0x03, 0x20, 0x24].all (fun r => sysregWritable r) = true ∧ [0x08, 0x13, 0x25, 0x40].all (fun r => !sysregWritable r) = true := by
  decide
/-! ## What the statements about barriers, events, mailboxes and traps assume is met -/

theorem test_idle : tX.Idle := ⟨rfl, rfl⟩
theorem test_sync_at : ScalarAt (tB tX) 0 0 0 tX ∧ ScalarAt (tMail (tM tX) .closed) 0 0 0 tX := ⟨⟨rfl, rfl⟩, ⟨by decide +kernel, by decide +kernel⟩⟩
/-- R214, R216: barrier 5 is in the share and 6 is not; the sounder holds rank 1; a descriptor asks for rank 0, for a held rank, or
with another size. -/
theorem test_barriers_met :
    tX.determ = false ∧ refGranted (tB tX) 0 5 = true ∧ refGranted (tB tX) 0 6 = false ∧ barrierOf (tB tX) 0 0 5 = tBar ∧
    rankOf tBar 0 0 = some 1 ∧ rankOf tBar 0 1 = none ∧ tBar.arrived + 1 ≤ tBar.need ∧
    tBar.need < ({ tBar with arrived := 1 } : Barrier).arrived + 1 ∧ refCore 5 = 0 ∧ refNumber 5 = 5 := by decide +kernel
theorem test_joins_met :
    joinRank tBar 0 1 (2 ^ 40 + 5) = .ok 0 ∧ joinRank tBar 0 1 (2 ^ 40 + 2 ^ 56 + 5) = .error 0x3B ∧ joinRank tBar 0 1 5 = .error 0x3A ∧
    joinRank { tBar with ranks := [(0, 0, 0, 0), (1, 0, 0, 0)] } 0 2 (2 ^ 40 + 255 * 2 ^ 56 + 5) = .error 0x3C :=
  ⟨rfl, rfl, rfl, rfl⟩
/-- R217, R220: a binding of each kind for handler 0; live and eligible slots. -/
theorem test_events_met :
    [(0x10000005 : Word), 0x20000003, 0x30000003, 0x4000FFFF].all (fun b => !bindingBad b && bindingGranted (tB tX) 0 0 b &&
      bindHandler b % 4 == 0 && decide (bindHandler b < scalarSize (tB tX) 0 tX)) = true ∧ (0 : BitVec 6).toNat < 8 ∧ 8 ≤ (8 : BitVec 6).toNat ∧
    tX.armed &&& ~~~tX.masked = 0 ∧
    (let y : Snd := { tX with armed := 0x80 }
     y.armed &&& ~~~y.masked ≠ 0 ∧ y.eligible = none ∧ ({ y with pending := 0x80 } : Snd).eligible = some 7) := by decide +kernel
/-- R223, R225, R226: slots and lengths of each form and of none; a message that is read whole, that goes on behind a window, that
faults; destinations of no form, within the package and in another; accesses performed and not. -/
theorem test_mailboxes_met :
    3 ∈ tShare.mailboxes ∧ 31 ∈ tShare.mailboxes ∧ 4 ∉ tShare.mailboxes ∧ mailOf (tMail (tM tX) .closed) 0 0 31 = .closed ∧
    mailOf (tMail (tM tX) (.posted 0x10000 256)) 0 0 3 = .posted 0x10000 256 ∧ mailOf (tMail (tM tX) (.arrived 1)) 0 0 3 = .arrived 1 ∧
    31 + 256 * 2 ^ 32 = (31 : Nat) + 256 * 2 ^ 32 ∧ (¬ ∃ slot len : Nat, slot < 32 ∧ len ≤ 256 ∧ 32 = slot + len * 2 ^ 32) ∧
    tX.scalarPending = false ∧ coreSplit (tM tX) 0 = false ∧ tX.wait = .ready ∧ tX.determ = false ∧ (tM tX).plat.pkgid = 0 ∧
    destPkg (2 ^ 38 - 1) ≠ 0 ∧ destPkg 0 = 0 ∧ destPkg (2 ^ 38) = 0 ∧ destPkg (2 ^ 38 + 2 ^ 26) = 1 ∧
    tX.fenceDone false = true ∧ tX.fenceDone true = true ∧ ({ tX with oplog := tFull, joined := 1 } : Snd).fenceDone false = false ∧
    (tM tX).lags 0 (poolBase 0 + 12288) 1 = false ∧ (tM tX).poisoned (poolBase 0 + 12288) = false ∧
    ({ tM tX with poison := [(poolBase 0 + 12288) / 64] } : State).poisoned (poolBase 0 + 12288) = true ∧
    scalarProbe (tM tX) 0 tX 0x10FFF 1 false = .ok (.mem false (poolBase 0 + 12288 + 0xFFF)) ∧
    scalarProbe (tM tX) 0 tX 0x28000 1 false = .ok (.window 5 0x9000) ∧ scalarProbe (tM tX) 0 tX 0x11000 1 false = .error 0x1B ∧
    (match mailRead (tM tX) 0 0 tX 0x10000 1 [] with | .done _ bs => bs == [0] | _ => false) = true ∧
    (match mailRead (tM tX) 0 0 tX 0x28000 1 [] with | .away _ bs va left p _ => bs == [] && va == 0x28000 && left == 1 && p == 5 | _ => false) = true ∧
    (match mailRead (tM tX) 0 0 tX 0x10FFF 2 [] with | .fault _ e va _ => e == 0x1B && va == 0x11000 | _ => false) = true := by
  refine ⟨?_, ?_, ?_, ?_, ?_, ?_, ?_, ?_, ?_⟩
  case refine_8 => rintro ⟨a, b, h, -, e⟩; omega
  all_goals decide +kernel
/-- R234, R236: with a handler and without, outside handler mode and in it. -/
theorem test_traps_met :
    (tHand (tM tX)).snd? 0 0 0 = some tX ∧ tX.midSend = false ∧ tX.handler = false ∧
    ((tHand (tM tX)).ctx? 0).map (·.handler) = some (some (0, 0, 0x10000)) ∧ ((tS tX).ctx? 0).map (·.handler) = some none ∧
    ({ tX with handler := true } : Snd).midSend = false := by decide +kernel
/-- R236 to R239: the frame asks for RESUME 0 to 3; entry 0 of the log is free, or holds a lane. -/
theorem test_trap_instructions_met :
    tX.quiet = true ∧ tX.oplog = [] ∧
    (∀ r ∈ [0, 1, 2, 3], frameResume (writeVirt (tHand (tM tX)) 0 (frameAddr 0x10000 0 0) (toBytes 8 (r * 2 ^ 14))) 0 0 0 = r) ∧
    (let y : Snd := { tX with handler := true, oplog := [(7, tEntry .load 1 (.sp 0) true)] }
     y.oplog.find 7 = some (tEntry .load 1 (.sp 0) true) ∧ y.oplog.find 0 = none ∧ y.scalarPending = false) ∧
    (tEntry .load 1 (.sp 0) true).held ≠ [] ∧
    (let y : Snd := { tX with determ := true }
     dreysOf (tS y) 0 0 0 = [] ∧ dreysOf (tB y) 0 0 0 = [(5, 1)] ∧ detTurn (tB y) 0 y (dreyParties (tB y) 0 5) = true) := by decide +kernel
/-- Table 2 of 01: tiles of the share and one outside it. -/
theorem test_share_met :
    0 ∈ ((tB tX).ccOf 0 0).share.tiles ∧ 15 ∈ ((tB tX).ccOf 0 0).share.tiles ∧ 1 ∉ ((tB tX).ccOf 0 0).share.tiles ∧ ((tB tX).ctx? 0).isSome = true := by
  decide +kernel
/-- R293, R294: in deterministic mode the stamp of a member, and of a launch's sounder, decides the turn; a waiting party has the stamp of
its phase once that has passed, or once every member has arrived in it, and none before. -/
theorem test_turns_met :
    (let x : Snd := { tX with determ := true, lclock := 5 }
     let p := fun clock : Nat => ({ tX with determ := true, idx := 1, lclock := BitVec.ofNat 64 clock } : Snd)
     let bar : Barrier := { tBar with members := 2, ranks := [(0, 1, 0, 0), (1, 0, 0, 0)] }
     let s := fun clock : Nat =>
       ((tS x).modCC 0 0 fun cc => { cc with share := tShare, sounders := [(0, x), (1, p clock)], barriers := [(5, bar)] } : State)
     x.scalarPending = false ∧ x.lsyncDone = true ∧ detTurn (s 6) 0 x (dreyParties (s 6) 0 5) = true ∧ detTurn (s 5) 0 x (dreyParties (s 5) 0 5) = true ∧
     detTurn (s 4) 0 x (dreyParties (s 4) 0 5) = false ∧ detTurn (s 6) 0 x (launchParties (s 6) 0 x.launch) = true ∧
     detTurn (s 4) 0 x (launchParties (s 4) 0 x.launch) = false ∧ rankOf (barrierOf (s 4) 0 0 5) 0 0 = some 1 ∧
     (s 4).snd? 0 0 0 = some x ∧ bar.arrived + 1 ≤ bar.need) ∧
    (let wait := fun tok : Nat => ({ tX with lclock := 3, wait := .bar 0 5 tok } : Snd)
     let s := fun n : Nat => ((tS tX).modCC 0 0 fun cc => { cc with share := tShare, barriers := [(5, { tBar with ranks := [(0, 1, 1, 9), (1, 0, n, 0)] })] } : State)
     tX.barWait = none ∧ (wait 6).barWait = some (5, 6) ∧ phasePassed (barrierOf (s 0) 0 0 5) 6 = true ∧ phasePassed (barrierOf (s 0) 0 0 5) 7 = false ∧
     phasePassed (barrierOf (s 0) 0 0 5) 8 = false ∧ (barrierOf (s 0) 0 0 5).phase.toNat = 7 % 2 ^ 56 ∧ (barrierOf (s 0) 0 0 5).phase.toNat ≠ 8 % 2 ^ 56 ∧
     stampOf (s 0) 0 (wait 6) = some (3, 0) ∧ stampOf (s 1) 0 (wait 7) = some (9, 0) ∧ stampOf (s 0) 0 (wait 7) = none ∧ stampOf (s 1) 0 (wait 8) = none) := by
  decide +kernel
/-- R216: counts at the ends of their range, and one beyond what the drey still expects. -/
theorem test_arrivals_met :
    (1 : Nat) < 2 ^ 16 ∧ 2 ^ 16 - 1 < 2 ^ 16 ∧ tBar.arrived + 1 ≤ tBar.need ∧ tBar.need < tBar.arrived + (2 ^ 16 - 1) ∧ (2 ^ 16 : Nat) % 2 ^ 16 = 0 ∧
    tX.lsyncDone = true ∧ tX.scalarPending = false ∧ detTurn (tB tX) 0 tX (dreyParties (tB tX) 0 5) = true ∧ rankOf tBar 0 0 = some 1 := by decide +kernel
/-- R217, Table 4 of 01: bindings of no kind and with an object out of its range; of objects that are not granted; with a handler
that is no scalar word. -/
theorem test_bad_bindings_met :
    [(0 : Word), 0x50000000, 0xF0000000, 0x10000200, 0x20000100, 0x30000020].all bindingBad = true ∧
    [(0x10000006 : Word), 0x20000004, 0x30000004].all (fun b => !bindingBad b && !bindingGranted (tB tX) 0 0 b) = true ∧
    scalarSize (tB tX) 0 tX = 4 ∧ bindHandler 0x0000000210000005 % 4 ≠ 0 ∧ bindHandler 0x0000000410000005 % 4 = 0 ∧
    scalarSize (tB tX) 0 tX ≤ bindHandler 0x0000000410000005 ∧ bindingGranted (tB tX) 0 0 0x0000000410000005 = true := by decide +kernel

/-! ## The lanes -/

/-! ## What the statements about lane instructions assume is met -/

/-- An issue of each group with legal fields, full sources and its registers, no exception enabled: integer, bit, compare, float,
reciprocal, conversion, predicate, move, cross-lane, reduction, dot product and their immediate forms. -/
theorem test_lane_issues_met :
    [(1, 0, tR 6 2 4 0 3), (2, 5, tR 6 2 4 0 0x13), (2, 13, tR 6 2 4 0 7), (3, 2, tR 6 2 4 0 3), (4, 3, tR 6 2 4 8 11), (5, 7, tR 6 2 4 0 11),
     (6, 0, tR 6 2 0 0 11), (7, 0x40, tR 6 2 0 0 11), (7, 3, tR 6 2 0 0 7), (7, 3, tR 6 2 0 0 11), (7, 11, tR 6 2 0 0 9), (7, 11, tR 6 2 0 0 3),
     (9, 0, tR 6 658 659 0 0), (9, 7, tR 6 658 0 0 7), (10, 1, tR 6 2 4 660 7), (11, 2, tR 6 2 4 0 7), (12, 0, tR 6 2 656 0 3),
     (12, 0, tR 6 2 656 0 11), (13, 0, tR 6 2 4 8 0x10), (13, 1, tR 6 2 4 8 0x14)].all (fun p => tReady tY p.1 p.2.1 (.r p.2.2) 0) = true ∧
    [(0x11, 0, tF 6 2 0 5 3), (0x12, 5, tF 6 2 0 5 3), (0x13, 2, tF 6 2 0 5 3), (0x14, 0, tF 6 2 0 5 11), (0x14, 3, tF 6 2 4 5 12), (0x15, 2, tF 6 2 0 5 11),
     (0x1A, 0, tF 6 0 0 5 3), (0x1B, 0, tF 6 2 0 5 3)].all (fun p => tReady tY p.1 p.2.1 (.i p.2.2) 0) = true := by decide +kernel
/-- One of them as the statements read it: its results raise nothing. -/
theorem test_lane_gives_met :
    let i := tI tY 1 0 (.r (tR 6 2 4 0 3))
    LaneAt (tL tY) 1 0 (.r (tR 6 2 4 0 3)) i ∧ i.Ready (tL tY) (List.replicate 96 (0, 0)) := tReady_at (by decide +kernel)
/-- R146, R147, R87: a valid control (the example of R147) and an invalid one; ∞ − ∞ with the invalid exception enabled. -/
theorem test_lane_controls_met :
    tOk tY 8 0 (.r (tR 6 2 4 640 24)) = true ∧ Nr.ctlValid 0x0000000103010231 true = true ∧ Nr.ctlValid 0x0000000303010231 true = false ∧
    Nr.ctlValid 0x0000000103010231 false = true ∧ Nr.ctlValid 0 false = false ∧
    ((tI (tRun (tBlk 0x0000000103010231 0)) 8 0 (.r (tR 6 2 4 640 24))).srcC (tL tY)).getD 0 0 = 0x0000000103010231 ∧
    (let x := tRun (tBlk 0x7F800000 0x1F)
     let i := tI x 4 1 (.r (tR 6 640 640 0 11))
     tOk x 4 1 (.r (tR 6 640 640 0 11)) = true ∧ trapEnabled i.fpctl (unionFlags i.mask (eachLane (Alu.perLane i.ty fun a b _ _ =>
       (Alu.fmtT i.ty).sub (Fl.modeOf i.rnd) a b) (i.srcA (tL x)) (i.srcB (tL x)) (i.srcC (tL x)) (i.srcD (tL x)))) = true) := by decide +kernel
/-- R69, R34: a word with TYPE 0 (cause 7), and a source that is empty, with its policy bit set and clear. -/
theorem test_lane_stops_met :
    laneIllegal (BitVec.ofNat 96 (1 * 2 ^ 88 + (tR 6 2 4 0 0).nat)) 640 0 = some 7 ∧
    (let f : Fill := { name := 2, hi := false, want := [0], got := [], keep := [0], engine := false, hand := false, phys := 0, memo := none, share := false }
     let x : Snd := { tY with fills := [(0, f)] }
     let g : LaneR := { tR 6 2 4 0 3 with fe := 8 }
     laneIllegal (BitVec.ofNat 96 (tI x 1 0 (.r g)).word) 640 0 = none ∧
     (tI x 1 0 (.r g)).empties.find? (fun e => e.2.2) = some (0, 2, true) ∧ (tI x 1 0 (.r (tR 6 2 4 0 3))).empties = [(0, 2, false)]) := by decide +kernel
/-- R156 to R162: flat accesses of the mapped page by every lane pass and find an entry; an unmapped one fails with 0x1B. -/
theorem test_lane_accesses_met :
    [(0x21, 0, LogKind.load, tF 6 640 0 0x40000 7), (0x21, 1, .store, tF 0 640 4 0x40000 7), (0x22, 0x20, .atomic, tF 6 640 4 0x40000 7),
     (0x22, 0x27, .atomic, tF 6 640 4 0x40000 8), (0x22, 0x27, .atomic, tF 6 640 4 0x40000 7), (0x22, 0x27, .atomic, tF 6 640 648 0x40000 7), (0x23, 0, .append, tF 6 640 4 0 7)].all (fun p =>
        let y := tRun { tBlk 0x10000 0 with mask := 3 }
        let i := tI y p.1 p.2.1 (.i p.2.2.2)
        let n := if p.2.2.1 = .append then 32 else tySize i.ty
        let q : Ask := { kind := p.2.2.1, size := n, rd := p.2.2.1 == .load || p.2.2.1 == .atomic, wr := p.2.2.1 != .load,
                         scope := if p.2.2.1 = .atomic then some (i.min / 16) else none, gst := p.2.2.1 == .store }
        let s := tL y
        tOk y p.1 p.2.1 (.i p.2.2.2) && i.mask != 0 && i.probed == none && !i.accessLanes.any (fun l => i.bankBusy s ((i.srcA s).getD l 0)) &&
        i.accessLanes.all (fun l => i.failCheck s q ((i.srcA s).getD l 0) == none) && i.room s false (i.memoKey s []) &&
        i.x.freeEntry == some 0 && i.loadKey s (i.srcA s) == none) = true := by decide +kernel
theorem test_lane_probe_failure_met :
    let x := tRun (tBlk 0 0)
    let i := tI x 0x21 0 (.i (tF 6 640 0 0x40000 7))
    let q : Ask := { kind := .load, size := 4, rd := true, wr := false, scope := none, gst := false }
    tOk x 0x21 0 (.i (tF 6 640 0 0x40000 7)) = true ∧ 0 ∈ i.lanes ∧ i.probed = none ∧
    i.lanes.any (fun l => i.bankBusy (tL x) ((i.srcA (tL x)).getD l 0)) = false ∧ i.failCheck (tL x) q ((i.srcA (tL x)).getD 0 0) = some 0x1B ∧
    (∀ m ∈ i.lanes, ¬ m < 0) := by decide +kernel
/-- R162: a store of lane 0 to the mapped page with all eight entries in use. -/
theorem test_lane_waits_for_entry_met :
    (let x := { tRun { tBlk 0x10000 0 with mask := 1 } with oplog := tFull }
     let i := tI x 0x21 1 (.i (tF 0 640 4 0x40000 7))
     let q : Ask := { kind := .store, size := 4, rd := false, wr := true, scope := none, gst := true }
     tOk x 0x21 1 (.i (tF 0 640 4 0x40000 7)) && i.probed == none && i.lanes.all (fun m => i.failCheck (tL x) q ((i.srcA (tL x)).getD m 0) == none) &&
     !i.lanes.any (fun l => i.bankBusy (tL x) ((i.srcA (tL x)).getD l 0)) && i.mask != 0 &&
     i.room (tL x) false (i.memoKey (tL x) []) && i.x.freeEntry == none) = true := by decide +kernel
/-- R162, R388: a waiting store whose page a shoot-down covers is held with cause 0x52. -/
theorem test_waiting_store_raced :
    (let e := { tEntry .store 1 (.mem false 0) false with todo := [{ lane := 0, va := 0x10000, loc := .mem false 0, data := 5, new := 0, sent := false }] }
     let r := e.raced (tS tX) 0 0x10000 4096
     (r.cause, r.todo.length, r.held.map (·.lane))) = (0x52, 0, [0]) := by decide +kernel
/-- R157, R160: a record for each check. -/
theorem test_lane_records_met :
    let i := tI tY 0x21 0 (.i (tF 6 2 0 0 7))
    let t := fun va : Nat => Machine.translate (tRec 0) 0 va true false
    i.amode = .rec_ 0 0 ∧ i.record (tL tY) 0 = none ∧ i.record (tRec (2 ^ 108)) 0 = some (2 ^ 108) ∧
    i.record (tRec (0x10000 + 4096 * 2 ^ 64)) 0 = some (0x10000 + 4096 * 2 ^ 64) ∧
    (0x10000 + 4096 * 2 ^ 64) / 2 ^ 108 = 0 ∧ (0x10000 + 4096 * 2 ^ 64) / 2 ^ 56 % 2 ^ 8 = 0 ∧ 2 ^ 56 ≤ 2 ^ 56 - 1 + 1 ∧
    (0x10000 + 4096 * 2 ^ 64) / 2 ^ 64 % 2 ^ 42 < 4093 + 4 ∧ 4092 + 4 ≤ (0x10000 + 4096 * 2 ^ 64) / 2 ^ 64 % 2 ^ 42 ∧
    (0x10000 + 1) % 4 ≠ 0 ∧ (∃ pa ∈ [poolBase 0 + 12288 + 4092], t 0x10FFC = .ok (.mem false pa)) ∧ (∃ d ∈ [32], t 0x11000 = .fail d) := by
  decide +kernel
/-- R77: in a block of two words at 0, offset 0 stays inside, 2 and −1 leave it; the predicate q0 holds in every lane. -/
theorem test_lane_branches_met :
    [(2, 658, 0), (2, 656, 2), (2, 656, 0xFFFF), (2, 656, 0x10001), (3, 0, 1)].all (fun p => tOk tY 0x38 p.1 (.i (tF 0 p.2.1 0 p.2.2 0))) = true ∧
    tOk tY 0x38 0 (.i (tF 0 0 0 0 0)) = true ∧ tOk tY 0x38 4 (.i (tF 0 0 0 0 0)) = true ∧ tOk tY 0x38 5 (.i (tF 0 0 0 5 0)) = true ∧
    tOk tY 0x38 1 (.i (tF 0 0 0 0 0)) = true ∧ tOk tY 0x21 2 (.i (tF 0 640 0 0x40000 0)) = true ∧
    (List.range 4).all (fun m => tOk tY 0x24 m (.r (tR 0 0 0 0 0))) = true ∧
    (tI tY 0x38 2 (.i (tF 0 656 0 0 0))).x.qreg 0 = BitVec.allOnes 96 ∧ (tI tY 0x38 2 (.i (tF 0 656 0 0 0))).mask = BitVec.allOnes 96 ∧
    (tI tY 0x38 5 (.i { tF 0 0 0 5 0 with g1 := 0x10 })).mask = 0 ∧ tY.slices.all (fun e => sliceBit (2 ^ 24 - 1) e.1) = true := by decide +kernel
/-- R80, R179: an issue of slice 0 alone, which leaves other slices running, and an earlier entry of it that is not settled. -/
theorem test_lane_partial_issue_met :
    (let s : State := { tL tY with cur := .lane 0 0 0 1 }
     let i := Issue.of s 0 0 0 1 tY (tBlk 0x10000 0) 0x38 0 (.i (tF 0 0 0 0 0))
     LaneAt s 0x38 0 (.i (tF 0 0 0 0 0)) i) ∧
    tY.slices.find 1 = some { pc := 0, done := false, atRegang := false, join := 0 } ∧ sliceBit 1 1 = false ∧
    (tEntry .store 1 (.window 2 0) false).settled true = false ∧ Alu.andN 1 (2 ^ 24 - 1) ≠ 0 := by
  refine ⟨⟨?_, ?_, ?_, rfl, ?_, ?_⟩, ?_, ?_, ?_, ?_⟩ <;> decide +kernel
/-- R84 to R90: finite pairs whose sum, difference and product are zero and are not, subnormal ones among them, infinities of both signs,
quiet and signalling NaN, in each format. -/
theorem test_float_values_met :
    [(Fl.f16, 0x3C00), (Fl.bf16, 0x3F80), (Fl.f32, 0x3F800000), (Fl.f64, 0x3FF0000000000000)].all (fun p : Fl.Fmt × Nat =>
      let f := p.1
      decide (f.Finite p.2) && decide (f.Finite 0) && decide (f.Finite 1) && decide (f.Finite (f.infCode - 1)) && decide (f.Finite (f.signBit + p.2)) &&
      f.value p.2 != 0 && f.value 1 != 0 && f.value 0 == 0 && f.value p.2 + f.value (f.signBit + p.2) == 0 && f.value 0 + f.value f.signBit == 0 &&
      f.value p.2 - f.value p.2 == 0 && f.value p.2 * f.value 1 != 0 && !f.sgn p.2 && f.sgn (f.signBit + p.2) &&
      decide (f.IsInf f.infCode) && decide (f.IsInf (f.signBit + f.infCode)) && decide (f.IsNan f.defNan) && !decide (f.Signals f.defNan) &&
      decide (f.IsNan (f.infCode + 1)) && decide (f.Signals (f.infCode + 1)) && f.w != 0) = true ∧ Fl.f16.w = Fl.bf16.w ∧ Fl.f16.w ≠ Fl.f32.w := by
  decide +kernel
/-- R87: with every exception enabled, an issue of each group whose results raise one: a comparison and a conversion of a signalling NaN,
an inexact one of an integer, a reduction, a dot product, a quantization of ∞ and a dequantization that overflows, an immediate form. -/
theorem test_lane_exceptions_met :
    (let t := fun (k maj min : Nat) (b : LaneBody) (rs : Issue → State → List (Nat × Nat)) =>
       let x := tRun (tBlk k 0x1F)
       let i := tI x maj min b
       tOk x maj min b && trapEnabled i.fpctl (unionFlags i.mask (rs i (tL x)))
     let bit := fun b : Bool => if b then 1 else 0
     let im := fun i : Issue => List.replicate 96 (immValue i)
     let rel := fun (bs : Issue → State → List Nat) (i : Issue) (s : State) => eachLane (fun a b _ _ =>
       (bit (Fl.f32.fcmp 2 (a % 2 ^ 32) (b % 2 ^ 32)).1, (Fl.f32.fcmp 2 (a % 2 ^ 32) (b % 2 ^ 32)).2)) (i.srcA s) (bs i s) (i.srcC s) (i.srcD s)
     let one := fun (e : Nat → Nat × Nat) (i : Issue) (s : State) =>
       eachLane (fun a _ _ _ => (Alu.extend i.ty (e a).1, (e a).2)) (i.srcA s) (i.srcB s) (i.srcC s) (i.srcD s)
     let red := fun (i : Issue) (s : State) => reduceOp (fun a b => Fl.f32.add .rn a b) 0 i (i.srcA s) (i.srcB s) (i.srcC s) (i.srcD s)
     t 0x7F800001 5 2 (.r (tR 3 640 640 0 11)) (rel fun i s => i.srcB s) && t 0x7F800001 0x15 2 (.i (tF 3 640 0 0 11)) (rel fun i _ => im i) &&
     t 0x7F800001 7 11 (.r (tR 6 640 0 0 9)) (one fun a => Fl.cvtFF Fl.f32 Fl.f16 .rn (a % 2 ^ 32)) &&
     t 0x1000001 7 3 (.r (tR 6 640 0 0 11)) (one fun a => Fl.cvtIF Fl.f32 .rn (Alu.toI true 32 a)) &&
     t 0x7F800001 7 11 (.r (tR 6 640 0 0 3)) (one fun a =>
       let q := Fl.cvtFI Fl.f32 .rn (Alu.iMin true 32) (Alu.iMax true 32) (a % 2 ^ 32)
       (Alu.wrap 32 q.1, q.2)) &&
     t 0x7F800001 0x0C 0 (.r (tR 6 640 656 0 11)) red &&
     t 0x7D017D01 0x0D 1 (.r (tR 6 640 640 2 0x14)) (fun i s => eachLane (fun a b c _ =>
       Fl.dp2 (Alu.fmtT i.ty) .rn (a % 2 ^ 16) (b % 2 ^ 16) (a / 2 ^ 16) (b / 2 ^ 16) c) (i.srcA s) (i.srcB s) (i.srcC s) (i.srcD s)) &&
     (let q := fun (a min : Nat) (f : LaneR) (rs : List (Nat × Nat)) =>
        let x := tRun { tBlk 0 0x1F with k := [0x0000000103010231, a].map (BitVec.ofNat 64) }
        tOk x 8 min (.r f) && (tI x 8 min (.r f)).srcA (tL x) == List.replicate 96 a && ((tI x 8 min (.r f)).srcC (tL x)).getD 0 0 == 0x0000000103010231 &&
          trapEnabled (tI x 8 min (.r f)).fpctl (unionFlags (tI x 8 min (.r f)).mask rs)
      q 0x7F800001 0 (tR 6 641 641 640 24) (Nr.qnt 0x0000000103010231 .rn (List.replicate 96 0x7F800001) (List.replicate 96 0x7F800001)) &&
      q 0x7F7F7F7F 1 (tR 6 641 641 640 24) (Nr.dqnt 0x0000000103010231 .rn (List.replicate 96 0x7F7F7F7F) (List.replicate 96 0x7F7F7F7F))) &&
     t 0x7F800001 0x14 0 (.i (tF 6 640 0 5 11)) (fun i s =>
       eachLane (Alu.perLane i.ty fun a b _ _ => Fl.f32.add .rn a b) (i.srcA s) (im i) (i.srcC s) (i.srcD s)) &&
     t 0x7F800001 6 0 (.r (tR 6 640 0 0 11)) (fun i s =>
       eachLane (Alu.perLane i.ty fun a _ _ _ => Fl.f32.rcp .rn a) (i.srcA s) (i.srcB s) (i.srcC s) (i.srcD s))) = true := by decide +kernel
/-- R184, R193: hwait of a handle that is not granted, whose second source is empty, and of a granted one; a copy under an empty mask. -/
theorem test_engine_refused_met :
    (let i := fun h : Nat => let x : Snd := { tK [h] with fills := [(0, { tFill [] with want := [0] })] }; tIn (tE x id) x 0x35 0 (.r (tR 0 640 2 0 0))
     [3, 4].all (fun h => laneIllegal (BitVec.ofNat 96 (i h).word) 640 0 == none && (i h).empties == [(1, 2, false)] && (i h).mask != 0 &&
       (i h).passed.isNone) && (i 3).granted (tE (i 3).x id) && !(i 4).granted (tE (i 4).x id)) = true := by decide +kernel
/-- R156, R158, R170, R174, R45: an address for each check of a flat access, of one through a record and of one of the scratchpad. -/
theorem test_lane_checks_met :
    (let c := fun (s : State) (maj min : Nat) (f : LaneI) (kind : LogKind) (sc : Option Nat) (av : Nat) =>
       let i := tIn s tY maj min (.i f)
       i.failCheck s { kind := kind, size := 4, rd := kind == .load || kind == .atomic, wr := kind != .load, scope := sc, gst := kind == .store } av
     let flat := tF 6 640 0 0x40000 7
     let down := tF 6 640 0 0x7FFFF 7
     let ro := tRec (0x10000 + 4096 * 2 ^ 64 + 2 ^ 106)
     let const := tRec (0x10000 + 4096 * 2 ^ 64 + 2 ^ 107)
     let through := tF 6 640 0 0 7
     let s := tL tY
     let e := tE tY id
     (tI tY 0x21 0 (.i down)).amode == .flat (-1) && (tI tY 0x21 0 (.i flat)).amode == .flat 0 && (tI tY 0x21 0 (.i through)).amode == .rec_ 0 0 &&
     (tI tY 0x21 0 (.i (tF 6 640 0 0x80000 7))).amode == .sp 0 && (tI tY 0x23 0 (.i (tF 6 640 0 0 7))).amode == .flat 0 &&
     (tI tY 0x20 0 (.i (tF 6 640 0 0xBFFFF 7))).amode == .sp 0xBFFFF && (tI tY 0x21 0 (.i (tF 6 640 0 0x3FFFF 7))).amode == .rec_ 4095 3 &&
     c s 0x21 0 down .load none 0 == some 0x10 && c s 0x21 0 flat .load none (2 ^ 56) == some 0x10 && c s 0x21 0 flat .load none 0x10001 == some 0x11 &&
     c s 0x21 0 flat .load none 0x20000 == some 0x13 && c s 0x22 0 flat .atomic (some 0) 0x28000 == some 0x1A &&
     c s 0x22 0x20 flat .atomic (some 2) 0x28000 == none && c s 0x21 0 flat .load none 0x11000 == some 0x1B && c s 0x21 1 flat .store none 0x10000 == none &&
     c ro 0x21 1 through .store none 0 == some 0x18 && c ro 0x21 0 through .load none 0 == none && c const 0x21 1 through .store none 0 == some 0x14 &&
     c const 0x21 1 flat .store none 0x10FFC == some 0x14 && c const 0x21 0 through .load none 0 == none && c const 0x21 0 through .load none 4096 == some 0x17 &&
     (e.ccOf 0 0).place == .bank 0 && bankMode e 0 0 0 == some 1 && bankMode e 0 0 1 == some 2 && bankMode e 0 0 3 == none &&
     c e 0x20 0 (tF 6 640 0 0 7) .load none 0x7FFC == none && c e 0x20 0 (tF 6 640 0 0 7) .load none 0x8000 == some 0x19 &&
     c e 0x20 0 (tF 6 640 0 0 7) .load none 0xC0000 == some 0x19 && c e 0x20 0 (tF 6 640 0 0 7) .load none 2 == some 0x11) = true := by decide +kernel
/-- R170, R326: a gst into an alias window of one rank of the launch passes. -/
theorem test_alias_use_met :
    (let w : AliasWin := { base := 0x20000, half := 4096, size := 4, kind := 1, root := 0 }
     let e := { placedEntry [] with win := some w, length := 64, rows := [{ pkg := 0, bar := 5, rank := 1, buddy := 0, dest := 0 }] }
     let s := ((tL tY).modCtx 0 (fun c => { c with colls := [(0, e)] })).modCC 0 0 (fun cc => { cc with barriers := [(5, tBar)] })
     let i := tIn s tY 0x21 1 (.i (tF 0 640 2 0x40000 7))
     let q : Ask := { kind := .store, size := 4, rd := false, wr := true, scope := none, gst := true }
     membersOf s 0 0 0 e == [0] && i.failCheck s q 0x2003C == none && i.failCheck s q 0x20040 == some 0x13 &&
     i.failCheck s { q with gst := false } 0x20000 == some 0x13) = true := by decide +kernel
/-- R155: an access under a guard that is false in every lane: its mask is empty. -/
theorem test_lane_empty_masks_met :
    ([(0x20, 0, tF 6 640 0 0 7), (0x20, 1, tF 0 640 4 0 7), (0x21, 0, tF 6 640 0 0x40000 7), (0x21, 1, tF 0 640 4 0x40000 7),
      (0x22, 0x20, tF 6 640 4 0x40000 7), (0x22, 0x27, tF 6 640 4 0x40000 7), (0x23, 0, tF 6 640 4 0 7)] : List (Nat × Nat × LaneI)).all (fun p =>
       let f := { p.2.2 with g1 := 0x10 }
       tOk tY p.1 p.2.1 (.i f) && (tI tY p.1 p.2.1 (.i f)).mask == 0) = true := by decide +kernel

/-! ## Engines -/

/-- R191, R192: a copy of a box and of an empty box pass and wait for nothing; the share holds no handle 4; its record lies
outside the scratchpad; a filling handle waits. -/
theorem test_copy_met :
    (let t := fun (ks : List Nat) (f : CtxCore → CtxCore) (d : Nat) =>
       let x := tK ks; let s := tE x f; let i := tIn s x 0x30 0 (.r (tR d 640 641 642 0))
       (tAt s x 0x30 0 (.r (tR d 640 641 642 0)), copyChecks s i.req (i.opA s) (i.opB s) (coords (i.opC s) (i.opD s)),
        copyWaits s i.req (i.opA s) (layoutAt s i.req (i.opB s)) (coords (i.opC s) (i.opD s)),
        (layoutAt s i.req (i.opB s)).isZero)
     t [3, 0, 0] id 0 = (true, none, false, false) ∧ t [3, 128, 0] id 0 = (true, none, false, true) ∧
     t [4, 0, 0] id 0 = (true, some (3, 0), false, false) ∧ (t [3, 2 ^ 15, 0] id 0).2.1 = some (0x19, 2 ^ 15) ∧
     t [3, 0, 0] (fun cc => { cc with handles := [(3, { state := 1, bytes := 0, err := 0 })] }) 0 = (true, none, true, false)) := by
  decide +kernel
/-- R310, R402, R307: the bank of the record is changing its mode; the core holds for a safe point; the record lies in a poisoned line. -/
theorem test_copy_held_met :
    ((let t := fun f : State → State =>
       let x := tK [3, 0, 0]; let s := f (tE x id); let i := tIn s x 0x30 0 (.r (tR 0 640 641 642 0))
       (tAt s x 0x30 0 (.r (tR 0 640 641 642 0)) && i.passed.isNone && (handleOf s 0 0 3).state == 0, i.copyBanks s, (s.coreOf 0).holding,
        padBad s 0 0 (i.opB s) 128, (copyChecks s i.req (i.opA s) (i.opB s) (coords (i.opC s) (i.opD s))).isNone)
     t id == (true, false, false, none, true) &&
     t (fun s => s.modCore 0 (fun c => { c with entries := [(0, { BankEntry.reset with mode := 1, owner := 1, busy := true })] })) ==
       (true, true, false, none, true) &&
     t (fun s => s.modCore 0 (fun c => { c with holding := true })) == (true, false, true, none, true) &&
     t (fun s => { s with poison := [spLine 0 0 64] }) == (true, false, false, some 64, true)) : Bool) = true := by
  decide +kernel
/-- R316: the value before a write, and the value after it. -/
theorem test_past_value :
    (let s := storeMem (tS tX) 0 100 0 [7]
     (s.heldAt 0 100 (s.readPA 100), s.heldAt s.writes 100 (s.readPA 100))) = (0, 7) := by decide +kernel
/-- R193: the next word is mldw of buffer 0 with that block; of a block of one word, no follow-on. -/
theorem test_copy_fo_met :
    (let x := tK [3, 0, 0, 0, 320]
     let s := (tE x id).writeBytes (placedLanePA + 12) (leBytes 12 (0x32 * 2 ^ 88 + (tR 0 643 644 0 0).nat))
     let i := tIn s x 0x30 0 (.r (tR 1 640 641 642 0))
     tAt s x 0x30 0 (.r (tR 1 640 641 642 0)) = true ∧ copyChecks s i.req (i.opA s) (i.opB s) (coords (i.opC s) (i.opD s)) = none ∧
     copyWaits s i.req (i.opA s) (layoutAt s i.req (i.opB s)) (coords (i.opC s) (i.opD s)) = false ∧
     (layoutAt s i.req (i.opB s)).isZero = false ∧ s.history.all (fun e => decide (e.place < spPlace 0 0 0)) = true ∧
     (match i.follow s with
      | .ok (k, r, w) => k == .mldw && (i.followEmpties r).isEmpty && !(k.readsPad && i.ahead) && !i.copyBanks s && i.passed.isNone &&
          !matBusy s i.core i.ctx (matCmd s i.req k (i.followOp s r.a.toNat) (i.followOp s r.b.toNat) 0 0 w (some 3))
            (some (i.followOp s r.b.toNat)) &&
          matChecks s i.ctx i.core k (i.followOp s r.a.toNat) (i.followOp s r.b.toNat) == none
      | .error _ => false) = true) ∧
    (let x := tRun { tBlk 0 0 with len := 1 }
     let s := tE x id
     tAt s x 0x30 0 (.r (tR 1 640 641 642 0)) = true ∧
     (match (tIn s x 0x30 0 (.r (tR 1 640 641 642 0))).follow s with | .ok _ => false | .error e => e == 0) = true) ∧
    (tI tY 0x30 0 (.r { tR 0 640 641 642 0 with g1 := 0x10 })).mask = 0 ∧ tOk tY 0x30 0 (.r { tR 0 640 641 642 0 with g1 := 0x10 }) = true := by decide +kernel
/-- R196: handle 3 full, handed and free; handle 4 is not the context's; 256 is no handle. -/
theorem test_handles_met :
    ((let t := fun (st : Nat) (ks : List Nat) (min : Nat) =>
       let x := tK ks; let s := tE x (fun cc => { cc with handles := [(3, { state := st, bytes := 64, err := 0 })] })
       let i := tIn s x 0x35 min (.r (tR (if min = 2 then 6 else 0) 640 (if min = 2 then 0 else 641) 0 (if min = 2 then 8 else 0)))
       (tAt s x 0x35 min (.r (tR (if min = 2 then 6 else 0) 640 (if min = 2 then 0 else 641) 0 (if min = 2 then 8 else 0))), i.opA s, i.opB s,
        (handleOf s i.ctx i.core (i.opA s)).state, (s.ccOf i.ctx i.core).share.handles.contains (i.opA s),
        !trapEnabled i.fpctl 0 && i.room s i.reusable (i.memoKey s []))
     t 2 [3, 4] 0 == (true, 3, 4, 2, true, true) && t 1 [3, 15] 0 == (true, 3, 15, 1, true, true) && t 2 [3, 1] 0 == (true, 3, 1, 2, true, true) &&
     t 2 [3, 0] 1 == (true, 3, 0, 2, true, true) && t 3 [3, 1] 1 == (true, 3, 1, 3, true, true) && t 3 [3, 0] 1 == (true, 3, 0, 3, true, true) &&
     t 2 [3] 2 == (true, 3, 0, 2, true, true) && t 2 [4] 2 == (true, 4, 0, 0, false, true) && t 2 [256] 2 == (true, 256, 0, 0, false, true)) : Bool) = true ∧
    unionFlags (BitVec.allOnes 96) (List.replicate 96 (5, 0)) = 0 := by decide +kernel
/-- R197 to R199: a configuration of a FIFO bank, of a bank in another mode, and of a buffer in use; a row free and none free. -/
theorem test_buffers_met :
    ((let t := fun (b : CBuf) (ks : List Nat) (min : Nat) (f : LaneR) =>
       let x := tK ks; let s := tE x (fun cc => { cc with cbufs := [(0, b)] })
       let i := tIn s x 0x31 min (.r f)
       let y := cbOf s i.ctx i.core (i.opA s)
       (tAt s x 0x31 min (.r f), cbConfigBad s i.ctx i.core (i.opA s) (i.opB s), cbBusy s i.ctx i.core (i.opA s),
        y.en && y.rowSize ≤ 384 && i.room s false [] && (if min = 0 then !i.cbsetBusy s else !i.cbBankBusy s), y.free == 0,
        producerTurn (s.ccOf 0 0) (i.opA s) (s.ccOf 0 0).nextCmd && y.rows.all (fun r => r.owner != (s.ccOf 0 0).nextCmd))
     let two := tR 0 640 641 0 0
     let r : Row := { bytes := [], present := true, owner := 9 }
     (let x := tK [0, 2 ^ 31 + 1]
      let s := (tE x id).modCore 0 (fun c => { c with entries := [(1, { BankEntry.reset with mode := 2, owner := 1, busy := true })] })
      !(tIn (tE x id) x 0x31 0 (.r two)).cbsetBusy (tE x id) && tAt s x 0x31 0 (.r two) && (tIn s x 0x31 0 (.r two)).cbsetBusy s) &&
     t CBuf.reset [0, 2 ^ 31 + 1] 0 two == (true, false, false, false, false, true) &&
     t CBuf.reset [0, 2 ^ 31] 0 two == (true, true, false, false, false, true) &&
     t (tBuf [r] 0) [0, 2 ^ 31 + 1] 0 two == (true, false, true, true, false, true) &&
     t (tBuf [r] 0) [0, 0] 1 (tR 0 640 641 0 7) == (true, false, true, true, false, true) &&
     t (tBuf [] 2048) [0, 0] 1 (tR 0 640 641 0 7) == (true, false, true, true, true, true) &&
     t (tBuf [] 0) [0, 0] 2 (tR 6 640 0 0 7) == (true, false, false, true, false, true) &&
     t (tBuf [] 0) [0, 0] 3 (tR 6 640 0 0 8) == (true, false, false, true, false, true)) : Bool) = true := by decide +kernel
/-- R200 to R206: each matrix command passes its checks, at its place too, and waits for nothing; a control word with SCOPE 3 and
a disabled buffer fail. -/
theorem test_matrix_met :
    ((let t := fun (cfg : Nat) (min : Nat) (k : MatKind) (a b ty : Nat) =>
       let x := tK [a, b]
       let s := tE x (fun cc => { cc with cbufs := [(0, { CBuf.reset with cfg := cfg })], active := planeOf (fmtOf (2 ^ 64 + 2 ^ 68)),
                                          sram := cc.sram ++ (List.range 127).map (fun n => (513 + n, BitVec.ofNat 8 (n + 1))) })
       let i := tIn s x 0x32 min (.r (tR 0 (if min = 1 then 0 else 640) (if min = 1 ∨ min = 3 ∨ min = 4 then 0 else 641) 0 ty))
       let m := matCmd s i.req k (i.opA s) (i.opB s) i.ty i.rnd i.word none
       (tAt s x 0x32 min (.r (tR 0 (if min = 1 then 0 else 640) (if min = 1 ∨ min = 3 ∨ min = 4 then 0 else 641) 0 ty)) && !(k.readsPad && i.ahead) &&
         !(s.coreOf 0).holding && !matBusy s 0 0 m (some (i.opB s)) && (s.ccOf 0 0).array.isEmpty && i.passed.isNone,
        matChecks s i.ctx i.core k (i.opA s) (i.opB s), matPlace (s.ccOf 0 0) m)
     let on := 2 ^ 31 + 15 * 2 ^ 8 + 1
     t on 0 .mldw 0 320 0 == (true, none, none) && t on 1 .mswap 0 0 0 == (true, none, none) &&
     t on 2 .mstream 0 320 0 == (true, none, none) && t on 3 .mdrain 0 0 11 == (true, none, none) &&
     t on 4 .mclear 0 0 0 == (true, none, none) && t on 5 .mperm 0 512 0 == (true, none, none) &&
     t on 4 .mclear (3 * 2 ^ 28) 0 0 == (true, some (0x21, 0), none) && t 0 3 .mdrain 0 0 11 == (true, none, some (0x25, 0))) : Bool) = true := by
  decide +kernel
/-- R208: a route of the record passes and waits for nothing; with reserved bits set it fails. -/
theorem test_route_met :
    ((let t := fun (ks : List Nat) =>
       let x := tK ks; let s := tE x id; let i := tIn s x 0x33 0 (.r (tR 0 640 641 0 0))
       (tAt s x 0x33 0 (.r (tR 0 640 641 0 0)) && i.passed.isNone && !i.routeBanks s && !(s.coreOf 0).holding &&
          (padBad s 0 0 (i.opB s) 64).isNone && (padBad s 0 0 (routeRecs s i.req (i.opB s)).1.srec 128).isNone, routeChecks s i.req (i.opA s) (i.opB s), routeWaits s i.req (i.opA s) (routeRecs s i.req (i.opB s)).2)
     t [3, 256] == (true, none, false) && (t [3 + 2 ^ 8, 256]).1 && (t [3 + 2 ^ 8, 256]).2.1 == some (0x21, 0)) : Bool) = true := by decide +kernel
/-- R209, R323: member 0 of entry 0 is rank 1 at barrier 5, held by the sounder, and may start; entry 1 does not exist. -/
theorem test_cstart_met :
    ((let t := fun (ks : List Nat) =>
       let x := tK ks
       let en : CollEntry := { placedEntry [] with rows := [{ pkg := 0, bar := 5, rank := 1, buddy := 0, dest := 0 }] }
       let s := (tE x (fun cc => { cc with barriers := [(5, tBar)] })).modCtx 0 (fun c => { c with colls := [(0, en)] })
       let i := tIn s x 0x34 0 (.r (tR 0 640 641 642 0))
       (tAt s x 0x34 0 (.r (tR 0 640 641 642 0)) && !(s.coreOf 0).holding && i.passed.isNone, cstartChecks i s,
        ((s.entry? 0 (i.opB s)).bind (fun e => (startMember i s e).map (fun m => (m, (e.part m).started, (e.part m).owed.isEmpty)))))
     t [5, 0, 0x10000] == (true, none, some (0, false, true)) && t [5, 1, 0] == (true, some (0x30, 0), none)) : Bool) = true := by decide +kernel

/-! ## Port engines -/

/-- R240, R247 to R250: a thread of an entry; a queued packet of an accepted kind and none; a packet whose member has its bit and one
that has not, fresh and to be held; a member of the entry, started and not. -/
theorem test_mcf_packets_met :
    tPok (placedEntry [0]) tT = true ∧ tPok tOn tT = true ∧ tPok tOn { tT with rq := [tPkt 2] } = true ∧
    takeKind 4 ({ tT with rq := [tPkt 2] } : Thread).inTime = some (tPkt 2, []) ∧ takeKind 1 ({ tT with rq := [tPkt 2] } : Thread).inTime = none ∧
    tPok tOn (tHold true Chunk.reset) = true ∧ tPok tOn (tHold false { Chunk.reset with bits := 1 }) = true ∧
    ((tHold true Chunk.reset).chunk tOn 0 0).bits.getLsbD 0 = false ∧ ((tHold true Chunk.reset).chunk tOn 0 0).absent.getLsbD 0 = false ∧
    ((tHold false { Chunk.reset with bits := 1 }).chunk tOn 0 0).bits.getLsbD 0 = true ∧ ((tHold true Chunk.reset).chunk tOn 0 0).hold.length < Config.holdDepth + 3 ∧
    tOn.rows.length ≤ (tT.reg 1).toNat ∧ (tT.reg 0).toNat < tOn.rows.length ∧ (tOn.row 0).pkg = (tP tOn tT).plat.pkgid ∧
    tOn.isAbsent 0 = false ∧ tOn.partAt 0 tT.inst = some (tOn.part 0) ∧ (placedEntry [0]).partAt 0 tT.inst = none ∧
    ({ tOn with absent := 1 } : CollEntry).isAbsent 0 = true := by
  decide +kernel
/-- R252 to R254: the member's chunk can be read; chunk 1 does not exist; a chunk done and one not; a fresh packet to combine. -/
theorem test_mcf_combining_met :
    (tT.reg 0).toNat < tOn.chunks ∧ tOn.excluded 0 0 = false ∧ startedIn tOn tT 0 = true ∧ (tT.chunk tOn 0 0).bits.getLsbD 0 = false ∧
    (match readSource (tP tOn tT) 0 0 0 tOn tT 0 0 with | .data bs => bs.length == 16 | _ => false) = true ∧
    tOn.chunks ≤ (tT.reg 1).toNat ∧ (tT.chunk tOn 0 0).done = false ∧
    tPok tOn (tHold true { Chunk.reset with done := true }) = true ∧ ((tHold true { Chunk.reset with done := true }).chunk tOn 0 0).done = true ∧
    (let t := tHold true Chunk.reset
     startedIn tOn t 0 = true ∧ (match readSource (tP tOn t) 0 0 0 tOn t 0 0 with | .data bs => bs.length == 16 | _ => false) = true) := by decide +kernel
/-- R255 to R257, R247: an entry with hop 0, a chunk done, writes that land, a member that has not arrived, and an instance whose
members have. -/
theorem test_mcf_delivery_met :
    (let e := { tOn with hops := [(0, (0, 0))] }
     let t := { tHold true { Chunk.reset with done := true, acc := [0, 0, 0, 0] } with x := [(1, 1)] }
     let write := fun (off : Nat) (bs : List Byte) => dlvWrite (tP e t) 0 0 0 (.thread 0 0 0 0 t.inst) (0x10100 + off) bs
     tPok e t = true ∧ (List.range 16).all (fun h => !(1 : Nat).testBit h || (e.hops.find h).isSome) = true ∧
     (match write 0 (e.narrow (t.chunk e 0 0).acc), write 0 (tPkt 0).payload with | (.done _, _), (.done _, _) => true | _, _ => false) = true ∧
     (let far := fun d : Nat => (dlvWrite (tP e t) 0 0 0 (.thread 0 0 0 0 t.inst) d (tPkt 0).payload).1
      match far 0x28000, far (2 ^ 56) with | .remote _, .bad k _ => k == 0x10 | _, _ => false) = true ∧
     t.again.any (fun g => decide ((tP e t).cycle < g.2)) = false ∧ startedIn e t 0 = true ∧ t.unacked.getOr 0 (ackKey t 0) = 0 ∧
     t.arrived.contains 0 = false ∧ laterInst t.inst (e.part 0).inst = false ∧ ctlScope (e.part 0).ctl ≠ 2 ∧
     (membersOn e (tP e t).plat.pkgid).all (arrivedIn e t) = false ∧ t.rq = []) ∧
    tPok tOn { tT with arrived := [0] } = true ∧ (membersOn tOn (tP tOn tT).plat.pkgid).all (arrivedIn tOn { tT with arrived := [0] }) = true := by
  decide +kernel

/-! ## Events -/

/-- R33, R161, R163: a fill whose value has come; accesses to the mapped page that nothing holds back; a fault that is held. -/
theorem test_access_events_met :
    (tFill [(0, 7)]).got.sorted = true ∧ (tS { tX with fills := [(0, tFill [(0, 7)])] }).snd? 0 0 0 = some { tX with fills := [(0, tFill [(0, 7)])] } ∧
    (tFill []).hi = false ∧ (tFill []).want = [] ∧ (tFill []).memo = none ∧ (tFill []).share = false ∧
    [LogKind.load, .store, .atomic].all (fun k =>
      let e := { tEntry k 1 (.mem false (poolBase 0 + 12288)) false with minor := 0x10 }
      let x := tLog e
      x.wait == .ready && !(coreSplit (tM x) 0) && (e.todo.all (·.got.isNone)) && x.oplog.find 0 == some e && (e.todo.find? (fun a => !a.sent)).isSome && (x.dueLane e).isSome && !revoked (tM x) 0 &&
      !(racing (tM x) 0 0x10000) && !((tM x).poisoned (poolBase 0 + 12288)) && !((tM x).lags 0 (poolBase 0 + 12288) 4) && (tM x).snd? 0 0 0 == some x &&
      !((tM x).poison.contains ((poolBase 0 + 12288) / 64))) = true ∧
    (let e := tEntry .load 1 (.sp 0) true
     let x := tLog e
     e.held ≠ [] ∧ e.told = false ∧ x.handler = false ∧ x.parked = false ∧ x.suspended = none ∧ x.midSend = false ∧
     x.oplog.all (fun o => o.2.again.isEmpty) = true) := by decide +kernel
/-- R325, R326: an alias store of a chunk that was ready is accepted, the sounder untouched. -/
theorem test_alias_accept_met :
    (let e := { tEntry .aliasStore 1 (.aliasWin 0 0) false with todo := [{ lane := 0, va := 0x20000, loc := .aliasWin 0 0, data := 7, new := 0, sent := true }] }
     let x := tLog e
     let s := (tS x).modCtx 0 (fun c => { c with colls := [(0, tWin)] })
     let r := aliasAccept s 0 0 0 0 (toBytes 4 7) x 0 1
     (e.todo.find? (fun a => a.lane == 0 && a.sent)).isSome = true ∧ s.snd? 0 0 0 = some x ∧ s.entry? 0 0 = some tWin ∧ r.2 = true ∧
     r.1.snd? 0 0 0 = some x) := by decide +kernel
/-- R161, R399, R225: what waits for an answer: a scalar load, a placement, a message to package 1. -/
theorem test_pending_met :
    (OutMsg.load 1 0 8 (.scalar 0 0 0)).origin? = some (.scalar 0 0 0) ∧ (tPend (.load 1 0 8 (.scalar 0 0 0)) (some 0)).backoff = some 0 ∧
    0 ≤ (tS tX).cycle ∧ racing (tS tX) 0 0 = false ∧ (1 : Nat) ≠ (tS tX).plat.pkgid ∧ ({ tX with wait := .load 3 0 1 0 } : Snd).wait = .load 3 0 1 0 ∧
    ({ tX with wait := .mbsend 3 } : Snd).wait = .mbsend 3 ∧
    ({ tS tX with pend := [(0, tPend (.mail 1 0 0 3 0 [] (.mail 0 0 0) { pdc := 0, n := 0 }) none)] } : State).pend.find 0 = some (tPend (.mail 1 0 0 3 0 [] (.mail 0 0 0) { pdc := 0, n := 0 }) none) := by
  decide +kernel
/-- R48: with no register left the younger sounder is parked; with the pool free the parked one resumes. -/
theorem test_park_met :
    (let l := (tPark 0).ccOf 0 0 |>.sounders.filter (fun e => !e.2.parked)
     (l.filter (fun e => !e.2.cores && e.2.age != l.foldl (fun m e => min m e.2.age) (2 ^ 64))).find?
       (fun e => e.2.age == (l.filter (fun e => !e.2.cores && e.2.age != l.foldl (fun m e => min m e.2.age) (2 ^ 64))).foldl
         (fun m e => max m e.2.age) 0) = some (0, tParkX) ∧ Issue.poolRoom (tPark 0) 0 0 1 = false ∧ tParkX.fills = [] ∧
     (waitedRegs (tPark 0) 0 0).contains 1 = true) ∧
    (let y := { tX with parked := true }
     let l := (tTwo tX y 640).ccOf 0 0 |>.sounders.filter (fun e => e.2.parked)
     l.find? (fun e => e.2.age == l.foldl (fun m e => min m e.2.age) (2 ^ 64)) = some (1, y) ∧ (residentBank (tTwo tX y 640) 0 0).isSome = true ∧
     Issue.poolRoom (tTwo tX y 640) 0 0 y.n = true) := by
  decide +kernel
/-- R216, R217, R220, R127, R249: slices at their regang, a queued block, a match whose time is over, a barrier phase that has passed,
an eligible event, a timer, and snd.end in deterministic mode waiting for its turn. -/
theorem test_waits_met :
    (let x : Snd := { tY with slices := tY.slices.map (fun e : Nat × Slice => (e.1, { e.2 with atRegang := true })) }
     x.running = true ∧ x.slices.all (fun e => e.2.done || e.2.atRegang) = true ∧ x.slices.any (fun e => !e.2.done) = true) ∧
    ({ tX with queue := [placedBlock] } : Snd).running = false ∧
    (let e := placedEntry [0x0590001300000004]
     let t := { Thread.reset with matchEnd := some 0 }
     tPok e t = true ∧ e.prog.getD t.pc 0 / 2 ^ 56 = 5 ∧ 0 ≤ (tP e t).cycle ∧
     takeKind (BitVec.ofNat 5 (e.prog.getD t.pc 0 / 2 ^ 32)) t.inTime = none) ∧
    mayWake (tB tX) 0 0 tX = true ∧ phasePassed (barrierOf (wake (tB tX) 0 0) 0 (refCore 5) (refNumber 5)) 6 = true ∧
    (let x : Snd := { tX with wait := .waitany 3, pending := 4, armed := 4 }
     x.eligible = some 2 ∧ mayWake (tS x) 0 0 x = true) ∧
    ({ tX with armed := 4, timers := [(2, 0)] } : Snd).timers.find 2 = some 0 ∧ (4 : BitVec 8).getLsbD 2 = true ∧
    [(0x26, 0, Instr.sJoin 0 0), (0x26, 1, .sLeave 0), (0x26, 2, .sBarArrive 0 0 0), (0x26, 4, .sBarSync 0 0),
        (0x27, 1, .sMbsend 0 0 0), (0x29, 1, .sSndend)].contains (0xA4000001 / 2 ^ 26, 0xA4000001 % 2 ^ 8, .sSndend) = true ∧
    (let x : Snd := { tX with wait := .det 0xA4000001 }
     mayWake (tS x) 0 0 x = true) ∧
    (let s := (tS tX).modCore 0 (fun k => { k with scalPort := [] })
     quadSounders s 0 0 = (0, [(0, tX)]) ∧ tX.mayIssue = true ∧ (s.coreOf 0).scalPort.find 0 = none) := by decide +kernel
/-- R196: hwait of a full handle at the pc of the whole join set. -/
theorem test_hwait_return_met :
    (let x := tK [3, 4]
     let f := tR 0 640 641 0 0
     let s := (tE x (fun cc => { cc with handles := [(3, { state := 2, bytes := 64, err := 0 })] })).writeBytes placedLanePA (leBytes 12 (0x3500 * 2 ^ 80 + f.nat))
     let sl := 2 ^ 24 - 1
     let i := tIn s x 0x35 0 (.r f)
     x.running = true ∧ mayWake s 0 0 x = true ∧ laneWordAt s 0 x (x.slices.getOr Slice.reset (lowSlice sl)).pc / 2 ^ 80 = 0x3500 ∧
     laneRof (laneWordAt s 0 x (x.slices.getOr Slice.reset (lowSlice sl)).pc) = f ∧
     (List.range 24).all (fun i => !sliceBit sl i || ((x.slices.getOr Slice.reset i).pc == (x.slices.getOr Slice.reset (lowSlice sl)).pc
        && !(x.slices.getOr Slice.reset i).done)) = true ∧
     tAt s x 0x35 0 (.r f) = true ∧ i.opA s = 3 ∧ i.opB s = 4 ∧ (4 : Nat).testBit (handleOf s 0 0 3).state = true) := by decide +kernel
/-- R317, litmus test 5: an engine's write on core 0 without REL may be unseen by core 1, and is seen by core 0; with REL at SCOPE 1, or
once its launch has completed, every core sees it. -/
theorem test_engine_write_unseen :
    (let t := (State.reset.writeBytes 64 [1]).veil 0 false 0 5
     t.lags 1 64 1 = true ∧ t.lags 0 64 1 = false ∧ t.bytesBefore 1 64 1 = [0] ∧ t.readN 64 1 = 1 ∧ (t.unveil 5).lags 1 64 1 = false ∧
     (t.unveil 4).lags 1 64 1 = true ∧ (t.sees 1 64 1).lags 1 64 1 = false) ∧
    ctlWide (2 ^ 30 + 2 ^ 28) = true ∧ ctlWide (2 ^ 30) = false ∧ ctlWide (2 ^ 28) = false := by decide +kernel
/-- R185, R192, R198, R208: an array whose first command has fired and one whose has not; a copy that is over, one not fired, and one
whose source page is not mapped; a route that is over and one not fired. -/
theorem test_engine_events_met :
    arrayHead ((tS tX).modCC 0 0 (fun cc => { cc with array := [tMat true] })) 0 0 = some (tMat true) ∧
    (match copyStep (tS tX) 0 0 (tCopy 0) with | .bad _ _ _ => true | _ => false) = true ∧
    (let m : MatCmd := { tMat true with kind := .mldw, fb := fmtOf (512 * 2 ^ 96) }
     (tMat true).scales.2 = 0 ∧ badScale (tS tX) 0 0 (tMat true) = none ∧ m.scales.2 ≠ 0 ∧ badScale (tS tX) 0 0 m = none ∧
     badScale { tS tX with poison := [spLine 0 0 512] } 0 0 m = some 512) ∧
    (tCopy 4).unacked = 0 ∧ (tCopy 4).follow = none ∧ (tCopy 4).fills = [] ∧ (tRoute 1 4).unacked = 0 ∧
    (tCopy 4).lay.total ≤ (tCopy 4).next ∧ (tCopy 4).lay.dkind < 2 ∧ (tCopy 4).lay.skind < 2 ∧ ctxLive (tS tX) 0 = true ∧
    ([tCopy 4].find? (fun e => e.id == 0)) = some (tCopy 4) ∧ (tRoute 1 4).score.e 1 ≤ (tRoute 1 4).next ∧ (tRoute 1 4).score.e 0 ≤ (tRoute 1 4).wrote ∧
    (let y := { tCopy 0 with fired := false }
     [y].find? (fun e => !e.fired) = some y ∧ y.inBuf = none ∧ y.outBuf = none ∧ acqMet (tS tX) 0 0 y.snd y.slices y.after (ctlScope y.ctl == 2) = true) ∧
    ([tMat false].find? (fun e => !e.fired) = some (tMat false) ∧ (tMat false).inBuf = none ∧ (tMat false).outBuf = none ∧ isActive (tS tX) 0 0 = true ∧
     acqMet (tS tX) 0 0 (tMat false).snd (tMat false).slices (tMat false).after (ctlScope (tMat false).ctl == 2) = true) := by decide +kernel
/-- R365, R371: a queue whose head packet has bad bits, one whose packet is a barrier, and one of a halted context's. -/
theorem test_intake_met : tIntakeOk 0 false = true ∧ tIntakeOk 3 false = true ∧ tIntakeOk 0 true = true := by decide +kernel
/-- R280, R281, R299, R301, R369: a failed node, a barrier and a launch with too many sounders; a sounder to be admitted, and a launch;
an armed record queue with one record ready of two; a launch that is over. -/
theorem test_graph_met :
    (pktKind 3 = 3 ∧ pktKind (1 + 2 ^ 24 * 2 ^ 128) = 1 ∧ pktCntmem (1 + 2 ^ 24 * 2 ^ 128) = false ∧ 16777215 < pktZsrc (1 + 2 ^ 24 * 2 ^ 128)) ∧
    (let s : State := { tS tX with nodes := [(0, tNode true 3)] }
     s.nodes.filter (fun e => e.2.die == 0 && e.2.preds.isEmpty && e.2.st == .waiting) = [(0, tNode true 3)]) ∧
    (let s := (tS tX).modCC 0 0 (fun cc => { cc with share := { tShare with regs := 2000 }, waiting := [(0, 1)] })
     admissible s 0 0 = true ∧ (residentBank s 0 0).isSome = true ∧ freeSlot (s.ccOf 0 0) = some 1 ∧ s.launch? 0 = some placedLaunch ∧
     s.image? 0 placedLaunch.image = some placedImage) ∧
    (let ln := { placedLaunch with admitted := false, cores := true }
     let s := (tS tX).modCC 0 0 (fun cc => { cc with share := { tShare with regs := 2000 }, sounders := [], waiting := [(0, 0)] })
     ((List.range ln.ccount).map (· + ln.cbase)).all (wholeFits s ln 0) = true) ∧
    (let s := (tM tX).writeBytes (poolBase 0 + 12288) (leBytes 128 (2 * 2 ^ 224 + 2 ^ 240 + 2 ^ 208 + 16 * 2 ^ 192 + 0x10040 * 2 ^ 128 + 2 ^ 256 + 2 ^ 512))
     (readRqHdr s 0 0x10000).map (fun h => (h.tile, rqReady s 0 h 1 0, rqReady s 0 h h.tile 0, h.flush)) = some (2, 1, 1, 1)) ∧
    launchOver ((tS tX).modCC 0 0 (fun cc => { cc with sounders := [] })) 0 { placedLaunch with left := 0 } = true := by decide +kernel
/-- R401, R402: a slice that has run out, with the shadow bank empty and with a ready context in it; a safe point. -/
theorem test_slices_met :
    (let x := (tS tX).coreOf 0
     x.holding = false ∧ x.failed = false ∧ x.sliceEnd ≤ (tS tX).cycle ∧ shadowCtx x = none) ∧
    (let s := tC (fun c => { c with bank1 := some 1 })
     shadowCtx (s.coreOf 0) = some 1 ∧ readyToRun s 1 0 = true ∧ (s.coreOf 0).sliceEnd ≤ s.cycle ∧ (s.coreOf 0).failed = false ∧
     fillsDone (s.ccOf 1 0) = true ∧ canReturn s 1 0 = true ∧ (s.coreOf 0).holding = false ∧ nextTurn s 0 = none ∧
     (let u : State := { s with ctxs := s.ctxs.put 2 (placedCtx []), cc := s.cc.put 1024 { CtxCore.reset with share := tShare, sounders := [(0, tX)] } }
      shadowCtx (u.coreOf 0) = some 1 ∧ (u.coreOf 0).holding = false ∧ nextTurn u 0 = some 2 ∧ canReturn u 1 0 = true ∧
      fillsDone (u.ccOf 1 0) = true)) ∧
    (let s := tC (fun c => { c with bank1 := some 1, holding := true })
     (s.coreOf 0).holding = true ∧ activeCtx (s.coreOf 0) = some 0 ∧ shadowCtx (s.coreOf 0) = some 1 ∧ atSafePoint s 0 0 = true ∧
     (s.coreOf 0).moveTo = none) ∧
    (let s := tC id
     shadowCtx (s.coreOf 0) = none ∧ ctxLive s 1 = true ∧ (s.ccOf 1 0).share.regs ≠ 0 ∧ residentBank s 1 0 = none ∧ banksFree s 1 0 = true ∧
     (activeCtx (s.coreOf 0)).isSome = true ∧ (nextTurn s 0).getD 1 = 1 ∧ fitsBeside s 1 0 = true) := by decide +kernel
/-- R309 to R311, R388, R403, R422: banks, an idle core, spare cores, a shoot-down, a record sent up. -/
theorem test_core_events_met :
    heldByCB (tS tX) 0 5 = false ∧ ((tS tX).coreOf 0).entries.getOr BankEntry.reset 5 = BankEntry.reset ∧ ¬ ((2 : Nat) = 3 ∨ (1 : Nat) = 3) ∧
    bankDrained ((tS tX).modCore 0 (fun c => { c with entries := [(5, { BankEntry.reset with busy := true, next := some (2, 1) })] })) 0 5 = true ∧
    movable (tS tX) 7 0 = true ∧ movable (tS { tY with fills := [(0, { tFill [] with want := [0] })] }) 0 0 = false ∧ (tS tX).plat.spares.getOr [] (dieOf 0) ≠ [] ∧ (5 : Nat) < 24 ∧
    (let s := ((tS tX).modCore 0 (fun c => { c with entries := [(5, { BankEntry.reset with mode := 2, owner := 1 })] })).modCC 0 0
       (fun cc => { cc with cbufs := [(0, { CBuf.reset with cfg := 2 ^ 31 + 5 })] })
     heldByCB s 0 5 = true ∧ heldByCB s 0 6 = false) ∧
    ((tS tX).coreOf 7).bank0 = none ∧ ((tS tX).coreOf 7).bank1 = none ∧ ((tS tX).coreOf 7).failed = false ∧
    ((tS tX).plat.spares.getOr [] (dieOf 7)).any ((tS tX).plat.spares.getOr [] (dieOf 7)).contains = true ∧
    (({ tS tX with plat := { (tS tX).plat with spares := [] } } : State).plat.spares.getOr [] (dieOf 7)).isEmpty = true ∧
    shootPending (tS tX) 0 { ctx := 0, va := 0x10000, size := 4096, frames := [], reply := (0, 0, 0) } = false ∧
    recType (2 ^ 1088 + 0x1C) = 1 ∧ recCause (2 ^ 1088 + 0x1C) ≠ 0x1B := by decide +kernel
/-- R318, R375 to R377, R224: the table admits package 1 to queue 0 with permits left and with none, and no one else; a packet to
send under a permit and without one. -/
theorem test_inbound_met :
    (let y := { tQueue 0 with peerin := true }
     let s := tIn1 y []
     (1 : Nat) ≠ s.plat.pkgid ∧ (s.port 0).up = true ∧ portBusy s 0 = false ∧ (s.port 0).session = none ∧
     (launchAdmitted s 1 2 0).map (·.maxperm) = some 2 ∧ permitsFrom s 1 2 0 = 0 ∧ permitsOf s 0 + (y.tail - y.head) < 2 ^ y.cap ∧
     permitsFrom (tIn1 y [tPermit, tPermit]) 1 2 0 = 2 ∧ launchAdmitted s 1 3 0 = none ∧ aclFor s 1 3 = none ∧
     (aclFor s 1 2).map (fun a => (a.win, a.dstctx)) = some (true, 0) ∧ ctxLive s 0 = true ∧ admits s 1 2 0 (·.mbox) = true ∧
     admits s 1 3 0 (·.mbox) = false ∧ determRunning s 0 = false ∧ revoked s 0 = false ∧ revoked (tRev s) 0 = true ∧
     authentic s { port := 0, epoch := 0, tag := false } = true ∧
     (let u := tIn1 y [tPermit]
      u.granted.any (fun p => p.is 1 2 0 && p.id == 4 && decide (u.cycle ≤ p.expiry)) = true ∧
      u.granted.any (fun p => p.is 1 2 0 && p.id == 5 && decide (u.cycle ≤ p.expiry)) = false) ∧
     (let u : State := { s with acl := s.acl.map (fun a => (a.1, { a.2 with win := false })) }
      (aclFor u 1 2).map (·.win) = some false)) ∧
    (let x := { tQueue 1 with peerout := true }
     let s := tIn1 x []
     s.queues.find 0 = some x ∧ ctxLive s 0 = true ∧ x.peerout = true ∧ x.en = true ∧ x.head ≠ x.tail ∧ x.asked = false ∧ (s.ctx? 0).map (·.permits) = some [] ∧ headPacket s x = 0 ∧
     [({ tPermit with pkg := 0, ctx := 0 } : Permit)].any (fun p => p.is (pktDstPkg 0) x.ctx (pktDstQ 0)) = true) := by decide +kernel
/-- R242, R257, R379, R415: a message over port 0 that may be sent again; a session; a packet of this package's, in and out of range;
a takeover request with its contribution kept and without. -/
theorem test_link_met :
    (let s := tIn1 (tQueue 0) []
     let p := tPend (.load 1 0 8 (.scalar 0 0 0)) none
     p.backoff = none ∧ p.status = none ∧ p.msg.pkg ≠ s.plat.pkgid ∧ p.port = some 0 ∧ s.upPorts 2 = [] ∧
     p.retries < bits ({ Port.reset with up := true } : Port).cfg 39 36 ∧ s.plat.pkgid ≠ 1 ∧ (s.port 0).dead = false ∧
     (s.port 0).spareUsed = false ∧ ({ Port.reset with spareUsed := true } : Port).spareUsed = true ∧
     (let u := s.modPort 0 (fun q => { q with session := some 1, moving := true })
      portBusy u 0 = true ∧ authentic u { port := 0, epoch := 0, tag := true } = true ∧ authentic u { port := 0, epoch := 0, tag := false } = false ∧
      authentic u { port := 0, epoch := 1, tag := true } = false) ∧
     s.upPorts 1 = [0] ∧ (tPend (.load 1 0 8 (.scalar 0 0 0)) none).retries ≤ bits (s.port 0).cfg 39 36 ∧
     (tPend (.load 1 0 8 (.scalar 0 0 0)) none).sentAt + rtoCycles s 0 ≤ s.cycle ∧
     bits Port.reset.cfg 39 36 = 8 ∧ bits (s.port 0).cfg 39 36 = 0 ∧ bits (s.port 0).cfg 0 0 = 1) ∧
    ({ Port.reset with session := some 1, rekeying := true } : Port).session = some 1 ∧
    (let e := placedEntry [0]
     let s := tP e Thread.reset
     let p := tPkt 2
     p.srcpkg = s.plat.pkgid ∧ inEnclave s 0 = false ∧ s.entry? 0 0 = some e ∧ p.member < e.S ∧ p.chunk < e.chunks ∧ p.kind < 5 ∧
     e.chunks ≤ ({ p with chunk := 1 } : Packet).chunk ∧ s.thread? 0 0 0 = some Thread.reset ∧ p.inst = Thread.reset.inst ∧
     Thread.reset.rq.length ≤ Config.receiveDepth ∧ Thread.reset.matchEnd = none ∧ Thread.reset.cut = none) ∧
    [((0 : Nat), (0 : Nat), (0 : Nat), ([] : List Byte))].find? (fun b => b.1 == 0 && b.2.1 == 0 && b.2.2.1 == 0) = some (0, 0, 0, []) := by decide +kernel
/-- R363, R364, R380, R411: requests about contexts: a key slot that is active, a free context number, frames, an image in host memory,
a descriptor and a share; the context of partition 0. -/
theorem test_context_requests_met :
    (let s : State := tReq { tHost with slots := [(1, { KeySlot.reset with domain := 7, state := 1 })] } 0 [0x01, 0x02, 0x03, 0x04, 0x05]
     (s.rings.getOr Ring.reset 0).taken.map reqCode = [1, 2, 3, 4, 5] ∧ (keySlot s 1).state = 1 ∧ (keySlot s 1).domain = 7 ∧ s.ctxs.find 1 = none ∧
     (ctxFrames (s.took 0 0) 0).map (fun f => (mapArea f.2.2.2.2 0 f.1 0x100000 4096).isSome) = some true ∧
     shareHolds (s.took 0 4) 0 9 tShare = true ∧ (openSegment (s.took 0 4) 0 9).isSome = true ∧
     (s.queues.find 5).isNone = true ∧ (s.ctx? 0).map (·.die) = some 0 ∧
     (match loadImage (s.took 0 2) 0 0x1000 0x40000 [] with | .ok _ h => h == 1 | _ => false) = true ∧
     queueBad s (4 * 2 ^ 27) = false ∧ nbitsOf (4 * 2 ^ 27) 47 36 = 0 ∧ shareOk tShare = true ∧ residentBank s 0 9 = none ∧ dieOf 9 = 0 ∧
     s.ctx? 2 = none ∧ (s.rings.getOr Ring.reset 0).isOpen = true) ∧
    ({ tM tX with plat := { (tM tX).plat with ready := true } } : State).plat.ready = true ∧
    ((tM tX).modCtx 0 (fun c => { c with die := 1 })).ctx? 0 ≠ none := by decide +kernel
/-- R386 to R390, R393, R394, R426: translation requests whose pages, ranges and fields keep the rules. -/
theorem test_translation_requests_met :
    (let map := 6 + 0x30000 * 2 ^ 128 + 4096 * 2 ^ 192 + 2 ^ 272 + 2 ^ 274
     let resv := 6 + 3 * 2 ^ 64 + 0x30000 * 2 ^ 128 + 4096 * 2 ^ 192 + 2 ^ 272
     let s := tReq (tPages false) 0 [map]
     let used := [(191, 128), (255, 192), (263, 256), (271, 264), (274, 272), (287, 280)]
     reqCode map = 6 ∧ rqOp map = 0 ∧ rqRest map used = true ∧ rangeOk (rqVA map) (rqSize map) 4096 = true ∧ rqR map = true ∧ rqPin map = true ∧
     (s.ctx? 0).map (fun c => (c.die, c.resv.isEmpty, rangeFree (s.took 0 0) c.troot 0 0x30000 1,
       (mapRange (s.took 0 0) 0 c.troot (MapReq.mk 0 0 true false true 0 0 0) true 0x30000 1 0).isSome,
       (mapRange (s.took 0 0) 0 c.troot (MapReq.mk 0 0 true false false 0 0 0) false 0x30000 1 0).isSome)) = some (0, true, true, true, true) ∧
     rqKind map = 0 ∧ rqDie map = 0 ∧ rqPgsz map = 0 ∧ rqKind resv = 0 ∧ rqDie resv = 0 ∧ rqPgsz resv = 0 ∧
     rqOp resv = 3 ∧ rqRest resv [(191, 128), (255, 192), (263, 256), (271, 264), (273, 272), (287, 280)] = true) ∧
    (let unm := 6 + 2 ^ 64 + 0x50000 * 2 ^ 128 + 4096 * 2 ^ 192
     let prot := 6 + 2 * 2 ^ 64 + 0x50000 * 2 ^ 128 + 4096 * 2 ^ 192 + 2 ^ 272 + 2 ^ 273
     let s := (tReq (tPages false) 0 [unm]).took 0 0
     rqOp unm = 1 ∧ rqRest unm [(191, 128), (255, 192)] = true ∧ rqOp prot = 2 ∧ rqRest prot [(191, 128), (255, 192), (273, 272)] = true ∧
     ((s.ctx? 0).map fun c =>
       (match rangePages s c 0 0x50000 4096 (fun _ => true) with | .ok ps => ps.length == 1 | .error _ => false) &&
       (match rangePages s c 0 0x50000 4096 (fun e => (pteR e && !true) || (pteW e && !true)) with
        | .ok ps => !(ps.any (fun p => (pteR p.2.2 && !true) || (pteW p.2.2 && !true))) | .error _ => false)) = some true) := by decide +kernel
theorem test_context_settings_met :
    (let ring := 6 + 5 * 2 ^ 64 + 0x4000 * 2 ^ 320 + 4 * 2 ^ 384
     let hand := 6 + 6 * 2 ^ 64 + 2 ^ 30 * 2 ^ 448
     let size := 6 + 7 * 2 ^ 64 + 16 * 2 ^ 384
     let unres := 6 + 4 * 2 ^ 64 + 0x30000 * 2 ^ 128 + 4096 * 2 ^ 192
     rqOp ring = 5 ∧ rqRest ring [(383, 320), (391, 384)] = true ∧ rqTarget ring % 4096 = 0 ∧ rqCap ring = 4 ∧ rqOp hand = 6 ∧
     rqRest hand [(335, 320), (383, 352), (511, 448)] = true ∧ rqFrame hand = 2 ^ 30 ∧ rqOp size = 7 ∧ rqRest size [(391, 384)] = true ∧ rqCap size = 16 ∧
     rqFrame hand + 2 ^ 21 ≤ 2 ^ 56 ∧ (rqFrame hand % 4096 + 2 ^ 21 + 4095) / 4096 = 512 ∧ rqFrame hand / 4096 * 4096 = 2 ^ 30 ∧
     (takeFrame (tPages true) 0 (ringSize (rqCap size))).isSome = true ∧ rqOp (6 + 8 * 2 ^ 64) = 8 ∧ rqOp (6 + 15 * 2 ^ 64) = 15 ∧ rqR unres = false ∧
     rangeOk (rqVA unres) (rqSize unres) 4096 = true ∧
     rqOp unres = 4 ∧ rqRest unres [(191, 128), (255, 192)] = true ∧ rqCap (6 + 7 * 2 ^ 64) = 0 ∧
     ((tPages true).ctx? 0).map (fun c => (pinnedRW (tPages true) c.troot 512 (2 ^ 30), (c.images.find 0).isSome, c.trapq.recs.isEmpty)) = some (true, true, true)) := by
  decide +kernel
/-- R361, R362, R375, R380, R408 to R414: requests of partition 4: a port's record, an entry of the table, a collective entry whose
program is accepted and one refused, key slots. -/
theorem test_key_requests_met :
    portBad 0x0000001001000020 = false ∧ 0x0000001001000020 % 2 = 0 ∧ aclBad 2 = false ∧ (tS tX).ports = [] ∧
    (let s := tReq ((tS tX).modCtx 0 (fun c => { c with images := [(0, { placedImage with mcf := [[0x1200000000000000], [0]] })] })) 4 [0x13, 0x14]
     (s.rings.getOr Ring.reset 4).taken.map reqCode = [0x13, 0x14] ∧ (s.ctx? 0).map (fun c => c.colls.find 1) = some none ∧ collBad (s.took 4 0) tColl = false ∧
     (s.image? 0 0).map (·.mcf.map progRefusal) = some [none, some (0, 1)] ∧ s.entry? 0 0 = some (placedEntry []) ∧ (placedEntry []).parts = []) ∧
    (keySlot (tS tX) 3).state = 0 ∧ ({ KeySlot.reset with state := 2 } : KeySlot).contexts = 0 ∧
    (let s : State := { tReq (tS tX) 4 [0x23 + 7 * 2 ^ 16] with slots := [(3, { KeySlot.reset with state := 3, scrub := some (reqTag (0x23 + 7 * 2 ^ 16)) }), (4, { KeySlot.reset with state := 1 })] }
     (s.rings.getOr Ring.reset 4).taken.map reqCode = [0x23] ∧ (keySlot s 3).state = 3 ∧ (keySlot s 3).scrub = some (reqTag (0x23 + 7 * 2 ^ 16)) ∧
     (keySlot s 4).state ≠ 2 ∧ (keySlot s 4).state ≠ 3) ∧
    (let s := tReq (tReq (tS tX) 3 [0x12]) 4 [0x12]
     let u : State := { s with rings := [(3, { Ring.reset with isOpen := true, taken := [0x12] }), (4, { Ring.reset with isOpen := true, taken := [0x12] })] }
     ((u.rings.getOr Ring.reset 3).taken, (u.rings.getOr Ring.reset 4).taken.map reqCode) = ([0x12], [0x12])) := by decide +kernel
/-- R360, R418 to R420, R424: an image in the flash that boots, the stages of bring-up, an image to stage, recovery, the thermal limits. -/
theorem test_platform_met :
    (let i : FlashImage := { digest := 1, version := 0, valid := true }
     let p := { Platform.reset with flash := some i }
     p.flash = some i ∧ p.fuse ≤ i.version ∧ Platform.reset.flash = none ∧ Platform.reset.ended.getLsbD 3 = false ∧
     stageable { State.reset with plat := p } { digest := 1, version := 0, valid := true, bytes := 64 * 2 ^ 20 } = true) ∧
    (let p := { Platform.reset with step := 2, ended := 0x0F }
     p.ended.getLsbD 4 = false ∧ p.ended.getLsbD 5 = false ∧ ({ p with ended := 0x07 } : Platform).ended.getLsbD 3 = false ∧
     p.step ≠ 1 ∧ p.ended ≠ 63 ∧ ({ Platform.reset with step := 1 } : Platform).step = 1 ∧ 5 / 2 ^ 2 % 2 = 1 ∧ 5 / 2 ^ 1 % 2 = 0) ∧
    (let i : FlashImage := { digest := 1, version := 2, valid := false }
     let p := { Platform.reset with flash := some i, fuse := 3 }
     p.flash = some i ∧ ¬ (i.valid = true ∧ p.fuse ≤ i.version) ∧ ({ p with recovery := true } : Platform).recovery = true ∧
     ({ p with booted := some i } : Platform).booted.isSome = true ∧ p.booted = none ∧ 110 ≤ 110 ∧ 109 < 110 ∧
     ¬ (i.valid = true ∧ p.fuse ≤ 2 ∧ 64 * 2 ^ 20 + 1 ≤ 64 * 2 ^ 20) ∧
     0x1000 ≤ 0x1040 / 64 * 64 ∧ 0x1040 / 64 * 64 < 0x1000 + 4096) ∧
    ({ Platform.reset with step := 2, ended := 63 } : Platform).ended = 63 ∧ 1000 % 25 = 0 ∧ 3200 % 25 = 0 ∧
    ¬ (1000 ≤ 3225 ∧ 3225 ≤ 3200 ∧ 3225 % 25 = 0) := by decide +kernel
/-- R410, R413, R415 to R417: a connection that has been negotiated, sessions ready and not, one of a link; a slot that its peer owns. -/
theorem test_security_met :
    (let ready : Session := { bus := 1, peer := 9, bothAuth := true, ready := true, gen := 0, beats := 0, link := none }
     let new : Session := { ready with ready := false, link := some 0 }
     let s : State := { tS tX with spdm := [(1, Spdm.mk 0x12 3)], sessions := [(0, ready), (1, new)], slots := [(5, { KeySlot.reset with state := 1, owner := some 9 })] }
     3 ≤ (spdmOf s 1).stage ∧ 1 ≤ (spdmOf s 1).stage ∧ ¬ 3 ≤ (spdmOf s 2).stage ∧ (s.sessions.find 0).map (·.ready) = some true ∧
     (s.sessions.find 1).map (fun x => (x.ready, x.link)) = some (false, some 0) ∧ (keySlot s 5).owner = some 9 ∧ (keySlot s 6).state = 0 ∧
     (keySlot s 6).owner ≠ some 9 ∧ (s.ctx? 0).isSome = true) := by decide +kernel
/-- R284, R286: a word of each stream placed where the next step fetches it, and one that is no instruction. -/
theorem test_scalar_step_met :
    [0xA4000002, 0x18003000].all (fun w =>
      let s := State.reset.withFetchWord 32 w
      match s.agenda, s.snd? 0 0 0 with
      | [.scalar 0 0], some x => issuingCtx s 0 == some 0 && (s.coreOf 0).scalPort.find 0 == some 0 && x.mayIssue && x.wait == .ready &&
          decide (x.pc < scalarSize s 0 x) && scalarWord s 0 x == w && !revoked s 0 && revoked (tRev s) 0
      | _, _ => false) = true := by decide +kernel
theorem test_lane_step_met :
    (let w := 0x38040000 * 2 ^ 64
     let s := State.reset.withFetchWord 96 w
     (match s.agenda, s.snd? 0 0 0 with
      | [.lane 0 0], some x => (s.coreOf 0).lanePort.find 0 == some 0 && x.mayIssue && x.runningBlock == some placedBlock &&
          (joinSets x).find? (fun y => y.1 == 0) == some (0, 2 ^ 24 - 1) && laneWordAt s 0 x 0 == w && !revoked s 0 && decide (placedBlock.entry ≤ 0) && decide (0 < placedBlock.entry + placedBlock.len)
      | _, _ => false) = true ∧ (match decode .lane (leBytes 12 w) with | .ok i => i == .vRegang (tF 0 0 0 0 0) | _ => false) = true) := by decide +kernel
theorem test_mcf_step_met :
    (let s := State.reset.withFetchWord 64 0x1200000000000000
     s.agenda = [.mcf 0 0 0] ∧ (s.entry? 0 0).map (·.prog) = some [0x1200000000000000] ∧ (s.thread? 0 0 0).map (·.pc) = some 0 ∧
     (Instr.eThermalGating 100).stream = .event) := by decide +kernel
/-- A step runs the placed word: addi s1, s0, 5 leaves 5 in s1. -/
theorem test_step_addi :
    (match step (State.reset.withFetchWord 32 (0x02 * 2 ^ 26 + 2 ^ 20 + 5)) with
     | .next t => (t.snd? 0 0 0).map (fun x => (x.sreg 1, x.pc)) | _ => none) = some (5, 4) := by decide +kernel
theorem test_memory_reset : Memory.wf State.reset.pmem = true ∧ Memory.wf State.reset.hmem = true := by decide
theorem tPlaced {s : State} {c : Ctx} {n : Nat} (h : areaFits c n (up64 c.areaBase) = true) : ∃ a, areaPlace s c n = some a := by
  refine Option.isSome_iff_exists.mp (List.find?_isSome.mpr ⟨up64 c.areaBase, ?_, h⟩)
  simp
/-- R280, R281, R290, R369, R370: the dispatch of a launch of three sounders on a core of a die in service, of record queues with a good
and a bad header, of a copy and a route on such a core, on one out of service and for a context that is away. -/
theorem test_dispatch_met :
    (let p := 1 + 2 ^ 77 + 3 * 2 ^ 128
     let s : State := { tM tX with plat := { (tM tX).plat with dieup := 15 } }
     pktKind p = 1 ∧ pktCntmem p = false ∧ pktZsrc p = 3 ∧ rangeDown s p = false ∧ pktStkSize p = 0 ∧ neverWhole s 0 p 3 = false ∧ pktArgLen p = 0 ∧
     pktCtx p = 0 ∧ (s.ctx? 0).map (fun c => areaFits { c with areaSize := 4096 } 64 (up64 c.areaBase)) = some true ∧
     (readArgs s 0 { tNode false p with count := some 3 }).isNone = true ∧
     pktStkSize (p + 2 ^ 91) = 256 ∧ pktStkBase (p + 2 ^ 91) + 3 * 256 < 2 ^ 56) ∧
    (let p := 2 + 0x10000 * 2 ^ 384
     let good := (tM tX).writeBytes (poolBase 0 + 12288) (leBytes 64 (16 * 2 ^ 192 + 2 * 2 ^ 224 + 2 ^ 240 + 2 ^ 208 + 0x10040 * 2 ^ 128))
     pktKind p = 2 ∧ pktRqHdr p = 0x10000 ∧ (readRqHdr good 0 0x10000).map (·.bad) = some false ∧
     (readRqHdr (tM tX) 0 0x10000).map (·.bad) = some true ∧ (readArgs good 0 (tNode false p)).isNone = true) ∧
    (let s := tE (tK [3]) id
     let up : State := { s with plat := { s.plat with dieup := 1 } }
     let q : EngReq := { ctx := 0, core := 0, launch := 0, image := 0, uid := 0, slices := 0, wid := 0, seq := 0, since := 0 }
     pktKind 4 = 4 ∧ pktKind 5 = 5 ∧ dieOf (pktCBase 4) = 0 ∧ up.plat.dieup.getLsbD 0 = true ∧ ({ s with plat := { s.plat with dieup := 14 } } : State).plat.dieup.getLsbD 0 = false ∧
     (up.coreOf 0).failed = false ∧ isActive up 0 0 = true ∧ isActive up 1 0 = false ∧
     copyChecks up q 3 0 [0, 0, 0, 0] = none ∧ copyChecks up q 4 0 [0, 0, 0, 0] = some (3, 0) ∧ padBad up 0 0 0 128 = none ∧
     copyWaits up q 3 (layoutAt up q 0) [0, 0, 0, 0] = false ∧
     routeChecks up q 3 256 = none ∧ routeChecks up q 4 256 = some (3, 0) ∧ padBad up 0 0 256 64 = none ∧ padBad up 0 0 (routeRecs up q 256).1.srec 128 = none ∧
     routeWaits up q 3 (routeRecs up q 256).2 = false) := by decide +kernel
/-- R375, R378, Table 13 of 19: delivery modes; a collective packet and a takeover request of package 1, which the table admits and does
not. -/
theorem test_foreign_met :
    foreignMode .ordered = false ∧ foreignMode .unordered = false ∧ foreignMode .unreliable = true ∧ foreignMode .idempotent = true ∧
    (let s := (tP (placedEntry [0]) Thread.reset)
     let u : State := { s with ports := [(0, { Port.reset with up := true, cfg := 1 })],
                               acl := [(0, { Acl.reset with en := true, coll := true, srcpkg := 1, srcctx := 2, dstctx := 0 })] }
     let p := { tPkt 2 with srcpkg := 1 }
     p.srcpkg ≠ u.plat.pkgid ∧ (u.port 0).up = true ∧ portBusy u 0 = false ∧ authentic u { port := 0, epoch := 0, tag := false } = true ∧
     admits (countPacket u 0) 1 2 0 (·.coll) = true ∧ admits (countPacket u 0) 1 3 0 (·.coll) = false ∧ inEnclave (countPacket u 0) 0 = false ∧
     (countPacket u 0).entry? 0 0 = some (placedEntry [0]) ∧ (countPacket u 0).thread? 0 0 0 = some Thread.reset ∧ p.inst = Thread.reset.inst) ∧
    (let e := { placedEntry [0] with rows := [{ pkg := 0, bar := 0, rank := 0, buddy := 0, dest := 0 }, { pkg := 3, bar := 0, rank := 0, buddy := 0, dest := 0 },
                                              { pkg := 4, bar := 0, rank := 0, buddy := 0, dest := 0 }] }
     (tP e Thread.reset).entry? 0 0 = some e ∧ membersOn e 3 = [1] ∧ e.rows.contains { pkg := 4, bar := 0, rank := 0, buddy := 0, dest := 0 } = true ∧
     (tP e Thread.reset).plat.pkgid = 0) := by decide +kernel
/-- R50, R411, R412, R416: a context that may be destroyed and one that waits; the key of slot 0 in use; a session that carries a link's key. -/
theorem test_requests_met :
    canDestroy (tS tX) 0 = true ∧
    (let s := (tC (fun c => { c with bank1 := some 1 })).modCC 1 0 (fun cc => { cc with share := { tShare with regs := 0 }, sounders := [(0, { tX with n := 64, bound := [(2, 4096)] })] })
     canDestroy s 0 = false ∧ (s.ctx? 0).isSome = true) ∧
    (keySlot { tS tX with slots := [(0, { KeySlot.reset with state := 1 })] } 0).state ≠ 0 ∧
    (let x : Session := { bus := 1, peer := 9, bothAuth := true, ready := true, gen := 0, beats := 0, link := some 0 }
     x.ready = true ∧ x.link = some 0) := by decide +kernel
/-- R284, R225, R360: what a step does for a sounder that reads a message, and for an event before the package has booted. -/
theorem test_step_gates_met :
    (SWait.mbread 0 0 0 0 []).issues = true ∧ SWait.ready.issues = true ∧ inReset .ePackageReset = true ∧ inReset (.eThermalGating 100) = true ∧
    inReset (.eSliceEnd 0) = false ∧ (Instr.eSliceEnd 0).stream = .event ∧ State.reset.plat.step = 0 ∧ ({ Platform.reset with step := 1 } : Platform).step ≠ 0 := by decide +kernel
end

section
/-! The decoding of scalar words, the conditions of a sounder, the relations of a compare, and O3 (R18, R120, R121). -/

namespace Sys2Proof.Machine

open Sys2Proof Sys2Proof.Laws

/-! ## Decoding a scalar word -/

/-- The cause of a scalar word is found on the value of its four bytes. -/
theorem decode_scalar_leBytes {w : Nat} (h : w < 2 ^ 32) :
    decode .scalar (leBytes 4 w) = decodeScalar (BitVec.ofNat 32 w) := by
  have e : leNat ((leBytes 4 w).take 4) = w := by
    rw [take_leBytes, leNat_leBytes]; omega
  rw [decode, e]

/-- A word that is not the one its candidate is encoded in has a bit set that must be zero: cause 3 (R69). -/
theorem decode_scalar_illegal_of_ne {w : Nat} {i : Instr} (h : w < 2 ^ 32) (hc : scalarCand w = .ok i)
    (hn : scalarNat i ≠ w) : decode .scalar (leBytes 4 w) = .illegal 3 := by
  have e : (BitVec.ofNat 32 w).toNat = w := by rw [BitVec.toNat_ofNat]; omega
  rw [decode_scalar_leBytes h]
  simp only [decodeScalar, e, hc, if_neg hn]

/-- A well-formed scalar instruction is what its own word decodes to. -/
theorem decode_scalarNat {i : Instr} (hs : i.stream = .scalar) (hw : wellFormed i = true) (r : Roundtrips i) :
    decode .scalar (leBytes 4 (scalarNat i)) = .ok i := by
  have h := r hw (by rw [hs]; decide)
  rw [encode, wordOf, hs] at h
  exact h

/-! ## The words of cmp and cmpi -/

/-- The word of format SC with a major opcode and its low 14 bits (R55, R120). -/
def compareWord (d cc : BitVec 3) (a : BitVec 6) (op low : Nat) : Nat :=
  op * 2 ^ 26 + d.toNat * 2 ^ 23 + cc.toNat * 2 ^ 20 + a.toNat * 2 ^ 14 + low

theorem scalarNat_sCmp (d cc : BitVec 3) (a b : BitVec 6) :
    scalarNat (.sCmp d cc a b) = compareWord d cc a 0x09 (b.toNat * 2 ^ 8) := rfl

theorem decode_sCmp (d cc : BitVec 3) (a b : BitVec 6) :
    decode .scalar (leBytes 4 (compareWord d cc a 0x09 (b.toNat * 2 ^ 8))) = .ok (.sCmp d cc a b) := by
  rw [← scalarNat_sCmp]
  exact decode_scalarNat rfl rfl (RoundTrip.sCmp d cc a b)

theorem scalarNat_sCmpi (d cc : BitVec 3) (a : BitVec 6) (im : BitVec 14) :
    scalarNat (.sCmpi d cc a im) = compareWord d cc a 0x0A im.toNat := by
  show sw4 23 20 14 0 0x28000000 d.toNat cc.toNat a.toNat im.toNat = _
  simp only [sw4, compareWord]; omega

theorem decode_sCmpi (d cc : BitVec 3) (a : BitVec 6) (im : BitVec 14) :
    decode .scalar (leBytes 4 (compareWord d cc a 0x0A im.toNat)) = .ok (.sCmpi d cc a im) := by
  rw [← scalarNat_sCmpi]
  exact decode_scalarNat rfl rfl (RoundTrip.sCmpi d cc a im)

/-- Bits [7:0] of cmp are no part of what the candidate reads (R120). -/
theorem scalarCand_cmp_low (d cc : BitVec 3) (a b : BitVec 6) {z : Nat} (h : z < 256) :
    scalarCand (compareWord d cc a 0x09 (b.toNat * 2 ^ 8 + z)) = .ok (.sCmp d cc a b) := by
  have hd := d.isLt; have hcc := cc.isLt; have ha := a.isLt; have hb := b.isLt
  have major : compareWord d cc a 0x09 (b.toNat * 2 ^ 8 + z) / 2 ^ 26 % 64 = 9 := by
    rw [compareWord]; omega
  delta scalarCand
  rw [major]
  show Decoded.ok _ = _
  rw [field_of d, field_of cc, field_of a, field_of b] <;> rw [compareWord] <;> omega

theorem decode_cmp_low_ne_zero (d cc : BitVec 3) (a b : BitVec 6) {z : Nat} (h0 : 0 < z) (h : z < 256) :
    decode .scalar (leBytes 4 (compareWord d cc a 0x09 (b.toNat * 2 ^ 8 + z))) = .illegal 3 := by
  have hd := d.isLt; have hcc := cc.isLt; have ha := a.isLt; have hb := b.isLt
  refine decode_scalar_illegal_of_ne ?_ (scalarCand_cmp_low d cc a b h) ?_
  · rw [compareWord]; omega
  · rw [scalarNat_sCmp, compareWord, compareWord]; omega

/-! ## The conditions of a sounder -/

namespace Snd

@[simp] theorem cond_zero (x : Snd) : x.cond 0 = true := rfl

theorem cond_of_ne_zero (x : Snd) {n : Nat} (h : n ≠ 0) : x.cond n = x.c.getLsbD n := if_neg h

@[simp] theorem setCond_zero (x : Snd) (b : Bool) : x.setCond 0 b = x := rfl

theorem setCond_frame (x : Snd) (n : Nat) (b : Bool) : x.setCond n b = { x with c := (x.setCond n b).c } := by
  unfold setCond
  split <;> rfl

/-- A write to c1 to c7 sets the one bit it names. -/
theorem setCond_getLsbD (x : Snd) {n : Nat} (h0 : n ≠ 0) (h : n < 8) (b : Bool) (m : Nat) :
    (x.setCond n b).c.getLsbD m = if m = n then b else x.c.getLsbD m := by
  have one : ((1 : BitVec 8) <<< n).getLsbD m = decide (n = m) := by
    show (BitVec.twoPow 8 n).getLsbD m = _
    simp [BitVec.getLsbD_twoPow, h]
  rw [setCond, if_neg h0]
  cases b
  · simp only [Bool.false_eq_true, if_false, BitVec.getLsbD_and, BitVec.getLsbD_not, one]
    by_cases hm : m < 8
    · by_cases e : m = n <;> simp [hm, e, eq_comm (a := n)]
    · simp [BitVec.getLsbD_of_ge _ m (Nat.not_lt.mp hm)]
  · simp only [if_true, BitVec.getLsbD_or, one]
    by_cases e : m = n <;> simp [e, eq_comm (a := n)]

theorem cond_setCond_self (x : Snd) {n : Nat} (h0 : n ≠ 0) (h : n < 8) (b : Bool) : (x.setCond n b).cond n = b := by
  rw [cond_of_ne_zero _ h0, setCond_getLsbD x h0 h, if_pos rfl]

end Snd

/-! ## The relations of a compare (Table 2 of 02) -/

section
variable (p q : Word)

theorem condHolds_eq : condHolds 0#3 p q = decide (p = q) := rfl
theorem condHolds_ne : condHolds 1#3 p q = decide (p ≠ q) := by rw [decide_not]; rfl
theorem condHolds_lt : condHolds 2#3 p q = decide (p.toInt < q.toInt) := rfl
theorem condHolds_ge : condHolds 3#3 p q = decide (q.toInt ≤ p.toInt) := rfl
theorem condHolds_ltn : condHolds 4#3 p q = decide (p.toNat < q.toNat) := rfl
theorem condHolds_gen : condHolds 5#3 p q = decide (q.toNat ≤ p.toNat) := rfl
theorem condHolds_tst : condHolds 6#3 p q = decide (p &&& q ≠ 0) := by rw [decide_not]; rfl
theorem condHolds_tstn : condHolds 7#3 p q = decide (p &&& q = 0) := rfl

end

/-! ## What a compare and a branch leave -/

/-- A compare of two operands leaves one condition changed and the stream at the next word (R120). -/
theorem exec_compare_at {s : State} {c k j : Nat} {x : Snd} (h : ScalarAt s c k j x) {d cc : BitVec 3} {a b : BitVec 6}
    {im : BitVec 14} {i : Instr} {q : Word}
    (hi : (i = .sCmp d cc a b ∧ q = x.sreg b.toNat) ∨ (i = .sCmpi d cc a im ∧ q = im.signExtend 64)) :
    exec i s = .next (s.putSnd c k j (x.setCond d.toNat (condHolds cc (x.sreg a.toNat) q)).adv) := by
  obtain ⟨rfl, rfl⟩ | ⟨rfl, rfl⟩ := hi
  · rw [exec_sCmp]; exact scalarCmp_at h d cc _
  · rw [exec_sCmpi]; exact scalarCmp_at h d cc _

/-- A branch whose condition, inverted where neg is 1, does not hold goes on to the next word (R121). -/
theorem exec_sBc_not_taken {s : State} {c k j : Nat} {x : Snd} (h : ScalarAt s c k j x) {cn : BitVec 3} {n : BitVec 1}
    (o : BitVec 22) (hn : (x.cond cn.toNat ^^ (n == 1)) = false) : exec (.sBc cn n o) s = .next (s.passed c k j x) := by
  rw [exec_sBc, execSBc, scalarStep_at h, hn]
  rfl

/-- Settles O3: the words by the round trip of their format, the effect by what a write of one condition leaves in each bit. -/
theorem scalarComparesAndConditions : Obligations.ScalarComparesAndConditions := by
  refine ⟨fun d cc a b im => ⟨decode_sCmp d cc a b, decode_sCmpi d cc a im, fun z => decode_cmp_low_ne_zero d cc a b⟩, ?_, ?_⟩
  · intro s c k j x d cc a b im h rel i q hi
    have hrel : condHolds cc (x.sreg a.toNat) q = rel (x.sreg a.toNat) q := by
      unfold rel
      match cc with
      | 0#3 => exact condHolds_eq ..
      | 1#3 => exact condHolds_ne ..
      | 2#3 => exact condHolds_lt ..
      | 3#3 => exact condHolds_ge ..
      | 4#3 => exact condHolds_ltn ..
      | 5#3 => exact condHolds_gen ..
      | 6#3 => exact condHolds_tst ..
      | 7#3 => exact condHolds_tstn ..
    have index_ne_zero (hd : d ≠ 0) : d.toNat ≠ 0 := fun e => hd (BitVec.eq_of_toNat_eq e)
    rw [← hrel]
    refine ⟨_, exec_compare_at h hi, ?_, ?_, ?_, ?_, Snd.cond_zero _⟩
    · exact congrArg Snd.adv (Snd.setCond_frame x d.toNat _)
    · rintro rfl; exact congrArg (·.adv.c) (Snd.setCond_zero x _)
    · exact fun hd => Snd.setCond_getLsbD x (index_ne_zero hd) d.isLt _
    · exact fun hd => Snd.cond_setCond_self x (index_ne_zero hd) d.isLt _
  · intro s c k j x cn o22 h
    refine ⟨Snd.cond_zero x, fun hc => ?_, fun hc => ?_⟩
    · exact exec_sBc_not_taken h o22 (by simp [hc])
    · exact exec_sBc_not_taken h o22 (by simp [hc])

end Sys2Proof.Machine
end

section
/-! The scalar control transfers: their words, where they go, the misaligned-target trap at a transfer and at the end of the
section, and O4 (R54, R121, R122). -/

namespace Sys2Proof.Machine

open Sys2Proof Sys2Proof.Laws

/-! ## The words of the transfers -/

/-- The word of a transfer with a major opcode and its low 26 bits (R55). -/
def transferWord (op low : Nat) : Nat := op * 2 ^ 26 + low

theorem scalarNat_sBc (cn : BitVec 3) (n : BitVec 1) (o : BitVec 22) :
    scalarNat (.sBc cn n o) = transferWord 0x0B (cn.toNat * 2 ^ 23 + n.toNat * 2 ^ 22 + o.toNat) := by
  show sw3 23 22 0 0x2C000000 cn.toNat n.toNat o.toNat = _
  simp only [sw3, transferWord]; omega

theorem scalarNat_sJmp (o : BitVec 26) : scalarNat (.sJmp o) = transferWord 0x0C o.toNat := by
  show sw1 0 0x30000000 o.toNat = _
  simp only [sw1, transferWord]; omega

theorem scalarNat_sCall (o : BitVec 26) : scalarNat (.sCall o) = transferWord 0x0D o.toNat := by
  show sw1 0 0x34000000 o.toNat = _
  simp only [sw1, transferWord]; omega

theorem scalarNat_sJmpr (a : BitVec 6) : scalarNat (.sJmpr a) = transferWord 0x0E (a.toNat * 2 ^ 14 + 0x00) := by
  show sw1 14 0x38000000 a.toNat = _
  simp only [sw1, transferWord]; omega

theorem scalarNat_sCallr (a : BitVec 6) : scalarNat (.sCallr a) = transferWord 0x0E (a.toNat * 2 ^ 14 + 0x01) := by
  show sw1 14 0x38000001 a.toNat = _
  simp only [sw1, transferWord]; omega

theorem scalarNat_sRet : scalarNat .sRet = transferWord 0x0E 0x02 := rfl

theorem decode_sBc (cn : BitVec 3) (n : BitVec 1) (o : BitVec 22) :
    decode .scalar (leBytes 4 (transferWord 0x0B (cn.toNat * 2 ^ 23 + n.toNat * 2 ^ 22 + o.toNat))) = .ok (.sBc cn n o) := by
  rw [← scalarNat_sBc]
  exact decode_scalarNat rfl rfl (RoundTrip.sBc cn n o)

theorem decode_sJmp (o : BitVec 26) : decode .scalar (leBytes 4 (transferWord 0x0C o.toNat)) = .ok (.sJmp o) := by
  rw [← scalarNat_sJmp]
  exact decode_scalarNat rfl rfl (RoundTrip.sJmp o)

theorem decode_sCall (o : BitVec 26) : decode .scalar (leBytes 4 (transferWord 0x0D o.toNat)) = .ok (.sCall o) := by
  rw [← scalarNat_sCall]
  exact decode_scalarNat rfl rfl (RoundTrip.sCall o)

theorem decode_sJmpr (a : BitVec 6) :
    decode .scalar (leBytes 4 (transferWord 0x0E (a.toNat * 2 ^ 14 + 0x00))) = .ok (.sJmpr a) := by
  rw [← scalarNat_sJmpr]
  exact decode_scalarNat rfl rfl (RoundTrip.sJmpr a)

theorem decode_sCallr (a : BitVec 6) :
    decode .scalar (leBytes 4 (transferWord 0x0E (a.toNat * 2 ^ 14 + 0x01))) = .ok (.sCallr a) := by
  rw [← scalarNat_sCallr]
  exact decode_scalarNat rfl rfl (RoundTrip.sCallr a)

theorem decode_sRet : decode .scalar (leBytes 4 (transferWord 0x0E 0x02)) = .ok .sRet := by
  rw [← scalarNat_sRet]
  exact decode_scalarNat rfl rfl RoundTrip.sRet

/-! ## The words of major 0x0E that are none -/

/-- What a function code of major 0x0E names, with sa (R122). -/
def registerTransfer (func : Nat) (a : BitVec 6) : Decoded :=
  match func with
  | 0 => .ok (.sJmpr a)
  | 1 => .ok (.sCallr a)
  | 2 => .ok .sRet
  | _ => .illegal 2

theorem registerTransfer_of_gt {func : Nat} (h : 0x02 < func) (a : BitVec 6) : registerTransfer func a = .illegal 2 := by
  match func with
  | 0 | 1 | 2 => omega
  | _ + 3 => rfl

section
variable {k : Nat} (hk : k < 2 ^ 26)
include hk

theorem transferWord_lt {op : Nat} (h : op < 64) : transferWord op k < 2 ^ 32 := by
  rw [transferWord]; omega

/-- The candidate of a word of major 0x0E reads sa and the function code, and no other bit (R122). -/
theorem scalarCand_registerTransfer :
    scalarCand (transferWord 0x0E k) = registerTransfer (k % 2 ^ 8) (BitVec.ofNat 6 (k / 2 ^ 14)) := by
  have major : transferWord 0x0E k / 2 ^ 26 % 64 = 14 := by rw [transferWord]; omega
  have func : transferWord 0x0E k % 256 = k % 2 ^ 8 := by rw [transferWord]; omega
  have sa : BitVec.ofNat 6 (transferWord 0x0E k / 2 ^ 14) = BitVec.ofNat 6 (k / 2 ^ 14) :=
    field_of _ _ (by rw [BitVec.toNat_ofNat, transferWord]; omega)
  delta scalarCand
  rw [major, func, sa]
  rfl

/-- A word of jmpr or callr is the one its candidate is encoded in where only sa and the function code are set. -/
theorem scalarCand_of_func_lt (hf : k % 2 ^ 8 < 0x02) : ∃ i, scalarCand (transferWord 0x0E k) = .ok i ∧
    scalarNat i = transferWord 0x0E (k / 2 ^ 14 % 2 ^ 6 * 2 ^ 14 + k % 2 ^ 8) := by
  rw [scalarCand_registerTransfer hk]
  obtain h0 | h1 : k % 2 ^ 8 = 0 ∨ k % 2 ^ 8 = 1 := by omega
  · rw [h0]; exact ⟨_, rfl, by rw [scalarNat_sJmpr, BitVec.toNat_ofNat]⟩
  · rw [h1]; exact ⟨_, rfl, by rw [scalarNat_sCallr, BitVec.toNat_ofNat]⟩

theorem decode_func_gt (hf : 0x02 < k % 2 ^ 8) : decode .scalar (leBytes 4 (transferWord 0x0E k)) = .illegal 2 := by
  have lt := transferWord_lt hk (op := 0x0E) (by decide)
  have e : (BitVec.ofNat 32 (transferWord 0x0E k)).toNat = transferWord 0x0E k := by
    rw [BitVec.toNat_ofNat, Nat.mod_eq_of_lt lt]
  rw [decode_scalar_leBytes lt]
  simp only [decodeScalar, e, scalarCand_registerTransfer hk, registerTransfer_of_gt hf]

theorem decode_func_lt_of_other_bits (hf : k % 2 ^ 8 < 0x02) (h : k / 2 ^ 20 ≠ 0 ∨ k / 2 ^ 8 % 2 ^ 6 ≠ 0) :
    decode .scalar (leBytes 4 (transferWord 0x0E k)) = .illegal 3 := by
  obtain ⟨i, hc, hn⟩ := scalarCand_of_func_lt hk hf
  refine decode_scalar_illegal_of_ne (transferWord_lt hk (by decide)) hc ?_
  rw [hn, transferWord, transferWord]; omega

theorem decode_func_ret_of_other_bits (hf : k % 2 ^ 8 = 0x02) (h : k ≠ 0x02) :
    decode .scalar (leBytes 4 (transferWord 0x0E k)) = .illegal 3 := by
  have hc : scalarCand (transferWord 0x0E k) = .ok .sRet := by rw [scalarCand_registerTransfer hk, hf]; rfl
  refine decode_scalar_illegal_of_ne (transferWord_lt hk (by decide)) hc ?_
  rw [scalarNat_sRet, transferWord, transferWord]; omega

end

/-! ## Where a transfer goes -/

section
variable {s : State} {c k j : Nat} {x y : Snd} {t : Word}

theorem transfer_inside (h : t.toNat % 4 = 0 ∧ t.toNat < scalarSize s c x) :
    transfer s c k j x y t = s.putSnd c k j { y with pc := t.toNat } := if_pos h

/-- A target that is no word of the section: the state is that of the trap, whatever the transfer would have written (R54). -/
theorem transfer_outside (h : ¬ (t.toNat % 4 = 0 ∧ t.toNat < scalarSize s c x)) :
    transfer s c k j x y t = takeTrap s c k j { cause := 0x05, word := scalarWord s c x } := if_neg h

theorem exec_sBc_taken (h : ScalarAt s c k j x) {cn : BitVec 3} {n : BitVec 1} (o : BitVec 22)
    (hn : (x.cond cn.toNat ^^ (n == 1)) = true) : exec (.sBc cn n o) s = .next (transfer s c k j x x (pcTarget x o)) := by
  rw [exec_sBc, execSBc, scalarStep_at h, hn]
  rfl

theorem exec_sJmp_at (h : ScalarAt s c k j x) (o : BitVec 26) :
    exec (.sJmp o) s = .next (transfer s c k j x x (pcTarget x o)) := scalarStep_at h _

theorem exec_sCall_at (h : ScalarAt s c k j x) (o : BitVec 26) :
    exec (.sCall o) s = .next (transfer s c k j x (x.setS 63 (BitVec.ofNat 64 (x.pc + 4))) (pcTarget x o)) :=
  scalarStep_at h _

theorem exec_sJmpr_at (h : ScalarAt s c k j x) (a : BitVec 6) :
    exec (.sJmpr a) s = .next (transfer s c k j x x (x.sreg a.toNat)) := scalarStep_at h _

/-- The target of callr is read from the sounder before s63 is written (R122). -/
theorem exec_sCallr_at (h : ScalarAt s c k j x) (a : BitVec 6) :
    exec (.sCallr a) s = .next (transfer s c k j x (x.setS 63 (BitVec.ofNat 64 (x.pc + 4))) (x.sreg a.toNat)) :=
  scalarStep_at h _

theorem exec_sRet_at (h : ScalarAt s c k j x) : exec .sRet s = .next (transfer s c k j x x (x.sreg 63)) := scalarStep_at h _

end

/-! ## The fetch of a scalar word -/

theorem takeAgent_cons {s : State} {a : Agent} {rest : List Agent} (h : s.agenda = a :: rest) :
    takeAgent s = (a, { s with agenda := rest, freeCtr := s.freeCtr + freeStride }) := by
  simp only [takeAgent, h]

theorem step_of_fetch_idle {s t : State} (h : fetch (takeAgent s).1 (takeAgent s).2 = .idle t) : step s = .next t := by
  simp only [step, h]

/-- A granted sounder that may issue, under a key that is not revoked, fetches its word once the grant is used up (R284). -/
theorem fetchScalar_granted {s : State} {c k q j : Nat} {x : Snd} (hc : issuingCtx s k = some c)
    (hg : (s.coreOf k).scalPort.find q = some j) (hx : s.snd? c k j = some x) (hm : x.mayIssue = true)
    (hw : x.wait.issues = true) (hr : revoked s c = false) :
    fetchScalar s k q = fetchScalarWord (dropScalGrant s k q) c k j x := by
  have hx' : (dropScalGrant s k q).snd? c k j = some x := hx
  have hr' : revoked (dropScalGrant s k q) c = false := hr
  simp only [fetchScalar, hc, hg, hx', hm, hw, hr', Bool.and_true, if_true, Bool.false_eq_true, if_false]

/-- Past the end of the section stands no word: "misaligned target" with WORD zero (R54). -/
theorem fetchScalarWord_past_end {s : State} {c k j : Nat} {x : Snd} (h : scalarSize s c x ≤ x.pc) :
    fetchScalarWord s c k j x = .idle (takeTrap s c k j { cause := 0x05, word := 0 }) := if_neg (Nat.not_lt.mpr h)

/-- Settles O4: the words by the round trip of their format, each transfer by where its target lies, and the end of the
section by the fetch that finds no word there. -/
theorem scalarTransfers : Obligations.ScalarTransfers := by
  refine ⟨fun a cn n o22 o26 => ?_, ?_, ?_⟩
  · exact ⟨decode_sBc cn n o22, decode_sJmp o26, decode_sCall o26, decode_sJmpr a, decode_sCallr a, decode_sRet,
      fun k => decode_func_gt, fun k => decode_func_lt_of_other_bits, fun k => decode_func_ret_of_other_bits⟩
  · intro s c k j x a n cn o22 o26 h inside near far go link trap holds
    have goes {y : Snd} {t : Word} (ht : inside t) :
        Host.Outcome.next (transfer s c k j x y t) = (.next (s.putSnd c k j { y with pc := t.toNat }) : Out) :=
      congrArg _ (transfer_inside ht)
    have traps {y : Snd} {t : Word} (ht : ¬ inside t) :
        Host.Outcome.next (transfer s c k j x y t) = (.next trap : Out) := congrArg _ (transfer_outside ht)
    refine ⟨fun hh ht => ?_, fun hh ht => ?_, fun hh => ?_, fun ht => ⟨?_, ?_⟩, fun ht => ⟨?_, ?_⟩, fun ht => ⟨?_, ?_⟩,
      fun ht => ⟨?_, ?_⟩, fun ht => ?_, fun ht => ?_⟩
    · exact (exec_sBc_taken h o22 hh).trans (goes ht)
    · exact (exec_sBc_taken h o22 hh).trans (traps ht)
    · exact exec_sBc_not_taken h o22 (Bool.not_eq_true _ ▸ hh)
    · exact (exec_sJmp_at h o26).trans (goes ht)
    · exact (exec_sCall_at h o26).trans (goes ht)
    · exact (exec_sJmp_at h o26).trans (traps ht)
    · exact (exec_sCall_at h o26).trans (traps ht)
    · exact (exec_sJmpr_at h a).trans (goes ht)
    · exact (exec_sCallr_at h a).trans (goes ht)
    · exact (exec_sJmpr_at h a).trans (traps ht)
    · exact (exec_sCallr_at h a).trans (traps ht)
    · exact (exec_sRet_at h).trans (goes ht)
    · exact (exec_sRet_at h).trans (traps ht)
  · intro s rest c k q j x ha hc hg hx hm hw hr hpc u
    have issues : x.wait.issues = true := by rw [hw]; rfl
    apply step_of_fetch_idle
    rw [takeAgent_cons ha]
    calc fetchScalar u k q
      _ = fetchScalarWord (dropScalGrant u k q) c k j x := fetchScalar_granted hc hg hx hm issues hr
      _ = .idle (takeTrap (dropScalGrant u k q) c k j { cause := 0x05, word := 0 }) := fetchScalarWord_past_end hpc.ge

end Sys2Proof.Machine
end

section
/-! The integer operations of the scalar stream: their words, their results at both widths, and O1 (R115, Table 1 of 04). -/

namespace Sys2Proof.Machine

open Sys2Proof Sys2Proof.Laws

/-! ## The operations of Table 1 of 04 as instructions -/

namespace SOp

/-- The operations of Table 1 of 04 in the order of their codes. -/
def table : List SOp :=
  [.add_, .sub_, .and_, .or_, .xor_, .shl_, .shr_, .sra_, .mul_, .mulh_, .mulhn_, .div_, .divn_, .rem_, .remn_, .min_,
    .max_, .minn_, .maxn_]

/-- func[6:0] of an operation (Table 1 of 04). -/
def code : SOp → Nat
  | .add_ => 0x00 | .sub_ => 0x01 | .and_ => 0x02 | .or_ => 0x03 | .xor_ => 0x04
  | .shl_ => 0x05 | .shr_ => 0x06 | .sra_ => 0x07 | .mul_ => 0x08 | .mulh_ => 0x09
  | .mulhn_ => 0x0A | .div_ => 0x0B | .divn_ => 0x0C | .rem_ => 0x0D | .remn_ => 0x0E
  | .min_ => 0x0F | .max_ => 0x10 | .minn_ => 0x11 | .maxn_ => 0x12

/-- The instruction of an operation at width 64. -/
def full (d a b : BitVec 6) : SOp → Instr
  | .add_ => .sAdd d a b | .sub_ => .sSub d a b | .and_ => .sAnd d a b | .or_ => .sOr d a b | .xor_ => .sXor d a b
  | .shl_ => .sShl d a b | .shr_ => .sShr d a b | .sra_ => .sSra d a b | .mul_ => .sMul d a b | .mulh_ => .sMulh d a b
  | .mulhn_ => .sMulhn d a b | .div_ => .sDiv d a b | .divn_ => .sDivn d a b | .rem_ => .sRem d a b
  | .remn_ => .sRemn d a b | .min_ => .sMin d a b | .max_ => .sMax d a b | .minn_ => .sMinn d a b
  | .maxn_ => .sMaxn d a b

/-- The .32 form of an operation. -/
def half (d a b : BitVec 6) : SOp → Instr
  | .add_ => .sAdd32 d a b | .sub_ => .sSub32 d a b | .and_ => .sAnd32 d a b | .or_ => .sOr32 d a b
  | .xor_ => .sXor32 d a b | .shl_ => .sShl32 d a b | .shr_ => .sShr32 d a b | .sra_ => .sSra32 d a b
  | .mul_ => .sMul32 d a b | .mulh_ => .sMulh32 d a b | .mulhn_ => .sMulhn32 d a b | .div_ => .sDiv32 d a b
  | .divn_ => .sDivn32 d a b | .rem_ => .sRem32 d a b | .remn_ => .sRemn32 d a b | .min_ => .sMin32 d a b
  | .max_ => .sMax32 d a b | .minn_ => .sMinn32 d a b | .maxn_ => .sMaxn32 d a b

section
variable (op : SOp) (d a b : BitVec 6)

/-! ## What an operation leaves -/

theorem exec_full (s : State) : exec (op.full d a b) s = scalarAlu op d a b s := by cases op <;> rfl

theorem exec_half (s : State) : exec (op.half d a b) s = scalarAlu32 op d a b s := by cases op <;> rfl

theorem exec_full_at {s : State} {c k j : Nat} {x : Snd} (h : ScalarAt s c k j x) :
    exec (op.full d a b) s = .next (s.wrote c k j x d (op.eval 64 (x.sreg a.toNat) (x.sreg b.toNat))) :=
  (exec_full op d a b s).trans (scalarAlu_at h op d a b)

theorem exec_half_at {s : State} {c k j : Nat} {x : Snd} (h : ScalarAt s c k j x) :
    exec (op.half d a b) s = .next (s.wrote c k j x d
      ((op.eval 32 ((x.sreg a.toNat).setWidth 32) ((x.sreg b.toNat).setWidth 32)).signExtend 64)) :=
  (exec_half op d a b s).trans (scalarAlu32_at h op d a b)

/-! ## The words of the operations -/

theorem roundtrips_forms : Roundtrips (op.full d a b) ∧ Roundtrips (op.half d a b) :=
  match op with
  | .add_ => ⟨RoundTrip.sAdd d a b, RoundTrip.sAdd32 d a b⟩
  | .sub_ => ⟨RoundTrip.sSub d a b, RoundTrip.sSub32 d a b⟩
  | .and_ => ⟨RoundTrip.sAnd d a b, RoundTrip.sAnd32 d a b⟩
  | .or_ => ⟨RoundTrip.sOr d a b, RoundTrip.sOr32 d a b⟩
  | .xor_ => ⟨RoundTrip.sXor d a b, RoundTrip.sXor32 d a b⟩
  | .shl_ => ⟨RoundTrip.sShl d a b, RoundTrip.sShl32 d a b⟩
  | .shr_ => ⟨RoundTrip.sShr d a b, RoundTrip.sShr32 d a b⟩
  | .sra_ => ⟨RoundTrip.sSra d a b, RoundTrip.sSra32 d a b⟩
  | .mul_ => ⟨RoundTrip.sMul d a b, RoundTrip.sMul32 d a b⟩
  | .mulh_ => ⟨RoundTrip.sMulh d a b, RoundTrip.sMulh32 d a b⟩
  | .mulhn_ => ⟨RoundTrip.sMulhn d a b, RoundTrip.sMulhn32 d a b⟩
  | .div_ => ⟨RoundTrip.sDiv d a b, RoundTrip.sDiv32 d a b⟩
  | .divn_ => ⟨RoundTrip.sDivn d a b, RoundTrip.sDivn32 d a b⟩
  | .rem_ => ⟨RoundTrip.sRem d a b, RoundTrip.sRem32 d a b⟩
  | .remn_ => ⟨RoundTrip.sRemn d a b, RoundTrip.sRemn32 d a b⟩
  | .min_ => ⟨RoundTrip.sMin d a b, RoundTrip.sMin32 d a b⟩
  | .max_ => ⟨RoundTrip.sMax d a b, RoundTrip.sMax32 d a b⟩
  | .minn_ => ⟨RoundTrip.sMinn d a b, RoundTrip.sMinn32 d a b⟩
  | .maxn_ => ⟨RoundTrip.sMaxn d a b, RoundTrip.sMaxn32 d a b⟩

theorem stream_full : (op.full d a b).stream = .scalar := by cases op <;> rfl

theorem stream_half : (op.half d a b).stream = .scalar := by cases op <;> rfl

theorem wellFormed_full : wellFormed (op.full d a b) = true := by cases op <;> rfl

theorem wellFormed_half : wellFormed (op.half d a b) = true := by cases op <;> rfl

end

end SOp

/-- The word of format SR of major 0x01 with a function code (R55, R115). -/
def integerWord (d a b : BitVec 6) (func : Nat) : Nat :=
  0x01 * 2 ^ 26 + d.toNat * 2 ^ 20 + a.toNat * 2 ^ 14 + b.toNat * 2 ^ 8 + func

/-- A well-formed scalar instruction is what the word that encodes it decodes to. -/
theorem decode_of_scalarNat_eq {i : Instr} {w : Nat} (hs : i.stream = .scalar) (hw : wellFormed i = true) (r : Roundtrips i)
    (e : scalarNat i = w) : decode .scalar (leBytes 4 w) = .ok i := e ▸ decode_scalarNat hs hw r

/-- A word whose candidate is refused is refused with the candidate's cause (R69). -/
theorem decode_of_scalarCand_illegal {w c : Nat} (h : w < 2 ^ 32) (hc : scalarCand w = .illegal c) :
    decode .scalar (leBytes 4 w) = .illegal c := by
  have e : (BitVec.ofNat 32 w).toNat = w := by rw [BitVec.toNat_ofNat, Nat.mod_eq_of_lt h]
  rw [decode_scalar_leBytes h]
  simp only [decodeScalar, e, hc]

section
variable (d a b : BitVec 6)

/-- The encoder's fixed bits and three registers are the word of major 0x01. -/
theorem sw3_integerWord (func : Nat) :
    sw3 20 14 8 (0x01 * 2 ^ 26 + func) d.toNat a.toNat b.toNat = integerWord d a b func := by
  simp only [sw3, integerWord]; omega

theorem SOp.scalarNat_full (op : SOp) : scalarNat (op.full d a b) = integerWord d a b op.code := by
  rw [← sw3_integerWord]; cases op <;> rfl

theorem SOp.scalarNat_half (op : SOp) : scalarNat (op.half d a b) = integerWord d a b (0x80 + op.code) := by
  rw [← sw3_integerWord]; cases op <;> rfl

theorem decode_full (op : SOp) : decode .scalar (leBytes 4 (integerWord d a b op.code)) = .ok (op.full d a b) :=
  decode_of_scalarNat_eq (op.stream_full d a b) (op.wellFormed_full d a b) (op.roundtrips_forms d a b).1
    (op.scalarNat_full d a b)

theorem decode_half (op : SOp) : decode .scalar (leBytes 4 (integerWord d a b (0x80 + op.code))) = .ok (op.half d a b) :=
  decode_of_scalarNat_eq (op.stream_half d a b) (op.wellFormed_half d a b) (op.roundtrips_forms d a b).2
    (op.scalarNat_half d a b)

theorem integerWord_lt {func : Nat} (h : func < 256) : integerWord d a b func < 2 ^ 32 := by
  have hd := d.isLt; have ha := a.isLt; have hb := b.isLt
  rw [integerWord]; omega

/-- No row of Table 1 of 04 has a code above 0x12, with or without func[7] (R115). -/
theorem scalarCand_code_gt {func : Nat} (h : func < 256) (hf : 0x12 < func % 128) :
    scalarCand (integerWord d a b func) = .illegal 2 := by
  have hd := d.isLt; have ha := a.isLt; have hb := b.isLt
  have major : integerWord d a b func / 2 ^ 26 % 64 = 1 := by rw [integerWord]; omega
  have low : integerWord d a b func % 256 = func := by rw [integerWord]; omega
  delta scalarCand
  simp only [major, low]
  split
  case h_39 => rfl
  all_goals exact absurd hf (by decide)

theorem decode_code_gt {func : Nat} (h : func < 256) (hf : 0x12 < func % 128) :
    decode .scalar (leBytes 4 (integerWord d a b func)) = .illegal 2 :=
  decode_of_scalarCand_illegal (integerWord_lt d a b h) (scalarCand_code_gt d a b h hf)

end

/-- Settles O1: the words by the round trip of each row of Table 1 of 04 and by the codes that no row has, the results by
the row's own value at the width. -/
theorem scalarIntegerOperations : Obligations.ScalarIntegerOperations := by
  refine ⟨fun d a b => ⟨fun func => decode_code_gt d a b, ?_⟩, ?_, ?_⟩
  · intro code full half hm
    have hm' : (code, full, half) ∈ SOp.table.map fun op => (op.code, op.full d a b, op.half d a b) := hm
    obtain ⟨op, -, row⟩ := List.mem_map.mp hm'
    cases row
    exact ⟨decode_full d a b op, decode_half d a b op⟩
  · intro s c k j x d a b h p q n
    have gives (op : SOp) : exec (op.full d a b) s = .next (s.wrote c k j x d (op.eval 64 p q)) := op.exec_full_at d a b h
    exact ⟨gives .add_, gives .sub_, gives .and_, gives .or_, gives .xor_, gives .shl_, gives .shr_, gives .sra_, gives .mul_,
      gives .mulh_, gives .mulhn_, gives .div_, gives .divn_, gives .rem_, gives .remn_, gives .min_, gives .max_,
      gives .minn_, gives .maxn_⟩
  · intro s c k j x d a b h p q n put
    have gives (op : SOp) : exec (op.half d a b) s = .next (put (op.eval 32 p q)) := op.exec_half_at d a b h
    exact ⟨gives .add_, gives .sub_, gives .and_, gives .or_, gives .xor_, gives .shl_, gives .shr_, gives .sra_, gives .mul_,
      gives .mulh_, gives .mulhn_, gives .div_, gives .divn_, gives .rem_, gives .remn_, gives .min_, gives .max_,
      gives .minn_, gives .maxn_⟩

end Sys2Proof.Machine
end

section
/-! The immediate operations of the scalar stream, lui and pcrel: their words, their results, and O2 (R116 to R119). -/

namespace Sys2Proof.Machine

open Sys2Proof Sys2Proof.Laws

/-! ## The words of format SI -/

/-- The word of format SI with a major opcode and its low 14 bits (R55, R116). -/
def immediateWord (d a : BitVec 6) (op low : Nat) : Nat := op * 2 ^ 26 + d.toNat * 2 ^ 20 + a.toNat * 2 ^ 14 + low

/-- The word of format SU with a major opcode (R55, R118). -/
def upperWord (d : BitVec 6) (up : BitVec 20) (op : Nat) : Nat := op * 2 ^ 26 + d.toNat * 2 ^ 20 + up.toNat

section
variable (d a n : BitVec 6) (im : BitVec 14) (up : BitVec 20)

/-- The encoder's fixed bits, two registers and a low field are a word of format SI. -/
theorem sw3_immediateWord {m op field low : Nat} (h : m + field = op * 2 ^ 26 + low) :
    sw3 20 14 0 m d.toNat a.toNat field = immediateWord d a op low := by
  simp only [sw3, immediateWord]; omega

/-- The encoder's fixed bits, a register and a low field are a word of format SU. -/
theorem sw2_upperWord (op : Nat) : sw2 20 0 (op * 2 ^ 26) d.toNat up.toNat = upperWord d up op := by
  simp only [sw2, upperWord]; omega

theorem decode_sAddi : decode .scalar (leBytes 4 (immediateWord d a 0x02 im.toNat)) = .ok (.sAddi d a im) :=
  decode_of_scalarNat_eq rfl rfl (RoundTrip.sAddi d a im) (sw3_immediateWord d a rfl)

theorem decode_sAndi : decode .scalar (leBytes 4 (immediateWord d a 0x03 im.toNat)) = .ok (.sAndi d a im) :=
  decode_of_scalarNat_eq rfl rfl (RoundTrip.sAndi d a im) (sw3_immediateWord d a rfl)

theorem decode_sOri : decode .scalar (leBytes 4 (immediateWord d a 0x04 im.toNat)) = .ok (.sOri d a im) :=
  decode_of_scalarNat_eq rfl rfl (RoundTrip.sOri d a im) (sw3_immediateWord d a rfl)

theorem decode_sXori : decode .scalar (leBytes 4 (immediateWord d a 0x05 im.toNat)) = .ok (.sXori d a im) :=
  decode_of_scalarNat_eq rfl rfl (RoundTrip.sXori d a im) (sw3_immediateWord d a rfl)

theorem scalarNat_sShli : scalarNat (.sShli d a n) = immediateWord d a 0x06 (0 * 2 ^ 12 + n.toNat) :=
  sw3_immediateWord d a (by omega)

theorem scalarNat_sShri : scalarNat (.sShri d a n) = immediateWord d a 0x06 (1 * 2 ^ 12 + n.toNat) :=
  sw3_immediateWord d a (by omega)

theorem scalarNat_sSrai : scalarNat (.sSrai d a n) = immediateWord d a 0x06 (2 * 2 ^ 12 + n.toNat) :=
  sw3_immediateWord d a (by omega)

theorem decode_sShli : decode .scalar (leBytes 4 (immediateWord d a 0x06 (0 * 2 ^ 12 + n.toNat))) = .ok (.sShli d a n) :=
  decode_of_scalarNat_eq rfl rfl (RoundTrip.sShli d a n) (scalarNat_sShli d a n)

theorem decode_sShri : decode .scalar (leBytes 4 (immediateWord d a 0x06 (1 * 2 ^ 12 + n.toNat))) = .ok (.sShri d a n) :=
  decode_of_scalarNat_eq rfl rfl (RoundTrip.sShri d a n) (scalarNat_sShri d a n)

theorem decode_sSrai : decode .scalar (leBytes 4 (immediateWord d a 0x06 (2 * 2 ^ 12 + n.toNat))) = .ok (.sSrai d a n) :=
  decode_of_scalarNat_eq rfl rfl (RoundTrip.sSrai d a n) (scalarNat_sSrai d a n)

theorem decode_sLui : decode .scalar (leBytes 4 (upperWord d up 0x07)) = .ok (.sLui d up) :=
  decode_of_scalarNat_eq rfl rfl (RoundTrip.sLui d up) (sw2_upperWord d up 0x07)

theorem decode_sPcrel : decode .scalar (leBytes 4 (upperWord d up 0x08)) = .ok (.sPcrel d up) :=
  decode_of_scalarNat_eq rfl rfl (RoundTrip.sPcrel d up) (sw2_upperWord d up 0x08)

end

/-! ## The words of major 0x06 that are none -/

/-- What bits [13:12] of a word of major 0x06 name, with its registers and count (R117). -/
def immediateShift (kind : Nat) (d a n : BitVec 6) : Decoded :=
  match kind with
  | 0 => .ok (.sShli d a n)
  | 1 => .ok (.sShri d a n)
  | 2 => .ok (.sSrai d a n)
  | _ => .illegal 2

section
variable (d a : BitVec 6) {k : Nat}

theorem immediateWord_lt (hk : k < 2 ^ 14) {op : Nat} (h : op < 64) : immediateWord d a op k < 2 ^ 32 := by
  have hd := d.isLt; have ha := a.isLt
  rw [immediateWord]; omega

/-- The candidate of a word of major 0x06 reads bits [13:12] and the count, and nothing between them (R117). -/
theorem scalarCand_immediateShift (hk : k < 2 ^ 14) :
    scalarCand (immediateWord d a 0x06 k) = immediateShift (k / 2 ^ 12) d a (BitVec.ofNat 6 k) := by
  have hd := d.isLt; have ha := a.isLt
  have major : immediateWord d a 0x06 k / 2 ^ 26 % 64 = 6 := by rw [immediateWord]; omega
  have kind : immediateWord d a 0x06 k / 2 ^ 12 % 4 = k / 2 ^ 12 := by rw [immediateWord]; omega
  have sd : BitVec.ofNat 6 (immediateWord d a 0x06 k / 2 ^ 20) = d := field_of _ _ (by rw [immediateWord]; omega)
  have sa : BitVec.ofNat 6 (immediateWord d a 0x06 k / 2 ^ 14) = a := field_of _ _ (by rw [immediateWord]; omega)
  have count : BitVec.ofNat 6 (immediateWord d a 0x06 k / 2 ^ 0) = BitVec.ofNat 6 k :=
    field_of _ _ (by rw [BitVec.toNat_ofNat, immediateWord]; omega)
  delta scalarCand
  rw [major, kind, sd, sa, count]
  rfl

/-- A candidate of major 0x06 is encoded in the word where only bits [13:12] and the count are set. -/
theorem scalarCand_of_kind_lt (hk : k < 3 * 2 ^ 12) : ∃ i, scalarCand (immediateWord d a 0x06 k) = .ok i ∧
    scalarNat i = immediateWord d a 0x06 (k / 2 ^ 12 * 2 ^ 12 + k % 2 ^ 6) := by
  rw [scalarCand_immediateShift d a (by omega)]
  obtain h | h | h : k / 2 ^ 12 = 0 ∨ k / 2 ^ 12 = 1 ∨ k / 2 ^ 12 = 2 := by omega
  · rw [h]; exact ⟨_, rfl, by rw [scalarNat_sShli, BitVec.toNat_ofNat]⟩
  · rw [h]; exact ⟨_, rfl, by rw [scalarNat_sShri, BitVec.toNat_ofNat]⟩
  · rw [h]; exact ⟨_, rfl, by rw [scalarNat_sSrai, BitVec.toNat_ofNat]⟩

theorem decode_shift_kind_three (h : 3 * 2 ^ 12 ≤ k) (hk : k < 2 ^ 14) :
    decode .scalar (leBytes 4 (immediateWord d a 0x06 k)) = .illegal 2 := by
  have kind : k / 2 ^ 12 = 3 := by omega
  refine decode_of_scalarCand_illegal (immediateWord_lt d a hk (by decide)) ?_
  rw [scalarCand_immediateShift d a hk, kind]
  rfl

theorem decode_shift_of_other_bits (hk : k < 3 * 2 ^ 12) (h : k / 2 ^ 6 % 2 ^ 6 ≠ 0) :
    decode .scalar (leBytes 4 (immediateWord d a 0x06 k)) = .illegal 3 := by
  obtain ⟨i, hc, hn⟩ := scalarCand_of_kind_lt d a hk
  refine decode_scalar_illegal_of_ne (immediateWord_lt d a (by omega) (by decide)) hc ?_
  rw [hn, immediateWord, immediateWord]; omega

end

/-! ## What an immediate operation leaves -/

section
variable {s : State} {c k j : Nat} {x : Snd} (h : ScalarAt s c k j x) (d a : BitVec 6)
include h

theorem scalarWrite_wrote (f : Snd → Word) : scalarWrite s d f = .next (s.wrote c k j x d (f x)) := scalarWrite_at h d f

/-- A shift by an immediate count: the count is below the width, so the operation takes it whole (R117). -/
theorem scalarWrite_shift (n : BitVec 6) {op : SOp} {shift : Word → Nat → Word}
    (ho : ∀ p q : Word, op.eval 64 p q = shift p (q.toNat % 64)) :
    scalarWrite s d (fun y => op.eval 64 (y.sreg a.toNat) (n.setWidth 64)) =
      .next (s.wrote c k j x d (shift (x.sreg a.toNat) n.toNat)) := by
  have count : (n.setWidth 64).toNat % 64 = n.toNat := by
    have hn := n.isLt
    rw [BitVec.toNat_setWidth]; omega
  rw [scalarWrite_wrote h, ho, count]

end

/-- Settles O2: the words by the round trip of their format and by the bits that a shift's candidate leaves out, the results
by what the write of one register leaves. -/
theorem scalarImmediateOperations : Obligations.ScalarImmediateOperations := by
  refine ⟨fun d a n im up => ?_, ?_⟩
  · exact ⟨decode_sAddi d a im, decode_sAndi d a im, decode_sOri d a im, decode_sXori d a im, decode_sShli d a n,
      decode_sShri d a n, decode_sSrai d a n, fun k => decode_shift_kind_three d a, fun k => decode_shift_of_other_bits d a,
      decode_sLui d up, decode_sPcrel d up⟩
  · intro s c k j x d a n im up h p
    refine ⟨?_, ?_, ?_, ?_, ?_, ?_, ?_, ?_, ?_⟩
    · exact (exec_sAddi d a im s).trans (scalarWrite_wrote h d _)
    · exact (exec_sAndi d a im s).trans (scalarWrite_wrote h d _)
    · exact (exec_sOri d a im s).trans (scalarWrite_wrote h d _)
    · exact (exec_sXori d a im s).trans (scalarWrite_wrote h d _)
    · exact (exec_sShli d a n s).trans (scalarWrite_shift h d a n (shift := (· <<< ·)) fun _ _ => rfl)
    · exact (exec_sShri d a n s).trans (scalarWrite_shift h d a n (shift := (· >>> ·)) fun _ _ => rfl)
    · exact (exec_sSrai d a n s).trans (scalarWrite_shift h d a n (shift := BitVec.sshiftRight) fun _ _ => rfl)
    · exact (exec_sLui d up s).trans (scalarWrite_wrote h d _)
    · exact (exec_sPcrel d up s).trans (scalarWrite_wrote h d _)

end Sys2Proof.Machine
end

section
/-! The event slots of a sounder: what setting and clearing one bit or one entry leaves, the word of evdisarm, and O13 (R218). -/

namespace Sys2Proof

/-- Reading a table after deleting one key. -/
theorem Tbl.find_del {α : Type} (t : Tbl α) (k m : Nat) : (t.del k).find m = if m = k then none else t.find m := by
  split
  · next h => subst h; exact find_del_self t m
  · next h => exact find_del_ne t h

end Sys2Proof

namespace Sys2Proof.Machine

open Sys2Proof Sys2Proof.Laws

/-- A cleared bit of an event register reads 0 and every other bit as it was. -/
theorem getLsbD_setBit8_false (v : BitVec 8) (n m : Nat) : (setBit8 v n false).getLsbD m = (v.getLsbD m && m != n) := by
  have one : ((1 : BitVec 8) <<< n).getLsbD m = (decide (n < 8) && decide (n = m)) := BitVec.getLsbD_twoPow n m
  simp only [setBit8, Bool.false_eq_true, if_false, BitVec.getLsbD_and, BitVec.getLsbD_not, one]
  by_cases hm : m < 8
  · by_cases e : m = n
    · subst e; simp [hm]
    · simp [hm, e, Ne.symm e]
  · simp [BitVec.getLsbD_of_ge v m (Nat.not_lt.mp hm)]

/-! ## The word of evdisarm -/

/-- The word of major 0x25 with sd and its low 20 bits (R55, R218). -/
def eventWord (e : BitVec 6) (low : Nat) : Nat := 0x25 * 2 ^ 26 + e.toNat * 2 ^ 20 + low

section
variable (e : BitVec 6)

theorem scalarNat_sEvdisarm : scalarNat (.sEvdisarm e) = eventWord e 0x01 := by
  show sw1 20 0x94000001 e.toNat = _
  simp only [sw1, eventWord]; omega

theorem decode_sEvdisarm : decode .scalar (leBytes 4 (eventWord e 0x01)) = .ok (.sEvdisarm e) :=
  decode_of_scalarNat_eq rfl rfl (RoundTrip.sEvdisarm e) (scalarNat_sEvdisarm e)

section
variable {low : Nat} (hl : low < 2 ^ 20) (func : low % 2 ^ 8 = 0x01)
include hl func

/-- The candidate of evdisarm reads sd and the function code, and no other bit (R218). -/
theorem scalarCand_evdisarm : scalarCand (eventWord e low) = .ok (.sEvdisarm e) := by
  have he := e.isLt
  have major : eventWord e low / 2 ^ 26 % 64 = 37 := by rw [eventWord]; omega
  have code : eventWord e low % 256 = 1 := by rw [eventWord]; omega
  have slot : BitVec.ofNat 6 (eventWord e low / 2 ^ 20) = e := field_of _ _ (by rw [eventWord]; omega)
  delta scalarCand
  rw [major, code, slot]
  rfl

theorem decode_evdisarm_of_other_bits (h : low ≠ 0x01) : decode .scalar (leBytes 4 (eventWord e low)) = .illegal 3 := by
  have he := e.isLt
  refine decode_scalar_illegal_of_ne ?_ (scalarCand_evdisarm e hl func) ?_
  · rw [eventWord]; omega
  · rw [scalarNat_sEvdisarm, eventWord, eventWord]; omega

end

/-- sa and sb of evdisarm must be zero (R210). -/
theorem decode_evdisarm_of_registers (a b : BitVec 6) (h : a ≠ 0 ∨ b ≠ 0) :
    decode .scalar (leBytes 4 (eventWord e (a.toNat * 2 ^ 14 + b.toNat * 2 ^ 8 + 0x01))) = .illegal 3 := by
  have ha := a.isLt; have hb := b.isLt
  have registers : a.toNat ≠ 0 ∨ b.toNat ≠ 0 := h.imp BitVec.toNat_ne.mp BitVec.toNat_ne.mp
  exact decode_evdisarm_of_other_bits e (by omega) (by omega) (by omega)

end

/-! ## What evdisarm leaves -/

/-- The sounder with slot `n` disarmed and cleared, at the next word (R218). -/
def Snd.disarmed (x : Snd) (n : Nat) : Snd :=
  { x with evbind := x.evbind.setOr 0 n 0, armed := setBit8 x.armed n false, pending := setBit8 x.pending n false,
           timers := x.timers.del n, pc := x.pc + 4 }

section
variable {s : State} {c k j : Nat} {x : Snd} (h : ScalarAt s c k j x) {e : BitVec 6}
include h

/-- Only slots 0 to 7 exist: a higher number is an illegal instruction with cause 3 (R210). -/
theorem exec_sEvdisarm_no_slot (he : 8 ≤ e.toNat) :
    exec (.sEvdisarm e) s = .next (takeTrap s c k j { cause := 0x01, ill := 3, word := scalarWord s c x }) := by
  rw [exec_sEvdisarm, execSEvdisarm, scalarStep_at h, if_pos he]
  rfl

theorem exec_sEvdisarm_slot (he : e.toNat < 8) :
    exec (.sEvdisarm e) s = .next (s.putSnd c k j (x.disarmed e.toNat)) := by
  rw [exec_sEvdisarm, execSEvdisarm, scalarStep_at h, if_neg (Nat.not_le.mpr he)]
  rfl

end

/-- Settles O13: the word by the round trip of its format and by the bits that its candidate leaves out, the effect by what
clearing one bit or one entry leaves of the others. -/
theorem evdisarmClearsSlot : Obligations.EvdisarmClearsSlot := by
  refine ⟨fun e a b => ⟨decode_sEvdisarm e, decode_evdisarm_of_registers e a b⟩, ?_⟩
  intro s c k j x e h
  refine ⟨exec_sEvdisarm_no_slot h, fun he => ⟨x.disarmed e.toNat, exec_sEvdisarm_slot h he, ?_, ?_, ?_, ?_, rfl, rfl⟩⟩
  · exact getLsbD_setBit8_false x.armed e.toNat
  · exact getLsbD_setBit8_false x.pending e.toNat
  · exact fun n => Tbl.getOr_setOr x.evbind 0 e.toNat n 0
  · exact Tbl.find_del x.timers e.toNat

end Sys2Proof.Machine
end

section
/-! Decode and encode agree for every instruction of the three streams, O57. -/

namespace Sys2Proof.Laws

open Sys2Proof RoundTrip

/-- The round trip of every constructor; an event has no bytes. -/
theorem roundtrips_of_stream_ne_event {i : Instr} (h : i.stream ≠ .event) : Roundtrips i := by
  cases i with
  | sAdd d a b => exact sAdd d a b | sAdd32 d a b => exact sAdd32 d a b | sSub d a b => exact sSub d a b
  | sSub32 d a b => exact sSub32 d a b | sAnd d a b => exact sAnd d a b | sAnd32 d a b => exact sAnd32 d a b
  | sOr d a b => exact sOr d a b | sOr32 d a b => exact sOr32 d a b | sXor d a b => exact sXor d a b
  | sXor32 d a b => exact sXor32 d a b | sShl d a b => exact sShl d a b | sShl32 d a b => exact sShl32 d a b
  | sShr d a b => exact sShr d a b | sShr32 d a b => exact sShr32 d a b | sSra d a b => exact sSra d a b
  | sSra32 d a b => exact sSra32 d a b | sMul d a b => exact sMul d a b | sMul32 d a b => exact sMul32 d a b
  | sMulh d a b => exact sMulh d a b | sMulh32 d a b => exact sMulh32 d a b | sMulhn d a b => exact sMulhn d a b
  | sMulhn32 d a b => exact sMulhn32 d a b | sDiv d a b => exact sDiv d a b | sDiv32 d a b => exact sDiv32 d a b
  | sDivn d a b => exact sDivn d a b | sDivn32 d a b => exact sDivn32 d a b | sRem d a b => exact sRem d a b
  | sRem32 d a b => exact sRem32 d a b | sRemn d a b => exact sRemn d a b | sRemn32 d a b => exact sRemn32 d a b
  | sMin d a b => exact sMin d a b | sMin32 d a b => exact sMin32 d a b | sMax d a b => exact sMax d a b
  | sMax32 d a b => exact sMax32 d a b | sMinn d a b => exact sMinn d a b | sMinn32 d a b => exact sMinn32 d a b
  | sMaxn d a b => exact sMaxn d a b | sMaxn32 d a b => exact sMaxn32 d a b | sAddi d a i => exact sAddi d a i
  | sAndi d a i => exact sAndi d a i | sOri d a i => exact sOri d a i | sXori d a i => exact sXori d a i
  | sShli d a n => exact sShli d a n | sShri d a n => exact sShri d a n | sSrai d a n => exact sSrai d a n
  | sLui d i => exact sLui d i | sPcrel d i => exact sPcrel d i | sCmp d c a b => exact sCmp d c a b
  | sCmpi d c a i => exact sCmpi d c a i | sBc c n o => exact sBc c n o | sJmp o => exact sJmp o
  | sCall o => exact sCall o | sJmpr a => exact sJmpr a | sCallr a => exact sCallr a | sRet => exact sRet
  | sSldI8 d a i => exact sSldI8 d a i | sSldN8 d a i => exact sSldN8 d a i | sSldI16 d a i => exact sSldI16 d a i
  | sSldN16 d a i => exact sSldN16 d a i | sSldI32 d a i => exact sSldI32 d a i | sSldN32 d a i => exact sSldN32 d a i
  | sSldI64 d a i => exact sSldI64 d a i | sSstN8 v a i => exact sSstN8 v a i | sSstN16 v a i => exact sSstN16 v a i
  | sSstN32 v a i => exact sSstN32 v a i | sSstN64 v a i => exact sSstN64 v a i | sLrun k b => exact sLrun k b
  | sLsync => exact sLsync | sSysrd d r => exact sSysrd d r | sSyswr a r => exact sSyswr a r
  | sEvarm j a => exact sEvarm j a | sEvdisarm j => exact sEvdisarm j | sWaitany d => exact sWaitany d
  | sJoin d a => exact sJoin d a | sLeave a => exact sLeave a | sBarArrive d a b => exact sBarArrive d a b
  | sBarWait d a b => exact sBarWait d a b | sBarSync d a => exact sBarSync d a | sMbpost a b => exact sMbpost a b
  | sMbsend d a b => exact sMbsend d a b | sMbrecv d a => exact sMbrecv d a | sSfenceLocal => exact sSfenceLocal
  | sSfenceCore => exact sSfenceCore | sSfencePkg => exact sSfencePkg | sSfenceSys => exact sSfenceSys
  | sSvc a => exact sSvc a | sSndend => exact sSndend | sTret => exact sTret | sOplrd d a b => exact sOplrd d a b
  | sOplrep d a => exact sOplrep d a | sRdtime d => exact sRdtime d | vIadd f => exact vIadd f
  | vIsub f => exact vIsub f | vIaddsat f => exact vIaddsat f | vIsubsat f => exact vIsubsat f
  | vImul f => exact vImul f | vImulhi f => exact vImulhi f | vImad f => exact vImad f | vImin f => exact vImin f
  | vImax f => exact vImax f | vIabs f => exact vIabs f | vIneg f => exact vIneg f | vIdiv f => exact vIdiv f
  | vIrem f => exact vIrem f | vIavg f => exact vIavg f | vIsad f => exact vIsad f | vAnd f => exact vAnd f
  | vOr f => exact vOr f | vXor f => exact vXor f | vNot f => exact vNot f | vAndn f => exact vAndn f
  | vShl f => exact vShl f | vShr f => exact vShr f | vSra f => exact vSra f | vRotl f => exact vRotl f
  | vPopc f => exact vPopc f | vClz f => exact vClz f | vCtz f => exact vCtz f | vBrev f => exact vBrev f
  | vBfext f => exact vBfext f | vBfins f => exact vBfins f | vTlut f => exact vTlut f | vIcmpEq f => exact vIcmpEq f
  | vIcmpNe f => exact vIcmpNe f | vIcmpLt f => exact vIcmpLt f | vIcmpLe f => exact vIcmpLe f
  | vIcmpGt f => exact vIcmpGt f | vIcmpGe f => exact vIcmpGe f | vFadd f => exact vFadd f | vFsub f => exact vFsub f
  | vFmul f => exact vFmul f | vFfma f => exact vFfma f | vFmin f => exact vFmin f | vFmax f => exact vFmax f
  | vFminnum f => exact vFminnum f | vFmaxnum f => exact vFmaxnum f | vFabs f => exact vFabs f
  | vFneg f => exact vFneg f | vFcopysign f => exact vFcopysign f | vFclass f => exact vFclass f
  | vFcmpEq f => exact vFcmpEq f | vFcmpNe f => exact vFcmpNe f | vFcmpLt f => exact vFcmpLt f
  | vFcmpLe f => exact vFcmpLe f | vFcmpGt f => exact vFcmpGt f | vFcmpGe f => exact vFcmpGe f
  | vFcmpUn f => exact vFcmpUn f | vFcmpOrd f => exact vFcmpOrd f | vRcp f => exact vRcp f | vRsq f => exact vRsq f
  | vSqrt f => exact vSqrt f | vDiv f => exact vDiv f | vExp2 f => exact vExp2 f | vLog2 f => exact vLog2 f
  | vCvt src f => exact vCvt src f | vFrint f => exact vFrint f | vQnt f => exact vQnt f | vDqnt f => exact vDqnt f
  | vQscale f => exact vQscale f | vPand f => exact vPand f | vPor f => exact vPor f | vPxor f => exact vPxor f
  | vPandn f => exact vPandn f | vPnot f => exact vPnot f | vPmov f => exact vPmov f | vPfromv f => exact vPfromv f
  | vPvec f => exact vPvec f | vPfirst f => exact vPfirst f | vMov f => exact vMov f | vSel f => exact vSel f
  | vLidx f => exact vLidx f | vLxor f => exact vLxor f | vLrot f => exact vLrot f | vBcast f => exact vBcast f
  | vRadd f => exact vRadd f | vRmin f => exact vRmin f | vRmax f => exact vRmax f | vRand f => exact vRand f
  | vRor f => exact vRor f | vRxor f => exact vRxor f | vDp4 f => exact vDp4 f | vDp2 f => exact vDp2 f
  | vIaddI f => exact vIaddI f | vIsubI f => exact vIsubI f | vIaddsatI f => exact vIaddsatI f
  | vIsubsatI f => exact vIsubsatI f | vImulI f => exact vImulI f | vIminI f => exact vIminI f
  | vImaxI f => exact vImaxI f | vAndI f => exact vAndI f | vOrI f => exact vOrI f | vXorI f => exact vXorI f
  | vShlI f => exact vShlI f | vShrI f => exact vShrI f | vSraI f => exact vSraI f | vRotlI f => exact vRotlI f
  | vBfextI f => exact vBfextI f | vIcmpEqI f => exact vIcmpEqI f | vIcmpNeI f => exact vIcmpNeI f
  | vIcmpLtI f => exact vIcmpLtI f | vIcmpLeI f => exact vIcmpLeI f | vIcmpGtI f => exact vIcmpGtI f
  | vIcmpGeI f => exact vIcmpGeI f | vFaddI f => exact vFaddI f | vFmulI f => exact vFmulI f
  | vFfmaI f => exact vFfmaI f | vFminI f => exact vFminI f | vFmaxI f => exact vFmaxI f
  | vFcmpEqI f => exact vFcmpEqI f | vFcmpNeI f => exact vFcmpNeI f | vFcmpLtI f => exact vFcmpLtI f
  | vFcmpLeI f => exact vFcmpLeI f | vFcmpGtI f => exact vFcmpGtI f | vFcmpGeI f => exact vFcmpGeI f
  | vFcmpUnI f => exact vFcmpUnI f | vFcmpOrdI f => exact vFcmpOrdI f | vMovI f => exact vMovI f
  | vSelI f => exact vSelI f | vLidxI f => exact vLidxI f | vLxorI f => exact vLxorI f | vLrotI f => exact vLrotI f
  | vBcastI f => exact vBcastI f | vSpld f => exact vSpld f | vSpst f => exact vSpst f | vGld f => exact vGld f
  | vGst f => exact vGst f | vGprefetch f => exact vGprefetch f | vAadd scope f => exact vAadd scope f
  | vAmin scope f => exact vAmin scope f | vAmax scope f => exact vAmax scope f | vAand scope f => exact vAand scope f
  | vAor scope f => exact vAor scope f | vAxor scope f => exact vAxor scope f | vAxchg scope f => exact vAxchg scope f
  | vAcas scope f => exact vAcas scope f | vAfadd scope f => exact vAfadd scope f | vAppend f => exact vAppend f
  | vFenceCore f => exact vFenceCore f | vFencePkg f => exact vFencePkg f | vFenceSys f => exact vFenceSys f
  | vFenceEng f => exact vFenceEng f | vCopy f => exact vCopy f | vCopyFo f => exact vCopyFo f
  | vCbset f => exact vCbset f | vCbpush f => exact vCbpush f | vCbpop f => exact vCbpop f
  | vCbstat f => exact vCbstat f | vMldw f => exact vMldw f | vMswap f => exact vMswap f
  | vMstream f => exact vMstream f | vMdrain f => exact vMdrain f | vMclear f => exact vMclear f
  | vMperm f => exact vMperm f | vRoute f => exact vRoute f | vCstart f => exact vCstart f | vHwait f => exact vHwait f
  | vHrel f => exact vHrel f | vHstat f => exact vHstat f | vLend f => exact vLend f | vLnop f => exact vLnop f
  | vLbrAny f => exact vLbrAny f | vLbrAll f => exact vLbrAll f | vLjmp f => exact vLjmp f
  | vRegang f => exact vRegang f | vLtrap f => exact vLtrap f | mLi d imm => exact mLi d imm
  | mAddi d a imm => exact mAddi d a imm | mAdd d a b => exact mAdd d a b | mSub d a b => exact mSub d a b
  | mAnd d a b => exact mAnd d a b | mOr d a b => exact mOr d a b | mXor d a b => exact mXor d a b
  | mShl d a b => exact mShl d a b | mShr d a b => exact mShr d a b | mMinn d a b => exact mMinn d a b
  | mBAl off => exact mBAl off | mBEq a b off => exact mBEq a b off | mBNe a b off => exact mBNe a b off
  | mBLtn a b off => exact mBLtn a b off | mBGen a b off => exact mBGen a b off | mBLt a b off => exact mBLt a b off
  | mBGe a b off => exact mBGe a b off | mMatch d pk kinds tmo => exact mMatch d pk kinds tmo
  | mRdh d pk f => exact mRdh d pk f | mRdm d a f => exact mRdm d a f | mMark d pk => exact mMark d pk
  | mHold pk => exact mHold pk | mDrop pk => exact mDrop pk | mStream a b => exact mStream a b
  | mFoldSum d b => exact mFoldSum d b | mFoldMin d b => exact mFoldMin d b | mFoldMax d b => exact mFoldMax d b
  | mFoldQ d b => exact mFoldQ d b | mCombSum pk b lo => exact mCombSum pk b lo
  | mCombMin pk b lo => exact mCombMin pk b lo | mCombMax pk b lo => exact mCombMax pk b lo
  | mFwd pk k a c => exact mFwd pk k a c | mFwdAcc b k a c => exact mFwdAcc b k a c | mDlv a b => exact mDlv a b
  | mDlvPk a pk => exact mDlvPk a pk | mDlvG a pk => exact mDlvG a pk | mTkreq a b => exact mTkreq a b
  | mArrive a status => exact mArrive a status | mEnd => exact mEnd
  | _ => exact absurd rfl h

/-- Settles O57: each constructor of the three streams has its round trip. -/
theorem decodeEncodeAgree : Obligations.DecodeEncodeAgree :=
  fun _ hw hs => roundtrips_of_stream_ne_event hs hw hs

end Sys2Proof.Laws
end

section
/-! The machine as a whole: words of the spec, the state after reset, and what a step executes; O55, O56 and O60. -/

namespace Sys2Proof.Machine

open Sys2Proof Sys2Proof.Laws

/-- Settles O56: the kernel decodes each word. -/
theorem specWordsDecode : Obligations.SpecWordsDecode := by
  unfold Obligations.SpecWordsDecode
  decide +kernel

/-- Settles O60: every field of the reset state is the one stated; the memories list no byte; and no image in the boot flash
verifies. -/
theorem resetState : Obligations.ResetState := by
  have memories : State.reset.MemOk := ⟨rfl, rfl, rfl⟩
  have bytes : ∀ a, State.reset.readPA a = 0 := fun _ => rfl
  exact ⟨rfl, rfl, rfl, rfl, rfl, rfl, rfl, rfl, rfl, rfl, rfl, rfl, rfl, rfl, rfl, memories, bytes, rfl, _, rfl, rfl, rfl⟩

/-! ## What a step executes -/

theorem step_of_fetch_run {s t : State} {i : Instr} (h : fetch (takeAgent s).1 (takeAgent s).2 = .run i t) :
    step s = exec i t := by
  simp only [step, h]

/-- Under a revoked key the fetch of a granted sounder is refused (R413). -/
theorem fetchScalar_revoked {s : State} {c k q j : Nat} {x : Snd} (hc : issuingCtx s k = some c)
    (hg : (s.coreOf k).scalPort.find q = some j) (hx : s.snd? c k j = some x) (hm : x.mayIssue = true)
    (hw : x.wait.issues = true) (hr : revoked s c = true) :
    fetchScalar s k q = .idle (haltRevoked (dropScalGrant s k q) c x.idx k 0 x.pc) := by
  have hx' : (dropScalGrant s k q).snd? c k j = some x := hx
  have hr' : revoked (dropScalGrant s k q) c = true := hr
  simp only [fetchScalar, hc, hg, hx', hm, hw, hr', Bool.and_true, if_true]

theorem fetchScalarWord_ok {s : State} {c k j : Nat} {x : Snd} {i : Instr} (hp : x.pc < scalarSize s c x)
    (hd : decodeScalar (BitVec.ofNat 32 (scalarWord s c x)) = .ok i) :
    fetchScalarWord s c k j x = .run i { s with cur := .scalar c k j } := by
  rw [fetchScalarWord, if_pos hp, hd]

theorem fetchScalarWord_illegal {s : State} {c k j cause : Nat} {x : Snd} (hp : x.pc < scalarSize s c x)
    (hd : decodeScalar (BitVec.ofNat 32 (scalarWord s c x)) = .illegal cause) :
    fetchScalarWord s c k j x = .idle (scalarTrap s c k j x 0x01 (ill := cause)) := by
  rw [fetchScalarWord, if_pos hp, hd]

/-- A join set that the lane port has chosen fetches its word once the grant is used up (R284). -/
theorem fetchLane_granted {s : State} {c k q g : Nat} {x : Snd} {b : Block} {e : Nat × Nat} (hc : issuingCtx s k = some c)
    (hg : (s.coreOf k).lanePort.find q = some g) (hx : s.snd? c k (g / 32) = some x) (hm : x.mayIssue = true)
    (hb : x.runningBlock = some b) (he : (joinSets x).find? (fun y => y.1 == g % 32) = some e) (hr : revoked s c = false) :
    fetchLane s k q = fetchLaneWord (dropLaneGrant s k q) c k (g / 32) e.2 x b := by
  have hx' : (dropLaneGrant s k q).snd? c k (g / 32) = some x := hx
  have hr' : revoked (dropLaneGrant s k q) c = false := hr
  simp [fetchLane, hc, hg, hx', hm, hb, he, hr']

theorem fetchLaneWord_ok {s : State} {c k j slices : Nat} {x : Snd} {b : Block} {i : Instr}
    (h1 : b.entry ≤ (x.slices.getOr Slice.reset (lowSlice slices)).pc)
    (h2 : (x.slices.getOr Slice.reset (lowSlice slices)).pc < b.entry + b.len)
    (hd : decodeLane (BitVec.ofNat 96 (laneWordAt s c x (x.slices.getOr Slice.reset (lowSlice slices)).pc)) = .ok i) :
    fetchLaneWord s c k j slices x b = .run i { s with cur := .lane c k j slices } := by
  rw [fetchLaneWord, if_neg (by omega), hd]

theorem fetchMcf_ok {s : State} {port ctx cid w : Nat} {e : CollEntry} {t : Thread} {i : Instr}
    (he : s.entry? ctx cid = some e) (ht : s.thread? port ctx cid = some t) (hw : e.prog[t.pc]? = some w)
    (hd : decodeMcf (BitVec.ofNat 64 w) = .ok i) : fetchMcf s port ctx cid = .run i { s with cur := .mcf port ctx cid } := by
  simp only [fetchMcf, he, ht, hw, hd]

/-- The bytes of a word give back the bits that a stream's decoder reads. -/
theorem ofNat_leNat_leBytes (n w : Nat) :
    BitVec.ofNat (8 * n) (leNat ((leBytes n w).take n)) = BitVec.ofNat (8 * n) w := by
  apply BitVec.eq_of_toNat_eq
  rw [take_leBytes, leNat_leBytes, BitVec.toNat_ofNat, BitVec.toNat_ofNat, Nat.pow_mul, Nat.mod_mod]

theorem decode_scalar_bytes (w : Nat) : decode .scalar (leBytes 4 w) = decodeScalar (BitVec.ofNat 32 w) :=
  congrArg decodeScalar (ofNat_leNat_leBytes 4 w)

theorem decode_lane_bytes (w : Nat) : decode .lane (leBytes 12 w) = decodeLane (BitVec.ofNat 96 w) :=
  congrArg decodeLane (ofNat_leNat_leBytes 12 w)

theorem decode_mcf_bytes (w : Nat) : decode .mcf (leBytes 8 w) = decodeMcf (BitVec.ofNat 64 w) :=
  congrArg decodeMcf (ofNat_leNat_leBytes 8 w)

/-- Settles O55: the agent at the head of the agenda fetches, and what it has fetched is executed. -/
theorem stepRunsDecodedInstruction : Obligations.StepRunsDecodedInstruction := by
  intro s rest i c k q j x u
  refine ⟨fun ha hc hg hx hm hw => ⟨fun hr => ?_, fun hr hp => ⟨fun hd => ?_, fun cause hd => ?_⟩⟩,
    ?_, fun e t w ha he ht hw hd => ?_, fun ha hs => ⟨fun h => ?_, fun h h' => ?_⟩⟩
  · apply step_of_fetch_idle
    rw [takeAgent_cons ha]
    exact fetchScalar_revoked (s := u) hc hg hx hm hw hr
  · rw [decode_scalar_bytes] at hd
    apply step_of_fetch_run
    rw [takeAgent_cons ha]
    exact (fetchScalar_granted (s := u) hc hg hx hm hw hr).trans (fetchScalarWord_ok hp hd)
  · rw [decode_scalar_bytes] at hd
    apply step_of_fetch_idle
    rw [takeAgent_cons ha]
    exact (fetchScalar_granted (s := u) hc hg hx hm hw hr).trans (fetchScalarWord_illegal hp hd)
  · intro g b e ha hc hg hx hm hb he pc hr h1 h2 hd
    rw [decode_lane_bytes] at hd
    apply step_of_fetch_run
    rw [takeAgent_cons ha]
    exact (fetchLane_granted (s := u) hc hg hx hm hb he hr).trans (fetchLaneWord_ok h1 h2 hd)
  · rw [decode_mcf_bytes] at hd
    apply step_of_fetch_run
    rw [takeAgent_cons ha]
    exact fetchMcf_ok (s := u) he ht hw hd
  · apply step_of_fetch_run
    rw [takeAgent_cons ha]
    exact if_pos ⟨hs, h⟩
  · apply step_of_fetch_idle
    rw [takeAgent_cons ha]
    exact if_neg (by simp [h, h'])

end Sys2Proof.Machine
end

section
/-! A state in which a step stops: hwait is executed again for a sounder whose running block is in no queue; O59. -/

namespace Sys2Proof.Machine

open Sys2Proof

/-- A sounder that runs a block and has none queued: its slices stand at hwait of k0 and k1, and the event that ends the wait
is next. -/
noncomputable def blocklessWait : State :=
  let s := placeWord State.reset .lane (0x3500 * 2 ^ 80 + 640 * 2 ^ 60 + 641 * 2 ^ 50)
  { s.modSnd 0 0 0 (fun x => { x with queue := [] }) with
    agenda := [.event (.eHwaitReturn 0 0 0 1)], plat := { s.plat with step := 1 } }

/-- HWAIT_RETURN asks that the sounder runs, not that its block is there, and so executes hwait without a party. -/
theorem step_blocklessWait : step blocklessWait = .fault .noParty := rfl

/-- Refutes O59: no next state follows `blocklessWait`, in which a sounder runs a block that its queue does not hold. -/
theorem not_everyStepAnswers : ¬ Obligations.EveryStepAnswers := by
  intro h
  obtain ⟨t, ht⟩ := h blocklessWait
  rw [step_blocklessWait] at ht
  cases ht

end Sys2Proof.Machine
end

section
/-! The memories stay canonical: state, records, halts, traps and lane operands. Physical memory, the host's memory and
the service's memory are written by `writePA`, `writeHost`, `writeService` and the two clearings of the service's memory
alone; each function that answers a state therefore keeps them canonical because what it calls does. -/

namespace Sys2Proof.Machine

open Sys2Proof State

/-! Results that carry a state carry one whose memories are canonical. -/
def Load.MemOk : Load → Prop
  | .ok s _ => s.MemOk
  | _ => True
def SrcRes.MemOk : SrcRes → Prop
  | .wait s _ => s.MemOk
  | _ => True
def DlvRes.MemOk : DlvRes → Prop
  | .done s | .remote s | .later s => s.MemOk
  | _ => True
def Start.MemOk : Start → Prop
  | .ok s => s.MemOk
  | _ => True
def Move.MemOk : Move → Prop
  | .go s => s.MemOk
  | _ => True
def EngWrite.MemOk : EngWrite → Prop
  | .done s _ => s.MemOk
  | _ => True
def WinRes.MemOk : WinRes → Prop
  | .ok s _ | .nack s _ | .retry s => s.MemOk
def MailRead.MemOk : MailRead → Prop
  | .done s _ | .away s _ _ _ _ _ | .fault s _ _ _ => s.MemOk
def McfRes.MemOk : McfRes → Prop
  | .next s _ | .wait s _ | .error s | .fault s _ _ _ _ => s.MemOk
def Fetched.MemOk : Fetched → Prop
  | .idle s | .run _ s => s.MemOk

theorem memOk_putCC (s : State) (ctx core : Nat) (x : CtxCore) (h : s.MemOk) : (State.putCC s ctx core x).MemOk := h
theorem memOk_modCC (s : State) (ctx core : Nat) (f : CtxCore → CtxCore) (h : s.MemOk) : (State.modCC s ctx core f).MemOk := h
theorem memOk_putCore (s : State) (c : Nat) (x : Core) (h : s.MemOk) : (State.putCore s c x).MemOk := h
theorem memOk_modCore (s : State) (c : Nat) (f : Core → Core) (h : s.MemOk) : (State.modCore s c f).MemOk := h
theorem memOk_putSnd (s : State) (ctx core slot : Nat) (x : Snd) (h : s.MemOk) : (State.putSnd s ctx core slot x).MemOk := h
theorem memOk_modSnd (s : State) (ctx core slot : Nat) (f : Snd → Snd) (h : s.MemOk) :
    (State.modSnd s ctx core slot f).MemOk := by
  unfold State.modSnd
  split <;> exact h
theorem memOk_putCtx (s : State) (ctx : Nat) (x : Ctx) (h : s.MemOk) : (State.putCtx s ctx x).MemOk := h
theorem memOk_modCtx (s : State) (ctx : Nat) (f : Ctx → Ctx) (h : s.MemOk) : (State.modCtx s ctx f).MemOk := h
theorem memOk_modLaunch (s : State) (l : Nat) (f : Launch → Launch) (h : s.MemOk) : (State.modLaunch s l f).MemOk := h
theorem memOk_putPort (s : State) (p : Nat) (x : Port) (h : s.MemOk) : (State.putPort s p x).MemOk := h
theorem memOk_modPort (s : State) (p : Nat) (f : Port → Port) (h : s.MemOk) : (State.modPort s p f).MemOk := h
theorem memOk_putThread (s : State) (port ctx entry : Nat) (t : Thread) (h : s.MemOk) :
    (State.putThread s port ctx entry t).MemOk := h
theorem memOk_modEntry (s : State) (ctx entry : Nat) (f : CollEntry → CollEntry) (h : s.MemOk) :
    (State.modEntry s ctx entry f).MemOk := h
theorem memOk_freeBit (s : State) (h : s.MemOk) : (State.freeBit s).2.MemOk := h
theorem memOk_freeWord (s : State) (h : s.MemOk) : (State.freeWord s).2.MemOk := h
theorem memOk_send (s : State) (m : OutMsg) (h : s.MemOk) : (State.send s m).MemOk := h
theorem memOk_countSealed (s : State) (p : Nat) (h : s.MemOk) : (State.countSealed s p).MemOk := h
theorem memOk_emit (s : State) (m : OutMsg) (h : s.MemOk) : (State.emit s m).MemOk := by
  grind [State.emit, memOk_countSealed, memOk_modPort, memOk_send]
theorem memOk_emitKept (s : State) (p : Nat) (h : s.MemOk) : (State.emitKept s p).MemOk := by
  grind [State.emitKept, memOk_emit, memOk_foldl, memOk_modPort]
theorem memOk_sendOp (s : State) (m : OutMsg) (h : s.MemOk) : (State.sendOp s m).MemOk := by
  grind [State.sendOp, State.MemOk, memOk_emit]
theorem memOk_nextSeq (s : State) (key : Nat) (h : s.MemOk) : (State.nextSeq s key).2.MemOk := h
theorem memOk_sendNext (s : State) (m : OutMsg) (h : s.MemOk) : (State.sendNext s m).MemOk := by
  grind [State.sendNext, memOk_nextSeq, memOk_sendOp]
theorem memOk_forget (s : State) (lo n : Nat) (h : s.MemOk) : (State.forget s lo n).MemOk := h
theorem memOk_veil (s : State) (since : Nat) (released : Bool) (core launch : Nat) (h : s.MemOk) :
    (State.veil s since released core launch).MemOk := by
  unfold State.veil
  split <;> exact h
theorem memOk_unveil (s : State) (launch : Nat) (h : s.MemOk) : (State.unveil s launch).MemOk := h
theorem memOk_sees (s : State) (core pa n : Nat) (h : s.MemOk) : (State.sees s core pa n).MemOk := h
theorem memOk_readAs (s : State) (core pa n : Nat) (h : s.MemOk) : (State.readAs s core pa n).1.MemOk := by
  grind [State.readAs, State.MemOk, memOk_freeBit, memOk_sees]
theorem memOk_bumpBank (s : State) (core b : Nat) (h : s.MemOk) : (bumpBank s core b).MemOk := h
theorem memOk_countError (s : State) (k : Nat) (h : s.MemOk) : (countError s k).MemOk := h
theorem memOk_occur (s : State) (ctx core kind obj : Nat) (h : s.MemOk) : (occur s ctx core kind obj).MemOk := h
theorem memOk_notify (s : State) (part type action ctx va page count recw : Nat) (h : s.MemOk) :
    (notify s part type action ctx va page count recw).MemOk := by
  grind [notify, State.MemOk, memOk_writeHost]
theorem memOk_flushNotes (part : Nat) (l : List (List Byte)) (s : State) (h : s.MemOk) : (flushNotes s part l).MemOk := by
  induction l generalizing s with
  | nil => exact h
  | cons b l ih => grind [flushNotes, State.MemOk, memOk_writeHost]
theorem memOk_flushRings (s : State) (h : s.MemOk) : (flushRings s).MemOk := by
  grind [flushRings, memOk_flushNotes, memOk_foldl]
theorem memOk_hostWrite (s : State) (a : Nat) (bs : List Byte) (h : s.MemOk) : (hostWrite s a bs).MemOk := by
  grind [hostWrite, memOk_flushRings, memOk_writeHost]
theorem memOk_dropCompletion (s : State) (u0 : Sender) (h : s.MemOk) : (dropCompletion s u0).MemOk := by
  unfold dropCompletion
  split <;> exact h
theorem memOk_wake (s : State) (ctx core : Nat) (h : s.MemOk) : (wake s ctx core).MemOk := by
  unfold wake
  split <;> exact h
theorem memOk_putBarrier (s : State) (ctx core b : Nat) (x : Barrier) (h : s.MemOk) : (putBarrier s ctx core b x).MemOk := h
theorem memOk_completePhase (s : State) (ctx core b : Nat) (h : s.MemOk) : (completePhase s ctx core b).MemOk := h
theorem memOk_testPhase (s : State) (ctx core b : Nat) (h : s.MemOk) : (testPhase s ctx core b).MemOk := by
  grind [testPhase, memOk_completePhase]
theorem memOk_engineArrive (s : State) (ctx ref status : Nat) (from_ : Sender) (h : s.MemOk) :
    (engineArrive s ctx ref status from_).MemOk := by
  grind [engineArrive, memOk_dropCompletion, memOk_noteRecord, memOk_putBarrier, memOk_testPhase, memOk_wake]
theorem memOk_moveHandle (s : State) (ctx core h : Nat) (x : Handle) (hs : s.MemOk) : (moveHandle s ctx core h x).MemOk := by
  grind [moveHandle, memOk_modCC, memOk_occur, memOk_wake]
theorem memOk_completeHandle (s : State) (ctx core h : Nat) (x : Handle) (from_ : Sender) (hs : s.MemOk) :
    (completeHandle s ctx core h x from_).MemOk := by
  grind [completeHandle, memOk_dropCompletion, memOk_moveHandle]
theorem memOk_doorbell (s : State) (q tail : Nat) (h : s.MemOk) : (doorbell s q tail).MemOk := by
  unfold doorbell
  split <;> exact h
theorem memOk_ringControl (s : State) (off : Nat) (bs : List Byte) (h : s.MemOk) : (ringControl s off bs).MemOk := by
  grind [ringControl, memOk_doorbell]
theorem memOk_writeStat (s : State) (ctx queue addr v pkt status : Nat) (h : s.MemOk) :
    (writeStat s ctx queue addr v pkt status).1.MemOk := by
  grind [writeStat, memOk_freeBit, memOk_ringControl, memOk_sendOp, memOk_storeMem]
theorem memOk_signalRest (s : State) (ctx pkt status : Nat) (h : s.MemOk) : (signalRest s ctx pkt status).MemOk := by
  grind [signalRest, memOk_engineArrive, memOk_send]
theorem memOk_signalNode (s : State) (ctx queue qindex pkt status : Nat) (h : s.MemOk) :
    (signalNode s ctx queue qindex pkt status).MemOk := by
  grind [signalNode, memOk_noteRecord, memOk_signalRest, memOk_writeStat]
theorem memOk_completeNode (s : State) (id status : Nat) (h : s.MemOk) : (completeNode s id status).MemOk := by
  grind [completeNode, State.MemOk, memOk_signalNode]
theorem memOk_absentMember (s : State) (ctx entry m : Nat) (h : s.MemOk) : (absentMember s ctx entry m).MemOk := h
theorem memOk_makeAbsent (s : State) (ctx : Nat) (h : s.MemOk) : (makeAbsent s ctx).MemOk := by
  grind [makeAbsent, memOk_absentMember, memOk_foldl, memOk_send]
theorem memOk_stopCtx (s : State) (ctx : Nat) (h : s.MemOk) : (stopCtx s ctx).MemOk := by
  grind [stopCtx, State.MemOk, memOk_completeNode, memOk_foldl, memOk_makeAbsent, memOk_modCC, memOk_modCtx]
theorem memOk_putRecord_getD (s : State) (ctx : Nat) (r : RecHdr) (body : Nat) (h : s.MemOk) :
    ((putRecord s ctx r body).getD s).MemOk := by
  cases ht : putRecord s ctx r body with
  | none => exact h
  | some t => exact memOk_putRecord s t ctx r body h ht
theorem memOk_haltCtx (s : State) (ctx why snd core unit body : Nat) (h : s.MemOk) :
    (haltCtx s ctx why snd core unit body).MemOk := by
  grind [haltCtx, memOk_putRecord_getD, memOk_notify, memOk_stopCtx]
theorem memOk_haltRevoked (s : State) (ctx snd core unit addr : Nat) (h : s.MemOk) :
    (haltRevoked s ctx snd core unit addr).MemOk := by
  exact memOk_haltCtx _ _ _ _ _ _ _ h
theorem memOk_storeLoc (s : State) (ctx core wid : Nat) (bs : List Byte) (l : Loc) (h : s.MemOk) :
    (storeLoc s ctx core wid bs l).MemOk := by
  cases l <;> grind [storeLoc, memOk_storeMem, memOk_writeSP, memOk_ringControl]
theorem memOk_poisonLoc (s : State) (ctx core : Nat) (l : Loc) (h : s.MemOk) : (poisonLoc s ctx core l).MemOk := by
  grind [poisonLoc, State.MemOk, memOk_countError]
theorem memOk_placementRecord (s : State) (ctx va pkg : Nat) (h : s.MemOk) : (placementRecord s ctx va pkg).MemOk := by
  grind [placementRecord, memOk_modCtx, memOk_putRecord]
theorem memOk_placeRow (ctx wid n : Nat) (row : List Byte) (va : Nat) (s : State) (h : s.MemOk) {t : State}
    (ht : placeRow s ctx wid n row va = .ok t) : t.MemOk := by
  induction n generalizing s row va with
  | zero => cases ht; exact h
  | succ n ih => grind [placeRow, memOk_storeMem]
theorem memOk_appendAt (s : State) (ctx hdr wid pkg : Nat) (row : List Byte) (h : s.MemOk) :
    (appendAt s ctx hdr wid pkg row).1.MemOk := by
  grind [appendAt, memOk_placeRow, memOk_placementRecord, memOk_storeMem]
theorem memOk_accessLocal (s : State) (ctx core : Nat) (e : LogEntry) (la : LaneAcc) (ue : Bool) (h : s.MemOk) :
    (accessLocal s ctx core e la ue).1.MemOk := by
  grind [accessLocal, memOk_appendAt, memOk_poisonLoc, memOk_readAs, memOk_storeLoc]
theorem memOk_performNext (s : State) (ctx core slot k : Nat) (ue : Bool) (h : s.MemOk) :
    (performNext s ctx core slot k ue).MemOk := by
  unfold performNext
  repeat' split
  all_goals grind [memOk_accessLocal, memOk_freeBit, memOk_haltRevoked, memOk_modSnd, memOk_putSnd, memOk_sendOp]
theorem memOk_performLanes (ctx core slot k n : Nat) (s : State) (h : s.MemOk) : (performLanes s ctx core slot k n).MemOk := by
  induction n generalizing s with
  | zero => exact h
  | succ n ih => exact ih _ (memOk_performNext _ _ _ _ _ _ h)
theorem memOk_answerLane (s : State) (ctx core slot k lane : Nat) (r : Reply) (h : s.MemOk) :
    (answerLane s ctx core slot k lane r).MemOk := by
  grind [answerLane, memOk_foldl, memOk_putSnd]
theorem memOk_rehearse (s : State) (ctx core slot k : Nat) (again : Bool) (h : s.MemOk) :
    (rehearse s ctx core slot k again).MemOk := by
  grind [rehearse, memOk_putSnd]
theorem memOk_leaveDrey (s : State) (ctx ref rank : Nat) (status : BitVec 8) (h : s.MemOk) :
    (leaveDrey s ctx ref rank status).MemOk := by
  grind [leaveDrey, memOk_completePhase, memOk_putBarrier, memOk_testPhase]
theorem memOk_endSounder (s : State) (ctx core slot : Nat) (status : BitVec 8) (h : s.MemOk) :
    (endSounder s ctx core slot status).MemOk := by
  grind [endSounder, memOk_foldl, memOk_leaveDrey, memOk_modCC, memOk_modLaunch]
theorem memOk_dropScalarLoads (s : State) (ctx core slot : Nat) (h : s.MemOk) : (dropScalarLoads s ctx core slot).MemOk := h
theorem memOk_takeTrap (s : State) (ctx core slot : Nat) (t : TrapInfo) (h : s.MemOk) : (takeTrap s ctx core slot t).MemOk := by
  grind [takeTrap, memOk_dropScalarLoads, memOk_haltCtx, memOk_putSnd, memOk_writeVirt]
theorem memOk_replayHeld (s : State) (ctx core slot : Nat) (h : s.MemOk) : (replayHeld s ctx core slot).MemOk := by
  grind [replayHeld, memOk_foldl, memOk_performLanes, memOk_rehearse]
theorem memOk_tretAct (s : State) (ctx core slot resume : Nat) (h : s.MemOk) : (tretAct s ctx core slot resume).MemOk := by
  grind [tretAct, memOk_endSounder, memOk_putSnd, memOk_replayHeld]
theorem memOk_sendUp (s : State) (ctx core slot : Nat) (h : s.MemOk) : (sendUp s ctx core slot).MemOk := by
  unfold sendUp
  split
  · split
    · exact h
    · dsimp only
      split
      · exact h
      · next t ht => exact memOk_putRecord s t _ _ _ h ht
  · exact h
theorem memOk_scalarTrap (s : State) (c k j : Nat) (x : Snd) (cause : Nat) (ill : Nat) (addr : Nat) (info : Nat)
    (h : s.MemOk) : (scalarTrap s c k j x cause ill addr info).MemOk := by
  grind [scalarTrap, memOk_takeTrap]
theorem memOk_transfer (s : State) (c k j : Nat) (x y : Snd) (target : Word) (h : s.MemOk) :
    (transfer s c k j x y target).MemOk := by
  grind [transfer, memOk_putSnd, memOk_scalarTrap]
theorem memOk_trap (i : Issue) (s : State) (cause : Nat) (ill src fpexc : Nat) (lane : Option Nat) (addr info : Nat)
    (words : Nat) (h : s.MemOk) : (Issue.trap i s cause ill src fpexc lane addr info words).MemOk := by
  grind [Issue.trap, memOk_takeTrap]
theorem memOk_shareFull (s : State) (ctx core slot n p : Nat) (h : s.MemOk) : (Issue.shareFull s ctx core slot n p).MemOk := by
  grind [Issue.shareFull, memOk_putSnd]
theorem memOk_freshPhys (s : State) (ctx core : Nat) (h : s.MemOk) : (Issue.freshPhys s ctx core).1.MemOk := h
theorem memOk_bindNew (s : State) (ctx core slot n : Nat) (h : s.MemOk) : (Issue.bindNew s ctx core slot n).1.MemOk := by
  grind [Issue.bindNew, memOk_freshPhys, memOk_modSnd]
theorem memOk_bindEach (ctx core slot : Nat) (l : List Nat) (s : State) (h : s.MemOk) :
    (Issue.bindEach s ctx core slot l).1.MemOk := by
  induction l generalizing s with
  | nil => exact h
  | cons n l ih => exact ih _ (memOk_bindNew s ctx core slot n h)
theorem memOk_bindResult (i : Issue) (s : State) (h : s.MemOk) : (Issue.bindResult i s).1.MemOk := by
  grind [Issue.bindResult, memOk_bindEach, memOk_foldl, memOk_shareFull]
theorem memOk_book (i : Issue) (s : State) (use : Bool) (key : List Nat) (flags : Nat) (h : s.MemOk) :
    (Issue.book i s use key flags).MemOk := by
  grind [Issue.book, memOk_bindResult, memOk_modCore, memOk_modSnd]
theorem memOk_openFill (s : State) (ctx core slot n : Nat) (hi : Bool) (lanes : List Nat) (engine hand : Bool)
    (memo : Option Memo) (share : Bool) (h : s.MemOk) :
    (Issue.openFill s ctx core slot n hi lanes engine hand memo share).1.MemOk := by
  grind [Issue.openFill, memOk_freshPhys, memOk_putSnd]
theorem memOk_installLoad (s : State) (ctx core slot p q : Nat) (m : Option Memo) (h : s.MemOk) :
    (Issue.installLoad s ctx core slot p q m).MemOk := by
  cases m with
  | none => exact h
  | some m => grind [Issue.installLoad, memOk_modCore, memOk_modSnd]
theorem memOk_fillOne (s : State) (ctx core slot : Nat) (k : Nat) (h : s.MemOk) : (Issue.fillOne s ctx core slot k).MemOk := by
  grind [Issue.fillOne, State.MemOk, memOk_foldl, memOk_installLoad, memOk_putSnd, memOk_shareFull]
theorem memOk_fillWrite (s : State) (ctx core slot k : Nat) (h : s.MemOk) : (Issue.fillWrite s ctx core slot k).MemOk := by
  grind [Issue.fillWrite, memOk_fillOne, memOk_foldl]
theorem memOk_retire (i : Issue) (s : State) (n : Nat) (h : s.MemOk) : (Issue.retire i s n).MemOk := by
  grind [Issue.retire, State.MemOk, memOk_modSnd]
theorem memOk_execTrap (i : Issue) (s : State) (cause : Nat) (fpexc : Nat) (h : s.MemOk) :
    (Issue.execTrap i s cause fpexc).MemOk := by
  grind [Issue.execTrap, memOk_modSnd, memOk_trap]
theorem memOk_fpTrap (i : Issue) (s : State) (u : Nat) (h : s.MemOk) : (Issue.fpTrap i s u).MemOk := by
  grind [Issue.fpTrap, memOk_execTrap]
theorem memOk_commit (i : Issue) (s : State) (rs : List (Nat × Nat)) (h : s.MemOk) : (Issue.commit i s rs).MemOk := by
  grind [Issue.commit, memOk_book, memOk_modSnd, memOk_retire]
theorem memOk_finish (i : Issue) (s : State) (rs : List (Nat × Nat)) (h : s.MemOk) : (Issue.finish i s rs).MemOk := by
  grind [Issue.finish, memOk_commit, memOk_fpTrap]
theorem memOk_modSlices (i : Issue) (s : State) (f : Nat → Slice → Slice) (h : s.MemOk) : (Issue.modSlices i s f).MemOk := by
  grind [Issue.modSlices, memOk_modSnd]
theorem memOk_branch (i : Issue) (s : State) (taken : Nat) (h : s.MemOk) : (Issue.branch i s taken).MemOk := by
  grind [Issue.branch, memOk_modSlices, memOk_modSnd, memOk_retire, memOk_trap]
/-- A fold that carries a list beside the state. -/
theorem memOk_foldl_fst {α β : Type} (f : State × β → α → State × β) (hf : ∀ e a, e.1.MemOk → (f e a).1.MemOk) (l : List α)
    (e : State × β) (h : e.1.MemOk) : (l.foldl f e).1.MemOk := by
  induction l generalizing e with
  | nil => exact h
  | cons a r ih => exact ih _ (hf e a h)

end Sys2Proof.Machine
end

section
/-! The memories stay canonical: lane accesses and the engines. -/

namespace Sys2Proof.Machine

open Sys2Proof State

theorem memOk_startFills (i : Issue) (s : State) (memo : Option (List Nat)) (h : s.MemOk) : (i.startFills s memo).1.MemOk := by
  refine memOk_foldl_fst _ (fun e a he => ?_) _ (s, []) h
  exact memOk_openFill e.1 _ _ _ _ _ _ _ _ _ _ he
theorem memOk_takeHit (i : Issue) (s : State) (m : Memo) (h : s.MemOk) : (Issue.takeHit i s m).MemOk := by
  grind [Issue.takeHit, memOk_foldl, memOk_modSnd]
theorem memOk_hold (i : Issue) (s : State) (e : LogEntry) (h : s.MemOk) : (Issue.hold i s e).MemOk := by
  grind [Issue.hold, memOk_modSnd]
theorem memOk_logEntry (i : Issue) (s : State) (k : Nat) (e : LogEntry) (h : s.MemOk) : (Issue.logEntry i s k e).MemOk := by
  grind [Issue.logEntry, memOk_modSnd]
theorem memOk_access (i : Issue) (s : State) (q : Ask) (data new : Nat → Nat) (row : List Byte) (h : s.MemOk) :
    (Issue.access i s q data new row).MemOk := by
  grind [Issue.access, memOk_hold, memOk_logEntry, memOk_modSnd, memOk_retire, memOk_startFills, memOk_takeHit, memOk_trap]
theorem memOk_engFence (i : Issue) (s : State) (h : s.MemOk) : (Issue.engFence i s).MemOk := by
  grind [Issue.engFence, memOk_foldl, memOk_modSnd]
theorem memOk_putCB (s : State) (ctx core b : Nat) (x : CBuf) (h : s.MemOk) : (putCB s ctx core b x).MemOk := h
theorem memOk_joinArray (s : State) (ctx core : Nat) (m : MatCmd) (h : s.MemOk) : (joinArray s ctx core m).MemOk := h
theorem memOk_handOver (s : State) (ctx core h : Nat) (m : MatCmd) (hs : s.MemOk) : (handOver s ctx core h m).MemOk := by
  grind [handOver, memOk_joinArray, memOk_moveHandle, memOk_noteRecord]
theorem memOk_acceptCopy (s : State) (q : EngReq) (c : Nat) (l : Layout) (o : List Int) (follow : Option MatCmd)
    (h : s.MemOk) : (acceptCopy s q c l o follow).MemOk := by
  have h1 := memOk_moveHandle s q.ctx q.core (c % 256) { state := 1, bytes := 0, err := 0 } h
  unfold acceptCopy
  dsimp only
  split
  · split
    · exact memOk_handOver _ _ _ _ _ (memOk_moveHandle _ _ _ _ _ h1)
    · exact memOk_moveHandle _ _ _ _ _ h1
  · refine memOk_modCC _ _ _ _ (memOk_foldl_fst _ (fun e a he => ?_) _ (_, []) h1)
    exact memOk_openFill e.1 _ _ _ _ _ _ _ _ _ _ he
theorem memOk_acceptRoute (s : State) (q : EngReq) (c : Nat) (p : RoutePar) (l : Layout) (h : s.MemOk) :
    (acceptRoute s q c p l).MemOk := by
  grind [acceptRoute, State.MemOk, memOk_moveHandle]
theorem memOk_trapCheck (i : Issue) (s : State) (c : Nat × Nat) (ill : Nat) (words : Nat) (h : s.MemOk) :
    (Issue.trapCheck i s c ill words).MemOk := by
  grind [Issue.trapCheck, memOk_trap]
theorem memOk_engineIssue (i : Issue) (s : State) (busy : Bool) (check : Check) (waits : Bool) (eff : State) (h : s.MemOk)
    (he : eff.MemOk) : (engineIssue i s busy check waits eff).MemOk := by
  cases check <;> grind [engineIssue, memOk_trapCheck, memOk_retire]
theorem memOk_startByStore (s : State) (ctx cid m : Nat) (h : s.MemOk) : (startByStore s ctx cid m).MemOk := by
  grind [startByStore, memOk_freeWord, memOk_modEntry]
theorem memOk_arriveFor (s : State) (ctx cid m status bar port : Nat) (p : Part) (h : s.MemOk) :
    (arriveFor s ctx cid m status bar port p).MemOk := by
  grind [arriveFor, memOk_engineArrive, memOk_modEntry]
theorem memOk_settleParts (ctx cid m n : Nat) (s : State) (h : s.MemOk) : (settleParts s ctx cid m n).MemOk := by
  induction n generalizing s with
  | zero => exact h
  | succ n ih => grind [settleParts, memOk_arriveFor, memOk_startByStore]
theorem memOk_settleOwed (s : State) (ctx cid m : Nat) (h : s.MemOk) : (settleOwed s ctx cid m).MemOk := by
  grind [settleOwed, memOk_settleParts]
theorem memOk_partDone (s : State) (ctx cid m status port : Nat) (h : s.MemOk) : (partDone s ctx cid m status port).MemOk := by
  grind [partDone, memOk_arriveFor, memOk_settleOwed]
theorem memOk_startPart (s : State) (i : Issue) (q : EngReq) (c cid src dst : Nat) (h : s.MemOk) :
    (startPart s i q c cid src dst).MemOk := by
  grind [startPart, memOk_modEntry, memOk_settleOwed]
theorem memOk_loseCommand (s : State) (q : EngReq) (unit c a : Nat) (h : s.MemOk) : (loseCommand s q unit c a).MemOk := by
  grind [loseCommand, memOk_moveHandle, memOk_noteRecord]
theorem memOk_accept (i : Issue) (s : State) (c : EngCmd) (h : s.MemOk) : (i.accept s c).MemOk := by
  cases c with
  | copy => exact memOk_acceptCopy _ _ _ _ _ _ h
  | mat => exact memOk_joinArray _ _ _ _ h
  | route => exact memOk_acceptRoute _ _ _ _ _ h
  | lost => exact memOk_loseCommand _ _ _ _ _ h
  | start => exact memOk_startPart _ _ _ _ _ _ _ h
theorem memOk_notePassed (i : Issue) (s : State) (c : Option EngCmd) (h : s.MemOk) : (Issue.notePassed i s c).MemOk := by
  grind [Issue.notePassed, memOk_modSnd]
theorem memOk_engineQueue (i : Issue) (s : State) (busy : Bool) (check : Check) (cmd : EngCmd) (words : Nat)
    (h : s.MemOk) : (i.engineQueue s busy check cmd words).MemOk := by
  cases check <;> grind [Issue.engineQueue, memOk_retire, memOk_accept, memOk_notePassed, memOk_trapCheck]
theorem memOk_engWrite1 (s : State) (ctx core wid image : Nat) (o : Origin) (sp : Bool) (a : Nat) (bs : List Byte)
    (h : s.MemOk) : (engWrite1 s ctx core wid image o sp a bs).MemOk := by
  grind [engWrite1, EngWrite.MemOk, memOk_ringControl, memOk_sendOp, memOk_storeMem, memOk_writeSP]
theorem memOk_engWrite (s : State) (ctx core wid image : Nat) (o : Origin) (sp : Bool) (a : Nat) (bs : List Byte)
    (h : s.MemOk) : (engWrite s ctx core wid image o sp a bs).MemOk := by
  grind [engWrite, EngWrite.MemOk, memOk_engWrite1]
theorem memOk_putCopy (s : State) (ctx core : Nat) (c : CopyCmd) (h : s.MemOk) : (putCopy s ctx core c).MemOk := h
theorem memOk_dropCopy (s : State) (ctx core id : Nat) (h : s.MemOk) : (dropCopy s ctx core id).MemOk := h
theorem memOk_giveElem (s : State) (ctx core : Nat) (c : CopyCmd) (h : s.MemOk) : (giveElem s ctx core c).MemOk := by
  grind [giveElem, memOk_modSnd]
theorem memOk_copyStep (s : State) (ctx core : Nat) (c : CopyCmd) (h : s.MemOk) : (copyStep s ctx core c).MemOk := by
  grind [copyStep, State.MemOk, EngWrite.MemOk, Move.MemOk, memOk_engWrite, memOk_giveElem, memOk_putCB, memOk_putCopy,
    memOk_sendOp, memOk_veil]
theorem memOk_settleCopy (s : State) (ctx core : Nat) (c : CopyCmd) (ended : Bool) (h : s.MemOk) :
    (settleCopy s ctx core c ended).MemOk := by
  unfold settleCopy
  dsimp only
  repeat' split
  all_goals first
    | exact h
    | exact memOk_foldl _ (fun s a hs => memOk_fillWrite _ _ _ _ _ (by grind [memOk_modSnd])) _ _ h
theorem memOk_finishCopy (s : State) (ctx core : Nat) (c : CopyCmd) (h : s.MemOk) : (finishCopy s ctx core c).MemOk := by
  grind [finishCopy, memOk_completeHandle, memOk_dropCopy, memOk_handOver, memOk_settleCopy]
theorem memOk_endCopy (s : State) (ctx core : Nat) (c : CopyCmd) (err : Nat) (h : s.MemOk) :
    (endCopy s ctx core c err).MemOk := by
  grind [endCopy, memOk_completeHandle, memOk_dropCopy, memOk_settleCopy]
theorem memOk_runCopy (ctx core id n : Nat) (s : State) (h : s.MemOk) : (runCopy s ctx core id n).MemOk := by
  induction n generalizing s with
  | zero => exact h
  | succ n ih => grind [runCopy, Move.MemOk, memOk_copyStep, memOk_finishCopy]
theorem memOk_fireCopy (s : State) (ctx core : Nat) (h : s.MemOk) : (fireCopy s ctx core).MemOk := by
  grind [fireCopy, memOk_putCB, memOk_putCopy]
theorem memOk_putMat (s : State) (ctx core : Nat) (m : MatCmd) (h : s.MemOk) : (putMat s ctx core m).MemOk := h
theorem memOk_fireArray (s : State) (ctx core : Nat) (h : s.MemOk) : (fireArray s ctx core).MemOk := by
  grind [fireArray, memOk_putCB, memOk_putMat]
theorem memOk_firePop (s : State) (ctx core : Nat) (h : s.MemOk) : (firePop s ctx core).MemOk := by
  unfold firePop
  dsimp only
  repeat' split
  all_goals first
    | exact h
    | exact memOk_foldl _ (fun s a hs => memOk_fillWrite _ _ _ _ _ hs) _ _ h
theorem memOk_fireRoute (s : State) (die : Nat) (h : s.MemOk) : (fireRoute s die).MemOk := by
  grind [fireRoute, State.MemOk]
theorem memOk_leaveArray (s : State) (ctx core : Nat) (m : MatCmd) (h : s.MemOk) : (leaveArray s ctx core m).MemOk := by
  grind [leaveArray, memOk_completeHandle, memOk_modCC, memOk_putCB]
theorem memOk_matEffect (s : State) (ctx core : Nat) (m : MatCmd) (h : s.MemOk) : (matEffect s ctx core m).MemOk := by
  unfold matEffect
  split <;> exact h
theorem memOk_putRoute (s : State) (r : RouteCmd) (h : s.MemOk) : (putRoute s r).MemOk := h
theorem memOk_routeStep (s : State) (r : RouteCmd) (h : s.MemOk) : (routeStep s r).MemOk := by
  grind [routeStep, State.MemOk, EngWrite.MemOk, Move.MemOk, memOk_engWrite, memOk_foldl, memOk_putRoute, memOk_sendOp,
    memOk_veil]
theorem memOk_leaveRoute (s : State) (r : RouteCmd) (err : Nat) (h : s.MemOk) : (leaveRoute s r err).MemOk := by
  grind [leaveRoute, State.MemOk, memOk_completeHandle]
theorem memOk_runRoute (die n : Nat) (s : State) (h : s.MemOk) : (runRoute s die n).MemOk := by
  induction n generalizing s with
  | zero => exact h
  | succ n ih => grind [runRoute, Move.MemOk, memOk_routeStep, memOk_leaveRoute]
theorem memOk_engineRecord (s : State) (ctx core unit snd cause handle addr detail : Nat) (h : s.MemOk) {t : State}
    (ht : engineRecord s ctx core unit snd cause handle addr detail = some t) : t.MemOk := by
  unfold engineRecord at ht
  split at ht
  · obtain ⟨u, hu, rfl⟩ := Option.map_eq_some_iff.1 ht
    exact memOk_putRecord s u _ _ _ h hu
  · cases ht
    exact memOk_noteRecord _ _ _ _ h
theorem memOk_faultCopy (s : State) (ctx core : Nat) (c : CopyCmd) (cause detail addr : Nat) (h : s.MemOk) :
    (faultCopy s ctx core c cause detail addr).MemOk := by
  grind [faultCopy, memOk_endCopy, memOk_engineRecord, memOk_haltRevoked, memOk_putCopy]
theorem memOk_faultRoute (s : State) (r : RouteCmd) (cause detail addr : Nat) (h : s.MemOk) :
    (faultRoute s r cause detail addr).MemOk := by
  grind [faultRoute, memOk_engineRecord, memOk_haltRevoked, memOk_leaveRoute, memOk_putRoute]
theorem memOk_faultArray (s : State) (ctx core : Nat) (m : MatCmd) (addr : Nat) (h : s.MemOk) :
    (faultArray s ctx core m addr).MemOk := by
  grind [faultArray, memOk_leaveArray, memOk_noteRecord, memOk_putCB]
theorem memOk_poisonAt (s : State) (ctx core : Nat) (sp : Bool) (a : Nat) (wr : Bool) (h : s.MemOk) :
    (poisonAt s ctx core sp a wr).MemOk := by
  grind [poisonAt, memOk_poisonLoc]
theorem memOk_lateFault (s : State) (ctx core unit snd handle va pkg : Nat) (r : Reply) (h : s.MemOk) :
    (lateFault s ctx core unit snd handle va pkg r).MemOk := by
  cases r <;> first | exact h | exact memOk_noteRecord _ _ _ _ h
theorem memOk_answerCopy (s : State) (ctx core id snd handle va pkg : Nat) (load : Bool) (r : Reply) (h : s.MemOk) :
    (answerCopy s ctx core id snd handle va pkg load r).MemOk := by
  grind [answerCopy, memOk_faultCopy, memOk_lateFault, memOk_putCopy]
theorem memOk_answerRoute (s : State) (ctx core id snd handle va pkg : Nat) (load : Bool) (r : Reply) (h : s.MemOk) :
    (answerRoute s ctx core id snd handle va pkg load r).MemOk := by
  grind [answerRoute, memOk_faultRoute, memOk_lateFault, memOk_putRoute]

end Sys2Proof.Machine
end

section
/-! The memories stay canonical: MCF programs, synchronisation, and what becomes of accesses. -/

namespace Sys2Proof.Machine

open Sys2Proof State

theorem memOk_pruneEntry (s : State) (ctx cid inst : Nat) (h : s.MemOk) : (pruneEntry s ctx cid inst).MemOk := by
  unfold pruneEntry
  split <;> exact h
theorem memOk_dropLoad (s : State) (port ctx cid : Nat) (h : s.MemOk) : (dropLoad s port ctx cid).MemOk := h
theorem memOk_nextInstance (s : State) (port ctx cid : Nat) (e : CollEntry) (t : Thread) (h : s.MemOk) :
    (nextInstance s port ctx cid e t).MemOk := by
  grind [nextInstance, memOk_dropLoad, memOk_pruneEntry, memOk_putThread]
theorem memOk_progError (s : State) (port ctx cid : Nat) (e : CollEntry) (t : Thread) (h : s.MemOk) :
    (progError s port ctx cid e t).MemOk := by
  grind [progError, memOk_arriveFor, memOk_foldl, memOk_modEntry, memOk_nextInstance, memOk_noteRecord, memOk_partDone,
    memOk_settleOwed]
theorem memOk_threadFault (s : State) (port ctx cid : Nat) (e : CollEntry) (t : Thread) (m cause detail addr : Nat)
    (h : s.MemOk) : (threadFault s port ctx cid e t m cause detail addr).MemOk := by
  grind [threadFault, memOk_noteRecord, memOk_progError]
theorem memOk_ackPacket (s : State) (p : Packet) (retry : Bool) (h : s.MemOk) : (ackPacket s p retry).MemOk := by
  grind [ackPacket, memOk_emit]
theorem memOk_discardDuplicate (s : State) (port : Nat) (e : CollEntry) (p : Packet) (h : s.MemOk) :
    (discardDuplicate s port e p).MemOk := by
  grind [discardDuplicate, memOk_ackPacket, memOk_modPort]
theorem memOk_readOn (port ctx cid m core since : Nat) (t : Thread) (a n : Nat) (got : List Byte) (s : State) (h : s.MemOk) :
    (readOn s port ctx cid m core since t a n got).MemOk := by
  induction n generalizing got with
  | zero => trivial
  | succ n ih => grind [readOn, SrcRes.MemOk, memOk_sendOp]
theorem memOk_readSource (s : State) (port ctx cid : Nat) (e : CollEntry) (t : Thread) (m c : Nat) (h : s.MemOk) :
    (readSource s port ctx cid e t m c).MemOk := by
  grind [readSource, SrcRes.MemOk, memOk_readOn]
theorem memOk_releaseStaged (s : State) (port ctx cid : Nat) (e : CollEntry) (inst c : Nat) (ms : List Nat) (h : s.MemOk) :
    (releaseStaged s port ctx cid e inst c ms).MemOk := by
  unfold releaseStaged
  split <;> exact h
theorem memOk_forward (s : State) (ctx cid : Nat) (e : CollEntry) (hops : Nat) (p : Packet) (h : s.MemOk) :
    (forward s ctx cid e hops p).MemOk := by
  grind [forward, memOk_foldl, memOk_sendOp]
theorem memOk_mcfForward (s : State) (ctx cid : Nat) (e : CollEntry) (t : Thread) (k : BitVec 3) (a c : BitVec 4)
    (chunk : Nat) (payload : List Byte) (h : s.MemOk) : (mcfForward s ctx cid e t k a c chunk payload).MemOk := by
  grind [mcfForward, McfRes.MemOk, memOk_forward]
theorem memOk_dlvWrite1 (s : State) (ctx wid image : Nat) (o : Nat → Origin) (a : Nat) (bs : List Byte) (h : s.MemOk) :
    (dlvWrite1 s ctx wid image o a bs).MemOk := by
  grind [dlvWrite1, DlvRes.MemOk, memOk_freeBit, memOk_placementRecord, memOk_ringControl, memOk_sendOp, memOk_storeMem]
theorem memOk_dlvWrite (s : State) (ctx wid image : Nat) (o : Nat → Origin) (a : Nat) (bs : List Byte) (h : s.MemOk) :
    (dlvWrite s ctx wid image o a bs).1.MemOk := by
  grind [dlvWrite, DlvRes.MemOk, memOk_dlvWrite1]
theorem memOk_mcfDeliver (s : State) (port ctx cid : Nat) (e : CollEntry) (t : Thread) (a : BitVec 4) (off : Nat)
    (bs : List Byte) (h : s.MemOk) : (mcfDeliver s port ctx cid e t a off bs).MemOk := by
  grind [mcfDeliver, McfRes.MemOk, DlvRes.MemOk, memOk_dlvWrite, memOk_veil]
theorem memOk_answerThread (s : State) (port ctx cid m inst va pkg : Nat) (load : Bool) (r : Reply) (h : s.MemOk) :
    (answerThread s port ctx cid m inst va pkg load r).MemOk := by
  grind [answerThread, memOk_noteRecord, memOk_putThread]
theorem memOk_syncStep (s : State) (c k j : Nat) (x : Snd) (joins : Bool) (parties : List Snd) (eff : Snd → State)
    (h : s.MemOk) (he : ∀ y, (eff y).MemOk) : (syncStep s c k j x joins parties eff).MemOk := by
  grind [syncStep, memOk_putSnd]
theorem memOk_memberArrive (s : State) (c k j : Nat) (x y : Snd) (ref r n : Nat) (h : s.MemOk) :
    (memberArrive s c k j x y ref r n).MemOk := by
  grind [memberArrive, memOk_putBarrier, memOk_putSnd, memOk_scalarTrap, memOk_testPhase, memOk_wake]
theorem memOk_barReturn (s : State) (c k j : Nat) (x : Snd) (d ref token : Nat) (h : s.MemOk) :
    (barReturn s c k j x d ref token).MemOk := by
  unfold barReturn
  split <;> exact h
theorem memOk_putMail (s : State) (ctx core slot : Nat) (m : Mailbox) (h : s.MemOk) : (putMail s ctx core slot m).MemOk := h
theorem memOk_mailRead (ctx core : Nat) (x : Snd) (a n : Nat) (got : List Byte) (s : State) (h : s.MemOk) :
    (mailRead s ctx core x a n got).MemOk := by
  induction n generalizing s a got with
  | zero => exact h
  | succ n ih => grind [mailRead, MailRead.MemOk, memOk_readAs]
theorem memOk_mailSend (s : State) (c k j : Nat) (x : Snd) (d dest : Nat) (bs : List Byte) (h : s.MemOk) :
    (mailSend s c k j x d dest bs).MemOk := by
  grind [mailSend, memOk_putSnd, memOk_sendNext, memOk_sendOp]
theorem memOk_mailRelease (s : State) (c k j : Nat) (x : Snd) (d dest : Nat) (bs : List Byte) (h : s.MemOk) :
    (mailRelease s c k j x d dest bs).MemOk := by
  grind [mailRelease, memOk_mailSend, memOk_putSnd]
theorem memOk_mailGo (s : State) (c k j : Nat) (x : Snd) (d dest a n : Nat) (got : List Byte) (h : s.MemOk) :
    (mailGo s c k j x d dest a n got).MemOk := by
  have hr := memOk_mailRead c k x a n got s h
  grind [mailGo, MailRead.MemOk, memOk_mailRelease, memOk_sendOp, memOk_putSnd, memOk_scalarTrap]
theorem memOk_mailPlace (ctx wid : Nat) (bs : List Byte) (a : Nat) (s : State) (h : s.MemOk) {t : State}
    (ht : mailPlace s ctx wid a bs = .ok t) : t.MemOk := by
  induction bs generalizing s a with
  | nil => cases ht; exact h
  | cons b r ih => grind [mailPlace, memOk_storeMem]
theorem memOk_wakeRecv (s : State) (ctx core slot : Nat) (h : s.MemOk) : (wakeRecv s ctx core slot).MemOk := h
theorem memOk_mailArrive (s : State) (srcpkg srcctx ctx core slot wid : Nat) (bs : List Byte) (sender : Sender) (h : s.MemOk) :
    (mailArrive s srcpkg srcctx ctx core slot wid bs sender).1.MemOk := by
  grind [mailArrive, memOk_dropCompletion, memOk_mailPlace, memOk_occur, memOk_placementRecord, memOk_putMail, memOk_wake,
    memOk_wakeRecv]
theorem memOk_mailReturn (s : State) (c k j st : Nat) (h : s.MemOk) : (mailReturn s c k j st).MemOk := by
  grind [mailReturn, memOk_putSnd]
theorem memOk_endTurn (s : State) (c k j : Nat) (x : Snd) (status : BitVec 8) (h : s.MemOk) :
    (endTurn s c k j x status).MemOk := by
  grind [endTurn, memOk_endSounder, memOk_leaveDrey, memOk_putSnd]
theorem memOk_settleReplay (s : State) (c k j : Nat) (h : s.MemOk) : (settleReplay s c k j).MemOk := by
  grind [settleReplay, memOk_putSnd]
theorem memOk_cleanTogether (s t : State) (ctx core slot entry : Nat) (h : t.MemOk) :
    (cleanTogether s t ctx core slot entry).MemOk := by
  unfold cleanTogether
  dsimp only
  repeat' split
  all_goals exact h
theorem memOk_answerScalar (s : State) (c k j : Nat) (r : Reply) (h : s.MemOk) : (answerScalar s c k j r).MemOk := by
  grind [answerScalar, memOk_freeBit, memOk_putSnd, memOk_scalarTrap]
theorem memOk_answerMail (s : State) (c k j pkg : Nat) (r : Reply) (h : s.MemOk) : (answerMail s c k j pkg r).MemOk := by
  grind [answerMail, memOk_freeBit, memOk_mailGo, memOk_putSnd, memOk_scalarTrap]
theorem memOk_answerPeer (s : State) (ctx queue addr pkt status pkg : Nat) (r : Reply) (h : s.MemOk) :
    (answerPeer s ctx queue addr pkt status pkg r).MemOk := by
  cases r with
  | ok | nack | ue => exact memOk_signalRest _ _ _ _ (by first | exact h | exact memOk_noteRecord _ _ _ _ h)
  | retry => exact h
theorem memOk_answerArgs (s : State) (id : Nat) (n : Node) (r : Reply) (h : s.MemOk) : (answerArgs s id n r).MemOk := h
theorem memOk_answerNode (s : State) (ctx id pkg : Nat) (r : Reply) (h : s.MemOk) : (answerNode s ctx id pkg r).MemOk := by
  grind [answerNode, State.MemOk, memOk_answerArgs, memOk_completeNode, memOk_noteRecord]
theorem memOk_mailNack (s : State) (c k j pkg why : Nat) (h : s.MemOk) : (mailNack s c k j pkg why).MemOk := by
  grind [mailNack, memOk_putSnd, memOk_scalarTrap]
theorem memOk_applyReply (s : State) (op : Nat) (r : Reply) (h : s.MemOk) : (applyReply s op r).MemOk := by
  have h' : ({ s with pend := s.pend.del op } : State).MemOk := h
  unfold applyReply
  split
  · exact h
  · next p _ =>
    split
    · exact h
    · dsimp only
      cases p.msg.origin? with
      | none => dsimp only; split <;> exact h
      | some o => cases o <;> grind [memOk_settleReplay, memOk_answerLane, memOk_answerScalar, memOk_answerCopy,
          memOk_answerRoute, memOk_answerMail, memOk_mailNack, memOk_answerThread, memOk_answerPeer, memOk_answerNode]
theorem memOk_resend (s : State) (op : Nat) (p : Pending) (h : s.MemOk) : (resend s op p).MemOk := by
  grind [resend, State.MemOk, memOk_emit]
theorem memOk_aliasAccept (s : State) (ctx cid m va : Nat) (bs : List Byte) (x : Snd) (core slices : Nat) (h : s.MemOk) :
    (aliasAccept s ctx cid m va bs x core slices).1.MemOk := by
  grind [aliasAccept, memOk_countError, memOk_foldl, memOk_modEntry, memOk_settleOwed]
theorem memOk_mailInbound (s : State) (port srcpkg srcctx ctx core slot : Nat) (bs : List Byte) (admitted : Bool)
    (h : s.MemOk) : (mailInbound s port srcpkg srcctx ctx core slot bs admitted).1.MemOk := by
  grind [mailInbound, memOk_mailArrive]
theorem memOk_mailOwn (s : State) (op : Nat) (h : s.MemOk) : (mailOwn s op).MemOk := by
  grind [mailOwn, State.MemOk, memOk_applyReply, memOk_mailArrive]
theorem memOk_settleWaits (s : State) (ctx core : Nat) (cs : List Cand) (won : Cand) (h : s.MemOk) :
    (settleWaits s ctx core cs won).MemOk := by
  grind [settleWaits, memOk_foldl, memOk_modSnd]
theorem memOk_probeWaiting (s : State) (ctx core slot : Nat) (x : Snd) (h : s.MemOk) :
    (probeWaiting s ctx core slot x).MemOk := by
  grind [probeWaiting, memOk_foldl, memOk_hold]

end Sys2Proof.Machine
end

section
/-! The memories stay canonical: page tables, the sett, slices and launches. -/

namespace Sys2Proof.Machine

open Sys2Proof State

theorem memOk_putPool (s : State) (p : Nat) (x : Pool) (h : s.MemOk) : (putPool s p x).MemOk := h
theorem memOk_takeFrame (s : State) (p n : Nat) (h : s.MemOk) {t : State} {a : Nat} (ht : takeFrame s p n = some (a, t)) :
    t.MemOk := by
  grind [takeFrame, memOk_putPool, memOk_zeroRange]
theorem memOk_freeFrame (s : State) (p a n : Nat) (h : s.MemOk) : (freeFrame s p a n).MemOk := h
theorem memOk_writePte (s : State) (table level va e : Nat) (h : s.MemOk) : (writePte s table level va e).MemOk := by
  grind [writePte, memOk_writeBytes]
theorem memOk_tableFor (die va target l table : Nat) (s : State) (h : s.MemOk) {t : State} {a : Nat}
    (ht : tableFor s die va target l table = some (a, t)) : t.MemOk := by
  induction l generalizing s table with
  | zero => cases ht; exact h
  | succ l ih => grind [tableFor, memOk_takeFrame, memOk_writePte]
theorem memOk_writeLeaf (s : State) (die troot va level e : Nat) (h : s.MemOk) {t : State}
    (ht : writeLeaf s die troot va level e = some t) : t.MemOk := by
  grind [writeLeaf, memOk_foldl, memOk_tableFor, memOk_writePte]
/-- What one page of a range is mapped to comes with a state whose memories are canonical. -/
theorem memOk_mapRange (home troot : Nat) (q : MapReq) (valid : Bool) (n i va : Nat) (s : State) (h : s.MemOk) {t : State}
    (ht : mapRange s home troot q valid va n i = some t) : t.MemOk := by
  induction n generalizing s va i with
  | zero => cases ht; exact h
  | succ n ih =>
    unfold mapRange at ht
    dsimp only at ht
    split at ht
    · cases ht
    · next f u hg =>
      have hu : u.MemOk := by
        split at hg
        · cases hg; exact h
        · split at hg
          · obtain ⟨⟨a, v⟩, hv, he⟩ := Option.map_eq_some_iff.1 hg
            cases he; exact memOk_takeFrame _ _ _ h hv
          · obtain ⟨⟨a, v⟩, hv, he⟩ := Option.map_eq_some_iff.1 hg
            cases he; exact memOk_takeFrame _ _ _ h hv
          · cases hg; exact h
          · cases hg; exact h
      split at ht
      · cases ht
      · next w hw => exact ih _ _ _ (memOk_writeLeaf _ _ _ _ _ _ hu hw) ht
theorem memOk_changeLeaf (s : State) (troot va : Nat) (f : Nat → Nat) (h : s.MemOk) : (changeLeaf s troot va f).MemOk := by
  grind [changeLeaf, memOk_foldl, memOk_writePte]
theorem memOk_mapReserved (s : State) (ctx va : Nat) (h : s.MemOk) {t : State} {a b : Nat}
    (ht : mapReserved s ctx va = some (a, b, t)) : t.MemOk := by
  unfold mapReserved at ht
  split at ht
  · nomatch ht
  · rename_i c _
    generalize slotOf s va 4 c.troot = w at ht
    obtain ⟨l, w1, e⟩ := w
    dsimp only at ht
    generalize 2 ^ leafShift l e = sz at ht
    split at ht
    · nomatch ht
    · split at ht
      · nomatch ht
      · rename_i a' t' hf
        simp only [Option.some.injEq, Prod.mk.injEq] at ht
        obtain ⟨_, _, rfl⟩ := ht
        exact memOk_modCtx _ _ _ (memOk_changeLeaf _ _ _ _ (memOk_takeFrame _ _ _ h hf))
theorem memOk_newDirectory (s : State) (die : Nat) (h : s.MemOk) {t : State} {a : Nat}
    (ht : newDirectory s die = some (a, t)) : t.MemOk := by
  grind [newDirectory, memOk_takeFrame]
theorem memOk_openSegment (s : State) (ctx core : Nat) (h : s.MemOk) {t : State} (ht : openSegment s ctx core = some t) :
    t.MemOk := by
  grind [openSegment, memOk_modCC, memOk_takeFrame, memOk_writeService]
theorem memOk_writePieces (s : State) (seg : Nat) (ps : List Piece) (h : s.MemOk) : (writePieces s seg ps).MemOk := by
  grind [writePieces, memOk_foldl, memOk_writeService]
theorem memOk_segState (s : State) (ctx core n : Nat) (h : s.MemOk) : (segState s ctx core n).MemOk := by
  grind [segState, memOk_writeService]
theorem memOk_clearService (s : State) (a n : Nat) (h : s.MemOk) : (clearService s a n).MemOk :=
  ⟨h.1, h.2.1, Memory.wf_filter _ _ h.2.2⟩
theorem memOk_saveNames (s : State) (ctx core j : Nat) (banks : List Nat) (x : Snd) (h : s.MemOk) :
    (saveNames s ctx core j banks x).MemOk := by
  grind [saveNames, memOk_clearService, memOk_writePieces]
theorem memOk_saveSegment (s : State) (ctx core : Nat) (banks : List Nat) (h : s.MemOk) :
    (saveSegment s ctx core banks).MemOk := by
  grind [saveSegment, memOk_clearService, memOk_writePieces]
theorem memOk_startSlice (s : State) (core at_ : Nat) (h : s.MemOk) : (startSlice s core at_).MemOk := by
  unfold startSlice
  split <;> exact h
theorem memOk_endSlice (s : State) (core : Nat) (h : s.MemOk) : (endSlice s core).MemOk := by
  grind [endSlice, memOk_modCore, memOk_startSlice]
theorem memOk_swapBanks (s : State) (core : Nat) (h : s.MemOk) : (swapBanks s core).MemOk := by
  grind [swapBanks, memOk_modCore, memOk_startSlice]
theorem memOk_parkNext (s : State) (ctx core : Nat) (h : s.MemOk) : (parkNext s ctx core).MemOk := by
  grind [parkNext, memOk_putSnd, memOk_saveNames]
theorem memOk_rebind (s : State) (core p q : Nat) (h : s.MemOk) : (rebind s core p q).MemOk := h
theorem memOk_returnRegs (core : Nat) (l : List (Nat × Nat)) (s : State) (h : s.MemOk) : (returnRegs s core l).MemOk := by
  induction l generalizing s with
  | nil => exact h
  | cons e l ih => exact ih _ (memOk_rebind _ _ _ _ (memOk_freshPhys _ e.1 _ h))
theorem memOk_releaseBanks (s : State) (core bank : Nat) (h : s.MemOk) : (releaseBanks s core bank).MemOk := h
theorem memOk_endMemo (s : State) (ctx core : Nat) (h : s.MemOk) : (endMemo s ctx core).MemOk := h
theorem memOk_unbind (s : State) (ctx core : Nat) (h : s.MemOk) : (unbind s ctx core).MemOk := h
theorem memOk_leaveBank (s : State) (ctx core bank : Nat) (h : s.MemOk) : (leaveBank s ctx core bank).MemOk := by
  grind [leaveBank, memOk_endMemo, memOk_modCC, memOk_modCore, memOk_releaseBanks, memOk_returnRegs, memOk_saveSegment,
    memOk_unbind]
theorem memOk_saveFailed (s : State) (ctx core bank : Nat) (h : s.MemOk) : (saveFailed s ctx core bank).MemOk := by
  grind [saveFailed, memOk_endMemo, memOk_haltCtx, memOk_modCC, memOk_modCore, memOk_releaseBanks, memOk_returnRegs,
    memOk_unbind]
theorem memOk_bindSounders (ctx core : Nat) (keep : List Nat) (l : List (Nat × Snd)) (s : State) (h : s.MemOk) :
    (bindSounders s ctx core keep l).MemOk := by
  induction l generalizing s with
  | nil => exact h
  | cons e l ih => exact ih _ (by grind [memOk_bindEach, memOk_putSnd])
theorem memOk_enterBank (s : State) (ctx core bank : Nat) (h : s.MemOk) : (enterBank s ctx core bank).MemOk := by
  grind [enterBank, memOk_bindSounders, memOk_foldl, memOk_modCC, memOk_modCore, memOk_segState]
theorem memOk_bankWrite (s : State) (core b v : Nat) (h : s.MemOk) : (bankWrite s core b v).MemOk := by
  grind [bankWrite, memOk_modCore]
theorem memOk_clearBank (s : State) (ctx core b : Nat) (h : s.MemOk) : (clearBank s ctx core b).MemOk := h
theorem memOk_unbindBoth (s : State) (core : Nat) (h : s.MemOk) : (unbindBoth s core).MemOk := by
  grind [unbindBoth, memOk_foldl, memOk_unbind]
theorem memOk_evacuate (s : State) (core lost : Nat) (h : s.MemOk) : (evacuate s core lost).MemOk := by
  grind [evacuate, memOk_foldl, memOk_leaveBank, memOk_saveFailed, memOk_unbindBoth]
theorem memOk_addOverrun (s : State) (core : Nat) (h : s.MemOk) : (addOverrun s core).MemOk := by
  grind [addOverrun, memOk_modCC]
theorem memOk_moveCore (s : State) (core spare lost : Nat) (h : s.MemOk) : (moveCore s core spare lost).MemOk := by
  grind [moveCore, State.MemOk, memOk_addOverrun, memOk_enterBank, memOk_evacuate, memOk_modCore, memOk_startSlice]
theorem memOk_completeReq (s : State) (part tag status value : Nat) (h : s.MemOk) :
    (completeReq s part tag status value).MemOk := by
  grind [completeReq, State.MemOk, memOk_send, memOk_writeHost]
theorem memOk_raceWaiting (s : State) (ctx : Nat) (h : Shoot) (hs : s.MemOk) : (raceWaiting s ctx h).MemOk := hs
theorem memOk_releaseSounder (s : State) (ctx token resume : Nat) (h : s.MemOk) :
    (releaseSounder s ctx token resume).MemOk := by
  grind [releaseSounder, memOk_haltCtx, memOk_putSnd, memOk_tretAct, memOk_writeVirt]
theorem memOk_releaseCommand (s : State) (ctx token va : Nat) (resume : Bool) (h : s.MemOk) :
    (releaseCommand s ctx token va resume).MemOk := by
  grind [releaseCommand, memOk_endCopy, memOk_foldl, memOk_leaveRoute, memOk_putCopy, memOk_putRoute]
theorem memOk_serveFault (s : State) (ctx w : Nat) (anywhere : Bool) (h : s.MemOk) {t : State}
    (ht : serveFault s ctx w anywhere = some t) : t.MemOk := by
  grind [serveFault, State.MemOk, memOk_mapReserved, memOk_notify]
theorem memOk_poolNode (s : State) (die qi : Nat) (q : Queue) (id pkt : Nat) (h : s.MemOk) :
    (poolNode s die qi q id pkt).MemOk := h
theorem memOk_refusePacket (s : State) (qi : Nat) (q : Queue) (pkt status : Nat) (h : s.MemOk) :
    (refusePacket s qi q pkt status).MemOk := by
  grind [refusePacket, State.MemOk, memOk_signalNode]
theorem memOk_enqueueSounders (s : State) (ctx l p z : Nat) (h : s.MemOk) : (enqueueSounders s ctx l p z).MemOk := by
  grind [enqueueSounders, memOk_foldl, memOk_modCC]
theorem memOk_readArgs (s : State) (id : Nat) (n : Node) (h : s.MemOk) {t : State} (ht : readArgs s id n = some t) :
    t.MemOk := by
  grind [readArgs, State.MemOk, memOk_sendOp]
theorem memOk_startLaunch (s : State) (id p z : Nat) (rq : Option RqPart) (args : List Byte) (h : s.MemOk) :
    (startLaunch s id p z rq args).MemOk := by
  unfold startLaunch
  dsimp only
  repeat' split
  all_goals first
    | trivial
    | exact memOk_enqueueSounders _ _ _ _ _ (memOk_writeVirt _ _ _ _ h)
theorem memOk_setNode (s : State) (id : Nat) (n : Node) (st : NodeSt) (h : s.MemOk) : (setNode s id n st).MemOk := h
theorem memOk_failNode (s : State) (id : Nat) (n : Node) (cause handle addr detail : Nat) (h : s.MemOk) :
    (failNode s id n cause handle addr detail).MemOk := by
  grind [failNode, memOk_completeNode, memOk_haltRevoked, memOk_noteRecord]
theorem memOk_startKernel (s : State) (id : Nat) (n : Node) (z : Nat) (h : s.MemOk) {t : State}
    (ht : startKernel s id n z = some t) : t.MemOk := by
  have hl := memOk_startLaunch s id n.pkt z none n.args h
  grind [startKernel, Start.MemOk, memOk_completeNode, memOk_readArgs, memOk_setNode]
theorem memOk_dispatchKernel (s : State) (id : Nat) (n : Node) (h : s.MemOk) {t : State}
    (ht : dispatchKernel s id n = some t) : t.MemOk := by
  grind [dispatchKernel, memOk_failNode, memOk_sendOp, memOk_setNode, memOk_startKernel]
theorem memOk_dispatchArm (s : State) (id : Nat) (n : Node) (h : s.MemOk) : (dispatchArm s id n).MemOk := by
  grind [dispatchArm, State.MemOk, memOk_completeNode, memOk_readArgs, memOk_setNode]
theorem memOk_dispatchEngine (s : State) (id : Nat) (n : Node) (h : s.MemOk) {t : State}
    (ht : dispatchEngine s id n = some t) : t.MemOk := by
  grind [dispatchEngine, State.MemOk, memOk_acceptCopy, memOk_acceptRoute, memOk_completeNode, memOk_failNode,
    memOk_loseCommand, memOk_setNode]
theorem memOk_dispatchNode (s : State) (id : Nat) (n : Node) (h : s.MemOk) {t : State} (ht : dispatchNode s id n = some t) :
    t.MemOk := by
  grind [dispatchNode, memOk_completeNode, memOk_dispatchArm, memOk_dispatchEngine, memOk_dispatchKernel]
theorem memOk_admitHead (s : State) (ctx core : Nat) (h : s.MemOk) : (admitHead s ctx core).MemOk := by
  grind [admitHead, memOk_putCC, memOk_wake]
theorem memOk_admitMany (ctx core n : Nat) (s : State) (h : s.MemOk) : (admitMany s ctx core n).MemOk := by
  induction n generalizing s with
  | zero => exact h
  | succ n ih => exact ih _ (memOk_admitHead _ _ _ h)
theorem memOk_retireRuns (s : State) (r : RecQueue) (h : s.MemOk) : (retireRuns s r).1.MemOk := by
  grind [retireRuns, memOk_foldl, memOk_writeVirt]
theorem memOk_launchRecords (s : State) (id : Nat) (r : RecQueue) (q : RqHdr) (n : Nat) (h : s.MemOk) :
    (launchRecords s id r q n).MemOk := by
  unfold launchRecords
  split
  · exact h
  · next nd _ =>
    have hl := memOk_startLaunch s id r.pkt ((n + q.persnd - 1) / q.persnd)
      (some { node := id, ring := q.ring, first := r.next, count := n, stride := q.stride, cap := q.cap }) nd.args h
    dsimp only
    split
    · exact h
    · exact memOk_signalNode _ _ _ _ _ _ (memOk_retireRuns _ _ h)
    · next t ht => rw [ht] at hl; exact hl
theorem memOk_flushQueue (s : State) (node : Nat) (h : s.MemOk) : (flushQueue s node).MemOk := by
  grind [flushQueue, State.MemOk, memOk_launchRecords]
theorem memOk_endConsts (s : State) (l : Nat) (h : s.MemOk) : (endConsts s l).MemOk := h
theorem memOk_endLaunch (s : State) (l : Nat) (ln : Launch) (status : Nat) (h : s.MemOk) : (endLaunch s l ln status).MemOk := by
  grind [endLaunch, State.MemOk, memOk_completeNode, memOk_endConsts, memOk_modCtx, memOk_retireRuns, memOk_signalNode,
    memOk_unveil]
theorem memOk_failLaunch (s : State) (l : Nat) (ln : Launch) (status : Nat) (h : s.MemOk) :
    (failLaunch s l ln status).MemOk := by
  grind [failLaunch, State.MemOk, memOk_endLaunch, memOk_endSounder, memOk_foldl]
theorem memOk_loseCore (s : State) (core : Nat) (h : s.MemOk) : (loseCore s core).MemOk := by
  grind [loseCore, State.MemOk, memOk_failLaunch, memOk_foldl, memOk_modCore]

end Sys2Proof.Machine
end

section
/-! The memories stay canonical: the fabric, time, the loader, the service's requests and the fetch. -/

namespace Sys2Proof.Machine

open Sys2Proof State

theorem memOk_countPacket (s : State) (port : Nat) (h : s.MemOk) : (countPacket s port).MemOk := by
  unfold countPacket
  split <;> exact h
theorem memOk_onPort (s : State) (v : Via) (srcpkg : Nat) (f : State → State) (h : s.MemOk)
    (hf : ∀ t, t.MemOk → (f t).MemOk) : (onPort s v srcpkg f).MemOk := by
  grind [onPort, memOk_modPort, memOk_send, memOk_countPacket]
theorem memOk_onStream (s : State) (key : Nat) (seq : SeqNo) (f : State → State × OutMsg) (h : s.MemOk)
    (hf : (f s).1.MemOk) : (onStream s key seq f).MemOk := by
  unfold onStream
  dsimp only
  repeat' split
  all_goals first | exact h | exact memOk_emit _ _ h | exact memOk_emit _ _ hf
theorem memOk_refuseLaunch (s : State) (ctx pkg queue why : Nat) (h : s.MemOk) : (refuseLaunch s ctx pkg queue why).MemOk := by
  grind [refuseLaunch, memOk_noteRecord]
theorem memOk_renewStream (s : State) (key : Nat) (h : s.MemOk) : (renewStream s key).MemOk := by
  unfold renewStream
  refine memOk_foldl_fst _ (fun e a he => ?_) _ (s, 0) h
  dsimp only
  repeat' split
  all_goals exact he
theorem memOk_clearAsked (s : State) (ctx pkg queue : Nat) (skip : Bool) (h : s.MemOk) :
    (clearAsked s ctx pkg queue skip).MemOk := h
theorem memOk_grantPermit (s : State) (srcpkg srcctx queue : Nat) (h : s.MemOk) :
    (grantPermit s srcpkg srcctx queue).1.MemOk := by
  grind [grantPermit, State.MemOk, memOk_refuseLaunch]
theorem memOk_permitAnswer (s : State) (op : Nat) (f : State → Nat → Nat → Nat → State) (h : s.MemOk)
    (hf : ∀ t a b c, t.MemOk → (f t a b c).MemOk) : (permitAnswer s op f).MemOk := by
  unfold permitAnswer
  split
  · split
    · exact hf _ _ _ _ h
    · exact h
  · exact h
theorem memOk_renewPermit (s : State) (ctx pkg id : Nat) (h : s.MemOk) : (renewPermit s ctx pkg id).MemOk := by
  grind [renewPermit, memOk_putCtx, memOk_sendNext]
theorem memOk_placePeer (s : State) (srcpkg srcctx queue pkt permit : Nat) (h : s.MemOk) :
    (placePeer s srcpkg srcctx queue pkt permit).1.MemOk := by
  grind [placePeer, State.MemOk, memOk_refuseLaunch, memOk_writeVirt]
theorem memOk_winStore (ctx srcpkg wid : Nat) (l : List (Nat × List Byte)) (s : State) (h : s.MemOk) :
    (winStore s ctx srcpkg wid l).MemOk := by
  induction l generalizing s with
  | nil => exact h
  | cons e l ih => grind [winStore, WinRes.MemOk, memOk_placementRecord, memOk_storeMem, memOk_ringControl]
theorem memOk_winBlocked (s : State) (ctx srcpkg : Nat) (parts : List (Nat × List Byte)) (h : s.MemOk) {r : WinRes}
    (hr : winBlocked s ctx srcpkg parts = some r) : r.MemOk := by
  obtain ⟨p, -, hp⟩ := List.exists_of_findSome?_eq_some hr
  grind [WinRes.MemOk, memOk_placementRecord]
theorem memOk_winAtomic (ctx wid n minor ty : Nat) (l : List (Nat × Nat × Nat)) (s : State) (h : s.MemOk) :
    (winAtomic s ctx wid n minor ty l).MemOk := by
  induction l generalizing s with
  | nil => exact h
  | cons e l ih => grind [winAtomic, WinRes.MemOk, memOk_storeMem, memOk_ringControl]
theorem memOk_winAccess (s : State) (ctx srcpkg wid : Nat) (q : WinReq) (h : s.MemOk) :
    (winAccess s ctx srcpkg wid q).MemOk := by
  cases q with
  | load => grind [winAccess, WinRes.MemOk]
  | store parts =>
    show ((winBlocked s ctx srcpkg parts).getD _).MemOk
    cases hb : winBlocked s ctx srcpkg parts with
    | none => exact memOk_winStore _ _ _ _ _ h
    | some r => exact memOk_winBlocked _ _ _ _ h hb
  | atomic => exact memOk_winAtomic _ _ _ _ _ _ _ h
  | append => grind [winAccess, WinRes.MemOk, memOk_appendAt]
theorem memOk_failOp (s : State) (op : Nat) (p : Pending) (h : s.MemOk) : (failOp s op p).MemOk := by
  grind [failOp, State.MemOk, memOk_applyReply, memOk_clearAsked, memOk_freeWord, memOk_mailReturn, memOk_refuseLaunch,
    memOk_renewStream]
theorem memOk_timeOut (s : State) (op : Nat) (h : s.MemOk) : (timeOut s op).MemOk := by
  grind [timeOut, memOk_countError, memOk_failOp, memOk_resend]
theorem memOk_degrade (s : State) (h : s.MemOk) : (degrade s).MemOk := h
theorem memOk_enterThread (s : State) (c : CollIn) (t : Thread) (h : s.MemOk) : (enterThread s c t).MemOk := by
  unfold enterThread
  dsimp only
  repeat' split
  all_goals first | exact memOk_emit _ _ h | exact h
theorem memOk_keepCopy (s : State) (c : CollIn) (h : s.MemOk) : (keepCopy s c).MemOk := by
  grind [keepCopy, memOk_emit, memOk_modEntry]
theorem memOk_latchTimer (s : State) (ctx core slot n : Nat) (h : s.MemOk) : (latchTimer s ctx core slot n).MemOk := by
  grind [latchTimer, memOk_putSnd, memOk_wake]
theorem memOk_settleMoment (s : State) (h : s.MemOk) : (settleMoment s).MemOk := by
  grind [settleMoment, memOk_endSlice, memOk_flushQueue, memOk_foldl, memOk_latchTimer, memOk_renewPermit, memOk_timeOut]
theorem memOk_reclaimPermits (s : State) (h : s.MemOk) : (reclaimPermits s).MemOk := h
theorem memOk_advance (s : State) (n : Nat) (h : s.MemOk) : (advance s n).MemOk := by
  grind [advance, State.MemOk, memOk_reclaimPermits, memOk_settleMoment]
theorem memOk_hostStore (s : State) (ctx va : Nat) (bs : List Byte) (h : s.MemOk) : (hostStore s ctx va bs).MemOk := by
  grind [hostStore, memOk_writeVirt]
theorem memOk_hostLoad (s : State) (ctx va n : Nat) (h : s.MemOk) : (hostLoad s ctx va n).MemOk := h
theorem memOk_lineFails (s : State) (line : Nat) (h : s.MemOk) : (lineFails s line).MemOk := by
  unfold lineFails
  split <;> exact h
theorem memOk_rowsFail (s : State) (line n : Nat) (h : s.MemOk) : (rowsFail s line n).MemOk := by
  unfold rowsFail
  split <;> exact h
theorem memOk_mapImage (die troot n va pa : Nat) (s : State) (h : s.MemOk) {t : State}
    (ht : mapImage s die troot n va pa = some t) : t.MemOk := by
  induction n generalizing s va pa with
  | zero => cases ht; exact h
  | succ n ih => grind [mapImage, memOk_writeLeaf]
theorem memOk_patch (s : State) (pa : Nat) (p : Nat × Nat × Nat) (h : s.MemOk) : (patch s pa p).MemOk := by
  grind [patch, memOk_writeBytes]
theorem memOk_loadImage (s : State) (ctx a va : Nat) (binds : List (Nat × Nat)) (h : s.MemOk) :
    (loadImage s ctx a va binds).MemOk := by
  unfold loadImage
  split
  · rename_i c ss _ _
    dsimp only
    split
    · trivial
    · split
      · split
        · trivial
        · rename_i pa t hpa
          have hp : t.MemOk := by
            split at hpa
            · cases hpa; exact h
            · exact memOk_takeFrame _ _ _ h hpa
          split
          · trivial
          · rename_i hm
            refine memOk_modCtx _ _ _ (memOk_mapImage _ _ _ _ _ _ ?_ hm)
            refine memOk_foldl _ (fun t p ht => memOk_patch _ _ _ ht) _ _ ?_
            refine memOk_foldl _ (fun t k ht => ?_) _ _ hp
            split
            · exact memOk_writeBytes _ _ _ ht
            · exact ht
      · trivial
  · trivial
theorem memOk_ringTail (s : State) (part t : Nat) (h : s.MemOk) : (ringTail s part t).MemOk := by
  grind [ringTail, State.MemOk]
theorem memOk_answerReq (s : State) (part req status : Nat) (h : s.MemOk) : (answerReq s part req status).MemOk := by
  grind [answerReq, memOk_completeReq, memOk_freeWord]
theorem memOk_onHome (s : State) (part ctx req : Nat) (f : Ctx → State) (h : s.MemOk) (hf : ∀ c, (f c).MemOk) :
    (onHome s part ctx req f).MemOk := by
  grind [onHome, memOk_answerReq]
theorem memOk_onP4 (s : State) (part req : Nat) (f : State) (h : s.MemOk) (hf : f.MemOk) : (onP4 s part req f).MemOk := by
  grind [onP4, memOk_answerReq]
theorem memOk_putSlot (s : State) (k : Nat) (x : KeySlot) (h : s.MemOk) : (putSlot s k x).MemOk := h
theorem memOk_ctxFrames (s : State) (die : Nat) (h : s.MemOk) {t : State} {a b c d : Nat}
    (ht : ctxFrames s die = some (a, b, c, d, t)) : t.MemOk := by
  simp only [ctxFrames, Option.bind_eq_bind, Option.bind_eq_some_iff, Option.pure_def, Prod.exists] at ht
  obtain ⟨_, _, h1, _, _, h2, _, _, h3, _, _, h4, he⟩ := ht
  cases he
  exact memOk_newDirectory _ _ (memOk_takeFrame _ _ _ (memOk_takeFrame _ _ _ (memOk_takeFrame _ _ _ h h1) h2) h3) h4
theorem memOk_mapArea (s : State) (die root base size : Nat) (h : s.MemOk) {t : State}
    (ht : mapArea s die root base size = some t) : t.MemOk := by
  grind [mapArea, memOk_mapRange]
theorem memOk_wipeCore (s : State) (ctx core : Nat) (h : s.MemOk) : (wipeCore s ctx core).MemOk := by
  have hb (l : List Nat) : (l.foldl (fun s b => bumpBank (clearBank s ctx core b) core b) (endMemo s ctx core)).MemOk :=
    memOk_foldl _ (fun s b hs => memOk_bumpBank _ _ _ (memOk_clearBank _ _ _ _ hs)) _ _ (memOk_endMemo _ _ _ h)
  have hs (t : State) (ht : t.MemOk) (seg : Nat) : (if seg = 0 then t
      else { t with smem := t.smem.filter (fun e => !(decide (seg ≤ e.1) && decide (e.1 < seg + segSize))) }).MemOk := by
    split
    · exact ht
    · exact ⟨ht.1, ht.2.1, Memory.wf_filter _ _ ht.2.2⟩
  exact hs _ (hb _) _
theorem memOk_resetCtx (s : State) (ctx : Nat) (h : s.MemOk) : (resetCtx s ctx).MemOk := by
  grind [resetCtx, State.MemOk, memOk_foldl, memOk_putTrapq, memOk_stopCtx, memOk_wipeCore]
theorem memOk_endShoots (s : State) (ctx : Nat) (h : s.MemOk) : (endShoots s ctx).MemOk := by
  grind [endShoots, memOk_completeReq, memOk_foldl, memOk_freeFrame]
theorem memOk_destroyCtx (s : State) (ctx : Nat) (h : s.MemOk) : (destroyCtx s ctx).MemOk := by
  grind [destroyCtx, State.MemOk, memOk_endShoots, memOk_foldl, memOk_freeFrame, memOk_putSlot, memOk_releaseBanks,
    memOk_resetCtx, memOk_returnRegs]
theorem memOk_mapDoorbell (s : State) (ctx q : Nat) (va : Option Nat) (h : s.MemOk) {t : State}
    (ht : mapDoorbell s ctx q va = some t) : t.MemOk := by
  unfold mapDoorbell at ht
  split at ht
  · split at ht
    · cases ht
    · exact memOk_writeLeaf _ _ _ _ _ _ h ht
  · cases ht; exact h
theorem memOk_setBanks (s : State) (ctx core : Nat) (words : List (Nat × Nat)) (h : s.MemOk) :
    (setBanks s ctx core words).MemOk := by
  grind [setBanks, memOk_bankWrite, memOk_clearBank, memOk_foldl, memOk_modCC]
theorem memOk_clearReserved (troot last n va : Nat) (s : State) (h : s.MemOk) : (clearReserved s troot last n va).MemOk := by
  induction n generalizing s va with
  | zero => exact h
  | succ n ih =>
    unfold clearReserved
    split
    · exact h
    · refine ih _ _ ?_
      split
      · exact memOk_changeLeaf _ _ _ _ h
      · exact h
theorem memOk_portWrite (s : State) (n w : Nat) (h : s.MemOk) : (portWrite s n w).MemOk := h
theorem memOk_installEntry (s : State) (r : CollReq) (prog : List Nat) (h : s.MemOk) : (installEntry s r prog).MemOk := by
  grind [installEntry, memOk_foldl, memOk_modCtx, memOk_putThread]
theorem memOk_dropThreads (s : State) (ctx cid : Nat) (h : s.MemOk) : (dropThreads s ctx cid).MemOk := h
theorem memOk_installKey (s : State) (slot domain origin key : Nat) (h : s.MemOk) :
    (installKey s slot domain origin key).MemOk := h
theorem memOk_revokeSlot (s : State) (slot : Nat) (h : s.MemOk) : (revokeSlot s slot).MemOk := by
  grind [revokeSlot, State.MemOk, memOk_foldl, memOk_haltCtx, memOk_makeAbsent, memOk_putSlot]
theorem memOk_scrubFree (s : State) (h : s.MemOk) : (scrubFree s).MemOk := by
  grind [scrubFree, memOk_foldl, memOk_zeroRange]
theorem memOk_modPlat (s : State) (f : Platform → Platform) (h : s.MemOk) : (modPlat s f).MemOk := h
theorem memOk_clearPackage (s : State) (h : s.MemOk) : (clearPackage s).MemOk := ⟨rfl, h.2.1, rfl⟩
theorem memOk_boot (s : State) (h : s.MemOk) : (boot s).MemOk := by
  grind [boot, State.MemOk, memOk_installKey, memOk_modPlat]
theorem memOk_tierUp (s : State) (unused : Nat) (ok : Bool) (h : s.MemOk) : (tierUp s unused ok).MemOk := h
theorem memOk_answerVendor (s : State) (op : Nat) (ok : Bool) (h : s.MemOk) : (answerVendor s op ok).MemOk := h
theorem memOk_countCorrections (s : State) (h : s.MemOk) : (countCorrections s).MemOk := h
theorem memOk_spdmSay (s : State) (bus code : Nat) (body : List Nat) (h : s.MemOk) : (spdmSay s bus code body).MemOk := h
theorem memOk_spdmRefuse (s : State) (bus code : Nat) (h : s.MemOk) : (spdmRefuse s bus code).MemOk := h
theorem memOk_takeAgent (s : State) (h : s.MemOk) : (takeAgent s).2.MemOk := by
  unfold takeAgent
  split <;> exact h
theorem memOk_dropScalGrant (s : State) (core quad : Nat) (h : s.MemOk) : (dropScalGrant s core quad).MemOk := h
theorem memOk_dropLaneGrant (s : State) (core quad : Nat) (h : s.MemOk) : (dropLaneGrant s core quad).MemOk := h
theorem memOk_fetchScalarWord (s : State) (c k j : Nat) (x : Snd) (h : s.MemOk) : (fetchScalarWord s c k j x).MemOk := by
  grind [fetchScalarWord, State.MemOk, Fetched.MemOk, memOk_scalarTrap, memOk_takeTrap]
theorem memOk_fetchScalar (s : State) (core quad : Nat) (h : s.MemOk) : (fetchScalar s core quad).MemOk := by
  grind [fetchScalar, Fetched.MemOk, memOk_dropScalGrant, memOk_fetchScalarWord, memOk_haltRevoked]
theorem memOk_fetchLaneWord (s : State) (c k j slices : Nat) (x : Snd) (b : Block) (h : s.MemOk) :
    (fetchLaneWord s c k j slices x b).MemOk := by
  grind [fetchLaneWord, State.MemOk, Fetched.MemOk, memOk_takeTrap]
theorem memOk_fetchLane (s : State) (core quad : Nat) (h : s.MemOk) : (fetchLane s core quad).MemOk := by
  grind [fetchLane, Fetched.MemOk, memOk_dropLaneGrant, memOk_fetchLaneWord, memOk_haltRevoked]
theorem memOk_fetchMcf (s : State) (port ctx entry : Nat) (h : s.MemOk) : (fetchMcf s port ctx entry).MemOk := by
  unfold fetchMcf
  repeat' split
  all_goals exact h
theorem memOk_fetch (a : Agent) (s : State) (h : s.MemOk) : (fetch a s).MemOk := by
  cases a with
  | scalar core quad => exact memOk_fetchScalar _ _ _ h
  | lane core quad => exact memOk_fetchLane _ _ _ h
  | mcf port ctx entry => exact memOk_fetchMcf _ _ _ _ h
  | event i => 
    unfold fetch
    dsimp only
    split <;> exact h
  | time n => exact memOk_advance _ _ h
  | host a bs => exact memOk_hostWrite _ _ _ h
  | hostPort c va bs => exact memOk_hostStore _ _ _ _ h
  | hostRead c va n => exact memOk_hostLoad _ _ _ _ h
  | lineError l => exact memOk_lineFails _ _ h
  | rowFailure l n => exact memOk_rowsFail _ _ _ h
  | spdmOther bus code => exact memOk_spdmRefuse _ _ _ h

end Sys2Proof.Machine
end

section
/-! The memories stay canonical: the shapes of the effects. `Keeps` is asked of an outcome; each shape of an instruction's
or a request's effect has one lemma that asks only for what the shape leaves open. -/

namespace Sys2Proof.Machine

open Sys2Proof State

/-- Where an outcome is a next state, its memories are canonical. -/
def Keeps : Out → Prop
  | .next t => t.MemOk
  | _ => True

theorem keeps_next {t : State} (h : t.MemOk) : Keeps (.next t) := h
theorem keeps_scalarStep (s : State) (f : Nat → Nat → Nat → Snd → State) (hf : ∀ c k j x, (f c k j x).MemOk) :
    Keeps (scalarStep s f) := by
  unfold scalarStep
  split
  · split
    · exact hf _ _ _ _
    · trivial
  · trivial
theorem keeps_laneIssue (s : State) (i : Issue) (eff : Issue → State → State) (h : s.MemOk) (hf : (eff i s).MemOk) :
    Keeps (laneIssue s i eff) := by
  unfold laneIssue
  split
  · exact memOk_trap _ _ _ _ _ _ _ _ _ _ h
  · split
    · exact memOk_trap _ _ _ _ _ _ _ _ _ _ h
    · split
      · exact memOk_trap _ _ _ _ _ _ _ _ _ _ h
      · split
        · exact h
        · exact hf
theorem keeps_laneStep (s : State) (maj min : Nat) (b : LaneBody) (eff : Issue → State → State) (h : s.MemOk)
    (hf : ∀ i, (eff i s).MemOk) : Keeps (laneStep s maj min b eff) := by
  unfold laneStep
  split
  · split
    · trivial
    · split
      · trivial
      · exact keeps_laneIssue _ _ _ h (hf _)
  · trivial
theorem keeps_laneArith (s : State) (maj min : Nat) (b : LaneBody)
    (op : Issue → List Nat → List Nat → List Nat → List Nat → List (Nat × Nat)) (h : s.MemOk) :
    Keeps (laneArith s maj min b op) :=
  keeps_laneStep _ _ _ _ _ h fun _ => memOk_finish _ _ _ h
theorem keeps_laneQuant (min : Nat) (f : LaneR) (s : State) (op : Issue → Nat → List Nat → List Nat → List (Nat × Nat))
    (h : s.MemOk) : Keeps (laneQuant min f s op) :=
  keeps_laneStep _ _ _ _ _ h fun _ => by grind [memOk_finish, memOk_execTrap]
theorem keeps_laneMemory (s : State) (maj min : Nat) (f : LaneI) (h : s.MemOk) : Keeps (laneMemory s maj min f) :=
  keeps_laneStep _ _ _ _ _ h fun _ => memOk_access _ _ _ _ _ _ h
theorem keeps_engineStep (s : State) (maj min : Nat) (f : LaneR) (busy : Issue → State → Bool) (check : Issue → State → Check)
    (waits : Issue → State → Bool) (eff : Issue → State → State) (h : s.MemOk) (hf : ∀ i, (eff i s).MemOk) :
    Keeps (engineStep s maj min f busy check waits eff) :=
  keeps_laneStep _ _ _ _ _ h fun i => by
    split
    · exact memOk_retire _ _ _ h
    · exact memOk_engineIssue _ _ _ _ _ _ h (hf i)
theorem keeps_statusStep (s : State) (maj min : Nat) (f : LaneR) (check : Issue → State → Check) (val : Issue → State → Nat)
    (h : s.MemOk) : Keeps (statusStep s maj min f check val) :=
  keeps_laneStep _ _ _ _ _ h fun _ => by grind [memOk_retire, memOk_trapCheck, memOk_finish]
theorem keeps_matStep (s : State) (min : Nat) (k : MatKind) (f : LaneR) (h : s.MemOk) : Keeps (matStep s min k f) :=
  keeps_laneStep _ _ _ _ _ h fun _ => by grind [memOk_retire, memOk_engineQueue]
theorem keeps_scalarWrite (s : State) (d : BitVec 6) (f : Snd → Word) (h : s.MemOk) : Keeps (scalarWrite s d f) :=
  keeps_scalarStep _ _ fun _ _ _ _ => memOk_putSnd _ _ _ _ _ h
theorem keeps_scalarAlu (op : SOp) (d a b : BitVec 6) (s : State) (h : s.MemOk) : Keeps (scalarAlu op d a b s) :=
  keeps_scalarWrite _ _ _ h
theorem keeps_scalarAlu32 (op : SOp) (d a b : BitVec 6) (s : State) (h : s.MemOk) : Keeps (scalarAlu32 op d a b s) :=
  keeps_scalarWrite _ _ _ h
theorem keeps_scalarCmp (s : State) (d cc : BitVec 3) (f : Snd → Word × Word) (h : s.MemOk) : Keeps (scalarCmp s d cc f) :=
  keeps_scalarStep _ _ fun _ _ _ _ => memOk_putSnd _ _ _ _ _ h
theorem keeps_scalarLoad (t : Nat) (d a : BitVec 6) (i : BitVec 14) (s : State) (h : s.MemOk) : Keeps (scalarLoad t d a i s) :=
  keeps_scalarStep _ _ fun _ _ _ _ => by grind [memOk_scalarTrap, memOk_haltRevoked, memOk_readAs, memOk_putSnd, memOk_sendOp]
theorem keeps_scalarStore (t : Nat) (v a : BitVec 6) (i : BitVec 14) (s : State) (h : s.MemOk) :
    Keeps (scalarStore t v a i s) :=
  keeps_scalarStep _ _ fun _ _ _ _ => by grind [memOk_scalarTrap, memOk_putSnd]
theorem keeps_scalarFence (sys : Bool) (s : State) (h : s.MemOk) : Keeps (scalarFence sys s) :=
  keeps_scalarStep _ _ fun _ _ _ _ => by grind [memOk_putSnd]
theorem keeps_mcfStep (s : State) (f : Nat → Nat → Nat → CollEntry → Thread → McfRes) (h : s.MemOk)
    (hf : ∀ p c i e t, (f p c i e t).MemOk) : Keeps (mcfStep s f) := by
  unfold mcfStep
  split
  next port ctx cid _ =>
    split
    next e t _ _ =>
      refine keeps_next ?_
      split
      · exact memOk_threadFault _ _ _ _ _ _ _ _ _ _ h
      · have hr := hf port ctx cid e t
        split <;> rename_i heq <;> rw [heq] at hr
        · exact memOk_putThread _ _ _ _ _ hr
        · exact memOk_putThread _ _ _ _ _ hr
        · exact memOk_progError _ _ _ _ _ _ hr
        · exact memOk_threadFault _ _ _ _ _ _ _ _ _ _ hr
    · trivial
  · trivial
theorem keeps_withPk (s : State) (pk : BitVec 2) (f : Nat → Nat → Nat → CollEntry → Thread → PkReg → McfRes) (h : s.MemOk)
    (hf : ∀ p c i e t k, (f p c i e t k).MemOk) : Keeps (withPk s pk f) :=
  keeps_mcfStep _ _ h fun _ _ _ _ _ => by
    split
    · exact h
    · exact hf _ _ _ _ _ _
theorem keeps_mcfReg (s : State) (d : BitVec 4) (v : Thread → Word) (h : s.MemOk) : Keeps (mcfReg s d v) :=
  keeps_mcfStep _ _ h fun _ _ _ _ _ => h
theorem keeps_mcfBranch (s : State) (off : BitVec 32) (cond : Thread → Bool) (h : s.MemOk) : Keeps (mcfBranch s off cond) :=
  keeps_mcfStep _ _ h fun _ _ _ _ _ => h
theorem keeps_service (s : State) (part k code : Nat) (f : State → Nat → State) (h : s.MemOk)
    (hf : ∀ t q, t.MemOk → (f t q).MemOk) : Keeps (service s part k code f) := by
  refine keeps_next ?_
  split
  · exact h
  · split
    · exact hf _ _ h
    · exact h
theorem keeps_serviceOp (s : State) (part k op : Nat) (f : State → Nat → State) (h : s.MemOk)
    (hf : ∀ t q, t.MemOk → (f t q).MemOk) : Keeps (serviceOp s part k op f) := by
  unfold serviceOp
  split
  · exact h
  · split
    · exact keeps_service _ _ _ _ _ h hf
    · split
      · exact keeps_service _ _ _ _ _ h fun t q ht => memOk_answerReq _ _ _ _ ht
      · exact h
theorem keeps_onConn (s : State) (bus stage : Nat) (f : State → State) (h : s.MemOk) (hf : (f s).MemOk) :
    Keeps (onConn s bus stage f) := by
  refine keeps_next ?_
  split
  · exact hf
  · exact memOk_spdmSay _ _ _ _ h
theorem keeps_inSession (s : State) (bus n : Nat) (f : State → Session → State) (h : s.MemOk) (hf : ∀ x, (f s x).MemOk) :
    Keeps (inSession s bus n f) :=
  keeps_onConn _ _ _ _ h (by grind [memOk_spdmSay])
theorem memOk_mcfSource {s : State} {port ctx cid : Nat} {e : CollEntry} {t : Thread} {m c : Nat} (h : s.MemOk)
    {u : State} {t' : Thread} (hw : readSource s port ctx cid e t m c = .wait u t') : u.MemOk := by
  have hr := memOk_readSource s port ctx cid e t m c h
  rwa [hw] at hr
theorem keeps_mcfFold (op : Nat) (d b : BitVec 4) (s : State) (h : s.MemOk) : Keeps (mcfFold op d b s) :=
  keeps_mcfStep _ _ h fun _ _ _ _ _ => by
    dsimp only
    split
    · exact h
    · split
      · exact h
      · exact memOk_releaseStaged _ _ _ _ _ _ _ _ h
theorem keeps_mcfComb (op : Nat) (pk : BitVec 2) (b : BitVec 4) (lo : BitVec 1) (s : State) (h : s.MemOk) :
    Keeps (mcfComb op pk b lo s) :=
  keeps_withPk _ _ _ h fun _ _ _ _ _ _ => by
    dsimp only
    split
    · exact memOk_discardDuplicate _ _ _ _ h
    · split
      · exact h
      · split
        · exact memOk_dropLoad _ _ _ _ h
        · split
          · exact h
          · split
            · exact memOk_releaseStaged _ _ _ _ _ _ _ _ h
            · exact memOk_mcfSource h ‹_›
            · exact h
theorem keeps_execMStream (a b : BitVec 4) (s : State) (h : s.MemOk) : Keeps (execMStream a b s) :=
  keeps_mcfStep _ _ h fun _ _ _ _ _ => by
    dsimp only
    split
    · exact h
    · split
      · exact memOk_dropLoad _ _ _ _ h
      · split
        · exact h
        · split
          · exact memOk_modPort _ _ _ h
          · split
            · exact h
            · exact memOk_mcfSource h ‹_›
            · exact h
theorem keeps_execMEnd (s : State) (h : s.MemOk) : Keeps (execMEnd s) := by
  unfold execMEnd
  split
  · split
    · refine keeps_next ?_
      split
      · exact memOk_threadFault _ _ _ _ _ _ _ _ _ _ h
      · split
        · exact memOk_nextInstance _ _ _ _ _ _ (memOk_modPort _ _ _ (memOk_foldl _ (fun t p ht => memOk_ackPacket _ _ _ ht) _ _ h))
        · exact memOk_progError _ _ _ _ _ _ h
    · trivial
  · trivial
theorem Keeps.of_eq {o : Out} {t : State} (h : Keeps o) (ho : o = .next t) : t.MemOk := by
  rwa [ho] at h
theorem keeps_execVHwait (f : LaneR) (s : State) (h : s.MemOk) : Keeps (execVHwait f s) :=
  keeps_engineStep _ _ _ _ _ _ _ _ h fun _ => h
theorem keeps_execEHwaitReturn (ctx core slot slices : Nat) (s : State) (h : s.MemOk) :
    Keeps (execEHwaitReturn ctx core slot slices s) := by
  have ht (f : LaneR) : Keeps (execVHwait f { s with cur := .lane ctx core slot slices }) := keeps_execVHwait f _ h
  unfold execEHwaitReturn
  split
  · exact h
  · dsimp only
    split
    · split
      · next t hq => exact (ht _).of_eq (t := t) hq
      · exact ht _
    · exact h

end Sys2Proof.Machine
end

section
/-! The memories stay canonical: the effect of each instruction and event that is more than its shape. -/

namespace Sys2Proof.Machine

open Sys2Proof State

theorem keeps_execVLend (f : LaneI) (s : State) (h : s.MemOk) : Keeps (execVLend f s) :=
  keeps_laneStep _ _ _ _ _ h fun _ => by grind [memOk_modSlices, memOk_modSnd, memOk_retire]
theorem keeps_execVLnop (f : LaneI) (s : State) (h : s.MemOk) : Keeps (execVLnop f s) :=
  keeps_laneStep _ _ _ _ _ h fun _ => by grind [memOk_retire]
theorem keeps_execVLbrAny (f : LaneI) (s : State) (h : s.MemOk) : Keeps (execVLbrAny f s) :=
  keeps_laneStep _ _ _ _ _ h fun _ => by grind [memOk_branch]
theorem keeps_execVLbrAll (f : LaneI) (s : State) (h : s.MemOk) : Keeps (execVLbrAll f s) :=
  keeps_laneStep _ _ _ _ _ h fun _ => by grind [memOk_branch]
theorem keeps_execVLjmp (f : LaneI) (s : State) (h : s.MemOk) : Keeps (execVLjmp f s) :=
  keeps_laneStep _ _ _ _ _ h fun _ => by grind [memOk_branch]
theorem keeps_execVRegang (f : LaneI) (s : State) (h : s.MemOk) : Keeps (execVRegang f s) :=
  keeps_laneStep _ _ _ _ _ h fun _ => by grind [memOk_modSlices, memOk_retire]
theorem keeps_execVLtrap (f : LaneI) (s : State) (h : s.MemOk) : Keeps (execVLtrap f s) :=
  keeps_laneStep _ _ _ _ _ h fun _ => by grind [memOk_retire, memOk_trap]
theorem keeps_execERegangJoin (ctx core slot : Nat) (s : State) (h : s.MemOk) : Keeps (execERegangJoin ctx core slot s) :=
  keeps_next (by grind [memOk_modSnd])
theorem keeps_execELaneBlockStart (ctx core slot : Nat) (s : State) (h : s.MemOk) : Keeps
    (execELaneBlockStart ctx core slot s) :=
  keeps_next (by grind [memOk_modSnd])
theorem keeps_execSBc (c : BitVec 3) (n : BitVec 1) (o : BitVec 22) (s : State) (h : s.MemOk) : Keeps (execSBc c n o s) :=
  keeps_scalarStep _ _ fun _ _ _ _ => by grind [memOk_putSnd, memOk_transfer]
theorem keeps_execSJmp (o : BitVec 26) (s : State) (h : s.MemOk) : Keeps (execSJmp o s) :=
  keeps_scalarStep _ _ fun _ _ _ _ => by grind [memOk_transfer]
theorem keeps_execSCall (o : BitVec 26) (s : State) (h : s.MemOk) : Keeps (execSCall o s) :=
  keeps_scalarStep _ _ fun _ _ _ _ => by grind [memOk_transfer]
theorem keeps_execSJmpr (a : BitVec 6) (s : State) (h : s.MemOk) : Keeps (execSJmpr a s) :=
  keeps_scalarStep _ _ fun _ _ _ _ => by grind [memOk_transfer]
theorem keeps_execSCallr (a : BitVec 6) (s : State) (h : s.MemOk) : Keeps (execSCallr a s) :=
  keeps_scalarStep _ _ fun _ _ _ _ => by grind [memOk_transfer]
theorem keeps_execSRet (s : State) (h : s.MemOk) : Keeps (execSRet s) :=
  keeps_scalarStep _ _ fun _ _ _ _ => by grind [memOk_transfer]
theorem keeps_execSLrun (k : BitVec 3) (b : BitVec 12) (s : State) (h : s.MemOk) : Keeps (execSLrun k b s) :=
  keeps_scalarStep _ _ fun _ _ _ _ => by grind [memOk_putSnd, memOk_scalarTrap]
theorem keeps_execSLsync (s : State) (h : s.MemOk) : Keeps (execSLsync s) :=
  keeps_scalarStep _ _ fun _ _ _ _ => by grind [memOk_putSnd]
theorem keeps_execSSfenceLocal (s : State) (h : s.MemOk) : Keeps (execSSfenceLocal s) :=
  keeps_scalarStep _ _ fun _ _ _ _ => by grind [memOk_putSnd]
theorem keeps_execVGprefetch (f : LaneI) (s : State) (h : s.MemOk) : Keeps (execVGprefetch f s) :=
  keeps_laneStep _ _ _ _ _ h fun _ => by grind [memOk_retire]
theorem keeps_execVFenceCore (f : LaneR) (s : State) (h : s.MemOk) : Keeps (execVFenceCore f s) :=
  keeps_laneStep _ _ _ _ _ h fun _ => by grind [memOk_retire]
theorem keeps_execVFencePkg (f : LaneR) (s : State) (h : s.MemOk) : Keeps (execVFencePkg f s) :=
  keeps_laneStep _ _ _ _ _ h fun _ => by grind [memOk_retire]
theorem keeps_execVFenceSys (f : LaneR) (s : State) (h : s.MemOk) : Keeps (execVFenceSys f s) :=
  keeps_laneStep _ _ _ _ _ h fun _ => by grind [memOk_retire]
theorem keeps_execVFenceEng (f : LaneR) (s : State) (h : s.MemOk) : Keeps (execVFenceEng f s) :=
  keeps_laneStep _ _ _ _ _ h fun _ => by grind [memOk_engFence, memOk_retire]
theorem keeps_execVHrel (f : LaneR) (s : State) (h : s.MemOk) : Keeps (execVHrel f s) :=
  keeps_engineStep _ _ _ _ _ _ _ _ h fun _ => by grind [memOk_moveHandle]
theorem keeps_execVCbset (f : LaneR) (s : State) (h : s.MemOk) : Keeps (execVCbset f s) :=
  keeps_engineStep _ _ _ _ _ _ _ _ h fun _ => by grind [memOk_putCB]
theorem keeps_execVCbpush (f : LaneR) (s : State) (h : s.MemOk) : Keeps (execVCbpush f s) :=
  keeps_engineStep _ _ _ _ _ _ _ _ h fun _ => by grind [memOk_modCC, memOk_putCB]
theorem keeps_execVCbpop (f : LaneR) (s : State) (h : s.MemOk) : Keeps (execVCbpop f s) :=
  keeps_engineStep _ _ _ _ _ _ _ _ h fun _ => by grind [memOk_modCC, memOk_startFills]
theorem keeps_execVCopy (f : LaneR) (s : State) (h : s.MemOk) : Keeps (execVCopy f s) :=
  keeps_laneStep _ _ _ _ _ h fun _ => by grind [memOk_engineQueue, memOk_retire]
theorem keeps_execVCopyFo (f : LaneR) (s : State) (h : s.MemOk) : Keeps (execVCopyFo f s) :=
  keeps_laneStep _ _ _ _ _ h fun _ => by grind [memOk_engineQueue, memOk_retire, memOk_trap, memOk_trapCheck]
theorem keeps_execVRoute (f : LaneR) (s : State) (h : s.MemOk) : Keeps (execVRoute f s) :=
  keeps_laneStep _ _ _ _ _ h fun _ => by grind [memOk_engineQueue, memOk_retire]
theorem keeps_execVCstart (f : LaneR) (s : State) (h : s.MemOk) : Keeps (execVCstart f s) :=
  keeps_laneStep _ _ _ _ _ h fun _ => by grind [memOk_engineQueue, memOk_retire]
theorem keeps_execEEngineCommandFire (ctx core unit : Nat) (s : State) (h : s.MemOk) : Keeps
    (execEEngineCommandFire ctx core unit s) :=
  keeps_next (by grind [memOk_fireArray, memOk_fireCopy, memOk_firePop, memOk_fireRoute])
theorem keeps_execECopyLastByte (ctx core id n : Nat) (s : State) (h : s.MemOk) : Keeps (execECopyLastByte ctx core id n s) :=
  keeps_next (by grind [memOk_runCopy])
theorem keeps_execEArrayCommandComplete (ctx core : Nat) (s : State) (h : s.MemOk) : Keeps
    (execEArrayCommandComplete ctx core s) :=
  keeps_next (by grind [memOk_faultArray, memOk_leaveArray, memOk_matEffect])
theorem keeps_execEArrayTransientError (ctx core : Nat) (s : State) (h : s.MemOk) : Keeps
    (execEArrayTransientError ctx core s) :=
  keeps_next (by grind [memOk_countError, memOk_putMat])
theorem keeps_execERouteComplete (die n : Nat) (s : State) (h : s.MemOk) : Keeps (execERouteComplete die n s) :=
  keeps_next (by grind [memOk_runRoute])
theorem keeps_execEEngineAccessFault (ctx core unit id : Nat) (ue : Bool) (s : State) (h : s.MemOk) : Keeps
    (execEEngineAccessFault ctx core unit id ue s) :=
  keeps_next (by grind [memOk_copyStep, memOk_faultArray, memOk_faultCopy, memOk_faultRoute, memOk_poisonAt, memOk_poisonLoc,
    memOk_routeStep])
theorem keeps_execMMatch (d : BitVec 4) (pk : BitVec 2) (kinds : BitVec 5) (tmo : BitVec 32) (s : State) (h : s.MemOk) :
    Keeps (execMMatch d pk kinds tmo s) :=
  keeps_mcfStep _ _ h fun _ _ _ _ _ => by grind [McfRes.MemOk, State.MemOk]
theorem keeps_execEMatchTimeout (port ctx cid : Nat) (s : State) (h : s.MemOk) : Keeps (execEMatchTimeout port ctx cid s) :=
  keeps_next (by grind [memOk_putThread])
theorem keeps_execMRdh (d : BitVec 4) (pk : BitVec 2) (f : BitVec 3) (s : State) (h : s.MemOk) : Keeps (execMRdh d pk f s) :=
  keeps_withPk _ _ _ h fun _ _ _ _ _ _ => by grind [McfRes.MemOk, State.MemOk]
theorem keeps_execMRdm (d a : BitVec 4) (f : BitVec 3) (s : State) (h : s.MemOk) : Keeps (execMRdm d a f s) :=
  keeps_mcfStep _ _ h fun _ _ _ _ _ => by grind [McfRes.MemOk, State.MemOk]
theorem keeps_execMMark (d : BitVec 4) (pk : BitVec 2) (s : State) (h : s.MemOk) : Keeps (execMMark d pk s) :=
  keeps_withPk _ _ _ h fun _ _ _ _ _ _ => by grind [McfRes.MemOk, State.MemOk]
theorem keeps_execMHold (pk : BitVec 2) (s : State) (h : s.MemOk) : Keeps (execMHold pk s) :=
  keeps_withPk _ _ _ h fun _ _ _ _ _ _ => by grind [McfRes.MemOk, memOk_ackPacket, memOk_discardDuplicate, memOk_hold]
theorem keeps_execMDrop (pk : BitVec 2) (s : State) (h : s.MemOk) : Keeps (execMDrop pk s) :=
  keeps_withPk _ _ _ h fun _ _ _ _ _ _ => by grind [McfRes.MemOk, memOk_ackPacket]
theorem keeps_execMFoldQ (d b : BitVec 4) (s : State) (h : s.MemOk) : Keeps (execMFoldQ d b s) :=
  keeps_mcfStep _ _ h fun _ _ _ _ _ => by grind [McfRes.MemOk, State.MemOk]
theorem keeps_execMFwd (pk : BitVec 2) (k : BitVec 3) (a c : BitVec 4) (s : State) (h : s.MemOk) : Keeps
    (execMFwd pk k a c s) :=
  keeps_withPk _ _ _ h fun _ _ _ _ _ _ => by grind [McfRes.MemOk, memOk_mcfForward]
theorem keeps_execMFwdAcc (b : BitVec 4) (k : BitVec 3) (a c : BitVec 4) (s : State) (h : s.MemOk) : Keeps
    (execMFwdAcc b k a c s) :=
  keeps_mcfStep _ _ h fun _ _ _ _ _ => by grind [McfRes.MemOk, memOk_mcfForward]
theorem keeps_execMDlv (a b : BitVec 4) (s : State) (h : s.MemOk) : Keeps (execMDlv a b s) :=
  keeps_mcfStep _ _ h fun _ _ _ _ _ => by grind [McfRes.MemOk, memOk_mcfDeliver]
theorem keeps_execMDlvPk (a : BitVec 4) (pk : BitVec 2) (s : State) (h : s.MemOk) : Keeps (execMDlvPk a pk s) :=
  keeps_withPk _ _ _ h fun _ _ _ _ _ _ => by grind [McfRes.MemOk, memOk_mcfDeliver]
theorem keeps_execMDlvG (a : BitVec 4) (pk : BitVec 2) (s : State) (h : s.MemOk) : Keeps (execMDlvG a pk s) :=
  keeps_withPk _ _ _ h fun _ _ _ _ _ _ => by grind [McfRes.MemOk, memOk_mcfDeliver]
theorem keeps_execMTkreq (a b : BitVec 4) (s : State) (h : s.MemOk) : Keeps (execMTkreq a b s) :=
  keeps_mcfStep _ _ h fun _ _ _ _ _ => by grind [McfRes.MemOk, memOk_sendOp]
theorem keeps_execMArrive (a : BitVec 4) (status : BitVec 8) (s : State) (h : s.MemOk) : Keeps (execMArrive a status s) :=
  keeps_mcfStep _ _ h fun _ _ _ _ _ => by grind [McfRes.MemOk, memOk_partDone]
theorem keeps_execSJoin (d a : BitVec 6) (s : State) (h : s.MemOk) : Keeps (execSJoin d a s) :=
  keeps_scalarStep _ _ fun _ _ _ _ => by grind [memOk_putBarrier, memOk_putSnd, memOk_scalarTrap, memOk_syncStep,
    memOk_testPhase]
theorem keeps_execSLeave (a : BitVec 6) (s : State) (h : s.MemOk) : Keeps (execSLeave a s) :=
  keeps_scalarStep _ _ fun _ _ _ _ => by grind [memOk_leaveDrey, memOk_putSnd, memOk_scalarTrap, memOk_syncStep]
theorem keeps_execSBarArrive (d a b : BitVec 6) (s : State) (h : s.MemOk) : Keeps (execSBarArrive d a b s) :=
  keeps_scalarStep _ _ fun _ _ _ _ => by grind [memOk_memberArrive, memOk_putSnd, memOk_scalarTrap, memOk_syncStep]
theorem keeps_execSBarWait (d a b : BitVec 6) (s : State) (h : s.MemOk) : Keeps (execSBarWait d a b s) :=
  keeps_scalarStep _ _ fun _ _ _ _ => by grind [memOk_barReturn, memOk_scalarTrap]
theorem keeps_execSBarSync (d a : BitVec 6) (s : State) (h : s.MemOk) : Keeps (execSBarSync d a s) :=
  keeps_scalarStep _ _ fun _ _ _ _ => by grind [memOk_memberArrive, memOk_scalarTrap, memOk_syncStep]
theorem keeps_execEBarrierWaitRelease (ctx core slot : Nat) (s : State) (h : s.MemOk) : Keeps
    (execEBarrierWaitRelease ctx core slot s) :=
  keeps_next (by grind [memOk_barReturn, memOk_wake])
theorem keeps_execSEvarm (e a : BitVec 6) (s : State) (h : s.MemOk) : Keeps (execSEvarm e a s) :=
  keeps_scalarStep _ _ fun _ _ _ _ => by grind [memOk_putSnd, memOk_scalarTrap]
theorem keeps_execSEvdisarm (e : BitVec 6) (s : State) (h : s.MemOk) : Keeps (execSEvdisarm e s) :=
  keeps_scalarStep _ _ fun _ _ _ _ => by grind [memOk_putSnd, memOk_scalarTrap]
theorem keeps_execSWaitany (d : BitVec 6) (s : State) (h : s.MemOk) : Keeps (execSWaitany d s) :=
  keeps_scalarStep _ _ fun _ _ _ _ => by grind [memOk_putSnd, memOk_scalarTrap]
theorem keeps_execEWaitanyWake (ctx core slot : Nat) (s : State) (h : s.MemOk) : Keeps (execEWaitanyWake ctx core slot s) :=
  keeps_next (by grind [memOk_putSnd, memOk_wake])
theorem keeps_execSMbpost (a b : BitVec 6) (s : State) (h : s.MemOk) : Keeps (execSMbpost a b s) :=
  keeps_scalarStep _ _ fun _ _ _ _ => by grind [memOk_putMail, memOk_putSnd, memOk_scalarTrap]
theorem keeps_execSMbsend (d a b : BitVec 6) (s : State) (h : s.MemOk) : Keeps (execSMbsend d a b s) :=
  keeps_scalarStep _ _ fun _ _ _ _ => by grind [memOk_mailGo, memOk_mailRelease, memOk_scalarTrap, memOk_syncStep]
theorem keeps_execSMbrecv (d a : BitVec 6) (s : State) (h : s.MemOk) : Keeps (execSMbrecv d a s) :=
  keeps_scalarStep _ _ fun _ _ _ _ => by grind [memOk_putMail, memOk_putSnd, memOk_scalarTrap]
theorem keeps_execSSysrd (d : BitVec 6) (r : BitVec 12) (s : State) (h : s.MemOk) : Keeps (execSSysrd d r s) :=
  keeps_scalarStep _ _ fun _ _ _ _ => by grind [memOk_putSnd, memOk_scalarTrap]
theorem keeps_execSSyswr (a : BitVec 6) (r : BitVec 12) (s : State) (h : s.MemOk) : Keeps (execSSyswr a r s) :=
  keeps_scalarStep _ _ fun _ _ _ _ => by grind [memOk_putSnd, memOk_scalarTrap]
theorem keeps_execSRdtime (d : BitVec 6) (s : State) (h : s.MemOk) : Keeps (execSRdtime d s) :=
  keeps_scalarStep _ _ fun _ _ _ _ => by grind [memOk_putSnd]
theorem keeps_execSSvc (a : BitVec 6) (s : State) (h : s.MemOk) : Keeps (execSSvc a s) :=
  keeps_scalarStep _ _ fun _ _ _ _ => by grind [memOk_scalarTrap]
theorem keeps_execSSndend (s : State) (h : s.MemOk) : Keeps (execSSndend s) :=
  keeps_scalarStep _ _ fun _ _ _ _ => by grind [memOk_endTurn]
theorem keeps_execSTret (s : State) (h : s.MemOk) : Keeps (execSTret s) :=
  keeps_scalarStep _ _ fun _ _ _ _ => by grind [memOk_endTurn, memOk_scalarTrap, memOk_sendUp, memOk_tretAct]
theorem keeps_execSOplrd (d a b : BitVec 6) (s : State) (h : s.MemOk) : Keeps (execSOplrd d a b s) :=
  keeps_scalarStep _ _ fun _ _ _ _ => by grind [memOk_putSnd, memOk_scalarTrap]
theorem keeps_execSOplrep (d a : BitVec 6) (s : State) (h : s.MemOk) : Keeps (execSOplrep d a s) :=
  keeps_scalarStep _ _ fun _ _ _ _ => by grind [memOk_modSnd, memOk_performLanes, memOk_putSnd, memOk_rehearse,
    memOk_scalarTrap, memOk_settleReplay]
theorem keeps_execEDeterministicRelease (ctx core slot : Nat) (s : State) (h : s.MemOk) :
    Keeps (execEDeterministicRelease ctx core slot s) := by
  have ht : ({ s with cur := .scalar ctx core slot } : State).MemOk := h
  unfold execEDeterministicRelease
  split
  · exact h
  · split
    · split
      · exact h
      · dsimp only
        have hr (w d a b : Nat) : Keeps (match w / 2 ^ 26, w % 2 ^ 8 with
            | 0x26, 0 => execSJoin (BitVec.ofNat 6 d) (BitVec.ofNat 6 a) { s with cur := .scalar ctx core slot }
            | 0x26, 1 => execSLeave (BitVec.ofNat 6 a) { s with cur := .scalar ctx core slot }
            | 0x26, 2 => execSBarArrive (BitVec.ofNat 6 d) (BitVec.ofNat 6 a) (BitVec.ofNat 6 b) { s with cur := .scalar ctx core slot }
            | 0x26, 4 => execSBarSync (BitVec.ofNat 6 d) (BitVec.ofNat 6 a) { s with cur := .scalar ctx core slot }
            | 0x27, 1 => execSMbsend (BitVec.ofNat 6 d) (BitVec.ofNat 6 a) (BitVec.ofNat 6 b) { s with cur := .scalar ctx core slot }
            | 0x29, 1 => execSSndend { s with cur := .scalar ctx core slot }
            | 0x29, 2 => execSTret { s with cur := .scalar ctx core slot }
            | _, _ => .next s) := by
          split
          · exact keeps_execSJoin _ _ _ ht
          · exact keeps_execSLeave _ _ ht
          · exact keeps_execSBarArrive _ _ _ _ ht
          · exact keeps_execSBarSync _ _ _ ht
          · exact keeps_execSMbsend _ _ _ _ ht
          · exact keeps_execSSndend _ ht
          · exact keeps_execSTret _ ht
          · exact h
        split
        · next t hq => exact (hr _ _ _ _).of_eq (t := t) hq
        · exact hr _ _ _ _
    · exact h
theorem keeps_execELaneLoadFill (ctx core slot fill : Nat) (s : State) (h : s.MemOk) : Keeps
    (execELaneLoadFill ctx core slot fill s) :=
  keeps_next (by grind [memOk_fillWrite])
theorem keeps_execEAccessPerformed (ctx core slot entry count : Nat) (ue : Bool) (s : State) (h : s.MemOk) : Keeps
    (execEAccessPerformed ctx core slot entry count ue s) :=
  keeps_next (by grind [memOk_cleanTogether, memOk_performLanes, memOk_performNext, memOk_settleReplay])
theorem keeps_execEWindowAckArrival (op : Nat) (reply : Reply) (s : State) (h : s.MemOk) : Keeps
    (execEWindowAckArrival op reply s) :=
  keeps_next (by grind [memOk_applyReply])
theorem keeps_execEDirectPlacementRetry (op : Nat) (s : State) (h : s.MemOk) : Keeps (execEDirectPlacementRetry op s) :=
  keeps_next (by grind [memOk_resend])
theorem keeps_execEAliasStoreAccept (ctx core slot entry lane : Nat) (s : State) (h : s.MemOk) :
    Keeps (execEAliasStoreAccept ctx core slot entry lane s) := by
  refine keeps_next ?_
  dsimp only
  repeat' split
  all_goals try exact h
  exact memOk_settleReplay _ _ _ _ (memOk_modSnd _ _ _ _ _ (memOk_aliasAccept _ _ _ _ _ _ _ _ _ h))
theorem keeps_execEDeferredFaultDelivery (ctx core slot entry : Nat) (s : State) (h : s.MemOk) : Keeps
    (execEDeferredFaultDelivery ctx core slot entry s) :=
  keeps_next (by grind [memOk_putSnd, memOk_takeTrap])
theorem keeps_execEMailboxStatusReturn (op status : Nat) (s : State) (h : s.MemOk) : Keeps
    (execEMailboxStatusReturn op status s) :=
  keeps_next (by grind [State.MemOk, memOk_mailReturn])
theorem keeps_execEQuadrantArbitration (core quad : Nat) (lane : Bool) (s : State) (h : s.MemOk) : Keeps
    (execEQuadrantArbitration core quad lane s) :=
  keeps_next (by grind [State.MemOk, memOk_foldl, memOk_modCore, memOk_probeWaiting, memOk_settleWaits])
theorem keeps_execESliceEnd (core : Nat) (s : State) (h : s.MemOk) : Keeps (execESliceEnd core s) :=
  keeps_next (by grind [memOk_endSlice])
theorem keeps_execESafePoint (core : Nat) (s : State) (h : s.MemOk) : Keeps (execESafePoint core s) :=
  keeps_next (by grind [memOk_modCC, memOk_swapBanks])
theorem keeps_execESounderPark (ctx core n : Nat) (s : State) (h : s.MemOk) : Keeps (execESounderPark ctx core n s) :=
  keeps_next (by grind [memOk_parkNext])
theorem keeps_execESounderResume (ctx core : Nat) (s : State) (h : s.MemOk) : Keeps (execESounderResume ctx core s) :=
  keeps_next (by grind [memOk_bindEach, memOk_foldl, memOk_putSnd])
theorem keeps_execEBadgerSaveDone (core : Nat) (ue : Bool) (s : State) (h : s.MemOk) : Keeps (execEBadgerSaveDone core ue s) :=
  keeps_next (by grind [memOk_leaveBank, memOk_saveFailed, memOk_segState])
theorem keeps_execEBadgerFillDone (ctx core : Nat) (ue : Bool) (s : State) (h : s.MemOk) : Keeps
    (execEBadgerFillDone ctx core ue s) :=
  keeps_next (by grind [memOk_enterBank, memOk_modCore, memOk_saveFailed, memOk_swapBanks])
theorem keeps_execEBankControlWrite (core b value : Nat) (s : State) (h : s.MemOk) : Keeps
    (execEBankControlWrite core b value s) :=
  keeps_next (by grind [memOk_bankWrite])
theorem keeps_execEBankChangeComplete (core b : Nat) (s : State) (h : s.MemOk) : Keeps (execEBankChangeComplete core b s) :=
  keeps_next (by grind [memOk_clearBank, memOk_foldl, memOk_modCore])
theorem keeps_execECorePowerGate (core : Nat) (s : State) (h : s.MemOk) : Keeps (execECorePowerGate core s) :=
  keeps_next (by grind [memOk_modCore])
theorem keeps_execECoreMigration (core spare lost : Nat) (s : State) (h : s.MemOk) : Keeps
    (execECoreMigration core spare lost s) :=
  keeps_next (by grind [memOk_modCore, memOk_moveCore])
theorem keeps_execEShootDownComplete (ctx : Nat) (s : State) (h : s.MemOk) : Keeps (execEShootDownComplete ctx s) :=
  keeps_next (by grind [State.MemOk, memOk_completeReq, memOk_foldl, memOk_freeFrame, memOk_raceWaiting])
theorem keeps_execESentUpRecordService (ctx resume : Nat) (s : State) (h : s.MemOk) :
    Keeps (execESentUpRecordService ctx resume s) := by
  refine keeps_next ?_
  split
  · exact h
  · split
    · exact h
    · rename_i c _ _ w r _
      dsimp only
      generalize hu : putTrapq s ctx c _ = u
      have ht : u.MemOk := hu ▸ memOk_putTrapq _ _ _ _ h
      have hm (f : Ctx → Ctx) : (u.modCtx ctx f).MemOk := memOk_modCtx _ _ _ ht
      split
      · split
        · split
          · exact memOk_releaseSounder _ _ _ _ (memOk_serveFault _ _ _ _ ht ‹_›)
          · exact memOk_notify _ _ _ _ _ _ _ _ _ (memOk_releaseSounder _ _ _ _ ht)
        · exact memOk_notify _ _ _ _ _ _ _ _ _ (memOk_releaseSounder _ _ _ _ ht)
      · split
        · exact memOk_releaseCommand _ _ _ _ _ (memOk_serveFault _ _ _ _ ht ‹_›)
        · exact memOk_notify _ _ _ _ _ _ _ _ _ (memOk_releaseCommand _ _ _ _ _ ht)
      · split
        · exact memOk_notify _ _ _ _ _ _ _ _ _ (memOk_mapReserved _ _ _ (hm _) ‹_›)
        · split
          · exact hm _
          · exact memOk_notify _ _ _ _ _ _ _ _ _ (memOk_modCtx _ _ _ (hm _))
      · exact ht
      · exact memOk_notify _ _ _ _ _ _ _ _ _ ht
theorem keeps_execEQueueDoorbell (q tail : Nat) (s : State) (h : s.MemOk) : Keeps (execEQueueDoorbell q tail s) :=
  keeps_next (by grind [memOk_doorbell])
theorem keeps_execEPacketIntake (die : Nat) (s : State) (h : s.MemOk) : Keeps (execEPacketIntake die s) :=
  keeps_next (by grind [State.MemOk, memOk_haltRevoked, memOk_poolNode, memOk_refusePacket])
theorem keeps_execENodeDispatch (die : Nat) (s : State) (h : s.MemOk) : Keeps (execENodeDispatch die s) := by
  refine keeps_next ?_
  cases hu : (sortNodes s _).findSome? fun e => dispatchNode s e.1 e.2 with
  | none => exact h
  | some u =>
    obtain ⟨_, _, e, _, he, _⟩ := List.findSome?_eq_some_iff.mp hu
    exact memOk_dispatchNode _ _ _ h he
theorem keeps_execESounderAdmission (ctx core : Nat) (s : State) (h : s.MemOk) : Keeps (execESounderAdmission ctx core s) :=
  keeps_next (by grind [memOk_admitHead])
theorem keeps_execECoresidentAdmission (l : Nat) (s : State) (h : s.MemOk) : Keeps (execECoresidentAdmission l s) :=
  keeps_next (by grind [memOk_admitMany, memOk_foldl, memOk_modLaunch])
theorem keeps_execERecordQueueFullTile (node : Nat) (s : State) (h : s.MemOk) : Keeps (execERecordQueueFullTile node s) :=
  keeps_next (by grind [memOk_launchRecords])
theorem keeps_execEFlushTimerExpiry (node : Nat) (s : State) (h : s.MemOk) : Keeps (execEFlushTimerExpiry node s) :=
  keeps_next (by grind [memOk_flushQueue])
theorem keeps_execELaunchCompletion (l : Nat) (s : State) (h : s.MemOk) : Keeps (execELaunchCompletion l s) :=
  keeps_next (by grind [memOk_endLaunch])
theorem keeps_execECoreFailure (core spare lost : Nat) (s : State) (h : s.MemOk) : Keeps
    (execECoreFailure core spare lost s) := by
  unfold execECoreFailure
  split
  · exact memOk_loseCore _ _ h
  · exact keeps_execECoreMigration _ _ _ _ (memOk_modCore _ _ _ h)
theorem keeps_execEMailboxMessageArrival (m : MailMsg) (s : State) (h : s.MemOk) : Keeps (execEMailboxMessageArrival m s) :=
  keeps_next (by grind [memOk_mailInbound, memOk_mailOwn, memOk_onPort, memOk_onStream])
theorem keeps_execEPeerLaunchSend (queue : Nat) (s : State) (h : s.MemOk) : Keeps (execEPeerLaunchSend queue s) :=
  keeps_next (by grind [State.MemOk, memOk_nextSeq, memOk_putCtx, memOk_sendOp])
theorem keeps_execEPermitRequest (m : PermitMsg) (s : State) (h : s.MemOk) : Keeps (execEPermitRequest m s) :=
  keeps_next (by grind [memOk_clearAsked, memOk_grantPermit, memOk_modCtx, memOk_onPort, memOk_onStream, memOk_permitAnswer,
    memOk_refuseLaunch])
theorem keeps_execEPermitRenewal (m : RenewMsg) (s : State) (h : s.MemOk) : Keeps (execEPermitRenewal m s) :=
  keeps_next (by grind [State.MemOk, memOk_onPort, memOk_onStream, memOk_renewPermit])
theorem keeps_execEPermitExpiry (srcpkg srcctx queue : Nat) (s : State) (h : s.MemOk) : Keeps
    (execEPermitExpiry srcpkg srcctx queue s) :=
  keeps_next (by grind [State.MemOk])
theorem keeps_execEPeerLaunchArrival (m : PeerMsg) (s : State) (h : s.MemOk) : Keeps (execEPeerLaunchArrival m s) :=
  keeps_next (by grind [State.MemOk, memOk_onPort, memOk_onStream, memOk_placePeer, memOk_refuseLaunch])
theorem keeps_execEInboundWindowAccess (w : WinIn) (s : State) (h : s.MemOk) : Keeps (execEInboundWindowAccess w s) := by
  refine keeps_next (memOk_onPort _ _ _ _ h fun t ht => ?_)
  split
  · exact memOk_emit _ _ ht
  · rename_i a _
    split
    · exact memOk_emit _ _ ht
    · have hw (wid : Nat) := memOk_winAccess t a.dstctx w.srcpkg wid w.req ht
      split <;> rename_i heq <;> have hu := heq ▸ hw _ <;> exact memOk_emit _ _ hu
theorem keeps_execERetransmissionTimeout (op : Nat) (s : State) (h : s.MemOk) : Keeps (execERetransmissionTimeout op s) :=
  keeps_next (by grind [memOk_timeOut])
theorem keeps_execELinkFailure (port : Nat) (s : State) (h : s.MemOk) : Keeps (execELinkFailure port s) :=
  keeps_next (by grind [memOk_degrade, memOk_emitKept, memOk_modPort])
theorem keeps_execELinkUp (port : Nat) (s : State) (h : s.MemOk) : Keeps (execELinkUp port s) :=
  keeps_next (by grind [memOk_modPort])
theorem keeps_execEPortLaneFailure (port : Nat) (s : State) (h : s.MemOk) : Keeps (execEPortLaneFailure port s) := by
  unfold execEPortLaneFailure
  split
  · exact keeps_execELinkFailure _ _ h
  · exact memOk_degrade _ (memOk_modPort _ _ _ h)
theorem keeps_execEMemoryLaneFailure (channel : Nat) (s : State) (h : s.MemOk) : Keeps (execEMemoryLaneFailure channel s) :=
  keeps_next (by grind [State.MemOk, memOk_degrade])
theorem keeps_execESpareLaneSwitchDone (isPort : Bool) (n : Nat) (s : State) (h : s.MemOk) : Keeps
    (execESpareLaneSwitchDone isPort n s) :=
  keeps_next (by grind [State.MemOk, memOk_modPort])
theorem keeps_execELinkRekey (port : Nat) (done : Bool) (s : State) (h : s.MemOk) : Keeps (execELinkRekey port done s) :=
  keeps_next (by grind [memOk_emitKept, memOk_modPort])
theorem keeps_execECollectivePacketArrival (c : CollIn) (s : State) (h : s.MemOk) : Keeps (execECollectivePacketArrival c s) :=
  keeps_next (by grind [memOk_emit, memOk_enterThread, memOk_keepCopy, memOk_modPort, memOk_onPort])
theorem keeps_execETakeoverRequestArrival (r : Takeover) (s : State) (h : s.MemOk) : Keeps (execETakeoverRequestArrival r s) :=
  keeps_next (by grind [memOk_emit, memOk_onPort, memOk_sendOp])
theorem keeps_execEPackageDeclaredFailed (m : AbsentMsg) (s : State) (h : s.MemOk) : Keeps (execEPackageDeclaredFailed m s) :=
  keeps_next (by grind [memOk_absentMember, memOk_degrade, memOk_foldl, memOk_send])
theorem keeps_execEEventTimerExpiry (ctx core slot n : Nat) (s : State) (h : s.MemOk) : Keeps
    (execEEventTimerExpiry ctx core slot n s) :=
  keeps_next (by grind [memOk_latchTimer])
theorem keeps_execEServiceRingDoorbell (part : Nat) (m : RingMsg) (s : State) (h : s.MemOk) : Keeps
    (execEServiceRingDoorbell part m s) :=
  keeps_next (by grind [State.MemOk, memOk_ringTail])
theorem keeps_execECreateContext (part k domain slot base size : Nat) (s : State) (h : s.MemOk) :
    Keeps (execECreateContext part k domain slot base size s) :=
  keeps_service _ _ _ _ _ h fun t q ht => by
    have hq (st : Nat) : (answerReq t part q st).MemOk := memOk_answerReq _ _ _ _ ht
    dsimp only
    split
    · exact hq _
    · split
      · exact hq _
      · split
        · exact hq _
        · split
          · split
            · exact hq _
            · next hf _ u hm =>
              have hu : u.MemOk := memOk_mapArea _ _ _ _ _ (memOk_ctxFrames _ _ ht hf) hm
              have hp (n : Nat) (x : KeySlot) (c : Ctx) : (putTrapq (putSlot u slot x) n c c.trapq).MemOk :=
                memOk_putTrapq _ _ _ _ (memOk_putSlot _ _ _ hu)
              have hc (n f : Nat) (x : KeySlot) (c : Ctx) :
                  ({ putTrapq (putSlot u slot x) n c c.trapq with freeCtr := f } : State).MemOk := hp n x c
              exact memOk_completeReq _ _ _ _ _ (hc _ _ _ _)
          · exact hq _
theorem keeps_execEResetContext (part k ctx : Nat) (s : State) (h : s.MemOk) : Keeps (execEResetContext part k ctx s) :=
  keeps_service _ _ _ _ _ h fun _ _ ht => by grind [memOk_answerReq, memOk_onHome, memOk_resetCtx]
theorem keeps_execEDestroyContext (part k ctx : Nat) (s : State) (h : s.MemOk) : Keeps (execEDestroyContext part k ctx s) :=
  keeps_service _ _ _ _ _ h fun _ _ ht => by grind [memOk_answerReq, memOk_destroyCtx, memOk_onHome]
theorem keeps_execELoadImage (part k ctx kzo va : Nat) (binds : List (Nat × Nat)) (s : State) (h : s.MemOk) :
    Keeps (execELoadImage part k ctx kzo va binds s) :=
  keeps_service _ _ _ _ _ h fun t q ht => memOk_onHome _ _ _ _ _ ht fun _ => by
    have hl := memOk_loadImage t ctx kzo va binds ht
    split <;> rename_i heq
    · exact memOk_answerReq _ _ _ _ ht
    · exact memOk_answerReq _ _ _ _ ht
    · exact h
    · exact memOk_completeReq _ _ _ _ _ (heq ▸ hl :)
theorem keeps_execECreateOrChangeQueue (part k queue desc : Nat) (page : Option Nat) (s : State) (h : s.MemOk) :
    Keeps (execECreateOrChangeQueue part k queue desc page s) :=
  keeps_service _ _ _ _ _ h fun t q ht => memOk_onHome _ _ _ _ _ ht fun _ => by
    have hm (x : Queue) (ctx : Nat) (b : Bool) : (if b then answerReq t part q 5 else
        match mapDoorbell { t with queues := t.queues.put queue x } ctx queue page with
        | some t => answerReq t part q 0
        | none => answerReq t part q 1).MemOk := by
      have hx : ({ t with queues := t.queues.put queue x } : State).MemOk := ht
      split
      · exact memOk_answerReq _ _ _ _ ht
      · split
        · exact memOk_answerReq _ _ _ _ (memOk_mapDoorbell _ _ _ _ hx ‹_›)
        · exact memOk_answerReq _ _ _ _ ht
    dsimp only
    split
    · exact memOk_answerReq _ _ _ _ ht
    · exact hm _ _ _
theorem keeps_execESetSramBanksTilesBarriers (part k ctx core : Nat) (words : List (Nat × Nat)) (share : Share) (s : State)
    (h : s.MemOk) : Keeps (execESetSramBanksTilesBarriers part k ctx core words share s) :=
  keeps_service _ _ _ _ _ h fun _ _ ht => by grind [State.MemOk, memOk_answerReq, memOk_modCC, memOk_onHome,
    memOk_openSegment, memOk_setBanks]
theorem keeps_execEMap (part k : Nat) (s : State) (h : s.MemOk) : Keeps (execEMap part k s) :=
  keeps_serviceOp _ _ _ _ _ h fun _ _ ht => by grind [memOk_answerReq, memOk_completeReq, memOk_mapRange, memOk_modCtx]
theorem keeps_execEUnmap (part k : Nat) (s : State) (h : s.MemOk) : Keeps (execEUnmap part k s) :=
  keeps_serviceOp _ _ _ _ _ h fun _ _ ht => by grind [State.MemOk, memOk_answerReq, memOk_changeLeaf, memOk_foldl]
theorem keeps_execEProtect (part k : Nat) (s : State) (h : s.MemOk) : Keeps (execEProtect part k s) :=
  keeps_serviceOp _ _ _ _ _ h fun t r ht => by
    have hq (st : Nat) : (answerReq t part r st).MemOk := memOk_answerReq _ _ _ _ ht
    have hf (c : Ctx) (set : Nat → Nat) (ps : List (Nat × Nat × Nat)) :
        (ps.foldl (fun t p => changeLeaf t c.troot p.1 set) t).MemOk :=
      memOk_foldl _ (fun _ _ hu => memOk_changeLeaf _ _ _ _ hu) _ _ ht
    split
    · exact hq _
    · dsimp only
      split
      · exact hq _
      · split
        · exact hq _
        · split
          · exact hq _
          · split
            · exact hq _
            · generalize (fun e : Nat => e - e / 4 % 4 * 4 + (if rqR r then 4 else 0) + (if rqW r then 8 else 0)) = set
              split
              · exact memOk_freeWord _ (hf _ _ _)
              · exact memOk_answerReq _ _ _ _ (hf _ _ _)
theorem keeps_execEReserve (part k : Nat) (s : State) (h : s.MemOk) : Keeps (execEReserve part k s) :=
  keeps_serviceOp _ _ _ _ _ h fun _ _ ht => by grind [memOk_answerReq, memOk_mapRange, memOk_modCtx]
theorem keeps_execEUnreserve (part k : Nat) (s : State) (h : s.MemOk) : Keeps (execEUnreserve part k s) :=
  keeps_serviceOp _ _ _ _ _ h fun _ _ ht => by grind [memOk_answerReq, memOk_clearReserved, memOk_modCtx]
theorem keeps_execESetNotifierRing (part k : Nat) (s : State) (h : s.MemOk) : Keeps (execESetNotifierRing part k s) :=
  keeps_serviceOp _ _ _ _ _ h fun _ _ ht => by grind [State.MemOk, memOk_answerReq, memOk_flushNotes, memOk_onHome]
theorem keeps_execESetTrapHandler (part k : Nat) (s : State) (h : s.MemOk) : Keeps (execESetTrapHandler part k s) :=
  keeps_serviceOp _ _ _ _ _ h fun _ _ ht => by grind [memOk_answerReq, memOk_modCtx, memOk_onHome]
theorem keeps_execESizeTrapQueue (part k : Nat) (s : State) (h : s.MemOk) : Keeps (execESizeTrapQueue part k s) :=
  keeps_serviceOp _ _ _ _ _ h fun _ _ ht => by grind [memOk_answerReq, memOk_freeFrame, memOk_onHome, memOk_putTrapq,
    memOk_takeFrame]
theorem keeps_execESetPackageIdentifier (part k id : Nat) (s : State) (h : s.MemOk) : Keeps
    (execESetPackageIdentifier part k id s) :=
  keeps_service _ _ _ _ _ h fun _ _ ht => by grind [State.MemOk, memOk_answerReq, memOk_onP4]
theorem keeps_execEConfigurePortOrRoute (part k : Nat) (m : PortCfg) (s : State) (h : s.MemOk) : Keeps
    (execEConfigurePortOrRoute part k m s) :=
  keeps_service _ _ _ _ _ h fun _ _ ht => by grind [State.MemOk, memOk_answerReq, memOk_onP4, memOk_portWrite]
theorem keeps_execEWriteAccessControlEntry (part k idx word : Nat) (s : State) (h : s.MemOk) : Keeps
    (execEWriteAccessControlEntry part k idx word s) :=
  keeps_service _ _ _ _ _ h fun _ _ ht => by grind [State.MemOk, memOk_answerReq, memOk_onP4]
theorem keeps_execELoadCollectiveEntry (part k : Nat) (r : CollReq) (s : State) (h : s.MemOk) : Keeps
    (execELoadCollectiveEntry part k r s) :=
  keeps_service _ _ _ _ _ h fun _ _ ht => by grind [memOk_answerReq, memOk_completeReq, memOk_installEntry, memOk_onP4]
theorem keeps_execEDestroyCollectiveEntry (part k ctx entry : Nat) (s : State) (h : s.MemOk) : Keeps
    (execEDestroyCollectiveEntry part k ctx entry s) :=
  keeps_service _ _ _ _ _ h fun _ _ ht => by grind [memOk_answerReq, memOk_dropThreads, memOk_engineArrive, memOk_foldl,
    memOk_modCtx, memOk_onP4]
theorem keeps_execEQuerySlot (part k slot : Nat) (s : State) (h : s.MemOk) : Keeps (execEQuerySlot part k slot s) :=
  keeps_service _ _ _ _ _ h fun _ _ ht => by grind [memOk_answerReq, memOk_completeReq, memOk_onP4]
theorem keeps_execEGenerateKey (part k slot domain : Nat) (s : State) (h : s.MemOk) : Keeps
    (execEGenerateKey part k slot domain s) :=
  keeps_service _ _ _ _ _ h fun _ _ ht => by grind [State.MemOk, memOk_answerReq, memOk_completeReq, memOk_installKey,
    memOk_onP4]
theorem keeps_execERevokeSlot (part k slot : Nat) (s : State) (h : s.MemOk) : Keeps (execERevokeSlot part k slot s) :=
  keeps_service _ _ _ _ _ h fun _ _ ht => by grind [memOk_answerReq, memOk_onP4, memOk_revokeSlot]
theorem keeps_execEReclaimSlot (part k slot : Nat) (s : State) (h : s.MemOk) : Keeps (execEReclaimSlot part k slot s) :=
  keeps_service _ _ _ _ _ h fun _ _ ht => by grind [memOk_answerReq, memOk_onP4, memOk_putSlot, memOk_scrubFree]
theorem keeps_execEAttestationReport (part k ctx addr : Nat) (s : State) (h : s.MemOk) : Keeps
    (execEAttestationReport part k ctx addr s) :=
  keeps_service _ _ _ _ _ h fun _ _ ht => by grind [memOk_answerReq, memOk_completeReq, memOk_onP4, memOk_writeHost]
theorem keeps_execEControlSpaceWrite (off value : Nat) (byService : Bool) (s : State) (h : s.MemOk) : Keeps
    (execEControlSpaceWrite off value byService s) :=
  keeps_next (by grind [State.MemOk, memOk_bankWrite, memOk_portWrite, memOk_ringControl, memOk_ringTail])
theorem keeps_execEPackageReset (s : State) (h : s.MemOk) : Keeps (execEPackageReset s) :=
  keeps_next (by grind [memOk_boot, memOk_clearPackage])
theorem keeps_execELossOfPower (writing : Bool) (s : State) (h : s.MemOk) : Keeps (execELossOfPower writing s) :=
  keeps_next (by grind [memOk_clearPackage, memOk_modPlat])
theorem keeps_execEBringUpStepDone (d : StepDone) (s : State) (h : s.MemOk) : Keeps (execEBringUpStepDone d s) :=
  keeps_next (by grind [memOk_foldl, memOk_modPlat, memOk_modPort, memOk_tierUp])
theorem keeps_execERecoveryImageTransfer (img : FwImage) (s : State) (h : s.MemOk) : Keeps (execERecoveryImageTransfer img s) :=
  keeps_next (by grind [memOk_answerVendor, memOk_boot, memOk_modPlat])
theorem keeps_execEFirmwareStaging (img : FwImage) (s : State) (h : s.MemOk) : Keeps (execEFirmwareStaging img s) :=
  keeps_next (by grind [memOk_answerVendor, memOk_modPlat])
theorem keeps_execESecurityVersionAdvance (s : State) (h : s.MemOk) : Keeps (execESecurityVersionAdvance s) :=
  keeps_next (by grind [memOk_modPlat])
theorem keeps_execEDebugTokenUnlock (serial : Nat) (signed : Bool) (s : State) (h : s.MemOk) : Keeps
    (execEDebugTokenUnlock serial signed s) :=
  keeps_next (by grind [State.MemOk, memOk_foldl, memOk_haltCtx, memOk_modPlat])
theorem keeps_execESetPcap (watts : Nat) (s : State) (h : s.MemOk) : Keeps (execESetPcap watts s) :=
  keeps_next (by grind [memOk_answerVendor, memOk_modPlat])
theorem keeps_execEPowerWindowExpiry (watts : Nat) (s : State) (h : s.MemOk) : Keeps (execEPowerWindowExpiry watts s) :=
  keeps_next (by grind [memOk_modPlat])
theorem keeps_execEThermalGating (celsius : Nat) (s : State) (h : s.MemOk) : Keeps (execEThermalGating celsius s) :=
  keeps_next (by grind [memOk_modPlat])
theorem keeps_execEThermalTrip (celsius : Nat) (s : State) (h : s.MemOk) : Keeps (execEThermalTrip celsius s) := by
  unfold execEThermalTrip
  split
  · exact keeps_execEPackageReset _ h
  · exact h
theorem keeps_execETelemetryRead (bus : Nat) (s : State) (h : s.MemOk) : Keeps (execETelemetryRead bus s) :=
  keeps_next (by grind [State.MemOk, memOk_countCorrections, memOk_freeWord, memOk_send])
theorem keeps_execEMctpControl (bus command : Nat) (s : State) (h : s.MemOk) : Keeps (execEMctpControl bus command s) :=
  keeps_next (by grind [State.MemOk, memOk_freeWord, memOk_send])
theorem keeps_execEHbmChannelOrDimmFailure (pool base size : Nat) (s : State) (h : s.MemOk) : Keeps
    (execEHbmChannelOrDimmFailure pool base size s) :=
  keeps_next (by grind [memOk_degrade, memOk_putPool])
theorem keeps_execEGetVersion (bus : Nat) (s : State) (h : s.MemOk) : Keeps (execEGetVersion bus s) :=
  keeps_next (by grind [State.MemOk, memOk_spdmSay])
theorem keeps_execEGetCapabilities (bus version : Nat) (s : State) (h : s.MemOk) : Keeps (execEGetCapabilities bus version s) :=
  keeps_onConn _ _ _ _ h (by grind [State.MemOk, memOk_spdmSay])
theorem keeps_execENegotiateAlgorithms (bus : Nat) (offered : Bool) (s : State) (h : s.MemOk) : Keeps
    (execENegotiateAlgorithms bus offered s) :=
  keeps_onConn _ _ _ _ h (by grind [State.MemOk, memOk_spdmSay])
theorem keeps_execEGetDigests (bus : Nat) (s : State) (h : s.MemOk) : Keeps (execEGetDigests bus s) :=
  keeps_onConn _ _ _ _ h (by grind [memOk_spdmSay])
theorem keeps_execEGetCertificate (bus off len : Nat) (s : State) (h : s.MemOk) : Keeps (execEGetCertificate bus off len s) :=
  keeps_onConn _ _ _ _ h (by grind [memOk_spdmSay])
theorem keeps_execEChallenge (bus nonce : Nat) (s : State) (h : s.MemOk) : Keeps (execEChallenge bus nonce s) :=
  keeps_onConn _ _ _ _ h (by grind [memOk_spdmSay])
theorem keeps_execEGetMeasurements (bus index nonce : Nat) (s : State) (h : s.MemOk) : Keeps
    (execEGetMeasurements bus index nonce s) :=
  keeps_onConn _ _ _ _ h (by grind [State.MemOk, memOk_spdmSay])
theorem keeps_execEKeyExchange (bus peer : Nat) (bothAuth : Bool) (link : Option Nat) (s : State) (h : s.MemOk) : Keeps
    (execEKeyExchange bus peer bothAuth link s) :=
  keeps_onConn _ _ _ _ h (by grind [State.MemOk, memOk_spdmSay])
theorem keeps_execEFinish (bus n : Nat) (s : State) (h : s.MemOk) : Keeps (execEFinish bus n s) :=
  keeps_onConn _ _ _ _ h (by grind [State.MemOk, memOk_emitKept, memOk_modPort, memOk_spdmSay])
theorem keeps_execEHeartbeat (bus n : Nat) (s : State) (h : s.MemOk) : Keeps (execEHeartbeat bus n s) :=
  keeps_inSession _ _ _ _ h fun _ => by grind [State.MemOk, memOk_spdmSay]
theorem keeps_execEKeyUpdate (bus n : Nat) (s : State) (h : s.MemOk) : Keeps (execEKeyUpdate bus n s) :=
  keeps_inSession _ _ _ _ h fun _ => by grind [State.MemOk, memOk_spdmSay]
theorem keeps_execEEndSession (bus n : Nat) (s : State) (h : s.MemOk) : Keeps (execEEndSession bus n s) :=
  keeps_inSession _ _ _ _ h fun _ => by grind [State.MemOk, memOk_emitKept, memOk_modPort, memOk_spdmSay]
theorem keeps_execEKeyImport (bus n slot domain key : Nat) (s : State) (h : s.MemOk) : Keeps
    (execEKeyImport bus n slot domain key s) :=
  keeps_inSession _ _ _ _ h fun _ => by grind [memOk_installKey, memOk_putSlot, memOk_spdmSay]
theorem keeps_execEKeyExport (bus n slot : Nat) (s : State) (h : s.MemOk) : Keeps (execEKeyExport bus n slot s) :=
  keeps_inSession _ _ _ _ h fun _ => by grind [memOk_spdmSay]
theorem keeps_execERevoke (bus n slot : Nat) (s : State) (h : s.MemOk) : Keeps (execERevoke bus n slot s) :=
  keeps_inSession _ _ _ _ h fun _ => by grind [memOk_revokeSlot, memOk_spdmSay]
theorem keeps_execEContextReport (bus ctx nonce : Nat) (s : State) (h : s.MemOk) : Keeps (execEContextReport bus ctx nonce s) :=
  keeps_onConn _ _ _ _ h (by grind [State.MemOk, memOk_spdmSay])

end Sys2Proof.Machine
end

section
/-! O58: every instruction, every event and every step keeps the memories canonical. -/

namespace Sys2Proof.Machine

open Sys2Proof State

theorem keeps_exec (i : Instr) (s : State) (h : s.MemOk) : Keeps (exec i s) := by
  delta exec
  cases i with
  | sAdd | sSub | sAnd | sOr | sXor | sShl | sShr | sSra | sMul | sMulh | sMulhn | sDiv | sDivn | sRem | sRemn | sMin
  | sMax | sMinn | sMaxn => exact keeps_scalarAlu _ _ _ _ _ h
  | sAdd32 | sSub32 | sAnd32 | sOr32 | sXor32 | sShl32 | sShr32 | sSra32 | sMul32 | sMulh32 | sMulhn32 | sDiv32
  | sDivn32 | sRem32 | sRemn32 | sMin32 | sMax32 | sMinn32 | sMaxn32 => exact keeps_scalarAlu32 _ _ _ _ _ h
  | sAddi | sAndi | sOri | sXori | sShli | sShri | sSrai | sLui | sPcrel => exact keeps_scalarWrite _ _ _ h
  | sCmp | sCmpi => exact keeps_scalarCmp _ _ _ _ h
  | sSldI8 | sSldN8 | sSldI16 | sSldN16 | sSldI32 | sSldN32 | sSldI64 => exact keeps_scalarLoad _ _ _ _ _ h
  | sSstN8 | sSstN16 | sSstN32 | sSstN64 => exact keeps_scalarStore _ _ _ _ _ h
  | sSfenceCore | sSfencePkg | sSfenceSys => exact keeps_scalarFence _ _ h
  | vIadd | vIsub | vIaddsat | vIsubsat | vImul | vImulhi | vImad | vImin | vImax | vIabs | vIneg | vIdiv | vIrem
  | vIavg | vIsad | vAnd | vOr | vXor | vNot | vAndn | vShl | vShr | vSra | vRotl | vPopc | vClz | vCtz | vBrev
  | vBfext | vBfins | vTlut | vIcmpEq | vIcmpNe | vIcmpLt | vIcmpLe | vIcmpGt | vIcmpGe | vFadd | vFsub | vFmul
  | vFfma | vFmin | vFmax | vFminnum | vFmaxnum | vFabs | vFneg | vFcopysign | vFclass | vFcmpEq | vFcmpNe | vFcmpLt
  | vFcmpLe | vFcmpGt | vFcmpGe | vFcmpUn | vFcmpOrd | vRcp | vRsq | vSqrt | vDiv | vExp2 | vLog2 | vCvt | vFrint
  | vPand | vPor | vPxor | vPandn | vPnot | vPmov | vPfromv | vPvec | vPfirst | vMov | vSel | vLidx | vLxor | vLrot
  | vBcast | vRadd | vRmin | vRmax | vRand | vRor | vRxor | vDp4 | vDp2 | vIaddI | vIsubI | vIaddsatI | vIsubsatI
  | vImulI | vIminI | vImaxI | vAndI | vOrI | vXorI | vShlI | vShrI | vSraI | vRotlI | vBfextI | vIcmpEqI | vIcmpNeI
  | vIcmpLtI | vIcmpLeI | vIcmpGtI | vIcmpGeI | vFaddI | vFmulI | vFfmaI | vFminI | vFmaxI | vFcmpEqI | vFcmpNeI
  | vFcmpLtI | vFcmpLeI | vFcmpGtI | vFcmpGeI | vFcmpUnI | vFcmpOrdI | vMovI | vSelI | vLidxI | vLxorI | vLrotI
  | vBcastI => exact keeps_laneArith _ _ _ _ _ h
  | vQnt | vDqnt | vQscale => exact keeps_laneQuant _ _ _ _ h
  | vSpld | vSpst | vGld | vGst | vAadd | vAmin | vAmax | vAand | vAor | vAxor | vAxchg | vAcas | vAfadd | vAppend => exact keeps_laneMemory _ _ _ _ h
  | vCbstat | vHstat => exact keeps_statusStep _ _ _ _ _ _ h
  | vMldw | vMswap | vMstream | vMdrain | vMclear | vMperm => exact keeps_matStep _ _ _ _ h
  | mLi | mAddi | mAdd | mSub | mAnd | mOr | mXor | mShl | mShr | mMinn => exact keeps_mcfReg _ _ _ h
  | mBAl | mBEq | mBNe | mBLtn | mBGen | mBLt | mBGe => exact keeps_mcfBranch _ _ _ h
  | mFoldSum | mFoldMin | mFoldMax => exact keeps_mcfFold _ _ _ _ h
  | mCombSum | mCombMin | mCombMax => exact keeps_mcfComb _ _ _ _ _ h
  | ePackageReset => exact keeps_execEPackageReset _ h
  | eLossOfPower => exact keeps_execELossOfPower _ _ h
  | eBringUpStepDone => exact keeps_execEBringUpStepDone _ _ h
  | eRecoveryImageTransfer => exact keeps_execERecoveryImageTransfer _ _ h
  | eFirmwareStaging => exact keeps_execEFirmwareStaging _ _ h
  | eSecurityVersionAdvance => exact keeps_execESecurityVersionAdvance _ h
  | eDebugTokenUnlock => exact keeps_execEDebugTokenUnlock _ _ _ h
  | eSetPcap => exact keeps_execESetPcap _ _ h
  | eTelemetryRead => exact keeps_execETelemetryRead _ _ h
  | eMctpControl => exact keeps_execEMctpControl _ _ _ h
  | ePowerWindowExpiry => exact keeps_execEPowerWindowExpiry _ _ h
  | eThermalGating => exact keeps_execEThermalGating _ _ h
  | eThermalTrip => exact keeps_execEThermalTrip _ _ h
  | eGetVersion => exact keeps_execEGetVersion _ _ h
  | eGetCapabilities => exact keeps_execEGetCapabilities _ _ _ h
  | eNegotiateAlgorithms => exact keeps_execENegotiateAlgorithms _ _ _ h
  | eGetDigests => exact keeps_execEGetDigests _ _ h
  | eGetCertificate => exact keeps_execEGetCertificate _ _ _ _ h
  | eChallenge => exact keeps_execEChallenge _ _ _ h
  | eGetMeasurements => exact keeps_execEGetMeasurements _ _ _ _ h
  | eKeyExchange => exact keeps_execEKeyExchange _ _ _ _ _ h
  | eFinish => exact keeps_execEFinish _ _ _ h
  | eHeartbeat => exact keeps_execEHeartbeat _ _ _ h
  | eKeyUpdate => exact keeps_execEKeyUpdate _ _ _ h
  | eEndSession => exact keeps_execEEndSession _ _ _ h
  | eKeyImport => exact keeps_execEKeyImport _ _ _ _ _ _ h
  | eKeyExport => exact keeps_execEKeyExport _ _ _ _ h
  | eRevoke => exact keeps_execERevoke _ _ _ _ h
  | eContextReport => exact keeps_execEContextReport _ _ _ _ h
  | eLinkRekey => exact keeps_execELinkRekey _ _ _ h
  | eControlSpaceWrite => exact keeps_execEControlSpaceWrite _ _ _ _ h
  | eServiceRingDoorbell => exact keeps_execEServiceRingDoorbell _ _ _ h
  | eCreateContext => exact keeps_execECreateContext _ _ _ _ _ _ _ h
  | eResetContext => exact keeps_execEResetContext _ _ _ _ h
  | eDestroyContext => exact keeps_execEDestroyContext _ _ _ _ h
  | eLoadImage => exact keeps_execELoadImage _ _ _ _ _ _ _ h
  | eCreateOrChangeQueue => exact keeps_execECreateOrChangeQueue _ _ _ _ _ _ h
  | eSetSramBanksTilesBarriers => exact keeps_execESetSramBanksTilesBarriers _ _ _ _ _ _ _ h
  | eMap => exact keeps_execEMap _ _ _ h
  | eUnmap => exact keeps_execEUnmap _ _ _ h
  | eProtect => exact keeps_execEProtect _ _ _ h
  | eReserve => exact keeps_execEReserve _ _ _ h
  | eUnreserve => exact keeps_execEUnreserve _ _ _ h
  | eSetNotifierRing => exact keeps_execESetNotifierRing _ _ _ h
  | eSetTrapHandler => exact keeps_execESetTrapHandler _ _ _ h
  | eSizeTrapQueue => exact keeps_execESizeTrapQueue _ _ _ h
  | eSetPackageIdentifier => exact keeps_execESetPackageIdentifier _ _ _ _ h
  | eConfigurePortOrRoute => exact keeps_execEConfigurePortOrRoute _ _ _ _ h
  | eWriteAccessControlEntry => exact keeps_execEWriteAccessControlEntry _ _ _ _ _ h
  | eLoadCollectiveEntry => exact keeps_execELoadCollectiveEntry _ _ _ _ h
  | eDestroyCollectiveEntry => exact keeps_execEDestroyCollectiveEntry _ _ _ _ _ h
  | eQuerySlot => exact keeps_execEQuerySlot _ _ _ _ h
  | eGenerateKey => exact keeps_execEGenerateKey _ _ _ _ _ h
  | eRevokeSlot => exact keeps_execERevokeSlot _ _ _ _ h
  | eReclaimSlot => exact keeps_execEReclaimSlot _ _ _ _ h
  | eAttestationReport => exact keeps_execEAttestationReport _ _ _ _ _ h
  | eQueueDoorbell => exact keeps_execEQueueDoorbell _ _ _ h
  | ePacketIntake => exact keeps_execEPacketIntake _ _ h
  | eNodeDispatch => exact keeps_execENodeDispatch _ _ h
  | eSounderAdmission => exact keeps_execESounderAdmission _ _ _ h
  | eCoresidentAdmission => exact keeps_execECoresidentAdmission _ _ h
  | eLaunchCompletion => exact keeps_execELaunchCompletion _ _ h
  | eRecordQueueFullTile => exact keeps_execERecordQueueFullTile _ _ h
  | eFlushTimerExpiry => exact keeps_execEFlushTimerExpiry _ _ h
  | ePeerLaunchSend => exact keeps_execEPeerLaunchSend _ _ h
  | ePermitRequest => exact keeps_execEPermitRequest _ _ h
  | ePermitRenewal => exact keeps_execEPermitRenewal _ _ h
  | ePermitExpiry => exact keeps_execEPermitExpiry _ _ _ _ h
  | ePeerLaunchArrival => exact keeps_execEPeerLaunchArrival _ _ h
  | eInboundWindowAccess => exact keeps_execEInboundWindowAccess _ _ h
  | eWindowAckArrival => exact keeps_execEWindowAckArrival _ _ _ h
  | eRetransmissionTimeout => exact keeps_execERetransmissionTimeout _ _ h
  | eDirectPlacementRetry => exact keeps_execEDirectPlacementRetry _ _ h
  | eLinkFailure => exact keeps_execELinkFailure _ _ h
  | ePortLaneFailure => exact keeps_execEPortLaneFailure _ _ h
  | eMemoryLaneFailure => exact keeps_execEMemoryLaneFailure _ _ h
  | eCoreFailure => exact keeps_execECoreFailure _ _ _ _ h
  | eCoreMigration => exact keeps_execECoreMigration _ _ _ _ h
  | eCollectivePacketArrival => exact keeps_execECollectivePacketArrival _ _ h
  | eTakeoverRequestArrival => exact keeps_execETakeoverRequestArrival _ _ h
  | eMatchTimeout => exact keeps_execEMatchTimeout _ _ _ _ h
  | eAliasStoreAccept => exact keeps_execEAliasStoreAccept _ _ _ _ _ _ h
  | eLaneBlockStart => exact keeps_execELaneBlockStart _ _ _ _ h
  | eLaneLoadFill => exact keeps_execELaneLoadFill _ _ _ _ _ h
  | eAccessPerformed => exact keeps_execEAccessPerformed _ _ _ _ _ _ _ h
  | eDeferredFaultDelivery => exact keeps_execEDeferredFaultDelivery _ _ _ _ _ h
  | eSounderPark => exact keeps_execESounderPark _ _ _ _ h
  | eSounderResume => exact keeps_execESounderResume _ _ _ h
  | eQuadrantArbitration => exact keeps_execEQuadrantArbitration _ _ _ _ h
  | eDeterministicRelease => exact keeps_execEDeterministicRelease _ _ _ _ h
  | eEventTimerExpiry => exact keeps_execEEventTimerExpiry _ _ _ _ _ h
  | eMailboxMessageArrival => exact keeps_execEMailboxMessageArrival _ _ h
  | eMailboxStatusReturn => exact keeps_execEMailboxStatusReturn _ _ _ h
  | eWaitanyWake => exact keeps_execEWaitanyWake _ _ _ _ h
  | eBarrierWaitRelease => exact keeps_execEBarrierWaitRelease _ _ _ _ h
  | eHwaitReturn => exact keeps_execEHwaitReturn _ _ _ _ _ h
  | eRegangJoin => exact keeps_execERegangJoin _ _ _ _ h
  | eCopyLastByte => exact keeps_execECopyLastByte _ _ _ _ _ h
  | eEngineCommandFire => exact keeps_execEEngineCommandFire _ _ _ _ h
  | eArrayCommandComplete => exact keeps_execEArrayCommandComplete _ _ _ h
  | eArrayTransientError => exact keeps_execEArrayTransientError _ _ _ h
  | eRouteComplete => exact keeps_execERouteComplete _ _ _ h
  | eEngineAccessFault => exact keeps_execEEngineAccessFault _ _ _ _ _ _ h
  | eSliceEnd => exact keeps_execESliceEnd _ _ h
  | eSafePoint => exact keeps_execESafePoint _ _ h
  | eBadgerSaveDone => exact keeps_execEBadgerSaveDone _ _ _ h
  | eBadgerFillDone => exact keeps_execEBadgerFillDone _ _ _ _ h
  | eBankControlWrite => exact keeps_execEBankControlWrite _ _ _ _ h
  | eBankChangeComplete => exact keeps_execEBankChangeComplete _ _ _ h
  | eShootDownComplete => exact keeps_execEShootDownComplete _ _ h
  | eSentUpRecordService => exact keeps_execESentUpRecordService _ _ _ h
  | sBc => exact keeps_execSBc _ _ _ _ h
  | sJmp => exact keeps_execSJmp _ _ h
  | sCall => exact keeps_execSCall _ _ h
  | sJmpr => exact keeps_execSJmpr _ _ h
  | sCallr => exact keeps_execSCallr _ _ h
  | sRet => exact keeps_execSRet _ h
  | sLrun => exact keeps_execSLrun _ _ _ h
  | sLsync => exact keeps_execSLsync _ h
  | sSysrd => exact keeps_execSSysrd _ _ _ h
  | sSyswr => exact keeps_execSSyswr _ _ _ h
  | sEvarm => exact keeps_execSEvarm _ _ _ h
  | sEvdisarm => exact keeps_execSEvdisarm _ _ h
  | sWaitany => exact keeps_execSWaitany _ _ h
  | sJoin => exact keeps_execSJoin _ _ _ h
  | sLeave => exact keeps_execSLeave _ _ h
  | sBarArrive => exact keeps_execSBarArrive _ _ _ _ h
  | sBarWait => exact keeps_execSBarWait _ _ _ _ h
  | sBarSync => exact keeps_execSBarSync _ _ _ h
  | sMbpost => exact keeps_execSMbpost _ _ _ h
  | sMbsend => exact keeps_execSMbsend _ _ _ _ h
  | sMbrecv => exact keeps_execSMbrecv _ _ _ h
  | sSfenceLocal => exact keeps_execSSfenceLocal _ h
  | sSvc => exact keeps_execSSvc _ _ h
  | sSndend => exact keeps_execSSndend _ h
  | sTret => exact keeps_execSTret _ h
  | sOplrd => exact keeps_execSOplrd _ _ _ _ h
  | sOplrep => exact keeps_execSOplrep _ _ _ h
  | sRdtime => exact keeps_execSRdtime _ _ h
  | vGprefetch => exact keeps_execVGprefetch _ _ h
  | vFenceCore => exact keeps_execVFenceCore _ _ h
  | vFencePkg => exact keeps_execVFencePkg _ _ h
  | vFenceSys => exact keeps_execVFenceSys _ _ h
  | vFenceEng => exact keeps_execVFenceEng _ _ h
  | vCopy => exact keeps_execVCopy _ _ h
  | vCopyFo => exact keeps_execVCopyFo _ _ h
  | vCbset => exact keeps_execVCbset _ _ h
  | vCbpush => exact keeps_execVCbpush _ _ h
  | vCbpop => exact keeps_execVCbpop _ _ h
  | vRoute => exact keeps_execVRoute _ _ h
  | vCstart => exact keeps_execVCstart _ _ h
  | vHwait => exact keeps_execVHwait _ _ h
  | vHrel => exact keeps_execVHrel _ _ h
  | vLend => exact keeps_execVLend _ _ h
  | vLnop => exact keeps_execVLnop _ _ h
  | vLbrAny => exact keeps_execVLbrAny _ _ h
  | vLbrAll => exact keeps_execVLbrAll _ _ h
  | vLjmp => exact keeps_execVLjmp _ _ h
  | vRegang => exact keeps_execVRegang _ _ h
  | vLtrap => exact keeps_execVLtrap _ _ h
  | mMatch => exact keeps_execMMatch _ _ _ _ _ h
  | mRdh => exact keeps_execMRdh _ _ _ _ h
  | mRdm => exact keeps_execMRdm _ _ _ _ h
  | mMark => exact keeps_execMMark _ _ _ h
  | mHold => exact keeps_execMHold _ _ h
  | mDrop => exact keeps_execMDrop _ _ h
  | mStream => exact keeps_execMStream _ _ _ h
  | mFoldQ => exact keeps_execMFoldQ _ _ _ h
  | mFwd => exact keeps_execMFwd _ _ _ _ _ h
  | mFwdAcc => exact keeps_execMFwdAcc _ _ _ _ _ h
  | mDlv => exact keeps_execMDlv _ _ _ h
  | mDlvPk => exact keeps_execMDlvPk _ _ _ h
  | mDlvG => exact keeps_execMDlvG _ _ _ h
  | mTkreq => exact keeps_execMTkreq _ _ _ h
  | mArrive => exact keeps_execMArrive _ _ _ h
  | mEnd => exact keeps_execMEnd _ h
  | eCorePowerGate => exact keeps_execECorePowerGate _ _ h
  | eLinkUp => exact keeps_execELinkUp _ _ h
  | ePackageDeclaredFailed => exact keeps_execEPackageDeclaredFailed _ _ h
  | eHbmChannelOrDimmFailure => exact keeps_execEHbmChannelOrDimmFailure _ _ _ _ h
  | eSpareLaneSwitchDone => exact keeps_execESpareLaneSwitchDone _ _ _ h
theorem memOk_step {s t : State} (h : s.MemOk) (ht : step s = .next t) : t.MemOk := by
  have hf := memOk_fetch (takeAgent s).1 _ (memOk_takeAgent s h)
  unfold step at ht
  split at ht <;> rename_i heq <;> rw [heq] at hf
  · cases ht
    exact hf
  · exact (keeps_exec _ _ hf).of_eq ht

/-- Settles O58: nothing writes a memory but a store of bytes or a clearing of them, and each of these leaves the sorted list
of non-zero bytes that it found. -/
theorem stepKeepsMemoryCanonical : Obligations.StepKeepsMemoryCanonical := by
  intro s t h ht
  exact memOk_step h ht

end Sys2Proof.Machine
end

section
/-! The scalar stream: register frame, loads, stores, the checks of an access, blocks, fences and system registers
(O5 to O11). -/

namespace Sys2Proof.Machine

open Sys2Proof State

/-! ## Register-only instructions -/

theorem Snd.sreg_setS_ne (x : Snd) {r d : Nat} (v : Word) (h : r ≠ d) : (x.setS d v).sreg r = x.sreg r :=
  Tbl.getOr_setOr_ne _ _ _ h

/-- A scalar instruction that writes one scalar register or one condition, and nothing else. -/
def RegisterOnly (d : BitVec 6) (i : Instr) : Prop :=
  ∀ s, (∃ f, exec i s = scalarWrite s d f) ∨ ∃ e cc f, exec i s = scalarCmp s e cc f

theorem RegisterOnly.write {d : BitVec 6} {i : Instr} (f : State → Snd → Word) (h : ∀ s, exec i s = scalarWrite s d (f s)) :
    RegisterOnly d i := fun s => .inl ⟨_, h s⟩

theorem RegisterOnly.cmp {d : BitVec 6} {i : Instr} {e cc : BitVec 3} (f : Snd → Word × Word)
    (h : ∀ s, exec i s = scalarCmp s e cc f) : RegisterOnly d i := fun s => .inr ⟨e, cc, f, h s⟩

/-- What a register-only instruction leaves of its sounder. -/
theorem RegisterOnly.frame {d : BitVec 6} {i : Instr} (hi : RegisterOnly d i) {s t : State} (h : exec i s = .next t) :
    ∃ c k j x y, s.cur = .scalar c k j ∧ s.snd? c k j = some x ∧ t = s.putSnd c k j y ∧
      (∀ r : Nat, r ≠ d.toNat → y.sreg r = x.sreg r) ∧ y = { x with s := y.s, c := y.c, pc := x.pc + 4 } := by
  obtain ⟨f, hf⟩ | ⟨e, cc, f, hf⟩ := hi s
  · obtain ⟨c, k, j, x, hx, rfl⟩ := scalarStep_next (hf ▸ h)
    exact ⟨c, k, j, x, _, hx.cur, hx.snd, rfl, fun r hr => x.sreg_setS_ne _ hr, rfl⟩
  · obtain ⟨c, k, j, x, hx, rfl⟩ := scalarStep_next (hf ▸ h)
    refine ⟨c, k, j, x, _, hx.cur, hx.snd, rfl, ?_, ?_⟩ <;> rw [x.setCond_frame]
    · exact fun _ _ => rfl
    · rfl

/-- Settles O5: each of these instructions writes one register or one condition of its own sounder. -/
theorem scalarRegisterFrame : Obligations.ScalarRegisterFrame := by
  intro i s t d a b n im up e cc hm ht
  have hall : ∀ i ∈ [Instr.sAdd d a b, .sAdd32 d a b, .sSub d a b, .sSub32 d a b, .sAnd d a b, .sAnd32 d a b, .sOr d a b,
      .sOr32 d a b, .sXor d a b, .sXor32 d a b, .sShl d a b, .sShl32 d a b, .sShr d a b, .sShr32 d a b, .sSra d a b,
      .sSra32 d a b, .sMul d a b, .sMul32 d a b, .sMulh d a b, .sMulh32 d a b, .sMulhn d a b, .sMulhn32 d a b, .sDiv d a b,
      .sDiv32 d a b, .sDivn d a b, .sDivn32 d a b, .sRem d a b, .sRem32 d a b, .sRemn d a b, .sRemn32 d a b, .sMin d a b,
      .sMin32 d a b, .sMax d a b, .sMax32 d a b, .sMinn d a b, .sMinn32 d a b, .sMaxn d a b, .sMaxn32 d a b, .sAddi d a im,
      .sAndi d a im, .sOri d a im, .sXori d a im, .sShli d a n, .sShri d a n, .sSrai d a n, .sLui d up, .sPcrel d up,
      .sCmp e cc a b, .sCmpi e cc a im, .sRdtime d], RegisterOnly d i := by
    iterate 47 refine List.forall_mem_cons.mpr ⟨.write _ fun _ => rfl, ?_⟩
    refine List.forall_mem_cons.mpr ⟨.cmp _ fun _ => rfl, List.forall_mem_cons.mpr ⟨.cmp _ fun _ => rfl, ?_⟩⟩
    exact List.forall_mem_cons.mpr ⟨.write (fun s _ => BitVec.ofNat 64 s.cycle) fun _ => rfl, List.forall_mem_nil _⟩
  obtain ⟨c, k, j, x, y, hc, hx, rfl, hr, hy⟩ := (hall i hm).frame ht
  exact ⟨c, k, j, x, y, hc, hx, rfl, fun _ => rfl, fun _ => rfl, hr, hy, fun m hm => snd?_putSnd_slot s y hm,
    fun _ _ _ hk => snd?_putSnd_home s y hk⟩

/-! ## Loads and stores -/

theorem ofInt_toI (w v : Nat) (hw : 0 < w) : BitVec.ofInt 64 (Alu.toI true w v) = (BitVec.ofNat w v).signExtend 64 := by
  obtain ⟨w, rfl⟩ : ∃ n, w = n + 1 := ⟨w - 1, by omega⟩
  have h : (BitVec.ofNat (w + 1) v).toInt = Alu.toI true (w + 1) v := by
    simp only [BitVec.toInt_eq_toNat_cond, BitVec.toNat_ofNat, Alu.toI, Bool.true_and, decide_eq_true_eq]
    split <;> split <;> first | rfl | omega
  rw [← h]
  rfl

/-- An integer load delivers its bytes sign-extended. -/
theorem scalarExt_signed {t : Nat} (ht : t ≤ 4) (v : Nat) (hs : 0 < tySize t) :
    scalarExt t v = (BitVec.ofNat (8 * tySize t) v).signExtend 64 := by
  rw [scalarExt, if_pos ht, ofInt_toI _ _ (by omega)]

/-- A load of a type beyond the signed ones delivers its bytes zero-extended. -/
theorem scalarExt_unsigned {t : Nat} (ht : 4 < t) (v : Nat) :
    scalarExt t v = (BitVec.ofNat (8 * tySize t) v).setWidth 64 := by
  rw [scalarExt, if_neg (by omega)]
  exact (BitVec.eq_of_toNat_eq (by simp)).symm

theorem readAs_fresh {s : State} {k pa n : Nat} (h : s.lags k pa n = false) : s.readAs k pa n = (s, s.readN pa n) := by
  simp [readAs, h]

/-- A load whose checks pass at a byte of memory, and which nothing holds back. -/
theorem scalarLoad_mem {s : State} {c k j : Nat} {x : Snd} (hx : ScalarAt s c k j x) {t : Nat} {d a : BitVec 6}
    {im : BitVec 14} {tier : Bool} {pa : Nat} (hp : x.scalarPending = false) (hs : coreSplit s k = false)
    (hr : revoked s c = false) (hu : s.poisoned pa = false)
    (hl : scalarProbe s c x (scalarEA x a im) (tySize t) false = .ok (.mem tier pa)) (hg : s.lags k pa (tySize t) = false) :
    scalarLoad t d a im s = .next (s.wrote c k j x d (scalarExt t (s.readN pa (tySize t)))) := by
  rw [scalarLoad, scalarStep_at hx]
  simp only [hl, hp, hs, hr, hu, readAs_fresh hg, Bool.or_false, Bool.false_eq_true, if_false]
  rfl

/-- The same load under a revoked key. -/
theorem scalarLoad_revoked {s : State} {c k j : Nat} {x : Snd} (hx : ScalarAt s c k j x) {t : Nat} {d a : BitVec 6}
    {im : BitVec 14} {tier : Bool} {pa : Nat} (hp : x.scalarPending = false) (hs : coreSplit s k = false)
    (hr : revoked s c = true) (hl : scalarProbe s c x (scalarEA x a im) (tySize t) false = .ok (.mem tier pa)) :
    scalarLoad t d a im s = .next (haltRevoked s c x.idx k 0 (scalarEA x a im)) := by
  rw [scalarLoad, scalarStep_at hx]
  simp only [hl, hp, hs, hr, Bool.or_false, Bool.false_eq_true, if_false, if_true]

/-- Settles O6: the one load lemma, at each type with its extension. -/
theorem scalarLoadResults : Obligations.ScalarLoadResults := by
  intro s c k j x d a im tier pa hx ea hp hs
  refine ⟨fun hr hl => scalarLoad_revoked (t := 4) hx hp hs hr hl, fun hr hu => ?_⟩
  have load {t : Nat} (hl : scalarProbe s c x ea (tySize t) false = .ok (.mem tier pa)) (hg : s.lags k pa (tySize t) = false) :=
    scalarLoad_mem (d := d) hx hp hs hr hu hl hg
  refine ⟨fun hl hg => ⟨?_, ?_⟩, fun hl hg => ⟨?_, ?_⟩, fun hl hg => ⟨?_, ?_⟩, fun hl hg => ?_⟩
  · exact (load (t := 1) hl hg).trans (by rw [scalarExt_signed (by decide) _ (by decide)]; rfl)
  · exact (load (t := 5) hl hg).trans (by rw [scalarExt_unsigned (by decide)]; rfl)
  · exact (load (t := 2) hl hg).trans (by rw [scalarExt_signed (by decide) _ (by decide)]; rfl)
  · exact (load (t := 6) hl hg).trans (by rw [scalarExt_unsigned (by decide)]; rfl)
  · exact (load (t := 3) hl hg).trans (by rw [scalarExt_signed (by decide) _ (by decide)]; rfl)
  · exact (load (t := 7) hl hg).trans (by rw [scalarExt_unsigned (by decide)]; rfl)
  · refine (load (t := 4) hl hg).trans ?_
    rw [scalarExt_signed (by decide) _ (by decide), show 8 * tySize 4 = 64 from rfl, BitVec.signExtend_eq]
    rfl

/-- A store whose checks pass and which finds a free entry of the operand log. -/
theorem scalarStore_logs {s : State} {c k j : Nat} {x : Snd} (hx : ScalarAt s c k j x) {t : Nat} {v a : BitVec 6}
    {im : BitVec 14} {loc : Loc} (hl : scalarProbe s c x (scalarEA x a im) (tySize t) true = .ok loc) {m : Nat}
    (hf : x.freeEntry = some m) : ∃ e : LogEntry,
      scalarStore t v a im s = .next (s.putSnd c k j { x with oplog := x.oplog.put m e, seq := x.seq + 1, pc := x.pc + 4 }) ∧
      e.kind = .scalarStore ∧ e.slices = 0 ∧ e.held = [] ∧ e.ty = t ∧
      e.todo = [{ lane := 0, va := scalarEA x a im, loc := loc, data := (x.sreg v.toNat).toNat % 2 ^ (8 * tySize t), new := 0,
                  sent := false }] := by
  rw [scalarStore, scalarStep_at hx]
  simp only [hl, hf]
  exact ⟨_, rfl, rfl, rfl, rfl, rfl, rfl⟩

theorem scalarStore_full {s : State} {c k j : Nat} {x : Snd} (hx : ScalarAt s c k j x) {t : Nat} {v a : BitVec 6}
    {im : BitVec 14} {loc : Loc} (hl : scalarProbe s c x (scalarEA x a im) (tySize t) true = .ok loc)
    (hf : x.freeEntry = none) : scalarStore t v a im s = .next s := by
  rw [scalarStore, scalarStep_at hx]
  simp only [hl, hf]

/-- Settles O7: the one store lemma at each of the four sizes. -/
theorem scalarStoreTakesLogEntry : Obligations.ScalarStoreTakesLogEntry := by
  intro s c k j x v a im loc i n hx hm ea hl
  have store (t : Nat) (hi : exec i s = scalarStore t v a im s) (hn : n = tySize t) :
      (x.freeEntry = none → exec i s = .next s) ∧
      (∀ m : Nat, x.freeEntry = some m →
        ∃ (t : State) (e : LogEntry), exec i s = .next t ∧
          t = s.putSnd c k j { x with oplog := x.oplog.put m e, seq := x.seq + 1, pc := x.pc + 4 } ∧
          e.kind = .scalarStore ∧ e.slices = 0 ∧ e.held = [] ∧ tySize e.ty = n ∧
          e.todo = [{ lane := 0, va := ea, loc := loc, data := (x.sreg v.toNat).toNat % 2 ^ (8 * n), new := 0, sent := false }] ∧
          (∀ p : Nat, t.readPA p = s.readPA p)) := by
    subst hn
    rw [hi]
    refine ⟨scalarStore_full hx hl, fun m hf => ?_⟩
    obtain ⟨e, he, hk, hsl, hh, ht, htd⟩ := scalarStore_logs (v := v) hx hl hf
    exact ⟨_, e, he, rfl, hk, hsl, hh, ht ▸ rfl, htd, fun _ => rfl⟩
  simp only [List.mem_cons, Prod.mk.injEq, List.not_mem_nil, or_false] at hm
  obtain ⟨rfl, rfl⟩ | ⟨rfl, rfl⟩ | ⟨rfl, rfl⟩ | ⟨rfl, rfl⟩ := hm
  · exact store 5 rfl rfl
  · exact store 6 rfl rfl
  · exact store 7 rfl rfl
  · exact store 8 rfl rfl

/-! ## The checks of an access -/

theorem inAlias_of_alias {s : State} {c ea en va : Nat} (h : translate s c ea false false = .ok (.aliasWin en va)) :
    inAlias s c ea = true := by simp [inAlias, h]

theorem scalarLoad_error {s : State} {c k j : Nat} {x : Snd} (hx : ScalarAt s c k j x) {t : Nat} {d a : BitVec 6}
    {im : BitVec 14} {e : Nat} (hl : scalarProbe s c x (scalarEA x a im) (tySize t) false = .error e) :
    scalarLoad t d a im s = .next (takeTrap s c k j { cause := e, word := scalarWord s c x, addr := scalarEA x a im }) := by
  rw [scalarLoad, scalarStep_at hx]
  simp only [hl]
  rfl

theorem scalarStore_error {s : State} {c k j : Nat} {x : Snd} (hx : ScalarAt s c k j x) {t : Nat} {v a : BitVec 6}
    {im : BitVec 14} {e : Nat} (hl : scalarProbe s c x (scalarEA x a im) (tySize t) true = .error e) :
    scalarStore t v a im s = .next (takeTrap s c k j { cause := e, word := scalarWord s c x, addr := scalarEA x a im }) := by
  rw [scalarStore, scalarStep_at hx]
  simp only [hl]
  rfl

/-- Settles O8: the branches of the probe in their order, and the trap of each access whose probe fails. -/
theorem scalarAccessChecksInOrder : Obligations.ScalarAccessChecksInOrder := by
  intro s c k j x ea n w hn
  refine ⟨fun hr => ?_, fun hr hm => ?_, fun hr hm en va ha => ?_, fun hr hm ha => ⟨fun dt ht => ?_, fun loc ht => ?_⟩,
    fun hx d a im e he hp => ?_⟩
  · rw [scalarProbe, if_pos hr]
  · rw [scalarProbe, if_neg (Nat.not_le.mpr hr), if_pos hm]
  · rw [scalarProbe, if_neg (Nat.not_le.mpr hr), if_neg (not_not.mpr hm), if_pos (inAlias_of_alias ha)]
  · rw [scalarProbe, if_neg (Nat.not_le.mpr hr), if_neg (not_not.mpr hm), if_neg (by simp [ha]), ht]
  · rw [scalarProbe, if_neg (Nat.not_le.mpr hr), if_neg (not_not.mpr hm), if_neg (by simp [ha]), ht]
  · subst he
    intro i hi
    simp only [List.mem_cons, Prod.mk.injEq, List.not_mem_nil, or_false] at hi
    obtain ⟨rfl, rfl, rfl⟩ | ⟨rfl, rfl, rfl⟩ | ⟨rfl, rfl, rfl⟩ | ⟨rfl, rfl, rfl⟩ | ⟨rfl, rfl, rfl⟩ | ⟨rfl, rfl, rfl⟩ |
      ⟨rfl, rfl, rfl⟩ | ⟨rfl, rfl, rfl⟩ | ⟨rfl, rfl, rfl⟩ | ⟨rfl, rfl, rfl⟩ | ⟨rfl, rfl, rfl⟩ := hi
    · exact scalarLoad_error (t := 1) hx hp
    · exact scalarLoad_error (t := 5) hx hp
    · exact scalarLoad_error (t := 2) hx hp
    · exact scalarLoad_error (t := 6) hx hp
    · exact scalarLoad_error (t := 3) hx hp
    · exact scalarLoad_error (t := 7) hx hp
    · exact scalarLoad_error (t := 4) hx hp
    · exact scalarStore_error (t := 5) hx hp
    · exact scalarStore_error (t := 6) hx hp
    · exact scalarStore_error (t := 7) hx hp
    · exact scalarStore_error (t := 8) hx hp

/-! ## Blocks and fences -/

/-- Settles O9: the branches of lrun. -/
theorem lrunQueuesBlock : Obligations.LrunQueuesBlock := by
  intro s c co j x k b hx
  rw [exec_sLrun, execSLrun, scalarStep_at hx]
  refine ⟨fun h => ?_, fun en len h hq => ?_, fun en len h hq => ?_⟩
  · simp only [h]
    rfl
  · simp only [h, if_pos hq]
  · simp only [h, if_neg (Nat.not_le.mpr hq)]
    refine ⟨_, rfl, rfl, rfl, rfl, ?_, by simp, fun n hn => ?_, rfl, rfl⟩
    · simp [Snd.activity, bits]
    · simp [hn]

/-- Settles O10: each fence's condition decides between its effect and the state as it is. -/
theorem scalarFencesWaitThenPass : Obligations.ScalarFencesWaitThenPass := by
  intro s c k j x hx
  have fence (sys : Bool) : scalarFence sys s = .next (if x.fenceDone sys = true then s.passed c k j x else s) :=
    scalarStep_at hx _
  refine ⟨(scalarStep_at hx _).trans (congrArg _ ?_), (scalarStep_at hx _).trans (congrArg _ ?_), fence false, fence false,
    fence true⟩
  · cases x.lsyncDone <;> cases x.scalarPending <;> rfl
  · cases x.scalarPending <;> rfl

/-! ## System registers -/

theorem sysregListed_iff (r : Nat) : sysregListed r = true ↔
    r < 0x04 ∨ 0x08 ≤ r ∧ r < 0x14 ∨ 0x20 ≤ r ∧ r < 0x25 ∨ 0x40 ≤ r ∧ r < 0x50 := by
  simp only [sysregListed, Bool.or_eq_true, Bool.and_eq_true, decide_eq_true_eq]
  omega

theorem sysregWritable_iff (r : Nat) : sysregWritable r = true ↔ r < 0x04 ∨ 0x20 ≤ r ∧ r < 0x25 := by
  simp only [sysregWritable, Bool.or_eq_true, Bool.and_eq_true, decide_eq_true_eq]
  omega

theorem sysRead_slot (s : State) (c k : Nat) (x : Snd) {n : Nat} (hn : n < 8) :
    sysRead s c k x (8 + n) = x.evbind.getOr 0 n := by
  interval_cases n <;> rfl

theorem sysRead_tile (s : State) (c k : Nat) (x : Snd) {n : Nat} (hn : n < 16) :
    sysRead s c k x (0x40 + n) = BitVec.ofNat 64 (tstat s c k n) := by
  interval_cases n <;> rfl

theorem tstat_absent {s : State} {c k n : Nat} (h : n ∉ (s.ccOf c k).share.tiles) : tstat s c k n = 0 := by
  simp [tstat, h]

/-- The status word of four flags beneath GRANTED. -/
theorem tstat_granted {s : State} {c k n : Nat} (h : n ∈ (s.ccOf c k).share.tiles) :
    let t := (s.ccOf c k).tiles.getOr Tile.reset n
    tstat s c k n = 16 + t.isInt.toNat * 8 + (t.inflight != 0).toNat * 4 + t.dirty.toNat * 2 + t.valid.toNat := by
  intro t
  have hif : tstat s c k n = 16 + (if t.isInt then 8 else 0) + (if t.inflight != 0 then 4 else 0) + (if t.dirty then 2 else 0) +
      (if t.valid then 1 else 0) := if_neg (by simp [h])
  rw [hif]
  cases t.isInt <;> cases t.inflight != 0 <;> cases t.dirty <;> cases t.valid <;> rfl

/-- A byte of a word, as eight bits. -/
theorem ofNat_byte (v : Word) (lo : Nat) : BitVec.ofNat 8 (bits v (lo + 7) lo) = BitVec.ofNat 8 (v.toNat / 2 ^ lo) := by
  refine BitVec.eq_of_toNat_eq ?_
  rw [bits, show lo + 7 + 1 - lo = 8 by omega, BitVec.toNat_ofNat, BitVec.toNat_ofNat, Nat.mod_mod]

theorem statusBits (a b c d : Bool) :
    let v := BitVec.ofNat 64 (16 + a.toNat * 8 + b.toNat * 4 + c.toNat * 2 + d.toNat)
    v.getLsbD 4 = true ∧ v.getLsbD 3 = a ∧ v.getLsbD 2 = b ∧ v.getLsbD 1 = c ∧ v.getLsbD 0 = d ∧
      ∀ n : Nat, 5 ≤ n → v.getLsbD n = false := by
  refine ⟨?_, ?_, ?_, ?_, ?_, fun n hn => ?_⟩
  iterate 5 revert a b c d; decide
  have hlt : 16 + a.toNat * 8 + b.toNat * 4 + c.toNat * 2 + d.toNat < 2 ^ n :=
    lt_of_lt_of_le (by have := a.toNat_le; have := b.toNat_le; have := c.toNat_le; have := d.toNat_le; omega)
      (Nat.pow_le_pow_right (by decide) hn : 2 ^ 5 ≤ 2 ^ n)
  exact (BitVec.getLsbD_ofNat ..).trans (by rw [Nat.testBit_lt_two_pow hlt, Bool.and_false])

/-- Settles O11: the tables of the listed and of the writable numbers, and the value of each. -/
theorem systemRegistersReadAndWrite : Obligations.SystemRegistersReadAndWrite := by
  intro s c k j x d a r hx v bad wr
  have hr : exec (.sSysrd d r) s = .next (if sysregListed r.toNat then s.wrote c k j x d (sysRead s c k x r.toNat)
      else bad) := scalarStep_at hx _
  have hw : exec (.sSyswr a r) s = .next (if sysregWritable r.toNat then s.putSnd c k j (sysWrite x r.toNat v).adv
      else bad) :=
    scalarStep_at hx _
  refine ⟨fun h => ⟨_, hr.trans (congrArg _ (if_pos ((sysregListed_iff _).mpr h))), ?_⟩,
    fun h => hr.trans (congrArg _ (if_neg (mt (sysregListed_iff _).mp h))),
    fun h => hw.trans (congrArg _ (if_neg (mt (sysregWritable_iff _).mp h))), ?_, ?_, ?_, ?_, ?_, ?_, ?_, ?_, ?_,
    scalarStep_at hx _⟩
  · refine ⟨?_, ?_, ?_, ?_, fun n hn h => ?_, ?_, ?_, ?_, ?_, ?_, ?_, ?_, ?_, ?_, fun n hn h => ?_⟩
    iterate 4 rintro rfl; rfl
    · rw [h, sysRead_slot s c k x hn]
    · rintro rfl; rfl
    · rintro rfl cx hc
      simp [sysRead, hc]
    iterate 7 rintro rfl; rfl
    · rw [h, sysRead_tile s c k x hn]
      refine ⟨fun ht => by rw [tstat_absent ht]; rfl, fun ht => ?_⟩
      rw [tstat_granted ht]
      exact statusBits _ _ _ _
  · rintro rfl; exact hw
  · rintro rfl; exact hw
  · rintro rfl; exact hw
  · rintro rfl
    refine hw.trans (congrArg (fun y => Host.Outcome.next (wr y)) (?_ : sysWrite x 3 v = _))
    simp only [sysWrite, ofNat_byte v 16, ofNat_byte v 8]
  iterate 5 rintro rfl; exact hw

end Sys2Proof.Machine
end

section
/-! Barriers and dreys, and the turn of a synchronising operation in deterministic mode (O12). -/

namespace Sys2Proof.Machine

open Sys2Proof State

/-! ## The turn of an operation (R293) -/

theorem stampLess_iff (a b : Nat × Nat) : stampLess a b = true ↔ a.1 < b.1 ∨ a.1 = b.1 ∧ a.2 < b.2 := by
  simp [stampLess]

/-- A party lets an operation with a clock and an index go ahead of it. -/
def Yields (s : State) (c : Nat) (x p : Snd) : Prop :=
  p.uid = x.uid ∨ stampOf s c p = none ∨
    ∃ t, stampOf s c p = some t ∧ (x.lclock.toNat < t.1 ∨ x.lclock.toNat = t.1 ∧ x.idx < t.2)

theorem yields_iff (s : State) (c : Nat) (x p : Snd) :
    (p.uid == x.uid) = true ∨ (match stampOf s c p with
      | none => true
      | some t => stampLess (x.lclock.toNat, x.idx) t) = true ↔ Yields s c x p := by
  unfold Yields
  cases stampOf s c p <;> simp [stampLess_iff]

theorem detTurn_iff (s : State) (c : Nat) (x : Snd) (ps : List Snd) :
    detTurn s c x ps = true ↔ x.determ = false ∨ ∀ p ∈ ps, Yields s c x p := by
  simp only [detTurn, Bool.or_eq_true, Bool.not_eq_true', List.all_eq_true]
  exact or_congr_right (forall₂_congr fun p _ => yields_iff s c x p)

/-! ## A synchronising operation -/

/-- The sounder as its operation takes effect: joined where the operation joins, no longer waiting. -/
def Snd.atTurn (x : Snd) (joins : Bool) : Snd :=
  if joins || x.determ then { x.join with wait := .ready } else { x with wait := .ready }

theorem syncStep_turn {s : State} {c k j : Nat} {x : Snd} {joins : Bool} {ps : List Snd} (hi : (joins || x.determ) = true → x.Idle)
    (ht : detTurn s c x ps = true) (eff : Snd → State) : syncStep s c k j x joins ps eff = eff (x.atTurn joins) := by
  have hw : ((joins || x.determ) && !(x.lsyncDone && !x.scalarPending)) = false := by
    cases hd : (joins || x.determ) with
    | false => rfl
    | true => simp [(hi hd).lanes, (hi hd).stores]
  simp only [syncStep, hw, ht, Bool.not_true, Bool.false_eq_true, if_false]
  rfl

theorem syncStep_wait {s : State} {c k j : Nat} {x : Snd} {joins : Bool} {ps : List Snd} (hi : x.Idle)
    (ht : detTurn s c x ps = false) (eff : Snd → State) :
    syncStep s c k j x joins ps eff = s.putSnd c k j { x with wait := .det (scalarWord s c x) } := by
  simp [syncStep, hi.lanes, hi.stores, ht]

/-- The stamp of a counted party (R293, R294). -/
theorem stampOf_cases (s : State) (c : Nat) (p : Snd) :
    (p.barWait = none → stampOf s c p = some (p.lclock.toNat, p.idx)) ∧
    ∀ r tok : Nat, p.barWait = some (r, tok) →
      let q := barrierOf s c (refCore r) (refNumber r)
      (phasePassed q tok = true → stampOf s c p = some (p.lclock.toNat, p.idx)) ∧
      (phasePassed q tok = false → q.phase.toNat = tok % 2 ^ 56 → (∀ m ∈ q.ranks, m.2.2.1 ≠ 0) →
        stampOf s c p = some (max p.lclock.toNat q.clock, p.idx)) ∧
      (phasePassed q tok = false → (q.phase.toNat ≠ tok % 2 ^ 56 ∨ ∃ m ∈ q.ranks, m.2.2.1 = 0) → stampOf s c p = none) := by
  refine ⟨fun h => by rw [stampOf, h], fun r tok h => ?_⟩
  unfold stampOf
  rw [h]
  refine ⟨fun hp => if_pos hp, fun hp hq hr => ?_, fun hp hq => ?_⟩ <;> dsimp only <;> rw [if_neg (by simp [hp])]
  · exact if_pos ⟨hq, by simpa using hr⟩
  · refine if_neg fun ⟨h1, h2⟩ => ?_
    simp only [List.all_eq_true, bne_iff_ne] at h2
    obtain h | ⟨m, hm, h0⟩ := hq
    · exact h h1
    · exact h2 m hm h0

/-- A join that cannot be is refused with one of three causes (R214). -/
theorem joinRank_error {b : Barrier} {k j d e : Nat} (h : joinRank b k j d = .error e) : e = 0x3A ∨ e = 0x3B ∨ e = 0x3C := by
  unfold joinRank at h
  dsimp only at h
  split at h
  · cases h; exact .inl rfl
  · split at h
    · split at h <;> cases h
      exact .inr (.inl rfl)
    · split at h <;> cases h
      exact .inr (.inr rfl)

/-! ## The instructions -/

/-- The barrier reference in a scalar register (Table 1 of 08). -/
def Snd.barRef (x : Snd) (a : BitVec 6) : Nat := (x.sreg a.toNat).toNat % 2 ^ 18

/-- The barrier after a join with descriptor `d` has taken rank `r` (R214). -/
def Barrier.joinedBy (b : Barrier) (d k j r : Nat) : Barrier :=
  let b : Barrier :=
    if b.drey then b
    else { b with drey := true, formed := false, size := dreySize d, extra := dreyExtra d, members := 0, arrived := 0,
                  openStat := 0, ranks := [] }
  { b with ranks := b.ranks.put r (16 * k + j, 0, 0), members := b.members + 1, formed := b.formed || b.members + 1 == b.size }

theorem Barrier.joinedBy_fields (b : Barrier) (d k j r : Nat) :
    (b.joinedBy d k j r).drey = true ∧ (b.joinedBy d k j r).ranks.find r = some (16 * k + j, 0, 0) ∧
      (b.joinedBy d k j r).members = (if b.drey then b.members else 0) + 1 ∧ (b.joinedBy d k j r).phase = b.phase := by
  unfold Barrier.joinedBy
  cases h : b.drey <;> simp [h]

theorem not_negated {b : Bool} (h : b = true) : ¬ (!b) = true := by simp [h]

section
variable {s : State} {c k j : Nat} {x : Snd} {d a b : BitVec 6}

/-- A join whose reference is granted and whose turn it is. -/
theorem sJoin_granted (hx : ScalarAt s c k j x) (hg : refGranted s c (x.barRef a) = true)
    (ht : x.determ = true → x.Idle) (hd : detTurn s c x (launchParties s c x.launch) = true) :
    exec (.sJoin d a) s = .next
      (let ds := (x.sreg a.toNat).toNat
       let ref := x.barRef a
       let bar := barrierOf s c (refCore ref) (refNumber ref)
       match joinRank bar k j ds with
       | .error e => scalarTrap s c k j x e
       | .ok r => testPhase (putBarrier (s.putSnd c k j (((x.atTurn false).entered ref).setS d.toNat (BitVec.ofNat 64 r)).adv) c
           (refCore ref) (refNumber ref) (bar.joinedBy ds k j r)) c (refCore ref) (refNumber ref)) := by
  exact (scalarStep_at hx _).trans (congrArg _ ((if_neg (not_negated hg)).trans (syncStep_turn (joins := false) ht hd _)))

theorem sJoin_waits (hx : ScalarAt s c k j x) (hg : refGranted s c (x.barRef a) = true) (hi : x.Idle)
    (hd : detTurn s c x (launchParties s c x.launch) = false) :
    exec (.sJoin d a) s = .next (s.putSnd c k j { x with wait := .det (scalarWord s c x) }) := by
  exact (scalarStep_at hx _).trans (congrArg _ ((if_neg (not_negated hg)).trans (syncStep_wait hi hd _)))

/-- leave, bar.sync and bar.arrive with a count, of a member of the drey, are synchronising operations. -/
theorem sLeave_member (hx : ScalarAt s c k j x) (hg : refGranted s c (x.barRef a) = true) {r : Nat}
    (hr : rankOf (barrierOf s c (refCore (x.barRef a)) (refNumber (x.barRef a))) k j =
      some r) :
    exec (.sLeave a) s = .next (syncStep s c k j x true (dreyParties s c (x.barRef a)) fun y =>
      leaveDrey (s.putSnd c k j (y.left (x.barRef a)).adv) c (x.barRef a) r 0) := by
  refine (scalarStep_at hx _).trans (congrArg _ ((if_neg (not_negated hg)).trans ?_))
  rw [← Snd.barRef, hr]

theorem sBarSync_member (hx : ScalarAt s c k j x) (hg : refGranted s c (x.barRef a) = true) {r : Nat}
    (hr : rankOf (barrierOf s c (refCore (x.barRef a)) (refNumber (x.barRef a))) k j =
      some r) :
    exec (.sBarSync d a) s = .next (syncStep s c k j x true (dreyParties s c (x.barRef a)) fun y =>
      memberArrive s c k j x { y with wait := .bar d.toNat (x.barRef a) (openPhase s c (x.barRef a)) } (x.barRef a) r 1) := by
  refine (scalarStep_at hx _).trans (congrArg _ ((if_neg (not_negated hg)).trans ?_))
  rw [← Snd.barRef, hr]

/-- bar.arrive whose reference is granted: its checks, the reading of the phase, and the arrival (R216). -/
theorem sBarArrive_granted (hx : ScalarAt s c k j x) (hg : refGranted s c (x.barRef a) = true) {v : Nat}
    (hv : (x.sreg b.toNat).toNat = v) {rank : Option Nat}
    (hr : rankOf (barrierOf s c (refCore (x.barRef a)) (refNumber (x.barRef a))) k j = rank) :
    exec (.sBarArrive d a b) s = .next
      (if v % 2 ^ 16 ≠ 0 ∧ rank.isNone then scalarTrap s c k j x 0x31
       else if v / 2 ^ 16 ≠ 0 then scalarTrap s c k j x 0x3D
       else if v % 2 ^ 16 = 0 then s.putSnd c k j (x.setS d.toNat (BitVec.ofNat 64 (openPhase s c (x.barRef a)))).adv
       else syncStep s c k j x true (dreyParties s c (x.barRef a)) fun y =>
         memberArrive s c k j x (y.setS d.toNat (BitVec.ofNat 64 (openPhase s c (x.barRef a)))).adv (x.barRef a) (rank.getD 0)
           (v % 2 ^ 16)) := by
  subst hv hr
  exact (scalarStep_at hx _).trans (congrArg _ (if_neg (not_negated hg)))

theorem sBarArrive_member (hx : ScalarAt s c k j x) (hg : refGranted s c (x.barRef a) = true) {r : Nat}
    (hr : rankOf (barrierOf s c (refCore (x.barRef a)) (refNumber (x.barRef a))) k j = some r)
    (h0 : 0 < (x.sreg b.toNat).toNat) (h1 : (x.sreg b.toNat).toNat < 2 ^ 16) :
    exec (.sBarArrive d a b) s = .next (syncStep s c k j x true (dreyParties s c (x.barRef a)) fun y =>
      memberArrive s c k j x (y.setS d.toNat (BitVec.ofNat 64 (openPhase s c (x.barRef a)))).adv (x.barRef a) r
        (x.sreg b.toNat).toNat) := by
  rw [sBarArrive_granted hx hg rfl hr, if_neg (by simp), if_neg (by rw [Nat.div_eq_of_lt h1]; exact not_not.mpr rfl), Nat.mod_eq_of_lt h1,
    if_neg (by omega), Option.getD_some]

/-- The barrier after an arrival of rank `r` with count `n` at a clock (R216). -/
def Barrier.counted (b : Barrier) (key r n clk : Nat) : Barrier :=
  let (key, m, c) := b.ranks.getOr (key, 0, 0) r
  { b with arrived := b.arrived + n, ranks := b.ranks.put r (key, m + n, max c clk) }

/-- An arrival within NEED is counted (R216). -/
theorem memberArrive_counts (y : Snd) {ref : Nat} (r : Nat) {n : Nat}
    (h : (barrierOf s c (refCore ref) (refNumber ref)).arrived + n ≤ (barrierOf s c (refCore ref) (refNumber ref)).need) :
    memberArrive s c k j x y ref r n = testPhase (putBarrier ((wake s c (refCore ref)).putSnd c k j (y.entered ref)) c
      (refCore ref) (refNumber ref) ((barrierOf s c (refCore ref) (refNumber ref)).counted (16 * k + j) r n x.lclock.toNat))
      c (refCore ref) (refNumber ref) :=
  if_neg (Nat.not_lt.mpr h)

/-- An arrival beyond NEED is refused (R216). -/
theorem memberArrive_beyond (y : Snd) {ref r n : Nat} (h : (barrierOf s c (refCore ref) (refNumber ref)).need <
      (barrierOf s c (refCore ref) (refNumber ref)).arrived + n) : memberArrive s c k j x y ref r n = scalarTrap s c k j x 0x3D :=
  if_pos h

end

/-- Settles O12: each instruction is a check of its reference and its rank followed by `syncStep`, whose turn is that of R293. -/
theorem barrierInstructions : Obligations.BarrierInstructions := by
  refine ⟨fun s c k j x d a b hx => ?_, fun s c k j x d a b hx => ?_⟩
  · intro v w ref rc rn bar joined turn launchTurn waits
    have hturn : turn ↔ detTurn s c x (dreyParties s c ref) = true := (detTurn_iff ..).symm
    refine ⟨stampOf_cases s c, fun hg => ⟨fun r hr hd => ?_, fun hdet hi hn => ?_, fun r hr hi ht => ?_, fun h0 => ?_,
      fun r hr hi ht h0 h1 hn => ?_, ?_, fun r hr hi ht hn => ?_, fun r hr hi ht => ?_⟩⟩
    · have hdt : detTurn s c x (launchParties s c x.launch) = true := by
        cases h : x.determ with
        | false => exact (detTurn_iff ..).mpr (.inl h)
        | true => exact (detTurn_iff ..).mpr (.inr (hd h).2)
      have he := sJoin_granted (d := d) hx hg (fun h => (hd h).1) hdt
      refine ⟨bar.joinedBy v k j r, he.trans ?_, bar.joinedBy_fields v k j r⟩
      dsimp only
      rw [show joinRank (barrierOf s c (refCore (x.barRef a)) (refNumber (x.barRef a))) k j (x.sreg a.toNat).toNat = .ok r from hr]
      rfl
    · refine sJoin_waits hx hg hi (Bool.eq_false_iff.mpr fun h => hn ?_)
      exact ((detTurn_iff ..).mp h).resolve_left (by simp [hdet])
    · exact (sLeave_member hx hg hr).trans (congrArg _ (syncStep_turn (fun _ => hi) (hturn.mp ht) _))
    · exact (sBarArrive_granted hx hg h0 rfl).trans (congrArg _ ((if_neg (by simp)).trans ((if_neg (by simp)).trans (if_pos rfl))))
    · exact ⟨bar.counted (16 * k + j) r w x.lclock.toNat, (sBarArrive_member hx hg hr h0 h1).trans (congrArg _
        ((syncStep_turn (fun _ => hi) (hturn.mp ht) _).trans (memberArrive_counts _ r hn))), rfl, rfl⟩
    · exact (scalarStep_at hx _).trans (congrArg _ (if_neg (not_negated hg)))
    · exact ⟨bar.counted (16 * k + j) r 1 x.lclock.toNat, (sBarSync_member hx hg hr).trans (congrArg _
        ((syncStep_turn (fun _ => hi) (hturn.mp ht) _).trans (memberArrive_counts _ r hn))), rfl, rfl⟩
    · have hf : detTurn s c x (dreyParties s c ref) = false := Bool.eq_false_iff.mpr (mt hturn.mpr ht)
      exact ⟨(sLeave_member hx hg hr).trans (congrArg _ (syncStep_wait hi hf _)),
        (sBarSync_member hx hg hr).trans (congrArg _ (syncStep_wait hi hf _)),
        fun h0 h1 => (sBarArrive_member hx hg hr h0 h1).trans (congrArg _ (syncStep_wait hi hf _))⟩
  · intro v w ref bar trap
    refine ⟨fun hg => ?_, fun hg hr => ⟨?_, ?_, fun hw => ?_⟩, fun hg hw h16 => ?_,
      fun hg r hr => ⟨fun h16 => ?_, fun hi ht => ⟨fun h0 h1 hn => ?_, fun hn => ?_⟩⟩, fun hg hd e he => ⟨joinRank_error he, ?_⟩⟩
    · have hng : (!refGranted s c ref) = true := by simp [hg]
      have bad (f : Nat → Nat → Nat → Snd → State) (hf : f c k j x = scalarTrap s c k j x 0x03) : scalarStep s f = trap 0x03 :=
        (scalarStep_at hx f).trans (congrArg _ hf)
      exact List.forall_mem_cons.mpr ⟨bad _ (if_pos hng), List.forall_mem_cons.mpr ⟨bad _ (if_pos hng),
        List.forall_mem_cons.mpr ⟨bad _ (if_pos hng), List.forall_mem_cons.mpr ⟨bad _ (if_pos hng),
        List.forall_mem_singleton.mpr (bad _ (if_pos hng))⟩⟩⟩⟩
    · refine (scalarStep_at hx _).trans (congrArg _ ((if_neg (not_negated hg)).trans ?_))
      rw [show rankOf (barrierOf s c (refCore _) (refNumber _)) k j = none from hr]
      rfl
    · refine (scalarStep_at hx _).trans (congrArg _ ((if_neg (not_negated hg)).trans ?_))
      rw [show rankOf (barrierOf s c (refCore _) (refNumber _)) k j = none from hr]
      rfl
    · exact (sBarArrive_granted hx hg rfl hr).trans (congrArg _ (if_pos ⟨hw, rfl⟩))
    · exact (sBarArrive_granted hx hg rfl rfl).trans (congrArg _ ((if_neg fun h => h.1 hw).trans (if_pos (by omega))))
    · exact (sBarArrive_granted hx hg rfl hr).trans (congrArg _ ((if_neg (by simp)).trans (if_pos (by omega))))
    · exact (sBarArrive_member hx hg hr h0 h1).trans (congrArg _ ((syncStep_turn (fun _ => hi) ht _).trans
        (memberArrive_beyond _ hn)))
    · exact (sBarSync_member hx hg hr).trans (congrArg _ ((syncStep_turn (fun _ => hi) ht _).trans (memberArrive_beyond _ hn)))
    · have hdt : detTurn s c x (launchParties s c x.launch) = true := by
        cases h : x.determ with
        | false => exact (detTurn_iff ..).mpr (.inl h)
        | true => exact (hd h).2
      refine (sJoin_granted (d := d) hx hg (fun h => (hd h).1) hdt).trans ?_
      dsimp only
      rw [show joinRank (barrierOf s c (refCore (x.barRef a)) (refNumber (x.barRef a))) k j (x.sreg a.toNat).toNat = .error e
        from he]
      rfl

end Sys2Proof.Machine
end

section
/-! Events and waitany (O14). -/

namespace Sys2Proof.Machine

open Sys2Proof State

/-! ## Bits of the event registers -/

theorem getLsbD_setBit8 (v : BitVec 8) {n m : Nat} (b : Bool) (hm : m < 8) :
    (setBit8 v n b).getLsbD m = if m = n then b else v.getLsbD m := by
  cases b with
  | false => rw [getLsbD_setBit8_false]; split <;> simp_all
  | true =>
    have one : ((1 : BitVec 8) <<< n).getLsbD m = (decide (n < 8) && decide (n = m)) := BitVec.getLsbD_twoPow n m
    simp only [setBit8, if_true, BitVec.getLsbD_or, one]
    by_cases h : m = n
    · subst h; simp [hm]
    · simp [h, Ne.symm h]

/-! ## Bindings -/

theorem bindKind_lt (b : Word) : bindKind b < 16 := Nat.mod_lt _ (by decide)

theorem bindingBad_iff (b : Word) : bindingBad b = true ↔ bindKind b = 0 ∨ 5 ≤ bindKind b ∨
    bindKind b = 1 ∧ 2 ^ 9 ≤ bindObject b ∨ bindKind b = 2 ∧ 2 ^ 8 ≤ bindObject b ∨ bindKind b = 3 ∧ 2 ^ 5 ≤ bindObject b := by
  unfold bindingBad
  have hk := bindKind_lt b
  interval_cases bindKind b <;> simp

theorem bindingGranted_iff (s : State) (c k : Nat) (b : Word) : bindingGranted s c k b = true ↔
    (bindKind b = 1 → bindObject b ∈ (s.ccOf c k).share.barriers) ∧
    (bindKind b = 2 → bindObject b ∈ (s.ccOf c k).share.handles) ∧
    (bindKind b = 3 → bindObject b ∈ (s.ccOf c k).share.mailboxes) := by
  unfold bindingGranted
  have hk := bindKind_lt b
  interval_cases bindKind b <;> simp

/-! ## waitany -/

theorem eligible_some {x : Snd} {n : Nat} (h : x.eligible = some n) :
    n < 8 ∧ (x.live &&& x.pending).getLsbD n = true ∧ ∀ l, l < n → (x.live &&& x.pending).getLsbD l = false := by
  obtain ⟨hp, hn, hl⟩ := List.find?_range_eq_some.mp h
  exact ⟨List.mem_range.mp hn, hp, fun l h => by simpa [-BitVec.getLsbD_and] using hl l h⟩

/-- What waitany leaves of the sounder once it has taken slot `m`. -/
theorem takeEvent_fields (x : Snd) (d m : Nat) :
    (x.takeEvent d m).pc = bindHandler (x.evbind.getOr 0 m) ∧
    (x.takeEvent d m).sreg d = (BitVec.ofNat 64 (x.pc + 4) <<< 32 ||| BitVec.ofNat 64 m) ∧
    (∀ r : Nat, r ≠ d → (x.takeEvent d m).sreg r = x.sreg r) ∧
    (∀ l : Nat, l < 8 → (x.takeEvent d m).pending.getLsbD l = (x.pending.getLsbD l && l != m) ∧
      (x.takeEvent d m).armed.getLsbD l = (x.armed.getLsbD l && !(l == m && bindKind (x.evbind.getOr 0 m) == 4))) := by
  refine ⟨rfl, Tbl.getOr_setOr_self .., fun r hr => Tbl.getOr_setOr_ne _ _ _ hr, fun l hl => ⟨getLsbD_setBit8_false .., ?_⟩⟩
  change (if bindKind (x.evbind.getOr 0 m) = 4 then setBit8 x.armed m false else x.armed).getLsbD l = _
  split
  · next h => rw [getLsbD_setBit8_false, beq_iff_eq.mpr h, Bool.and_true]; rfl
  · next h => rw [beq_eq_false_iff_ne.mpr h, Bool.and_false, Bool.not_false, Bool.and_true]

/-! ## evarm -/

section
variable {s : State} {c k j : Nat} {x : Snd} {e a : BitVec 6}

/-- The sounder with slot `n` bound to `b` and armed, at the next word (R217). -/
def Snd.armedWith (x : Snd) (n : Nat) (b : Word) (arrived : Bool) (due : Nat) : Snd :=
  { x with evbind := x.evbind.setOr 0 n b, armed := setBit8 x.armed n true, pending := setBit8 x.pending n arrived,
           timers := if bindKind b = 4 then x.timers.put n due else x.timers.del n, pc := x.pc + 4 }

/-- A message that has arrived makes the slot pending at once (R217). -/
def arrivedFor (s : State) (c k : Nat) (b : Word) : Bool :=
  bindKind b == 3 && (match mailOf s c k (bindObject b) with | .arrived _ => true | _ => false)

theorem arrivedFor_iff (s : State) (c k : Nat) (b : Word) :
    arrivedFor s c k b = true ↔ bindKind b = 3 ∧ ∃ r, mailOf s c k (bindObject b) = .arrived r := by
  unfold arrivedFor
  cases mailOf s c k (bindObject b) <;> simp

theorem armedWith_fields (x : Snd) {n : Nat} (hn : n < 8) (b : Word) (arrived : Bool) (due : Nat) :
    (x.armedWith n b arrived due).evbind.getOr 0 n = b ∧ (x.armedWith n b arrived due).armed.getLsbD n = true ∧
    (x.armedWith n b arrived due).pending.getLsbD n = arrived ∧ (x.armedWith n b arrived due).timers.find n = (if bindKind b = 4 then some due else none) ∧
    ∀ m : Nat, m < 8 → m ≠ n → (x.armedWith n b arrived due).evbind.getOr 0 m = x.evbind.getOr 0 m ∧
      (x.armedWith n b arrived due).armed.getLsbD m = x.armed.getLsbD m ∧
      (x.armedWith n b arrived due).pending.getLsbD m = x.pending.getLsbD m ∧
      (x.armedWith n b arrived due).timers.find m = x.timers.find m := by
  refine ⟨Tbl.getOr_setOr_self .., (getLsbD_setBit8 _ _ hn).trans (if_pos rfl), (getLsbD_setBit8 _ _ hn).trans (if_pos rfl), ?_,
    fun m hm h => ⟨Tbl.getOr_setOr_ne _ _ _ h, (getLsbD_setBit8 _ _ hm).trans (if_neg h),
      (getLsbD_setBit8 _ _ hm).trans (if_neg h), ?_⟩⟩
  · unfold Snd.armedWith
    split
    · exact Tbl.find_put_self ..
    · exact Tbl.find_del_self ..
  · unfold Snd.armedWith
    split
    · exact Tbl.find_put_ne _ _ h
    · exact Tbl.find_del_ne _ h

/-- evarm of a slot that exists: its checks in order, then the binding (R217). -/
theorem sEvarm_slot (hx : ScalarAt s c k j x) (hn : e.toNat < 8) {b : Word} (hb : x.sreg a.toNat = b) :
    exec (.sEvarm e a) s = .next
      (if bindingBad b then scalarTrap s c k j x 0x38
       else if !bindingGranted s c k b then scalarTrap s c k j x 0x03
       else if bindHandler b % 4 ≠ 0 ∨ scalarSize s c x ≤ bindHandler b then scalarTrap s c k j x 0x05
       else s.putSnd c k j (x.armedWith e.toNat b (arrivedFor s c k b)
         (s.plat.cycle + 64 * bindObject b))) := by
  subst hb
  exact (scalarStep_at hx _).trans (congrArg _ (if_neg (Nat.not_le.mpr hn)))

theorem sEvarm_no_slot (hx : ScalarAt s c k j x) (hn : 8 ≤ e.toNat) :
    exec (.sEvarm e a) s = .next (takeTrap s c k j { cause := 0x01, ill := 3, word := scalarWord s c x }) :=
  (scalarStep_at hx _).trans (congrArg _ (if_pos hn))

end

/-- Settles O14: the checks of evarm in order, what arming, clearing and taking leave of the other slots, and the branches of
waitany. -/
theorem eventInstructionsComplete : Obligations.EventInstructionsComplete := by
  intro s c k j x d e a hx b n
  refine ⟨fun hn hb hg h4 hs => ?_, fun hn => ?_, fun hn => ?_, fun hn => ⟨sEvarm_no_slot hx hn, exec_sEvdisarm_no_slot hx hn⟩,
    fun hl => (scalarStep_at hx _).trans (congrArg _ (if_pos hl)), fun m hm => ?_, fun hl hm => ?_⟩
  · obtain ⟨f1, f2, f3, f4, f5⟩ := armedWith_fields x hn b (arrivedFor s c k b) (s.plat.cycle + 64 * bindObject b)
    refine ⟨_, (sEvarm_slot hx hn rfl).trans (congrArg _ ?_), f1, f2, ?_, f4, f5, rfl⟩
    · exact (if_neg (by simpa using hb)).trans ((if_neg (not_negated hg)).trans (if_neg (not_or.mpr ⟨not_not.mpr h4, Nat.not_le.mpr hs⟩)))
    · rw [f3]
      exact arrivedFor_iff ..
  · intro trap bad granted
    refine ⟨fun hb => ?_, fun hb hg => ?_, fun hb hg hh => ?_⟩
    · exact (sEvarm_slot hx hn rfl).trans (congrArg _ (if_pos ((bindingBad_iff _).mpr hb)))
    · exact (sEvarm_slot hx hn rfl).trans (congrArg _ ((if_neg (mt (bindingBad_iff _).mp hb)).trans
        (if_pos (by simpa using mt (bindingGranted_iff ..).mp hg))))
    · exact (sEvarm_slot hx hn rfl).trans (congrArg _ ((if_neg (mt (bindingBad_iff _).mp hb)).trans
        ((if_neg (not_negated ((bindingGranted_iff ..).mpr hg))).trans (if_pos hh))))
  · refine ⟨x.disarmed n, exec_sEvdisarm_slot hx hn, Tbl.getOr_setOr_self x.evbind 0 n 0, ?_, ?_, Tbl.find_del_self .., fun m hm h => ⟨?_, ?_, ?_, ?_⟩,
      rfl⟩
    · exact (getLsbD_setBit8_false ..).trans (by simp)
    · exact (getLsbD_setBit8_false ..).trans (by simp)
    · exact Tbl.getOr_setOr_ne x.evbind 0 0 h
    · exact (getLsbD_setBit8_false ..).trans (by simp [h])
    · exact (getLsbD_setBit8_false ..).trans (by simp [h])
    · exact Tbl.find_del_ne _ h
  · obtain ⟨hm8, hbit, hlow⟩ := eligible_some hm
    obtain ⟨f1, f2, f3, f4⟩ := takeEvent_fields x d.toNat m
    have hl : x.live ≠ 0 := fun h => by simp [h] at hbit
    refine ⟨hm8, hbit, hlow, _, x.takeEvent d.toNat m, (scalarStep_at hx _).trans (congrArg _ (if_neg hl)), ?_, f1, f2, f3, f4, rfl, ?_⟩
    · rw [hm]
    · rw [hm]
      exact fun _ => rfl
  · refine (scalarStep_at hx _).trans (congrArg _ ((if_neg hl).trans ?_))
    rw [hm]

end Sys2Proof.Machine
end

section
/-! Mailboxes (O15). -/

namespace Sys2Proof.Machine

open Sys2Proof State

section
variable {s : State} {c k j : Nat} {x : Snd} {d a b : BitVec 6}

/-- mbpost: the checks of its operand and of its slot, then the post (R223). -/
theorem sMbpost_at (hx : ScalarAt s c k j x) {v : Nat} (hv : (x.sreg b.toNat).toNat = v) :
    exec (.sMbpost a b) s = .next
      (if v / 2 ^ 5 % 2 ^ 27 ≠ 0 ∨ v / 2 ^ 41 ≠ 0 ∨ 256 < v / 2 ^ 32 % 2 ^ 9 then scalarTrap s c k j x 0x40
       else if !(s.ccOf c k).share.mailboxes.contains (v % 32) then scalarTrap s c k j x 0x03
       else match mailOf s c k (v % 32) with
         | .closed => putMail (s.putSnd c k j x.adv) c k (v % 32) (.posted (x.sreg a.toNat).toNat (v / 2 ^ 32 % 2 ^ 9))
         | _ => scalarTrap s c k j x 0x3E) := by
  subst hv
  exact scalarStep_at hx _

/-- The form of mbpost's operand (Table 5 of 08). -/
theorem postForm_iff (v : Nat) : (∃ slot len : Nat, slot < 32 ∧ len ≤ 256 ∧ v = slot + len * 2 ^ 32) ↔
    ¬ (v / 2 ^ 5 % 2 ^ 27 ≠ 0 ∨ v / 2 ^ 41 ≠ 0 ∨ 256 < v / 2 ^ 32 % 2 ^ 9) := by
  constructor
  · rintro ⟨slot, len, hs, hl, rfl⟩
    omega
  · intro h
    exact ⟨v % 32, v / 2 ^ 32 % 2 ^ 9, by omega, by omega, by omega⟩

/-- mbrecv: the check of its slot, then by the state of the mailbox (R226). -/
theorem sMbrecv_at (hx : ScalarAt s c k j x) {slot : Nat} (hs : (x.sreg a.toNat).toNat % 32 = slot) :
    exec (.sMbrecv d a) s = .next
      (if !(s.ccOf c k).share.mailboxes.contains slot then scalarTrap s c k j x 0x03
       else match mailOf s c k slot with
         | .closed => scalarTrap s c k j x 0x3F
         | .posted _ _ => s.putSnd c k j { x with wait := .mbrecv d.toNat slot }
         | .arrived r => putMail (s.wrote c k j { x with wait := .ready } d r) c k slot .closed) := by
  subst hs
  exact scalarStep_at hx _

theorem destRemote_eq {u : Nat} (h : u < 2 ^ 39) : destRemote u = decide (2 ^ 38 ≤ u) := by
  unfold destRemote
  by_cases hu : 2 ^ 38 ≤ u <;> simp only [hu, decide_true, decide_false, beq_iff_eq, beq_eq_false_iff_ne] <;> omega

theorem destRemote_of_lt {u : Nat} (h : u < 2 ^ 38) : destRemote u = false :=
  (destRemote_eq (by omega)).trans (decide_eq_false (Nat.not_le.mpr h))

theorem destRemote_of_ge {u : Nat} (h : 2 ^ 38 ≤ u) (hl : u < 2 ^ 39) : destRemote u = true :=
  (destRemote_eq hl).trans (decide_eq_true h)

/-- mbsend with a destination in form, not yet reading, of a sounder whose reads nothing holds back, reads its message (R225). -/
theorem sMbsend_reads (hx : ScalarAt s c k j x) {u v : Nat} (hu : (x.sreg a.toNat).toNat = u) (hv : (x.sreg b.toNat).toNat = v)
    (hf : ¬ (u / 2 ^ 39 ≠ 0 ∨ (!destRemote u ∧ destPkg u ≠ 0))) (hw : ∀ d' de ad n bs, x.wait ≠ .mbread d' de ad n bs)
    (hd : x.determ = false) (hp : x.scalarPending = false) (hs : coreSplit s k = false) :
    exec (.sMbsend d a b) s =
      .next (mailGo s c k j { x with wait := .ready } d.toNat u (v % 2 ^ 56) (v / 2 ^ 56 + 1) []) := by
  subst hu hv
  refine (scalarStep_at hx _).trans (congrArg _ ((if_neg hf).trans ?_))
  split
  · next h => exact absurd h (hw _ _ _ _ _)
  · rw [if_neg (by simp [hp, hs]), syncStep_turn (by simp [hd]) ((detTurn_iff ..).mpr (.inl hd)), Snd.atTurn,
      if_neg (by simp [hd])]

theorem sMbsend_badForm (hx : ScalarAt s c k j x) {u : Nat} (hu : (x.sreg a.toNat).toNat = u)
    (hf : u / 2 ^ 39 ≠ 0 ∨ (!destRemote u ∧ destPkg u ≠ 0)) :
    exec (.sMbsend d a b) s = .next (scalarTrap s c k j x 0x40) := by
  subst hu
  exact (scalarStep_at hx _).trans (congrArg _ (if_pos hf))

end

/-! ## The message -/

/-- Another package's message goes with the number of its stream (R378). -/
theorem sendNext_mail (s : State) (p x k j c : Nat) (bs : List Byte) (o : Origin) (n : SeqNo) :
    s.sendNext (.mail p x k j c bs o n) =
      (s.nextSeq (mailKey p c x k j)).2.sendOp (.mail p x k j c bs o (s.nextSeq (mailKey p c x k j)).1) := rfl

/-- A released message goes out: at once within the package, in its stream to another (R225). -/
theorem mailRelease_done {t : State} {c k j : Nat} {x : Snd} {d dest pkg : Nat} {bs : List Byte}
    (hf : x.fenceDone (destRemote dest) = true) (hp : (if destRemote dest then destPkg dest else t.plat.pkgid) = pkg) :
    mailRelease t c k j x d dest bs =
      let m : OutMsg := .mail pkg (destCtx dest) (destCore dest) (destSlot dest) c bs (.mail c k j) { pdc := 0, n := 0 }
      let w := t.putSnd c k j { x with wait := .mbsend d }
      if pkg = t.plat.pkgid then w.sendOp m else w.sendNext m := by
  subst hp
  exact if_pos hf

theorem mailRelease_waits {t : State} {c k j : Nat} {x : Snd} {d dest : Nat} {bs : List Byte}
    (hf : x.fenceDone (destRemote dest) = false) :
    mailRelease t c k j x d dest bs = t.putSnd c k j { x with wait := .mbread d dest 0 0 bs } := if_neg (by simp [hf])

theorem toBytes_readN (s : State) (pa : Nat) : toBytes 1 (s.readN pa 1) = [s.readPA pa] := by
  simp [toBytes, readN, leBytes]

/-- Settles O15: the forms of the operands, the states of the mailbox, and the reading of a message byte by byte. -/
theorem mailboxInstructionsComplete : Obligations.MailboxInstructionsComplete := by
  intro s c k j x d a b hx u v trap
  refine ⟨fun slot len hs hl hv => ?_, fun hf => ?_, fun hm => ?_, fun hm => ?_, fun hu => ?_, fun hu hw hd hp hsp => ?_,
    fun ad n got => ⟨rfl, fun e he => ?_, fun p q he => ?_, fun tier pa he hlag => ⟨fun hpo => ?_, fun hpo => ?_⟩⟩⟩
  · have hform := (postForm_iff v).mp ⟨slot, len, hs, hl, hv⟩
    have h1 : v % 32 = slot := by omega
    have h2 : v / 2 ^ 32 % 2 ^ 9 = len := by omega
    have post := (sMbpost_at (a := a) hx rfl).trans (congrArg _ (if_neg hform))
    rw [h1, h2] at post
    refine ⟨fun hm => post.trans (congrArg _ (if_pos (by simpa using hm))), fun hm => ?_⟩
    have granted := post.trans (congrArg _ (if_neg (by simpa using hm)))
    refine ⟨fun hc => granted.trans (by rw [hc]; rfl), fun hc => granted.trans ?_⟩
    cases hml : mailOf s c k slot with
    | closed => exact absurd hml hc
    | posted | arrived => rfl
  · exact (sMbpost_at hx rfl).trans (congrArg _ (if_pos (not_not.mp (mt (postForm_iff v).mpr hf))))
  · exact (sMbrecv_at hx rfl).trans (congrArg _ (if_pos (by simpa using hm)))
  · have recv := (sMbrecv_at (d := d) hx rfl).trans (congrArg _ (if_neg (by simpa using hm)))
    exact ⟨fun r h => recv.trans (by rw [h]), fun ad n h => recv.trans (by rw [h]), fun h => recv.trans (by rw [h]; rfl)⟩
  · refine sMbsend_badForm hx rfl ?_
    obtain h | ⟨h, hp⟩ := hu
    · exact .inl (by omega)
    · exact .inr ⟨by rw [destRemote_of_lt h]; rfl, hp⟩
  · intro y pkg
    have hlt : u < 2 ^ 39 := by omega
    have hrem := destRemote_eq hlt
    have hform : ¬ (u / 2 ^ 39 ≠ 0 ∨ (!destRemote u ∧ destPkg u ≠ 0)) := by
      rintro (h | ⟨h1, h2⟩)
      · omega
      · obtain ⟨_, h⟩ | ⟨h, _⟩ := hu
        · exact h2 h
        · rw [destRemote_of_ge h hlt] at h1
          exact absurd h1 (by decide)
    have go := sMbsend_reads (d := d) (b := b) hx rfl rfl hform hw hd hp hsp
    refine ⟨fun t bs hr => ?_, fun t bs va left p q hr => ?_, fun t e va info hr => ?_⟩
    · rw [go, mailGo, hr]
      intro m w
      have hpkg (h : t.plat.pkgid = s.plat.pkgid) : (if destRemote u then destPkg u else t.plat.pkgid) = pkg := by
        by_cases h38 : u < 2 ^ 38
        · rw [destRemote_of_lt h38]
          exact h.trans (if_pos h38).symm
        · rw [destRemote_of_ge (Nat.not_lt.mp h38) hlt]
          exact (if_neg h38).symm
      refine ⟨fun hf => ⟨fun hp ht => congrArg _ ?_, fun hp ht => congrArg _ ?_⟩, fun hf => congrArg _ ?_⟩
      · exact (mailRelease_done (x := y) (hrem ▸ hf) (hpkg ht)).trans (if_pos (hp.trans ht.symm))
      · exact (mailRelease_done (x := y) (hrem ▸ hf) (hpkg ht)).trans (if_neg fun h => hp (h.trans ht))
      · exact mailRelease_waits (x := y) (hrem ▸ hf)
    · rw [go, mailGo, hr]
    · rw [go, mailGo, hr]
      rfl
  · rw [mailRead, he]
  · rw [mailRead, he]
  · rw [mailRead, he]
    exact if_pos hpo
  · rw [mailRead, he]
    refine (if_neg (by simp [hpo])).trans ?_
    rw [readAs_fresh hlag, toBytes_readN]

end Sys2Proof.Machine
end

section
/-! Traps: entry, the fatal halts, the calls, ends and returns, and the replay of log entries (O16, O17). -/

namespace Sys2Proof.Tbl

/-- A later write of a place is the one that stands. -/
@[simp] theorem put_put {α : Type} (t : Tbl α) (k : Nat) (a b : α) : (t.put k a).put k b = t.put k b := by
  induction t with
  | nil => simp [put]
  | cons e r ih =>
    obtain ⟨j, v⟩ := e
    simp only [put]
    split
    · simp [put]
    · split
      · simp [put]
      · next h1 h2 => simp [put, h1, h2, ih]

end Sys2Proof.Tbl

namespace Sys2Proof.Machine

open Sys2Proof State

@[simp] theorem State.putCC_putCC (s : State) (c k : Nat) (x y : CtxCore) : (s.putCC c k x).putCC c k y = s.putCC c k y := by
  simp [putCC]

@[simp] theorem State.putSnd_putSnd (s : State) (c k j : Nat) (x y : Snd) :
    (s.putSnd c k j x).putSnd c k j y = s.putSnd c k j y := by
  simp [putSnd, modCC]

theorem State.modSnd_putSnd (s : State) (c k j : Nat) (x : Snd) (f : Snd → Snd) :
    (s.putSnd c k j x).modSnd c k j f = s.putSnd c k j (f x) := by
  rw [modSnd_of _ _ (snd?_putSnd_self ..), putSnd_putSnd]

/-! ## Entry -/

/-- The sounder as it enters the handler at `en`, with frame `f` at address `a` (R234). -/
def Snd.entering (x : Snd) (t : TrapInfo) (a en f : Nat) : Snd :=
  { (x.setS 0 (BitVec.ofNat 64 a)).setS 1 (BitVec.ofNat 64 f) with
    handler := true, aside := some (x.setAside t), pc := en, queue := [], running := false, slices := [], wait := .ready,
    probed := x.stillProbed t }

theorem entering_sreg (x : Snd) (t : TrapInfo) (a en f : Nat) :
    (x.entering t a en f).sreg 0 = BitVec.ofNat 64 a ∧ (x.entering t a en f).sreg 1 = BitVec.ofNat 64 f ∧
      ∀ r : Nat, r ≠ 0 → r ≠ 1 → (x.entering t a en f).sreg r = x.sreg r :=
  ⟨(Tbl.getOr_setOr_ne _ _ _ (by decide)).trans (Tbl.getOr_setOr_self ..), Tbl.getOr_setOr_self ..,
    fun _ h0 h1 => (Tbl.getOr_setOr_ne _ _ _ h1).trans (Tbl.getOr_setOr_ne _ _ _ h0)⟩

/-- What entry writes of the sounder (R234). The frame is a variable here: its layout is not looked into. -/
theorem entering_left (w : State) (c k j a en f : Nat) (x : Snd) (t : TrapInfo) :
    ∃ y, w.putSnd c k j (x.entering t a en f) = w.putSnd c k j y ∧
      y.handler = true ∧ y.pc = en ∧ y.queue = [] ∧ y.running = false ∧ y.slices = [] ∧ y.wait = .ready ∧
      y.aside = some (x.setAside t) ∧ y.sreg 0 = BitVec.ofNat 64 a ∧ y.sreg 1 = BitVec.ofNat 64 f ∧
      (∀ r : Nat, r ≠ 0 → r ≠ 1 → y.sreg r = x.sreg r) ∧
      y = { x with s := y.s, handler := true, aside := y.aside, pc := en, queue := [], running := false, slices := [],
                   wait := .ready, probed := x.stillProbed t } := by
  obtain ⟨h0, h1, hr⟩ := entering_sreg x t a en f
  exact ⟨_, rfl, rfl, rfl, rfl, rfl, rfl, rfl, rfl, h0, h1, hr, rfl⟩

section
variable {s : State} {c k j : Nat} {x : Snd} {cx : Ctx}

theorem takeTrap_entry (hc : s.ctx? c = some cx) (hx : s.snd? c k j = some x) (hm : x.midSend = false) (hh : x.handler = false)
    {im en base : Nat} (hi : cx.handler = some (im, en, base)) (t : TrapInfo) :
    takeTrap s c k j t =
      (writeVirt (dropScalarLoads s c k j) c (frameAddr base k j) (toBytes 256 (frameNat x t))).putSnd c k j
        (x.entering t (frameAddr base k j) en (frameNat x t)) := by
  simp only [takeTrap, Snd.entering, hc, hx, hm, hh, hi, Bool.false_eq_true, if_false]

theorem takeTrap_inHandler (hc : s.ctx? c = some cx) (hx : s.snd? c k j = some x) (hm : x.midSend = false) (hh : x.handler = true)
    (t : TrapInfo) : takeTrap s c k j t =
      haltCtx (s.putSnd c k j { x with handler := false }) c 1 x.idx k 0 (frameNat x t % 2 ^ 1024) := by
  simp only [takeTrap, hc, hx, hm, hh, Bool.false_eq_true, if_false, if_true]

theorem takeTrap_noHandler (hc : s.ctx? c = some cx) (hx : s.snd? c k j = some x) (hm : x.midSend = false) (hh : x.handler = false)
    (hi : cx.handler = none) (t : TrapInfo) :
    takeTrap s c k j t = haltCtx s c 4 x.idx k 0 (frameNat x t % 2 ^ 1024) := by
  simp only [takeTrap, hc, hx, hm, hh, hi, Bool.false_eq_true, if_false]

end

/-- Settles O16: the three branches of trap entry, and what the two writes of registers leave of the others. -/
theorem trapEntryAndHalt : Obligations.TrapEntryAndHalt := by
  refine ⟨fun s c k j im en base x cx t hc hx hm hh hi => ?_, fun s c k j x cx t hc hx hm => ⟨fun hh => ?_, fun hh hi => ?_⟩⟩
  · rw [takeTrap_entry hc hx hm hh hi t]
    exact entering_left ..
  · exact takeTrap_inHandler hc hx hm hh t
  · exact takeTrap_noHandler hc hx hm hh hi t

/-! ## Calls, ends and returns -/

section
variable {s : State} {c k j : Nat} {x : Snd} {d a b : BitVec 6}

theorem sSndend_idle (hx : ScalarAt s c k j x) (hi : x.Idle) :
    exec .sSndend s = .next
      (if x.handler then (if x.quiet then endTurn s c k j x 4 else s)
       else if !x.oplog.isEmpty then s
       else endTurn s c k j x 0) :=
  (scalarStep_at hx _).trans (congrArg _ (if_neg (by simp [hi.lanes, hi.stores])))

/-- Without a departure to make in its turn the sounder ends. -/
theorem endTurn_ends (h : x.determ = true → dreysOf s c k j = []) (st : BitVec 8) :
    endTurn s c k j x st = endSounder s c k j st := by
  have hd : (if x.determ then dreysOf s c k j else []) = [] := by
    split
    · next hd => exact h hd
    · rfl
  rw [endTurn, hd]

theorem endTurn_leaves (hd : x.determ = true) {ref r : Nat} {rest : List (Nat × Nat)} (hr : dreysOf s c k j = (ref, r) :: rest)
    (ht : detTurn s c x (dreyParties s c ref) = true) (st : BitVec 8) :
    endTurn s c k j x st = leaveDrey (s.putSnd c k j (({ x with wait := .ready } : Snd).left ref)) c ref r st := by
  rw [endTurn, if_pos hd, hr]
  exact if_pos ht

theorem sTret_handler (hx : ScalarAt s c k j x) (hh : x.handler = true) (hp : x.scalarPending = false) :
    exec .sTret s = .next (match frameResume s c k j with
      | 3 => sendUp s c k j
      | 2 => if x.quiet then endTurn s c k j x 4 else s
      | r => tretAct s c k j r) :=
  (scalarStep_at hx _).trans (congrArg _ ((if_neg (not_negated hh)).trans (if_neg (by simp [hp]))))

/-! ## The operand log -/

theorem sOplrd_handler (hx : ScalarAt s c k j x) (hh : x.handler = true) (hu : (x.sreg a.toNat).toNat < 8)
    (hw : (x.sreg b.toNat).toNat < 200) :
    exec (.sOplrd d a b) s = .next (s.wrote c k j x d (BitVec.ofNat 64
      (match x.oplog.find (x.sreg a.toNat).toNat with
        | some e => e.view (x.sreg b.toNat).toNat
        | none => 0))) :=
  (scalarStep_at hx _).trans (congrArg _ ((if_neg (not_negated hh)).trans (if_neg (by omega))))

/-- An entry that oplrep may name: it is gone, or holds lanes (R239). -/
def Snd.replayable (x : Snd) (n : Nat) : Prop := ∀ e, x.oplog.find n = some e → e.held ≠ []

theorem replayable_none {n : Nat} (h : x.oplog.find n = none) : x.replayable n := fun e he => by simp [h] at he

theorem replayable_some {n : Nat} {e : LogEntry} (h : x.oplog.find n = some e) (hh : e.held ≠ []) : x.replayable n :=
  fun e' he => by rw [h] at he; cases he; exact hh

/-- oplrep of an entry that it may name, by its bit 8 (R239). -/
theorem sOplrep_handler (hx : ScalarAt s c k j x) (hh : x.handler = true) {v n : Nat} (hv : (x.sreg a.toNat).toNat = v)
    (hn : v % 8 = n) (hz : v / 8 % 32 = 0 ∧ v / 2 ^ 9 = 0) (hr : x.replayable n) :
    exec (.sOplrep d a) s = .next (settleReplay
      (if v / 2 ^ 8 % 2 = 0 then
         performLanes (rehearse (s.putSnd c k j { x with wait := .replay d.toNat n }) c k j n false) c k j n 96
       else (s.putSnd c k j { x with wait := .replay d.toNat n }).modSnd c k j (fun y => y.discardHeld n)) c k j) := by
  subst hv hn
  refine (scalarStep_at hx _).trans (congrArg _ ((if_neg (not_negated hh)).trans (if_neg ?_)))
  rintro (h | h | h)
  · exact h hz.1
  · exact h hz.2
  · split at h
    · next e he => exact hr e he (by simpa using h)
    · exact absurd h (by decide)

end

/-- Settles O17: the branches of each instruction. -/
theorem trapInstructions : Obligations.TrapInstructions := by
  refine ⟨fun s c k j x d a b hx => ?_, fun s c k j x d a b hx hh => ?_⟩
  · intro u w
    refine ⟨scalarStep_at hx _, fun hi hh hd ho => ?_, fun hi hh hq hd => ?_, fun hi hh hd ho => ⟨fun hr => ?_, fun ref r rest hr ht => ?_⟩,
      fun hh hp => ⟨fun r hr hf => ?_, fun hf hq hd => ?_, fun hf => ?_⟩, fun hh hu hw => ⟨fun e he => ?_, fun he => ?_⟩,
      fun hh hu he => ?_, fun e hh hu he hd => ?_, fun e hh hl hu he hd => ?_⟩
    · refine (sSndend_idle hx hi).trans (congrArg _ ((if_neg (by simp [hh])).trans ((if_neg (by simp [ho])).trans ?_)))
      exact endTurn_ends (by simp [hd]) 0
    · exact (sSndend_idle hx hi).trans (congrArg _ ((if_pos hh).trans ((if_pos hq).trans (endTurn_ends (by simp [hd]) 4))))
    · refine (sSndend_idle hx hi).trans (congrArg _ ((if_neg (by simp [hh])).trans ((if_neg (by simp [ho])).trans ?_)))
      exact endTurn_ends (fun _ => hr) 0
    · refine (sSndend_idle hx hi).trans (congrArg _ ((if_neg (by simp [hh])).trans ((if_neg (by simp [ho])).trans ?_)))
      exact endTurn_leaves hd hr ht 0
    · rw [sTret_handler hx hh hp, hf]
      interval_cases r <;> rfl
    · rw [sTret_handler hx hh hp, hf]
      exact congrArg _ ((if_pos hq).trans (endTurn_ends (by simp [hd]) 4))
    · rw [sTret_handler hx hh hp, hf]
      rfl
    · exact (sOplrd_handler hx hh hu hw).trans (by rw [he])
    · exact (sOplrd_handler hx hh hu hw).trans (by rw [he]; rfl)
    · exact (sOplrep_handler hx hh rfl (Nat.mod_eq_of_lt hu) (by omega) (replayable_none he)).trans
        (congrArg (fun t => Host.Outcome.next (settleReplay t c k j)) (if_pos (by omega)))
    · exact (sOplrep_handler hx hh rfl (Nat.mod_eq_of_lt hu) (by omega) (replayable_some he hd)).trans
        (congrArg (fun t => Host.Outcome.next (settleReplay t c k j)) (if_pos (by omega)))
    · exact (sOplrep_handler hx hh rfl rfl (by omega) (replayable_some he hd)).trans
        (congrArg (fun t => Host.Outcome.next (settleReplay t c k j)) ((if_neg (by omega)).trans (State.modSnd_putSnd ..)))
  · have bad (f : Nat → Nat → Nat → Snd → State) (hf : f c k j x = scalarTrap s c k j x 0x02) :
        scalarStep s f = .next (takeTrap s c k j { cause := 0x02, word := scalarWord s c x }) :=
      (scalarStep_at hx f).trans (congrArg _ hf)
    have hn : (!x.handler) = true := by simp [hh]
    exact List.forall_mem_cons.mpr ⟨bad _ (if_pos hn), List.forall_mem_cons.mpr ⟨bad _ (if_pos hn),
      List.forall_mem_singleton.mpr (bad _ (if_pos hn))⟩⟩

end Sys2Proof.Machine
end

section
/-! What a lane operand reads and what a committed result leaves (O18, O19). -/

namespace Sys2Proof.Machine

open Sys2Proof State

/-! ## Sources -/

theorem getD_lanes {α : Type} (f : Nat → α) (d : α) {l : Nat} (hl : l < 96) : ((List.range 96).map f).getD l d = f l := by
  simp [List.getD_eq_getElem?_getD, hl]

section
variable (s : State) (i : Issue) {l : Nat} (hl : l < 96)
include hl

theorem source_v32_special {v : Nat} (hv : 640 ≤ v) : (i.source s .v32 v).getD l 0 = i.special v l % 2 ^ 32 := by
  rw [Issue.source, if_neg (Nat.not_lt.mpr hv), getD_lanes _ _ hl]

theorem source_v64_special {v : Nat} (hv : 640 ≤ v) : (i.source s .v64 v).getD l 0 = i.special v l := by
  rw [Issue.source, if_neg (Nat.not_lt.mpr hv), getD_lanes _ _ hl]
  all_goals exact nofun

theorem source_pred (q : Nat) : (i.source s .pred (656 + q)).getD l 0 = if (i.x.qreg q).getLsbD l = true then 1 else 0 := by
  rw [Issue.source, getD_lanes _ _ hl, Nat.add_sub_cancel_left]

end

theorem lane_together {i : Issue} (h : i.x.past = []) (s : State) (b n l : Nat) :
    i.lane s b n l = ((i.x.vreg n).getD l 0).toNat := if_pos (.inl (by simp [h]))

/-- Settles O18: a source field is a special operand, a predicate or a name, read lane by lane. -/
theorem laneOperandValues : Obligations.LaneOperandValues := by
  intro s i l hl low wide flag
  have hlow {v w : Nat} (hv : 640 ≤ v) (h : i.special v l = w) (hw : w < 2 ^ 32) : low v = w := by
    rw [← h] at hw ⊢
    exact (source_v32_special s i hl hv).trans (Nat.mod_eq_of_lt hw)
  have hwide {v w : Nat} (hv : 640 ≤ v) (h : i.special v l = w) : wide v = w := (source_v64_special s i hl hv).trans h
  have hk {j : Nat} (hj : j < 8) : i.special (640 + j) l = (i.blk.k.getD j 0).toNat :=
    (if_pos (by omega)).trans (by rw [Nat.add_sub_cancel_left])
  refine ⟨fun j hj => ⟨?_, hwide (by omega) (hk hj)⟩, ⟨hlow (by omega) rfl (by omega), hwide (by omega) rfl⟩,
    ⟨hlow (by omega) rfl (by omega), hwide (by omega) rfl⟩, ⟨source_v32_special s i hl (by omega), hwide (by omega) rfl⟩,
    ⟨hlow (by omega) rfl (by omega), hwide (by omega) rfl⟩, ⟨hlow (by omega) rfl (by omega), hwide (by omega) rfl⟩,
    ⟨hlow (by omega) rfl (by omega), hwide (by omega) rfl⟩, ?_, fun q hq => ?_, fun hp => ⟨fun n hn => ?_, fun n hn => ?_⟩,
    fun v => ⟨rfl, fun q hq => ?_⟩⟩
  · exact (source_v32_special s i hl (by omega)).trans (congrArg (· % 2 ^ 32) (hk hj))
  · exact (source_pred s i hl 0).trans (if_pos (BitVec.getLsbD_allOnes.trans (decide_eq_true hl)))
  · exact (source_pred s i hl q).trans (by rw [Snd.qreg, if_neg hq.ne'])
  · show (i.source s .v32 n).getD l 0 = _
    rw [Issue.source, if_pos hn, getD_lanes _ _ hl, lane_together hp]
  · show (i.source s .v64 n).getD l 0 = _
    rw [Issue.source, if_pos (by omega), getD_lanes _ _ hl, lane_together hp, lane_together hp]
    all_goals exact nofun
  · rw [Snd.setQ, if_neg hq, Snd.qreg, if_neg hq]
    exact Tbl.getOr_setOr_self ..

/-! ## The destination of an issue that commits -/

theorem sum_bits_testBit (p : Nat → Prop) [DecidablePred p] (n l : Nat) :
    let total := (List.range n).foldl (fun a j => if p j then a else a + 2 ^ j) 0
    total < 2 ^ n ∧ total.testBit l = decide (l < n ∧ ¬ p l) := by
  induction n with
  | zero => simp
  | succ n ih =>
    obtain ⟨hlt, hbit⟩ := ih
    rw [List.range_succ, List.foldl_append]
    generalize (List.range n).foldl (fun a j => if p j then a else a + 2 ^ j) 0 = total at hlt hbit
    show (if p n then total else total + 2 ^ n) < 2 ^ (n + 1) ∧ (if p n then total else total + 2 ^ n).testBit l = _
    split
    case isTrue h =>
      refine ⟨by omega, hbit.trans (decide_eq_decide.mpr ⟨fun ⟨a, b⟩ => ⟨by omega, b⟩, fun ⟨a, b⟩ => ⟨?_, b⟩⟩)⟩
      exact (Nat.lt_succ_iff_lt_or_eq.mp a).resolve_right fun e => b (e ▸ h)
    case isFalse h =>
      refine ⟨by omega, ?_⟩
      rw [Nat.add_comm total]
      rcases Nat.lt_trichotomy l n with hl | hl | hl
      · rw [Nat.testBit_two_pow_add_gt hl, hbit]
        exact decide_eq_decide.mpr ⟨fun ⟨a, b⟩ => ⟨by omega, b⟩, fun ⟨a, b⟩ => ⟨hl, b⟩⟩
      · rw [hl, Nat.testBit_two_pow_add_eq, Nat.testBit_lt_two_pow hlt]
        exact (decide_eq_true ⟨Nat.lt_succ_self n, h⟩).symm
      · rw [Nat.testBit_lt_two_pow (by have := Nat.pow_le_pow_right (n := 2) (by omega) (show n + 1 ≤ l from hl); omega)]
        exact (decide_eq_false (by omega)).symm

namespace Issue

theorem predOf_getLsbD (vals : List Nat) {l : Nat} (hl : l < 96) : (predOf vals).getLsbD l = decide (vals.getD l 0 ≠ 0) := by
  rw [predOf, BitVec.getLsbD_ofNat, (sum_bits_testBit (fun j => vals.getD j 0 = 0) 96 l).2]
  simp [hl]

/-- Nothing of a sounder but its names and predicates, and what is kept of them, differs. -/
def Rewritten (x y : Snd) : Prop := y = { x with v := y.v, q := y.q, past := y.past, fills := y.fills }

theorem Rewritten.trans {x y z : Snd} (a : Rewritten x y) (b : Rewritten y z) : Rewritten x z := by
  unfold Rewritten at *
  rw [b, a]

theorem rewritten_setQ (x : Snd) (n : Nat) (v : Bits96) : Rewritten x (x.setQ n v) := by
  unfold Snd.setQ
  split <;> rfl

theorem setQ_v (x : Snd) (n : Nat) (v : Bits96) : (x.setQ n v).v = x.v := by
  unfold Snd.setQ
  split <;> rfl

theorem rewritten_writeName (x : Snd) (p : Option Nat) (n : Nat) (mask : Bits96) (vals : List Nat) :
    Rewritten x (writeName x p n mask vals) := by
  unfold Rewritten
  rw [writeName_same]

theorem rewritten_writeDst (i : Issue) (vals : List Nat) (x : Snd) : Rewritten x (i.writeDst vals x) := by
  unfold writeDst
  split
  · exact rewritten_setQ ..
  · exact (rewritten_writeName ..).trans (rewritten_writeName ..)
  · exact rewritten_writeName ..

theorem writeName_q (x : Snd) (p : Option Nat) (n : Nat) (mask : Bits96) (vals : List Nat) :
    (writeName x p n mask vals).q = x.q := by rw [writeName_same]

section
variable {i : Issue} (vals : List Nat) (x : Snd) (n : Nat) {l : Nat}

theorem writeDst_q (h : i.spec.dst ≠ .pred) : (i.writeDst vals x).q = x.q := by
  unfold writeDst
  split
  case h_1 hd => exact absurd hd h
  · exact (writeName_q ..).trans (writeName_q ..)
  · exact writeName_q ..

theorem writeDst_v32 (h : i.spec.dst = .v32) (hl : l < 96) : ((i.writeDst vals x).vreg n).getD l 0 =
    if n = i.dst ∧ i.mask.getLsbD l = true then BitVec.ofNat 32 (vals.getD l 0) else (x.vreg n).getD l 0 := by
  unfold writeDst
  rw [h]
  exact vreg_writeName _ _ _ _ _ _ _ hl

theorem getD_map_zero (f : Nat → Nat) (hf : f 0 = 0) (l : Nat) : (vals.map f).getD l 0 = f (vals.getD l 0) := by
  rw [← List.getD_map (f := f), hf]

theorem writeDst_v64 (h : i.spec.dst = .v64) (hl : l < 96) : ((i.writeDst vals x).vreg n).getD l 0 =
    if n = i.dst ∧ i.mask.getLsbD l = true then BitVec.ofNat 32 (vals.getD l 0)
    else if n = i.dst + 1 ∧ i.mask.getLsbD l = true then BitVec.ofNat 32 (vals.getD l 0 / 2 ^ 32) else (x.vreg n).getD l 0 := by
  have hlow : BitVec.ofNat 32 (vals.getD l 0 % 2 ^ 32) = BitVec.ofNat 32 (vals.getD l 0) :=
    BitVec.eq_of_toNat_eq (by rw [BitVec.toNat_ofNat, BitVec.toNat_ofNat, Nat.mod_mod])
  unfold writeDst
  rw [h]
  refine (vreg_writeName _ _ _ _ _ _ _ hl).trans ?_
  rw [vreg_writeName _ _ _ _ _ _ _ hl, getD_map_zero vals (· % 2 ^ 32) rfl, getD_map_zero vals (· / 2 ^ 32) rfl, hlow]
  by_cases hn : n = i.dst
  · rw [if_neg (fun a => by omega)]
    exact if_congr Iff.rfl rfl (if_neg (fun a => by omega)).symm
  · rw [if_neg (c := n = i.dst ∧ _) (fun a => hn a.1), if_neg (c := n = i.dst ∧ _) (fun a => hn a.1)]

theorem writeDst_pred (h : i.spec.dst = .pred) (hl : l < 96) : ((i.writeDst vals x).qreg n).getLsbD l =
    if n = i.dst ∧ n ≠ 0 ∧ i.mask.getLsbD l = true then decide (vals.getD l 0 ≠ 0) else (x.qreg n).getLsbD l := by
  have hset (v : Bits96) : (x.setQ i.dst v).qreg n = if n = i.dst ∧ n ≠ 0 then v else x.qreg n := by
    unfold Snd.setQ Snd.qreg
    by_cases hn : n = 0
    · simp [hn]
    · by_cases e : n = i.dst
      · subst e; simp [hn]
      · by_cases h0 : i.dst = 0 <;> simp [hn, e, h0, Tbl.getOr_setOr_ne _ _ _ e]
  unfold writeDst
  rw [h]
  refine (congrArg (BitVec.getLsbD · l) (hset _)).trans ?_
  by_cases hn : n = i.dst ∧ n ≠ 0
  · rw [if_pos hn, ← hn.1]
    simp only [BitVec.getLsbD_or, BitVec.getLsbD_and, BitVec.getLsbD_not, predOf_getLsbD vals hl, hl]
    cases i.mask.getLsbD l <;> simp [hn.2]
  · rw [if_neg hn, if_neg (fun a => hn ⟨a.1, a.2.1⟩)]

theorem writeDst_pred_v (h : i.spec.dst = .pred) : (i.writeDst vals x).v = x.v := by
  unfold writeDst
  rw [h]
  exact setQ_v ..

end
end Issue

/-- What the issuing sounder is once an issue has committed: its destination written, its flags raised, its slices moved on. -/
structure Committed (i : Issue) (rs : List (Nat × Nat)) (y : Snd) : Prop where
  names      : y.v = (i.writeDst (rs.map (·.1)) i.x).v
  predicates : y.q = (i.writeDst (rs.map (·.1)) i.x).q
  flags      : y.fpstat = i.x.fpstat ||| BitVec.ofNat 64 (unionFlags i.mask rs % 32)
  slices     : y.slices = i.x.slices.mapV (fun k sl => if sliceBit i.slices k then { sl with pc := sl.pc + 1 } else sl)
  frame      : y = { i.x with v := y.v, q := y.q, past := y.past, fills := y.fills, fpstat := y.fpstat, slices := y.slices,
                              lclock := y.lclock, yielded := y.yielded, bound := y.bound, rlook := y.rlook, rhits := y.rhits,
                              rshare := y.rshare, rsatur := y.rsatur }

/-- What a commit leaves of its sounder has the rules of its destination, flags and slices. -/
theorem committed_of_same {i : Issue} {rs : List (Nat × Nat)} {z y : Snd} (hw : Issue.Rewritten i.x z)
    (hz : z = i.writeDst (rs.map (·.1)) i.x) (hr : SameRegs (z.raise (unionFlags i.mask rs)) y) :
    Committed i rs (i.retired 1 y) := by
  unfold SameRegs at hr
  unfold Issue.Rewritten at hw
  refine ⟨?_, ?_, ?_, ?_, ?_⟩
  · rw [← hz, hr]
    rfl
  · rw [← hz, hr]
    rfl
  · rw [hr, hw]
    rfl
  · rw [hr, hw]
    rfl
  · rw [hr, hw]
    rfl

theorem Committed.vreg {i : Issue} {rs : List (Nat × Nat)} {y : Snd} (h : Committed i rs y) (n : Nat) :
    y.vreg n = (i.writeDst (rs.map (·.1)) i.x).vreg n := by
  unfold Snd.vreg
  rw [h.names]

theorem Committed.qreg {i : Issue} {rs : List (Nat × Nat)} {y : Snd} (h : Committed i rs y) (n : Nat) :
    y.qreg n = (i.writeDst (rs.map (·.1)) i.x).qreg n := by
  unfold Snd.qreg
  rw [h.predicates]

/-- Settles O19: a commit writes its destination, raises its flags, rebinds and retires. -/
theorem laneCommitWritesDestination : Obligations.LaneCommitWritesDestination := by
  intro s i rs hx v t
  obtain ⟨e, y, hy, hr⟩ := Issue.commit_same i s rs i.x hx
  have h := committed_of_same (Issue.rewritten_writeDst ..) rfl hr
  generalize i.retired 1 y = y at h hy
  refine ⟨y, hy, fun hd n l hl => ?_, fun hd n l hl => ?_, fun hd => ⟨?_, fun n l hl => ?_⟩, fun hd => ?_, h.flags,
    fun k sl hk => ?_, h.frame, fun m => ?_, e.slot, e.home⟩
  · rw [h.vreg]
    exact Issue.writeDst_v32 _ _ _ hd hl
  · rw [h.vreg]
    exact Issue.writeDst_v64 _ _ _ hd hl
  · exact h.names.trans (Issue.writeDst_pred_v _ _ hd)
  · rw [h.qreg]
    exact Issue.writeDst_pred _ _ _ hd hl
  · exact h.predicates.trans (Issue.writeDst_q _ _ hd)
  · rw [h.slices, Tbl.find_mapV, hk]
    rfl
  · unfold State.readPA
    rw [e.mem]

end Sys2Proof.Machine
end

section
/-! The lane arithmetic instructions give, lane by lane, what their tables say (O20 to O23). -/

namespace Sys2Proof.Machine

open Sys2Proof State

/-- An immediate of a type that is no float is IMM, sign-extended (R136). -/
theorem immValue_int {i : Issue} (h : tyF i.ty = false) : immValue i = Alu.wrap 64 (Alu.toI true 20 i.imm) :=
  if_neg (Bool.eq_false_iff.mp h)

/-- An immediate of a float type other than f64 is the pattern whose high bits are IMM (R136). -/
theorem immValue_float {i : Issue} (h : tyF i.ty = true) (h64 : i.ty ≠ 0xC) : immValue i = i.imm * 2 ^ 12 :=
  (if_pos h).trans (if_neg h64)

/-- Settles O20: each integer instruction is `intOp` at its operation, whose element is the named arithmetic. -/
theorem laneIntegerResults : Obligations.LaneIntegerResults := by
  intro s i f g w sg v least most clip im r m
  have hr {ins min e} (op : Alu.Op) (he : exec ins s = laneArith s 1 min (.r f) (intOp op))
      (ho : Alu.elem op sg w = e) : r ins min e := by
    subst ho
    exact laneGives_of _ he rfl
  have hm {ins min e} (op : Alu.Op)
      (he : exec ins s = laneArith s 0x11 min (.i g) fun i as _ cs ds => intOp op i as (immLanes i) cs ds)
      (ho : Alu.elem op sg w = e) : m ins min e := by
    subst ho
    exact laneGives_of _ he rfl
  exact ⟨hr .add rfl rfl, hr .sub rfl rfl, hr .addSat rfl rfl, hr .subSat rfl rfl, hr .mul rfl rfl, hr .mulHi rfl rfl,
    hr .mad rfl rfl, hr .min rfl rfl, hr .max rfl rfl, hr .abs rfl rfl, hr .neg rfl rfl, hr .div rfl rfl, hr .rem rfl rfl,
    hr .avg rfl rfl, hr .sad rfl rfl, hm .add rfl rfl, hm .sub rfl rfl, hm .addSat rfl rfl, hm .subSat rfl rfl,
    hm .mul rfl rfl, hm .min rfl rfl, hm .max rfl rfl, immValue_int, immValue_float⟩

/-! ## Counts, reversal, fields and table look-up bit by bit (R138) -/

theorem popCount_eq (w a : Nat) : Alu.popCount w a = ((List.range w).filter (fun j => a.testBit j)).length := by
  induction w generalizing a with
  | zero => rfl
  | succ w ih =>
    rw [List.range_succ_eq_map, List.filter_cons, List.filter_map, Alu.popCount, ih]
    have htail : (fun j => a.testBit j) ∘ Nat.succ = fun j => (a / 2).testBit j := funext fun j => Nat.testBit_add_one a j
    rw [htail, Nat.testBit_zero]
    rcases Nat.mod_two_eq_zero_or_one a with h | h <;> simp [h, Nat.add_comm]

theorem clz_top_bit {w a : Nat} (h : a % 2 ^ w ≠ 0) : ∃ n, Alu.clz w a + n + 1 = w ∧ (a % 2 ^ w).testBit n = true ∧
    ∀ j, n < j → (a % 2 ^ w).testBit j = false := by
  have hlt : Nat.log2 (a % 2 ^ w) < w := (Nat.log2_lt h).mpr (Nat.mod_lt _ (Nat.two_pow_pos w))
  refine ⟨Nat.log2 (a % 2 ^ w), ?_, Nat.testBit_log2 h, fun j hj => Nat.testBit_lt_two_pow ((Nat.log2_lt h).mp hj)⟩
  rw [Alu.clz, Fl.bitLen, if_neg h]
  omega

theorem clz_zero {w a : Nat} (h : a % 2 ^ w = 0) : Alu.clz w a = w := by
  rw [Alu.clz, h]
  rfl

/-- The low bit of a value, and the rest of it. -/
theorem mod_two_pow_succ_eq_zero {w a : Nat} : a % 2 ^ (w + 1) = 0 ↔ a % 2 = 0 ∧ a / 2 % 2 ^ w = 0 := by
  rw [Nat.pow_succ', Nat.mod_mul]
  omega

theorem ctz_zero {w a : Nat} (h : a % 2 ^ w = 0) : Alu.ctz w a = w := by
  induction w generalizing a with
  | zero => rfl
  | succ w ih =>
    obtain ⟨h0, h1⟩ := mod_two_pow_succ_eq_zero.mp h
    rw [Alu.ctz, if_neg (by omega), ih h1, Nat.add_comm]

theorem ctz_low_bit {w a : Nat} (h : a % 2 ^ w ≠ 0) :
    a.testBit (Alu.ctz w a) = true ∧ ∀ j, j < Alu.ctz w a → a.testBit j = false := by
  induction w generalizing a with
  | zero => exact absurd (Nat.mod_one a) h
  | succ w ih =>
    by_cases hodd : a % 2 = 1
    · rw [Alu.ctz, if_pos hodd]
      exact ⟨by rw [Nat.testBit_zero, hodd]; rfl, fun j hj => absurd hj (Nat.not_lt_zero j)⟩
    · rw [Alu.ctz, if_neg hodd, Nat.add_comm]
      obtain ⟨hbit, hlow⟩ := ih fun e => h (mod_two_pow_succ_eq_zero.mpr ⟨by omega, e⟩)
      refine ⟨(Nat.testBit_add_one ..).trans hbit, fun j hj => ?_⟩
      cases j with
      | zero => rw [Nat.testBit_zero, decide_eq_false hodd]
      | succ j => exact (Nat.testBit_add_one ..).trans (hlow j (by omega))

theorem brev_lt (w a : Nat) : Alu.brev w a < 2 ^ w := by
  induction w generalizing a with
  | zero => exact Nat.one_pos
  | succ w ih =>
    have := ih (a / 2)
    have : a % 2 * 2 ^ w ≤ 1 * 2 ^ w := Nat.mul_le_mul_right _ (by omega)
    rw [Alu.brev]
    omega

theorem brev_testBit {w k : Nat} (a : Nat) (hk : k < w) : (Alu.brev w a).testBit k = a.testBit (w - 1 - k) := by
  induction w generalizing a with
  | zero => omega
  | succ w ih =>
    rw [Alu.brev, Nat.mul_comm, Nat.testBit_two_pow_mul_add _ (brev_lt w _)]
    by_cases h : k < w
    · rw [if_pos h, ih _ h, ← Nat.testBit_add_one]
      congr 1
      omega
    · have e : k = w := by omega
      subst e
      rw [if_neg h, Nat.sub_self, Nat.add_sub_cancel, Nat.sub_self, Nat.testBit_zero, Nat.testBit_zero, Nat.mod_mod]

theorem tlut_testBit {w k : Nat} (a b c t : Nat) (hk : k < w) : (Alu.tlut w a b c t).testBit k =
    t.testBit ((a.testBit k).toNat + 2 * (b.testBit k).toNat + 4 * (c.testBit k).toNat) := by
  induction w generalizing a b c k with
  | zero => omega
  | succ w ih =>
    have hbit (n : Nat) : (n.testBit 0).toNat = n % 2 := by
      rw [Nat.testBit_zero]
      rcases Nat.mod_two_eq_zero_or_one n with h | h <;> simp [h]
    rw [Alu.tlut]
    cases k with
    | zero =>
      rw [hbit, hbit, hbit, Nat.testBit_zero, Nat.testBit_eq_decide_div_mod_eq, Nat.add_mul_mod_self_left, Nat.mod_mod]
    | succ k =>
      rw [Nat.testBit_add_one, Nat.testBit_add_one, Nat.testBit_add_one, Nat.testBit_add_one, ← ih _ _ _ (by omega)]
      congr 1
      omega

theorem fieldLen_eq_zero {w pos len : Nat} (h : w ≤ pos ∨ len = 0) : Alu.fieldLen w pos len = 0 := by
  unfold Alu.fieldLen
  split <;> omega

theorem fieldLen_inside {w pos len : Nat} (h : pos < w) : Alu.fieldLen w pos len = min len (w - pos) :=
  if_neg (by omega)

theorem bfins_testBit {w pos len k : Nat} (a c : Nat) (hp : pos < w) (hl : 0 < len) (hk : k < w) :
    (Alu.bfins w a pos len c).testBit k = if pos ≤ k ∧ k < pos + len then c.testBit (k - pos) else a.testBit k := by
  have hn : Alu.fieldLen w pos len = min len (w - pos) := fieldLen_inside hp
  generalize hf : Alu.fieldLen w pos len = n at hn
  have hform : Alu.bfins w a pos len c = 2 ^ pos * (2 ^ n * (a / 2 ^ (pos + n)) + c % 2 ^ n) + a % 2 ^ pos := by
    rw [Alu.bfins, hf, if_neg (by omega), Nat.pow_add]
    ring
  rw [hform, Nat.testBit_two_pow_mul_add _ (Nat.mod_lt _ (Nat.two_pow_pos _)),
    Nat.testBit_two_pow_mul_add _ (Nat.mod_lt _ (Nat.two_pow_pos _)), Nat.testBit_mod_two_pow, Nat.testBit_mod_two_pow,
    Nat.testBit_div_two_pow]
  by_cases h1 : k < pos
  · rw [if_pos h1, if_neg (by omega), decide_eq_true h1, Bool.true_and]
  · rw [if_neg h1]
    by_cases h2 : k - pos < n
    · rw [if_pos h2, if_pos (by omega), decide_eq_true h2, Bool.true_and]
    · rw [if_neg h2, if_neg (by omega)]
      congr 1
      omega

theorem bfext_testBit {w pos len k : Nat} (a : Nat) (hp : pos < w) (hl : 0 < len) (hk : k < w) :
    (Alu.bfext false w a pos len).testBit k = if k < len ∧ k + pos < w then a.testBit (k + pos) else false := by
  have hn : Alu.fieldLen w pos len = min len (w - pos) := fieldLen_inside hp
  generalize hf : Alu.fieldLen w pos len = n at hn
  have hform : Alu.bfext false w a pos len = a / 2 ^ pos % 2 ^ n % 2 ^ w := by
    rw [Alu.bfext, hf, if_neg (by omega)]
    rfl
  rw [hform, Nat.testBit_mod_two_pow, decide_eq_true hk, Bool.true_and, Nat.testBit_mod_two_pow, Nat.testBit_div_two_pow]
  by_cases h : k < n
  · rw [decide_eq_true h, Bool.true_and, if_pos (by omega), Nat.add_comm]
  · rw [decide_eq_false h, Bool.false_and, if_neg (by omega)]

theorem field_empty {w pos len : Nat} (a c : Nat) (h : w ≤ pos ∨ len = 0) :
    Alu.bfext false w a pos len = 0 ∧ Alu.bfext true w a pos len = 0 ∧ Alu.bfins w a pos len c = a :=
  ⟨if_pos (fieldLen_eq_zero h), if_pos (fieldLen_eq_zero h), if_pos (fieldLen_eq_zero h)⟩

/-- Settles O21: the elements are those of `intOp`, whose counts, fields and look-ups are the lemmas above. -/
theorem laneBitResults : Obligations.LaneBitResults := by
  refine ⟨?_, fun w a b c t pos len k => ⟨popCount_eq w a, clz_top_bit, fun h => ⟨clz_zero h, ctz_zero h⟩, ctz_low_bit,
    brev_testBit a, tlut_testBit a b c t, field_empty a c, bfins_testBit a c, bfext_testBit a⟩⟩
  intro s i f g w im n r m whole
  have hr {ins min e} (op : Alu.Op) (he : exec ins s = laneArith s 2 min (.r f) (intOp op))
      (ho : Alu.elem op (Alu.signedT i.ty) w = e) : r ins min e := by
    subst ho
    exact laneGives_of _ he rfl
  have hm {ins min e} (op : Alu.Op)
      (he : exec ins s = laneArith s 0x12 min (.i g) fun i as _ cs ds => intOp op i as (immLanes i) cs ds)
      (ho : Alu.elem op (Alu.signedT i.ty) w = e) : m ins min e := by
    subst ho
    exact laneGives_of _ he rfl
  exact ⟨hr .and rfl rfl, hr .or rfl rfl, hr .xor rfl rfl, hr .not rfl rfl, hr .andn rfl rfl, hr .shl rfl rfl,
    hr .shr rfl rfl, hr .sra rfl rfl, hr .rotl rfl rfl, hr .popc rfl rfl, hr .clz rfl rfl, hr .ctz rfl rfl,
    hr .brev rfl rfl, laneGives_of _ rfl rfl, laneGives_of _ rfl rfl, laneGives_of _ rfl rfl, hm .and rfl rfl,
    hm .or rfl rfl, hm .xor rfl rfl, hm .shl rfl rfl, hm .shr rfl rfl, hm .sra rfl rfl, hm .rotl rfl rfl,
    laneGives_of _ rfl rfl⟩

/-! ## Compares and float operations -/

/-- Settles O22: icmp is its relation on the values, fcmp that of the format. -/
theorem laneCompareResults : Obligations.LaneCompareResults := by
  intro s i f g w fm v im bit r m fr fi
  have hr {ins} (e : Int → Int → Bool) (cc : Nat) (he : exec ins s = laneArith s 3 cc (.r f) (icmpOp cc))
      (ho : Alu.icmp cc (Alu.signedT i.ty) w = fun a b => e (v a) (v b)) : r ins cc e :=
    laneGives_of _ he
      (congrArg (fun h => eachLane (fun a b _ _ => (bit (h a b), 0)) (i.srcA s) (i.srcB s) (i.srcC s) (i.srcD s)) ho :)
  have hm {ins} (e : Int → Int → Bool) (cc : Nat)
      (he : exec ins s = laneArith s 0x13 cc (.i g) fun i as _ cs ds => icmpOp cc i as (immLanes i) cs ds)
      (ho : Alu.icmp cc (Alu.signedT i.ty) w = fun a b => e (v a) (v b)) : m ins cc e :=
    laneGives_of _ he
      (congrArg (fun h => eachLane (fun a b _ _ => (bit (h a b), 0)) (i.srcA s) im (i.srcC s) (i.srcD s)) ho :)
  have hf {ins} (cc : Nat) (he : exec ins s = laneArith s 5 cc (.r f) (fcmpOp cc)) : fr ins cc := laneGives_of _ he rfl
  have hi {ins} (cc : Nat) (he : exec ins s = laneArith s 0x15 cc (.i g) fun i as _ cs ds => fcmpOp cc i as (immLanes i) cs ds) :
      fi ins cc := laneGives_of _ he rfl
  exact ⟨hr (· == ·) 0 rfl rfl, hr (· != ·) 1 rfl rfl, hr (decide <| · < ·) 2 rfl rfl, hr (decide <| · ≤ ·) 3 rfl rfl,
    hr (fun a b => decide (b < a)) 4 rfl rfl, hr (fun a b => decide (b ≤ a)) 5 rfl rfl,
    hm (· == ·) 0 rfl rfl, hm (· != ·) 1 rfl rfl, hm (decide <| · < ·) 2 rfl rfl, hm (decide <| · ≤ ·) 3 rfl rfl,
    hm (fun a b => decide (b < a)) 4 rfl rfl, hm (fun a b => decide (b ≤ a)) 5 rfl rfl,
    hf 0 rfl, hf 1 rfl, hf 2 rfl, hf 3 rfl, hf 4 rfl, hf 5 rfl, hf 6 rfl, hf 7 rfl,
    hi 0 rfl, hi 1 rfl, hi 2 rfl, hi 3 rfl, hi 4 rfl, hi 5 rfl, hi 6 rfl, hi 7 rfl⟩

/-- Settles O23: each float instruction is `floatOp` at the operation of its row of Table 4. -/
theorem laneFloatResults : Obligations.LaneFloatResults := by
  intro s i f g fm m im op r x n
  have hr {ins min} (e) (he : exec ins s = laneArith s 4 min (.r f) (floatOp e)) : r ins min (e fm m) :=
    laneGives_of _ he rfl
  have hx {ins min} (e : Fl.Fmt → Fl.Mode → Nat → Nat × Nat)
      (he : exec ins s = laneArith s 6 min (.r f) (floatOp fun f m a _ _ => e f m a)) :
      x ins min fun a _ _ => e fm m a := laneGives_of _ he rfl
  have hn {ins min} (e) (he : exec ins s = laneArith s 0x14 min (.i g) fun i as _ cs ds => floatOp e i as (immLanes i) cs ds) :
      n ins min (e fm m) := laneGives_of _ he rfl
  exact ⟨hr (fun f m a b _ => f.add m a b) rfl, hr (fun f m a b _ => f.sub m a b) rfl,
    hr (fun f m a b _ => f.mul m a b) rfl, hr Fl.Fmt.fma rfl, hr (fun f _ a b _ => f.minmax false a b) rfl,
    hr (fun f _ a b _ => f.minmax true a b) rfl, hr (fun f _ a b _ => f.minmaxNum false a b) rfl,
    hr (fun f _ a b _ => f.minmaxNum true a b) rfl, hr fabsE rfl, hr fnegE rfl, hr fcopysignE rfl,
    laneGives_of _ (exec_vFclass f s) rfl, hx Fl.Fmt.rcp rfl, hx Fl.Fmt.rsq rfl, hx Fl.Fmt.sqrt rfl,
    laneGives_of _ (exec_vDiv f s) rfl, hx Fl.Fmt.exp2 rfl, hx Fl.Fmt.log2 rfl, laneGives_of _ (exec_vFrint f s) rfl,
    hn (fun f m a b _ => f.add m a b) rfl, hn (fun f m a b _ => f.mul m a b) rfl,
    hn (fun f _ a b _ => f.minmax false a b) rfl, hn (fun f _ a b _ => f.minmax true a b) rfl,
    laneGives_of (fun i as bs _ ds => floatOp Fl.Fmt.fma i as bs (immLanes i) ds) rfl rfl⟩

end Sys2Proof.Machine
end

section
/-! Conversions, moves, reductions, and the traps of a lane issue (O25 to O28). -/

namespace Sys2Proof.Machine

open Sys2Proof State

theorem LaneAt.issue_min {s : State} {maj min : Nat} {b : LaneBody} {i : Issue} (h : LaneAt s maj min b i) : i.min = min :=
  congrArg Issue.min h.made

/-! ## The exact trap of a lane operation -/

/-- The sounder of an issue whose lookup has been counted (R40, R41). -/
def Issue.looked (i : Issue) (s : State) : Snd :=
  let r := if i.reusable then i.lookup s (i.memoKey s []) else .off
  { i.x with rlook := i.x.rlook + r.counts.1, rsatur := i.x.rsatur + r.counts.2 }

/-- The trap of a lane operation counts its lookup and leaves the rest of its sounder (R40, R87). -/
theorem execTrap_counts {s : State} {i : Issue} (hx : s.snd? i.ctx i.core i.slot = some i.x) (cause fpexc : Nat) :
    ∃ x', i.execTrap s cause fpexc = takeTrap (s.putSnd i.ctx i.core i.slot x') i.ctx i.core i.slot
        { cause := cause, stream := 1, fpexc := fpexc, lpc := i.lpc, slices := i.slices, block := i.blk.index, word := i.word } ∧
      x' = { i.x with rlook := x'.rlook, rsatur := x'.rsatur } := by
  refine ⟨i.looked s, ?_, rfl⟩
  rw [Issue.execTrap, State.modSnd_of _ _ hx]
  rfl

/-- An arithmetic issue whose results raise an enabled exception traps. -/
theorem finish_fpTraps {s : State} {i : Issue} {rs : List (Nat × Nat)} (hx : s.snd? i.ctx i.core i.slot = some i.x)
    (he : trapEnabled i.fpctl (unionFlags i.mask rs) = true) :
    ∃ x', i.finish s rs = takeTrap (s.putSnd i.ctx i.core i.slot x') i.ctx i.core i.slot
        { cause := 0x07, stream := 1, fpexc := unionFlags i.mask rs, lpc := i.lpc, slices := i.slices, block := i.blk.index,
          word := i.word } ∧
      x' = { i.x with rlook := x'.rlook, rsatur := x'.rsatur } := by
  rw [Issue.finish, if_pos he]
  exact execTrap_counts hx 0x07 _

theorem laneFpTraps_of {s : State} {i : Issue} {ins : Instr} {maj min : Nat} {b : LaneBody} {rs : List (Nat × Nat)}
    (op : Issue → List Nat → List Nat → List Nat → List Nat → List (Nat × Nat))
    (he : exec ins s = laneArith s maj min b op) (hr : LaneAt s maj min b i → i.results s op = rs) :
    LaneFpTraps s i ins maj min b rs := by
  intro h ht
  obtain ⟨x', hx', hsame⟩ := finish_fpTraps h.snd ht
  refine ⟨x', ?_, hsame⟩
  rw [he, laneArith, laneStep_at h, ← hx', ← hr h]
  rfl

/-! ## Conversions -/

section
variable {mode : Fl.Mode} {ts td : Nat}

theorem cvtLane_int_int (hs : tyS ts = true) (hd : tyS td = true) (a : Nat) :
    cvtLane mode ts td a = (Alu.extend td (Alu.wrap (Alu.shape td).1 (Alu.toI (Alu.signedT ts) (Alu.shape ts).1 a)), 0) := by
  simp only [cvtLane, hs, hd, if_true]

theorem cvtLane_int_float (hs : tyS ts = true) (hd : tyS td = false) (a : Nat) : cvtLane mode ts td a =
    let r := Fl.cvtIF (Alu.fmtT td) mode (Alu.toI (Alu.signedT ts) (Alu.shape ts).1 a)
    (Alu.extend td r.1, r.2) := by
  simp only [cvtLane, hs, hd, if_true, Bool.false_eq_true, if_false]

theorem cvtLane_float_float (hs : tyS ts = false) (hd : tyS td = false) (a : Nat) : cvtLane mode ts td a =
    let r := Fl.cvtFF (Alu.fmtT ts) (Alu.fmtT td) mode (a % 2 ^ (Alu.shape ts).1)
    (Alu.extend td r.1, r.2) := by
  simp only [cvtLane, hs, hd, Bool.false_eq_true, if_false]

theorem cvtLane_float_int (hs : tyS ts = false) (hd : tyS td = true) (a : Nat) : cvtLane mode ts td a =
    let q := Fl.cvtFI (Alu.fmtT ts) mode (Alu.iMin (Alu.signedT td) (Alu.shape td).1) (Alu.iMax (Alu.signedT td) (Alu.shape td).1)
      (a % 2 ^ (Alu.shape ts).1)
    (Alu.extend td (Alu.wrap (Alu.shape td).1 q.1), q.2) := by
  simp only [cvtLane, hs, hd, Bool.false_eq_true, if_false, if_true]

end

/-- The results of cvt, with its lane function as `e`. -/
theorem cvt_results {s : State} {i : Issue} {src : BitVec 8} {f : LaneR} {e : Nat → Nat × Nat}
    (he : ∀ a, cvtLane (Fl.modeOf i.rnd) src.toNat i.ty a = (Alu.extend i.ty (e a).1, (e a).2))
    (h : LaneAt s 7 src.toNat (.r f) i) :
    (i.results s fun i as bs cs ds => eachLane (fun a _ _ _ => cvtLane (Fl.modeOf i.rnd) i.min i.ty a) as bs cs ds) =
      eachLane (fun a _ _ _ => (Alu.extend i.ty (e a).1, (e a).2)) (i.srcA s) (i.srcB s) (i.srcC s) (i.srcD s) := by
  unfold Issue.results
  simp only [h.issue_min, he]

theorem cvt_gives {s : State} {i : Issue} {src : BitVec 8} {f : LaneR} {e : Nat → Nat × Nat}
    (he : ∀ a, cvtLane (Fl.modeOf i.rnd) src.toNat i.ty a = (Alu.extend i.ty (e a).1, (e a).2)) :
    LaneGives s i (.vCvt src f) 7 src.toNat (.r f)
      (eachLane (fun a _ _ _ => (Alu.extend i.ty (e a).1, (e a).2)) (i.srcA s) (i.srcB s) (i.srcC s) (i.srcD s)) :=
  fun h r => laneGives_of _ (exec_vCvt src f s) (cvt_results he h) h r

theorem cvt_fpTraps {s : State} {i : Issue} {src : BitVec 8} {f : LaneR} {e : Nat → Nat × Nat}
    (he : ∀ a, cvtLane (Fl.modeOf i.rnd) src.toNat i.ty a = (Alu.extend i.ty (e a).1, (e a).2)) :
    LaneFpTraps s i (.vCvt src f) 7 src.toNat (.r f)
      (eachLane (fun a _ _ _ => (Alu.extend i.ty (e a).1, (e a).2)) (i.srcA s) (i.srcB s) (i.srcC s) (i.srcD s)) :=
  laneFpTraps_of _ (exec_vCvt src f s) (cvt_results he)

section
variable {s : State} {min : Nat} {f : LaneR} {i : Issue} (h : LaneAt s 8 min (.r f) i)
  (op : Issue → Nat → List Nat → List Nat → List (Nat × Nat))
include h

theorem laneQuant_valid (hv : Nr.ctlValid ((i.srcC s).getD 0 0) (min != 1) = true) :
    laneQuant min f s op = .next (i.finish s (op i ((i.srcC s).getD 0 0) (i.srcA s) (i.srcB s))) :=
  (laneStep_at h _).trans (congrArg _ (if_pos hv))

theorem laneQuant_invalid {ins : Instr} (he : exec ins s = laneQuant min f s op)
    (hv : Nr.ctlValid ((i.srcC s).getD 0 0) (min != 1) = false) :
    ∃ x', exec ins s = .next (takeTrap (s.putSnd i.ctx i.core i.slot x') i.ctx i.core i.slot
        { cause := 0x08, stream := 1, lpc := i.lpc, slices := i.slices, block := i.blk.index, word := i.word }) ∧
      x' = { i.x with rlook := x'.rlook, rsatur := x'.rsatur } := by
  obtain ⟨x', hx', hsame⟩ := execTrap_counts h.snd 0x08 0
  exact ⟨x', (he.trans (laneStep_at h _)).trans (congrArg _ ((if_neg (Bool.eq_false_iff.mp hv)).trans hx')), hsame⟩

end

theorem laneQuant_fpTraps {s : State} {min : Nat} {f : LaneR} {i : Issue} {ins : Instr}
    (op : Issue → Nat → List Nat → List Nat → List (Nat × Nat)) (he : exec ins s = laneQuant min f s op)
    (hv : Nr.ctlValid ((i.srcC s).getD 0 0) (min != 1) = true) :
    LaneFpTraps s i ins 8 min (.r f) (op i ((i.srcC s).getD 0 0) (i.srcA s) (i.srcB s)) := by
  intro h ht
  obtain ⟨x', hx', hsame⟩ := finish_fpTraps h.snd ht
  exact ⟨x', (he.trans (laneQuant_valid h op hv)).trans (congrArg _ hx'), hsame⟩

theorem qscale_results (ctl : Nat) (as bs : List Nat) :
    let es := (as ++ bs).map Fl.f32.unpack
    let x := Nr.descOf (ctl % 2 ^ 32)
    let l := Nr.blockLen (ctl / 2 ^ 32 % 4)
    let scale := fun k => ((List.range (192 / l)).map (fun k => Nr.blockScale x ((es.drop (k * l)).take l))).getD k 0
    (Nr.qscale ctl as bs).map (·, 0) = (List.range 96).map fun k => (Alu.wrap 32 (scale k), 0) := by
  intro es x l scale
  rw [Nr.qscale, List.map_map]
  rfl

theorem qscale_commits {s : State} {f : LaneR} {i : Issue} {rs : List (Nat × Nat)} (h : LaneAt s 8 2 (.r f) i)
    (hv : Nr.ctlValid ((i.srcC s).getD 0 0) true = true)
    (hrs : (Nr.qscale ((i.srcC s).getD 0 0) (i.srcA s) (i.srcB s)).map (·, 0) = rs) (hr : i.Ready s rs) :
    exec (.vQscale f) s = .next (i.commit s rs) := by
  subst hrs
  rw [exec_vQscale, execVQscale, laneQuant_valid h _ hv]
  exact congrArg _ (finish_ready hr)

/-- Settles O25: cvt is `cvtLane`, by the kinds of its types; a quantisation checks its control, then finishes or traps. -/
theorem laneConversionResults : Obligations.LaneConversionResults := by
  refine ⟨?_, ?_⟩
  · intro s i src f ts td ws wd m gives
    exact ⟨fun hs hd => cvt_gives (cvtLane_int_int hs hd), fun hs hd => cvt_gives (cvtLane_int_float hs hd),
      fun hs hd => cvt_gives (cvtLane_float_float hs hd), fun hs hd => cvt_gives (cvtLane_float_int hs hd)⟩
  · intro s i f ctl m es x l scale traps
    refine ⟨fun h hv hr => ?_, fun h hv hr => ?_, ?_, fun h hv => ?_, fun h hv => ?_, fun h hv => ?_⟩
    · rw [exec_vQnt, execVQnt, laneQuant_valid h _ hv]
      exact congrArg _ (finish_ready hr)
    · rw [exec_vDqnt, execVDqnt, laneQuant_valid h _ hv]
      exact congrArg _ (finish_ready hr)
    · intro h hv rs hr
      exact qscale_commits h hv (qscale_results ..) hr
    · exact laneQuant_invalid h _ (exec_vQnt f s) hv
    · exact laneQuant_invalid h _ (exec_vDqnt f s) hv
    · exact laneQuant_invalid h _ (exec_vQscale f s) hv

/-! ## Predicates, moves and reductions -/

theorem source_length (i : Issue) (s : State) (kind : SrcKind) (v : Nat) : (i.source s kind v).length = 96 := by
  unfold Issue.source
  split
  case h_1 => simp
  case h_2 => simp
  all_goals split <;> simp

/-- Settles O26: each instruction is its lane function over the lanes of its sources. -/
theorem lanePredicateAndMoveResults : Obligations.LanePredicateAndMoveResults := by
  refine ⟨?_, ?_⟩
  · intro s i f bit r
    have hp {ins min} (e : Bool → Bool → Bool) (he : exec ins s = laneArith s 9 min (.r f) (predOp e)) :
        r ins min fun a b => bit (e a b) := laneGives_of _ he rfl
    exact ⟨hp (· && ·) rfl, hp (· || ·) rfl, hp (· != ·) rfl, hp (fun a b => a && !b) rfl, hp (fun a _ => !a) rfl,
      hp (fun a _ => a) rfl, hp (fun a _ => a) rfl, laneGives_of _ (exec_vPvec f s) rfl, laneGives_of _ (exec_vPfirst f s) rfl⟩
  · intro s i f g a b c all take
    exact ⟨source_length .., laneGives_of _ (exec_vMov f s) rfl, laneGives_of _ (exec_vSel f s) rfl,
      laneGives_of _ (exec_vMovI g s) rfl, laneGives_of _ (exec_vSelI g s) rfl, laneGives_of _ (exec_vLidx f s) rfl,
      laneGives_of _ (exec_vLxor f s) rfl, laneGives_of _ (exec_vLrot f s) rfl, laneGives_of _ (exec_vBcast f s) rfl,
      laneGives_of _ (exec_vLidxI g s) rfl, laneGives_of _ (exec_vLxorI g s) rfl, laneGives_of _ (exec_vLrotI g s) rfl,
      laneGives_of _ (exec_vBcastI g s) rfl⟩

section
variable {i : Issue}

theorem raddE_int (h : tyF i.ty = false) : raddE i = fun a b => ((a + b) % 2 ^ (Alu.shape i.ty).1, 0) :=
  funext fun _ => funext fun _ => if_neg (Bool.eq_false_iff.mp h)

theorem raddE_float (h : tyF i.ty = true) : raddE i = fun a b => (Alu.fmtT i.ty).add (Fl.modeOf i.rnd) a b :=
  funext fun _ => funext fun _ => if_pos h

theorem rminmaxE_int (isMax : Bool) (h : tyF i.ty = false) : rminmaxE isMax i =
    fun a b => ((if isMax then Alu.maxI else Alu.minI) (Alu.signedT i.ty) (Alu.shape i.ty).1 a b, 0) :=
  funext fun _ => funext fun _ => if_neg (Bool.eq_false_iff.mp h)

theorem rminmaxE_float (isMax : Bool) (h : tyF i.ty = true) : rminmaxE isMax i = fun a b => (Alu.fmtT i.ty).minmax isMax a b :=
  funext fun _ => funext fun _ => if_pos h

theorem rminmaxIdentity_int (isMax : Bool) (h : tyF i.ty = false) : rminmaxIdentity isMax i =
    Alu.wrap (Alu.shape i.ty).1 (if isMax then Alu.iMin (Alu.signedT i.ty) (Alu.shape i.ty).1
      else Alu.iMax (Alu.signedT i.ty) (Alu.shape i.ty).1) := if_neg (Bool.eq_false_iff.mp h)

theorem rminmaxIdentity_float (isMax : Bool) (h : tyF i.ty = true) :
    rminmaxIdentity isMax i = (Alu.fmtT i.ty).withSign isMax (Alu.fmtT i.ty).infCode := if_pos h

/-- The results of a reduction depend on its comb and its identity only. -/
theorem reduce_results {s : State} {comb comb' : Nat → Nat → Nat × Nat} {id id' : Nat} (hc : comb = comb') (hi : id = id') :
    reduceOp comb id i (i.srcA s) (i.srcB s) (i.srcC s) (i.srcD s) =
      reduceOp comb' id' i (i.srcA s) (i.srcB s) (i.srcC s) (i.srcD s) := by
  rw [hc, hi]

end

/-- Settles O27: each reduction is `reduceOp` at its comb and its identity. -/
theorem laneReductionResults : Obligations.LaneReductionResults := by
  intro s i f w sg fm e8 r
  exact ⟨fun h => laneGives_of _ (exec_vRadd f s) (reduce_results (raddE_int h) rfl),
    fun h => laneGives_of _ (exec_vRadd f s) (reduce_results (raddE_float h) rfl),
    fun h => laneGives_of _ (exec_vRmin f s) (reduce_results (rminmaxE_int false h) (rminmaxIdentity_int false h)),
    fun h => laneGives_of _ (exec_vRmin f s) (reduce_results (rminmaxE_float false h) (rminmaxIdentity_float false h)),
    fun h => laneGives_of _ (exec_vRmax f s) (reduce_results (rminmaxE_int true h) (rminmaxIdentity_int true h)),
    fun h => laneGives_of _ (exec_vRmax f s) (reduce_results (rminmaxE_float true h) (rminmaxIdentity_float true h)),
    laneGives_of _ (exec_vRand f s) rfl, laneGives_of _ (exec_vRor f s) rfl, laneGives_of _ (exec_vRxor f s) rfl,
    laneGives_of _ (exec_vDp4 f s) rfl, laneGives_of _ (exec_vDp2 f s) rfl⟩

/-! ## The checks of a lane issue -/

/-- Every lane word is issued by `laneStep` at its major, minor and body. -/
theorem exec_of_laneHead {ins : Instr} {maj min : Nat} {b : LaneBody} (h : laneHead ins = some (maj, min, b)) (s : State) :
    ∃ eff, exec ins s = laneStep s maj min b eff := by
  delta exec
  cases ins
  all_goals cases h <;> exact ⟨_, rfl⟩

section
variable {s : State} {i : Issue} (eff : Issue → State → State)

theorem laneIssue_illegal {c : Nat} (h : laneIllegal (BitVec.ofNat 96 i.word) i.x.n (bits i.fpctl 10 8) = some c) :
    laneIssue s i eff = .next (i.trap s 0x01 (ill := c)) := by
  rw [laneIssue, h]

variable (h : laneIllegal (BitVec.ofNat 96 i.word) i.x.n (bits i.fpctl 10 8) = none)
include h

theorem laneIssue_refused (hn : i.notMine s = true) : laneIssue s i eff = .next (i.trap s 0x03 (words := i.words)) := by
  rw [laneIssue, h]
  exact if_pos hn

theorem laneIssue_empty_traps {k n : Nat} (hn : i.notMine s = false)
    (he : i.emptyNow.find? (fun e => e.2.2) = some (k, n, true)) :
    laneIssue s i eff = .next (i.trap s 0x04 (src := k) (info := n) (words := i.words)) := by
  rw [laneIssue, h]
  refine (if_neg (Bool.eq_false_iff.mp hn)).trans ?_
  rw [he]

theorem laneIssue_empty_waits (hn : i.notMine s = false) (he : i.emptyNow ≠ [])
    (hw : i.emptyNow.find? (fun e => e.2.2) = none) : laneIssue s i eff = .next s := by
  rw [laneIssue, h]
  refine (if_neg (Bool.eq_false_iff.mp hn)).trans ?_
  rw [hw]
  exact if_pos (by simpa using he)

end

/-- An engine instruction with lanes that is not held waits for all its operands (R34, R181, R402). -/
theorem emptyNow_eq_empties {i : Issue} (h : i.isEngine = true → i.mask ≠ 0 ∧ i.passed = none) : i.emptyNow = i.empties := by
  refine if_neg fun hc => ?_
  rw [Bool.and_eq_true, Bool.or_eq_true, beq_iff_eq] at hc
  obtain ⟨hmask, hpassed⟩ := h hc.1
  rw [hpassed] at hc
  exact hc.2.elim hmask nofun

theorem notMine_iff {s : State} {i : Issue} :
    i.notMine s = true ↔ i.isEngine = true ∧ i.emptyNow ≠ [] ∧ (∀ e ∈ i.emptyNow, e.1 ≠ 0) ∧ i.granted s = false := by
  simp [Issue.notMine, and_assoc]

/-- The part of O28 about the checks: every lane word makes those of `laneIssue`. -/
theorem laneHead_checks {s : State} {i : Issue} {maj min : Nat} {ins : Instr} {b : LaneBody}
    (hh : laneHead ins = some (maj, min, b)) (hc : s.cur = .lane i.ctx i.core i.slot i.slices)
    (hx : s.snd? i.ctx i.core i.slot = some i.x) (hb : i.x.runningBlock = some i.blk)
    (hm : i = Issue.of s i.ctx i.core i.slot i.slices i.x i.blk maj min b) : ∃ eff, exec ins s = laneIssue s i eff := by
  obtain ⟨eff, he⟩ := exec_of_laneHead hh s
  refine ⟨eff, ?_⟩
  rw [he, laneStep_party hc hx hb]
  exact congrArg (laneIssue s · eff) hm.symm

/-- Settles O28: every lane word is issued by `laneIssue`, whose checks come in order; every operation that can raise a flag
ends in `Issue.finish`, whose first check is that of an enabled exception. -/
theorem laneIssueTraps : Obligations.LaneIssueTraps := by
  refine ⟨?_, ?_⟩
  · intro s i maj min ins b hh hc hx hb hm ill engine words
    obtain ⟨eff, he⟩ := laneHead_checks hh hc hx hb hm
    have hmaj : i.maj = maj := congrArg Issue.maj hm
    have hmin : i.min = min := congrArg Issue.min hm
    have hword : i.word = maj * 2 ^ 88 + min * 2 ^ 80 + b.nat := congrArg Issue.word hm
    have hwords : words = i.words := by
      unfold Issue.words
      rw [hmaj, hmin]
    have hengine : i.isEngine = true ↔ engine := by
      unfold Issue.isEngine
      rw [hmaj, Bool.and_eq_true, decide_eq_true_iff, decide_eq_true_iff]
    have hill : ill = laneIllegal (BitVec.ofNat 96 i.word) i.x.n (bits i.fpctl 10 8) := by rw [hword]
    refine ⟨fun c h => he.trans (laneIssue_illegal eff (hill ▸ h)), fun h hwait => ?_⟩
    replace h := hill.symm.trans h
    have hempty : i.emptyNow = i.empties := emptyNow_eq_empties fun e => hwait (hengine.mp e)
    intro refused
    have hrefused : i.notMine s = true ↔ refused := by rw [notMine_iff, hengine, hempty]
    rw [hwords, he]
    refine ⟨fun hr => laneIssue_refused eff h (hrefused.mpr hr), fun hr => ⟨fun k n hf => ?_, fun hne hf => ?_⟩⟩
    · exact laneIssue_empty_traps eff h (Bool.eq_false_iff.mpr fun e => hr (hrefused.mp e)) (hempty ▸ hf)
    · exact laneIssue_empty_waits eff h (Bool.eq_false_iff.mpr fun e => hr (hrefused.mp e)) (hempty ▸ hne) (hempty ▸ hf)
  · intro s i f g src fm m im ts ws wd bit each r n rel cmp cvt red
    have hr {ins maj min} (e) (he : exec ins s = laneArith s maj min (.r f) (floatOp e)) : r ins maj min (e fm m) :=
      laneFpTraps_of _ he fun _ => rfl
    have hn {ins min} (e)
        (he : exec ins s = laneArith s 0x14 min (.i g) fun i as _ cs ds => floatOp e i as (immLanes i) cs ds) :
        n ins min (e fm m) := laneFpTraps_of _ he fun _ => rfl
    have hcmp {ins imm} (cc : Nat) (he : exec ins s = laneArith s 5 cc (.r f) (fcmpOp cc))
        (hi : exec imm s = laneArith s 0x15 cc (.i g) fun i as _ cs ds => fcmpOp cc i as (immLanes i) cs ds) : cmp ins imm cc :=
      ⟨laneFpTraps_of _ he fun _ => rfl, laneFpTraps_of _ hi fun _ => rfl⟩
    exact ⟨hr (fun f m a b _ => f.add m a b) (exec_vFadd f s), hr (fun f m a b _ => f.sub m a b) (exec_vFsub f s),
      hr (fun f m a b _ => f.mul m a b) (exec_vFmul f s), hr Fl.Fmt.fma (exec_vFfma f s),
      hr (fun f _ a b _ => f.minmax false a b) (exec_vFmin f s), hr (fun f _ a b _ => f.minmax true a b) (exec_vFmax f s),
      hr (fun f _ a b _ => f.minmaxNum false a b) (exec_vFminnum f s),
      hr (fun f _ a b _ => f.minmaxNum true a b) (exec_vFmaxnum f s),
      hr (fun f m a _ _ => f.rcp m a) (exec_vRcp f s), hr (fun f m a _ _ => f.rsq m a) (exec_vRsq f s),
      hr (fun f m a _ _ => f.sqrt m a) (exec_vSqrt f s), hr (fun f m a b _ => f.div m a b) (exec_vDiv f s),
      hr (fun f m a _ _ => f.exp2 m a) (exec_vExp2 f s), hr (fun f m a _ _ => f.log2 m a) (exec_vLog2 f s),
      hr (fun f m a _ _ => f.frint m a) (exec_vFrint f s),
      hn (fun f m a b _ => f.add m a b) (exec_vFaddI g s), hn (fun f m a b _ => f.mul m a b) (exec_vFmulI g s),
      hn (fun f _ a b _ => f.minmax false a b) (exec_vFminI g s), hn (fun f _ a b _ => f.minmax true a b) (exec_vFmaxI g s),
      laneFpTraps_of _ (exec_vFfmaI g s) fun _ => rfl,
      hcmp 0 (exec_vFcmpEq f s) (exec_vFcmpEqI g s), hcmp 1 (exec_vFcmpNe f s) (exec_vFcmpNeI g s),
      hcmp 2 (exec_vFcmpLt f s) (exec_vFcmpLtI g s), hcmp 3 (exec_vFcmpLe f s) (exec_vFcmpLeI g s),
      hcmp 4 (exec_vFcmpGt f s) (exec_vFcmpGtI g s), hcmp 5 (exec_vFcmpGe f s) (exec_vFcmpGeI g s),
      hcmp 6 (exec_vFcmpUn f s) (exec_vFcmpUnI g s), hcmp 7 (exec_vFcmpOrd f s) (exec_vFcmpOrdI g s),
      fun hs hd => cvt_fpTraps (cvtLane_int_float hs hd), fun hs hd => cvt_fpTraps (cvtLane_float_float hs hd),
      fun hs hd => cvt_fpTraps (cvtLane_float_int hs hd),
      laneQuant_fpTraps (fun i ctl as bs => Nr.qnt ctl (Fl.modeOf i.rnd) as bs) (exec_vQnt f s),
      laneQuant_fpTraps (fun i ctl as bs => Nr.dqnt ctl (Fl.modeOf i.rnd) as bs) (exec_vDqnt f s),
      fun h => ⟨laneFpTraps_of _ (exec_vRadd f s) fun _ => reduce_results (raddE_float h) rfl,
        laneFpTraps_of _ (exec_vRmin f s) fun _ => reduce_results (rminmaxE_float false h) (rminmaxIdentity_float false h),
        laneFpTraps_of _ (exec_vRmax f s) fun _ => reduce_results (rminmaxE_float true h) (rminmaxIdentity_float true h)⟩,
      laneFpTraps_of _ (exec_vDp2 f s) fun _ => rfl⟩

end Sys2Proof.Machine
end

section
/-! Lane memory: the log entry an access takes, the checks of its probe, and its fences (O29 to O31). -/

namespace Sys2Proof.Machine

open Sys2Proof State

theorem LaneAt.issue_maj {s : State} {maj min : Nat} {b : LaneBody} {i : Issue} (h : LaneAt s maj min b i) : i.maj = maj :=
  congrArg Issue.maj h.made

theorem leBytes_eq_map (n v : Nat) : leBytes n v = (List.range n).map fun j => BitVec.ofNat 8 (v / 2 ^ (8 * j)) := by
  induction n generalizing v with
  | zero => rfl
  | succ n ih =>
    rw [List.range_succ_eq_map, List.map_cons, List.map_map, leBytes, ih]
    refine congrArg₂ _ (by simp) (List.map_congr_left fun j _ => congrArg _ ?_)
    rw [Nat.div_div_eq_div_mul, Nat.mul_succ, Nat.pow_add, Nat.mul_comm]

/-! ## The entry that an access takes -/

/-- A memory instruction that passes its probe takes the entry of what it asks, with its data. -/
theorem laneLogs_of {s : State} {i : Issue} {ins : Instr} {maj min : Nat} {f : LaneI} {q : Ask} {k : Nat}
    {data new : Nat → Nat} {row : List Byte} (he : exec ins s = laneMemory s maj min f)
    (hq : i.maj = maj → i.min = min → i.ask = q ∧ i.dataOf s = data ∧ i.newOf s = new ∧ i.rowOf s = row) :
    LaneLogs s i ins maj min f q k data new row := by
  intro h hp hf
  obtain ⟨hask, hdata, hnew, hrow⟩ := hq h.issue_maj h.issue_min
  obtain ⟨t, y, e, fills, ht, hse, hy, hent, hempty, hframe⟩ := i.access_logs s q data new row k h.snd hp hf
  refine ⟨t, y, e, ?_, hy, ?_⟩
  · rw [he, laneMemory, laneStep_at h, hask, hdata, hnew, hrow, ht]
  have hslices : y.slices = i.x.slices.mapV (fun k sl => if sliceBit i.slices k then { sl with pc := sl.pc + 1 } else sl) :=
    (congrArg Snd.slices hframe :)
  have hlog : y.oplog = i.x.oplog.put k e := (congrArg Snd.oplog hframe :)
  refine ⟨?_, ?_, ?_, ?_, ?_, ?_, ?_, ?_, fun m hm => ?_, ?_, hempty, ?_, ?_, ?_, ?_, ?_, ?_, fun j sl hj => ?_, fun m => ?_⟩
  · rw [hlog]
    exact Tbl.find_put_self ..
  · rw [hent]
    rfl
  · rw [hent]
    rfl
  · rw [hent]
    rfl
  · rw [hent]
    rfl
  · rw [hent]
    exact h.issue_min
  · rw [hent]
    rfl
  · rw [hent]
    unfold Issue.entryOf
    dsimp only
    split
    case h_1 hk _ => exact .inr ⟨hk, rfl⟩
    case h_2 => exact .inl rfl
  · rw [hlog]
    exact Tbl.find_put_ne _ _ hm
  · exact (congrArg Snd.seq hframe :)
  · exact (congrArg Snd.v hframe :)
  · exact (congrArg Snd.q hframe :)
  · exact (congrArg Snd.s hframe :)
  · exact (congrArg Snd.c hframe :)
  · exact (congrArg Snd.pc hframe :)
  · exact (congrArg Snd.fpstat hframe :)
  · rw [hslices, Tbl.find_mapV, hj]
    rfl
  · unfold State.readPA
    rw [hse.mem]

section
variable {i : Issue}

theorem logKind_load (hm : i.maj = 0x20 ∨ i.maj = 0x21) (h : i.min = 0) : i.logKind = .load := by
  unfold Issue.logKind
  rw [if_neg (by omega), if_neg (by omega), if_pos h]

theorem logKind_store (hm : i.maj = 0x20 ∨ i.maj = 0x21) (h : i.min = 1) : i.logKind = .store := by
  unfold Issue.logKind
  rw [if_neg (by omega), if_neg (by omega), if_neg (by omega)]

theorem logKind_atomic (hm : i.maj = 0x22) : i.logKind = .atomic := if_pos hm

theorem logKind_append (hm : i.maj = 0x23) : i.logKind = .append := by
  unfold Issue.logKind
  rw [if_neg (by omega), if_pos hm]

theorem ask_of_logKind {k : LogKind} (h : i.logKind = k) : i.ask =
    { kind := k, size := if k = .append then 32 else tySize i.ty, rd := k == .load || k == .atomic, wr := k != .load,
      scope := if k = .atomic then some (i.min / 16) else none, gst := k == .store && i.maj == 0x21 } := by
  subst h
  rfl

variable {s : State}

theorem dataOf_none (h : i.logKind = .load ∨ i.logKind = .append) : i.dataOf s = fun _ => 0 := if_pos h

theorem dataOf_low (h : i.logKind = .store ∨ i.logKind = .atomic) :
    i.dataOf s = fun l => (i.srcB s).getD l 0 % 2 ^ (8 * tySize i.ty) :=
  if_neg (by rcases h with h | h <;> rw [h] <;> exact nofun)

theorem newOf_none (h : i.logKind = .atomic → i.min % 16 ≠ 7) : i.newOf s = fun _ => 0 := if_neg fun ⟨a, b⟩ => h a b

/-- The new value of an acas whose second operand is a name, or a pair (R172). -/
theorem newOf_name (h : i.logKind = .atomic) (h7 : i.min % 16 = 7) (hb : i.fb < 640) (ht : ty64 i.ty = false) :
    i.newOf s = fun l => (i.srcB s).getD l 0 / 2 ^ 32 % 2 ^ 32 := by
  unfold Issue.newOf
  rw [if_pos ⟨h, h7⟩, if_neg (Nat.not_le.mpr hb), ht]
  exact funext fun l => congrArg (· % 2 ^ 32) (Issue.getD_map_zero _ (· / 2 ^ 32) rfl l)

theorem newOf_pair (h : i.logKind = .atomic) (h7 : i.min % 16 = 7) (hb : i.fb < 640) (ht : ty64 i.ty = true) :
    i.newOf s = fun l => (i.source s .v64 (i.fb + 2)).getD l 0 % 2 ^ 64 := by
  unfold Issue.newOf
  rw [if_pos ⟨h, h7⟩, if_neg (Nat.not_le.mpr hb), ht]
  rfl

theorem rowOf_none (h : i.logKind ≠ .append) : i.rowOf s = [] := if_neg h

theorem rowOf_append (h : i.logKind = .append) : i.rowOf s =
    (List.range (i.imm % 128 + 1)).flatMap fun l => (List.range 4).map fun j => BitVec.ofNat 8 ((i.srcB s).getD l 0 / 2 ^ (8 * j)) := by
  unfold Issue.rowOf
  rw [if_pos h]
  exact congrArg (List.flatMap · _) (funext fun l => leBytes_eq_map ..)

end

/-- An atomic takes its entry with its new values, whatever they are. -/
theorem atomic_logs {s : State} {i : Issue} {ins : Instr} {sc : BitVec 2} {op k : Nat} {f : LaneI} {new : Nat → Nat}
    (he : exec ins s = laneMemory s 0x22 (sc.toNat * 16 + op) f)
    (hn : i.logKind = .atomic → i.min = sc.toNat * 16 + op → i.newOf s = new) :
    LaneLogs s i ins 0x22 (sc.toNat * 16 + op) f
      { kind := .atomic, size := tySize i.ty, rd := true, wr := true, scope := some (i.min / 16), gst := false } k
      (fun l => (i.srcB s).getD l 0 % 2 ^ (8 * tySize i.ty)) new [] :=
  laneLogs_of he fun hm hmin =>
    have hk := logKind_atomic hm
    ⟨ask_of_logKind hk, dataOf_low (.inr hk), hn hk hmin, rowOf_none (by rw [hk]; exact nofun)⟩

/-- Settles O29: each access is `laneMemory`, whose issue takes the entry of what it asks. -/
theorem laneAccessesTakeLogEntry : Obligations.LaneAccessesTakeLogEntry := by
  intro s i f k sc n b none_ load store atom row a
  have hload {ins maj} (hm : maj = 0x20 ∨ maj = 0x21) (he : exec ins s = laneMemory s maj 0 f) :
      LaneLogs s i ins maj 0 f load k none_ none_ [] :=
    laneLogs_of he fun hmaj hmin =>
      have hk := logKind_load (hmaj ▸ hm) hmin
      ⟨ask_of_logKind hk, dataOf_none (.inl hk), newOf_none (by rw [hk]; exact nofun), rowOf_none (by rw [hk]; exact nofun)⟩
  have hstore {ins maj} (hm : maj = 0x20 ∨ maj = 0x21) (he : exec ins s = laneMemory s maj 1 f) :
      LaneLogs s i ins maj 1 f (store (maj == 0x21)) k (fun l => b l % 2 ^ (8 * n)) none_ [] :=
    laneLogs_of he fun hmaj hmin =>
      have hk := logKind_store (hmaj ▸ hm) hmin
      ⟨(ask_of_logKind hk).trans (by rw [hmaj]; rfl), dataOf_low (.inl hk), newOf_none (by rw [hk]; exact nofun),
        rowOf_none (by rw [hk]; exact nofun)⟩
  have ha {ins op} (hop : op < 16 ∧ op ≠ 7) (he : exec ins s = laneMemory s 0x22 (sc.toNat * 16 + op) f) : a ins op :=
    atomic_logs he fun _ hmin => newOf_none fun _ => by omega
  refine ⟨hload (.inl rfl) rfl, hstore (.inl rfl) rfl, hload (.inr rfl) rfl, hstore (.inr rfl) rfl, ha (by decide) rfl,
    ha (by decide) rfl, ha (by decide) rfl, ha (by decide) rfl, ha (by decide) rfl, ha (by decide) rfl, ha (by decide) rfl,
    ha (by decide) rfl, fun ht hb => atomic_logs rfl fun hk hmin => newOf_name hk (by omega) hb ht,
    fun ht hb => atomic_logs rfl fun hk hmin => newOf_pair hk (by omega) hb ht, fun _ => ⟨i.newOf s, atomic_logs rfl fun _ _ => rfl⟩,
    laneLogs_of rfl fun hmaj hmin => ?_⟩
  have hk := logKind_append hmaj
  exact ⟨(ask_of_logKind hk).trans (by rw [hmaj]; rfl), dataOf_none (.inr hk), newOf_none (by rw [hk]; exact nofun), rowOf_append hk⟩

/-! ## The probe -/

/-- The issue of an access whose lowest failing lane is `l` is the exact trap of that lane (R160). -/
theorem access_fails {s : State} {i : Issue} {q : Ask} {l e : Nat} (data new : Nat → Nat) (row : List Byte) (hm : i.mask ≠ 0)
    (hb : i.accessLanes.any (fun l => i.bankBusy s ((i.srcA s).getD l 0)) = false) (hp : i.probed = none)
    (hf : i.accessLanes.find? (fun l => (i.failCheck s q ((i.srcA s).getD l 0)).isSome) = some l)
    (he : i.failCheck s q ((i.srcA s).getD l 0) = some e) : i.access s q data new row =
      i.trap s e (lane := some l) (addr := (i.lea s ((i.srcA s).getD l 0) % 2 ^ 64).toNat) := by
  unfold Issue.access
  dsimp only
  rw [if_neg hm, hb, hp, Bool.and_false, if_neg Bool.false_ne_true, if_neg (by exact nofun), hf]
  dsimp only
  rw [he]
  rfl

/-- The issue of an access that passes and finds no entry of the log free waits with the entry it would take (R162). -/
theorem access_holds {s : State} {i : Issue} {q : Ask} (data new : Nat → Nat) (row : List Byte) (hm : i.mask ≠ 0)
    (hb : i.accessLanes.any (fun l => i.bankBusy s ((i.srcA s).getD l 0)) = false) (hp : i.probed = none)
    (hf : ∀ l ∈ i.accessLanes, i.failCheck s q ((i.srcA s).getD l 0) = none)
    (hk : q.kind = .load → i.loadKey s (i.srcA s) = none) (hr : i.room s false (i.memoKey s []) = true)
    (hfree : i.x.freeEntry = none) :
    i.access s q data new row = i.hold s (i.entryOf s q (i.srcA s) data new [] row) := by
  have hfind : i.accessLanes.find? (fun l => (i.failCheck s q ((i.srcA s).getD l 0)).isSome) = none :=
    List.find?_eq_none.mpr fun l hl => by rw [hf l hl]; exact nofun
  have hkey : (if q.kind = .load then i.loadKey s (i.srcA s) else none) = none := by
    split
    case isTrue h => exact hk h
    case isFalse => rfl
  unfold Issue.access
  dsimp only
  rw [if_neg hm, hb, hp, Bool.and_false, if_neg Bool.false_ne_true, if_neg (by exact nofun), hfind]
  dsimp only
  rw [hkey]
  dsimp only [Issue.loadLookup, Option.getD_none]
  rw [if_neg (not_negated hr), hfree]

/-- In an ascending list the first element with a property is the least one with it. -/
theorem find?_eq_some_of_least {p : Nat → Bool} {l : List Nat} {a : Nat} (hs : l.Pairwise (· < ·)) (ha : a ∈ l) (hp : p a = true)
    (hlow : ∀ b ∈ l, b < a → p b = false) : l.find? p = some a := by
  induction l with
  | nil => cases ha
  | cons b l ih =>
    obtain ⟨hb, hl⟩ := List.pairwise_cons.mp hs
    rcases List.mem_cons.mp ha with rfl | ha
    · exact List.find?_cons_of_pos hp
    · rw [List.find?_cons_of_neg (by rw [hlow b (List.mem_cons_self ..) (hb a ha)]; exact nofun)]
      exact ih hl ha fun c hc => hlow c (List.mem_cons_of_mem _ hc)

theorem lanes_ascend (i : Issue) : i.lanes.Pairwise (· < ·) := List.Pairwise.filter _ (List.pairwise_lt_range)

namespace Issue

/-- A store reaches a window of aliases that does not allow it (R170, R325). -/
def aliasMisuse (i : Issue) (s : State) (q : Ask) (ea : Nat) : Bool :=
  match (match translate s i.ctx ea false false with | .ok l => some l | .fail _ => none) with
  | some (.aliasWin e _) => !i.aliasOk s q e ea
  | _ => false

/-- An atomic's scope is narrower than the place it goes to asks (R174). -/
def scopeNarrow (i : Issue) (s : State) (q : Ask) (ea : Nat) : Bool :=
  match q.scope, (match translate s i.ctx ea false false with | .ok l => some l | .fail _ => none) with
  | some sc, some (.window _ _) => sc != 2
  | some sc, some (.mem true _) => sc == 0
  | _, _ => false

/-- The checks of an address in memory from alignment on (Table 4 of 06). -/
def tailCheck (i : Issue) (s : State) (q : Ask) (a : Nat) (noWrite : Bool) : Option Nat :=
  if a % q.size ≠ 0 then some 0x11
  else if i.aliasMisuse s q a then some 0x13
  else if i.scopeNarrow s q a then some 0x1A
  else
    match translate s i.ctx a q.rd q.wr with
    | .fail _ => some 0x1B
    | .ok _ =>
      if q.wr && noWrite then some 0x18 else if q.wr && constHit s i.ctx i.x.image a q.size then some 0x14 else none

section
variable {i : Issue} {s : State} {q : Ask} {av : Nat}

theorem failCheck_flat {d : Int} (h : i.amode = .flat d) : i.failCheck s q av =
    if (av : Int) + d < 0 ∨ 2 ^ 56 ≤ (av : Int) + d then some 0x10 else i.tailCheck s q ((av : Int) + d).toNat false := by
  unfold failCheck lea
  rw [h]
  rfl

theorem failCheck_noRecord {b sc : Nat} (h : i.amode = .rec_ b sc) (hr : i.record s b = none) :
    i.failCheck s q av = some 0x15 := by
  simp only [failCheck, h, hr]

theorem failCheck_rec {b sc r : Nat} (h : i.amode = .rec_ b sc) (hr : i.record s b = some r) : i.failCheck s q av =
    if recBad r then some 0x16
    else if 2 ^ 56 ≤ recBase r + av % 2 ^ 32 * 2 ^ sc then some 0x10
    else if recLimit r < av % 2 ^ 32 * 2 ^ sc + q.size then some 0x17
    else i.tailCheck s q (recBase r + av % 2 ^ 32 * 2 ^ sc) (recNoWrite r) := by
  simp only [failCheck, lea, h, hr, Option.getD_some]
  refine if_congr Iff.rfl rfl (if_congr ?_ rfl rfl)
  exact ⟨fun h => h.elim (fun a => absurd a (Int.not_lt.mpr (Int.natCast_nonneg _))) Int.ofNat_le.mp, fun a => .inr (Int.ofNat_le.mpr a)⟩

theorem failCheck_sp {d : Nat} (h : i.amode = .sp d) : i.failCheck s q av =
    if (av % 2 ^ 32 + d) % q.size ≠ 0 then some 0x11
    else if spMapped s i.ctx i.core (av % 2 ^ 32 + d) then none else some 0x19 := by
  unfold failCheck lea
  rw [h]
  rfl

theorem aliasOk_iff {en ea : Nat} : i.aliasOk s q en ea = true ↔ ∃ e w, s.entry? i.ctx en = some e ∧ e.win = some w ∧
    q.gst = true ∧ q.size = w.size ∧ w.base ≤ ea ∧ ea < w.base + 2 * w.half ∧ (ea - w.base) % w.half < e.length ∧
    membersOf s i.ctx i.core i.slot e ≠ [] ∧ (w.kind = 0 → w.root ∈ membersOf s i.ctx i.core i.slot e) := by
  unfold aliasOk
  cases s.entry? i.ctx en with
  | none => exact ⟨nofun, fun ⟨_, _, h, _⟩ => nomatch h⟩
  | some e =>
    dsimp only
    cases hw : e.win with
    | none => exact ⟨nofun, fun ⟨e', w, he, hw', _⟩ => by cases he; cases hw.symm.trans hw'⟩
    | some w =>
      have hsome (P : CollEntry → AliasWin → Prop) :
          (∃ e' w', some e = some e' ∧ e'.win = some w' ∧ P e' w') ↔ P e w :=
        ⟨fun ⟨e', w', he, hw', hp⟩ => by cases he; cases hw.symm.trans hw'; exact hp, fun hp => ⟨e, w, rfl, hw, hp⟩⟩
      rw [hsome fun e w => q.gst = true ∧ q.size = w.size ∧ w.base ≤ ea ∧ ea < w.base + 2 * w.half ∧
        (ea - w.base) % w.half < e.length ∧ membersOf s i.ctx i.core i.slot e ≠ [] ∧
        (w.kind = 0 → w.root ∈ membersOf s i.ctx i.core i.slot e)]
      simp [and_assoc, imp_iff_not_or]

theorem aliasMisuse_iff {ea : Nat} : i.aliasMisuse s q ea = true ↔
    ∃ en va, translate s i.ctx ea false false = .ok (.aliasWin en va) ∧ ¬ i.aliasOk s q en ea = true := by
  unfold aliasMisuse
  cases translate s i.ctx ea false false with
  | fail d => exact ⟨nofun, fun ⟨_, _, h, _⟩ => nomatch h⟩
  | ok loc =>
    cases loc
    case aliasWin en va => simp
    all_goals exact ⟨nofun, fun ⟨_, _, h, _⟩ => nomatch h⟩

theorem scopeNarrow_iff {ea : Nat} : i.scopeNarrow s q ea = true ↔ ∃ sc, q.scope = some sc ∧
    ((∃ p w, translate s i.ctx ea false false = .ok (.window p w)) ∧ sc ≠ 2 ∨
      (∃ pa, translate s i.ctx ea false false = .ok (.mem true pa)) ∧ sc = 0) := by
  unfold scopeNarrow
  cases q.scope with
  | none => exact ⟨nofun, fun ⟨_, h, _⟩ => nomatch h⟩
  | some sc =>
    cases translate s i.ctx ea false false with
    | fail d => simp
    | ok loc =>
      cases loc
      case mem cached pa => cases cached <;> simp
      all_goals simp

/-- The checks from alignment on, in their order. -/
theorem tailCheck_rules {ea : Nat} {noWrite : Bool} {narrow misuse : Prop} (ha : i.aliasMisuse s q ea = true ↔ misuse)
    (hn : i.scopeNarrow s q ea = true ↔ narrow) :
    (ea % q.size ≠ 0 → i.tailCheck s q ea noWrite = some 0x11) ∧
    (ea % q.size = 0 →
      (misuse → i.tailCheck s q ea noWrite = some 0x13) ∧
      (¬ misuse → narrow → i.tailCheck s q ea noWrite = some 0x1A) ∧
      (¬ misuse → ¬ narrow →
        (∀ d, translate s i.ctx ea q.rd q.wr = .fail d → i.tailCheck s q ea noWrite = some 0x1B) ∧
        (∀ loc, translate s i.ctx ea q.rd q.wr = .ok loc →
          (q.wr = true → noWrite = true → i.tailCheck s q ea noWrite = some 0x18) ∧
          (¬ (q.wr = true ∧ noWrite = true) → i.tailCheck s q ea noWrite =
            if q.wr = true ∧ constHit s i.ctx i.x.image ea q.size = true then some 0x14 else none)))) := by
  unfold tailCheck
  rw [← ha, ← hn]
  refine ⟨fun h => if_pos h, fun h => ⟨fun hm => ?_, fun hm hs => ?_, fun hm hs => ⟨fun d hd => ?_, fun loc hl => ?_⟩⟩⟩
  · rw [if_neg (not_not_intro h), if_pos hm]
  · rw [if_neg (not_not_intro h), if_neg hm, if_pos hs]
  · rw [if_neg (not_not_intro h), if_neg hm, if_neg hs, hd]
  · rw [if_neg (not_not_intro h), if_neg hm, if_neg hs, hl]
    dsimp only
    refine ⟨fun hw hnw => if_pos (by rw [hw, hnw]; rfl), fun hnot => ?_⟩
    rw [if_neg (by rw [Bool.and_eq_true]; exact hnot)]
    exact if_congr (by rw [Bool.and_eq_true]) rfl rfl

theorem recBad_iff {r : Nat} : recBad r = true ↔ r / 2 ^ 108 ≠ 0 ∨ r / 2 ^ 56 % 2 ^ 8 ≠ 0 := by
  unfold recBad
  rw [Bool.or_eq_true, bne_iff_ne, bne_iff_ne]

theorem recNoWrite_iff {r : Nat} : recNoWrite r = true ↔ r / 2 ^ 106 % 2 = 1 := by
  unfold recNoWrite
  rw [beq_iff_eq]

theorem bankMode_scratchpad {k b : Nat} (hp : (s.ccOf i.ctx i.core).place = .bank k) (hb : b < 24) :
    let e := (s.coreOf i.core).entries.getOr BankEntry.reset b
    bankMode s i.ctx i.core b = some 1 ↔ e.owner = k + 1 ∧ e.mode = 1 := by
  intro e
  unfold bankMode
  rw [if_neg (Nat.not_le.mpr hb), hp]
  show (if e.owner = k + 1 ∧ e.mode ≠ 0 then some e.mode else none) = some 1 ↔ _
  split
  case isTrue h => exact ⟨fun he => ⟨h.1, Option.some.inj he⟩, fun he => congrArg some he.2⟩
  case isFalse h => exact ⟨nofun, fun he => absurd ⟨he.1, by rw [he.2]; decide⟩ h⟩

theorem spMapped_iff {a : Nat} :
    spMapped s i.ctx i.core a = true ↔ a < 0xC0000 ∧ bankMode s i.ctx i.core (a / 2 ^ 15) = some 1 := by
  unfold spMapped
  rw [Bool.and_eq_true, decide_eq_true_iff, beq_iff_eq]

/-! The address mode (Table 1 of 06). -/

theorem amode_record (h : i.maj = 0x21 ∨ i.maj = 0x22) (hi : i.imm < 2 ^ 18) :
    i.amode = .rec_ (i.imm / 2 ^ 6) (i.imm / 2 ^ 4 % 4) := by
  unfold amode
  rw [if_neg (by omega), if_neg (by omega), Nat.div_eq_of_lt hi]
  exact congrArg (AMode.rec_ · _) (Nat.mod_eq_of_lt (by omega))

theorem amode_flat (h : i.maj = 0x21 ∨ i.maj = 0x22) (hi : 2 ^ 18 ≤ i.imm) (hi' : i.imm < 2 ^ 19) :
    i.amode = .flat ((BitVec.ofNat 18 i.imm).toInt) := by
  unfold amode
  rw [if_neg (by omega), if_neg (by omega), show i.imm / 2 ^ 18 = 1 by omega]
  refine congrArg AMode.flat ?_
  rw [BitVec.toInt_eq_toNat_cond, BitVec.toNat_ofNat]
  unfold Alu.toI
  dsimp only
  by_cases h2 : 2 * (i.imm % 2 ^ 18) < 2 ^ 18
  · rw [if_pos h2, if_neg (by simp; omega)]
  · rw [if_neg h2, if_pos (by simp; omega)]
    rfl

theorem amode_scratchpad (h : i.maj = 0x21 ∨ i.maj = 0x22) (hi : 2 ^ 19 ≤ i.imm) (hi' : i.imm < 3 * 2 ^ 18) :
    i.amode = .sp (i.imm - 2 ^ 19) := by
  unfold amode
  rw [if_neg (by omega), if_neg (by omega), show i.imm / 2 ^ 18 = 2 by omega]
  exact congrArg AMode.sp (by omega)

end
end Issue

/-- The memory words of a body, with their major, their minor and the kind of access they make. -/
noncomputable def memoryWords (f : LaneI) (sc : BitVec 2) : List (Instr × Nat × Nat × LogKind) :=
  [(.vSpld f, 0x20, 0, .load), (.vSpst f, 0x20, 1, .store), (.vGld f, 0x21, 0, .load), (.vGst f, 0x21, 1, .store),
   (.vAadd sc f, 0x22, sc.toNat * 16, .atomic), (.vAmin sc f, 0x22, sc.toNat * 16 + 1, .atomic),
   (.vAmax sc f, 0x22, sc.toNat * 16 + 2, .atomic), (.vAand sc f, 0x22, sc.toNat * 16 + 3, .atomic),
   (.vAor sc f, 0x22, sc.toNat * 16 + 4, .atomic), (.vAxor sc f, 0x22, sc.toNat * 16 + 5, .atomic),
   (.vAxchg sc f, 0x22, sc.toNat * 16 + 6, .atomic), (.vAcas sc f, 0x22, sc.toNat * 16 + 7, .atomic),
   (.vAfadd sc f, 0x22, sc.toNat * 16 + 8, .atomic), (.vAppend f, 0x23, 0, .append)]

/-- A memory word is `laneMemory` at its major and minor, and makes accesses of its kind. -/
def MemoryWord (s : State) (f : LaneI) (w : Instr × Nat × Nat × LogKind) : Prop :=
  exec w.1 s = laneMemory s w.2.1 w.2.2.1 f ∧ (w.2.1 = 0x23 ↔ w.2.2.2 = .append) ∧
    ∀ i : Issue, i.maj = w.2.1 → i.min = w.2.2.1 → i.logKind = w.2.2.2

theorem memoryWord_of_mem (s : State) (f : LaneI) (sc : BitVec 2) : ∀ w ∈ memoryWords f sc, MemoryWord s f w := by
  have hload {ins maj} (hm : maj = 0x20 ∨ maj = 0x21) (he : exec ins s = laneMemory s maj 0 f) :
      MemoryWord s f (ins, maj, 0, .load) := ⟨he, ⟨fun (e : maj = 0x23) => by omega, nofun⟩, fun i h => logKind_load (h ▸ hm)⟩
  have hstore {ins maj} (hm : maj = 0x20 ∨ maj = 0x21) (he : exec ins s = laneMemory s maj 1 f) :
      MemoryWord s f (ins, maj, 1, .store) := ⟨he, ⟨fun (e : maj = 0x23) => by omega, nofun⟩, fun i h => logKind_store (h ▸ hm)⟩
  have hatomic {ins min} (he : exec ins s = laneMemory s 0x22 min f) : MemoryWord s f (ins, 0x22, min, .atomic) :=
    ⟨he, ⟨nofun, nofun⟩, fun i hm _ => logKind_atomic hm⟩
  have happend : MemoryWord s f (.vAppend f, 0x23, 0, .append) :=
    ⟨exec_vAppend f s, ⟨fun _ => rfl, fun _ => rfl⟩, fun i hm _ => logKind_append hm⟩
  simp only [memoryWords, List.forall_mem_cons]
  exact ⟨hload (.inl rfl) (exec_vSpld f s), hstore (.inl rfl) (exec_vSpst f s), hload (.inr rfl) (exec_vGld f s),
    hstore (.inr rfl) (exec_vGst f s), hatomic (exec_vAadd sc f s), hatomic (exec_vAmin sc f s), hatomic (exec_vAmax sc f s),
    hatomic (exec_vAand sc f s), hatomic (exec_vAor sc f s), hatomic (exec_vAxor sc f s), hatomic (exec_vAxchg sc f s),
    hatomic (exec_vAcas sc f s), hatomic (exec_vAfadd sc f s), happend, List.forall_mem_nil _⟩

/-- Settles O30: a failing lane is the trap of `Issue.access`, and the checks of an address are those of `Issue.tailCheck` after
those of its mode. -/
theorem laneProbeTraps : Obligations.LaneProbeTraps := by
  refine ⟨?_, ?_⟩
  · intro s i f sc ins maj min kind l e hw h hm lanes q
    obtain ⟨he, happend, hkind⟩ := memoryWord_of_mem s f sc (ins, maj, min, kind) hw
    have hk : i.logKind = kind := hkind i h.issue_maj h.issue_min
    have hask : i.ask = q := ask_of_logKind hk
    have hlanes : i.accessLanes = lanes := if_congr (by rw [h.issue_maj]; exact happend) rfl rfl
    have hexec : exec ins s = .next (i.access s q (i.dataOf s) (i.newOf s) (i.rowOf s)) := by
      rw [he, laneMemory, laneStep_at h, hask]
    have hascend : lanes.Pairwise (· < ·) := by
      show (if kind = .append then i.lanes.take 1 else i.lanes).Pairwise (· < ·)
      split
      · exact (lanes_ascend i).sublist (List.take_sublist ..)
      · exact lanes_ascend i
    intro hb hp
    refine ⟨fun hl hfail hlow => ?_, fun hpass hload hroom hfree => ?_⟩
    · refine hexec.trans (congrArg _ (access_fails _ _ _ hm (hlanes ▸ hb) hp ?_ hfail))
      rw [hlanes]
      exact find?_eq_some_of_least hascend hl (by rw [hfail]; rfl) fun m hmem hlt => by rw [hlow m hmem hlt]; rfl
    · exact hexec.trans (congrArg _ (access_holds _ _ _ hm (hlanes ▸ hb) hp (hlanes ▸ hpass) hload hroom hfree))
  · intro s i q av _
    refine ⟨fun h => if_pos h, fun h => ?_, fun h hi => ⟨Issue.amode_record h, Issue.amode_flat h, fun hl =>
      Issue.amode_scratchpad h hl hi⟩, ?_⟩
    · exact (if_neg (by omega)).trans (if_pos h)
    intro later
    have hlater {ea : Nat} {noWrite : Bool} {p : Prop} (hf : i.failCheck s q av = i.tailCheck s q ea noWrite)
        (hp : noWrite = true ↔ p) : later ea p := by
      have hmis := (Issue.aliasMisuse_iff (i := i) (s := s) (q := q) (ea := ea)).trans
        (exists_congr fun en => exists_congr fun va => and_congr_right fun _ => not_congr Issue.aliasOk_iff)
      have hrules := Issue.tailCheck_rules (noWrite := noWrite) hmis Issue.scopeNarrow_iff
      rw [← hf, hp] at hrules
      exact hrules
    refine ⟨fun b sc h => ⟨Issue.failCheck_noRecord h, fun r hr => ?_⟩, fun d h => ?_, fun d h => ?_⟩
    · intro off ea
      have hf := Issue.failCheck_rec (q := q) (av := av) h hr
      refine ⟨fun hbad => hf.trans (if_pos (Issue.recBad_iff.mpr hbad)), fun h1 h2 => ?_⟩
      have hgood : ¬ Issue.recBad r = true := fun hb => (Issue.recBad_iff.mp hb).elim (· h1) (· h2)
      rw [if_neg hgood] at hf
      refine ⟨fun hea => hf.trans (if_pos hea), fun hea hlim => ?_, fun hea hlim => ?_⟩
      · exact hf.trans ((if_neg (Nat.not_le.mpr hea)).trans (if_pos hlim))
      · exact hlater (hf.trans ((if_neg (Nat.not_le.mpr hea)).trans (if_neg (Nat.not_lt.mpr hlim)))) Issue.recNoWrite_iff
    · intro ea
      have hf := Issue.failCheck_flat (s := s) (q := q) (av := av) h
      exact ⟨fun hout => hf.trans (if_pos hout), fun h0 h1 => hlater (hf.trans (if_neg (by omega))) ⟨nofun, nofun⟩⟩
    · intro ea mapped
      have hf := Issue.failCheck_sp (s := s) (q := q) (av := av) h
      refine ⟨fun k b => Issue.bankMode_scratchpad, fun hal => hf.trans (if_pos hal), fun hal => ⟨fun hmap => ?_, fun hmap => ?_⟩⟩
      · exact hf.trans ((if_neg (not_not_intro hal)).trans (if_pos (Issue.spMapped_iff.mpr hmap)))
      · exact hf.trans ((if_neg (not_not_intro hal)).trans (if_neg fun hs => hmap (Issue.spMapped_iff.mp hs)))

/-! ## Issues without effect, and fences -/

/-- The sounder that has retired an issue: its slices have moved on, and nothing else but the clock and the yield note. -/
theorem retired_frame (i : Issue) (x : Snd) :
    let y := i.retired 1 x
    y = { x with slices := y.slices, lclock := y.lclock, yielded := y.yielded } ∧ (x.determ = false → y.lclock = x.lclock) ∧
    ∀ j sl, x.slices.find j = some sl → y.slices.find j = some (if sliceBit i.slices j then { sl with pc := sl.pc + 1 } else sl) := by
  refine ⟨rfl, fun h => if_neg (by rw [h]; exact nofun), fun j sl hj => ?_⟩
  show (x.slices.mapV _).find j = _
  rw [Tbl.find_mapV, hj]
  rfl

/-- The memory words without their kinds, in the order of O31. -/
theorem exec_accessWord (s : State) (f : LaneI) (sc : BitVec 2) :
    ∀ w ∈ [((.vSpld f, 0x20, 0) : Instr × Nat × Nat), (.vSpst f, 0x20, 1), (.vGld f, 0x21, 0), (.vGst f, 0x21, 1),
      (.vAppend f, 0x23, 0), (.vAadd sc f, 0x22, sc.toNat * 16), (.vAmin sc f, 0x22, sc.toNat * 16 + 1),
      (.vAmax sc f, 0x22, sc.toNat * 16 + 2), (.vAand sc f, 0x22, sc.toNat * 16 + 3), (.vAor sc f, 0x22, sc.toNat * 16 + 4),
      (.vAxor sc f, 0x22, sc.toNat * 16 + 5), (.vAxchg sc f, 0x22, sc.toNat * 16 + 6), (.vAcas sc f, 0x22, sc.toNat * 16 + 7),
      (.vAfadd sc f, 0x22, sc.toNat * 16 + 8)], exec w.1 s = laneMemory s w.2.1 w.2.2 f := by
  simp only [List.forall_mem_cons]
  exact ⟨exec_vSpld f s, exec_vSpst f s, exec_vGld f s, exec_vGst f s, exec_vAppend f s, exec_vAadd sc f s, exec_vAmin sc f s,
    exec_vAmax sc f s, exec_vAand sc f s, exec_vAor sc f s, exec_vAxor sc f s, exec_vAxchg sc f s, exec_vAcas sc f s,
    exec_vAfadd sc f s, List.forall_mem_nil _⟩

/-- An issue without effect retires. -/
theorem idle_word_retires {s : State} {i : Issue} {f : LaneI} {sc : BitVec 2} {ins : Instr} {maj min : Nat}
    (hw : (ins, maj, min) ∈ [(.vGprefetch f, 0x21, 2), (.vLnop f, 0x38, 1)] ∨
      (i.mask = 0 ∧ (ins, maj, min) ∈ [((.vSpld f, 0x20, 0) : Instr × Nat × Nat), (.vSpst f, 0x20, 1), (.vGld f, 0x21, 0),
        (.vGst f, 0x21, 1), (.vAppend f, 0x23, 0), (.vAadd sc f, 0x22, sc.toNat * 16), (.vAmin sc f, 0x22, sc.toNat * 16 + 1),
        (.vAmax sc f, 0x22, sc.toNat * 16 + 2), (.vAand sc f, 0x22, sc.toNat * 16 + 3), (.vAor sc f, 0x22, sc.toNat * 16 + 4),
        (.vAxor sc f, 0x22, sc.toNat * 16 + 5), (.vAxchg sc f, 0x22, sc.toNat * 16 + 6), (.vAcas sc f, 0x22, sc.toNat * 16 + 7),
        (.vAfadd sc f, 0x22, sc.toNat * 16 + 8)]))
    (h : LaneAt s maj min (.i f) i) : exec ins s = .next (i.retire s) := by
  rcases hw with hw | ⟨hm, hw⟩
  · rcases List.mem_cons.mp hw with e | hw
    · cases e
      exact laneStep_at h _
    · cases List.mem_singleton.mp hw
      exact laneStep_at h _
  · rw [show exec ins s = laneMemory s maj min f from exec_accessWord s f sc _ hw, laneMemory, laneStep_at h]
    exact congrArg _ (if_pos hm)

theorem fenced_iff {i : Issue} {sys : Bool} : i.fenced sys = true ↔
    ∀ k e, (k, e) ∈ i.x.oplog → e.slices ≠ 0 → Alu.andN e.slices i.slices ≠ 0 → i.x.settledFor e sys = true := by
  unfold Issue.fenced
  rw [List.all_eq_true]
  simp only [Bool.or_eq_true, beq_iff_eq, or_assoc, Prod.forall]
  exact forall₃_congr fun _ _ _ => ⟨fun h h0 h1 => (h.resolve_left h0).resolve_left h1, fun h =>
    or_iff_not_imp_left.mpr fun h0 => or_iff_not_imp_left.mpr (h h0)⟩

/-- Settles O31: an issue without effect is `Issue.retire`, and a lane fence retires where `Issue.fenced` holds. -/
theorem laneEmptyIssuesAndFences : Obligations.LaneEmptyIssuesAndFences := by
  refine ⟨fun s i f sc ins maj min hw h => ⟨i.retired 1 i.x, ?_, retired_frame i i.x⟩, ?_⟩
  · rw [idle_word_retires hw h, Issue.retire_of _ _ _ _ h.snd]
  · intro s i f settled goes
    have hfence {ins min} (sys : Bool)
        (he : exec ins s = laneStep s 0x24 min (.r f) fun i s => if i.fenced sys then i.retire s else s) :
        goes ins min (settled sys) s := fun h =>
      ⟨fun hp => (he.trans (laneStep_at h _)).trans (congrArg _ (if_pos (fenced_iff.mpr hp))),
        fun hp => (he.trans (laneStep_at h _)).trans (congrArg _ (if_neg fun e => hp (fenced_iff.mp e)))⟩
    refine ⟨hfence false (exec_vFenceCore f s), hfence false (exec_vFencePkg f s), hfence true (exec_vFenceSys f s), fun h => ?_⟩
    have hcond : (i.fenced false && i.enginesDone s) = true ↔ settled false ∧ i.enginesDone s = true := by
      rw [Bool.and_eq_true, fenced_iff]
    refine ⟨fun hp => (laneStep_at h _).trans (congrArg _ ?_), fun hp => (laneStep_at h _).trans (congrArg _ ?_)⟩
    · rw [if_pos (hcond.mpr hp), Issue.engFence, State.modSnd_of _ _ h.snd]
    · exact if_neg fun e => hp (hcond.mp e)

end Sys2Proof.Machine
end

section
/-! Lane control: a branch that parts its slices, and lend, regang and ltrap (O32, O33). -/

namespace Sys2Proof.Machine

open Sys2Proof State

/-! ## A branch parts the slices that take it from those that do not -/

theorem Issue.modSlices_of {i : Issue} {s : State} {x : Snd} (h : s.snd? i.ctx i.core i.slot = some x) (g : Nat → Slice → Slice) :
    (i.modSlices s g).snd? i.ctx i.core i.slot =
      some { x with slices := x.slices.mapV (fun k sl => if sliceBit i.slices k then g k sl else sl) } := by
  rw [Issue.modSlices, State.modSnd_of _ _ h]
  exact State.snd?_putSnd_self ..

theorem Issue.retire_snd {i : Issue} {s : State} {x : Snd} (h : s.snd? i.ctx i.core i.slot = some x) (n : Nat) :
    (i.retire s n).snd? i.ctx i.core i.slot = some (i.retired n x) := by
  rw [Issue.retire_of _ _ _ _ h]
  exact State.snd?_putSnd_self ..

/-- A branch inside its block notes that the slices which take it are parted from the others (R230, R314). -/
theorem branch_parts {i : Issue} {s : State} {x : Snd} {taken : Nat} (h : s.snd? i.ctx i.core i.slot = some x)
    (hin : ¬ ((i.lpc : Int) + Alu.toI true 16 i.imm < i.blk.entry ∨
      ((i.blk.entry + i.blk.len : Nat) : Int) ≤ (i.lpc : Int) + Alu.toI true 16 i.imm)) :
    ((i.branch s taken).snd? i.ctx i.core i.slot).map (·.parts) =
      some ((i.retired 0 x).part (Alu.andN taken i.slices) (i.slices - taken)).parts := by
  unfold Issue.branch
  dsimp only
  rw [if_neg hin, Issue.modSlices_of (x := (i.retired 0 x).part (Alu.andN taken i.slices) (i.slices - taken))]
  · rfl
  · rw [State.modSnd_of _ _ (Issue.retire_snd h 0)]
    exact State.snd?_putSnd_self ..

/-- lbr.any q1 with offset 0. -/
def partingBranch : LaneI :=
  { dst := 0, a := 657, b := 0, g1 := 0, g2 := 0, imm := 0, fe := 0, hint := 0, yd := 0, nr := 0, rsv := 0, rnd := 0, ty := 0 }

/-- A sounder whose predicate q1 holds in lane 0 only, with all its slices in one set. -/
def partingSnd : Snd := { placedSnd true with q := [(1, 1)] }

def partingState : State :=
  { (placeWord State.reset .lane 0).putSnd 0 0 0 partingSnd with cur := .lane 0 0 0 (2 ^ 24 - 1) }

def partingIssue : Issue := Issue.of partingState 0 0 0 (2 ^ 24 - 1) partingSnd placedBlock 0x38 2 (.i partingBranch)

theorem partingIssue_at : LaneAt partingState 0x38 2 (.i partingBranch) partingIssue where
  cur := rfl
  snd := rfl
  blk := rfl
  made := rfl
  legal := by decide +kernel
  full := by decide +kernel

/-- Slice 0 takes the branch and is parted from the 23 others. -/
theorem partingIssue_parts : ((partingIssue.retired 0 partingIssue.x).part
    (Alu.andN (slicesWith partingIssue.slices (partingIssue.mask &&& partingIssue.branchPred)) partingIssue.slices)
    (partingIssue.slices - slicesWith partingIssue.slices (partingIssue.mask &&& partingIssue.branchPred))).parts.length = 23 := by
  decide +kernel

/-- Refutes O32: a branch that some slices take and others do not also records, in the sounder's `parts`, that they are parted
(R230), which the frame of the statement leaves no room for. -/
theorem not_laneBranchesMoveSlices : ¬ Obligations.LaneBranchesMoveSlices := by
  intro h
  obtain ⟨hgo, -, -⟩ := h partingState partingIssue partingBranch
  obtain ⟨u, y, hu, hy, hframe, -⟩ := (hgo partingIssue_at).2 (by decide)
  have hbranch := hu.symm.trans ((exec_vLbrAny partingBranch partingState).trans (laneStep_at partingIssue_at _))
  cases hbranch
  have hparts := branch_parts (taken := slicesWith partingIssue.slices (partingIssue.mask &&& partingIssue.branchPred))
    partingIssue_at.snd (by decide)
  rw [hy, Option.map_some, Option.some_inj] at hparts
  have hnone : y.parts = [] := (congrArg Snd.parts hframe :)
  have hlen := partingIssue_parts
  rw [← hparts, hnone] at hlen
  cases hlen

/-! ## lend, regang and ltrap -/

theorem endBlock_done {x : Snd} (hr : x.running = true) (h : x.slices.all (fun e => e.2.done) = true) :
    x.endBlock.queue = x.queue.tail ∧ x.endBlock.running = false ∧ x.endBlock.slices = [] := by
  unfold Snd.endBlock
  rw [if_pos (by rw [hr, h]; rfl)]
  exact ⟨rfl, rfl, rfl⟩

theorem endBlock_open {x : Snd} (h : x.slices.all (fun e => e.2.done) = false) : x.endBlock = x := by
  unfold Snd.endBlock
  exact if_neg (by rw [h, Bool.and_false]; exact Bool.false_ne_true)

theorem endBlock_keeps (x : Snd) :
    x.endBlock.v = x.v ∧ x.endBlock.q = x.q ∧ x.endBlock.s = x.s ∧ x.endBlock.oplog = x.oplog := by
  unfold Snd.endBlock
  split <;> exact ⟨rfl, rfl, rfl, rfl⟩

theorem all_mapV {α : Type} (f : Nat → α → α) (t : Tbl α) (p : Nat × α → Bool) :
    (t.mapV f).all p = t.all (fun e => p (e.1, f e.1 e.2)) := by
  induction t with
  | nil => rfl
  | cons e r ih => exact congrArg (_ && ·) ih

/-- The issuing sounder once the slices of an issue have been changed in place. -/
def Issue.resliced (i : Issue) (g : Slice → Slice) : Snd :=
  { i.retired 0 i.x with slices := (i.retired 0 i.x).slices.mapV (fun k sl => if sliceBit i.slices k then g sl else sl) }

theorem Issue.resliced_find {i : Issue} (g : Slice → Slice) {k : Nat} {sl : Slice} (h : i.x.slices.find k = some sl) :
    (i.resliced g).slices.find k = some (if sliceBit i.slices k then g sl else sl) := by
  unfold Issue.resliced Issue.retired
  rw [Tbl.find_mapV, Tbl.find_mapV, h]
  by_cases hb : sliceBit i.slices k = true <;> simp [hb]

theorem Issue.modSlices_retire {i : Issue} {s : State} (h : s.snd? i.ctx i.core i.slot = some i.x) (g : Slice → Slice) :
    (i.modSlices (i.retire s 0) fun _ sl => g sl).snd? i.ctx i.core i.slot = some (i.resliced g) :=
  Issue.modSlices_of (Issue.retire_snd h 0) _

theorem runningBlock_running {x : Snd} {b : Block} (h : x.runningBlock = some b) : x.running = true := by
  unfold Snd.runningBlock at h
  split at h
  · assumption
  · cases h

theorem Issue.resliced_done {i : Issue} : (i.resliced fun sl => { sl with done := true }).slices.all (fun e => e.2.done) = true ↔
    ∀ k sl, (k, sl) ∈ i.x.slices → sl.done = true ∨ sliceBit i.slices k = true := by
  show ((i.x.slices.mapV _).mapV _).all _ = true ↔ _
  rw [all_mapV, all_mapV, List.all_eq_true, Prod.forall]
  refine forall₃_congr fun k sl _ => ?_
  by_cases hb : sliceBit i.slices k = true <;> simp [hb]

/-- Settles O33: lend and regang change the issuing slices, lend then ends a block with no slice left. -/
theorem laneEndsWaitsAndTraps : Obligations.LaneEndsWaitsAndTraps := by
  intro s i f
  refine ⟨fun h => ?_, fun h => ?_, fun h => laneStep_at h _⟩
  · have hx := Issue.modSlices_retire h.snd fun sl => { sl with done := true }
    have hend := (congrArg (State.snd? · i.ctx i.core i.slot) (State.modSnd_of _ Snd.endBlock hx)).trans (State.snd?_putSnd_self ..)
    have hrun : (i.resliced fun sl => { sl with done := true }).running = true := runningBlock_running h.blk
    refine ⟨_, _, laneStep_at h _, hend, fun hall => ?_, fun ⟨k, sl, hmem, hnot, hbit⟩ => ?_, endBlock_keeps _⟩
    · exact endBlock_done hrun (Issue.resliced_done.mpr hall)
    · have hopen := endBlock_open (x := i.resliced fun sl => { sl with done := true }) (Bool.eq_false_iff.mpr fun hd =>
        (Issue.resliced_done.mp hd k sl hmem).elim (by rw [hnot]; exact nofun) (by rw [hbit]; exact nofun))
      rw [hopen]
      exact ⟨rfl, hrun, fun k sl hk => Issue.resliced_find _ hk⟩
  · exact ⟨_, _, laneStep_at h _, Issue.modSlices_retire h.snd _, rfl, fun k sl hk => Issue.resliced_find _ hk⟩

end Sys2Proof.Machine
end

section
/-! Engine commands at issue: what acceptance leaves of a core's engines (O34 to O38). -/

namespace Sys2Proof.Machine

open Sys2Proof State

/-! ## What leaves the engines of a core alone -/

/-- Nothing of a context's share of a core but its sounders differs, nor a byte of memory, a routing queue or a context. -/
structure SameEngines (s t : State) (c k : Nat) : Prop where
  cc     : t.ccOf c k = { s.ccOf c k with sounders := (t.ccOf c k).sounders }
  mem    : t.pmem = s.pmem
  routes : t.routeQ = s.routeQ
  ctxs   : t.ctxs = s.ctxs

namespace SameEngines

theorem refl (s : State) (c k : Nat) : SameEngines s s c k := ⟨rfl, rfl, rfl, rfl⟩

theorem trans {s t u : State} {c k : Nat} (a : SameEngines s t c k) (b : SameEngines t u c k) : SameEngines s u c k :=
  ⟨by rw [b.cc, a.cc], b.mem.trans a.mem, b.routes.trans a.routes, b.ctxs.trans a.ctxs⟩

theorem putCC (s : State) (c k : Nat) {x : CtxCore} (h : x = { s.ccOf c k with sounders := x.sounders }) :
    SameEngines s (s.putCC c k x) c k :=
  ⟨by rw [ccOf_putCC_self]; exact h, rfl, rfl, rfl⟩

theorem putSnd (s : State) (c k j : Nat) (x : Snd) : SameEngines s (s.putSnd c k j x) c k := putCC s c k rfl

theorem modSnd (s : State) (c k j : Nat) (f : Snd → Snd) : SameEngines s (s.modSnd c k j f) c k := by
  unfold State.modSnd
  split
  · exact refl ..
  · exact putSnd ..

theorem occur (s : State) (c k kind obj : Nat) : SameEngines s (occur s c k kind obj) c k := putCC s c k rfl

theorem wake (s : State) (c k : Nat) : SameEngines s (wake s c k) c k := by
  unfold Machine.wake
  split <;> exact ⟨rfl, rfl, rfl, rfl⟩

theorem openFill (s : State) (c k j n : Nat) (hi : Bool) (lanes : List Nat) (eng hand : Bool) (m : Option Memo) (sh : Bool) :
    SameEngines s (Issue.openFill s c k j n hi lanes eng hand m sh).1 c k := by
  unfold Issue.openFill
  dsimp only
  split
  · exact ⟨rfl, rfl, rfl, rfl⟩
  · exact trans (t := (Issue.freshPhys s c k).1) ⟨rfl, rfl, rfl, rfl⟩ (putSnd ..)

theorem retire (i : Issue) (s : State) (n : Nat) : SameEngines s (i.retire s n) i.ctx i.core :=
  trans (modSnd s i.ctx i.core i.slot _) ⟨rfl, rfl, rfl, rfl⟩

/-- A fold of steps that each leave the engines alone does too. -/
theorem foldl {α β : Type} {c k : Nat} (f : State × β → α → State × β) (hf : ∀ a e, SameEngines a.1 (f a e).1 c k)
    (l : List α) (a : State × β) : SameEngines a.1 (l.foldl f a).1 c k := by
  induction l generalizing a with
  | nil => exact refl ..
  | cons e l ih => exact (hf a e).trans (ih (f a e))

variable {s t : State} {c k : Nat} (h : SameEngines s t c k)
include h

theorem readPA (n : Nat) : t.readPA n = s.readPA n := by
  unfold State.readPA
  rw [h.mem]

theorem handleOf (n : Nat) : handleOf t c k n = handleOf s c k n := by
  unfold Machine.handleOf
  rw [h.cc]

theorem cbOf (n : Nat) : cbOf t c k n = cbOf s c k n := by
  unfold Machine.cbOf
  rw [h.cc]

theorem copies : (t.ccOf c k).copies = (s.ccOf c k).copies := by rw [h.cc]
theorem pops : (t.ccOf c k).pops = (s.ccOf c k).pops := by rw [h.cc]
theorem nextCmd : (t.ccOf c k).nextCmd = (s.ccOf c k).nextCmd := by rw [h.cc]

theorem entry? (n : Nat) : t.entry? c n = s.entry? c n := by
  unfold State.entry? State.ctx?
  rw [h.ctxs]

end SameEngines

/-! ## Handles -/

section
variable (s : State) (c k n : Nat) (x : Handle)

theorem wake_cc : (wake s c k).ccOf c k = s.ccOf c k := by
  unfold wake
  split <;> rfl

theorem moveHandle_cc : (moveHandle s c k n x).ccOf c k =
    { s.ccOf c k with handles := (s.ccOf c k).handles.put n x, sounders := ((moveHandle s c k n x).ccOf c k).sounders } := by
  have hput : ((wake s c k).modCC c k fun cc => { cc with handles := cc.handles.put n x }).ccOf c k =
      { s.ccOf c k with handles := (s.ccOf c k).handles.put n x } := by
    rw [State.modCC, ccOf_putCC_self, wake_cc]
  refine (SameEngines.occur ((wake s c k).modCC c k fun cc => { cc with handles := cc.handles.put n x }) c k 2 n).cc.trans ?_
  rw [hput]
  rfl

theorem moveHandle_mem : (moveHandle s c k n x).pmem = s.pmem := (SameEngines.wake s c k).mem
theorem moveHandle_routes : (moveHandle s c k n x).routeQ = s.routeQ := (SameEngines.wake s c k).routes

theorem handleOf_moveHandle_self : handleOf (moveHandle s c k n x) c k n = x := by
  unfold handleOf
  rw [moveHandle_cc]
  exact Tbl.getOr_put_self ..

theorem handleOf_moveHandle_ne {m : Nat} (h : m ≠ n) : handleOf (moveHandle s c k n x) c k m = handleOf s c k m := by
  unfold handleOf
  rw [moveHandle_cc]
  exact Tbl.getOr_put_ne _ _ _ h

theorem copies_moveHandle : ((moveHandle s c k n x).ccOf c k).copies = (s.ccOf c k).copies := by rw [moveHandle_cc]
theorem nextCmd_moveHandle : ((moveHandle s c k n x).ccOf c k).nextCmd = (s.ccOf c k).nextCmd := by rw [moveHandle_cc]

end

/-! ## Records read at issue -/

theorem heldAt_unwritten {s : State} {t place : Nat} {now : Byte} (h : ∀ e ∈ s.history, t ≤ e.stamp → e.place ≠ place) :
    s.heldAt t place now = now := by
  unfold State.heldAt
  rw [List.filter_eq_nil_iff.mpr]
  · rfl
  · intro e he
    rw [Bool.and_eq_true, beq_iff_eq, decide_eq_true_iff]
    exact fun ⟨hp, ht⟩ => h e he ht hp

theorem bytesHeld_unwritten {s : State} {t place : Nat} {bs : List Byte}
    (h : ∀ e ∈ s.history, t ≤ e.stamp → e.place < place ∨ place + bs.length ≤ e.place) : s.bytesHeld t place bs = bs := by
  unfold State.bytesHeld
  have hid : ∀ p ∈ bs.zipIdx, s.heldAt t (place + p.2) p.1 = p.1 := fun p hp =>
    heldAt_unwritten fun e he ht hplace => by
      have := List.snd_lt_of_mem_zipIdx hp
      have := h e he ht
      omega
  exact (List.map_congr_left hid).trans (List.zipIdx_map_fst 0 bs)

theorem since_le_readPoint (s : State) (since k : Nat) : since ≤ s.readPoint since k := by
  unfold State.readPoint
  split
  · exact Nat.le_refl _
  · exact Nat.le_add_right ..

theorem spBytes_length (s : State) (c k a n : Nat) : (spBytes s c k a n).length = n := by
  induction n generalizing a with
  | zero => rfl
  | succ n ih => exact congrArg (· + 1) (ih _)

theorem spBytes_add (s : State) (c k a m n : Nat) : spBytes s c k a (m + n) = spBytes s c k a m ++ spBytes s c k (a + m) n := by
  induction m generalizing a with
  | zero => simp [spBytes]
  | succ m ih =>
    rw [Nat.succ_add, spBytes, ih, spBytes, List.cons_append, Nat.add_assoc, Nat.add_comm 1 m]

theorem spBytes_words (s : State) (c k a n : Nat) :
    (List.range n).flatMap (fun w => spBytes s c k (a + 8 * w) 8) = spBytes s c k a (8 * n) := by
  induction n with
  | zero => rfl
  | succ n ih => rw [List.range_succ, List.flatMap_append, ih, Nat.mul_succ, spBytes_add, List.flatMap_singleton]

/-- A record that no write has reached since the last fence.eng of its slices is read as it stands (R188). -/
theorem engRecord_unwritten {s : State} {q : EngReq} {a n : Nat}
    (h : ∀ e ∈ s.history, q.since ≤ e.stamp →
      e.place < spPlace q.ctx q.core a ∨ spPlace q.ctx q.core a + 8 * n ≤ e.place) :
    engRecord s q a (8 * n) = spN s q.ctx q.core a (8 * n) := by
  unfold engRecord spN
  rw [Nat.mul_div_cancel_left _ (by decide), ← spBytes_words]
  refine congrArg leNat (List.flatMap_congr fun w hw => bytesHeld_unwritten fun e he ht => ?_)
  have hplace : spPlace q.ctx q.core (a + 8 * w) = spPlace q.ctx q.core a + 8 * w := (Nat.add_assoc ..).symm
  have := h e he (Nat.le_trans (since_le_readPoint ..) ht)
  have := List.mem_range.mp hw
  rw [spBytes_length, hplace]
  omega

/-! ## Copies -/

/-- A destination name of a copy is marked empty, and its fill noted. -/
def openName (q : EngReq) (slot : Nat) (a : State × List Nat) (e : Nat × Bool × List Nat) : State × List Nat :=
  ((Issue.openFill a.1 q.ctx q.core slot e.1 e.2.1 e.2.2 true false none false).1,
    a.2 ++ [(Issue.openFill a.1 q.ctx q.core slot e.1 e.2.1 e.2.2 true false none false).2])

theorem openNames_same (q : EngReq) (slot : Nat) (names : List (Nat × Bool × List Nat)) (s : State) :
    SameEngines s (names.foldl (openName q slot) (s, [])).1 q.ctx q.core :=
  SameEngines.foldl (openName q slot)
    (fun a e => SameEngines.openFill a.1 q.ctx q.core slot e.1 e.2.1 e.2.2 true false none false) names (s, [])

/-- The command that an accepted copy puts into its core's queue. -/
def takenCopy (q : EngReq) (c : Nat) (l : Layout) (o : List Int) (follow : Option MatCmd) (tgt : Option (Nat × Snd))
    (fills : List Nat) (id : Nat) : CopyCmd :=
  { id := id, ctl := c, handle := c % 256, lay := l, coord := o, follow := follow, snd := q.uid, slices := q.slices,
    wid := q.wid, image := q.image, target := (match tgt with | some (j, _) => j | none => 0),
    tsnd := (match tgt with | some (_, x) => x.uid | none => 0), fills := fills, fired := false, input := [], claim := 0,
    next := 0, idx := none, part := [], wrote := 0, bytes := 0, await := false, unacked := 0, suspended := none,
    after := if ctlAcq c then q.seq else 0, since := q.since }

/-- A copy that moves something opens its destination names and joins the queue. -/
theorem acceptCopy_eq {s : State} {q : EngReq} {c : Nat} {l : Layout} {o : List Int} {follow : Option MatCmd}
    (hz : l.isZero = false) : ∃ tgt w, SameEngines (moveHandle s q.ctx q.core (c % 256) { state := 1, bytes := 0, err := 0 })
        (Prod.fst w) q.ctx q.core ∧
      acceptCopy s q c l o follow = (Prod.fst w).modCC q.ctx q.core fun cc =>
        { cc with copies := cc.copies ++ [takenCopy q c l o follow tgt (Prod.snd w) cc.nextCmd], nextCmd := cc.nextCmd + 1 } := by
  let u := moveHandle s q.ctx q.core (c % 256) { state := 1, bytes := 0, err := 0 }
  let tgt := if l.dkind = 3 then targetSlot u q l.dsnd else none
  let slot := match tgt with | some (j, _) => j | none => 0
  refine ⟨tgt, (if l.dkind = 3 then copyNames l else []).foldl (openName q slot) (u, []), openNames_same q slot _ u, ?_⟩
  unfold acceptCopy
  dsimp only
  rw [hz, if_neg Bool.false_ne_true]
  rfl

/-- What an accepted copy that moves something leaves: its handle filling, its command queued, and memory as it was. -/
theorem acceptCopy_queues {s : State} {q : EngReq} {c : Nat} {l : Layout} {o : List Int} {follow : Option MatCmd}
    (hz : l.isZero = false) :
    let t := acceptCopy s q c l o follow
    handleOf t q.ctx q.core (c % 256) = { state := 1, bytes := 0, err := 0 } ∧ t.pmem = s.pmem ∧
    ∃ cmd, (t.ccOf q.ctx q.core).copies = (s.ccOf q.ctx q.core).copies ++ [cmd] ∧ cmd.id = (s.ccOf q.ctx q.core).nextCmd ∧
      cmd.ctl = c ∧ cmd.handle = c % 256 ∧ cmd.lay = l ∧ cmd.coord = o ∧ cmd.follow = follow ∧ cmd.fired = false ∧ cmd.bytes = 0 := by
  obtain ⟨tgt, w, hsame, ht⟩ := acceptCopy_eq (s := s) (q := q) (c := c) (o := o) (follow := follow) hz
  intro t
  have hcc := (congrArg (State.ccOf · q.ctx q.core) ht).trans (ccOf_putCC_self ..)
  have hid : (w.1.ccOf q.ctx q.core).nextCmd = (s.ccOf q.ctx q.core).nextCmd := hsame.nextCmd.trans (nextCmd_moveHandle ..)
  refine ⟨?_, ?_, takenCopy q c l o follow tgt w.2 (s.ccOf q.ctx q.core).nextCmd, ?_, rfl, rfl, rfl, rfl, rfl, rfl, rfl, rfl⟩
  · refine Eq.trans ?_ (handleOf_moveHandle_self s q.ctx q.core (c % 256) { state := 1, bytes := 0, err := 0 })
    rw [← hsame.handleOf]
    exact congrArg (fun cc => cc.handles.getOr Handle.reset (c % 256)) hcc
  · exact (congrArg State.pmem ht).trans (hsame.mem.trans (moveHandle_mem ..))
  · rw [← copies_moveHandle s q.ctx q.core (c % 256) { state := 1, bytes := 0, err := 0 }, ← hsame.copies, ← hid]
    exact congrArg CtxCore.copies hcc

theorem acceptCopy_zero {s : State} {q : EngReq} {c : Nat} {l : Layout} {o : List Int} (hz : l.isZero = true) :
    let t := acceptCopy s q c l o none
    handleOf t q.ctx q.core (c % 256) = { state := 2, bytes := 0, err := 0 } ∧
      (t.ccOf q.ctx q.core).copies = (s.ccOf q.ctx q.core).copies := by
  unfold acceptCopy
  rw [hz]
  exact ⟨handleOf_moveHandle_self .., (copies_moveHandle ..).trans (copies_moveHandle ..)⟩

theorem writeService_cc (s : State) (pa : Nat) (bs : List Byte) : (writeService s pa bs).cc = s.cc := rfl

theorem putTrapq_cc (s : State) (ctx : Nat) (c : Ctx) (q : TrapQueue) : (putTrapq s ctx c q).cc = s.cc := by
  unfold putTrapq
  generalize toBytes 64 q.header = bs
  split
  · rfl
  · exact writeService_cc ..

theorem writeSlot_cc (s : State) (q : TrapQueue) (w : Nat) : (writeSlot s q w).cc = s.cc := by
  unfold writeSlot
  generalize toBytes 256 w = bs
  split
  · rfl
  · exact writeService_cc ..

theorem putRecord_cc {s t : State} {ctx : Nat} {r : RecHdr} {body : Nat} (h : putRecord s ctx r body = some t) : t.cc = s.cc := by
  unfold putRecord at h
  split at h
  · cases h
  dsimp only at h
  split at h
  · split at h
    · cases h
      exact (putTrapq_cc ..).trans (writeSlot_cc ..)
    · cases h
      exact putTrapq_cc ..
  · split at h
    · cases h
      exact (putTrapq_cc ..).trans (writeSlot_cc ..)
    · cases h

theorem noteRecord_cc (s : State) (ctx : Nat) (r : RecHdr) (body : Nat) : (noteRecord s ctx r body).cc = s.cc := by
  unfold noteRecord
  split
  case h_1 h => exact putRecord_cc h
  · split
    · exact putTrapq_cc ..
    · rfl

theorem noteRecord_ccOf (s : State) (ctx : Nat) (r : RecHdr) (body c k : Nat) :
    (noteRecord s ctx r body).ccOf c k = s.ccOf c k := by
  unfold State.ccOf
  rw [noteRecord_cc]

/-- A command whose record cannot be read leaves its handle full with ERR 1, and the queue of copies as it was. -/
theorem loseCommand_ends (s : State) (q : EngReq) (unit c a : Nat) :
    let t := loseCommand s q unit c a
    handleOf t q.ctx q.core (c % 256) = { state := 2, bytes := 0, err := 1 } ∧
      (t.ccOf q.ctx q.core).copies = (s.ccOf q.ctx q.core).copies := by
  refine ⟨handleOf_moveHandle_self .., (copies_moveHandle ..).trans ?_⟩
  rw [noteRecord_ccOf]
  exact copies_moveHandle ..

section
variable {s : State} {i : Issue} {f : LaneR} (h : LaneAt s 0x30 0 (.r f) i)
include h

theorem copy_issue (hm : i.mask ≠ 0) :
    exec (.vCopy f) s = .next (i.engineQueue s (i.copyBanks s) (i.copyCheck s) (i.copyCmd s none)) :=
  (laneStep_at h _).trans (congrArg _ (if_neg hm))

theorem copyFo_badFollow (hm : i.mask ≠ 0) {ill : Nat} (hf : i.follow s = .error ill) :
    exec (.vCopyFo f) s = .next (i.trap s 0x20 (ill := ill) (words := 2)) := by
  refine (laneStep_at h _).trans (congrArg _ ((if_neg hm).trans ?_))
  rw [hf]

/-- copy.fo with a follow-on, while no bank is changing: its own checks come first. -/
theorem copyFo_check (hm : i.mask ≠ 0) (hp : i.passed = none) {k : MatKind} {r : LaneR} {w : Nat}
    (hf : i.follow s = .ok (k, r, w)) (hb : i.copyBanks s = false)
    (hmb : matBusy s i.core i.ctx (matCmd s i.req k (i.followOp s r.a.toNat) (i.followOp s r.b.toNat) 0 0 w (some (i.opA s % 256)))
      (some (i.followOp s r.b.toNat)) = false) {e : Nat × Nat} (hc : i.copyCheck s = some e) :
    exec (.vCopyFo f) s = .next (i.trapCheck s e (words := 2)) := by
  refine (laneStep_at h _).trans (congrArg _ ((if_neg hm).trans ?_))
  rw [hf]
  dsimp only
  rw [if_neg (by rw [hp]; exact nofun), hb, hmb, if_neg (by exact nofun), hc]

/-- copy.fo whose checks pass queues the copy with its follow-on. -/
theorem copyFo_queue (hm : i.mask ≠ 0) (hp : i.passed = none) {k : MatKind} {r : LaneR} {w : Nat}
    (hf : i.follow s = .ok (k, r, w)) (hb : i.copyBanks s = false)
    (hmb : matBusy s i.core i.ctx (matCmd s i.req k (i.followOp s r.a.toNat) (i.followOp s r.b.toNat) 0 0 w (some (i.opA s % 256)))
      (some (i.followOp s r.b.toNat)) = false) (hc : i.copyCheck s = none) (he : i.followEmpties r = [])
    (ha : (k.readsPad && i.ahead) = false) :
    exec (.vCopyFo f) s = .next (i.engineQueue s false (matChecks s i.ctx i.core k (i.followOp s r.a.toNat) (i.followOp s r.b.toNat))
      (i.copyCmd s (some (matCmd s i.req k (i.followOp s r.a.toNat) (i.followOp s r.b.toNat) 0 0 w (some (i.opA s % 256))))) 2) := by
  refine (laneStep_at h _).trans (congrArg _ ((if_neg hm).trans ?_))
  rw [hf]
  dsimp only
  rw [if_neg (by rw [hp]; exact nofun), hb, hmb, if_neg (by exact nofun), hc, he]
  dsimp only [List.find?_nil]
  rw [ha]
  rfl

end

theorem copyCmd_readable {i : Issue} {s : State} (follow : Option MatCmd) (h : padBad s i.ctx i.core (i.opB s) 128 = none) :
    i.copyCmd s follow = .copy (i.opA s) (layoutAt s i.req (i.opB s)) (coords (i.opC s) (i.opD s)) follow := by
  unfold Issue.copyCmd
  rw [h]

theorem copyCmd_lost {i : Issue} {s : State} (follow : Option MatCmd) {a : Nat}
    (h : padBad s i.ctx i.core (i.opB s) 128 = some a) : i.copyCmd s follow = .lost 1 (i.opA s) a := by
  unfold Issue.copyCmd
  rw [h]

/-- Settles O34: copy and copy.fo are `Issue.engineQueue` on their command, whose acceptance is `acceptCopy`. -/
theorem copyCommandsAccepted : Obligations.CopyCommandsAccepted := by
  intro s i f h hp c l o check waits bad free queued
  have hqueued {t : State} {m : Option MatCmd} {n : Nat} (hz : l.isZero = false)
      (ht : t = i.retire (acceptCopy s i.req c l o m) n) : queued t m := by
    obtain ⟨hhandle, hmem, cmd, hcopies, hcmd⟩ := acceptCopy_queues (s := s) (q := i.req) (c := c) (o := o) (follow := m) hz
    have hsame := SameEngines.retire i (acceptCopy s i.req c l o m) n
    subst ht
    refine ⟨(hsame.handleOf _).trans hhandle, fun a => (hsame.readPA a).trans ?_, cmd, hsame.copies.trans hcopies, hcmd⟩
    unfold State.readPA
    rw [hmem]
  refine ⟨fun hw => ?_, fun hm => ⟨?_, ?_⟩, fun hm hb => ?_, fun hm hb => ⟨fun e he => ?_, fun hc hh => ?_, fun hc hf a ha hs => ?_,
    fun hc hf hbad hwait => ?_, fun hc hf hbad hwait => ?_⟩, fun hm => ⟨fun ill => copyFo_badFollow h hm, ?_⟩⟩
  · exact congrArg layoutOf (engRecord_unwritten (n := 16) hw)
  · exact (laneStep_at h _).trans (congrArg _ (if_pos hm))
  · exact (laneStep_at h _).trans (congrArg _ (if_pos hm))
  · rw [copy_issue h hm, hb, engineQueue_busy hp]
  · rw [copy_issue h hm, hb, show i.copyCheck s = some e from he, engineQueue_trap hp]
    rfl
  · rw [copy_issue h hm, hb, show i.copyCheck s = none from hc, engineQueue_hold hp hh]
  · have hwait : i.cmdWaits s (.lost 1 c a) = false := by
      show ((handleOf s i.ctx i.core (c % 256)).state != 0) = false
      rw [hs]
      rfl
    have hsame := SameEngines.retire i (loseCommand s i.req 1 c a) 1
    obtain ⟨hhandle, hcopies⟩ := loseCommand_ends s i.req 1 c a
    refine ⟨i.retire (loseCommand s i.req 1 c a) 1, ?_, (hsame.handleOf _).trans hhandle, hsame.copies.trans hcopies⟩
    rw [copy_issue h hm, hb, show i.copyCheck s = none from hc, copyCmd_lost none ha, engineQueue_at hp hf hwait]
    rfl
  · rw [copy_issue h hm, hb, show i.copyCheck s = none from hc, copyCmd_readable none hbad, engineQueue_wait (cmd := .copy c l o none) hp hf hwait]
  · refine ⟨i.retire (acceptCopy s i.req c l o none) 1, ?_, fun hz => hqueued hz rfl, fun hz => ?_⟩
    · rw [copy_issue h hm, hb, show i.copyCheck s = none from hc, copyCmd_readable none hbad,
        engineQueue_at (cmd := .copy c l o none) hp hf hwait]
      rfl
    · have hsame := SameEngines.retire i (acceptCopy s i.req c l o none) 1
      obtain ⟨hhandle, hcopies⟩ := acceptCopy_zero (s := s) (q := i.req) (c := c) (o := o) hz
      exact ⟨(hsame.handleOf _).trans hhandle, hsame.copies.trans hcopies⟩
  · intro k r w hfol fa fb hb hmb
    refine ⟨fun e he => copyFo_check h hm hp hfol hb hmb he, fun hc he ha hmat hf hbad hwait hz => ?_⟩
    refine ⟨i.retire (acceptCopy s i.req c l o (some (matCmd s i.req k fa fb 0 0 w (some (c % 256))))) 2, _, ?_,
      hqueued hz rfl, rfl, rfl, rfl, rfl⟩
    rw [copyFo_queue h hm hp hfol hb hmb hc he ha, hmat, copyCmd_readable _ hbad,
      engineQueue_at (cmd := .copy c l o (some (matCmd s i.req k fa fb 0 0 w (some (c % 256))))) hp hf hwait]
    rfl

end Sys2Proof.Machine
end

section
/-! Handles, circular buffers, matrix commands, routes and cstart at issue (O35 to O38). -/

namespace Sys2Proof.Machine

open Sys2Proof State

theorem firstCheck_pass {r : List Check} : firstCheck (none :: r) = firstCheck r := rfl

theorem raiseIf_false {bad : Bool} {cause addr : Nat} (h : bad = false) : raiseIf bad cause addr = none := by
  rw [h]
  rfl

theorem raiseIf_true {bad : Bool} {cause addr : Nat} (h : bad = true) : raiseIf bad cause addr = some (cause, addr) := by
  rw [h]
  rfl

theorem numCheck_pass {v lim : Nat} {mine : List Nat} (hv : v < lim) (hm : mine.contains v = true) : numCheck v lim mine = none := by
  unfold numCheck
  rw [raiseIf_false (decide_eq_false (Nat.not_le.mpr hv)), raiseIf_false (by rw [hm]; rfl)]
  rfl

theorem numCheck_large {v lim : Nat} {mine : List Nat} (hv : lim ≤ v) : numCheck v lim mine = some (0x21, 0) := by
  unfold numCheck
  rw [raiseIf_true (decide_eq_true hv)]
  rfl

theorem numCheck_foreign {v lim : Nat} {mine : List Nat} (hv : v < lim) (hm : mine.contains v = false) :
    numCheck v lim mine = some (0x03, 0) := by
  unfold numCheck
  rw [raiseIf_false (decide_eq_false (Nat.not_le.mpr hv)), raiseIf_true (by rw [hm]; rfl)]
  rfl

theorem engineStep_wait {s : State} {maj min : Nat} {f : LaneR} {i : Issue} (h : LaneAt s maj min (.r f) i)
    {busy waits : Issue → State → Bool} {check : Issue → State → Check} {eff : Issue → State → State} (m : i.mask ≠ 0)
    (b : busy i s = false) (c : check i s = none) (w : waits i s = true) :
    engineStep s maj min f busy check waits eff = .next s := by
  rw [engineStep, laneStep_at h, if_neg m, b, c, w]
  rfl

theorem engineStep_busy {s : State} {maj min : Nat} {f : LaneR} {i : Issue} (h : LaneAt s maj min (.r f) i)
    {busy waits : Issue → State → Bool} {check : Issue → State → Check} {eff : Issue → State → State} (m : i.mask ≠ 0)
    (b : busy i s = true) : engineStep s maj min f busy check waits eff = .next s := by
  rw [engineStep, laneStep_at h, if_neg m, b]
  rfl

theorem statusStep_trap {s : State} {maj min : Nat} {f : LaneR} {i : Issue} (h : LaneAt s maj min (.r f) i)
    {check : Issue → State → Check} {val : Issue → State → Nat} (m : i.mask ≠ 0) {e : Nat × Nat} (c : check i s = some e) :
    statusStep s maj min f check val = .next (i.trapCheck s e) := by
  rw [statusStep, laneStep_at h, if_neg m, c]

/-! ## Handles -/

theorem hwait_check {i : Issue} {s : State} (ha : i.opA s < 256) (hb0 : 0 < i.opB s) (hb : i.opB s < 16)
    (hm : (s.ccOf i.ctx i.core).share.handles.contains (i.opA s) = true) :
    firstCheck [raiseIf (256 ≤ i.opA s || i.opB s % 2 ^ 32 == 0 || 16 ≤ i.opB s) 0x21,
      numCheck (i.opA s) 256 (s.ccOf i.ctx i.core).share.handles] = none := by
  rw [raiseIf_false (by simp; omega), numCheck_pass ha hm]
  rfl

theorem hwaitWaits_eq (i : Issue) (s : State) :
    i.hwaitWaits s = !(i.opB s).testBit (handleOf s i.ctx i.core (i.opA s)).state := by
  rw [Issue.hwaitWaits, Nat.testBit_eq_decide_div_mod_eq]
  rcases Nat.mod_two_eq_zero_or_one (i.opB s / 2 ^ (handleOf s i.ctx i.core (i.opA s)).state) with h | h <;> rw [h] <;> rfl

theorem hrel_check {i : Issue} {s : State} (ha : i.opA s < 256) (hb : i.opB s < 2)
    (hm : (s.ccOf i.ctx i.core).share.handles.contains (i.opA s) = true) :
    let st := (handleOf s i.ctx i.core (i.opA s)).state
    firstCheck [raiseIf (256 ≤ i.opA s || 2 ≤ i.opB s) 0x21, numCheck (i.opA s) 256 (s.ccOf i.ctx i.core).share.handles,
      raiseIf (!(st == 2 || (st == 3 && i.opB s == 1))) 0x2A] =
      if st = 2 ∨ st = 3 ∧ i.opB s = 1 then none else some (0x2A, 0) := by
  intro st
  rw [raiseIf_false (by simp; omega), numCheck_pass ha hm]
  have hset : (st == 2 || (st == 3 && i.opB s == 1)) = true ↔ st = 2 ∨ st = 3 ∧ i.opB s = 1 := by simp
  by_cases h : st = 2 ∨ st = 3 ∧ i.opB s = 1
  · rw [if_pos h, raiseIf_false (by rw [hset.mpr h]; rfl)]
    rfl
  · rw [if_neg h, raiseIf_true (by rw [Bool.eq_false_iff.mpr fun e => h (hset.mp e)]; rfl)]
    rfl

section
variable {s : State} {i : Issue} {f : LaneR} (h : LaneAt s 0x35 2 (.r f) i) (hm : i.mask ≠ 0)
include h hm

theorem hstat_of (hc : numCheck (i.opA s) 256 (s.ccOf i.ctx i.core).share.handles = none)
    {v : List (Nat × Nat)} (hv : v = List.replicate 96 ((handleOf s i.ctx i.core (i.opA s)).word, 0)) (hr : i.Ready s v) :
    execVHstat f s = .next (i.commit s v) := by
  subst hv
  unfold execVHstat
  exact statusStep_at (val := fun i s => (handleOf s i.ctx i.core (i.opA s)).word) h hm hc hr

theorem hstat_trap {c : Nat} (hc : numCheck (i.opA s) 256 (s.ccOf i.ctx i.core).share.handles = some (c, 0)) :
    execVHstat f s = .next (i.trap s c) := by
  unfold execVHstat
  rw [statusStep_trap h hm hc]
  rfl

end

/-- Settles O35: the three instructions are `engineStep` and `statusStep` with the checks above. -/
theorem handleInstructions : Obligations.HandleInstructions := by
  intro s i f hm a b hd mine status
  refine ⟨fun h ha hb0 hb hmine => ⟨fun ht => ?_, fun ht => ?_⟩, fun h ha hb hmine => ⟨fun hst => ?_, fun hst => ?_⟩,
    fun h ha hmine hr => ?_, fun h ha => ?_, fun h ha hmine => ?_⟩
  · exact (exec_vHwait f s).trans
      (engineStep_at h hm rfl (hwait_check ha hb0 hb hmine) ((hwaitWaits_eq i s).trans (by rw [ht]; rfl)))
  · exact (exec_vHwait f s).trans
      (engineStep_wait h hm rfl (hwait_check ha hb0 hb hmine) ((hwaitWaits_eq i s).trans (by rw [ht]; rfl)))
  · have hsame := SameEngines.retire i (moveHandle s i.ctx i.core a { hd with state := if b = 0 then 3 else 0 }) 1
    refine ⟨i.retire (moveHandle s i.ctx i.core a { hd with state := if b = 0 then 3 else 0 }), ?_,
      (hsame.handleOf a).trans (handleOf_moveHandle_self ..),
      fun n hn => (hsame.handleOf n).trans (handleOf_moveHandle_ne _ _ _ _ _ hn), fun n => (hsame.readPA n).trans ?_⟩
    · exact (exec_vHrel f s).trans (engineStep_at h hm rfl ((hrel_check ha hb hmine).trans (if_pos hst)) rfl)
    · unfold State.readPA
      rw [moveHandle_mem]
  · rw [exec_vHrel, execVHrel, engineStep_trap h hm rfl ((hrel_check ha hb hmine).trans (if_neg hst))]
    rfl
  · have hstatus : status = List.replicate 96 (hd.word, 0) := by
      unfold Handle.word
      rfl
    exact (exec_vHstat f s).trans (hstat_of h hm (numCheck_pass ha hmine) hstatus hr)
  · exact (exec_vHstat f s).trans (hstat_trap h hm (numCheck_large ha))
  · exact (exec_vHstat f s).trans (hstat_trap h hm (numCheck_foreign ha hmine))

end Sys2Proof.Machine
end

section
/-! Circular buffers, matrix commands, routes and cstart at issue (O36 to O38). -/

namespace Sys2Proof.Machine

open Sys2Proof State

/-! ## Circular buffers -/

section
variable (s : State) (c k n : Nat) (x : CBuf)

theorem cbOf_putCB_self : cbOf (putCB s c k n x) c k n = x := by
  unfold cbOf putCB
  rw [State.modCC, ccOf_putCC_self]
  exact Tbl.getOr_put_self ..

theorem cbOf_putCB_ne {m : Nat} (h : m ≠ n) : cbOf (putCB s c k n x) c k m = cbOf s c k m := by
  unfold cbOf putCB
  rw [State.modCC, ccOf_putCC_self]
  exact Tbl.getOr_put_ne _ _ _ h

end

theorem CBuf.four_mul_rowSize_div (x : CBuf) : 4 * (x.rowSize / 4) = x.rowSize := by
  unfold CBuf.rowSize
  omega

/-- A producer writes to the row it has reserved last where no earlier row is its own. -/
theorem CBuf.fillRow_last {size id : Nat} {bs : List Byte} (hsize : size ≤ bs.length) {rows : List Row} (h : ∀ r ∈ rows, r.owner ≠ id) :
    fillRow size id bs (rows ++ [{ bytes := [], present := false, owner := id }]) = rows ++ [Row.mk bs true id] := by
  induction rows with
  | nil => simp [fillRow, hsize]
  | cons r rows ih =>
    obtain ⟨hr, hrows⟩ := List.forall_mem_cons.mp h
    rw [List.cons_append, fillRow, if_neg fun e => hr e.1, ih hrows, List.cons_append]

theorem CBuf.reserve_write {x : CBuf} {id : Nat} {bs : List Byte} (hsize : x.rowSize ≤ bs.length) (h : ∀ r ∈ x.rows, r.owner ≠ id) :
    (x.reserve 1 id).write id bs = { x with rows := x.rows ++ [Row.mk bs true id] } :=
  congrArg (fun rows => { x with rows := rows }) (fillRow_last hsize h)

/-- The bytes of one lane row of a buffer fill it. -/
theorem CBuf.lanes_length (x : CBuf) (v : Nat → Nat) :
    ((List.range (x.rowSize / 4)).flatMap fun l => toBytes 4 (v l)).length = x.rowSize := by
  rw [List.length_flatMap, ← x.four_mul_rowSize_div]
  simp [toBytes, leBytes_eq_map, Nat.mul_comm]

section
variable {s : State} {i : Issue} (hA : i.opA s < 16) (hM : (s.ccOf i.ctx i.core).share.cbufs.contains (i.opA s) = true)
include hA hM

/-- The checks of a cbset of a granted buffer: its configuration, then whether it is idle. -/
theorem cbset_check :
    firstCheck [numCheck (i.opA s) 16 (s.ccOf i.ctx i.core).share.cbufs,
      raiseIf (cbConfigBad s i.ctx i.core (i.opA s) (i.opB s)) 0x27, raiseIf (cbBusy s i.ctx i.core (i.opA s)) 0x28] =
    if cbConfigBad s i.ctx i.core (i.opA s) (i.opB s) then some (0x27, 0)
    else if cbBusy s i.ctx i.core (i.opA s) then some (0x28, 0) else none := by
  rw [numCheck_pass hA hM, firstCheck_pass]
  cases cbConfigBad s i.ctx i.core (i.opA s) (i.opB s) <;> cases cbBusy s i.ctx i.core (i.opA s) <;> rfl

theorem cbRowChecks_pass (he : (cbOf s i.ctx i.core (i.opA s)).en = true) (hr : (cbOf s i.ctx i.core (i.opA s)).rowSize ≤ 384) : cbRowChecks i s = none := by
  unfold cbRowChecks
  dsimp only
  rw [numCheck_pass hA hM, raiseIf_false (by rw [he]; rfl), raiseIf_false (decide_eq_false (Nat.not_lt.mpr hr))]
  rfl

end

/-- The fills of an instruction's destination leave the engines alone. -/
theorem startFills_engines (i : Issue) (s : State) (memo : Option (List Nat)) :
    SameEngines s (i.startFills s memo).1 i.ctx i.core := by
  obtain ⟨m, sh, he⟩ := Issue.startFills_eq i s memo
  rw [he]
  exact SameEngines.foldl (i.fillStep m sh)
    (fun a e => SameEngines.openFill a.1 i.ctx i.core i.slot e.1 (e.2 == 1) i.lanes false i.x.handler m sh) i.dstNames.zipIdx (s, [])

/-- The pop that an accepted cbpop queues. -/
def Issue.takenPop (i : Issue) (buf : Nat) (fills : List Nat) (cc : CtxCore) : CtxCore :=
  { cc with nextCmd := cc.nextCmd + 1,
            pops := cc.pops ++ [PopCmd.mk cc.nextCmd buf i.slot i.x.uid i.slices i.lanes fills] }

theorem cbpop_queues {s : State} {i : Issue} {f : LaneR} (h : LaneAt s 0x31 2 (.r f) i) (hm : i.mask ≠ 0) (buf : Nat) :
    let u := (i.startFills s none).1
    let fills := (i.startFills s none).2
    let t := i.retire (u.modCC i.ctx i.core (i.takenPop buf fills))
    ∃ y, t.snd? i.ctx i.core i.slot = some y ∧ (∀ n ∈ i.dstNames, y.isEmpty n = true) ∧
      (t.ccOf i.ctx i.core).pops =
        (s.ccOf i.ctx i.core).pops ++ [PopCmd.mk (s.ccOf i.ctx i.core).nextCmd buf i.slot i.x.uid i.slices i.lanes fills] := by
  intro u fills t
  obtain ⟨-, y, hy, -, hempty⟩ := Issue.startFills_same i s none i.x h.snd hm
  have hsame := startFills_engines i s none
  have hsnd : (u.modCC i.ctx i.core (i.takenPop buf fills)).snd? i.ctx i.core i.slot = some y := by
    unfold State.snd? State.modCC
    rw [ccOf_putCC_self]
    exact hy
  refine ⟨i.retired 1 y, Issue.retire_snd hsnd 1, hempty, ?_⟩
  refine (SameEngines.retire i _ 1).pops.trans ?_
  rw [State.modCC, ccOf_putCC_self, ← hsame.pops, ← hsame.nextCmd]
  rfl

/-- Settles O36: the four instructions are `engineStep` and `statusStep` with the checks above. -/
theorem circularBufferInstructions : Obligations.CircularBufferInstructions := by
  intro s i f hm a b cc x row status ha hmine
  refine ⟨fun h hb => ⟨fun hbad => ?_, fun hok hbusy => ?_, fun hok hidle => ?_⟩, fun h hb => ?_,
    fun h hb he hr => ⟨fun hfree => ?_, fun hfree hturn howner => ?_⟩, fun h hb he hr hroom => ?_, fun h hready => ?_⟩
  · rw [exec_vCbset, execVCbset, engineStep_trap h hm hb ((cbset_check ha hmine).trans (if_pos hbad))]
    rfl
  · rw [exec_vCbset, execVCbset, engineStep_trap h hm hb
      ((cbset_check ha hmine).trans ((if_neg (ne_true_of_eq_false hok)).trans (if_pos hbusy)))]
    rfl
  · let y : CBuf := { cfg := if b % 2 ^ 32 / 2 ^ 31 = 1 then b % 2 ^ 32 else 0, rows := [], claimed := 0 }
    have hsame := SameEngines.retire i (putCB s i.ctx i.core a y) 1
    refine ⟨i.retire (putCB s i.ctx i.core a y), ?_, (hsame.cbOf a).trans (cbOf_putCB_self ..),
      fun n hn => (hsame.cbOf n).trans (cbOf_putCB_ne _ _ _ _ _ hn)⟩
    rw [exec_vCbset, execVCbset, engineStep_at h hm hb ((cbset_check ha hmine).trans
      ((if_neg (ne_true_of_eq_false hok)).trans (if_neg (ne_true_of_eq_false hidle)))) rfl]
    rfl
  · rw [exec_vCbset, execVCbset, engineStep_busy h hm hb]
  · rw [exec_vCbpush, execVCbpush, engineStep_wait h hm hb (cbRowChecks_pass ha hmine he hr)
      (by rw [Issue.cbpushWaits, show (cbOf s i.ctx i.core (i.opA s)).free = 0 from hfree]; rfl)]
  · have hwait : i.cbpushWaits s = false := by
      rw [Issue.cbpushWaits, show producerTurn (s.ccOf i.ctx i.core) (i.opA s) (s.ccOf i.ctx i.core).nextCmd = true from hturn]
      simpa using hfree
    let u := s.modCC i.ctx i.core fun cc => { cc with nextCmd := cc.nextCmd + 1 }
    have hsame := SameEngines.retire i (putCB u i.ctx i.core a ((x.reserve 1 cc.nextCmd).write cc.nextCmd row)) 1
    refine ⟨i.retire (putCB u i.ctx i.core a ((x.reserve 1 cc.nextCmd).write cc.nextCmd row)), ?_,
      (hsame.cbOf a).trans ((cbOf_putCB_self ..).trans (CBuf.reserve_write (Nat.le_of_eq (x.lanes_length _).symm) howner))⟩
    rw [exec_vCbpush, execVCbpush, engineStep_at h hm hb (cbRowChecks_pass ha hmine he hr) hwait]
    rfl
  · obtain ⟨y, hy, hempty, hpops⟩ := cbpop_queues h hm a
    refine ⟨i.retire ((i.startFills s none).1.modCC i.ctx i.core (i.takenPop a (i.startFills s none).2)), y, _, ?_, hy, hempty, hpops⟩
    rw [exec_vCbpop, execVCbpop, engineStep_at h hm hb (cbRowChecks_pass ha hmine he hr) (by rw [hroom]; rfl)]
    rfl
  · rw [exec_vCbstat, execVCbstat]
    exact statusStep_at h hm (numCheck_pass ha hmine) hready

/-! ## Matrix commands -/

theorem firstCheck_fail {e : Nat × Nat} {r : List Check} : firstCheck (some e :: r) = some e := rfl

section
variable {s : State} {i : Issue} {f : LaneR} {min : Nat} {k : MatKind} (h : LaneAt s 0x32 min (.r f) i) (hm : i.mask ≠ 0)
  (hahead : (k.readsPad && i.ahead) = false) (hbusy : matBusy s i.core i.ctx (i.matCmdOf s k) (some (i.opB s)) = false)
include h hm hahead hbusy

theorem matStep_queue : matStep s min k f = .next (i.engineQueue s false (i.matCheck s k) (.mat (i.matCmdOf s k))) := by
  refine (laneStep_at h _).trans (congrArg _ ((if_neg hm).trans ((if_neg ?_).trans (by rw [hbusy]))))
  rw [Bool.and_assoc, hahead, Bool.and_false]
  exact Bool.false_ne_true

theorem matStep_trap (hp : i.passed = none) {e : Nat × Nat} (he : i.matCheck s k = some e) :
    matStep s min k f = .next (i.trap s e.1 (addr := e.2)) := by
  rw [matStep_queue h hm hahead hbusy, he, engineQueue_trap hp]
  rfl

end

theorem matBusy_operands {s : State} {core ctx a : Nat} {m : MatCmd} (h : matBusy s core ctx m (some a) = false) :
    matBusy s core ctx m none = false := by
  unfold matBusy at h ⊢
  rw [Bool.or_eq_false_iff] at h
  rw [Bool.or_false]
  exact h.1

/-- A context's share of a core once a command has taken its place in the array order. -/
def CtxCore.joined (cc : CtxCore) (m : MatCmd) : CtxCore :=
  { cc with array := cc.array ++ [{ m with id := cc.nextCmd }], nextCmd := cc.nextCmd + 1,
            tiles := match m.tile with
                     | some t => cc.tiles.put t { cc.tiles.getOr Tile.reset t with inflight := (cc.tiles.getOr Tile.reset t).inflight + 1 }
                     | none => cc.tiles }

/-- A command that joins the array order advances INFLIGHT of the tile it names, and of no other. -/
theorem joined_inflight (cc : CtxCore) (m : MatCmd) (n : Nat) :
    ((cc.joined m).tiles.getOr Tile.reset n).inflight =
      (cc.tiles.getOr Tile.reset n).inflight + if m.tile = some n then 1 else 0 := by
  unfold CtxCore.joined
  cases htile : m.tile with
  | none => rw [if_neg nofun]; rfl
  | some t =>
    dsimp only
    by_cases hn : n = t
    · rw [hn, Tbl.getOr_put_self, if_pos rfl]
    · rw [Tbl.getOr_put_ne _ _ _ hn, if_neg fun e => hn (Option.some.inj e).symm]
      rfl

theorem joinArray_cc (s : State) (c k : Nat) (m : MatCmd) : (joinArray s c k m).ccOf c k = (s.ccOf c k).joined m :=
  ccOf_putCC_self ..

theorem matStep_of {ins : Instr} {min : Nat} {k : MatKind} {f : LaneR}
    (h : (ins, min, k) ∈ [(.vMldw f, 0, MatKind.mldw), (.vMswap f, 1, .mswap), (.vMstream f, 2, .mstream), (.vMdrain f, 3, .mdrain),
      (.vMclear f, 4, .mclear), (.vMperm f, 5, .mperm)]) (s : State) : exec ins s = matStep s min k f := by
  have hall : ∀ x ∈ [(Instr.vMldw f, 0, MatKind.mldw), (.vMswap f, 1, .mswap), (.vMstream f, 2, .mstream), (.vMdrain f, 3, .mdrain),
      (.vMclear f, 4, .mclear), (.vMperm f, 5, .mperm)], exec x.1 s = matStep s x.2.1 x.2.2 f := by
    simp only [List.forall_mem_cons]
    exact ⟨exec_vMldw f s, exec_vMswap f s, exec_vMstream f s, exec_vMdrain f s, exec_vMclear f s, exec_vMperm f s,
      List.forall_mem_nil _⟩
  exact hall _ h

/-- Settles O37: each matrix instruction is `matStep`, and an accepted command leaves `CtxCore.joined`. -/
theorem matrixCommandsJoinArray : Obligations.MatrixCommandsJoinArray := by
  intro s i f ins min k hins h hm hahead hp cc cmd hbusy
  rw [matStep_of hins]
  refine ⟨fun e he => ?_, fun hc e he => ?_, fun hc hplace hhold => ?_, fun hc hplace hroom hhold => ?_⟩
  · exact matStep_trap h hm hahead hbusy hp (by rw [Issue.matCheck, he]; rfl)
  · exact matStep_trap h hm hahead hbusy hp (by rw [Issue.matCheck, hc, show matPlace (s.ccOf i.ctx i.core) (i.matCmdOf s k) = some e from he]; rfl)
  all_goals
    have hpass : i.matCheck s k = none := by
      rw [Issue.matCheck, hc, show matPlace (s.ccOf i.ctx i.core) (i.matCmdOf s k) = none from hplace]
      rfl
    rw [matStep_queue h hm hahead hbusy, hpass]
  · rw [engineQueue_hold hp hhold]
    rfl
  · have hwait : i.cmdWaits s (.mat cmd) = false := by
      rw [Issue.cmdWaits, matBusy_operands hbusy, Bool.or_false]
      exact decide_eq_false (Nat.not_le.mpr (Nat.lt_succ_of_le hroom))
    have hsame := SameEngines.retire i (joinArray s i.ctx i.core cmd) 1
    have hcc := joinArray_cc s i.ctx i.core cmd
    refine ⟨i.retire (joinArray s i.ctx i.core cmd), congrArg _ (engineQueue_at hp hhold hwait 1), ?_, ?_, rfl, rfl, rfl, fun n => ?_,
      ?_, ?_, ?_, hsame.readPA⟩
    all_goals rw [hsame.cc, hcc]
    · rfl
    · rfl
    · exact joined_inflight cc cmd n
    all_goals rfl

/-! ## Routes and collective starts -/

/-- What an accepted route leaves: its handle filling, its command at the end of its die's queue, and memory as it was. -/
theorem acceptRoute_queues (s : State) (q : EngReq) (c : Nat) (p : RoutePar) (l : Layout) :
    let t := acceptRoute s q c p l
    handleOf t q.ctx q.core (c % 256) = { state := 1, bytes := 0, err := 0 } ∧ t.pmem = s.pmem ∧
    ∃ cmd, t.routeQ.getOr [] (dieOf q.core) = s.routeQ.getOr [] (dieOf q.core) ++ [cmd] ∧
      cmd.ctl = c ∧ cmd.handle = c % 256 ∧ cmd.ctx = q.ctx ∧ cmd.core = q.core ∧ cmd.k = p.k ∧ cmd.score = l := by
  refine ⟨handleOf_moveHandle_self .., moveHandle_mem s q.ctx q.core (c % 256) { state := 1, bytes := 0, err := 0 }, ?_⟩
  unfold acceptRoute
  dsimp only
  rw [Tbl.getOr_put_self, moveHandle_routes]
  exact ⟨_, rfl, rfl, rfl, rfl, rfl, rfl, rfl⟩

theorem routeCmd_readable {i : Issue} {s : State} (h : padBad s i.ctx i.core (i.opB s) 64 = none)
    (hs : padBad s i.ctx i.core (routeRecs s i.req (i.opB s)).1.srec 128 = none) :
    i.routeCmd s = .route (i.opA s) (routeRecs s i.req (i.opB s)).1 (routeRecs s i.req (i.opB s)).2 := by
  unfold Issue.routeCmd
  rw [h, hs]

theorem find_modify_self {α : Type} (t : Tbl α) (k : Nat) (f : α → α) : (t.modify k f).find k = (t.find k).map f := by
  unfold Tbl.modify
  cases h : t.find k with
  | none => exact h
  | some a => exact Tbl.find_put_self ..

theorem find_modify_ne {α : Type} (t : Tbl α) {k m : Nat} (f : α → α) (h : m ≠ k) : (t.modify k f).find m = t.find m := by
  unfold Tbl.modify
  cases t.find k with
  | none => rfl
  | some a => exact Tbl.find_put_ne _ _ h

theorem entry_modEntry {s : State} {c n : Nat} {e : CollEntry} (f : CollEntry → CollEntry) (h : s.entry? c n = some e) :
    (s.modEntry c n f).entry? c n = some (f e) := by
  obtain ⟨x, hx, he⟩ := Option.bind_eq_some_iff.mp h
  refine Option.bind_eq_some_iff.mpr ⟨_, (find_modify_self ..).trans (congrArg _ hx), ?_⟩
  exact (find_modify_self ..).trans (congrArg _ he)

/-- A part that has started and owes no arrival is left as it stands. -/
theorem settleOwed_started {s : State} {c n m : Nat} {e : CollEntry} (h : s.entry? c n = some e) (hs : (e.part m).started = true)
    (ho : (e.part m).owed.contains (e.part m).inst = false) : settleOwed s c n m = s := by
  have hstart : startByStore s c n m = s := by
    unfold startByStore
    rw [h]
    dsimp only
    split
    · rfl
    · rw [if_pos (by rw [hs]; rfl)]
  unfold settleOwed
  rw [h]
  dsimp only
  unfold settleParts
  rw [hstart]
  dsimp only
  rw [h]
  dsimp only
  rw [ho, Bool.and_false]
  rfl

/-- A member's part as a cstart of issue `i` starts it. -/
def Issue.startedPart (i : Issue) (c src dst : Nat) (p : Part) : Part :=
  { p with started := true, src := src, dst := dst, ctl := c, bar := i.req.core * 2 ^ 9 + c % 2 ^ 9, snd := i.req.uid,
           slices := i.req.slices, wid := i.req.wid, after := if ctlAcq c then i.req.seq else 0, since := i.req.since,
           core := i.req.core }

/-- What a cstart makes of its entry. -/
def Issue.startEntry (i : Issue) (s : State) (c src dst : Nat) (e : CollEntry) : CollEntry :=
  match startMember i s e with
  | none => e
  | some m => { e with parts := e.parts.put m (i.startedPart c src dst (e.parts.getOr Part.reset m)) }

theorem startPart_eq (s : State) (i : Issue) (c n src dst : Nat) :
    startPart s i i.req c n src dst =
      settleOwed (s.modEntry i.ctx n (i.startEntry s c src dst)) i.ctx n (((s.entry? i.ctx n).bind (startMember i s)).getD 0) := rfl

/-- A cstart starts its member's part, where no arrival of that part is owed. -/
theorem startPart_of {s : State} {i : Issue} {c n src dst m : Nat} {e : CollEntry} (h : s.entry? i.ctx n = some e)
    (hm : startMember i s e = some m) (ho : (e.part m).owed.contains (e.part m).inst = false) :
    startPart s i i.req c n src dst = s.modEntry i.ctx n (i.startEntry s c src dst) ∧
      (s.modEntry i.ctx n (i.startEntry s c src dst)).entry? i.ctx n =
        some { e with parts := e.parts.put m (i.startedPart c src dst (e.part m)) } := by
  have hentry : (s.modEntry i.ctx n (i.startEntry s c src dst)).entry? i.ctx n =
      some { e with parts := e.parts.put m (i.startedPart c src dst (e.part m)) } := by
    rw [entry_modEntry _ h, Issue.startEntry, hm]
    rfl
  have hpart : CollEntry.part { e with parts := e.parts.put m (i.startedPart c src dst (e.part m)) } m =
      i.startedPart c src dst (e.part m) := Tbl.getOr_put_self ..
  refine ⟨?_, hentry⟩
  rw [startPart_eq, h, Option.bind_some, hm]
  exact settleOwed_started hentry (by rw [Option.getD_some, hpart]; rfl) (by rw [Option.getD_some, hpart]; exact ho)

theorem route_issue {s : State} {i : Issue} {f : LaneR} (h : LaneAt s 0x33 0 (.r f) i) (hm : i.mask ≠ 0) (hb : i.routeBanks s = false) :
    exec (.vRoute f) s = .next (i.engineQueue s false (routeChecks s i.req (i.opA s) (i.opB s)) (i.routeCmd s)) :=
  (laneStep_at h _).trans (congrArg _ ((if_neg hm).trans (by rw [hb])))

theorem cstart_issue {s : State} {i : Issue} {f : LaneR} (h : LaneAt s 0x34 0 (.r f) i) (hm : i.mask ≠ 0) :
    exec (.vCstart f) s =
      .next (i.engineQueue s false (cstartChecks i s) (.start (i.opA s) (i.opB s) (i.opC s) (i.opD s))) :=
  (laneStep_at h _).trans (congrArg _ (if_neg hm))

/-- Settles O38: route and cstart are `Issue.engineQueue`, accepted by `acceptRoute` and `startPart`. -/
theorem routeAndCstartAccepted : Obligations.RouteAndCstartAccepted := by
  intro s i f hm hp c recs
  refine ⟨fun h hb => ⟨fun e he => ?_, fun hc hhold => ?_, fun hc hhold hpar hrec hwait => ?_⟩,
    fun h => ⟨fun e he => ?_, fun hc hhold => ?_, fun hc hhold e m he hmem hidle howed => ?_⟩⟩
  · rw [route_issue h hm hb, he, engineQueue_trap hp]
    rfl
  · rw [route_issue h hm hb, hc, engineQueue_hold hp hhold]
  · obtain ⟨hhandle, hpm, cmd, hq, hcmd⟩ := acceptRoute_queues s i.req c recs.1 recs.2
    have hsame := SameEngines.retire i (acceptRoute s i.req c recs.1 recs.2) 1
    obtain ⟨hctl, hh, hctx, hcore, hk, hscore⟩ := hcmd
    refine ⟨i.retire (acceptRoute s i.req c recs.1 recs.2), cmd, ?_, (hsame.handleOf _).trans hhandle, ?_, hctl, hh, hctx, hcore, hk,
      hscore, fun n => (hsame.readPA n).trans ?_⟩
    · rw [route_issue h hm hb, hc, routeCmd_readable hpar hrec, engineQueue_at (cmd := .route c recs.1 recs.2) hp hhold hwait]
      rfl
    · rw [hsame.routes]
      exact hq
    · unfold State.readPA
      rw [hpm]
  · rw [cstart_issue h hm, he, engineQueue_trap hp]
    rfl
  · rw [cstart_issue h hm, hc, engineQueue_hold hp hhold]
  · obtain ⟨hstart, hentry⟩ := startPart_of (c := c) (src := i.opC s) (dst := i.opD s) he hmem howed
    have hwait : i.cmdWaits s (.start c (i.opB s) (i.opC s) (i.opD s)) = false := by
      unfold Issue.cmdWaits
      dsimp only
      rw [he, Option.bind_some, hmem]
      exact hidle
    refine ⟨i.retire (s.modEntry i.ctx (i.opB s) (i.startEntry s c (i.opC s) (i.opD s))), _, i.startedPart c (i.opC s) (i.opD s) (e.part m),
      ?_, ((SameEngines.retire i _ 1).entry? _).trans hentry, Tbl.find_put_self .., rfl, rfl, rfl, rfl, rfl, rfl,
      fun n hn => Tbl.find_put_ne _ _ hn, (SameEngines.retire i _ 1).readPA⟩
    rw [cstart_issue h hm, hc, engineQueue_at hp hhold hwait]
    exact congrArg (fun t => Host.Outcome.next (i.retire t)) hstart

end Sys2Proof.Machine
end

section
/-! The programs of the port engines (O39 to O42). -/

namespace Sys2Proof.Machine

open Sys2Proof State

/-- A word does what its meaning says for the thread that runs it. -/
theorem mcfStep_congr {s : State} {port ctx cid : Nat} {e : CollEntry} {t : Thread} (h : McfAt s port ctx cid e t)
    {f g : Nat → Nat → Nat → CollEntry → Thread → McfRes} (hfg : f port ctx cid e t = g port ctx cid e t) :
    mcfStep s f = mcfStep s g := by
  simp only [mcfStep, h.cur, h.entry, h.thread, h.ok, hfg]

theorem mcfStep_fault {s : State} {port ctx cid : Nat} {e : CollEntry} {t : Thread} (h : McfAt s port ctx cid e t)
    {f : Nat → Nat → Nat → CollEntry → Thread → McfRes} {u : State} {m c d a : Nat} (r : f port ctx cid e t = .fault u m c d a) :
    mcfStep s f = .next (threadFault u port ctx cid e t m c d a) := by
  simp only [mcfStep, h.cur, h.entry, h.thread, h.ok, r]

/-! ## Registers and branches -/

theorem Thread.setReg_adv (t : Thread) (d : BitVec 4) (v : Word) :
    (t.setReg d v).adv = { t with x := if d = 0 then t.x else t.x.setOr 0 d.toNat v, pc := t.pc + 1 } := by
  unfold Thread.setReg Thread.adv
  by_cases h : d = 0
  · rw [if_pos h, if_pos h]
  · rw [if_neg h, if_neg h]

section
variable {s : State} {port ctx cid : Nat} {e : CollEntry} {t : Thread} (h : McfAt s port ctx cid e t)
include h

theorem mcfReg_next (d : BitVec 4) (v : Thread → Word) : mcfReg s d v = .next (s.putThread port ctx cid
    { t with x := if d = 0 then t.x else t.x.setOr 0 d.toNat (v t), pc := t.pc + 1 }) := by
  rw [mcfReg_at h, Thread.setReg_adv]

/-- A branch whose condition decides a proposition. -/
theorem mcfBranch_iff (off : BitVec 32) {c : Thread → Bool} {P : Prop} [Decidable P] (hc : c t = decide P) :
    mcfBranch s off c = .next (if P then s.putThread port ctx cid { t with pc := (BitVec.ofNat 64 t.pc + off.signExtend 64).toNat }
      else s.putThread port ctx cid { t with pc := t.pc + 1 }) := by
  rw [mcfBranch_at h, hc]
  by_cases hP : P
  · rw [if_pos hP, decide_eq_true hP]
    rfl
  · rw [if_neg hP, decide_eq_false hP]
    rfl

/-- A branch whose condition is the negation of a decided proposition. -/
theorem mcfBranch_iff_not (off : BitVec 32) {c : Thread → Bool} {P : Prop} [Decidable P] (hc : c t = !decide P) :
    mcfBranch s off c = .next (if P then s.putThread port ctx cid { t with pc := t.pc + 1 }
      else s.putThread port ctx cid { t with pc := (BitVec.ofNat 64 t.pc + off.signExtend 64).toNat }) := by
  rw [mcfBranch_iff h off (P := ¬ P) (hc.trans (decide_not ..).symm), ite_not]

end

/-- Settles O39: the register words are `mcfReg`, the branches `mcfBranch` on a decided relation. -/
theorem mcfRegistersAndBranches : Obligations.McfRegistersAndBranches := by
  refine ⟨fun s port ctx cid e t d a b im h => ?_, fun s port ctx cid e t a b off h => ?_⟩
  · have hreg := fun v => mcfReg_next h d v
    intro p q put
    exact ⟨rfl, hreg _, hreg _, hreg _, hreg _, hreg _, hreg _, hreg _, hreg _, hreg _, hreg _⟩
  · intro p q taken next
    refine ⟨mcfBranch_at h off _, mcfBranch_iff h off ?_, mcfBranch_iff_not h off ?_, mcfBranch_iff h off rfl,
      mcfBranch_iff_not h off rfl, mcfBranch_iff h off rfl, mcfBranch_iff_not h off rfl⟩
    · exact beq_eq_decide ..
    · exact congrArg not (beq_eq_decide ..)

/-! ## Packets -/

theorem Thread.setReg_pc (t : Thread) (d : BitVec 4) (v : Word) : (t.setReg d v).pc = t.pc := by
  unfold Thread.setReg
  by_cases h : d = 0
  · rw [if_pos h]
  · rw [if_neg h]

theorem Thread.setReg_next (t : Thread) (d : BitVec 4) (v : Word) : (t.setReg d v).adv = { t.setReg d v with pc := t.pc + 1 } := by
  unfold Thread.adv
  rw [Thread.setReg_pc]

theorem Thread.matched_uncut {t : Thread} {d : BitVec 4} {v : Word} (h : t.cut = none) :
    t.matched d v = { { t with matchEnd := none }.setReg d v with pc := t.pc + 1 } := by
  have hcut : { t with matchEnd := none, cut := none } = { t with matchEnd := none } := by rw [← h]
  rw [Thread.matched, hcut, Thread.setReg_next]

section
variable {s : State} {port ctx cid : Nat} {e : CollEntry} {t : Thread} (h : McfAt s port ctx cid e t)
include h

theorem match_full {d : BitVec 4} {pk : BitVec 2} {kinds : BitVec 5} {tmo : BitVec 32} {k : PkReg} (hk : t.pk.find pk.toNat = some k) :
    execMMatch d pk kinds tmo s = .next (progError s port ctx cid e t) :=
  mcfStep_error h (if_pos (by rw [hk]; rfl))

theorem match_takes {d : BitVec 4} {pk : BitVec 2} {kinds : BitVec 5} {tmo : BitVec 32} (hk : t.pk.find pk.toNat = none)
    {p : Packet} {r : List Packet} (ht : takeKind kinds t.inTime = some (p, r)) (hcut : t.cut = none) :
    execMMatch d pk kinds tmo s = .next (s.putThread port ctx cid
      { { t with rq := r, pk := t.pk.put pk.toNat { pkt := p, fresh := false }, matchEnd := none }.setReg d 0 with pc := t.pc + 1 }) := by
  refine (mcfStep_at h (u := s) (t' := _) ((if_neg (by rw [hk]; exact nofun)).trans ?_))
  rw [ht]
  dsimp only
  rw [hcut, List.append_nil]
  exact congrArg (McfRes.next s) (Thread.matched_uncut rfl)

theorem match_waits {d : BitVec 4} {pk : BitVec 2} {kinds : BitVec 5} {tmo : BitVec 32} (hk : t.pk.find pk.toNat = none)
    (ht : takeKind kinds t.inTime = none) (htmo : tmo = 0) :
    execMMatch d pk kinds tmo s = .next (s.putThread port ctx cid t) := by
  refine mcfStep_wait h ((if_neg (by rw [hk]; exact nofun)).trans ?_)
  rw [ht]
  exact if_pos (.inl htmo)

end

section
variable {s : State} {port ctx cid : Nat} {e : CollEntry} {t : Thread} (h : McfAt s port ctx cid e t)
include h

theorem rdh_reads {d : BitVec 4} {pk : BitVec 2} {fld : BitVec 3} {k : PkReg} (hk : t.pk.find pk.toNat = some k) :
    execMRdh d pk fld s = .next (s.putThread port ctx cid { t.setReg d (BitVec.ofNat 64 (match fld.toNat with
        | 0 => k.pkt.member | 1 => k.pkt.chunk | 2 => k.pkt.inst | 3 => k.pkt.kind | 4 => k.pkt.payload.length | 5 => k.pkt.srcpkg
        | _ => if k.fresh then 1 else 0)) with pc := t.pc + 1 }) := by
  rw [← Thread.setReg_next]
  exact withPk_at h hk rfl

theorem mark_new {d : BitVec 4} {pk : BitVec 2} {k : PkReg} (hk : t.pk.find pk.toNat = some k)
    (hbit : (t.chunk e port k.pkt.chunk).bits.getLsbD k.pkt.member = false) :
    let c := t.chunk e port k.pkt.chunk
    let u : Thread := { t with chunks := t.chunks.put k.pkt.chunk { c with bits := c.bits ||| (1 : BitVec 64) <<< k.pkt.member },
                               pk := t.pk.put pk.toNat { k with fresh := true } }
    execMMark d pk s = .next (s.putThread port ctx cid { u.setReg d 0 with pc := t.pc + 1 }) := by
  intro c u
  refine (withPk_at (t' := (u.setReg d 0).adv) h hk ?_).trans (by rw [Thread.setReg_next])
  dsimp only
  rw [hbit]
  rfl

theorem mark_old {d : BitVec 4} {pk : BitVec 2} {k : PkReg} (hk : t.pk.find pk.toNat = some k)
    (hbit : (t.chunk e port k.pkt.chunk).bits.getLsbD k.pkt.member = true) :
    let c := t.chunk e port k.pkt.chunk
    let u : Thread := { t with chunks := t.chunks.put k.pkt.chunk { c with bits := c.bits ||| (1 : BitVec 64) <<< k.pkt.member } }
    execMMark d pk s = .next (s.putThread port ctx cid { u.setReg d 1 with pc := t.pc + 1 }) := by
  intro c u
  refine (withPk_at (t' := (u.setReg d 1).adv) h hk ?_).trans (by rw [Thread.setReg_next])
  dsimp only
  rw [hbit]
  rfl

theorem hold_keeps {pk : BitVec 2} {k : PkReg} (hk : t.pk.find pk.toNat = some k) (hkind : k.pkt.kind < 2) (hfresh : k.fresh = true)
    (habs : (t.chunk e port k.pkt.chunk).absent.getLsbD k.pkt.member = false)
    (hroom : (t.chunk e port k.pkt.chunk).hold.length < Config.holdDepth + 3) :
    let c := t.chunk e port k.pkt.chunk
    execMHold pk s = .next ((s.emit (.answer k.pkt.srcpkg 0 0 [])).putThread port ctx cid
      { t with pk := t.pk.del pk.toNat, pc := t.pc + 1,
               chunks := t.chunks.put k.pkt.chunk { c with held := c.held ||| (1 : BitVec 64) <<< k.pkt.member,
                                                           hold := c.hold.put k.pkt.member k.pkt.payload } }) := by
  intro c
  refine withPk_at h hk ?_
  dsimp only
  rw [if_neg (Nat.not_le.mpr hkind), hfresh, if_neg (by exact nofun), habs, if_neg Bool.false_ne_true, if_neg (Nat.not_le.mpr hroom)]
  rfl

end

/-! ## Rows of the member table -/

section
variable {s : State} {port ctx cid : Nat} {e : CollEntry} {t : Thread} (h : McfAt s port ctx cid e t) (d a : BitVec 4)
include h

theorem rdm_outside (fld : BitVec 3) (hm : e.rows.length ≤ (t.reg a).toNat) :
    execMRdm d a fld s = .next (progError s port ctx cid e t) := mcfStep_error h (if_pos hm)

variable {d a} (hm : (t.reg a).toNat < e.rows.length)
include hm

theorem rdm_pkg : execMRdm d a 0 s = .next (s.putThread port ctx cid
    { t.setReg d (BitVec.ofNat 64 (e.row (t.reg a).toNat).pkg) with pc := t.pc + 1 }) := by
  rw [← Thread.setReg_next]
  exact mcfStep_at h (if_neg (Nat.not_le.mpr hm))

theorem rdm_local : execMRdm d a 1 s = .next (s.putThread port ctx cid
    { t.setReg d (if (e.row (t.reg a).toNat).pkg = s.plat.pkgid then 1 else 0) with pc := t.pc + 1 }) := by
  rw [← Thread.setReg_next]
  refine mcfStep_at h ((if_neg (Nat.not_le.mpr hm)).trans ?_)
  have hlocal : e.localTo s.plat.pkgid (t.reg a).toNat = decide ((e.row (t.reg a).toNat).pkg = s.plat.pkgid) := by
    unfold CollEntry.localTo
    rw [decide_eq_true (show (t.reg a).toNat < e.S from hm), Bool.true_and, beq_eq_decide]
  dsimp only
  rw [hlocal]
  by_cases hp : (e.row (t.reg a).toNat).pkg = s.plat.pkgid
  · rw [if_pos hp, decide_eq_true hp]
    rfl
  · rw [if_neg hp, decide_eq_false hp]
    rfl

theorem rdm_buddy : execMRdm d a 2 s = .next (s.putThread port ctx cid
    { t.setReg d (BitVec.ofNat 64 (e.row (t.reg a).toNat).buddy) with pc := t.pc + 1 }) := by
  rw [← Thread.setReg_next]
  exact mcfStep_at h (if_neg (Nat.not_le.mpr hm))

end

/-- What rdm reads of a member's part (Table 3 of 09). -/
def Part.field (p : Part) : Nat → Nat
  | 3 => p.src
  | 4 => p.dst
  | _ => p.bar

theorem Part.field_bar {p : Part} {n : Nat} (h : 5 ≤ n) : p.field n = p.bar := by
  obtain ⟨k, rfl⟩ := Nat.exists_eq_add_of_le' h
  rfl

/-- Fields 3 and up of a local member: 0 of an absent one, its part's once it has started. -/
def localField (s : State) (e : CollEntry) (t : Thread) (d : BitVec 4) (m n : Nat) : McfRes :=
  if e.isAbsent m then .next s (t.setReg d 0).adv
  else if !startedIn e t m then .wait s t
  else .next s (t.setReg d (BitVec.ofNat 64 ((e.partOf t m).field n))).adv

theorem partOf_of {e : CollEntry} {t : Thread} {m : Nat} {p : Part} (h : e.partAt m t.inst = some p) : e.partOf t m = p := by
  unfold CollEntry.partOf
  rw [h]
  rfl

theorem localTo_of {e : CollEntry} {pkg m : Nat} (hm : m < e.rows.length) (hl : (e.row m).pkg = pkg) : e.localTo pkg m = true := by
  unfold CollEntry.localTo
  rw [decide_eq_true (show m < e.S from hm), hl, beq_self_eq_true]
  rfl

section
variable {s : State} {port ctx cid : Nat} {e : CollEntry} {t : Thread} (h : McfAt s port ctx cid e t) {d a : BitVec 4}
  {fld : BitVec 3} (hm : (t.reg a).toNat < e.rows.length) (hl : (e.row (t.reg a).toNat).pkg = s.plat.pkgid) (hf : 3 ≤ fld.toNat)
include h hm hl hf

theorem rdm_field : execMRdm d a fld s = mcfStep s fun _ _ _ _ _ => localField s e t d (t.reg a).toNat fld.toNat := by
  refine mcfStep_congr h ?_
  dsimp only
  rw [if_neg (show ¬ e.S ≤ (t.reg a).toNat from Nat.not_le.mpr hm), localTo_of hm hl]
  generalize fld.toNat = n at hf
  obtain ⟨k, rfl⟩ := Nat.exists_eq_add_of_le' hf
  match k with
  | 0 | 1 | _ + 2 => rfl

theorem rdm_absent (ha : e.isAbsent (t.reg a).toNat = true) :
    execMRdm d a fld s = .next (s.putThread port ctx cid { t.setReg d 0 with pc := t.pc + 1 }) := by
  rw [rdm_field h hm hl hf, ← Thread.setReg_next]
  exact mcfStep_at h (if_pos ha)

theorem rdm_waits (ha : e.isAbsent (t.reg a).toNat = false) (hp : e.partAt (t.reg a).toNat t.inst = none) :
    execMRdm d a fld s = .next (s.putThread port ctx cid t) := by
  rw [rdm_field h hm hl hf]
  exact mcfStep_wait h ((if_neg (ne_true_of_eq_false ha)).trans (if_pos (by rw [startedIn, hp]; rfl)))

theorem rdm_part (ha : e.isAbsent (t.reg a).toNat = false) {p : Part} (hp : e.partAt (t.reg a).toNat t.inst = some p) :
    execMRdm d a fld s =
      .next (s.putThread port ctx cid { t.setReg d (BitVec.ofNat 64 (p.field fld.toNat)) with pc := t.pc + 1 }) := by
  rw [rdm_field h hm hl hf, ← Thread.setReg_next, ← partOf_of hp]
  exact mcfStep_at h ((if_neg (ne_true_of_eq_false ha)).trans (if_neg (by rw [startedIn, hp]; exact nofun)))

end

/-- Settles O40: each packet word by its lemma above. -/
theorem mcfPacketWords : Obligations.McfPacketWords := by
  intro s port ctx cid e t d a pk kinds tmo fld h go set out
  refine ⟨fun hk => ⟨?_, fun p r ht hcut => match_takes h hk ht hcut, fun ht htmo => match_waits h hk ht htmo⟩,
    fun k hk => ⟨match_full h hk, rdh_reads h hk, withPk_at h hk rfl, mark_new h hk, mark_old h hk, hold_keeps h hk⟩,
    rdm_outside h d a fld, fun hm => ⟨?_, ?_, ?_, fun hl ha => ⟨fun p hp => ⟨?_, ?_, fun hf => ?_⟩, fun hp hf => ?_⟩,
    fun hl ha hf => rdm_absent h hm hl hf ha⟩⟩
  · simp only [List.forall_mem_cons]
    exact ⟨withPk_empty h hk, withPk_empty h hk, withPk_empty h hk, withPk_empty h hk, withPk_empty h hk, withPk_empty h hk,
      List.forall_mem_nil _⟩
  · rintro rfl
    exact rdm_pkg h hm
  · rintro rfl
    exact rdm_local h hm
  · rintro rfl
    exact rdm_buddy h hm
  · rintro rfl
    exact rdm_part (fld := 3) h hm hl (by decide) ha hp
  · rintro rfl
    exact rdm_part (fld := 4) h hm hl (by decide) ha hp
  · exact (rdm_part h hm hl (Nat.le_of_succ_le (Nat.le_of_succ_le hf)) ha hp).trans (by rw [Part.field_bar hf])
  · exact rdm_waits h hm hl hf ha hp

/-! ## Combining -/

section
variable {s : State} {port ctx cid : Nat} {e : CollEntry} {t : Thread} (h : McfAt s port ctx cid e t)
include h

theorem stream_holds {a b : BitVec 4} (hm : (t.reg a).toNat < e.rows.length) (hc : (t.reg b).toNat < e.chunks)
    (hl : (e.row (t.reg a).toNat).pkg = s.plat.pkgid) (hx : e.excluded port (t.reg a).toNat = false)
    (ha : e.isAbsent (t.reg a).toNat = false) (hs : startedIn e t (t.reg a).toNat = true)
    (hbit : (t.chunk e port (t.reg b).toNat).bits.getLsbD (t.reg a).toNat = false) {bs : List Byte}
    (hr : readSource s port ctx cid e t (t.reg a).toNat (t.reg b).toNat = .data bs) :
    let x := t.chunk e port (t.reg b).toNat
    let bit := (1 : BitVec 64) <<< (t.reg a).toNat
    let y := { x with bits := x.bits ||| bit, held := x.held ||| bit, hold := x.hold.put (t.reg a).toNat bs }
    execMStream a b s = .next (s.putThread port ctx cid
      { t with got := [], pc := t.pc + 1, chunks := t.chunks.put (t.reg b).toNat y }) := by
  intro x bit y
  refine mcfStep_at h ?_
  dsimp only
  rw [if_neg (by rw [localTo_of hm hl, hx]; simp only [CollEntry.S]; simp; omega), ha, if_neg Bool.false_ne_true, hs, if_neg (by exact nofun),
    hbit, if_neg Bool.false_ne_true, hr]
  rfl

theorem stream_outside {a b : BitVec 4} (hc : e.chunks ≤ (t.reg b).toNat) :
    execMStream a b s = .next (progError s port ctx cid e t) := mcfStep_error h (if_pos (.inr (.inl hc)))

theorem fold_outside (op : Nat) {d b : BitVec 4} (hc : e.chunks ≤ (t.reg b).toNat) :
    mcfFold op d b s = .next (progError s port ctx cid e t) := mcfStep_error h (if_pos hc)

theorem foldQ_outside {d b : BitVec 4} (hc : e.chunks ≤ (t.reg b).toNat) :
    execMFoldQ d b s = .next (progError s port ctx cid e t) := mcfStep_error h (if_pos hc)

theorem foldQ_reads {d b : BitVec 4} (hc : (t.reg b).toNat < e.chunks) : execMFoldQ d b s = .next (s.putThread port ctx cid
    { t.setReg d (BitVec.ofNat 64 (t.chunk e port (t.reg b).toNat).next) with pc := t.pc + 1 }) := by
  rw [← Thread.setReg_next]
  exact mcfStep_at h (if_neg (Nat.not_le.mpr hc))

theorem fold_done (op : Nat) {d b : BitVec 4} (hc : (t.reg b).toNat < e.chunks) (hd : (t.chunk e port (t.reg b).toNat).done = true) :
    mcfFold op d b s = .next (s.putThread port ctx cid { t.setReg d 0 with pc := t.pc + 1 }) := by
  rw [← Thread.setReg_next]
  exact mcfStep_at h ((if_neg (Nat.not_le.mpr hc)).trans (if_pos hd))

theorem fold_goes (op : Nat) {d b : BitVec 4} (hc : (t.reg b).toNat < e.chunks) (hd : (t.chunk e port (t.reg b).toNat).done = false) :
    let c := (t.reg b).toNat
    let x := t.chunk e port c
    let r := foldFrom e op c (e.rows.length - x.next) x []
    let fin := r.1.next == e.rows.length
    let acc := if fin && !r.1.folded then List.replicate (e.clen c / e.esize) 0 else r.1.acc
    let u : Thread := { t with chunks := t.chunks.put c { r.1 with done := fin, acc := acc } }
    mcfFold op d b s = .next ((releaseStaged s port ctx cid e t.inst c r.2).putThread port ctx cid
      { u.setReg d (if fin then 1 else 0) with pc := t.pc + 1 }) := by
  intro c x r fin acc u
  refine (mcfStep_at (t' := (u.setReg d (if fin then 1 else 0)).adv) h ?_).trans (by rw [Thread.setReg_next])
  exact (if_neg (Nat.not_le.mpr hc)).trans (if_neg (ne_true_of_eq_false hd))

theorem comb_combines (op : Nat) {pk : BitVec 2} {b : BitVec 4} {lo : BitVec 1} {k : PkReg} (hk : t.pk.find pk.toNat = some k)
    (hfresh : k.fresh = true) (hkind : k.pkt.kind < 2) (hm : (t.reg b).toNat < e.rows.length)
    (hl : (e.row (t.reg b).toNat).pkg = s.plat.pkgid) (hx : e.excluded port (t.reg b).toNat = false)
    (hbit : (t.chunk e port k.pkt.chunk).bits.getLsbD (t.reg b).toNat = false) (ha : e.isAbsent (t.reg b).toNat = false)
    (hs : startedIn e t (t.reg b).toNat = true) {bs : List Byte}
    (hr : readSource s port ctx cid e t (t.reg b).toNat k.pkt.chunk = .data bs) :
    let m := (t.reg b).toNat
    let y := t.chunk e port k.pkt.chunk
    let v := (e.widen k.pkt.payload).zipIdx.map fun p =>
      match (e.widen bs)[p.2]? with
      | some q => if lo = 1 then combine op q p.1 else combine op p.1 q
      | none => p.1
    let full := { k with pkt := { k.pkt with payload := e.narrow v ++ k.pkt.payload.drop (e.narrow v).length } }
    mcfComb op pk b lo s = .next ((releaseStaged s port ctx cid e t.inst k.pkt.chunk [m]).putThread port ctx cid
      { t with got := [], pc := t.pc + 1, pk := t.pk.put pk.toNat full,
               chunks := t.chunks.put k.pkt.chunk { y with bits := y.bits ||| (1 : BitVec 64) <<< m } }) := by
  intro m y v full
  refine withPk_at h hk ?_
  dsimp only
  rw [if_neg (by rw [hfresh]; simp; omega), if_neg (by rw [localTo_of hm hl, hx, hbit]; simp only [CollEntry.S]; simp; omega), ha,
    if_neg Bool.false_ne_true, hs, if_neg (by exact nofun), hr]
  rfl

end

/-- Settles O41: each combining word by its lemma above. -/
theorem mcfCombiningWords : Obligations.McfCombiningWords := by
  intro s port ctx cid e t d a b pk lo h go m c x set bit mine
  refine ⟨fun hm hc hl hx ha hs hbit bs hr => stream_holds h hm hc hl hx ha hs hbit hr, fun hc => ?_,
    fun hc => ⟨foldQ_reads h hc, fun hd => ?_, fun hd i op hi => ?_⟩, ?_⟩
  · simp only [List.forall_mem_cons]
    exact ⟨stream_outside h hc, fold_outside h 0 hc, fold_outside h 1 hc, fold_outside h 2 hc, foldQ_outside h hc, List.forall_mem_nil _⟩
  · simp only [List.forall_mem_cons]
    exact ⟨fold_done h 0 hc hd, fold_done h 1 hc hd, fold_done h 2 hc hd, List.forall_mem_nil _⟩
  · have hfold : exec i s = mcfFold op d b s := by
      simp only [List.mem_cons, List.not_mem_nil, or_false, Prod.mk.injEq] at hi
      obtain ⟨rfl, rfl⟩ | ⟨rfl, rfl⟩ | ⟨rfl, rfl⟩ := hi <;> rfl
    rw [hfold]
    exact fold_goes h op hc hd
  · intro k hk hfresh hkind n y hm hl hx hbit ha hs bs hr i op hi
    have hcomb : exec i s = mcfComb op pk b lo s := by
      simp only [List.mem_cons, List.not_mem_nil, or_false, Prod.mk.injEq] at hi
      obtain ⟨rfl, rfl⟩ | ⟨rfl, rfl⟩ | ⟨rfl, rfl⟩ := hi <;> rfl
    rw [hcomb]
    exact comb_combines h op hk hfresh hkind hm hl hx hbit ha hs hr

/-! ## Sending and delivering -/

section
variable {s : State} {port ctx cid : Nat} {e : CollEntry} {t : Thread} {k : BitVec 3} {a c : BitVec 4}

/-- A fwd to hops that the entry lists goes out. -/
theorem mcfForward_of (htag : (t.reg c).toNat % 2 ^ 6 < e.rows.length)
    (hhops : ∀ h, h < 16 → ((t.reg a).toNat % 2 ^ 16).testBit h = true → (e.hops.find h).isSome = true) (n : Nat) (bs : List Byte) :
    mcfForward s ctx cid e t k a c n bs =
      .next (forward s ctx cid e ((t.reg a).toNat % 2 ^ 16) (Packet.mk ((t.reg c).toNat % 2 ^ 6) n t.inst k.toNat s.plat.pkgid bs))
        { t with pc := t.pc + 1 } := by
  refine if_neg (not_or.mpr ⟨Nat.not_le.mpr htag, ?_⟩)
  rw [Bool.not_eq_true, List.any_eq_false]
  intro h hh
  by_cases hbit : ((t.reg a).toNat % 2 ^ 16).testBit h = true
  · have := hhops h (List.mem_range.mp hh) hbit
    rw [Option.isNone_eq_false_iff.mpr this, Bool.and_false]
    exact Bool.false_ne_true
  · rw [Nat.testBit_eq_decide_div_mod_eq, decide_eq_true_iff] at hbit
    rw [beq_eq_decide, decide_eq_false hbit]
    exact Bool.false_ne_true

/-- The member of the issue is local and present and has started, and no delivery to it is due later (R255). -/
structure DeliversTo (s : State) (e : CollEntry) (t : Thread) (m : Nat) : Prop where
  row     : m < e.rows.length
  here    : (e.row m).pkg = s.plat.pkgid
  present : e.isAbsent m = false
  started : startedIn e t m = true
  due     : t.again.any (fun g => decide (s.cycle < g.2)) = false

/-- The image of the launch of a part's sounder. -/
def Part.image (p : Part) (s : State) : Nat := match s.launch? (p.snd / 2 ^ 24) with | some l => l.image | none => 0

/-- What a delivery comes to, by what its write meets. -/
def delivered (s : State) (port m : Nat) (t : Thread) (p : Part) : DlvRes × Nat → McfRes
  | (.done u, _) => .next (u.veil s.writes (ctlWide p.ctl) p.core (p.snd / 2 ^ 24)) { t with pc := t.pc + 1, again := none }
  | (.remote u, n) => .next (u.veil s.writes (ctlWide p.ctl) p.core (p.snd / 2 ^ 24))
      { t with pc := t.pc + 1, again := none, unacked := t.unacked.put (ackKey t m) (t.unacked.getOr 0 (ackKey t m) + n) }
  | (.later u, _) => .wait u (t.backoff u port)
  | (.bad k d, n) => .fault s m k d n

theorem mcfDeliver_eq (h : DeliversTo s e t (t.reg a).toNat) (off : Nat) (bs : List Byte) :
    mcfDeliver s port ctx cid e t a off bs =
      delivered s port (t.reg a).toNat t (e.partOf t (t.reg a).toNat)
        (dlvWrite s ctx (e.partOf t (t.reg a).toNat).wid ((e.partOf t (t.reg a).toNat).image s)
          (.thread port ctx cid (t.reg a).toNat t.inst) ((e.partOf t (t.reg a).toNat).dst + off) bs) := by
  refine (if_neg (not_or.mpr ⟨Nat.not_le.mpr h.row, by rw [localTo_of h.row h.here]; exact nofun⟩)).trans
    ((if_neg (ne_true_of_eq_false h.present)).trans ((if_neg (by rw [h.started, h.due]; exact nofun)).trans ?_))
  unfold delivered
  rfl

/-- An instruction that delivers bytes at an offset of its member's destination leaves what its write comes to. -/
theorem delivers_of (h : McfAt s port ctx cid e t) (hd : DeliversTo s e t (t.reg a).toNat) {i : Instr} {off : Nat} {bs : List Byte}
    {f : Nat → Nat → Nat → CollEntry → Thread → McfRes} (hi : exec i s = mcfStep s f)
    (hf : f port ctx cid e t = mcfDeliver s port ctx cid e t a off bs) :
    let m := (t.reg a).toNat
    let p := e.partOf t m
    let write := dlvWrite s ctx p.wid (p.image s) (.thread port ctx cid m t.inst) (p.dst + off) bs
    let out := fun u : State => u.veil s.writes (ctlWide p.ctl) p.core (p.snd / 2 ^ 24)
    ∀ u n, (write = (.done u, n) → exec i s = .next ((out u).putThread port ctx cid { t with pc := t.pc + 1, again := none })) ∧
      (write = (.remote u, n) → exec i s = .next ((out u).putThread port ctx cid
        { t with pc := t.pc + 1, again := none, unacked := t.unacked.put (ackKey t m) (t.unacked.getOr 0 (ackKey t m) + n) })) ∧
      (∀ k d, write = (.bad k d, n) → exec i s = .next (threadFault s port ctx cid e t m k d n)) := by
  intro m p write out u n
  have heq := hf.trans (mcfDeliver_eq hd off bs)
  rw [hi]
  exact ⟨fun hw => mcfStep_at h (heq.trans (congrArg (delivered s port m t p) hw)),
    fun hw => mcfStep_at h (heq.trans (congrArg (delivered s port m t p) hw)),
    fun k d hw => mcfStep_fault h (heq.trans (congrArg (delivered s port m t p) hw))⟩

end

/-! ## Arrivals, and how instances end -/

section
variable {s : State} {port ctx cid : Nat} {e : CollEntry} {t : Thread} (h : McfAt s port ctx cid e t)
include h

theorem arrive_arrives {a : BitVec 4} {st : BitVec 8} (hm : (t.reg a).toNat < e.rows.length)
    (hl : (e.row (t.reg a).toNat).pkg = s.plat.pkgid) (ha : e.isAbsent (t.reg a).toNat = false)
    (hs : startedIn e t (t.reg a).toNat = true) (hn : t.arrived.contains (t.reg a).toNat = false)
    (hlate : laterInst t.inst (e.part (t.reg a).toNat).inst = false)
    (hack : ctlScope (e.part (t.reg a).toNat).ctl = 2 → t.unacked.getOr 0 (ackKey t (t.reg a).toNat) = 0) :
    execMArrive a st s =
      .next ((partDone s ctx cid (t.reg a).toNat (Alu.orN st.toNat (if e.absent = 0 then 0 else 1)) port).putThread port ctx cid
        { t with pc := t.pc + 1, arrived := (t.reg a).toNat :: t.arrived }) := by
  refine mcfStep_at h ?_
  dsimp only
  rw [if_neg (by rw [localTo_of hm hl, hn, hlate]; simp only [CollEntry.S]; simp; omega), ha, if_neg Bool.false_ne_true,
    if_neg (by rw [hs]; simpa using hack)]
  rfl

theorem tkreq_asks {a b : BitVec 4} (hm : (t.reg a).toNat < e.rows.length) (hc : (t.reg b).toNat < e.chunks) :
    execMTkreq a b s =
      .next ((s.sendOp (.takeover (e.row (e.row (t.reg a).toNat).buddy).pkg port ctx cid (t.reg a).toNat (t.reg b).toNat t.inst)).putThread
        port ctx cid { t with pc := t.pc + 1 }) :=
  mcfStep_at h (if_neg (not_or.mpr ⟨Nat.not_le.mpr hm, Nat.not_le.mpr hc⟩))

theorem end_missing (ha : (membersOn e s.plat.pkgid).all (arrivedIn e t) = false) :
    execMEnd s = .next (progError s port ctx cid e t) := by
  simp only [execMEnd, h.cur, h.entry, h.thread, h.ok, ha, if_neg Bool.false_ne_true]

theorem end_next (hq : t.rq = []) (ha : (membersOn e s.plat.pkgid).all (arrivedIn e t) = true) :
    execMEnd s = .next (nextInstance (s.modPort port fun x => { x with stale := x.stale + t.rq.length }) port ctx cid e t) := by
  simp only [execMEnd, h.cur, h.entry, h.thread, h.ok, ha, hq, List.foldl_nil, if_true]

end

/-- Of the instances of a thread the next starts at word 0 with what the overflow area held. -/
theorem thread_nextInstance (s : State) (port ctx cid : Nat) (e : CollEntry) (t : Thread) :
    (nextInstance s port ctx cid e t).thread? port ctx cid =
      some (Thread.start e (dropLoad s port ctx cid).plat.pkgid ((t.inst + 1) % 2 ^ 32) t.overflow) := by
  unfold nextInstance
  dsimp only
  generalize dropLoad s port ctx cid = u
  generalize hn : Thread.start e u.plat.pkgid ((t.inst + 1) % 2 ^ 32) t.overflow = n
  unfold pruneEntry
  split
  · exact thread?_putThread_self ..
  · exact thread?_putThread_self u port ctx cid n

/-- Settles O42: each word that sends, delivers or ends by its lemma above. -/
theorem mcfDeliveryWords : Obligations.McfDeliveryWords := by
  intro s port ctx cid e t a b c pk k st h go on m ch hops tag packet p here img out write wrote posted delivers
  refine ⟨fun htag hhops => ⟨fun r hr => ?_, fun hc hd => ?_⟩, fun hh => ?_, fun hm hc => tkreq_asks h hm hc,
    fun hq => ⟨fun ha => ?_, fun ha => end_missing h ha⟩⟩
  · exact withPk_at h hr (mcfForward_of htag hhops _ _)
  · refine mcfStep_at h ((if_neg ?_).trans (mcfForward_of htag hhops _ _))
    rw [hd]
    simp
    omega
  · obtain ⟨hm, hl, habs, hs, hdue⟩ := hh
    have hto : DeliversTo s e t m := ⟨hm, hl, habs, hs, hdue⟩
    refine ⟨fun hc hd => ?_, fun r hr => ⟨?_, ?_⟩, fun hn hlate hack => arrive_arrives h hm hl habs hs hn hlate hack⟩
    · refine delivers_of h hto (exec_mDlv a b s) (if_neg ?_)
      rw [hd]
      simp
      omega
    · exact delivers_of h hto (exec_mDlvPk a pk s) (by dsimp only; rw [hr])
    · exact delivers_of h hto (exec_mDlvG a pk s) (by dsimp only; rw [hr])
  · exact ⟨_, _, end_next h hq ha, thread_nextInstance .., rfl, rfl, rfl, rfl, rfl, rfl⟩

end Sys2Proof.Machine
end

section
/-! What becomes of accesses after issue (O43). -/

namespace Sys2Proof.Machine

open Sys2Proof State

/-! ## Fills -/

theorem keys_sortedLT {α : Type} {t : Tbl α} (h : t.sorted = true) : (t.map Prod.fst).SortedLT := by
  refine List.Pairwise.sortedLT ?_
  induction t with
  | nil => exact List.Pairwise.nil
  | cons e r ih =>
    obtain ⟨habove, hsorted⟩ := (Tbl.sorted_cons e.1 e.2 r).mp h
    refine List.Pairwise.cons (fun k hk => ?_) (ih hsorted)
    obtain ⟨a, ha, rfl⟩ := List.mem_map.mp hk
    exact habove a ha

/-- The lanes of a strictly rising list are the bits of the sum of their powers. -/
theorem testBit_lanes {l : List Nat} (h : l.SortedLT) (n : Nat) : (l.foldl (fun a k => a + 2 ^ k) 0).testBit n = true ↔ n ∈ l := by
  have hsum : l.foldl (fun a k => a + 2 ^ k) 0 = (l.map (2 ^ ·)).sum := by
    rw [List.sum_eq_foldl, List.foldl_map]
  rw [hsum, ← Nat.mem_bitIndices, Nat.bitIndices_sum_map_two_pow h]

theorem mem_keys {α : Type} {t : Tbl α} {k : Nat} : k ∈ t.map Prod.fst ↔ (t.find k).isSome = true := by
  induction t with
  | nil => simp [Tbl.find]
  | cons e r ih =>
    obtain ⟨j, a⟩ := e
    rw [List.map_cons, List.mem_cons, ih, Tbl.find]
    by_cases h : j = k
    · simp [h]
    · simp [h, Ne.symm h]

/-- The lanes whose values a fill has and still gives. -/
def Fill.given (f : Fill) : List Nat := (f.got.map Prod.fst).filter f.keep.contains

/-- The sounder once a fill with nothing more to come has written its name. -/
def Snd.filled (x : Snd) (n : Nat) (f : Fill) : Snd :=
  let mask : Bits96 := BitVec.ofNat 96 (f.given.foldl (fun a l => a + 2 ^ l) 0)
  let vals := (List.range 96).map fun l => f.got.getOr 0 l
  Issue.writeName { x with fills := x.fills.del n, past := Issue.pastFilled f mask vals x.past } none f.name mask vals

theorem given_mask {f : Fill} (hs : f.got.sorted = true) {l : Nat} (hl : l < 96) :
    (BitVec.ofNat 96 (f.given.foldl (fun a l => a + 2 ^ l) 0)).getLsbD l = true ↔
      f.keep.contains l = true ∧ (f.got.find l).isSome = true := by
  have hsorted : f.given.SortedLT := ((keys_sortedLT hs).pairwise.filter _).sortedLT
  rw [BitVec.getLsbD_ofNat, decide_eq_true hl, Bool.true_and, testBit_lanes hsorted, Fill.given, List.mem_filter, mem_keys, and_comm]

theorem vreg_filled {x : Snd} {n : Nat} {f : Fill} (hs : f.got.sorted = true) (m : Nat) {l : Nat} (hl : l < 96) :
    ((x.filled n f).vreg m).getD l 0 =
      if m = f.name ∧ f.keep.contains l = true ∧ (f.got.find l).isSome = true then BitVec.ofNat 32 (f.got.getOr 0 l)
      else (x.vreg m).getD l 0 := by
  refine (Issue.vreg_writeName _ none f.name _ _ m l hl).trans ?_
  rw [getD_lanes _ _ hl]
  exact if_congr (and_congr_right fun _ => given_mask hs hl) rfl rfl

theorem fills_filled (x : Snd) (n : Nat) (f : Fill) : (x.filled n f).fills.find n = none := by
  refine (Tbl.find_mapV ..).trans ?_
  rw [Option.map_eq_none_iff]
  exact Tbl.find_del_self ..

theorem fillOne_of {s : State} {c k j n : Nat} {x : Snd} {f : Fill} (hx : s.snd? c k j = some x) (hf : x.fills.find n = some f)
    (hw : f.want = []) (hm : f.memo = none) (hs : f.share = false) :
    Issue.fillOne s c k j n = { s.putSnd c k j (x.filled n f) with freeCtr := s.freeCtr + 1 } := by
  unfold Issue.fillOne
  rw [hx]
  dsimp only
  rw [hf]
  dsimp only
  rw [hw, hs, hm]
  rfl

/-- A fill that is no half of a pair is written alone. -/
theorem fillPair_single {x : Snd} {n : Nat} {f : Fill} (hf : x.fills.find n = some f) (hi : f.hi = false)
    (hnext : (x.fills.find (n + 1)).all (fun g => !g.hi) = true) : Issue.fillPair x n = [n] := by
  refine (if_neg ?_).trans (if_neg ?_)
  · dsimp only
    rw [hf]
    dsimp only
    rw [hi, Bool.false_and]
    exact Bool.false_ne_true
  · dsimp only
    cases hg : x.fills.find (n + 1) with
    | none => exact Bool.false_ne_true
    | some g =>
      rw [hg, Option.all_some, Bool.not_eq_true'] at hnext
      exact ne_true_of_eq_false hnext

/-! ## What a store leaves of the sounders -/

theorem putCtx_cc (s : State) (n : Nat) (c : Ctx) : (s.putCtx n c).cc = s.cc := rfl

theorem rewriteRecs_cc (s : State) (q : TrapQueue) : (rewriteRecs s q).cc = s.cc := by
  unfold rewriteRecs
  split
  · rfl
  · generalize q.recs.zipIdx = l
    induction l generalizing s with
    | nil => rfl
    | cons e l ih =>
      rw [List.foldl_cons]
      generalize toBytes 256 e.1 = bs
      exact (ih _).trans (writeService_cc ..)

theorem noteLine_cc (s : State) (ctx line wid : Nat) : (noteLine s ctx line wid).cc = s.cc := by
  unfold noteLine
  split
  · rfl
  split
  · rfl
  split
  · rfl
  split
  · rfl
  split
  · rfl
  dsimp only
  split
  · exact noteRecord_cc ..
  · exact rewriteRecs_cc ..

theorem noteLines_cc (s : State) (ctx line wid n : Nat) : (noteLines s ctx line wid n).cc = s.cc := by
  induction n generalizing s line with
  | zero => rfl
  | succ n ih => exact (ih ..).trans (noteLine_cc ..)

theorem writeBytes_cc (s : State) (pa : Nat) (bs : List Byte) : (s.writeBytes pa bs).cc = s.cc := by
  induction bs generalizing s pa with
  | nil => rfl
  | cons b bs ih => exact ih ..

theorem storeMem_cc (s : State) (ctx pa wid : Nat) (bs : List Byte) : (storeMem s ctx pa wid bs).cc = s.cc :=
  (noteLines_cc ..).trans (writeBytes_cc ..)

theorem snd?_of_cc {s t : State} (h : t.cc = s.cc) (c k j : Nat) : t.snd? c k j = s.snd? c k j := by
  unfold State.snd? State.ccOf
  rw [h]

/-! ## What a sounder waits for -/

namespace Snd

theorem give_wait (x : Snd) (fills : List Nat) (lane v : Nat) : (x.give fills lane v).wait = x.wait := by
  unfold give
  induction fills generalizing x with
  | nil => rfl
  | cons k fills ih => exact ih _

theorem putEntry_wait (x : Snd) (k : Nat) (e : LogEntry) : (x.putEntry k e).wait = x.wait := by
  unfold putEntry
  split <;> rfl

theorem finishLane_wait (x : Snd) (k : Nat) (e : LogEntry) (la : LaneAcc) (v : Nat) : (x.finishLane k e la v).wait = x.wait := by
  unfold finishLane
  refine (putEntry_wait ..).trans ?_
  split
  · generalize List.range 96 = l
    induction l generalizing x with
    | nil => rfl
    | cons a l ih =>
      rw [List.foldl_cons, ih]
      split
      · exact give_wait ..
      · rfl
  · exact give_wait ..

theorem holdLane_wait (x : Snd) (k : Nat) (e : LogEntry) (la : LaneAcc) (c d : Nat) : (x.holdLane k e la c d).wait = x.wait :=
  putEntry_wait ..

end Snd

/-- No replay ends for a sounder that waits for nothing. -/
theorem settleReplay_putSnd (s : State) (c k j : Nat) {y : Snd} (h : y.wait = .ready) :
    settleReplay (s.putSnd c k j y) c k j = s.putSnd c k j y := by
  unfold settleReplay
  rw [snd?_putSnd_self]
  dsimp only
  rw [h]

/-! ## Performing the next lane of an entry -/

/-- What becomes of a lane of entry `n` once its access has ended; `level` stands in the detail of a fault. -/
def laneEnd (c k j n : Nat) (e : LogEntry) (la : LaneAcc) (level : Nat) : State × LaneRes → State
  | (t, .done v) => t.modSnd c k j fun x => x.finishLane n e la v
  | (t, .fault a d) => t.modSnd c k j fun x => x.holdLane n e la a (d + level)
  | (t, .wait) => t

section
variable {s : State} {c k j n : Nat} {x : Snd} {e : LogEntry} {la : LaneAcc} {far : Bool} {pa : Nat}

theorem accessLocal_load (hk : e.kind = .load) (hloc : la.loc = .mem far pa) (hp : s.poisoned pa = false)
    (hl : s.lags k pa (tySize e.ty) = false) :
    accessLocal s c k e la false = (s, .done (loadExt e.ty (s.readN pa (tySize e.ty)))) := by
  have hread : s.readAs k pa (tySize e.ty) = (s, s.readN pa (tySize e.ty)) := if_neg (ne_true_of_eq_false hl)
  unfold accessLocal
  rw [hk, hloc]
  refine (if_neg (ne_true_of_eq_false hp)).trans ?_
  dsimp only
  rw [if_neg Bool.false_ne_true, hread]

theorem accessLocal_store (hk : e.kind = .store) (hloc : la.loc = .mem far pa) :
    accessLocal s c k e la false = (storeMem s c pa e.wid (toBytes (tySize e.ty) la.data), .done 0) := by
  unfold accessLocal
  rw [hk, hloc]
  rfl

theorem accessLocal_atomic (hk : e.kind = .atomic) (hloc : la.loc = .mem far pa) (hgot : la.got = none) (hp : s.poisoned pa = false) :
    accessLocal s c k e la false =
      (storeMem s c pa e.wid (toBytes (tySize e.ty) (atomNew (e.minor % 16) e.ty (s.readN pa (tySize e.ty)) la.data la.new)),
        .done (s.readN pa (tySize e.ty))) := by
  have hbad : s.lineBad (pa / 64) = false := hp
  unfold accessLocal
  rw [hk, hloc, hgot]
  refine (if_neg ?_).trans rfl
  show ¬ (s.lineBad (pa / 64) && true) = true
  rw [hbad]
  exact Bool.false_ne_true

/-- A load that meets an uncorrectable error poisons its line and faults (R307). -/
theorem accessLocal_lost (hk : e.kind = .load) (hloc : la.loc = .mem far pa) (hp : s.poison.contains (pa / 64) = false) :
    accessLocal s c k e la true =
      (countError { s with poison := pa / 64 :: s.poison } poisonedLines, .fault 0x50 (nackDetail 0 0 true false)) := by
  have hspoil : poisonLoc s c k (.mem far pa) = countError { s with poison := pa / 64 :: s.poison } poisonedLines :=
    if_neg (ne_true_of_eq_false hp)
  unfold accessLocal
  rw [hk, hloc]
  dsimp only
  rw [if_pos rfl, hspoil]
  refine if_pos ?_
  show ((pa / 64 :: s.poison).contains (pa / 64) || _ || _) = true
  rw [List.contains_cons, beq_self_eq_true]
  rfl

theorem splits_other {ue : Bool} (hk : e.kind ≠ .atomic) : splits s e la ue = false := by
  unfold splits
  rw [beq_false_of_ne hk]
  rfl

theorem splits_scoped {ue : Bool} (hm : 1 ≤ e.minor / 16 % 4) : splits s e la ue = false := by
  have hscope : (e.minor / 16 % 4 == 0) = false := beq_false_of_ne (Nat.ne_of_gt hm)
  unfold splits
  rw [hscope, Bool.and_false]
  rfl

variable (hx : s.snd? c k j = some x) (he : x.oplog.find n = some e) (hd : x.dueLane e = some la)
  (hrev : revoked s c = false) (hsplit : coreSplit s k = false) (hloc : la.loc = .mem far pa) (hrace : racing s c la.va = false)
include hx he hd hrev hsplit hloc hrace

/-- A lane that is due at a place in memory and that nothing holds back is performed there. -/
theorem performNext_mem {ue : Bool} (hs : splits s e la ue = false) :
    performNext s c k j n ue = laneEnd c k j n e la (la.level s c) (accessLocal s c k e la ue) := by
  unfold performNext
  rw [hx]
  dsimp only
  rw [he]
  dsimp only
  rw [hd]
  dsimp only
  rw [hrev, hsplit, hloc, hrace]
  simp only [Bool.false_and, Bool.and_false, Bool.false_eq_true, if_false, hs]
  rfl

/-- An access that ends with a value at a sounder that waits for nothing finishes its lane. -/
theorem performed {ue : Bool} (hw : x.wait = .ready) (hs : splits s e la ue = false) {t : State} {v : Nat}
    (ha : accessLocal s c k e la ue = (t, .done v)) (ht : t.cc = s.cc) :
    exec (.eAccessPerformed c k j n 0 ue) s = .next (t.putSnd c k j (x.finishLane n e la v)) := by
  have hnext : performNext s c k j n ue = t.putSnd c k j (x.finishLane n e la v) := by
    rw [performNext_mem hx he hd hrev hsplit hloc hrace hs, ha, laneEnd, modSnd_of _ _ ((snd?_of_cc ht ..).trans hx)]
  refine (exec_eAccessPerformed ..).trans (congrArg Host.Outcome.next ?_)
  dsimp only [performLanes]
  rw [hnext]
  exact settleReplay_putSnd _ _ _ _ ((Snd.finishLane_wait ..).trans hw)

/-- An access that faults is held. -/
theorem performed_held {ue : Bool} (hw : x.wait = .ready) (hs : splits s e la ue = false) {t : State} {a d : Nat}
    (ha : accessLocal s c k e la ue = (t, .fault a d)) (ht : t.cc = s.cc) :
    exec (.eAccessPerformed c k j n 0 ue) s = .next (t.putSnd c k j (x.holdLane n e la a (d + la.level s c))) := by
  have hnext : performNext s c k j n ue = t.putSnd c k j (x.holdLane n e la a (d + la.level s c)) := by
    rw [performNext_mem hx he hd hrev hsplit hloc hrace hs, ha, laneEnd, modSnd_of _ _ ((snd?_of_cc ht ..).trans hx)]
  refine (exec_eAccessPerformed ..).trans (congrArg Host.Outcome.next ?_)
  dsimp only [performLanes]
  rw [hnext]
  exact settleReplay_putSnd _ _ _ _ ((Snd.holdLane_wait ..).trans hw)

end

/-! ## Alias stores, deferred faults and answers -/

section
variable {s : State} {c k j n : Nat} {x : Snd} (hx : s.snd? c k j = some x)
include hx

theorem laneLoadFill_of {f : Fill} (hf : x.fills.find n = some f) (hm : f.memo = none) (hs : f.share = false) (hw : f.want = [])
    (hi : f.hi = false) (hnext : (x.fills.find (n + 1)).all (fun g => !g.hi) = true) :
    exec (.eLaneLoadFill c k j n) s = .next { s.putSnd c k j (x.filled n f) with freeCtr := s.freeCtr + 1 } := by
  refine (exec_eLaneLoadFill ..).trans (congrArg Host.Outcome.next ?_)
  unfold Issue.fillWrite
  rw [hx]
  dsimp only
  rw [fillPair_single hf hi hnext, List.foldl_cons, List.foldl_nil, fillOne_of hx hf hw hm hs]

theorem aliasStore_accepted {e : LogEntry} {la : LaneAcc} {cid va : Nat} {t : State} (hw : x.wait = .ready)
    (he : x.oplog.find n = some e) (hla : e.todo.find? (fun a => a.lane == la.lane && a.sent) = some la)
    (hloc : la.loc = .aliasWin cid va)
    (hlow : e.todo.any (fun b => b.sent && decide (b.lane < la.lane) && b.va / 8 == va / 8) = false)
    (ha : aliasAccept s c cid la.new va (toBytes (tySize e.ty) la.data) x k e.slices = (t, true)) (ht : t.snd? c k j = some x) :
    exec (.eAliasStoreAccept c k j n la.lane) s = .next (t.putSnd c k j (x.finishLane n e la 0)) := by
  refine (exec_eAliasStoreAccept ..).trans (congrArg Host.Outcome.next ?_)
  rw [hx]
  dsimp only
  rw [he]
  dsimp only
  rw [hla]
  dsimp only
  rw [hloc]
  dsimp only
  rw [if_neg (ne_true_of_eq_false hlow), ha, if_pos rfl, modSnd_of _ _ ht]
  exact settleReplay_putSnd _ _ _ _ ((Snd.finishLane_wait ..).trans hw)

theorem deferredFault_delivered {e : LogEntry} {la : LaneAcc} {rest : List LaneAcc} (he : x.oplog.find n = some e)
    (hh : e.held = la :: rest) (ht : e.told = false) (hhand : x.handler = false) (hmay : x.mayIssue = true) (hmid : x.midSend = false) :
    exec (.eDeferredFaultDelivery c k j n) s =
      .next (takeTrap (s.putSnd c k j { x with oplog := x.oplog.put n { e with told := true } }) c k j
        { cause := e.cause, stream := 2, oplog := some n, lpc := e.lpc, slices := e.slices,
          lane := if e.slices = 0 then none else some la.lane, block := e.block, word := e.word, addr := la.va, info := e.detail }) := by
  refine (exec_eDeferredFaultDelivery ..).trans (congrArg Host.Outcome.next ?_)
  rw [hx]
  dsimp only
  rw [he]
  dsimp only
  rw [if_neg (by rw [hh, ht, hhand, hmay, hmid]; exact Bool.false_ne_true), hh]
  rfl

theorem answerScalar_value {d y pkg va v : Nat} (hw : x.wait = .load d y pkg va) (hr : racing s c va = false) :
    answerScalar s c k j (.ok v) = s.putSnd c k j (({ x with wait := .ready } : Snd).setS d (scalarExt y v)).adv := by
  unfold answerScalar
  rw [hx]
  dsimp only
  rw [hw]
  dsimp only
  rw [hr]
  rfl

theorem mailReturn_of {d st : Nat} (hw : x.wait = .mbsend d) :
    mailReturn s c k j st = s.putSnd c k j (({ x with wait := .ready } : Snd).setS d (BitVec.ofNat 64 st)).adv := by
  unfold mailReturn
  rw [hx]
  dsimp only
  rw [hw]

end

theorem windowAck_scalar {s : State} {c k j n v : Nat} {p : Pending} (hp : s.pend.find n = some p)
    (ho : p.msg.origin? = some (.scalar c k j)) :
    exec (.eWindowAckArrival n (.ok v)) s = .next (answerScalar { s with pend := s.pend.del n } c k j (.ok v)) := by
  refine (exec_eWindowAckArrival ..).trans (congrArg Host.Outcome.next ?_)
  unfold applyReply
  rw [hp]
  dsimp only
  rw [ho]

theorem placement_retried {s : State} {n due : Nat} {p : Pending} (hp : s.pend.find n = some p) (hb : p.backoff = some due)
    (hdue : due ≤ s.cycle) :
    exec (.eDirectPlacementRetry n) s = .next (resend s n { p with backoff := none, status := none }) := by
  refine (exec_eDirectPlacementRetry ..).trans (congrArg Host.Outcome.next ?_)
  rw [hp]
  dsimp only
  rw [hb]
  exact if_neg (Nat.not_lt.mpr hdue)

theorem mailStatus_returned {s : State} {c k j n st pkg a b e f : Nat} {bs : List Byte} {q : SeqNo} {p : Pending}
    (hp : s.pend.find n = some p) (hm : p.msg = .mail pkg a b e f bs (.mail c k j) q) (hpkg : pkg ≠ s.plat.pkgid) (hst : st < 4) :
    exec (.eMailboxStatusReturn n st) s = .next (mailReturn { s with pend := s.pend.del n } c k j st) := by
  refine (exec_eMailboxStatusReturn ..).trans (congrArg Host.Outcome.next ?_)
  rw [hp]
  dsimp only
  rw [hm]
  dsimp only
  rw [if_neg hpkg, if_pos hst]

/-- Settles O43: each event by its lemma above. -/
theorem accessEventsComplete : Obligations.AccessEventsComplete := by
  intro s c k j n
  refine ⟨fun x f hx hf hs hm hsh hw hi hnext => ?_, fun x e la far pa hx hw he hd hrev hsplit hgot hloc hrace => ?_,
    fun x e la cid va t hx hw he hla hloc hlow ha ht => aliasStore_accepted hx hw he hla hloc hlow ha ht,
    fun x e la rest hx he hh ht hhand hpark hsusp hmid hag => ?_, fun p x d y pkg va v hp ho hx hw hr => ?_,
    fun p due hp hb hdue => placement_retried hp hb hdue, fun p x d st pkg a b e f bs q hp hm hpkg hst hx hw => ?_⟩
  · exact ⟨_, _, laneLoadFill_of hx hf hm hsh hw hi hnext, snd?_putSnd_self s c k j _, fills_filled ..,
      fun m l hl => vreg_filled hs m hl, fun _ => rfl⟩
  · refine ⟨fun hk hp hl => ?_, fun hk => ?_, fun hk hmin hp => ?_, fun hk hp => ?_⟩
    · exact performed hx he hd hrev hsplit hloc hrace hw (splits_other (by rw [hk]; exact nofun)) (accessLocal_load hk hloc hp hl) rfl
    · exact performed hx he hd hrev hsplit hloc hrace hw (splits_other (by rw [hk]; exact nofun)) (accessLocal_store hk hloc) (storeMem_cc ..)
    · exact performed hx he hd hrev hsplit hloc hrace hw (splits_scoped hmin) (accessLocal_atomic hk hloc hgot hp) (storeMem_cc ..)
    · exact performed_held hx he hd hrev hsplit hloc hrace hw (splits_other (by rw [hk]; exact nofun)) (accessLocal_lost hk hloc hp) rfl
  · refine deferredFault_delivered hx he hh ht hhand ?_ hmid
    unfold Snd.mayIssue
    rw [hpark, hsusp, hag]
    rfl
  · exact (windowAck_scalar hp ho).trans (congrArg Host.Outcome.next (answerScalar_value (s := { s with pend := s.pend.del n }) hx hw hr))
  · exact (mailStatus_returned hp hm hpkg hst).trans
      (congrArg Host.Outcome.next (mailReturn_of (s := { s with pend := s.pend.del n }) hx hw))

end Sys2Proof.Machine
end

section
/-! What ends each wait (O44). -/

namespace Sys2Proof.Machine

open Sys2Proof State

/-! ## Parking -/

section
variable {s : State} {c k j : Nat} {x : Snd}

theorem park_next {n : Nat} (hnext : nextParked s c k = some (j, x)) (hn : (waitedRegs s c k).contains n = true)
    (hroom : Issue.poolRoom s c k n = false) (hf : x.fills = []) :
    exec (.eSounderPark c k n) s = .next
      ((saveNames s c k j (match residentBank s c k with | some b => (ownedBanks s k b).keys | none => []) x).putSnd c k j
        { x with parked := true, rpark := x.rpark + 1, bound := [] }) := by
  refine (exec_eSounderPark ..).trans (congrArg Host.Outcome.next ((if_neg ?_).trans ?_))
  · rw [hroom, hn]
    exact fun h => h.elim Bool.false_ne_true Bool.false_ne_true
  · unfold parkNext
    rw [hnext]
    dsimp only
    rw [hf]
    rfl

theorem resume_oldest {l : List (Nat × Snd)} (hl : (s.ccOf c k).sounders.filter (fun e => e.2.parked) = l)
    (hx : l.find? (fun e => e.2.age == l.foldl (fun m e => min m e.2.age) (2 ^ 64)) = some (j, x))
    (hroom : Issue.poolRoom s c k x.n = true) (hbank : (residentBank s c k).isSome = true) :
    exec (.eSounderResume c k) s = .next (Issue.bindEach (s.putSnd c k j { x with parked := false }) c k j x.v.keys).1 := by
  subst hl
  refine (exec_eSounderResume ..).trans (congrArg Host.Outcome.next ?_)
  rw [hx]
  refine if_neg ?_
  rw [Option.isNone_eq_false_iff.mpr hbank, hroom]
  exact Bool.false_ne_true

end

/-! ## Lane blocks, events and barriers -/

section
variable {s : State} {c k j : Nat} {x : Snd} (hx : s.snd? c k j = some x)
include hx

theorem regang_joins (hr : x.running = true) (hall : x.slices.all (fun e => e.2.done || e.2.atRegang) = true)
    (hany : x.slices.any (fun e => !e.2.done) = true) : exec (.eRegangJoin c k j) s = .next (s.putSnd c k j x.rejoin) := by
  refine (exec_eRegangJoin ..).trans (congrArg Host.Outcome.next ((modSnd_of _ _ hx).trans ?_))
  rw [if_pos (by rw [hr, hall, hany]; rfl)]

theorem block_starts {b : Block} {q : List Block} (hr : x.running = false) (hq : x.queue = b :: q) :
    exec (.eLaneBlockStart c k j) s = .next (s.putSnd c k j
      ({ x with running := true, slices := startSlices b, yielded := [],
                joins := if x.past.isEmpty then x.joins else stampPairs x.joins x.past.length (fun _ _ => true) } : Snd).endBlock) := by
  refine (exec_eLaneBlockStart ..).trans (congrArg Host.Outcome.next ((modSnd_of _ _ hx).trans (congrArg _ ?_)))
  unfold Snd.startBlock
  rw [hq]
  exact if_neg (ne_true_of_eq_false hr)

theorem barWait_released {d ref token : Nat} (hw : x.wait = .bar d ref token) (hmay : mayWake s c k x = true)
    (hphase : phasePassed (barrierOf (wake s c k) c (refCore ref) (refNumber ref)) token = true) :
    exec (.eBarrierWaitRelease c k j) s =
      .next ((wake s c k).putSnd c k j (({ x with wait := .ready } : Snd).setS d (waitResult (wake s c k) c ref)).adv) := by
  refine (exec_eBarrierWaitRelease ..).trans (congrArg Host.Outcome.next ?_)
  rw [hx]
  dsimp only
  rw [hw]
  dsimp only
  rw [hmay]
  exact (if_neg Bool.false_ne_true).trans (if_pos hphase)

theorem waitany_wakes {d n : Nat} (hw : x.wait = .waitany d) (he : x.eligible = some n) (hmay : mayWake s c k x = true) :
    exec (.eWaitanyWake c k j) s = .next ((wake s c k).putSnd c k j (x.takeEvent d n)) := by
  refine (exec_eWaitanyWake ..).trans (congrArg Host.Outcome.next ?_)
  rw [hx]
  dsimp only
  rw [hw, he]
  dsimp only
  rw [hmay]
  exact if_neg Bool.false_ne_true

theorem timer_latches {n due : Nat} (ht : x.timers.find n = some due) (hdue : due ≤ s.cycle) (harm : x.armed.getLsbD n = true) :
    exec (.eEventTimerExpiry c k j n) s =
      .next ((wake s c k).putSnd c k j { x with pending := setBit8 x.pending n true, timers := x.timers.del n }) := by
  refine (exec_eEventTimerExpiry ..).trans (congrArg Host.Outcome.next ?_)
  unfold latchTimer
  rw [hx]
  dsimp only
  rw [ht]
  exact if_pos ⟨hdue, harm⟩

end

theorem match_times_out {s : State} {c p cid due : Nat} {e : CollEntry} {t : Thread} (he : s.entry? c cid = some e)
    (ht : s.thread? p c cid = some t) (hword : e.prog.getD t.pc 0 / 2 ^ 56 = 5) (hend : t.matchEnd = some due) (hdue : due ≤ s.cycle)
    (hnone : takeKind (BitVec.ofNat 5 (e.prog.getD t.pc 0 / 2 ^ 32)) t.inTime = none) :
    exec (.eMatchTimeout p c cid) s =
      .next (s.putThread p c cid (t.matched (BitVec.ofNat 4 (e.prog.getD t.pc 0 / 2 ^ 52)) 1)) := by
  refine (exec_eMatchTimeout ..).trans (congrArg Host.Outcome.next ?_)
  rw [he, ht]
  dsimp only
  rw [hend]
  exact if_pos ⟨hword, hdue, by rw [hnone]; rfl⟩

/-! ## The turn of a synchronising operation -/

/-- The synchronising operations that a sounder may be stopped at in deterministic mode, by the major and minor of the word. -/
noncomputable def turnWords (d a b : BitVec 6) : List (Nat × Nat × Instr) :=
  [(0x26, 0, .sJoin d a), (0x26, 1, .sLeave a), (0x26, 2, .sBarArrive d a b), (0x26, 4, .sBarSync d a),
    (0x27, 1, .sMbsend d a b), (0x29, 1, .sSndend), (0x29, 2, .sTret)]

theorem turnWord_next {d a b : BitVec 6} {u : State} {c k j : Nat} {x : Snd} (h : ScalarAt u c k j x) :
    ∀ e ∈ turnWords d a b, ∃ t, exec e.2.2 u = .next t := by
  unfold turnWords
  simp only [List.forall_mem_cons]
  exact ⟨⟨_, scalarStep_at h _⟩, ⟨_, scalarStep_at h _⟩, ⟨_, scalarStep_at h _⟩, ⟨_, scalarStep_at h _⟩, ⟨_, scalarStep_at h _⟩,
    ⟨_, scalarStep_at h _⟩, ⟨_, scalarStep_at h _⟩, List.forall_mem_nil _⟩

/-- A sounder stopped at a synchronising operation executes it in its turn. -/
theorem turn_taken {s : State} {c k j w : Nat} {x : Snd} {ins : Instr} (hx : s.snd? c k j = some x) (hw : x.wait = .det w)
    (hmay : mayWake s c k x = true)
    (hi : (w / 2 ^ 26, w % 2 ^ 8, ins) ∈ turnWords (BitVec.ofNat 6 (w / 2 ^ 20)) (BitVec.ofNat 6 (w / 2 ^ 14)) (BitVec.ofNat 6 (w / 2 ^ 8)))
    {t : State} (ht : exec ins { s with cur := .scalar c k j } = .next t) :
    exec (.eDeterministicRelease c k j) s = .next { t with cur := s.cur } := by
  rw [exec_eDeterministicRelease]
  unfold execEDeterministicRelease
  rw [hx]
  dsimp only
  rw [hw]
  dsimp only
  rw [if_neg (not_negated hmay)]
  unfold turnWords at hi
  simp only [List.mem_cons, List.not_mem_nil, or_false, Prod.mk.injEq] at hi
  obtain ⟨hmaj, hmin, rfl⟩ | ⟨hmaj, hmin, rfl⟩ | ⟨hmaj, hmin, rfl⟩ | ⟨hmaj, hmin, rfl⟩ | ⟨hmaj, hmin, rfl⟩ | ⟨hmaj, hmin, rfl⟩ |
    ⟨hmaj, hmin, rfl⟩ := hi
  all_goals
    simp only [exec_sJoin, exec_sLeave, exec_sBarArrive, exec_sBarSync, exec_sMbsend, exec_sSndend, exec_sTret] at ht
    rw [hmaj, hmin, ht]
    rfl

/-! ## Handles and arbitration -/

theorem hwait_returns {s : State} {c k j sl : Nat} {x : Snd} {i : Issue} (hx : s.snd? c k j = some x) (hr : x.running = true)
    (hmay : mayWake s c k x = true)
    (hword : laneWordAt s c x (x.slices.getOr Slice.reset (lowSlice sl)).pc / 2 ^ 80 = 0x3500)
    (hgang : (List.range 24).all (fun i => !sliceBit sl i ||
      ((x.slices.getOr Slice.reset i).pc == (x.slices.getOr Slice.reset (lowSlice sl)).pc && !(x.slices.getOr Slice.reset i).done)) = true)
    (h : LaneAt { s with cur := .lane c k j sl } 0x35 0
      (.r (laneRof (laneWordAt s c x (x.slices.getOr Slice.reset (lowSlice sl)).pc))) i) (hm : i.mask ≠ 0)
    (ha : i.opA { s with cur := .lane c k j sl } < 256) (hb0 : 0 < i.opB { s with cur := .lane c k j sl })
    (hb : i.opB { s with cur := .lane c k j sl } < 16)
    (hmine : (s.ccOf c k).share.handles.contains (i.opA { s with cur := .lane c k j sl }) = true)
    (hset : (i.opB { s with cur := .lane c k j sl }).testBit
      (handleOf s c k (i.opA { s with cur := .lane c k j sl })).state = true) :
    exec (.eHwaitReturn c k j sl) s = .next { i.retire { s with cur := .lane c k j sl } with cur := s.cur } := by
  obtain ⟨hctx, hcore, hslot, hsl⟩ := Cur.lane.inj h.cur
  have hexec : execVHwait (laneRof (laneWordAt s c x (x.slices.getOr Slice.reset (lowSlice sl)).pc)) { s with cur := .lane c k j sl } =
      .next (i.retire { s with cur := .lane c k j sl }) := by
    subst hctx hcore
    exact engineStep_at h hm rfl (hwait_check ha hb0 hb hmine) ((hwaitWaits_eq ..).trans (congrArg not hset))
  rw [exec_eHwaitReturn]
  unfold execEHwaitReturn
  rw [hx]
  dsimp only
  rw [if_pos (by rw [hr, hmay, hword, hgang]; rfl), hexec]

theorem modSnd_freeCtr (s : State) (c k j : Nat) (f : Snd → Snd) : (s.modSnd c k j f).freeCtr = s.freeCtr := by
  unfold State.modSnd
  split <;> rfl

theorem chooseCand_single (w : Cand) : chooseCand [w] = some w := rfl

theorem settleWaits_single (s : State) (c k : Nat) (w : Cand) :
    settleWaits s c k [w] w = s.modSnd c k w.slot fun y =>
      { y with waits := y.waits.setOr 0 w.key 0, yielded := y.yielded.filter (· != w.key) } := by
  unfold settleWaits
  rw [List.foldl_cons, List.foldl_nil, if_pos ⟨rfl, rfl⟩]

/-- The scalar port of a quadrant takes its only sounder. -/
theorem scalarPort_taken {s : State} {c k j q : Nat} {x : Snd} (hq : quadSounders s k q = (c, [(j, x)])) (hmay : x.mayIssue = true)
    (hw : x.wait = .ready) (hport : (s.coreOf k).scalPort.find q = none) :
    exec (.eQuadrantArbitration k q false) s = .next { ((s.modSnd c k j (fun y =>
        { y with waits := y.waits.setOr 0 24 0, yielded := y.yielded.filter (· != 24) })).modCore k
        (fun z => { z with scalPort := z.scalPort.put q j })) with freeCtr := s.freeCtr + 16 } := by
  have hcand : [(j, x)].filter (fun e => e.2.mayIssue && e.2.wait.issues) = [(j, x)] := by
    rw [List.filter_cons_of_pos (by rw [hmay, hw]; rfl)]
    rfl
  refine (exec_eQuadrantArbitration ..).trans ?_
  unfold execEQuadrantArbitration
  rw [hq]
  dsimp only
  rw [hcand]
  simp only [Bool.false_eq_true, if_false, hport, List.map_cons, List.map_nil, chooseCand_single, settleWaits_single]
  rw [← modSnd_freeCtr s c k j fun y => { y with waits := y.waits.setOr 0 24 0, yielded := y.yielded.filter (· != 24) }]
  rfl

/-- Settles O44: each wait by its lemma above. -/
theorem waitsEnd : Obligations.WaitsEnd := by
  intro s c k j
  refine ⟨fun x n l hx hl hnext hn hroom hf => park_next (by subst hl; exact hnext) hn hroom hf,
    fun x l hl hx hroom hbank => resume_oldest hl hx hroom hbank, fun x hx hr hall hany => regang_joins hx hr hall hany,
    fun x b q hx hr hq => block_starts hx hr hq, fun p cid e t due he ht hword hend hdue hnone => match_times_out he ht hword hend hdue hnone,
    fun x d ref token hx hw hmay hphase => barWait_released hx hw hmay hphase, fun x d n hx hw he hmay => waitany_wakes hx hw he hmay,
    fun x n due hx ht hdue harm => timer_latches hx ht hdue harm, fun x w ins hx hw hmay hi => ?_,
    fun x sl i hx hr hmay hword hgang h hm ha hb0 hb hmine hset => hwait_returns hx hr hmay hword hgang h hm ha hb0 hb hmine hset,
    fun q x hq hmay hw hport => scalarPort_taken hq hmay hw hport⟩
  have hmem := List.contains_iff_mem.mp hi
  obtain ⟨t, ht⟩ := turnWord_next (u := { s with cur := .scalar c k j }) ⟨rfl, hx⟩ _ hmem
  exact ⟨t, ht, turn_taken hx hw hmay hmem ht⟩

end Sys2Proof.Machine
end

section
/-! Engine commands fire, complete, are retried and fault (O45). -/

namespace Sys2Proof.Machine

open Sys2Proof State

/-! ## The array -/

section
variable {s : State} {c k : Nat} {m : MatCmd} (h : arrayHead s c k = some m)
include h

theorem arrayComplete_effect (hb : badScale s c k m = none) :
    exec (.eArrayCommandComplete c k) s = .next (leaveArray (matEffect s c k m) c k m) := by
  refine (exec_eArrayCommandComplete ..).trans (congrArg Host.Outcome.next ?_)
  rw [h]
  dsimp only
  rw [hb]

theorem arrayComplete_lost {a : Nat} (hb : badScale s c k m = some a) :
    exec (.eArrayCommandComplete c k) s = .next (faultArray s c k m a) := by
  refine (exec_eArrayCommandComplete ..).trans (congrArg Host.Outcome.next ?_)
  rw [h]
  dsimp only
  rw [hb]

theorem array_retried : exec (.eArrayTransientError c k) s =
    .next (countError (putMat s c k { m with retries := m.retries + 1 }) arrayRetries) := by
  refine (exec_eArrayTransientError ..).trans (congrArg Host.Outcome.next ?_)
  rw [h]

theorem array_lost (n : Nat) : exec (.eEngineAccessFault c k 1 n true) s = .next
    (if m.scales.2 = 0 then faultArray s c k m 0 else faultArray (poisonLoc s c k (.sp m.scales.1)) c k m m.scales.1) := by
  refine (exec_eEngineAccessFault ..).trans (congrArg Host.Outcome.next ?_)
  rw [h]
  exact if_pos rfl

end

theorem fireArray_plain {s : State} {c k : Nat} {m : MatCmd} (h : (s.ccOf c k).array.find? (fun e => !e.fired) = some m)
    (hin : m.inBuf = none) (hout : m.outBuf = none) (ha : isActive s c k = true)
    (hacq : acqMet s c k m.snd m.slices m.after (ctlScope m.ctl == 2) = true) :
    fireArray s c k = putMat s c k { m with fired := true, since := if ctlAcq m.ctl then s.writes else m.since } := by
  have hinBuf : MatCmd.inBuf { m with since := if ctlAcq m.ctl then s.writes else m.since } = none := hin
  have houtBuf : MatCmd.outBuf { m with since := if ctlAcq m.ctl then s.writes else m.since } = none := hout
  unfold fireArray
  dsimp only
  rw [h]
  dsimp only
  rw [hin, hout, ha, hacq, hinBuf, houtBuf]
  rfl

/-! ## Copies -/

section
variable {s : State} {c k n : Nat} {y : CopyCmd}

theorem copy_faults {cause d a : Nat} {ue : Bool} (h : (s.ccOf c k).copies.find? (fun e => e.id == n) = some y)
    (hbad : copyStep s c k y = .bad cause d a) :
    exec (.eEngineAccessFault c k 0 n ue) s = .next (faultCopy s c k y cause d a) := by
  refine (exec_eEngineAccessFault ..).trans (congrArg Host.Outcome.next ?_)
  rw [h]
  dsimp only
  rw [hbad]
  rfl

theorem fireCopy_plain (h : (s.ccOf c k).copies.find? (fun e => !e.fired) = some y) (hin : y.inBuf = none) (hout : y.outBuf = none)
    (hacq : acqMet s c k y.snd y.slices y.after (ctlScope y.ctl == 2) = true) :
    fireCopy s c k =
      putCopy s c k { y with fired := true, input := [], claim := 0, since := if ctlAcq y.ctl then s.writes else y.since } := by
  unfold fireCopy
  dsimp only
  rw [h]
  dsimp only
  rw [hin, hout, hacq]
  rfl

theorem inBuf_memory (h : y.lay.skind < 2) : y.inBuf = none := if_neg (Nat.ne_of_lt h)
theorem outBuf_memory (h : y.lay.dkind < 2) : y.outBuf = none := if_neg (Nat.ne_of_lt h)

/-- A copy that is under way and has nothing left to move is done. -/
theorem copyStep_done (hfired : y.fired = true) (hs : y.suspended = none) (hd : y.lay.dkind < 2) (hn : y.lay.total ≤ y.next) :
    copyStep s c k y = .done := by
  have hdkind : (y.lay.dkind == 3) = false := beq_false_of_ne (by omega)
  refine (if_neg ?_).trans (if_pos hn)
  rw [hfired, hs, hdkind]
  exact Bool.false_ne_true

/-- Nothing is to be settled of a copy from memory to memory. -/
theorem settleCopy_memory (hin : y.lay.skind < 2) (hout : y.lay.dkind < 2) (hf : y.fills = []) : settleCopy s c k y false = s := by
  unfold settleCopy
  rw [inBuf_memory hin, outBuf_memory hout, hf]
  dsimp only [List.foldl_nil]
  split
  · rfl
  · split <;> rfl

theorem finishCopy_memory (hin : y.lay.skind < 2) (hout : y.lay.dkind < 2) (hf : y.fills = []) (hu : y.unacked = 0)
    (hfol : y.follow = none) (hlive : ctxLive s c = true) :
    finishCopy s c k y = moveHandle (dropCopy s c k y.id) c k y.handle { state := 2, bytes := y.bytes, err := 0 } := by
  refine (if_neg ?_).trans ?_
  · rw [hu, bne_self_eq_false, Bool.and_false]
    exact Bool.false_ne_true
  · rw [settleCopy_memory hin hout hf, hfol]
    exact if_pos hlive

theorem dropCopy_copies : ((dropCopy s c k n).ccOf c k).copies = (s.ccOf c k).copies.filter (fun e => e.id != n) := by
  unfold dropCopy
  rw [State.modCC, ccOf_putCC_self]

theorem runCopy_memory {m : Nat} (h : (s.ccOf c k).copies.find? (fun e => e.id == n) = some y) (hfired : y.fired = true)
    (hs : y.suspended = none) (hin : y.lay.skind < 2) (hout : y.lay.dkind < 2) (hn : y.lay.total ≤ y.next) (hf : y.fills = [])
    (hu : y.unacked = 0) (hfol : y.follow = none) (hlive : ctxLive s c = true) :
    runCopy s c k n (m + 1) = moveHandle (dropCopy s c k n) c k y.handle { state := 2, bytes := y.bytes, err := 0 } := by
  have hid : y.id = n := eq_of_beq (List.find?_some h :)
  unfold runCopy
  rw [h]
  dsimp only
  rw [copyStep_done hfired hs hout hn]
  exact (finishCopy_memory hin hout hf hu hfol hlive).trans (by rw [hid])

end

/-! ## Routes -/

theorem routeStep_done {s : State} {r : RouteCmd} (hfired : r.fired = true) (hs : r.suspended = none) (hn : r.score.e 1 ≤ r.next)
    (hw : r.score.e 0 ≤ r.wrote) : routeStep s r = .done := by
  refine (if_neg ?_).trans ((if_neg (Nat.not_lt.mpr hn)).trans (if_neg (Nat.not_lt.mpr hw)))
  rw [hfired, hs]
  exact Bool.false_ne_true

theorem runRoute_leaves {s : State} {k m : Nat} {r : RouteCmd} {q : List RouteCmd} (h : s.routeQ.getOr [] k = r :: q)
    (hdone : routeStep s r = .done) (hu : r.unacked = 0) : runRoute s k (m + 1) = leaveRoute s r 0 := by
  unfold runRoute
  rw [h]
  dsimp only
  rw [hdone]
  refine if_neg ?_
  rw [hu, bne_self_eq_false, Bool.and_false]
  exact Bool.false_ne_true

theorem fireRoute_head {s : State} {k : Nat} {r : RouteCmd} {q : List RouteCmd} (h : s.routeQ.getOr [] k = r :: q)
    (hfired : r.fired = false) (hacq : acqMet s r.ctx r.core r.snd r.slices r.after (ctlScope r.ctl == 2) = true) :
    let r' := { r with fired := true, since := if ctlAcq r.ctl then s.writes else r.since }
    fireRoute s k = { s with routeQ := s.routeQ.put k (r' :: q) } := by
  unfold fireRoute
  rw [h]
  refine if_neg ?_
  rw [hfired, hacq]
  exact Bool.false_ne_true

/-- Settles O45: each event by its lemma above. -/
theorem engineEventsComplete : Obligations.EngineEventsComplete := by
  intro s c k n
  refine ⟨fun m h => ⟨fun hb => arrayComplete_effect h hb, fun a hb => arrayComplete_lost h hb, array_retried h, fun hz => ?_, fun hz => ?_⟩,
    fun y cause d a ue h hbad => copy_faults h hbad,
    fun y m h hfired hs hout hin hn hu hfol hf hlive => ⟨_, congrArg Host.Outcome.next
      (runCopy_memory h hfired hs hin hout hn hf hu hfol hlive), handleOf_moveHandle_self .., ?_, fun a => ?_⟩,
    fun r q m h hfired hs hn hw hu => congrArg Host.Outcome.next (runRoute_leaves h (routeStep_done hfired hs hn hw) hu),
    fun y h hin hout hacq => congrArg Host.Outcome.next (fireCopy_plain h hin hout hacq),
    fun m h hin hout ha hacq => congrArg Host.Outcome.next (fireArray_plain h hin hout ha hacq),
    fun r q h hfired hacq => congrArg Host.Outcome.next (fireRoute_head h hfired hacq)⟩
  · exact (array_lost h n).trans (congrArg Host.Outcome.next (if_pos hz))
  · exact (array_lost h n).trans (congrArg Host.Outcome.next (if_neg hz))
  · exact (copies_moveHandle ..).trans dropCopy_copies
  · unfold State.readPA
    rw [moveHandle_mem]
    rfl

end Sys2Proof.Machine
end

section
/-! The graph engine (O46). -/

namespace Sys2Proof.Machine

open Sys2Proof State

/-! ## Doorbells and intake -/

theorem doorbell_of {s : State} {q tail : Nat} (hq : q < 1024) :
    let x := s.queues.getOr Queue.reset q
    let y := if tail < x.tail ∨ x.head + 2 ^ x.cap < tail + (if x.tail < tail then permitsOf s q else 0) then { x with dberr := true }
      else { x with tail := tail }
    doorbell s q tail = { s with queues := s.queues.put q y } := by
  intro x y
  exact if_neg (Nat.not_le.mpr hq)

/-- The state once the packet at the head of a queue has been taken. -/
def intaken (s : State) (q : Nat) (x : Queue) : State :=
  let x' := { x with head := x.head + 1, served := some s.nextNode, lastNode := some s.nextNode, lastFail := false }
  { s with nextNode := s.nextNode + 1, queues := s.queues.put q x', freeCtr := s.freeCtr + 1 }

theorem intake_of {s : State} {d q : Nat} {x : Queue} (h : intakeQueue s d = some (q, x)) (hr : revoked s x.ctx = false)
    (hn : (s.nodes.filter (fun n => n.2.die == d)).length < 4096) (hb : bufRoom s d x.ctx (headPacket s x) = true) :
    exec (.ePacketIntake d) s = .next
      (if !ctxLive s x.ctx then refusePacket (intaken s q x) q x (headPacket s x) 0x06
       else if pktBad s x.ctx (headPacket s x) then refusePacket (intaken s q x) q x (headPacket s x) 0x04
       else poolNode (intaken s q x) d q x s.nextNode (headPacket s x)) := by
  refine (exec_ePacketIntake ..).trans (congrArg Host.Outcome.next ?_)
  rw [h]
  refine (if_neg (ne_true_of_eq_false hr)).trans (if_neg (not_or.mpr ⟨Nat.not_le.mpr hn, ?_⟩))
  rw [show bufRoom s d x.ctx (leNat _) = true from hb]
  exact Bool.false_ne_true

/-! ## Dispatch -/

/-- A die's only ready node is dispatched, unless it has to wait. -/
theorem dispatch_single {s : State} {d n : Nat} {m : Node}
    (h : s.nodes.filter (fun e => e.2.die == d && e.2.preds.isEmpty && e.2.st == .waiting) = [(n, m)]) :
    exec (.eNodeDispatch d) s = .next ((dispatchNode s n m).getD s) := by
  refine (exec_eNodeDispatch ..).trans (congrArg Host.Outcome.next ?_)
  rw [h]
  cases hd : dispatchNode s n m <;> simp [sortNodes, hd]

section
variable {s : State} {n : Nat} {m : Node}

theorem dispatch_failed (hf : m.failed = true) : dispatchNode s n m = some (completeNode s n 0x05) := if_pos hf

variable (hf : m.failed = false)
include hf

theorem dispatch_barrier (hk : pktKind m.pkt = 3) : dispatchNode s n m = some (completeNode s n 0x00) := by
  refine (if_neg (ne_true_of_eq_false hf)).trans ?_
  rw [hk]
  rfl

theorem dispatch_kernel (hk : pktKind m.pkt = 1) {z : Nat}
    (hz : m.count = some z ∨ (m.count = none ∧ pktCntmem m.pkt = false ∧ pktZsrc m.pkt = z)) :
    dispatchNode s n m = startKernel s n m z := by
  refine (if_neg (ne_true_of_eq_false hf)).trans ?_
  rw [hk]
  show dispatchKernel s n m = startKernel s n m z
  unfold dispatchKernel
  obtain hz | ⟨hnone, hmem, rfl⟩ := hz
  · rw [hz]
  · rw [hnone, hmem]
    rfl

theorem dispatch_arm (hk : pktKind m.pkt = 2) : dispatchNode s n m = some (dispatchArm s n m) := by
  refine (if_neg (ne_true_of_eq_false hf)).trans ?_
  rw [hk]
  rfl

theorem dispatch_engine (hk : pktKind m.pkt = 4 ∨ pktKind m.pkt = 5) : dispatchNode s n m = dispatchEngine s n m := by
  refine (if_neg (ne_true_of_eq_false hf)).trans ?_
  obtain hk | hk := hk <;> rw [hk] <;> rfl

end

theorem startKernel_fails {s : State} {n z st : Nat} {m : Node} (h : startLaunch s n m.pkt z none m.args = .fail st) :
    startKernel s n m z = some (completeNode s n st) := by
  unfold startKernel
  rw [h]

theorem startKernel_starts {s t : State} {n z : Nat} {m : Node} (h : startLaunch s n m.pkt z none m.args = .ok t)
    (hr : readArgs s n { m with count := some z } = none) : startKernel s n m z = some (setNode t n m .running) := by
  unfold startKernel
  rw [h]
  dsimp only
  rw [hr]

/-- The launch of `z` sounders that a kernel packet starts, its header at `a`. -/
def packetLaunch (s : State) (id p z a : Nat) : Launch :=
  { node := some id, rq := none, ctx := pktCtx p, image := pktImage p, z := z, n := pktN p, f := pktOvc p,
    cores := pktCores p, determ := pktDeterm p, sysrel := pktSysrel p, cbase := pktCBase p,
    ccount := pktCCount p, per := pktPer p, header := a, hdrLen := 64 + pktArgLen p, pkt := p, left := z,
    handle := none, admitted := !pktCores p, since := s.writes }

theorem startLaunch_of {s : State} {id p z a : Nat} {x : Ctx} {args : List Byte} (hz : z ≤ 16777215) (hz0 : z ≠ 0)
    (hd : rangeDown s p = false) (hstk : pktStkSize p = 0 ∨ pktStkBase p + z * pktStkSize p < 2 ^ 56)
    (hw : neverWhole s (pktCtx p) p z = false) (hx : s.ctx? (pktCtx p) = some x) (ha : areaPlace s x (64 + pktArgLen p) = some a) :
    let t := writeVirt (s.putCtx (pktCtx p) { x with area := (a, 64 + pktArgLen p) :: x.area }) (pktCtx p) a
      (toBytes 64 (launchHeader p z none) ++ gatherArgs s p (pktArgLen p - args.length) args)
    startLaunch s id p z none args = .ok (enqueueSounders
      { t with launches := t.launches.put s.nextLaunch (packetLaunch s id p z a), nextLaunch := s.nextLaunch + 1, freeCtr := t.freeCtr + 1 }
      (pktCtx p) s.nextLaunch p z) := by
  refine (if_neg (Nat.not_lt.mpr hz)).trans ((if_neg (ne_true_of_eq_false hd)).trans ((if_neg ?_).trans
    ((if_neg hz0).trans ((if_neg (ne_true_of_eq_false hw)).trans ?_))))
  · rintro ⟨hsize, hbase⟩
    exact hstk.elim hsize fun h => Nat.not_lt.mpr hbase h
  · rw [hx]
    dsimp only
    rw [ha]
    rfl

theorem dispatchArm_bad {s : State} {n : Nat} {m : Node} {h : RqHdr} (hh : readRqHdr s (pktCtx m.pkt) (pktRqHdr m.pkt) = some h)
    (hb : h.bad = true) : dispatchArm s n m = completeNode s n 0x03 := by
  unfold dispatchArm
  rw [hh]
  exact if_pos hb

theorem dispatchArm_arms {s : State} {n : Nat} {m : Node} {h : RqHdr} (hh : readRqHdr s (pktCtx m.pkt) (pktRqHdr m.pkt) = some h)
    (hb : h.bad = false) (hr : readArgs s n m = none) :
    let r : RecQueue := { node := n, ctx := pktCtx m.pkt, hdr := pktRqHdr m.pkt, pkt := m.pkt, next := h.head, flushAt := none, runs := [] }
    dispatchArm s n m = { setNode s n m .running with recqs := s.recqs.put n r } := by
  intro r
  unfold dispatchArm
  rw [hh]
  refine (if_neg (ne_true_of_eq_false hb)).trans ?_
  rw [hr]

/-! ## Copies and routes of a graph -/

/-- The request of a copy or route that a packet names, on its core (R369). -/
def packetReq (s : State) (p : Nat) : EngReq :=
  { ctx := pktCtx p, core := pktCBase p, launch := s.nextLaunch, image := pktImage p, uid := s.nextLaunch * 2 ^ 24, slices := 0,
    wid := 0, seq := 0, since := s.writes }

/-- The launch that stands for the engine command of a packet. -/
def engineLaunch (n p : Nat) : Launch :=
  { node := some n, rq := none, ctx := pktCtx p, image := pktImage p, z := 0, n := 0, f := 0, cores := false, determ := false,
    sysrel := pktSysrel p, cbase := pktCBase p, ccount := 1, per := 1, header := 0, hdrLen := 0, pkt := p, left := 0,
    handle := some (pktCBase p, pktS p 0 % 2 ^ 32 % 256), admitted := true }

/-- The state from which the command of a packet is accepted. -/
def engineStarted (s : State) (n : Nat) (m : Node) : State :=
  { setNode s n m .running with launches := s.launches.put s.nextLaunch (engineLaunch n m.pkt), nextLaunch := s.nextLaunch + 1 }

section
variable {s : State} {n : Nat} {m : Node}

theorem dispatchEngine_down
    (h : s.plat.dieup.getLsbD (dieOf (pktCBase m.pkt)) = false ∨ (s.coreOf (pktCBase m.pkt)).failed = true) :
    dispatchEngine s n m = some (completeNode s n 0x07) := by
  refine if_pos ?_
  obtain h | h := h
  · rw [h]
    rfl
  · rw [h, Bool.or_true]

variable (hup : s.plat.dieup.getLsbD (dieOf (pktCBase m.pkt)) = true) (hok : (s.coreOf (pktCBase m.pkt)).failed = false)
include hup hok

theorem serving : ¬ (!s.plat.dieup.getLsbD (dieOf (pktCBase m.pkt)) || (s.coreOf (pktCBase m.pkt)).failed) = true := by
  rw [hup, hok]
  exact Bool.false_ne_true

theorem dispatchEngine_away (ha : isActive s (pktCtx m.pkt) (pktCBase m.pkt) = false) : dispatchEngine s n m = none := by
  refine (if_neg (serving hup hok)).trans (if_pos ?_)
  rw [ha]
  rfl

variable (ha : isActive s (pktCtx m.pkt) (pktCBase m.pkt) = true)
include ha

theorem dispatchEngine_bad {cause a : Nat}
    (hc : (if pktKind m.pkt = 4 then
        copyChecks s (packetReq s m.pkt) (pktS m.pkt 0 % 2 ^ 32) (pktS m.pkt 1 % 2 ^ 32) (coords (pktS m.pkt 2) (pktS m.pkt 3))
      else routeChecks s (packetReq s m.pkt) (pktS m.pkt 0 % 2 ^ 32) (pktS m.pkt 1 % 2 ^ 32)) = some (cause, a)) :
    dispatchEngine s n m = some (failNode s n m cause (pktS m.pkt 0 % 2 ^ 32 % 256) a 0) := by
  refine (if_neg (serving hup hok)).trans ((if_neg (not_negated ha)).trans ?_)
  unfold packetReq at hc
  dsimp only
  rw [hc]

theorem dispatchEngine_copy (hk : pktKind m.pkt = 4)
    (hc : copyChecks s (packetReq s m.pkt) (pktS m.pkt 0 % 2 ^ 32) (pktS m.pkt 1 % 2 ^ 32) (coords (pktS m.pkt 2) (pktS m.pkt 3)) = none)
    (hp : padBad s (pktCtx m.pkt) (pktCBase m.pkt) (pktS m.pkt 1 % 2 ^ 32) 128 = none) :
    let lay := layoutAt s (packetReq s m.pkt) (pktS m.pkt 1 % 2 ^ 32)
    let o := coords (pktS m.pkt 2) (pktS m.pkt 3)
    dispatchEngine s n m = if copyWaits s (packetReq s m.pkt) (pktS m.pkt 0 % 2 ^ 32) lay o = true then none
      else some (acceptCopy (engineStarted s n m) (packetReq s m.pkt) (pktS m.pkt 0 % 2 ^ 32) lay o none) := by
  refine (if_neg (serving hup hok)).trans ((if_neg (not_negated ha)).trans ?_)
  unfold packetReq at hc
  simp only [hk, if_true, hc, hp]
  rfl

theorem dispatchEngine_route (hk : pktKind m.pkt = 5)
    (hc : routeChecks s (packetReq s m.pkt) (pktS m.pkt 0 % 2 ^ 32) (pktS m.pkt 1 % 2 ^ 32) = none)
    (hp : padBad s (pktCtx m.pkt) (pktCBase m.pkt) (pktS m.pkt 1 % 2 ^ 32) 64 = none)
    (hs : padBad s (pktCtx m.pkt) (pktCBase m.pkt) (routeRecs s (packetReq s m.pkt) (pktS m.pkt 1 % 2 ^ 32)).1.srec 128 = none) :
    let recs := routeRecs s (packetReq s m.pkt) (pktS m.pkt 1 % 2 ^ 32)
    dispatchEngine s n m = if routeWaits s (packetReq s m.pkt) (pktS m.pkt 0 % 2 ^ 32) recs.2 = true then none
      else some (acceptRoute (engineStarted s n m) (packetReq s m.pkt) (pktS m.pkt 0 % 2 ^ 32) recs.1 recs.2) := by
  have hne : ¬ pktKind m.pkt = 4 := by rw [hk]; decide
  refine (if_neg (serving hup hok)).trans ((if_neg (not_negated ha)).trans ?_)
  unfold packetReq at hc hs
  simp only [if_neg hne, hc, hp, hs]
  rfl

end

theorem getD_ite {P : Prop} [Decidable P] {α : Type} (a b : α) : (if P then none else some b).getD a = if P then a else b := by
  by_cases h : P
  · rw [if_pos h, if_pos h, Option.getD_none]
  · rw [if_neg h, if_neg h, Option.getD_some]

theorem startLaunch_tooMany {s : State} {id p z : Nat} {args : List Byte} (hz : 16777215 < z) :
    startLaunch s id p z none args = .fail 0x02 := if_pos hz

/-! ## Admission -/

/-- What the sounder at the head of a waiting list starts as, in the slot it takes. -/
theorem admitHead_of {s : State} {c k l i j : Nat} {rest : List (Nat × Nat)} {ln : Launch} {im : Image}
    (hw : (s.ccOf c k).waiting = (l, i) :: rest) (hj : freeSlot (s.ccOf c k) = some j) (hl : s.launch? l = some ln)
    (him : s.image? c ln.image = some im) :
    let y := Snd.fresh l i ln.image ln.n (s.ccOf c k).nextAge ln.cores ln.determ (startRegs ln im.constVA i) im.entry ln.since
    let cc := s.ccOf c k
    admitHead s c k = wake (s.putCC c k { cc with waiting := rest, nextAge := cc.nextAge + 1, sounders := cc.sounders.put j y }) c k := by
  intro y cc
  unfold admitHead
  simp only [hw, hj, hl, him]
  rfl

theorem sounderAdmission_of {s : State} {c k l i j : Nat} {rest : List (Nat × Nat)} {ln : Launch} {im : Image}
    (hlive : ctxLive s c = true) (hres : (residentBank s c k).isSome = true) (hadm : admissible s c k = true)
    (hw : (s.ccOf c k).waiting = (l, i) :: rest) (hj : freeSlot (s.ccOf c k) = some j) (hl : s.launch? l = some ln)
    (him : s.image? c ln.image = some im) :
    ∃ t y, exec (.eSounderAdmission c k) s = .next t ∧ t.snd? c k j = some y ∧
      y = Snd.fresh l i ln.image ln.n (s.ccOf c k).nextAge ln.cores ln.determ (startRegs ln im.constVA i) im.entry ln.since ∧
      (t.ccOf c k).waiting = rest ∧ (∀ m : Nat, m ≠ j → t.snd? c k m = s.snd? c k m) ∧ (∀ a : Nat, t.readPA a = s.readPA a) := by
  have hexec : exec (.eSounderAdmission c k) s = .next (admitHead s c k) := by
    refine (exec_eSounderAdmission ..).trans (congrArg Host.Outcome.next (if_pos ?_))
    rw [hlive, hres, hadm]
    rfl
  rw [admitHead_of hw hj hl him] at hexec
  refine ⟨_, _, hexec, ?_, rfl, ?_, fun m hm => ?_, fun a => (SameEngines.wake _ c k).readPA a⟩
  · rw [State.snd?, wake_cc, ccOf_putCC_self]
    exact Tbl.find_put_self ..
  · rw [wake_cc, ccOf_putCC_self]
  · rw [State.snd?, wake_cc, ccOf_putCC_self]
    exact Tbl.find_put_ne _ _ hm

theorem coresidentAdmission_of {s : State} {n : Nat} {ln : Launch} (hl : s.launch? n = some ln) (hadm : ln.admitted = false)
    (hlive : ctxLive s ln.ctx = true) (hfit : ((List.range ln.ccount).map (· + ln.cbase)).all (wholeFits s ln n) = true) :
    exec (.eCoresidentAdmission n) s =
      .next ((((List.range ln.ccount).map (· + ln.cbase)).foldl (fun s c =>
          admitMany s ln.ctx c (placedOn ln.z ln.per ln.cbase ln.ccount c).length) s).modLaunch n (fun ln => { ln with admitted := true })) := by
  refine (exec_eCoresidentAdmission ..).trans (congrArg Host.Outcome.next ?_)
  rw [hl]
  refine if_neg ?_
  rw [hadm, hlive, hfit]
  exact Bool.false_ne_true

/-! ## Record queues and completion -/

section
variable {s : State} {n : Nat} {r : RecQueue} {h : RqHdr} (hr : s.recqs.find n = some r) (hh : readRqHdr s r.ctx r.hdr = some h)
include hr hh

theorem fullTile_of (hready : h.tile ≤ rqReady s r.ctx h h.tile r.next) :
    exec (.eRecordQueueFullTile n) s = .next (launchRecords s n r h h.tile) := by
  refine (exec_eRecordQueueFullTile ..).trans (congrArg Host.Outcome.next ?_)
  rw [hr]
  dsimp only
  rw [hh]
  exact if_pos hready

variable (hf : h.flush ≠ 0) (hpos : 0 < rqReady s r.ctx h h.tile r.next)
include hf hpos

theorem flushQueue_of : flushQueue s n = match r.flushAt with
    | none => if rqReady s r.ctx h h.tile r.next < h.tile then
        { s with recqs := s.recqs.put n { r with flushAt := some (s.cycle + 64 * h.flush) } } else s
    | some t => if t ≤ s.cycle then launchRecords s n r h (rqReady s r.ctx h h.tile r.next) else s := by
  unfold flushQueue
  rw [hr]
  dsimp only
  rw [hh]
  exact (if_neg (not_or.mpr ⟨hpos.ne', hf⟩)).trans rfl

theorem flushTimer_starts (hlt : rqReady s r.ctx h h.tile r.next < h.tile) (hnone : r.flushAt = none) :
    let r' : RecQueue := { r with flushAt := some (s.cycle + 64 * h.flush) }
    exec (.eFlushTimerExpiry n) s = .next { s with recqs := s.recqs.put n r' } := by
  intro r'
  refine (exec_eFlushTimerExpiry ..).trans (congrArg Host.Outcome.next ?_)
  rw [flushQueue_of hr hh hf hpos, hnone]
  exact if_pos hlt

theorem flushTimer_expires {due : Nat} (hsome : r.flushAt = some due) (hdue : due ≤ s.cycle) :
    exec (.eFlushTimerExpiry n) s = .next (launchRecords s n r h (rqReady s r.ctx h h.tile r.next)) := by
  refine (exec_eFlushTimerExpiry ..).trans (congrArg Host.Outcome.next ?_)
  rw [flushQueue_of hr hh hf hpos, hsome]
  exact if_pos hdue

end

theorem launchCompletion_of {s : State} {n : Nat} {ln : Launch} (hl : s.launch? n = some ln) (hover : launchOver s n ln = true) :
    exec (.eLaunchCompletion n) s = .next (endLaunch s n ln) := by
  refine (exec_eLaunchCompletion ..).trans (congrArg Host.Outcome.next ?_)
  rw [hl]
  exact if_pos hover

/-- Settles O46: each event of the graph engine by the function that carries it out; what a dispatched node does by the kind of
its packet. -/
theorem graphEngineEventsComplete : Obligations.GraphEngineEventsComplete := by
  intro s d q n
  refine ⟨fun tail hq => ?_, fun x hx hrev => ?_, fun m hm => ?_, ?_, ?_, fun r h hr hh => ?_, ?_⟩
  · exact (exec_eQueueDoorbell ..).trans (congrArg Host.Outcome.next (doorbell_of hq))
  · intro pkt x' t hroom hbuf
    have hin := intake_of hx hrev hroom hbuf
    refine ⟨fun hlive => ?_, fun hlive hbad => ?_, fun hlive hbad => ?_⟩
    · simp only [hlive] at hin
      exact hin
    · rw [show pktBad s x.ctx (headPacket s x) = true from hbad, hlive] at hin
      exact hin
    · rw [show pktBad s x.ctx (headPacket s x) = false from hbad, hlive] at hin
      exact hin
  · have hgo {o : Option State} (h : dispatchNode s n m = o) : exec (.eNodeDispatch d) s = .next (o.getD s) :=
      h ▸ dispatch_single hm
    refine ⟨fun hf => hgo (dispatch_failed hf), fun hf hk => hgo (dispatch_barrier hf hk), ?_, ?_, ?_, ?_, ?_⟩
    · intro hf hk hmem hcount hz
      exact hgo ((dispatch_kernel hf hk (.inr ⟨hcount, hmem, rfl⟩)).trans (startKernel_fails (startLaunch_tooMany hz)))
    · intro z x a hf hk hcount hz hz0 hdown hstk hw hx ha hargs ln t
      exact hgo ((dispatch_kernel hf hk hcount).trans
        (startKernel_starts (startLaunch_of hz hz0 hdown hstk hw hx ha) hargs))
    · intro h hf hk hh
      refine ⟨fun hb => ?_, fun hb hargs => ?_⟩
      · exact hgo ((dispatch_arm hf hk).trans (congrArg some (dispatchArm_bad hh hb)))
      · exact hgo ((dispatch_arm hf hk).trans (congrArg some (dispatchArm_arms hh hb hargs)))
    · intro hf hk hdown
      exact hgo ((dispatch_engine hf hk).trans (dispatchEngine_down hdown))
    · intro hf hk hup hok ctx core q' ctl r o ln t
      refine ⟨fun ha => ?_, fun cause a ha hc => ?_, fun hk ha hc hp => ?_, fun hk ha hc hp hs => ?_⟩
      · exact hgo ((dispatch_engine hf hk).trans (dispatchEngine_away hup hok ha))
      · exact hgo ((dispatch_engine hf hk).trans (dispatchEngine_bad hup hok ha hc))
      · refine (hgo ((dispatch_engine hf (.inl hk)).trans (dispatchEngine_copy hup hok ha hk hc hp))).trans ?_
        exact congrArg Host.Outcome.next (getD_ite ..)
      · refine (hgo ((dispatch_engine hf (.inr hk)).trans (dispatchEngine_route hup hok ha hk hc hp hs))).trans ?_
        exact congrArg Host.Outcome.next (getD_ite ..)
  · intro c k l i rest j ln im hlive hres hadm hw hj hl him
    exact sounderAdmission_of hlive hres hadm hw hj hl him
  · intro ln hl hadm hlive hfit
    exact coresidentAdmission_of hl hadm hlive hfit
  · exact ⟨fullTile_of hr hh, fun hf hpos hlt hnone => flushTimer_starts hr hh hf hpos hlt hnone,
      fun due hf hpos hsome hdue => flushTimer_expires hr hh hf hpos hsome hdue⟩
  · intro ln hl hover
    exact launchCompletion_of hl hover

end Sys2Proof.Machine
end

section
/-! Time slices, banks, the badger and the failure of cores (O47). -/

namespace Sys2Proof.Machine

open Sys2Proof State

/-! ## Slices and safe points -/

section
variable {s : State} {k : Nat} (hh : (s.coreOf k).holding = false) (hf : (s.coreOf k).failed = false)
include hh hf

theorem not_held_or_failed : ¬ ((s.coreOf k).holding || (s.coreOf k).failed) = true := by
  rw [hh, hf]
  exact Bool.false_ne_true

variable (hc : (s.coreOf k).sliceEnd ≤ s.cycle)
include hc

theorem endSlice_alone (hs : shadowCtx (s.coreOf k) = none) : endSlice s k = startSlice s k (s.coreOf k).sliceEnd := by
  refine (if_neg (not_held_or_failed hh hf)).trans ((if_pos hc).trans (if_neg ?_))
  rw [hs]
  exact Bool.false_ne_true

theorem endSlice_holds {o : Nat} (hs : shadowCtx (s.coreOf k) = some o) (hr : readyToRun s o k = true) :
    endSlice s k = s.putCore k { s.coreOf k with holding := true, sliceAt := (s.coreOf k).sliceEnd } := by
  refine (if_neg (not_held_or_failed hh hf)).trans ((if_pos hc).trans (if_pos ?_))
  rw [hs]
  exact hr

end

theorem safePoint_of {s : State} {c k o : Nat} (hh : (s.coreOf k).holding = true) (hm : (s.coreOf k).moveTo = none)
    (ha : activeCtx (s.coreOf k) = some c) (ho : shadowCtx (s.coreOf k) = some o) (hsafe : atSafePoint s c k = true) :
    exec (.eSafePoint k) s =
      .next (swapBanks (s.modCC c k (fun cc => { cc with debt := cc.debt + (s.cycle - (s.coreOf k).sliceAt) })) k) := by
  refine (exec_eSafePoint ..).trans (congrArg Host.Outcome.next ((if_neg ?_).trans ?_))
  · rw [hh, hm]
    exact Bool.false_ne_true
  · rw [ha, ho]
    exact if_pos hsafe

/-! ## Saves and fills -/

/-- The fill of the context whose turn is next begins after the save of the one that leaves. -/
theorem saveDone_of {s : State} {c k o : Nat} (hs : shadowCtx (s.coreOf k) = some c) (hh : (s.coreOf k).holding = false)
    (ho : nextTurn s k = some o) (hret : canReturn s c k = true) (ue : Bool) :
    exec (.eBadgerSaveDone k ue) s = .next (if ue then segState (saveFailed s c k (1 - (s.coreOf k).active)) o k 2
      else if fillsDone (s.ccOf c k) then segState (leaveBank s c k (1 - (s.coreOf k).active)) o k 2 else s) := by
  refine (exec_eBadgerSaveDone ..).trans (congrArg Host.Outcome.next ?_)
  rw [hs, ho]
  refine (if_neg ?_).trans (if_neg (not_negated hret))
  rw [hh]
  exact Bool.false_ne_true

theorem saveDone_waits {s : State} {c k : Nat} (hs : shadowCtx (s.coreOf k) = some c) (hn : nextTurn s k = none) (ue : Bool) :
    exec (.eBadgerSaveDone k ue) s = .next s := by
  refine (exec_eBadgerSaveDone ..).trans (congrArg Host.Outcome.next ?_)
  rw [hs, hn]
  exact if_pos (by rw [Option.isNone_none, Bool.or_true])

theorem fillDone_of {s : State} {c k : Nat} (hs : shadowCtx (s.coreOf k) = none) (hf : (s.coreOf k).failed = false)
    (hh : (s.coreOf k).holding = false) (hlive : ctxLive s c = true) (hshare : (s.ccOf c k).share.regs ≠ 0)
    (hres : residentBank s c k = none) (hfit : fitsBeside s c k = true) (hfree : banksFree s c k = true)
    (hturn : (nextTurn s k).getD c = c) (ue : Bool) :
    exec (.eBadgerFillDone c k ue) s = .next (if ue then saveFailed s c k (1 - (s.coreOf k).active)
      else
        let t := (enterBank s c k (1 - (s.coreOf k).active)).modCore k (fun x => { x with turns := x.turns.filter (· != c) ++ [c] })
        if (activeCtx (s.coreOf k)).isNone then swapBanks t k else t) := by
  refine (exec_eBadgerFillDone ..).trans (congrArg Host.Outcome.next (if_neg ?_))
  rw [hs, hf, hh, hlive, hres, hfit, hfree, hturn]
  simp [hshare]

/-! ## SRAM banks -/

section
variable {s : State} {k b v : Nat} (hb : b < 24)
include hb

/-- A write of a bank control entry with a mode or owner that is none is refused with ERR 2. -/
theorem bankWrite_invalid (h : v % 4 = 3 ∨ v / 16 % 4 = 3 ∨ (v % 4 = 0 ∧ v / 16 % 4 ≠ 0) ∨ (v % 4 ≠ 0 ∧ v / 16 % 4 = 0)) :
    let e := (s.coreOf k).entries.getOr BankEntry.reset b
    bankWrite s k b v = s.putCore k { s.coreOf k with entries := (s.coreOf k).entries.put b { e with err := 2 } } :=
  (if_neg (Nat.not_le.mpr hb)).trans (if_pos h)

variable (h : ¬ (v % 4 = 3 ∨ v / 16 % 4 = 3 ∨ (v % 4 = 0 ∧ v / 16 % 4 ≠ 0) ∨ (v % 4 ≠ 0 ∧ v / 16 % 4 = 0)))
include h

theorem bankWrite_valid :
    let e := (s.coreOf k).entries.getOr BankEntry.reset b
    let put := fun e : BankEntry => s.putCore k { s.coreOf k with entries := (s.coreOf k).entries.put b e }
    bankWrite s k b v = if heldByCB s k b && (v % 4 != 2 || v / 16 % 4 != e.owner) then put { e with err := 1 }
      else put (if e.busy = true then { e with err := 3 } else { e with err := 0, busy := true, next := some (v % 4, v / 16 % 4) }) := by
  intro e put
  refine (if_neg (Nat.not_le.mpr hb)).trans ((if_neg h).trans ?_)
  exact congrArg (ite _ _) (apply_ite put ..).symm

end

theorem bankChange_of {s : State} {k b mode owner : Nat} (hn : ((s.coreOf k).entries.getOr BankEntry.reset b).next = some (mode, owner))
    (hbusy : ((s.coreOf k).entries.getOr BankEntry.reset b).busy = true) (hd : bankDrained s k b = true) :
    let e := (s.coreOf k).entries.getOr BankEntry.reset b
    ∃ t, exec (.eBankChangeComplete k b) s = .next t ∧ (t.coreOf k).entries.getOr BankEntry.reset b =
      { mode := mode, owner := owner, busy := false, err := e.err, wcount := e.wcount + 1, next := none } := by
  intro e
  let y : BankEntry := { mode := mode, owner := owner, busy := false, err := e.err, wcount := e.wcount + 1, next := none }
  have hmod : ∃ t : State, exec (.eBankChangeComplete k b) s = .next (t.modCore k (fun c => { c with entries := c.entries.put b y })) := by
    have hgo : ¬ (!e.busy || !bankDrained s k b) = true := by
      rw [hbusy, hd]
      exact Bool.false_ne_true
    rw [exec_eBankChangeComplete, execEBankChangeComplete]
    dsimp only
    rw [hn]
    exact ⟨_, congrArg Host.Outcome.next (if_neg hgo)⟩
  obtain ⟨t, ht⟩ := hmod
  refine ⟨_, ht, ?_⟩
  rw [State.modCore, coreOf_putCore_self]
  exact Tbl.getOr_put_self ..

/-! ## Power gating and the failure of cores -/

section
variable {s : State} {k : Nat} (h0 : (s.coreOf k).bank0 = none) (h1 : (s.coreOf k).bank1 = none)
include h0 h1

theorem powerGate_of (hf : (s.coreOf k).failed = false) :
    exec (.eCorePowerGate k) s = .next (s.putCore k { s.coreOf k with gated := true }) := by
  refine (exec_eCorePowerGate ..).trans (congrArg Host.Outcome.next (if_pos ?_))
  rw [h0, h1, hf]
  rfl

theorem activeCtx_none : activeCtx (s.coreOf k) = none := by
  unfold activeCtx
  rw [h0, h1, ite_self]

theorem movable_empty (lost : Nat) : movable s k lost = true := by
  unfold movable
  simp [h0, h1]

theorem evacuate_empty (lost : Nat) : evacuate s k lost = s := by
  have hu : unbindBoth s k = s := by
    unfold unbindBoth
    rw [h0, h1]
    rfl
  unfold evacuate
  rw [hu]
  simp [h0, h1]

/-- The core once it is bound to a spare with both banks empty. -/
theorem coreOf_moveCore_empty (spare lost : Nat) : (moveCore s k spare lost).coreOf k =
    { s.coreOf k with phys := spare, failed := false, gated := false, memo := [], moveTo := none, holding := false } ∧
    (moveCore s k spare lost).plat.spares = s.plat.spares.put (dieOf k) ((s.plat.spares.getOr [] (dieOf k)).erase spare) := by
  have hover : addOverrun s k = s := by
    unfold addOverrun
    dsimp only
    rw [activeCtx_none h0 h1]
  let p := { s.plat with spares := s.plat.spares.put (dieOf k) ((s.plat.spares.getOr [] (dieOf k)).erase spare) }
  let x := { s.coreOf k with phys := spare, failed := false, gated := false, memo := [], moveTo := none }
  have hcore (t : State) (y : Core) : (t.putCore k y).coreOf k = y := coreOf_putCore_self ..
  have hmove : moveCore s k spare lost = startSlice ((({ s with plat := p } : State).putCore k x).putCore k x) k s.cycle := by
    unfold moveCore
    simp only [hover, evacuate_empty h0 h1, h0, h1, State.modCore, hcore]
    rfl
  have hact : activeCtx x = none := activeCtx_none h0 h1
  have hslice (t : State) (a : Nat) : startSlice (t.putCore k x) k a = (t.putCore k x).putCore k { x with holding := false } := by
    unfold startSlice
    rw [hcore, hact]
    dsimp only
    rw [State.modCore, hcore]
  rw [hmove, hslice, hcore]
  exact ⟨rfl, rfl⟩

end

section
variable {s : State} {k : Nat}

theorem migration_of (spare lost : Nat) (hc : (s.plat.spares.getOr [] (dieOf k)).contains spare = true) :
    exec (.eCoreMigration k spare lost) s = .next (if movable s k lost then moveCore s k spare lost
      else s.putCore k { s.coreOf k with
        moveTo := some spare, holding := true, sliceAt := if (s.coreOf k).holding = true then (s.coreOf k).sliceAt else s.cycle }) := by
  have hne : ¬ (s.plat.spares.getOr [] (dieOf k)).isEmpty = true := by
    intro h
    rw [List.isEmpty_iff.mp h] at hc
    exact absurd hc Bool.false_ne_true
  exact (exec_eCoreMigration ..).trans (congrArg Host.Outcome.next ((if_neg hne).trans (if_neg (not_negated hc))))

/-- A failed core with a spare left is migrated. -/
theorem failure_migrates (spare lost : Nat) (hc : (s.plat.spares.getOr [] (dieOf k)).contains spare = true) :
    exec (.eCoreFailure k spare lost) s = exec (.eCoreMigration k spare lost) (s.modCore k (fun c => { c with failed := true })) := by
  refine (exec_eCoreFailure ..).trans (if_neg fun h => ?_)
  rw [List.isEmpty_iff.mp h] at hc
  exact absurd hc Bool.false_ne_true

theorem failure_loses (spare lost : Nat) (he : (s.plat.spares.getOr [] (dieOf k)).isEmpty = true) :
    exec (.eCoreFailure k spare lost) s = .next (loseCore { s with plat := { s.plat with degraded := true } } k) :=
  (exec_eCoreFailure ..).trans (if_pos he)

end

/-! ## Shoot-downs and the trap queue -/

theorem writeHost_hmem (s : State) (a : Nat) (bs : List Byte) : ∃ m, s.writeHost a bs = { s with hmem := m } := by
  induction bs generalizing s a with
  | nil => exact ⟨_, rfl⟩
  | cons b r ih => exact (ih _ _).imp fun m h => h.trans rfl

theorem completeReq_sends (s : State) (p tag st v : Nat) :
    (completeReq s p tag st v).out = .completion p tag st v :: s.out ∧ (completeReq s p tag st v).shoots = s.shoots := by
  obtain ⟨m, hm⟩ := writeHost_hmem s
    ((s.rings.getOr Ring.reset p).base + 64 * 2 ^ (s.rings.getOr Ring.reset p).log2 +
      16 * ((s.rings.getOr Ring.reset p).done % 2 ^ (s.rings.getOr Ring.reset p).log2)) (completionBytes tag st v)
  unfold completeReq
  dsimp only
  by_cases ho : (s.rings.getOr Ring.reset p).isOpen = true
  · rw [if_pos ho, hm]
    exact ⟨rfl, rfl⟩
  · rw [if_neg ho]
    exact ⟨rfl, rfl⟩

theorem freeFrames_keep (fs : List (Nat × Nat × Nat)) (s : State) :
    (fs.foldl (fun s (p, a, n) => freeFrame s p a n) s).out = s.out ∧
    (fs.foldl (fun s (p, a, n) => freeFrame s p a n) s).shoots = s.shoots := by
  induction fs generalizing s with
  | nil => exact ⟨rfl, rfl⟩
  | cons f r ih => exact ih _

theorem shootDown_of {s : State} {c : Nat} {h : Shoot} {r : List Shoot} (hs : s.shoots.getOr [] c = h :: r)
    (hp : shootPending s c h = false) : ∃ t, exec (.eShootDownComplete c) s = .next t ∧ t.shoots.getOr [] c = r ∧
      t.out = .completion h.reply.1 h.reply.2.1 0 h.reply.2.2 :: s.out := by
  let t : State := { raceWaiting s c h with shoots := s.shoots.put c r }
  let u := h.frames.foldl (fun s (p, a, n) => freeFrame s p a n) t
  obtain ⟨hout, hshoots⟩ := freeFrames_keep h.frames t
  obtain ⟨hout', hshoots'⟩ := completeReq_sends u h.reply.1 h.reply.2.1 0 h.reply.2.2
  refine ⟨completeReq u h.reply.1 h.reply.2.1 0 h.reply.2.2, ?_, ?_, ?_⟩
  · refine (exec_eShootDownComplete ..).trans (congrArg Host.Outcome.next ?_)
    rw [hs]
    exact if_neg (ne_true_of_eq_false hp)
  · rw [hshoots', hshoots]
    exact Tbl.getOr_put_self ..
  · rw [hout', hout]
    rfl

/-- The service answers a trap record that is no translation fault with `resume` and forwards it. -/
theorem recordService_trap {s : State} {c w : Nat} {x : Ctx} {r : List Nat} (hx : s.ctx? c = some x) (hr : x.trapq.recs = w :: r)
    (ht : recType w = 1) (hne : recCause w ≠ 0x1B) (resume : Nat) :
    let t := putTrapq s c x { x.trapq with recs := r, head := x.trapq.head + 1 }
    exec (.eSentUpRecordService c resume) s =
      .next (notify (releaseSounder t c (recToken w) resume) x.die 4 (if resume = 2 then 1 else 0) c 0 0 0 w) := by
  intro t
  refine (exec_eSentUpRecordService ..).trans (congrArg Host.Outcome.next ?_)
  rw [hx]
  dsimp only
  rw [hr]
  dsimp only
  rw [ht]
  exact if_neg hne

/-- Settles O47: each event of a core by the function that carries it out; a core whose banks are empty is bound to its spare at
once. -/
theorem schedulingEventsComplete : Obligations.SchedulingEventsComplete := by
  intro s c k b
  refine ⟨?_, ?_, ?_, ?_, ?_, ?_, ?_, ?_, ?_, ?_, ?_, ?_, ?_⟩
  · rintro x rfl hh hf hc
    refine ⟨fun hs => ?_, fun o hs hr => ?_⟩
    · exact (exec_eSliceEnd ..).trans (congrArg Host.Outcome.next (endSlice_alone hh hf hc hs))
    · exact (exec_eSliceEnd ..).trans (congrArg Host.Outcome.next (endSlice_holds hh hf hc hs hr))
  · rintro x o rfl hh hm ha ho hsafe
    exact safePoint_of hh hm ha ho hsafe
  · rintro x o rfl hs hh ho hret
    exact ⟨saveDone_of hs hh ho hret true, fun hfill => (saveDone_of hs hh ho hret false).trans
      (congrArg Host.Outcome.next (if_pos hfill))⟩
  · rintro x rfl hs hn ue
    exact saveDone_waits hs hn ue
  · rintro x rfl hs hf hh hlive hshare hres hfit hfree hturn
    have hdone := fillDone_of hs hf hh hlive hshare hres hfit hfree hturn
    refine ⟨hdone true, fun ha => (hdone false).trans (congrArg Host.Outcome.next ?_)⟩
    exact if_neg (ne_true_of_eq_false (Option.isNone_eq_false_iff.mpr ha))
  · rintro v e rfl hb mode owner put
    refine ⟨fun h => ?_, fun h hheld => ?_, fun h hheld => ?_⟩
    · exact (exec_eBankControlWrite ..).trans (congrArg Host.Outcome.next (bankWrite_invalid hb h))
    · exact (exec_eBankControlWrite ..).trans (congrArg Host.Outcome.next ((bankWrite_valid hb h).trans (if_pos hheld)))
    · exact (exec_eBankControlWrite ..).trans (congrArg Host.Outcome.next
        ((bankWrite_valid hb h).trans (if_neg (ne_true_of_eq_false hheld))))
  · rintro e mode owner rfl hn hbusy hd
    exact bankChange_of hn hbusy hd
  · exact powerGate_of
  · intro spare lost hc h0 h1
    let v := s.modCore k (fun c => { c with failed := true })
    have hv : v.coreOf k = { s.coreOf k with failed := true } := coreOf_putCore_self ..
    have hv0 : (v.coreOf k).bank0 = none := by rw [hv]; exact h0
    have hv1 : (v.coreOf k).bank1 = none := by rw [hv]; exact h1
    obtain ⟨hcore, hspares⟩ := coreOf_moveCore_empty h0 h1 spare lost
    obtain ⟨hcore', -⟩ := coreOf_moveCore_empty hv0 hv1 spare lost
    refine ⟨moveCore s k spare lost, moveCore v k spare lost, ?_, ?_, ?_, ?_, ?_, ?_, ?_⟩
    · exact (migration_of spare lost hc).trans (congrArg Host.Outcome.next (if_pos (movable_empty h0 h1 lost)))
    · rw [hcore]
    · rw [hcore]
    · rw [hspares]
      exact Tbl.getOr_put_self ..
    · refine (failure_migrates spare lost hc).trans ((migration_of (s := v) spare lost hc).trans ?_)
      exact congrArg Host.Outcome.next (if_pos (movable_empty hv0 hv1 lost))
    · rw [hcore']
    · rw [hcore']
  · rintro spare lost x rfl hc hm
    exact (migration_of spare lost hc).trans (congrArg Host.Outcome.next (if_neg (ne_true_of_eq_false hm)))
  · exact failure_loses
  · intro h r hs hp
    exact shootDown_of hs hp
  · rintro x w r t hx hr ht hne rfl resume
    exact recordService_trap hx hr ht hne resume

end Sys2Proof.Machine
end

section
/-! What other packages ask: permits, peer launches, window accesses, messages (O48). -/

namespace Sys2Proof.Machine

open Sys2Proof State

/-! ## Arrivals on a port -/

/-- An arrival on a port that is up, knows its mode, is not busy and finds it authentic is counted and acted on. -/
theorem onPort_acts {s : State} {v : Via} {src : Nat} (hsrc : src ≠ s.plat.pkgid) (hup : (s.port v.port).up = true)
    (hmode : foreignMode v.mode = false) (hbusy : portBusy s v.port = false) (hauth : authentic s v = true) (f : State → State) :
    onPort s v src f = f (countPacket s v.port) :=
  (if_neg hsrc).trans ((if_neg (not_negated hup)).trans ((if_neg (ne_true_of_eq_false hmode)).trans
    ((if_neg (ne_true_of_eq_false hbusy)).trans (if_neg (not_negated hauth)))))

/-- What is done with the state that a stream hands on depends only on its value there. -/
theorem onStream_congr {s : State} {key : Nat} {n : SeqNo} {f g : State → State × OutMsg} (h : f s = g s) :
    onStream s key n f = onStream s key n g := by
  unfold onStream
  rw [h]

/-! ## Permits and peer launches at the destination -/

section
variable {t : State} {src sctx q : Nat}

theorem grantPermit_denied (h : launchAdmitted t src sctx q = none) : grantPermit t src sctx q = (t, .refuseLaunch src sctx q 1) := by
  unfold grantPermit
  rw [h]

theorem placePeer_denied (h : launchAdmitted t src sctx q = none) (pkt id : Nat) :
    placePeer t src sctx q pkt id = (t, .refuseLaunch src sctx q 1) := by
  unfold placePeer
  rw [h]

variable {a : Acl} (h : launchAdmitted t src sctx q = some a)
include h

theorem grantPermit_admitted : grantPermit t src sctx q =
    let y := t.queues.getOr Queue.reset q
    let p : Permit := { id := t.nextPermit, pkg := src, ctx := sctx, queue := q, expiry := t.cycle + a.lease * microsecond, lease := a.lease }
    if permitsFrom t src sctx q < a.maxperm ∧ permitsOf t q + (y.tail - y.head) < 2 ^ y.cap then
      ({ t with granted := t.granted ++ [p], nextPermit := t.nextPermit + 1 }, .permit src q sctx (some (p.id, a.lease)))
    else (t, .permit src q sctx none) := by
  unfold grantPermit
  rw [h]

theorem placePeer_revoked (hr : revoked t (t.queues.getOr Queue.reset q).ctx = true) (pkt id : Nat) :
    placePeer t src sctx q pkt id = (t, .refuseLaunch src sctx q 1) := by
  unfold placePeer
  rw [h]
  exact if_pos hr

variable (hr : revoked t (t.queues.getOr Queue.reset q).ctx = false)
include hr

/-- A packet takes the slot that its permit reserves, if the permit is still held. -/
theorem placePeer_admitted (pkt id : Nat) : placePeer t src sctx q pkt id =
    let its := fun p : Permit => p.is src sctx q && p.id == id && decide (t.cycle ≤ p.expiry)
    let y := t.queues.getOr Queue.reset q
    let u := writeVirt { t with granted := dropFirst its t.granted } y.ctx (y.ring + 256 * (y.tail % 2 ^ y.cap))
      (toBytes 256 (rehome pkt y.ctx))
    if !t.granted.any its then (t, .refuseLaunch src sctx q 2)
    else ({ u with queues := u.queues.put q { y with tail := y.tail + 1 } }, .answer src 0 0 []) := by
  unfold placePeer
  rw [h]
  exact if_neg (ne_true_of_eq_false hr)

end

/-! ## Peer launches at the sender -/

section
variable {s : State} {q : Nat} {x : Queue} {c : Ctx} (hq : s.queues.find q = some x) (hen : x.en = true) (hout : x.peerout = true)
  (hne : x.head ≠ x.tail) (hlive : ctxLive s x.ctx = true) (hc : s.ctx? x.ctx = some c)
include hq hen hout hne hlive hc

theorem peerSend_of :
    let pkt := headPacket s x
    let pkg := pktDstPkg pkt
    let dq := pktDstQ pkt
    let n := s.nextSeq (streamKey pkg x.ctx dq)
    exec (.ePeerLaunchSend q) s = .next (match c.permits.find? (fun p : Permit => p.is pkg x.ctx dq) with
      | some p =>
        let u := n.2.putCtx x.ctx { c with permits := dropFirst (fun p : Permit => p.is pkg x.ctx dq) c.permits }
        ({ u with queues := u.queues.put q { x with head := x.head + 1 } } : State).sendOp (.launch pkg dq x.ctx pkt p.id n.1)
      | none =>
        if x.asked then s
        else ({ n.2 with queues := n.2.queues.put q { x with asked := true } } : State).sendOp (.permitAsk pkg dq x.ctx n.1)) := by
  intro pkt pkg dq n
  refine (exec_ePeerLaunchSend ..).trans (congrArg Host.Outcome.next ?_)
  rw [hq]
  refine (if_neg ?_).trans ?_
  · rw [hen, hout, hlive, beq_false_of_ne hne]
    exact Bool.false_ne_true
  · rw [hc] <;> rfl

end

/-! ## Messages -/

theorem mailInbound_admitted {t : State} {src sctx ctx core slot port : Nat} {bs : List Byte} (hd : determRunning t ctx = false) :
    mailInbound t port src sctx ctx core slot bs true = match mailArrive t src sctx ctx core slot 0 bs (.port port) with
      | (u, .status n) => (u, .answer src 0 n [])
      | (u, .nack w) => (u, .answer src 2 w [])
      | (u, .wait) => (u, .answer src 1 0 []) := by
  have hwid : (if t.launches.any (fun e => e.2.ctx == ctx && e.2.determ) = true then widPkg src else 0) = 0 :=
    if_neg (ne_true_of_eq_false hd)
  unfold mailInbound
  refine (if_neg Bool.false_ne_true).trans ?_
  dsimp only
  rw [hwid] <;> rfl

/-- Settles O48: an arrival that its port lets through is acted on as its own function says, in its place in the stream. -/
theorem inboundEventsComplete : Obligations.InboundEventsComplete := by
  intro s v src sctx q hsrc hup hmode hbusy hauth t y key
  have hport (f : State → State) : onPort s v src f = f t := onPort_acts hsrc hup hmode hbusy hauth f
  have hask (n : SeqNo) {r : State × OutMsg} (h : grantPermit t src sctx q = r) :
      exec (.ePermitRequest (.ask v src sctx q n)) s = .next (onStream t key n fun _ => r) :=
    (exec_ePermitRequest ..).trans (congrArg Host.Outcome.next ((hport _).trans (onStream_congr h)))
  have hpeer (n : SeqNo) {pkt id : Nat} {r : State × OutMsg} (h : placePeer t src sctx q pkt id = r) :
      exec (.ePeerLaunchArrival (.arrives v src sctx q pkt id n)) s = .next (onStream t key n fun _ => r) :=
    (exec_ePeerLaunchArrival ..).trans (congrArg Host.Outcome.next ((hport _).trans (onStream_congr h)))
  have hmail (ctx core slot : Nat) (bs : List Byte) (n : SeqNo) {r : State × OutMsg}
      (h : mailInbound t v.port src sctx ctx core slot bs (admits t src sctx ctx (·.mbox)) = r) :
      exec (.eMailboxMessageArrival (.inbound v src sctx ctx core slot bs n)) s =
        .next (onStream t (mailKey src sctx ctx core slot) n fun _ => r) :=
    (exec_eMailboxMessageArrival ..).trans (congrArg Host.Outcome.next ((hport _).trans (onStream_congr h)))
  have hwin (r : WinReq) : exec (.eInboundWindowAccess { via := v, srcpkg := src, srcctx := sctx, req := r }) s =
      .next (match aclFor t src sctx with
        | none => t.emit (.answer src 2 1 [])
        | some a =>
          if !a.win || !ctxLive t a.dstctx || revoked t a.dstctx then t.emit (.answer src 2 1 [])
          else match winAccess t a.dstctx src (if determRunning t a.dstctx then widPkg src else 0) r with
            | .ok u bs => u.emit (.answer src 0 0 bs)
            | .nack u why => u.emit (.answer src 2 why [])
            | .retry u => u.emit (.answer src 1 0 [])) :=
    (exec_eInboundWindowAccess ..).trans (congrArg Host.Outcome.next ((hport _).trans rfl))
  refine ⟨fun a n ha => ⟨fun hlt hfree => ?_, fun hno => ?_, fun pkt id => ?_⟩, fun n ha => ⟨?_, fun pkt id => ?_⟩, fun id n => ?_, ?_,
    ?_, fun r ha => ?_, fun a r ha => ⟨fun hno => ?_, fun hw hl hr => ?_⟩, fun ctx core slot bs n hadm => ?_,
    fun ctx core slot bs n hadm hd => ?_⟩
  · exact hask n ((grantPermit_admitted ha).trans (if_pos ⟨hlt, hfree⟩))
  · exact hask n ((grantPermit_admitted ha).trans (if_neg hno))
  · intro its
    refine ⟨fun hr => hpeer n (placePeer_revoked ha hr pkt id), fun hr hany => ?_, fun hr hany => ?_⟩
    · exact hpeer n ((placePeer_admitted ha hr pkt id).trans (if_neg (not_negated hany)))
    · exact hpeer n ((placePeer_admitted ha hr pkt id).trans (if_pos (congrArg (!·) hany)))
  · exact hask n (grantPermit_denied ha)
  · exact hpeer n (placePeer_denied ha pkt id)
  · exact (exec_ePermitRenewal ..).trans (congrArg Host.Outcome.next ((hport _).trans (onStream_congr rfl)))
  · exact exec_ePermitExpiry ..
  · rintro x c pkt hq rfl hen hout hne hlive hc pkg dq its n
    have hsend := peerSend_of hq hen hout hne hlive hc
    refine ⟨fun p hp => ?_, fun hp hasked => ?_⟩
    · refine hsend.trans (congrArg Host.Outcome.next ?_)
      rw [show c.permits.find? (fun p : Permit => p.is (pktDstPkg (headPacket s x)) x.ctx (pktDstQ (headPacket s x))) = some p from hp]
    · refine hsend.trans (congrArg Host.Outcome.next ?_)
      rw [show c.permits.find? (fun p : Permit => p.is (pktDstPkg (headPacket s x)) x.ctx (pktDstQ (headPacket s x))) = none from hp]
      exact if_neg (ne_true_of_eq_false hasked)
  · rw [hwin, ha]
  · rw [hwin, ha]
    refine congrArg Host.Outcome.next (if_pos ?_)
    obtain h | h | h := hno <;> simp [h]
  · rw [hwin, ha]
    refine congrArg Host.Outcome.next ((if_neg ?_).trans rfl)
    rw [hw, hl, hr]
    exact Bool.false_ne_true
  · rw [hmail ctx core slot bs n rfl, hadm]
    rfl
  · refine hmail ctx core slot bs n ?_
    exact hadm ▸ (mailInbound_admitted hd).trans rfl

end Sys2Proof.Machine
end

section
/-! Links: retransmission, failure, lanes, re-keying, collective packets, takeover, absence (O49). -/

namespace Sys2Proof.Machine

open Sys2Proof State

/-! ## Retransmission -/

section
variable {s : State} {n q : Nat} {p : Pending} (hp : s.pend.find n = some p) (hb : p.backoff = none) (hst : p.status = none)
  (hpkg : p.msg.pkg ≠ s.plat.pkgid) (hq : p.port = some q)
include hp hb hst hpkg hq

theorem timeOut_of : timeOut s n =
    if (s.upPorts p.msg.pkg).isEmpty then failOp s n p
    else if s.cycle < p.sentAt + rtoCycles s q then s
    else if bits (s.port q).cfg 39 36 ≤ p.retries then failOp s n p
    else resend (countError s packetRetries) n { p with retries := p.retries + 1 } := by
  have hdue : p.due s = some (p.sentAt + rtoCycles s q) := by
    unfold Pending.due
    rw [hb, hst, hq]
    exact if_neg (by simpa using hpkg)
  unfold timeOut
  rw [hp]
  dsimp only
  rw [hdue, hq]
  rfl

theorem retransmission_resends (hup : s.upPorts p.msg.pkg ≠ []) (hdue : p.sentAt + rtoCycles s q ≤ s.cycle)
    (hr : p.retries < bits (s.port q).cfg 39 36) :
    let t := countError s packetRetries
    let p' : Pending := { p with retries := p.retries + 1, sentAt := t.cycle, port := t.portFor p.msg }
    exec (.eRetransmissionTimeout n) s = .next (({ t with pend := t.pend.put n p' } : State).emit p.msg) := by
  intro t p'
  refine congrArg Host.Outcome.next ((timeOut_of hp hb hst hpkg hq).trans ?_)
  refine (if_neg (mt List.isEmpty_iff.mp hup)).trans ((if_neg (Nat.not_lt.mpr hdue)).trans ((if_neg (Nat.not_le.mpr hr)).trans ?_))
  unfold resend
  dsimp only
  rw [if_neg (show ¬ p.msg.pkg = (countError s packetRetries).plat.pkgid from hpkg)]

theorem retransmission_gives_up {pkg a m : Nat} {o : Origin} (h : s.upPorts p.msg.pkg = [] ∨
      (p.sentAt + rtoCycles s q ≤ s.cycle ∧ bits (s.port q).cfg 39 36 ≤ p.retries)) (hm : p.msg = .load pkg a m o) :
    exec (.eRetransmissionTimeout n) s = .next (applyReply s n (.nack 4)) := by
  have hfail : failOp s n p = applyReply s n (.nack 4) := by
    unfold failOp
    rw [hm]
  refine congrArg Host.Outcome.next ((timeOut_of hp hb hst hpkg hq).trans ?_)
  rw [hfail]
  by_cases hup : (s.upPorts p.msg.pkg).isEmpty = true
  · exact if_pos hup
  · obtain hnil | ⟨hdue, hr⟩ := h
    · exact absurd (List.isEmpty_iff.mpr hnil) hup
    · exact (if_neg hup).trans ((if_neg (Nat.not_lt.mpr hdue)).trans (if_pos hr))

end

/-! ## What an arrival meets on its port -/

section
variable {s : State} {v : Via} {src : Nat} (hsrc : src ≠ s.plat.pkgid) (hup : (s.port v.port).up = true) (f : State → State)
include hsrc hup

theorem onPort_foreign (hm : foreignMode v.mode = true) : onPort s v src f =
    s.putPort v.port { s.port v.port with unsupported := (s.port v.port).unsupported + 1 } :=
  (if_neg hsrc).trans ((if_neg (not_negated hup)).trans (if_pos hm))

variable (hm : foreignMode v.mode = false)
include hm

theorem onPort_busy (hb : portBusy s v.port = true) : onPort s v src f = s.send (.over v.port (.answer src 1 0 [])) :=
  (if_neg hsrc).trans ((if_neg (not_negated hup)).trans ((if_neg (ne_true_of_eq_false hm)).trans (if_pos hb)))

theorem onPort_false (hb : portBusy s v.port = false) (ha : authentic s v = false) : onPort s v src f = s :=
  (if_neg hsrc).trans ((if_neg (not_negated hup)).trans ((if_neg (ne_true_of_eq_false hm)).trans
    ((if_neg (ne_true_of_eq_false hb)).trans (if_pos (congrArg (!·) ha)))))

end

/-- What the package sends to itself uses no port. -/
theorem onPort_own (s : State) (v : Via) (f : State → State) : onPort s v s.plat.pkgid f = f s := if_pos rfl

theorem countPacket_plat (s : State) (q : Nat) : (countPacket s q).plat = s.plat := by
  unfold countPacket
  split <;> rfl

/-! ## Lanes of a memory channel -/

theorem contains_marked (l : List Nat) (n c : Nat) : (if l.contains n then l else n :: l).contains c = (c == n || l.contains c) := by
  by_cases h : l.contains n = true
  · rw [if_pos h]
    by_cases hc : c = n
    · rw [hc, h, Bool.or_true]
    · rw [beq_false_of_ne hc, Bool.false_or]
  · rw [if_neg h, List.contains_cons]

/-! ## Collective packets and takeover -/

/-- What becomes of a collective packet that its port lets through (R242, R334). -/
def collArrived (c : CollIn) (u : State) : State :=
  let refuse := u.emit (.answer c.pkt.srcpkg 2 1 [])
  if c.pkt.srcpkg ≠ u.plat.pkgid ∧ !admits u c.pkt.srcpkg c.srcctx c.ctx (·.coll) then refuse
  else if inEnclave u c.ctx && !attested u c.pkt.srcpkg then refuse
  else
    match u.entry? c.ctx c.entry with
    | none => refuse
    | some e =>
      if e.S ≤ c.pkt.member ∨ e.chunks ≤ c.pkt.chunk ∨ 5 ≤ c.pkt.kind then
        (u.modPort c.via.port (fun p => { p with malformed := p.malformed + 1 })).emit (.answer c.pkt.srcpkg 0 0 [])
      else if c.store then keepCopy u c
      else
        match u.thread? c.via.port c.ctx c.entry with
        | none => refuse
        | some t => enterThread u c t

theorem collectiveArrival_eq (c : CollIn) (s : State) :
    exec (.eCollectivePacketArrival c) s = .next (onPort s c.via c.pkt.srcpkg (collArrived c)) := rfl

section
variable {c : CollIn} {u : State}

theorem collArrived_denied (hsrc : c.pkt.srcpkg ≠ u.plat.pkgid) (h : admits u c.pkt.srcpkg c.srcctx c.ctx (·.coll) = false) :
    collArrived c u = u.emit (.answer c.pkt.srcpkg 2 1 []) :=
  if_pos ⟨hsrc, congrArg (!·) h⟩

variable {e : CollEntry} (hadm : c.pkt.srcpkg = u.plat.pkgid ∨ admits u c.pkt.srcpkg c.srcctx c.ctx (·.coll) = true)
  (henc : inEnclave u c.ctx = true → attested u c.pkt.srcpkg = true) (he : u.entry? c.ctx c.entry = some e)
include hadm henc he

theorem collArrived_admitted : collArrived c u =
    if e.S ≤ c.pkt.member ∨ e.chunks ≤ c.pkt.chunk ∨ 5 ≤ c.pkt.kind then
      (u.modPort c.via.port (fun p => { p with malformed := p.malformed + 1 })).emit (.answer c.pkt.srcpkg 0 0 [])
    else if c.store then keepCopy u c
    else
      match u.thread? c.via.port c.ctx c.entry with
      | none => u.emit (.answer c.pkt.srcpkg 2 1 [])
      | some t => enterThread u c t := by
  refine (if_neg ?_).trans ((if_neg ?_).trans ?_)
  · rintro ⟨hne, hno⟩
    exact hadm.elim hne fun h => not_negated h hno
  · intro h
    obtain ⟨hin, hno⟩ := (Bool.and_eq_true _ _).mp h
    exact not_negated (henc hin) hno
  · rw [he]

end

/-- A packet that is neither ahead of its thread nor behind it joins its queue. -/
theorem enterThread_current {u : State} {c : CollIn} {t : Thread} (hi : c.pkt.inst = t.inst)
    (hl : t.rq.length ≤ Config.receiveDepth) (hm : t.matchEnd = none) :
    enterThread u c t = u.putThread c.via.port c.ctx c.entry { t with rq := t.rq ++ [c.pkt] } := by
  have hd : (c.pkt.inst + 2 ^ 32 - t.inst) % 2 ^ 32 = 0 := by rw [hi, Nat.add_sub_cancel_left, Nat.mod_self]
  unfold enterThread
  dsimp only
  rw [if_pos hd, if_neg (Nat.not_le.mpr (Nat.lt_succ_of_le hl)), hm]
  rfl

/-- The buddy's answer to a request for a contribution (R257). -/
def takenOver (r : Takeover) (u : State) (copy : Option (Nat × Nat × Nat × List Byte)) : State :=
  let p : Packet := { member := r.member, chunk := r.chunk, inst := r.inst, kind := if copy.isSome then 1 else 4,
                      srcpkg := u.plat.pkgid, payload := match copy with | some b => b.2.2.2 | none => [] }
  u.sendOp (.coll r.srcpkg r.asker r.ctx r.entry p)

/-- What becomes of a takeover request that its port lets through. -/
def takeoverArrived (r : Takeover) (u : State) : State :=
  match u.entry? r.ctx r.entry with
  | none => u.emit (.answer r.srcpkg 2 1 [])
  | some e =>
    if r.srcpkg ≠ u.plat.pkgid ∧ !admits u r.srcpkg r.srcctx r.ctx (·.coll) then u.emit (.answer r.srcpkg 2 1 [])
    else if inEnclave u r.ctx && !attested u r.srcpkg then u.emit (.answer r.srcpkg 2 1 [])
    else takenOver r u (e.store.find? (fun b => b.1 == r.member && b.2.1 == r.chunk && b.2.2.1 == r.inst))

theorem takeoverArrival_eq (r : Takeover) (s : State) :
    exec (.eTakeoverRequestArrival r) s = .next (onPort s r.via r.srcpkg (takeoverArrived r)) := rfl

theorem takeoverArrived_admitted {r : Takeover} {u : State} {e : CollEntry}
    (hadm : r.srcpkg = u.plat.pkgid ∨ admits u r.srcpkg r.srcctx r.ctx (·.coll) = true)
    (henc : inEnclave u r.ctx = true → attested u r.srcpkg = true) (he : u.entry? r.ctx r.entry = some e) :
    takeoverArrived r u = takenOver r u (e.store.find? (fun b => b.1 == r.member && b.2.1 == r.chunk && b.2.2.1 == r.inst)) := by
  unfold takeoverArrived
  rw [he]
  refine (if_neg ?_).trans (if_neg ?_)
  · rintro ⟨hne, hno⟩
    exact hadm.elim hne fun h => not_negated h hno
  · intro h
    obtain ⟨hin, hno⟩ := (Bool.and_eq_true _ _).mp h
    exact not_negated (henc hin) hno

/-! ## A failed package -/

/-- A fold reaches what one of its steps brings about, where every step keeps what that step needs and what it brings about. -/
theorem foldl_reaches {σ α : Type} {f : σ → α → σ} {Q P : σ → Prop} (hQ : ∀ s a, Q s → Q (f s a)) (hP : ∀ s a, P s → P (f s a))
    {x : α} (hx : ∀ s, Q s → P (f s x)) {l : List α} (hl : x ∈ l) {s : σ} (hs : Q s) : P (l.foldl f s) := by
  have hkeep (l : List α) (s : σ) (h : P s) : P (l.foldl f s) := by
    induction l generalizing s with
    | nil => exact h
    | cons a r ih => exact ih _ (hP s a h)
  induction l generalizing s with
  | nil => cases hl
  | cons a r ih =>
    obtain rfl | hr := List.mem_cons.mp hl
    · exact hkeep r _ (hx s hs)
    · exact ih hr (hQ s a hs)

/-- The members of a package in every collective: context, entry, member and the entry's table. -/
def failedMembers (s : State) (pkg : Nat) : List (Nat × Nat × Nat × CollEntry) :=
  s.ctxs.flatMap fun (c, x) => x.colls.flatMap fun (i, e) => (membersOn e pkg).map fun k => (c, i, k, e)

/-- One member of a failed package is made absent here, and the other packages of the collective are told. -/
def spreadAbsent (pkg : Nat) (s : State) (m : Nat × Nat × Nat × CollEntry) : State :=
  ((m.2.2.2.rows.map (·.pkg)).eraseDups.filter (fun p => p != s.plat.pkgid && p != pkg)).foldl
    (fun s p => s.send (.tellAbsent p m.1 m.2.1 m.2.2.1)) (absentMember s m.1 m.2.1 m.2.2.1)

theorem packageFailed_eq (s : State) (n : Nat) :
    exec (.ePackageDeclaredFailed (.package n)) s = .next ((failedMembers s n).foldl (spreadAbsent n) (degrade s)) := rfl

theorem mem_failedMembers {s : State} {n ctx entry k : Nat} {e : CollEntry} (he : s.entry? ctx entry = some e)
    (hk : (membersOn e n).contains k = true) : (ctx, entry, k, e) ∈ failedMembers s n := by
  obtain ⟨x, hx, hfind⟩ := Option.bind_eq_some_iff.mp he
  refine List.mem_flatMap.mpr ⟨(ctx, x), Tbl.mem_of_find _ _ _ hx, List.mem_flatMap.mpr ⟨(entry, e), Tbl.mem_of_find _ _ _ hfind, ?_⟩⟩
  exact List.mem_map.mpr ⟨k, List.contains_iff_mem.mp hk, rfl⟩

theorem sends_eq (s : State) (f : Nat → OutMsg) (ps : List Nat) :
    ps.foldl (fun s p => s.send (f p)) s = { s with out := (ps.map f).reverse ++ s.out } := by
  induction ps generalizing s with
  | nil => rfl
  | cons p r ih =>
    refine (ih _).trans ?_
    rw [List.map_cons, List.reverse_cons, List.append_assoc]
    rfl

theorem spreadAbsent_eq (pkg : Nat) (s : State) (m : Nat × Nat × Nat × CollEntry) : ∃ os,
    spreadAbsent pkg s m = { absentMember s m.1 m.2.1 m.2.2.1 with out := os ++ s.out } ∧
    ∀ p ∈ m.2.2.2.rows.map (·.pkg), p ≠ s.plat.pkgid → p ≠ pkg → OutMsg.tellAbsent p m.1 m.2.1 m.2.2.1 ∈ os := by
  refine ⟨_, sends_eq .., fun p hp hown hpkg => List.mem_reverse.mpr (List.mem_map.mpr ⟨p, List.mem_filter.mpr ⟨?_, ?_⟩, rfl⟩)⟩
  · exact List.mem_eraseDups.mpr hp
  · rw [bne_iff_ne.mpr hown, bne_iff_ne.mpr hpkg]
    rfl

theorem entry_absentMember_self {s : State} {c i : Nat} {e : CollEntry} (h : s.entry? c i = some e) (k : Nat) :
    (absentMember s c i k).entry? c i = some { e with absent := e.absent ||| 2 ^ k } :=
  entry_modEntry (s := s) (fun e => { e with absent := e.absent ||| 2 ^ k }) h

/-- Members that are absent stay absent. -/
theorem entry_absentMember {s : State} {c i : Nat} {e : CollEntry} (h : s.entry? c i = some e) (c' i' k : Nat) :
    ∃ e', (absentMember s c' i' k).entry? c i = some e' ∧ ∀ b, e.absent.testBit b = true → e'.absent.testBit b = true := by
  by_cases hci : c = c' ∧ i = i'
  · obtain ⟨rfl, rfl⟩ := hci
    refine ⟨_, entry_absentMember_self h k, fun b hb => ?_⟩
    rw [Nat.testBit_or, hb, Bool.true_or]
  · obtain ⟨x, hx, he⟩ := Option.bind_eq_some_iff.mp h
    refine ⟨e, Option.bind_eq_some_iff.mpr ?_, fun b hb => hb⟩
    by_cases hc : c = c'
    · subst hc
      refine ⟨_, (find_modify_self ..).trans (congrArg _ hx), ?_⟩
      exact (find_modify_ne _ _ fun hi => hci ⟨rfl, hi⟩).trans he
    · exact ⟨x, (find_modify_ne _ _ hc).trans hx, he⟩

section
variable {s : State} {c i : Nat} {e : CollEntry} (h : s.entry? c i = some e)
include h

theorem entry_spreadAbsent (pkg : Nat) (m : Nat × Nat × Nat × CollEntry) : ∃ e',
    (spreadAbsent pkg s m).entry? c i = some e' ∧ ∀ b, e.absent.testBit b = true → e'.absent.testBit b = true := by
  obtain ⟨os, hos, -⟩ := spreadAbsent_eq pkg s m
  rw [hos]
  exact entry_absentMember h ..

theorem entry_spreadAbsent_self (pkg k : Nat) (x : CollEntry) : ∃ e',
    (spreadAbsent pkg s (c, i, k, x)).entry? c i = some e' ∧ e'.absent.testBit k = true := by
  obtain ⟨os, hos, -⟩ := spreadAbsent_eq pkg s (c, i, k, x)
  rw [hos]
  refine ⟨_, entry_absentMember_self h k, ?_⟩
  rw [Nat.testBit_or, Nat.testBit_two_pow_self, Bool.or_true]

end

theorem spreadAbsent_plat (pkg : Nat) (s : State) (m : Nat × Nat × Nat × CollEntry) : (spreadAbsent pkg s m).plat = s.plat := by
  obtain ⟨os, hos, -⟩ := spreadAbsent_eq pkg s m
  rw [hos]
  rfl

theorem mem_out_spreadAbsent {pkg : Nat} {s : State} {o : OutMsg} (h : o ∈ s.out) (m : Nat × Nat × Nat × CollEntry) :
    o ∈ (spreadAbsent pkg s m).out := by
  obtain ⟨os, hos, -⟩ := spreadAbsent_eq pkg s m
  rw [hos]
  exact List.mem_append_right os h

/-- Every member of a failed package becomes absent, and every other package of its collective is told. -/
theorem packageFailed_of (s : State) (n : Nat) : ∃ t, exec (.ePackageDeclaredFailed (.package n)) s = .next t ∧
    t.plat.degraded = true ∧
    (∀ ctx entry e k, s.entry? ctx entry = some e → (membersOn e n).contains k = true →
      (∃ e', t.entry? ctx entry = some e' ∧ e'.absent.testBit k = true) ∧
      (∀ r : MemberRow, e.rows.contains r = true → r.pkg ≠ s.plat.pkgid → r.pkg ≠ n →
        t.out.contains (.tellAbsent r.pkg ctx entry k) = true)) := by
  have hplat (l : List (Nat × Nat × Nat × CollEntry)) (t : State) : (l.foldl (spreadAbsent n) t).plat = t.plat := by
    induction l generalizing t with
    | nil => rfl
    | cons m r ih => exact (ih _).trans (spreadAbsent_plat n t m)
  refine ⟨_, packageFailed_eq s n, ?_, fun ctx entry e k he hk => ⟨?_, fun r hr hown hpkg => ?_⟩⟩
  · rw [hplat]
    rfl
  · refine foldl_reaches (Q := fun t : State => ∃ e', t.entry? ctx entry = some e')
      (P := fun t : State => ∃ e', t.entry? ctx entry = some e' ∧ e'.absent.testBit k = true)
      (fun t m hq => ?_) (fun t m hp => ?_) (fun t hq => ?_) (mem_failedMembers he hk) ⟨e, he⟩
    · obtain ⟨e', he'⟩ := hq
      obtain ⟨e'', he'', -⟩ := entry_spreadAbsent he' n m
      exact ⟨e'', he''⟩
    · obtain ⟨e', he', hbit⟩ := hp
      obtain ⟨e'', he'', hkeep⟩ := entry_spreadAbsent he' n m
      exact ⟨e'', he'', hkeep k hbit⟩
    · obtain ⟨e', he'⟩ := hq
      exact entry_spreadAbsent_self he' n k e
  · refine List.contains_iff_mem.mpr ?_
    refine foldl_reaches (Q := fun t : State => t.plat.pkgid = s.plat.pkgid)
      (P := fun t : State => OutMsg.tellAbsent r.pkg ctx entry k ∈ t.out)
      (fun t m hq => ?_) (fun t m hp => mem_out_spreadAbsent hp m) (fun t hq => ?_) (mem_failedMembers he hk) rfl
    · rw [spreadAbsent_plat]
      exact hq
    · obtain ⟨os, hos, htell⟩ := spreadAbsent_eq n t (ctx, entry, k, e)
      rw [hos]
      refine List.mem_append_left _ (htell _ (List.mem_map.mpr ⟨r, List.contains_iff_mem.mp hr, rfl⟩) ?_ hpkg)
      rw [hq]
      exact hown

/-! ## The state an arrival acts on -/

/-- What is sent by the package itself is acted on as it stands, what comes over a port once the port has let it through. -/
theorem onPort_lets {s u : State} {v : Via} {src : Nat} {P : Prop}
    (h : (src = s.plat.pkgid ∧ u = s) ∨ (src ≠ s.plat.pkgid ∧ (s.port v.port).up = true ∧ foreignMode v.mode = false ∧
      portBusy s v.port = false ∧ authentic s v = true ∧ u = countPacket s v.port ∧ P)) (f : State → State) :
    onPort s v src f = f u ∧ u.plat = s.plat := by
  obtain ⟨rfl, rfl⟩ | ⟨hsrc, hup, hmode, hbusy, hauth, rfl, -⟩ := h
  · exact ⟨onPort_own .., rfl⟩
  · exact ⟨onPort_acts hsrc hup hmode hbusy hauth f, countPacket_plat ..⟩

/-- Settles O49: each event of the links by the function that carries it out; the notices of absence by an induction over the
members of the failed package. -/
theorem linkEventsComplete : Obligations.LinkEventsComplete := by
  intro s n
  refine ⟨fun p q hp hb hst hpkg hq => ⟨retransmission_resends hp hb hst hpkg hq, fun pkg a m o h hm =>
      retransmission_gives_up hp hb hst hpkg hq h hm⟩, fun w hsrc hup => ⟨fun hm => ?_, fun hm hb => ?_, fun hm hb ha => ?_⟩,
    rfl, fun hen hpkg hdead => ?_, fun hspare => ?_, fun hspare => ?_, ?_, rfl, rfl, fun x hx => ⟨?_, fun hk => ?_⟩,
    fun c u h => ?_, fun r u e h henc he => ?_, fun ctx entry => rfl, packageFailed_of s n⟩
  · exact congrArg Host.Outcome.next (onPort_foreign hsrc hup _ hm)
  · exact congrArg Host.Outcome.next (onPort_busy hsrc hup _ hm hb)
  · exact congrArg Host.Outcome.next (onPort_false hsrc hup _ hm hb ha)
  · refine congrArg Host.Outcome.next (if_neg ?_)
    rw [hen, hdead]
    exact fun h => h.elim Nat.one_ne_zero fun h => h.elim hpkg Bool.false_ne_true
  · exact if_neg (ne_true_of_eq_false hspare)
  · exact if_pos hspare
  · exact ⟨_, fun c => rfl, _, rfl, fun c => contains_marked .., fun c => contains_marked .., rfl, rfl, rfl⟩
  · refine congrArg Host.Outcome.next ((if_neg ?_).trans (if_pos rfl))
    rw [hx]
    exact Bool.false_ne_true
  · refine congrArg Host.Outcome.next ((if_neg ?_).trans ((if_neg Bool.false_ne_true).trans (if_pos hk)))
    rw [hx]
    exact Bool.false_ne_true
  · obtain ⟨hon, hplat⟩ := onPort_lets (P := True) (by simpa using h) (collArrived c)
    have hgo {t : State} (ht : collArrived c u = t) : exec (.eCollectivePacketArrival c) s = .next t :=
      congrArg Host.Outcome.next (hon.trans ht)
    refine ⟨fun hsrc hadm => hgo (collArrived_denied (hplat ▸ hsrc) hadm), fun e hadm henc he => ?_⟩
    have hin := collArrived_admitted (hadm.imp_left fun h => hplat ▸ h) henc he
    refine ⟨fun hbad => hgo (hin.trans (if_pos hbad)), fun t hm hch hk hstore ht hi hl hend hcut => hgo (hin.trans ?_)⟩
    refine (if_neg ?_).trans ((if_neg (ne_true_of_eq_false hstore)).trans ?_)
    · exact not_or.mpr ⟨Nat.not_le.mpr hm, not_or.mpr ⟨Nat.not_le.mpr hch, Nat.not_le.mpr hk⟩⟩
    · rw [ht]
      exact enterThread_current hi hl hend
  · obtain ⟨hon, hplat⟩ := onPort_lets h (takeoverArrived r)
    have hadm : r.srcpkg = u.plat.pkgid ∨ admits u r.srcpkg r.srcctx r.ctx (·.coll) = true := by
      rw [hplat]
      exact h.imp And.left fun h => h.2.2.2.2.2.2
    have htaken := takeoverArrived_admitted hadm henc he
    refine ⟨fun hnone => ?_, fun b hb => ?_⟩
    · rw [hnone] at htaken
      exact congrArg Host.Outcome.next (hon.trans htaken)
    · rw [hb] at htaken
      exact congrArg Host.Outcome.next (hon.trans htaken)

end Sys2Proof.Machine
end

section
/-! Device-service requests about contexts (O50). -/

namespace Sys2Proof.Machine

open Sys2Proof State

/-! ## Rings -/

section
variable {s : State} {part : Nat} (hp : part < 5) (hr : s.plat.ready = true)
include hp hr

theorem ringOpens_of (base log2 : Nat) :
    let r := s.rings.getOr Ring.reset part
    let r' : Ring := { r with base := base, log2 := log2, isOpen := true, head := 0, tail := 0, taken := [], done := 0 }
    exec (.eServiceRingDoorbell part (.opens base log2)) s = .next { s with rings := s.rings.put part r' } := by
  intro r r'
  refine congrArg Host.Outcome.next (if_neg ?_)
  rw [hr]
  exact not_or.mpr ⟨Nat.not_le.mpr hp, Bool.false_ne_true⟩

theorem ringTail_of {v : Nat} (ho : (s.rings.getOr Ring.reset part).isOpen = true) (hv : (s.rings.getOr Ring.reset part).tail ≤ v) :
    let r := s.rings.getOr Ring.reset part
    let r' : Ring := { r with tail := v, head := v, taken := r.taken ++ readReqs s r.base r.log2 (v - r.tail) r.tail }
    exec (.eServiceRingDoorbell part (.tail v)) s = .next { s with rings := s.rings.put part r' } := by
  intro r r'
  refine congrArg Host.Outcome.next (if_neg ?_)
  rw [hr, ho]
  exact not_or.mpr ⟨Nat.not_le.mpr hp, not_or.mpr ⟨Bool.false_ne_true, not_or.mpr ⟨Bool.false_ne_true, Nat.not_lt.mpr hv⟩⟩⟩

end

/-! ## Requests that a partition has taken -/

section
variable {s : State} {part k q : Nat}

/-- A request about a context on its home die is carried out. -/
theorem homeRequest_of {code ctx : Nat} {c : Ctx} (hq : Taken s part k code q) (hc : s.ctx? ctx = some c) (hd : c.die = part)
    (f : State → Nat → Ctx → State) :
    service s part k code (fun t r => onHome t part ctx r (f t r)) = .next (f (s.took part k) q c) :=
  (service_at hq _).trans (congrArg Host.Outcome.next (onHome_of _ hc hd))

theorem createContext_of {dom slot base size n root hdr ring sett : Nat} {u w : State} (hq : Taken s part k 0x01 q) (hp : part < 4)
    (hs0 : slot ≠ 0) (hs : slot < 256) (hst : (keySlot s slot).state = 1) (hdom : (keySlot s slot).domain = dom)
    (hsize : base + size ≤ 2 ^ 56) (hn : newCtx (s.took part k) = some n)
    (hf : ctxFrames (s.took part k) part = some (root, hdr, ring, sett, u)) (hm : mapArea u part root base size = some w) :
    let w' := putSlot w slot { keySlot s slot with contexts := (keySlot s slot).contexts + 1 }
    let c := Ctx.fresh dom slot part root base size hdr ring sett
    exec (.eCreateContext part k dom slot base size) s =
      .next (completeReq { putTrapq w' n c c.trapq with freeCtr := w'.freeCtr + 1 } part (reqTag q) 0 n) := by
  intro w' c
  rw [exec_eCreateContext, execECreateContext, service_at hq]
  refine congrArg Host.Outcome.next ?_
  refine (if_neg (Nat.not_le.mpr hp)).trans ((if_neg ?_).trans ((if_neg (Nat.not_lt.mpr hsize)).trans ?_))
  · exact not_or.mpr ⟨hs0, not_or.mpr ⟨Nat.not_le.mpr hs, not_or.mpr ⟨not_not.mpr hst, not_not.mpr hdom⟩⟩⟩
  · rw [hn, hf]
    dsimp only
    rw [hm]
    rfl

theorem changeQueue_of {ctx queue desc : Nat} {c : Ctx} (hc : s.ctx? ctx = some c) (hd : c.die = part) (hq : Taken s part k 0x04 q)
    (hn : queue < 1024) (hbad : queueBad (s.took part k) desc = false) (hctx : nbitsOf desc 47 36 = ctx)
    (hmine : ∀ x d, s.queues.find queue = some x → s.ctx? x.ctx = some d → d.die = part) :
    exec (.eCreateOrChangeQueue part k queue desc none) s = .next (answerReq
      { s.took part k with queues := s.queues.put queue ((s.queues.getOr Queue.reset queue).write desc) } part q 0) := by
  subst hctx
  have helse : ¬ (match s.queues.find queue with | some x => (dieOfCtx s x.ctx).any (· != part) | none => false) = true := by
    cases hx : s.queues.find queue with
    | none => exact Bool.false_ne_true
    | some x =>
      cases hy : s.ctx? x.ctx with
      | none => simp [dieOfCtx, hy]
      | some d => simp [dieOfCtx, hy, hmine x d hx hy]
  rw [exec_eCreateOrChangeQueue, execECreateOrChangeQueue]
  dsimp only
  rw [homeRequest_of hq hc hd]
  refine congrArg Host.Outcome.next ?_
  refine (if_neg ?_).trans ((if_neg helse).trans rfl)
  exact not_or.mpr ⟨Nat.not_le.mpr hn, ne_true_of_eq_false hbad⟩

theorem setShare_of {ctx core : Nat} {words : List (Nat × Nat)} {share : Share} {u : State} {c : Ctx} (hc : s.ctx? ctx = some c)
    (hd : c.die = part) (hq : Taken s part k 0x05 q) (hcore : core < 512) (hok : shareOk share = true)
    (hholds : shareHolds (s.took part k) ctx core share = true) (hres : residentBank s ctx core = none)
    (hseg : openSegment (s.took part k) ctx core = some u) :
    let t := s.took part k
    let v := u.modCC ctx core (fun cc => { cc.grant share with quantum := if cc.quantum = 0 then someQuantum t else cc.quantum })
    exec (.eSetSramBanksTilesBarriers part k ctx core words share) s =
      .next (answerReq (setBanks { v with freeCtr := v.freeCtr + 1 } ctx core words) part q 0) := by
  intro t v
  rw [exec_eSetSramBanksTilesBarriers, execESetSramBanksTilesBarriers, homeRequest_of hq hc hd]
  refine congrArg Host.Outcome.next ?_
  refine (if_neg ?_).trans ((if_neg ?_).trans ((if_neg (not_negated hholds)).trans ?_))
  · rw [hok]
    exact not_or.mpr ⟨Nat.not_le.mpr hcore, Bool.false_ne_true⟩
  · rw [show residentBank (s.took part k) ctx core = none from hres]
    exact Bool.false_ne_true
  · rw [hseg]

end

/-- Settles O50: a request that its partition has taken is carried out by its own function on the context's home die. -/
theorem contextRequestsComplete : Obligations.ContextRequestsComplete := by
  intro s part k q ctx r t
  refine ⟨fun hp hr => ⟨ringOpens_of hp hr, fun v ho hv => ringTail_of hp hr ho hv⟩,
    fun dom slot base size n root hdr ring sett u w hq hp hs0 hs hst hdom hsize hn hf hm =>
      createContext_of hq hp hs0 hs hst hdom hsize hn hf hm,
    fun c hc hd => ⟨fun hq => ⟨?_, fun hcan => ?_, fun hcan => ?_⟩, fun kzo va binds u h hq hload => ?_, ?_, ?_⟩,
    fun c hc hd hq => ?_, fun hc hq => ?_⟩
  · rw [exec_eResetContext, execEResetContext, homeRequest_of hq hc hd]
  · rw [exec_eDestroyContext, execEDestroyContext, homeRequest_of hq hc hd]
    exact congrArg Host.Outcome.next (if_pos hcan)
  · rw [exec_eDestroyContext, execEDestroyContext, homeRequest_of hq hc hd]
    exact congrArg Host.Outcome.next (if_neg (ne_true_of_eq_false hcan))
  · rw [exec_eLoadImage, execELoadImage, homeRequest_of hq hc hd, show loadImage (s.took part k) ctx kzo va binds = .ok u h from hload]
  · intro queue desc hq hn hbad hctx hmine
    exact changeQueue_of hc hd hq hn hbad hctx hmine
  · intro core words share u hq hcore hok hholds hres hseg
    exact setShare_of hc hd hq hcore hok hholds hres hseg
  · rw [exec_eResetContext, execEResetContext, service_at hq, onHome, took_ctx?, hc]
    exact congrArg Host.Outcome.next (if_pos hd)
  · rw [exec_eResetContext, execEResetContext, service_at hq, onHome, took_ctx?, hc]

end Sys2Proof.Machine
end

section
/-! Device-service requests of partition 4, and control-space writes (O52). -/

namespace Sys2Proof.Machine

open Sys2Proof State

section
variable {s : State} {k q : Nat}

/-- A request that partition 4 owns and has taken is carried out. -/
theorem p4Request_of {code : Nat} (hq : Taken s 4 k code q) (f : State → Nat → State) :
    service s 4 k code (fun t r => onP4 t 4 r (f t r)) = .next (f (s.took 4 k) q) :=
  (service_at hq _).trans (congrArg Host.Outcome.next (if_neg fun h => h rfl))

/-- On another partition it completes with 5. -/
theorem p4Request_elsewhere {code p : Nat} (hq : Taken s p k code q) (hp : p ≠ 4) (f : State → Nat → State) :
    service s p k code (fun t r => onP4 t p r (f t r)) = .next (answerReq (s.took p k) p q 5) :=
  (service_at hq _).trans (congrArg Host.Outcome.next (if_pos hp))

/-! ## The fabric -/

section
variable {n v : Nat}

theorem setPackageId_of (hq : Taken s 4 k 0x10 q) (hv : v < 4096) (hp : s.ports = []) :
    exec (.eSetPackageIdentifier 4 k v) s = .next (answerReq { s.took 4 k with plat := { s.plat with pkgid := v } } 4 q 0) := by
  rw [exec_eSetPackageIdentifier, execESetPackageIdentifier, p4Request_of hq]
  refine congrArg Host.Outcome.next ((if_neg (Nat.not_le.mpr hv)).trans (if_neg ?_))
  rw [show (s.took 4 k).ports = [] from hp]
  exact Bool.false_ne_true

theorem configurePort_of (hq : Taken s 4 k 0x11 q) (hn : n < 64) (hbad : portBad v = false) (hen : v % 2 = 0 ∨ s.plat.pkgid ≠ 0) :
    exec (.eConfigurePortOrRoute 4 k (.port n v)) s = .next (answerReq (portWrite (s.took 4 k) n v) 4 q 0) := by
  rw [exec_eConfigurePortOrRoute, execEConfigurePortOrRoute, p4Request_of hq]
  refine congrArg Host.Outcome.next ((if_neg (not_or.mpr ⟨Nat.not_le.mpr hn, ne_true_of_eq_false hbad⟩)).trans (if_neg ?_))
  rintro ⟨hodd, hid⟩
  exact hen.elim (fun heven => by omega) fun hne => hne hid

theorem configureRoute_of (hq : Taken s 4 k 0x11 q) (hn : n < 4096) (hv : v < 2 ^ 64) :
    exec (.eConfigurePortOrRoute 4 k (.route n v)) s = .next (answerReq { s.took 4 k with routes := s.routes.put n v } 4 q 0) := by
  rw [exec_eConfigurePortOrRoute, execEConfigurePortOrRoute, p4Request_of hq]
  exact congrArg Host.Outcome.next (if_neg (not_or.mpr ⟨Nat.not_le.mpr hn, Nat.not_le.mpr hv⟩))

theorem writeAcl_of (hq : Taken s 4 k 0x12 q) (hn : n < 4096) (hbad : aclBad v = false) :
    exec (.eWriteAccessControlEntry 4 k n v) s = .next (answerReq { s.took 4 k with acl := s.acl.put n (aclOf v) } 4 q 0) := by
  rw [exec_eWriteAccessControlEntry, execEWriteAccessControlEntry, p4Request_of hq]
  exact congrArg Host.Outcome.next (if_neg (not_or.mpr ⟨Nat.not_le.mpr hn, ne_true_of_eq_false hbad⟩))

/-- The service writes a mask of the route table, each in its own n64 of the control space; the driver does not. -/
theorem controlSpaceWrite_route (s : State) (hn : n < 4096) (byService : Bool) :
    exec (.eControlSpaceWrite (0x4010000 + 8 * n) v byService) s =
      .next (if byService then { s with routes := s.routes.put n (v % 2 ^ 64) } else s) := by
  have hindex : (0x4010000 + 8 * n - 0x4010000) / 8 = n := by omega
  refine congrArg Host.Outcome.next ((if_neg (by omega)).trans ((if_neg (by omega)).trans ((if_neg (by omega)).trans ?_)))
  cases byService with
  | false => exact (if_pos rfl).trans (if_neg Bool.false_ne_true).symm
  | true =>
    refine (if_neg Bool.false_ne_true).trans ((if_neg (by omega)).trans ((if_neg (by omega)).trans ((if_neg (by omega)).trans
      ((if_pos (by omega)).trans ?_))))
    rw [hindex]
    exact (if_pos rfl).symm

end

/-! ## Collective entries -/

theorem loadEntry_of {r : CollReq} {c : Ctx} {im : Image} {ws : List Nat} (hq : Taken s 4 k 0x13 q) (hc : s.ctx? r.ctx = some c)
    (him : s.image? r.ctx r.image = some im) (hws : im.mcf[r.sect]? = some ws) (hr : r.entry < 4096)
    (hfree : c.colls.find r.entry = none) (hbad : collBad (s.took 4 k) r = false) :
    exec (.eLoadCollectiveEntry 4 k r) s = .next (match progRefusal ws with
      | some (i, cause) => completeReq (s.took 4 k) 4 (reqTag q) 4 (i % 2 ^ 12 + cause * 2 ^ 16)
      | none => answerReq (installEntry (s.took 4 k) r ws) 4 q 0) := by
  rw [exec_eLoadCollectiveEntry, execELoadCollectiveEntry, p4Request_of hq, took_ctx?, hc,
    show (s.took 4 k).image? r.ctx r.image = some im from him]
  dsimp only
  rw [hws]
  refine congrArg Host.Outcome.next ((if_neg (Nat.not_le.mpr hr)).trans ((if_neg ?_).trans (if_neg (ne_true_of_eq_false hbad))))
  rw [hfree]
  exact Bool.false_ne_true

theorem destroyEntry_of {n v : Nat} {e : CollEntry} (hq : Taken s 4 k 0x14 q) (he : s.entry? n v = some e) (hp : e.parts = []) :
    exec (.eDestroyCollectiveEntry 4 k n v) s = .next (answerReq
      ((dropThreads (s.took 4 k) n v).modCtx n (fun c => { c with colls := c.colls.del v })) 4 q 0) := by
  rw [exec_eDestroyCollectiveEntry, execEDestroyCollectiveEntry, p4Request_of hq, show (s.took 4 k).entry? n v = some e from he]
  dsimp only
  rw [hp]
  rfl

/-! ## Key slots and reports -/

section
variable {n : Nat} (hn : n < 256)

theorem keySlot_putSlot (s : State) (n : Nat) (x : KeySlot) : keySlot (putSlot s n x) n = x := Tbl.getOr_put_self ..

/-- What a slot holds once key material has entered it. -/
theorem keySlot_installKey (s : State) (n : Nat) {dom : Nat} (origin key : Nat) (hd : dom < 4096) :
    keySlot (installKey s n dom origin key) n =
      { keySlot s n with domain := dom, epoch := (keySlot s n).epoch + 1, origin := origin, state := 1, key := key } := by
  refine (keySlot_putSlot ..).trans ?_
  rw [show dom % 2 ^ 12 = dom from Nat.mod_eq_of_lt hd]

theorem keySlot_completeReq (s : State) (p tag st v n : Nat) : keySlot (completeReq s p tag st v) n = keySlot s n := by
  obtain ⟨m, hm⟩ := writeHost_hmem s
    ((s.rings.getOr Ring.reset p).base + 64 * 2 ^ (s.rings.getOr Ring.reset p).log2 +
      16 * ((s.rings.getOr Ring.reset p).done % 2 ^ (s.rings.getOr Ring.reset p).log2)) (completionBytes tag st v)
  unfold completeReq
  dsimp only
  by_cases ho : (s.rings.getOr Ring.reset p).isOpen = true
  · rw [if_pos ho, hm]
    rfl
  · rw [if_neg ho]
    rfl

include hn

theorem querySlot_of (hq : Taken s 4 k 0x20 q) :
    exec (.eQuerySlot 4 k n) s = .next (completeReq (s.took 4 k) 4 (reqTag q) 0 (keySlot s n).word) := by
  rw [exec_eQuerySlot, execEQuerySlot, p4Request_of hq]
  exact congrArg Host.Outcome.next (if_neg (Nat.not_le.mpr hn))

/-- A key is generated in an empty slot only. -/
theorem generateKey_eq {v : Nat} (hv : v < 4096) (hq : Taken s 4 k 0x21 q) :
    let t := s.took 4 k
    let u := installKey { t with freeCtr := t.freeCtr + 1 } n v 1 (Config.genKey t.freeCtr)
    exec (.eGenerateKey 4 k n v) s = .next (if (keySlot s n).state ≠ 0 then answerReq t 4 q 2
      else completeReq u 4 (reqTag q) 0 (keySlot u n).epoch.toNat) := by
  intro t u
  rw [exec_eGenerateKey, execEGenerateKey, p4Request_of hq]
  exact congrArg Host.Outcome.next (if_neg (not_or.mpr ⟨Nat.not_le.mpr hn, Nat.not_le.mpr hv⟩))

theorem generateKey_empty {v : Nat} (hv : v < 4096) (hq : Taken s 4 k 0x21 q) (h0 : (keySlot s n).state = 0) :
    ∃ key u, exec (.eGenerateKey 4 k n v) s = .next u ∧
      keySlot u n = { keySlot s n with domain := v, epoch := (keySlot s n).epoch + 1, origin := 1, state := 1, key := key } ∧
      u.out = .completion 4 (reqTag q) 0 ((keySlot s n).epoch + 1).toNat :: s.out := by
  let t := s.took 4 k
  let u := installKey { t with freeCtr := t.freeCtr + 1 } n v 1 (Config.genKey t.freeCtr)
  have hslot : keySlot u n = { keySlot s n with
      domain := v, epoch := (keySlot s n).epoch + 1, origin := 1, state := 1, key := Config.genKey t.freeCtr } :=
    keySlot_installKey _ n 1 _ hv
  refine ⟨Config.genKey t.freeCtr, completeReq u 4 (reqTag q) 0 (keySlot u n).epoch.toNat, ?_, ?_, ?_⟩
  · exact (generateKey_eq hn hv hq).trans (congrArg Host.Outcome.next (if_neg (not_not.mpr h0)))
  · rw [keySlot_completeReq, hslot]
  · rw [(completeReq_sends ..).1, hslot]
    rfl

theorem revokeRequest_of (hq : Taken s 4 k 0x22 q) (h0 : n ≠ 0) :
    exec (.eRevokeSlot 4 k n) s = .next (answerReq (revokeSlot (s.took 4 k) n) 4 q 0) := by
  rw [exec_eRevokeSlot, execERevokeSlot, p4Request_of hq]
  exact congrArg Host.Outcome.next (if_neg (not_or.mpr ⟨h0, Nat.not_le.mpr hn⟩))

theorem reclaimSlot_of (hq : Taken s 4 k 0x23 q) :
    let x := keySlot s n
    let t := s.took 4 k
    exec (.eReclaimSlot 4 k n) s = .next (if x.state = 3 ∧ x.scrub = some (reqTag q) then
        answerReq (putSlot (scrubFree t) n { x with state := 0, domain := 0, origin := 0, owner := none, scrub := none }) 4 q 0
      else if x.state ≠ 2 ∨ x.contexts ≠ 0 then answerReq t 4 q 2
      else putSlot s n { x with state := 3, scrub := some (reqTag q) }) := by
  intro x t
  rw [exec_eReclaimSlot, execEReclaimSlot, p4Request_of hq]
  exact congrArg Host.Outcome.next (if_neg (Nat.not_le.mpr hn))

end

theorem attestation_of {n v : Nat} {c : Ctx} (hq : Taken s 4 k 0x24 q) (hc : s.ctx? n = some c) :
    exec (.eAttestationReport 4 k n v) s =
      .next (completeReq ((s.took 4 k).writeHost v (report (s.took 4 k) n c (reqBytes q 47 16))) 4 (reqTag q) 0 v) := by
  rw [exec_eAttestationReport, execEAttestationReport, p4Request_of hq, took_ctx?, hc]

end

/-- Settles O52: a request that partition 4 has taken is carried out by its own function. -/
theorem fabricAndKeyRequestsComplete : Obligations.FabricAndKeyRequestsComplete := by
  intro s k q n v t x ok
  refine ⟨setPackageId_of, configurePort_of, configureRoute_of, writeAcl_of, fun r c im ws hq hc him hws hr hfree hbad => ⟨?_, ?_⟩,
    fun e => destroyEntry_of, fun hq hn => querySlot_of hn hq, fun hq hn hv h => ?_, fun hq hn hv h => generateKey_empty hn hv hq h,
    fun hq h0 hn => revokeRequest_of hn hq h0, fun hq hn => ⟨fun h2 h0 => ?_, fun h3 hs => ?_, fun h3 h2 => ?_⟩,
    fun c => attestation_of, fun _ p hp hq => ?_, fun hn => ⟨?_, ?_⟩⟩
  · intro hnone
    rw [loadEntry_of hq hc him hws hr hfree hbad, hnone]
  · intro i cause hsome
    rw [loadEntry_of hq hc him hws hr hfree hbad, hsome]
  · exact (generateKey_eq hn hv hq).trans (congrArg Host.Outcome.next (if_pos h))
  · refine (reclaimSlot_of hn hq).trans (congrArg Host.Outcome.next ((if_neg ?_).trans (if_neg ?_)))
    · rintro ⟨h3, -⟩
      exact absurd (h2.symm.trans h3) (by decide)
    · exact not_or.mpr ⟨not_not.mpr h2, not_not.mpr h0⟩
  · exact (reclaimSlot_of hn hq).trans (congrArg Host.Outcome.next (if_pos ⟨h3, hs⟩))
  · refine (reclaimSlot_of hn hq).trans (congrArg Host.Outcome.next ((if_neg ?_).trans (if_pos h2)))
    rintro ⟨h, hs⟩
    exact h3 h hs
  · rw [exec_eWriteAccessControlEntry, execEWriteAccessControlEntry, p4Request_elsewhere hq hp]
  · exact controlSpaceWrite_route s hn true
  · exact controlSpaceWrite_route s hn false

end Sys2Proof.Machine
end

section
/-! What a halt of a context keeps: the key slots, every context, and that a halted one is halted. -/

namespace Sys2Proof.Machine

open Sys2Proof State

/-- Between two states the key slots are the same, no context is lost and a halted one stays halted. -/
structure KeepsHalts (s t : State) : Prop where
  slots : t.slots = s.slots
  ctx   : ∀ c x, s.ctx? c = some x → ∃ y, t.ctx? c = some y ∧ (x.halted = true → y.halted = true)

namespace KeepsHalts

variable {s t u : State}

theorem of_eq (hs : t.slots = s.slots) (hc : t.ctxs = s.ctxs) : KeepsHalts s t :=
  ⟨hs, fun c x hx => ⟨x, by rw [State.ctx?, hc]; exact hx, id⟩⟩

theorem refl (s : State) : KeepsHalts s s := of_eq rfl rfl

theorem trans (h : KeepsHalts s t) (h' : KeepsHalts t u) : KeepsHalts s u := by
  refine ⟨h'.slots.trans h.slots, fun c x hx => ?_⟩
  obtain ⟨y, hy, hxy⟩ := h.ctx c x hx
  obtain ⟨z, hz, hyz⟩ := h'.ctx c y hy
  exact ⟨z, hz, hyz ∘ hxy⟩

/-- Composition, the last step first. -/
theorem after (h' : KeepsHalts t u) (h : KeepsHalts s t) : KeepsHalts s u := h.trans h'

theorem putRings (s : State) (r : Tbl Ring) : KeepsHalts s { s with rings := r } := of_eq rfl rfl

theorem putRunning (s : State) (l : Tbl Launch) (p : Tbl Pending) : KeepsHalts s { s with launches := l, pend := p } := of_eq rfl rfl

theorem foldl {α : Type} {f : State → α → State} (hf : ∀ s a, KeepsHalts s (f s a)) (l : List α) (s : State) :
    KeepsHalts s (l.foldl f s) := by
  induction l generalizing s with
  | nil => exact refl s
  | cons a r ih => exact (hf s a).trans (ih _)

theorem putCtx {c : Nat} {x y : Ctx} (hx : s.ctx? c = some x) (h : x.halted = true → y.halted = true) : KeepsHalts s (s.putCtx c y) := by
  refine ⟨rfl, fun d z hz => ?_⟩
  by_cases hd : d = c
  · subst hd
    refine ⟨y, Tbl.find_put_self .., fun hh => h ?_⟩
    rw [hx] at hz
    exact Option.some.inj hz ▸ hh
  · exact ⟨z, (Tbl.find_put_ne _ _ hd).trans hz, id⟩

theorem modCtx (s : State) (c : Nat) {f : Ctx → Ctx} (h : ∀ x, x.halted = true → (f x).halted = true) :
    KeepsHalts s (s.modCtx c f) := by
  refine ⟨rfl, fun d z hz => ?_⟩
  by_cases hd : d = c
  · subst hd
    exact ⟨f z, (find_modify_self ..).trans (congrArg _ hz), h z⟩
  · exact ⟨z, (find_modify_ne _ _ hd).trans hz, id⟩

/-! ## Records and notifications -/

theorem putTrapq {c : Nat} {x : Ctx} (hx : s.ctx? c = some x) (q : TrapQueue) : KeepsHalts s (putTrapq s c x q) := by
  have h : KeepsHalts s (s.putCtx c { x with trapq := q }) := putCtx hx id
  unfold Machine.putTrapq
  dsimp only
  split
  · exact h
  · exact h.trans (of_eq rfl rfl)

theorem writeSlot (s : State) (q : TrapQueue) (w : Nat) : KeepsHalts s (writeSlot s q w) := by
  unfold Machine.writeSlot
  split <;> exact of_eq rfl rfl

theorem ctx?_writeSlot (s : State) (q : TrapQueue) (w c : Nat) : (Machine.writeSlot s q w).ctx? c = s.ctx? c := by
  unfold Machine.writeSlot
  split <;> rfl

theorem putRecord {c : Nat} {h : RecHdr} {body : Nat} (ht : putRecord s c h body = some t) : KeepsHalts s t := by
  unfold Machine.putRecord at ht
  cases hx : s.ctx? c with
  | none => rw [hx] at ht; cases ht
  | some x =>
    rw [hx] at ht
    have hpush (w : Nat) (q : TrapQueue) : KeepsHalts s (Machine.putTrapq (Machine.writeSlot s x.trapq w) c x q) :=
      (writeSlot s x.trapq w).trans (putTrapq ((ctx?_writeSlot ..).trans hx) q)
    dsimp only at ht
    split at ht
    · split at ht
      · exact Option.some.inj ht ▸ hpush ..
      · exact Option.some.inj ht ▸ putTrapq hx _
    · split at ht
      · exact Option.some.inj ht ▸ hpush ..
      · cases ht

theorem noteRecord (s : State) (c : Nat) (h : RecHdr) (body : Nat) : KeepsHalts s (noteRecord s c h body) := by
  unfold Machine.noteRecord
  split
  · next ht => exact putRecord ht
  · split
    · next hx => exact putTrapq hx _
    · exact refl s

theorem writeHost (s : State) (a : Nat) (bs : List Byte) : KeepsHalts s (s.writeHost a bs) := by
  obtain ⟨m, hm⟩ := writeHost_hmem s a bs
  rw [hm]
  exact of_eq rfl rfl

theorem notify (s : State) (part type action c va page count w : Nat) : KeepsHalts s (notify s part type action c va page count w) := by
  unfold Machine.notify
  dsimp only
  split
  · exact refl s
  · split
    · exact after (putRings ..) (writeHost ..)
    · split
      · exact after (putRings ..) (writeHost ..)
      · exact putRings ..

/-! ## Stores -/

theorem writeBytes (s : State) (a : Nat) (bs : List Byte) : KeepsHalts s (s.writeBytes a bs) := by
  induction bs generalizing s a with
  | nil => exact of_eq rfl rfl
  | cons b r ih => exact (of_eq rfl rfl : KeepsHalts s (s.writePA a b)).trans (ih _ _)

theorem rewriteRecs (s : State) (q : TrapQueue) : KeepsHalts s (rewriteRecs s q) := by
  unfold Machine.rewriteRecs
  split
  · exact refl s
  · refine foldl (fun s e => ?_) _ s
    exact of_eq rfl rfl

theorem noteLine (s : State) (c line wid : Nat) : KeepsHalts s (noteLine s c line wid) := by
  unfold Machine.noteLine
  split
  · exact refl s
  cases hx : s.ctx? c with
  | none => exact refl s
  | some x =>
    dsimp only
    split
    · exact putCtx hx id
    split
    · exact putCtx hx id
    split
    · exact refl s
    split
    · exact after (noteRecord ..) (putCtx hx id)
    · exact after (rewriteRecs ..) (putCtx hx id)

theorem noteLines (s : State) (c line wid n : Nat) : KeepsHalts s (noteLines s c line wid n) := by
  induction n generalizing s line with
  | zero => exact refl s
  | succ n ih => exact (noteLine ..).trans (ih _ _)

theorem storeMem (s : State) (c pa wid : Nat) (bs : List Byte) : KeepsHalts s (storeMem s c pa wid bs) :=
  after (noteLines ..) ((writeBytes s pa bs).trans (of_eq rfl rfl))

theorem sendOp (s : State) (m : OutMsg) : KeepsHalts s (s.sendOp m) := of_eq (sendOp_slots ..) (sendOp_ctxs ..)

theorem ringControl (s : State) (off : Nat) (bs : List Byte) : KeepsHalts s (ringControl s off bs) := by
  unfold Machine.ringControl doorbell
  split
  · split <;> exact of_eq rfl rfl
  · exact refl s

/-! ## Signals of a node -/

theorem wake (s : State) (c k : Nat) : KeepsHalts s (wake s c k) := by
  unfold Machine.wake
  split <;> exact of_eq rfl rfl

theorem completePhase (s : State) (c k b : Nat) : KeepsHalts s (completePhase s c k b) := by
  refine ⟨rfl, fun d z hz => ?_⟩
  exact (modCtx s c (f := fun x => { x with epoch := x.epoch + 1, reports := 0, withheld := 0 }) fun _ => id).ctx d z hz

theorem testPhase (s : State) (c k b : Nat) : KeepsHalts s (testPhase s c k b) := by
  unfold Machine.testPhase
  dsimp only
  split
  · exact completePhase ..
  · exact refl s

theorem dropCompletion (s : State) (o : Sender) : KeepsHalts s (dropCompletion s o) := by
  cases o <;> exact of_eq rfl rfl

theorem engineArrive (s : State) (c ref st : Nat) (o : Sender) : KeepsHalts s (engineArrive s c ref st o) := by
  unfold Machine.engineArrive
  split
  · exact dropCompletion s o
  refine (wake s c (refCore ref)).trans ?_
  dsimp only
  split
  · exact noteRecord ..
  · exact after (testPhase ..) (of_eq rfl rfl)

theorem signalRest (s : State) (c pkt st : Nat) : KeepsHalts s (signalRest s c pkt st) := by
  have hsend (t : State) (m : OutMsg) (h : KeepsHalts s t) : KeepsHalts s (t.send m) := h.trans (of_eq rfl rfl)
  have harrive : KeepsHalts s (if pktF pkt 383 383 = 1 then
      Machine.engineArrive s c (pktF pkt 337 320) (if st = 0 then 0 else 0x10) .other else s) := by
    split
    · exact engineArrive ..
    · exact refl s
  unfold Machine.signalRest
  dsimp only
  split
  · exact hsend _ _ harrive
  · exact harrive

theorem writeStat (s : State) (c q a v pkt st : Nat) : KeepsHalts s (writeStat s c q a v pkt st).1 := by
  unfold Machine.writeStat
  split
  · exact refl s
  split
  · exact refl s
  · dsimp only
    split
    · split
      · exact of_eq rfl rfl
      · exact after (storeMem ..) (of_eq rfl rfl)
    · exact storeMem ..
  · exact sendOp ..
  · exact ringControl ..
  · exact refl s

theorem signalNode (s : State) (c q i pkt st : Nat) : KeepsHalts s (signalNode s c q i pkt st) := by
  have hstat := writeStat s c q (pktF pkt 311 256) (st + i % 2 ^ 32 * 2 ^ 32) pkt st
  unfold Machine.signalNode
  dsimp only
  split
  · exact signalRest ..
  split
  · next h =>
    rw [h] at hstat
    exact after (signalRest ..) hstat
  · next h =>
    rw [h] at hstat
    exact hstat
  · next h =>
    rw [h] at hstat
    exact after (signalRest ..) (after (noteRecord ..) hstat)

theorem completeNode (s : State) (id st : Nat) : KeepsHalts s (completeNode s id st) := by
  unfold Machine.completeNode
  split
  · exact refl s
  · next n hn => exact (signalNode s (pktF n.pkt 63 52) n.queue n.qindex n.pkt st).trans (of_eq rfl rfl)

/-! ## Halts -/

theorem absentMember (s : State) (c e m : Nat) : KeepsHalts s (absentMember s c e m) := by
  have h := modCtx s c (f := fun x => { x with colls := x.colls.modify e fun e => { e with absent := e.absent ||| 2 ^ m } }) fun _ => id
  exact h.trans (of_eq rfl rfl)

theorem makeAbsent (s : State) (c : Nat) : KeepsHalts s (makeAbsent s c) := by
  unfold Machine.makeAbsent
  split
  · exact refl s
  · refine foldl (fun s e => foldl (fun s m => ?_) _ s) _ s
    refine after (foldl (fun s p => ?_) _ _) (absentMember s c e.1 m)
    exact of_eq rfl rfl

theorem stopCtx (s : State) (c : Nat) : KeepsHalts (s.modCtx c (fun x => { x with halted := true })) (stopCtx s c) := by
  unfold Machine.stopCtx
  dsimp only
  refine after (foldl (fun s i => completeNode ..) _ _) (after (putRunning ..) (after (makeAbsent ..) (after (foldl (fun s r => ?_) _ _) ?_)))
  · exact of_eq rfl rfl
  · exact of_eq rfl rfl

end KeepsHalts

/-- A halt writes the fatal record, and stops a context that was not halted. -/
theorem haltCtx_of {s : State} {c : Nat} {x : Ctx} (hx : s.ctx? c = some x) (why snd core unit body : Nat) : ∃ t w, KeepsHalts s t ∧
    haltCtx s c why snd core unit body = if x.halted then t else notify (stopCtx t c) x.die 3 0 c 0 0 0 w := by
  unfold haltCtx
  simp only [hx]
  refine ⟨_, _, ?_, rfl⟩
  cases ht : putRecord s c { type := 4, fatal := true, replay := false, snd := snd, core := core, unit := unit, why := why, token := 0 } body with
  | none => exact KeepsHalts.refl s
  | some t => exact KeepsHalts.putRecord ht

/-- The halted context through the rest of its halt. -/
theorem stop_notified (t : State) (c part w : Nat) :
    KeepsHalts (t.modCtx c (fun x => { x with halted := true })) (notify (stopCtx t c) part 3 0 c 0 0 0 w) :=
  KeepsHalts.after (KeepsHalts.notify ..) (KeepsHalts.stopCtx t c)

theorem haltCtx_keeps (s : State) (c why snd core unit body : Nat) : KeepsHalts s (haltCtx s c why snd core unit body) := by
  cases hx : s.ctx? c with
  | none =>
    unfold haltCtx
    simp only [hx]
    exact KeepsHalts.refl s
  | some x =>
    obtain ⟨t, w, ht, hh⟩ := haltCtx_of hx why snd core unit body
    rw [hh]
    split
    · exact ht
    · exact (ht.trans (KeepsHalts.modCtx t c fun _ _ => rfl)).trans (stop_notified ..)

/-- A context that is there is halted once it has been told to halt. -/
theorem haltCtx_halts {s : State} {c : Nat} {x : Ctx} (hx : s.ctx? c = some x) (why snd core unit body : Nat) :
    ∃ y, (haltCtx s c why snd core unit body).ctx? c = some y ∧ y.halted = true := by
  obtain ⟨t, w, ht, hh⟩ := haltCtx_of hx why snd core unit body
  obtain ⟨y, hy, hkeep⟩ := ht.ctx c x hx
  rw [hh]
  split
  · next hhalted => exact ⟨y, hy, hkeep hhalted⟩
  · obtain ⟨z, hz, hstop⟩ := (stop_notified t c x.die w).ctx c _ ((find_modify_self ..).trans (congrArg _ hy))
    exact ⟨z, hz, hstop rfl⟩

end Sys2Proof.Machine
end

section
/-! The platform: reset, bring-up, firmware, power, temperature and debug (O53). -/

namespace Sys2Proof.Machine

open Sys2Proof State

/-! ## Boot -/

/-- The package that has booted an image, with the service's key in slot 0 (R360, R408). -/
def bootedFrom (t : State) (i : FlashImage) : State :=
  let x := t.slots.getOr KeySlot.reset 0
  { t with plat := { t.plat with step := 1, booted := some i, recovery := false, booterr := 0 }, freeCtr := t.freeCtr + 1,
           slots := t.slots.put 0 { x with domain := 0, epoch := x.epoch + 1, origin := 1, state := 1, key := Config.genKey t.freeCtr } }

theorem bootable_iff {s : State} {i : FlashImage} : bootable s i = true ↔ i.valid = true ∧ s.plat.fuse ≤ i.version := by
  rw [bootable, Bool.and_eq_true, decide_eq_true_eq]

theorem boot_starts {t : State} {i : FlashImage} (hf : t.plat.flash = some i) (hv : i.valid = true) (hn : t.plat.fuse ≤ i.version) :
    boot t = bootedFrom t i := by
  unfold boot
  rw [hf]
  exact if_pos (bootable_iff.mpr ⟨hv, hn⟩)

theorem boot_recovers {t : State} (h : ∀ i, t.plat.flash = some i → ¬ (i.valid = true ∧ t.plat.fuse ≤ i.version)) :
    boot t = { t with plat := { t.plat with recovery := true, booterr := 1 } } := by
  unfold boot
  cases hf : t.plat.flash with
  | none => rfl
  | some i => exact if_neg (mt bootable_iff.mp (h i hf))

theorem thermalTrip_resets (s : State) {c : Nat} (hc : 110 ≤ c) : exec (.eThermalTrip c) s = exec .ePackageReset s := if_pos hc

/-! ## Bring-up -/

theorem dieDone_of {s : State} {n : Nat} (hs : s.plat.step = 2) (hn : n < 4) (he : s.plat.ended.getLsbD n = false) (ok : Bool) :
    exec (.eBringUpStepDone (.die n ok)) s = .next (modPlat s fun p =>
      let q := { p with ended := p.ended ||| ((1 : BitVec 6) <<< n) }
      if ok then { q with dieup := q.dieup ||| ((1 : BitVec 4) <<< n) } else q.fails 4) :=
  congrArg Host.Outcome.next (if_neg (not_or.mpr ⟨not_not.mpr hs, not_or.mpr ⟨Nat.not_le.mpr hn, ne_true_of_eq_false he⟩⟩))

theorem tierDone_of {s : State} (hs : s.plat.step = 2) (he : s.plat.ended.getLsbD 4 = false) (unused : Nat) (ok : Bool) :
    exec (.eBringUpStepDone (.ddr unused ok)) s = .next (modPlat (tierUp s unused ok) fun p =>
      let q := { p with ended := p.ended ||| 16 }
      if ok then q else q.fails 2) :=
  congrArg Host.Outcome.next (if_neg (not_or.mpr ⟨not_not.mpr hs, ne_true_of_eq_false he⟩))

/-- A fold that changes each port of a list in one way that is idempotent. -/
theorem foldl_modPort {f : Port → Port} (hf : ∀ x, f (f x) = f x) (l : List Nat) (s : State) :
    let t := l.foldl (fun t n => t.modPort n f) s
    t.plat = s.plat ∧ t.pmem = s.pmem ∧ ∀ m, t.port m = if m ∈ l then f (s.port m) else s.port m := by
  induction l generalizing s with
  | nil => exact ⟨rfl, rfl, fun m => (if_neg List.not_mem_nil).symm⟩
  | cons n r ih =>
    obtain ⟨hplat, hmem, hport⟩ := ih (s.modPort n f)
    refine ⟨hplat, hmem, fun m => (hport m).trans ?_⟩
    by_cases hm : m = n
    · subst hm
      rw [show (s.modPort m f).port m = f (s.port m) from Tbl.getOr_put_self .., hf, ite_self, if_pos List.mem_cons_self]
    · rw [show (s.modPort n f).port m = s.port m from Tbl.getOr_put_ne _ _ _ hm]
      simp only [List.mem_cons, hm, false_or]

theorem mem_portsOf {mask n : Nat} (hn : n < 64) : n ∈ portsOf mask ↔ mask / 2 ^ n % 2 = 1 := by
  simp [portsOf, hn]

theorem portsDone_of {s : State} (hs : s.plat.step = 2) (he : s.plat.ended.getLsbD 5 = false) (mask : Nat) :
    let q := { s.plat with ended := s.plat.ended ||| 32 }
    ∃ t, exec (.eBringUpStepDone (.ports mask)) s = .next t ∧ t.plat = (if mask = 0 then q else q.fails 3) ∧ t.pmem = s.pmem ∧
      ∀ n, n < 64 → t.port n = if mask / 2 ^ n % 2 = 1 then { s.port n with err := true, dead := true } else s.port n := by
  intro q
  obtain ⟨hplat, hmem, hport⟩ := foldl_modPort (f := fun x => { x with err := true, dead := true }) (fun _ => rfl) (portsOf mask) s
  refine ⟨_, congrArg Host.Outcome.next (if_neg (not_or.mpr ⟨not_not.mpr hs, ne_true_of_eq_false he⟩)), ?_, hmem, fun n hn => ?_⟩
  · rw [modPlat, hplat]
  · refine (hport n).trans ?_
    simp only [mem_portsOf hn]

/-! ## Firmware -/

theorem stageable_iff {s : State} {img : FwImage} :
    stageable s img = true ↔ img.valid = true ∧ s.plat.fuse ≤ img.version ∧ img.bytes ≤ 64 * 2 ^ 20 := by
  rw [stageable, Bool.and_eq_true, bootable_iff, decide_eq_true_eq]
  exact and_assoc

section
variable {s : State} {img : FwImage}

theorem recoveryImage_boots (h : img.valid = true ∧ s.plat.fuse ≤ img.version ∧ img.bytes ≤ 64 * 2 ^ 20) (hr : s.plat.recovery = true) :
    exec (.eRecoveryImageTransfer img) s =
      .next ((bootedFrom { s with plat := { s.plat with flash := some (flashOf img) } } (flashOf img)).send (.mctp 0 [0x7E, 3, 0])) := by
  have hok : (s.plat.recovery && stageable s img) = true := by rw [hr, stageable_iff.mpr h]; rfl
  obtain ⟨hvalid, hversion, -⟩ := h
  refine congrArg Host.Outcome.next ?_
  rw [hok, if_pos rfl, boot_starts (t := modPlat s fun p => { p with flash := some (flashOf img) }) rfl hvalid hversion]
  rfl

theorem staging_keeps (h : img.valid = true ∧ s.plat.fuse ≤ img.version ∧ img.bytes ≤ 64 * 2 ^ 20) (hr : s.plat.recovery = false)
    (hb : s.plat.booted.isSome = true) : exec (.eFirmwareStaging img) s =
      .next (({ s with plat := { s.plat with flash := some (flashOf img) } } : State).send (.mctp 0 [0x7E, 2, 0])) := by
  have hok : (!s.plat.recovery && s.plat.booted.isSome && stageable s img) = true := by rw [hr, hb, stageable_iff.mpr h]; rfl
  refine congrArg Host.Outcome.next ?_
  rw [hok]
  rfl

variable (h : ¬ (img.valid = true ∧ s.plat.fuse ≤ img.version ∧ img.bytes ≤ 64 * 2 ^ 20))
include h

theorem recoveryImage_refused : exec (.eRecoveryImageTransfer img) s = .next (s.send (.mctp 0 [0x7E, 3, 1])) := by
  have hok : (s.plat.recovery && stageable s img) = false := by
    rw [Bool.eq_false_iff.mpr (mt stageable_iff.mp h), Bool.and_false]
  refine congrArg Host.Outcome.next ?_
  rw [hok]
  rfl

theorem staging_refused : exec (.eFirmwareStaging img) s = .next (s.send (.mctp 0 [0x7E, 2, 1])) := by
  have hok : (!s.plat.recovery && s.plat.booted.isSome && stageable s img) = false := by
    rw [Bool.eq_false_iff.mpr (mt stageable_iff.mp h), Bool.and_false]
  refine congrArg Host.Outcome.next ?_
  rw [hok]
  rfl

end

theorem securityVersion_of {s : State} {i : FlashImage} (hi : s.plat.booted = some i) :
    exec .eSecurityVersionAdvance s = .next (modPlat s fun p => { p with fuse := max p.fuse i.version }) := by
  rw [exec_eSecurityVersionAdvance, execESecurityVersionAdvance, hi]

/-! ## Debug -/

theorem getOr_mapV_const {α : Type} (t : Tbl α) (d : α) (n : Nat) : (t.mapV fun _ _ => d).getOr d n = d := by
  unfold Tbl.getOr
  rw [Tbl.find_mapV]
  cases t.find n <;> rfl

/-- A token for this device's serial zeroes every slot and halts every context. -/
theorem debugUnlock_of (s : State) : ∃ t, exec (.eDebugTokenUnlock s.plat.serial true) s = .next t ∧ t.plat.jtag = true ∧
    t.plat.debugOpen = true ∧ (∀ n : Nat, keySlot t n = KeySlot.reset) ∧
    (∀ c x, s.ctx? c = some x → ∃ y, t.ctx? c = some y ∧ y.halted = true) := by
  let z : State := { s with slots := s.slots.mapV (fun _ _ => KeySlot.reset) }
  let t := (s.ctxs.map (·.1)).foldl (fun s c => haltCtx s c 2 0 0 0 0x53) z
  have hkeep : KeepsHalts z t := KeepsHalts.foldl (fun s c => haltCtx_keeps ..) _ z
  refine ⟨modPlat t fun p => { p with debugOpen := true, jtag := true }, ?_, rfl, rfl, fun n => ?_, fun c x hx => ?_⟩
  · refine congrArg Host.Outcome.next (if_neg ?_)
    rw [bne_self_eq_false]
    exact Bool.false_ne_true
  · show t.slots.getOr KeySlot.reset n = KeySlot.reset
    rw [hkeep.slots]
    exact getOr_mapV_const ..
  · refine foldl_reaches (Q := fun t : State => ∃ y, t.ctx? c = some y) (P := fun t : State => ∃ y, t.ctx? c = some y ∧ y.halted = true)
      (fun t d hq => ?_) (fun t d hp => ?_) (fun t hq => ?_) (List.mem_map.mpr ⟨(c, x), Tbl.mem_of_find _ _ _ hx, rfl⟩) ⟨x, hx⟩
    · obtain ⟨y, hy⟩ := hq
      exact ((haltCtx_keeps t d 2 0 0 0 0x53).ctx c y hy).imp fun _ h => h.1
    · obtain ⟨y, hy, hh⟩ := hp
      exact ((haltCtx_keeps t d 2 0 0 0 0x53).ctx c y hy).imp fun _ h => ⟨h.1, h.2 hh⟩
    · obtain ⟨y, hy⟩ := hq
      exact haltCtx_halts hy ..

theorem debugUnlock_refused {s : State} {v : Nat} {signed : Bool} (h : signed = false ∨ v ≠ s.plat.serial) :
    exec (.eDebugTokenUnlock v signed) s = .next s := by
  refine congrArg Host.Outcome.next (if_pos ?_)
  obtain rfl | hne := h
  · rfl
  · rw [bne_iff_ne.mpr hne, Bool.or_true]

/-! ## Power and telemetry -/

theorem setPcap_of (s : State) (w : Nat) : exec (.eSetPcap w) s =
    .next (answerVendor (if 1000 ≤ w ∧ w ≤ 3200 ∧ w % 25 = 0 then modPlat s (fun p => { p with pcap := w }) else s) 1
      (decide (1000 ≤ w ∧ w ≤ 3200 ∧ w % 25 = 0))) := by
  have hok : (decide (1000 ≤ w) && decide (w ≤ 3200) && w % 25 == 0) = decide (1000 ≤ w ∧ w ≤ 3200 ∧ w % 25 = 0) := by
    simp [Bool.and_assoc, beq_eq_decide]
  rw [exec_eSetPcap, execESetPcap, hok]
  simp only [decide_eq_true_eq]

/-- Counting corrections only adds to the counters. -/
theorem countCorrections_of (l : List Nat) (s : State) : ∃ es : Tbl Nat, (∀ k, s.plat.errors.getOr 0 k ≤ es.getOr 0 k) ∧
    l.foldl (fun s i =>
      let n := (Config.freeWord s.freeCtr).toNat
      { s with freeCtr := s.freeCtr + 1,
               plat := { s.plat with errors := s.plat.errors.put (corrections + i) (s.plat.errors.getOr 0 (corrections + i) + n) } }) s =
      { s with plat := { s.plat with errors := es }, freeCtr := s.freeCtr + l.length } := by
  induction l generalizing s with
  | nil => exact ⟨s.plat.errors, fun k => le_rfl, rfl⟩
  | cons i r ih =>
    let n := (Config.freeWord s.freeCtr).toNat
    let e := s.plat.errors.put (corrections + i) (s.plat.errors.getOr 0 (corrections + i) + n)
    obtain ⟨es, hle, hfold⟩ := ih { s with freeCtr := s.freeCtr + 1, plat := { s.plat with errors := e } }
    refine ⟨es, fun k => le_trans ?_ (hle k), hfold.trans ?_⟩
    · by_cases hk : k = corrections + i
      · subst hk
        exact (Nat.le_add_right _ n).trans_eq (Tbl.getOr_put_self ..).symm
      · exact (Tbl.getOr_put_ne _ _ _ hk).ge
    · rw [List.length_cons, Nat.add_comm r.length 1, ← Nat.add_assoc]

theorem telemetryRead_of (s : State) (bus : Nat) : ∃ (xs : List Nat) (es : Tbl Nat), xs.length = 7 ∧
    (∀ k, s.plat.errors.getOr 0 k ≤ es.getOr 0 k) ∧
    let u : State := { s with plat := { s.plat with errors := es }, freeCtr := s.freeCtr + 12 }
    exec (.eTelemetryRead bus) s = .next (u.send (.mctp bus (0x7E :: xs ++ telemetry u))) := by
  obtain ⟨es, hle, hfold⟩ := countCorrections_of (List.range errorStructures) s
  have hcount : countCorrections s = { s with plat := { s.plat with errors := es }, freeCtr := s.freeCtr + 5 } := hfold
  refine ⟨(List.range 7).map (fun i => (Config.freeWord (s.freeCtr + 5 + i)).toNat), es, ?_, hle, ?_⟩
  · rw [List.length_map, List.length_range]
  · rw [exec_eTelemetryRead, execETelemetryRead, hcount]
    rfl

/-! ## Memory that fails -/

theorem memoryFailure_poisons (s : State) (n base size a : Nat) (hlo : base ≤ a / 64 * 64) (hhi : a / 64 * 64 < base + size) :
    (degrade (putPool s n { poolOf s n with retired := (base, size) :: (poolOf s n).retired })).poisoned a = true := by
  have hmem : (n, { poolOf s n with retired := (base, size) :: (poolOf s n).retired }) ∈
      s.pools.put n { poolOf s n with retired := (base, size) :: (poolOf s n).retired } :=
    Tbl.mem_of_find _ _ _ (Tbl.find_put_self ..)
  refine Bool.or_eq_true_iff.mpr (.inr (List.any_eq_true.mpr ⟨_, hmem, List.any_eq_true.mpr ⟨_, List.mem_cons_self, ?_⟩⟩))
  rw [Nat.mul_comm 64 (a / 64)]
  exact Bool.and_eq_true_iff.mpr ⟨decide_eq_true hlo, decide_eq_true hhi⟩

/-- Settles O53: each event of the platform by the state it leaves; the halts of the debug token by an induction over the
contexts. -/
theorem platformEventsComplete : Obligations.PlatformEventsComplete := by
  intro s p blank set keyed told failed
  have hreset : exec .ePackageReset s = .next (boot blank) := rfl
  refine ⟨fun ins hins => ?_, rfl, rfl, fun h => ?_, fun n hs hn he => ⟨?_, ?_⟩, fun unused hs he => ⟨?_, ?_⟩,
    fun mask hs he => portsDone_of hs he mask, fun hs he => ?_, fun h => ?_, fun h => ?_, fun img => ⟨fun h => ⟨fun hr => ?_, fun hr hb => ?_⟩,
    fun h => ⟨recoveryImage_refused h, staging_refused h⟩⟩, fun i hi => ?_, fun hnone => ?_, debugUnlock_of s,
    fun v => ⟨debugUnlock_refused (.inl rfl), fun hv => debugUnlock_refused (.inr hv)⟩, fun w hlo hhi hstep => ?_, fun w hw => ?_,
    fun w => rfl, fun c => rfl, fun c hc => ?_, telemetryRead_of s, fun bus cmd => ⟨_, rfl⟩, fun n base size => ?_⟩
  · have hins' : exec ins s = .next (boot blank) := by
      obtain rfl | ⟨c, hc, rfl⟩ := hins
      · exact hreset
      · exact (thermalTrip_resets s hc).trans hreset
    refine ⟨fun i hf hv hn => ?_, fun hno => ?_⟩
    · exact hins'.trans (congrArg Host.Outcome.next (boot_starts hf hv hn))
    · exact hins'.trans (congrArg Host.Outcome.next (boot_recovers hno))
  · exact congrArg Host.Outcome.next (if_pos h)
  · exact dieDone_of hs hn he true
  · exact dieDone_of hs hn he false
  · exact tierDone_of hs he unused true
  · exact tierDone_of hs he unused false
  · exact congrArg Host.Outcome.next (if_pos ⟨hs, he⟩)
  · exact congrArg Host.Outcome.next (if_neg h)
  · exact congrArg Host.Outcome.next (if_neg fun hboth => h.elim (fun hne => hne hboth.1) fun hne => hne hboth.2)
  · exact recoveryImage_boots h hr
  · exact staging_keeps h hr hb
  · exact securityVersion_of hi
  · rw [exec_eSecurityVersionAdvance, execESecurityVersionAdvance, hnone]
  · rw [setPcap_of, if_pos ⟨hlo, hhi, hstep⟩, decide_eq_true ⟨hlo, hhi, hstep⟩]
    rfl
  · rw [setPcap_of, if_neg hw, decide_eq_false hw]
    rfl
  · exact if_neg (Nat.not_le.mpr hc)
  · exact ⟨rfl, memoryFailure_poisons s n base size⟩

end Sys2Proof.Machine
end

section
/-! The SPDM responder (O54). -/

namespace Sys2Proof.Machine

open Sys2Proof State

/-! ## Connections and sessions -/

theorem onConn_early {s : State} {bus stage : Nat} (f : State → State) (h : ¬ s.connected bus stage) :
    onConn s bus stage f = .next (spdmSay s bus spdmError []) :=
  congrArg Host.Outcome.next (if_neg h)

/-- The link of a session, where it has one, is under a new key (R415). -/
def linkOpened (t : State) (x : Session) : State :=
  match x.link with
  | some p => (t.modPort p (fun q =>
      { q with session := some x.peer, epoch := q.epoch + 1, counter := 0, sealed := 0, rekeying := false })).emitKept p
  | none => t

theorem linkOpened_none {t : State} {x : Session} (h : x.link = none) : linkOpened t x = t := by rw [linkOpened, h]

theorem linkOpened_some {t : State} {x : Session} {p : Nat} (h : x.link = some p) : linkOpened t x = (t.modPort p (fun q =>
    { q with session := some x.peer, epoch := q.epoch + 1, counter := 0, sealed := 0, rekeying := false })).emitKept p := by
  rw [linkOpened, h]

section
variable {s : State} {bus n : Nat} {x : Session} (hc : s.connected bus 3) (hx : s.sessions.find n = some x) (hb : x.bus = bus)
include hc hx hb

theorem inSession_of (hr : x.ready = true) (f : State → Session → State) : inSession s bus n f = .next (f s x) := by
  rw [inSession, onConn_of _ hc, hx]
  exact congrArg Host.Outcome.next (if_pos ⟨hb, hr⟩)

/-- FINISH sets a session up; that of a link opens a new key epoch there. -/
theorem finish_of (hr : x.ready = false) : exec (.eFinish bus n) s =
    .next (spdmSay (linkOpened { s with sessions := s.sessions.put n { x with ready := true } } x) bus 0x65 []) := by
  rw [exec_eFinish, execEFinish, onConn_of _ hc, hx]
  exact congrArg Host.Outcome.next (if_neg (not_or.mpr ⟨not_not.mpr hb, ne_true_of_eq_false hr⟩))

end

/-! ## Messages that a port has kept -/

/-- The session, the epoch and the packets counted of every port are the same, and so are the sessions. -/
structure KeepsLinks (s t : State) : Prop where
  port     : ∀ p, (t.port p).session = (s.port p).session ∧ (t.port p).epoch = (s.port p).epoch ∧ (t.port p).counter = (s.port p).counter
  sessions : t.sessions = s.sessions

namespace KeepsLinks

variable {s t u : State}

theorem refl (s : State) : KeepsLinks s s := ⟨fun _ => ⟨rfl, rfl, rfl⟩, rfl⟩

theorem trans (h : KeepsLinks s t) (h' : KeepsLinks t u) : KeepsLinks s u := by
  refine ⟨fun p => ?_, h'.sessions.trans h.sessions⟩
  obtain ⟨hs, he, hn⟩ := h.port p
  obtain ⟨hs', he', hn'⟩ := h'.port p
  exact ⟨hs'.trans hs, he'.trans he, hn'.trans hn⟩

theorem modPort (s : State) (p : Nat) {f : Port → Port} (hs : ∀ x, (f x).session = x.session) (he : ∀ x, (f x).epoch = x.epoch)
    (hn : ∀ x, (f x).counter = x.counter) : KeepsLinks s (s.modPort p f) := by
  refine ⟨fun m => ?_, rfl⟩
  by_cases hm : m = p
  · subst hm
    rw [show (s.modPort m f).port m = f (s.port m) from Tbl.getOr_put_self ..]
    exact ⟨hs _, he _, hn _⟩
  · rw [show (s.modPort p f).port m = s.port m from Tbl.getOr_put_ne _ _ _ hm]
    exact ⟨rfl, rfl, rfl⟩

theorem send (s : State) (m : OutMsg) : KeepsLinks s (s.send m) := ⟨fun _ => ⟨rfl, rfl, rfl⟩, rfl⟩

theorem countSealed (s : State) (p : Nat) : KeepsLinks s (s.countSealed p) := by
  refine modPort s p (fun x => ?_) (fun x => ?_) (fun x => ?_) <;> split <;> rfl

theorem emit (s : State) (m : OutMsg) : KeepsLinks s (s.emit m) := by
  unfold State.emit
  split
  · exact send s m
  split
  · split
    · exact modPort s _ (fun _ => rfl) (fun _ => rfl) (fun _ => rfl)
    · exact (countSealed s _).trans (send ..)
  · exact refl s

theorem emitKept (s : State) (p : Nat) : KeepsLinks s (s.emitKept p) := by
  have hfold (l : List OutMsg) (t : State) : KeepsLinks t (l.foldl State.emit t) := by
    induction l generalizing t with
    | nil => exact refl t
    | cons m r ih => exact (emit t m).trans (ih _)
  exact (modPort s p (f := fun x => { x with kept := [] }) (fun _ => rfl) (fun _ => rfl) (fun _ => rfl)).trans (hfold _ _)

end KeepsLinks

theorem port_modPort_self (s : State) (p : Nat) (f : Port → Port) : (s.modPort p f).port p = f (s.port p) := Tbl.getOr_put_self ..

/-! ## Messages in a session -/

section
variable {s : State} {bus n : Nat} {x : Session} (hc : s.connected bus 3) (hx : s.sessions.find n = some x) (hb : x.bus = bus)
include hc hx hb

theorem finish_link {p : Nat} (hr : x.ready = false) (hl : x.link = some p) : ∃ t, exec (.eFinish bus n) s = .next t ∧
    (t.port p).session = some x.peer ∧ (t.port p).epoch = (s.port p).epoch + 1 ∧ (t.port p).counter = 0 := by
  let t : State := { s with sessions := s.sessions.put n { x with ready := true } }
  let u := t.modPort p fun q => { q with session := some x.peer, epoch := q.epoch + 1, counter := 0, sealed := 0, rekeying := false }
  have hu : u.port p = { s.port p with session := some x.peer, epoch := (s.port p).epoch + 1, counter := 0, sealed := 0, rekeying := false } :=
    port_modPort_self ..
  obtain ⟨hs, he, hn⟩ := (KeepsLinks.emitKept u p).port p
  refine ⟨spdmSay (u.emitKept p) bus 0x65 [], (finish_of hc hx hb hr).trans ?_, hs.trans ?_, he.trans ?_, hn.trans ?_⟩
  · rw [linkOpened_some hl]
  · rw [hu]
  · rw [hu]
  · rw [hu]

variable (hr : x.ready = true)
include hr

theorem endSession_link {p : Nat} (hl : x.link = some p) : ∃ t, exec (.eEndSession bus n) s = .next t ∧
    (t.port p).session = none ∧ t.sessions = s.sessions.del n := by
  let u := s.modPort p fun q => { q with session := none, rekeying := false }
  have hkeep := KeepsLinks.emitKept u p
  have hu : u.port p = { s.port p with session := none, rekeying := false } := port_modPort_self ..
  refine ⟨spdmSay { u.emitKept p with sessions := (u.emitKept p).sessions.del n } bus 0x6C [], ?_, (hkeep.port p).1.trans ?_, ?_⟩
  · rw [exec_eEndSession, execEEndSession, inSession_of hc hx hb hr, hl]
  · rw [hu]
  · exact congrArg (·.del n) hkeep.sessions

theorem keyImport_of {slot dom key : Nat} (ha : x.bothAuth = true) (h0 : slot ≠ 0) (hs : slot < 256) (hd : dom < 4096)
    (hfree : (keySlot s slot).state = 0) :
    let y : KeySlot := { keySlot s slot with
      domain := dom, epoch := (keySlot s slot).epoch + 1, origin := 2, state := 1, key := key, owner := some x.peer }
    ∃ t, exec (.eKeyImport bus n slot dom key) s = .next t ∧ keySlot t slot = y ∧ t.out = .spdm bus 0x7E [y.epoch.toNat] :: s.out := by
  intro y
  let t := installKey s slot dom 2 key
  have ht : keySlot t slot =
      { keySlot s slot with domain := dom, epoch := (keySlot s slot).epoch + 1, origin := 2, state := 1, key := key } :=
    keySlot_installKey s slot 2 key hd
  refine ⟨spdmSay (putSlot t slot { keySlot t slot with owner := some x.peer }) bus 0x7E [(keySlot t slot).epoch.toNat], ?_, ?_, ?_⟩
  · rw [exec_eKeyImport, execEKeyImport, inSession_of hc hx hb hr]
    refine congrArg Host.Outcome.next (if_neg ?_)
    rw [ha]
    exact not_or.mpr ⟨Bool.false_ne_true, not_or.mpr ⟨h0, not_or.mpr ⟨Nat.not_le.mpr hs, not_or.mpr ⟨Nat.not_le.mpr hd, not_not.mpr hfree⟩⟩⟩⟩
  · refine (keySlot_putSlot ..).trans ?_
    rw [ht]
  · rw [ht]
    rfl

end

/-- Settles O54: each message of the responder once its connection and its session let it through. -/
theorem securityMessagesComplete : Obligations.SecurityMessagesComplete := by
  intro s bus n v say at_
  refine ⟨rfl, fun hc hv => ?_, fun hc => ?_, fun hc => ⟨?_, ?_⟩,
    fun hc => ⟨?_, fun off len => ?_, ?_, fun h1 h4 => ?_, fun both link => ?_, fun c hctx => ?_⟩,
    fun x hc hx hb => ⟨fun hr hl => ?_, fun p hr hl => finish_link hc hx hb hr hl, fun hr => ⟨?_, ?_, fun hl => ?_,
      fun p hl => endSession_link hc hx hb hr hl, fun slot dom key => keyImport_of hc hx hb hr, fun slot ho hst => ?_,
      fun slot ho => ?_, fun slot ha h0 ho => ?_⟩⟩⟩
  · rw [exec_eGetCapabilities, execEGetCapabilities, onConn_of _ hc]
    exact congrArg Host.Outcome.next (if_pos hv)
  · rw [exec_eNegotiateAlgorithms, execENegotiateAlgorithms, onConn_of _ hc]
    rfl
  · rw [exec_eGetDigests, execEGetDigests, onConn_early _ hc]
    rfl
  · rw [exec_eChallenge, execEChallenge, onConn_early _ hc]
    rfl
  · rw [exec_eGetDigests, execEGetDigests, onConn_of _ hc]
    rfl
  · rw [exec_eGetCertificate, execEGetCertificate, onConn_of _ hc]
    rfl
  · rw [exec_eChallenge, execEChallenge, onConn_of _ hc]
    rfl
  · have hn : ¬ n = 0xFF := by omega
    rw [exec_eGetMeasurements, execEGetMeasurements, onConn_of _ hc]
    simp only [if_neg hn, List.all_cons, List.all_nil, decide_eq_true h1, decide_eq_true h4, Bool.and_true, if_true]
    rfl
  · refine ⟨{ bus := bus, peer := v, bothAuth := both, ready := false, gen := 0, beats := 0, link := link },
      rfl, rfl, rfl, rfl, rfl, ?_⟩
    rw [exec_eKeyExchange, execEKeyExchange, onConn_of _ hc]
    rfl
  · rw [exec_eContextReport, execEContextReport, onConn_of _ hc, hctx]
    rfl
  · refine (finish_of hc hx hb hr).trans ?_
    rw [linkOpened_none hl]
    rfl
  · rw [exec_eHeartbeat, execEHeartbeat, inSession_of hc hx hb hr]
    rfl
  · rw [exec_eKeyUpdate, execEKeyUpdate, inSession_of hc hx hb hr]
    rfl
  · rw [exec_eEndSession, execEEndSession, inSession_of hc hx hb hr, hl]
    rfl
  · rw [exec_eKeyExport, execEKeyExport, inSession_of hc hx hb hr]
    exact congrArg Host.Outcome.next (if_pos ⟨ho, hst⟩)
  · rw [exec_eKeyExport, execEKeyExport, inSession_of hc hx hb hr]
    exact congrArg Host.Outcome.next (if_neg fun h => ho h.1)
  · rw [exec_eRevoke, execERevoke, inSession_of hc hx hb hr]
    exact congrArg Host.Outcome.next (if_pos ⟨ha, h0, ho⟩)

end Sys2Proof.Machine
end

section
/-! Floats: the units of a code, and the rounding of a magnitude to a count of units (R86, R89). -/

namespace Sys2Proof.Fl

/-- A format with a sign bit, an exponent and a fraction that fill its width, its bias in the middle of the exponents. -/
structure Fmt.Regular (f : Fmt) : Prop where
  frac  : 2 ≤ f.m
  expo  : 2 ≤ f.e
  width : f.w = f.e + f.m + 1
  mid   : f.bias = 2 ^ (f.e - 1) - 1

theorem regular_of_mem {f : Fmt} (h : f ∈ [f16, bf16, f32, f64]) : f.Regular := by
  simp only [List.mem_cons, List.not_mem_nil, or_false] at h
  obtain rfl | rfl | rfl | rfl := h <;> exact ⟨by decide, by decide, rfl, by decide⟩

/-! ## Codes and their units -/

theorem Fmt.units_of (f : Fmt) {d n : Nat} (hd : d = 0 ∨ 2 ^ f.m ≤ n) (hn : n ≤ 2 ^ (f.m + 1)) :
    f.units (d * 2 ^ f.m + n) = n * 2 ^ d := by
  have hpos : 0 < 2 ^ f.m := Nat.two_pow_pos _
  have hsucc : 2 ^ (f.m + 1) = 2 ^ f.m + 2 ^ f.m := by rw [pow_succ]; omega
  unfold Fmt.units
  by_cases hlt : n < 2 ^ f.m
  · obtain rfl : d = 0 := hd.resolve_right (Nat.not_le.mpr hlt)
    rw [Nat.zero_mul, Nat.zero_add, Nat.div_eq_of_lt hlt, if_pos rfl, pow_zero, Nat.mul_one]
  obtain ⟨r, rfl⟩ := Nat.exists_eq_add_of_le (Nat.not_lt.mp hlt)
  have hc : d * 2 ^ f.m + (2 ^ f.m + r) = r + 2 ^ f.m * (d + 1) := by ring
  rw [hc, Nat.add_mul_div_left _ _ hpos, Nat.add_mul_mod_self_left]
  by_cases hr : r = 2 ^ f.m
  · rw [hr, Nat.div_self hpos, Nat.mod_self, if_neg (by omega), show 1 + (d + 1) - 1 = d + 1 by omega, pow_succ]
    ring
  · rw [Nat.div_eq_of_lt (by omega), Nat.mod_eq_of_lt (by omega), if_neg (by omega), show 0 + (d + 1) - 1 = d by omega]

/-- Every code is that of a count of units of some power of two. -/
theorem Fmt.code_split (f : Fmt) (c : Nat) : ∃ d n, c = d * 2 ^ f.m + n ∧ (d = 0 ∨ 2 ^ f.m ≤ n) ∧ n < 2 ^ (f.m + 1) := by
  have hsucc : 2 ^ (f.m + 1) = 2 ^ f.m + 2 ^ f.m := by rw [pow_succ]; omega
  have hmod : c % 2 ^ f.m < 2 ^ f.m := Nat.mod_lt _ (Nat.two_pow_pos _)
  have hdiv := Nat.div_add_mod' c (2 ^ f.m)
  cases hq : c / 2 ^ f.m with
  | zero => exact ⟨0, c % 2 ^ f.m, by rw [hq] at hdiv; omega, .inl rfl, by omega⟩
  | succ d => exact ⟨d, 2 ^ f.m + c % 2 ^ f.m, by rw [hq, Nat.succ_mul] at hdiv; omega, .inr (Nat.le_add_right ..), by omega⟩

theorem Fmt.units_strictMono (f : Fmt) : StrictMono f.units := by
  refine strictMono_nat_of_lt_succ fun c => ?_
  obtain ⟨d, n, rfl, hd, hn⟩ := f.code_split c
  rw [Nat.add_assoc, f.units_of hd hn.le, f.units_of (hd.imp_right Nat.le_succ_of_le) hn]
  exact Nat.mul_lt_mul_of_pos_right (Nat.lt_succ_self n) (Nat.two_pow_pos d)

/-! ## Rounding to a count of units -/

/-- Of a number X from n on and below n + 1, rounding takes n + 1. -/
def GoesUp (mode : Mode) (s : Bool) (n : Nat) (X : ℝ) : Prop :=
  match mode with
  | .rz => False
  | .rp => (n : ℝ) ≠ X ∧ s = false
  | .rm => (n : ℝ) ≠ X ∧ s = true
  | .rn => 2 * n + 1 < 2 * X ∨ 2 * n + 1 = 2 * X ∧ n % 2 = 1
  | .ra => 2 * n + 1 ≤ 2 * X

/-- A magnitude as the model keeps it: its integer part, and whether something is left beyond it. -/
def Kept (m : Nat) (sticky : Bool) (X : ℝ) : Prop := (m : ℝ) ≤ X ∧ X < m + 1 ∧ (sticky = true ↔ (m : ℝ) ≠ X)

theorem not_goesUp_exact (mode : Mode) (s : Bool) (n : Nat) : ¬ GoesUp mode s n (n : ℝ) := by
  cases mode <;> simp [GoesUp]

/-- A real between two consecutive numbers compared with a third, by the integer part and what is left. -/
theorem Kept.lt_iff {m k : Nat} {sticky : Bool} {X : ℝ} (h : Kept m sticky X) : (k : ℝ) < X ↔ k < m ∨ k = m ∧ sticky = true := by
  obtain ⟨hlo, hhi, hs⟩ := h
  constructor
  · intro hk
    have hle : k ≤ m := by
      have : (k : ℝ) < (m : ℝ) + 1 := hk.trans hhi
      exact Nat.lt_succ_iff.mp (by exact_mod_cast this)
    obtain rfl | hlt := hle.eq_or_lt
    · exact .inr ⟨rfl, hs.mpr hk.ne⟩
    · exact .inl hlt
  · rintro (hlt | ⟨rfl, hst⟩)
    · exact lt_of_lt_of_le (by exact_mod_cast hlt) hlo
    · exact lt_of_le_of_ne hlo (hs.mp hst)

theorem Kept.eq_iff {m k : Nat} {sticky : Bool} {X : ℝ} (h : Kept m sticky X) : (k : ℝ) = X ↔ k = m ∧ sticky = false := by
  have hlt := h.lt_iff (k := k)
  obtain ⟨hlo, hhi, hs⟩ := h
  constructor
  · intro hk
    have hm : k = m := by
      have hle : (m : ℝ) ≤ k := hk ▸ hlo
      have hlt : (k : ℝ) < (m : ℝ) + 1 := hk ▸ hhi
      exact le_antisymm (Nat.lt_succ_iff.mp (by exact_mod_cast hlt)) (by exact_mod_cast hle)
    subst hm
    exact ⟨rfl, Bool.eq_false_iff.mpr fun hst => hs.mp hst hk⟩
  · rintro ⟨rfl, hst⟩
    by_contra hne
    exact Bool.false_ne_true (hst.symm.trans (hs.mpr hne))

/-- X is its integer part where no discarded bit is set. -/
theorem Kept.exact_iff {sticky : Bool} {n rem half : Nat} {X : ℝ} (hh : 0 < half) (hk : Kept rem sticky (2 * half * (X - n))) :
    (n : ℝ) = X ↔ rem = 0 ∧ sticky = false := by
  have hpos : (0 : ℝ) < half := by exact_mod_cast hh
  rw [eq_comm (a := rem), ← hk.eq_iff (k := 0)]
  constructor
  · intro h
    rw [h]
    simp
  · intro h
    rw [Nat.cast_zero, eq_comm, mul_eq_zero] at h
    have := h.resolve_left (by positivity)
    linarith

/-- Where the fraction of X lies, by its discarded bits. -/
theorem goesUp_iff {mode : Mode} {s sticky : Bool} {n rem half : Nat} {X : ℝ} (hh : 0 < half)
    (hk : Kept rem sticky (2 * half * (X - n))) : roundUp mode s n rem half sticky = true ↔ GoesUp mode s n X := by
  have hpos : (0 : ℝ) < half := by exact_mod_cast hh
  have hscale : (half : ℝ) * (2 * X - 2 * n) = 2 * half * (X - n) := by ring
  have habove : (2 * n + 1 : ℝ) < 2 * X ↔ half < rem ∨ half = rem ∧ sticky = true := by
    rw [← hk.lt_iff, ← hscale]
    constructor <;> intro h <;> nlinarith
  have htie : (2 * n + 1 : ℝ) = 2 * X ↔ half = rem ∧ sticky = false := by
    rw [← hk.eq_iff, ← hscale]
    constructor
    · intro h
      rw [← h]
      ring
    · intro h
      have := mul_left_cancel₀ hpos.ne' ((mul_one (half : ℝ)).trans h)
      linarith
  have hexact := hk.exact_iff hh
  cases mode
  case rz => simp [roundUp, GoesUp]
  case rp => simp only [GoesUp, ne_eq, hexact]; cases s <;> cases sticky <;> simp [roundUp]
  case rm => simp only [GoesUp, ne_eq, hexact]; cases s <;> cases sticky <;> simp [roundUp]
  case rn => simp only [GoesUp, habove, htie]; cases sticky <;> simp [roundUp] <;> omega
  case ra => simp only [GoesUp, le_iff_lt_or_eq, habove, htie]; cases sticky <;> simp [roundUp] <;> omega

/-- What the model's rounding to units of 2^q delivers, of a number that is X such units. -/
theorem roundUnits_spec {mode : Mode} {s sticky : Bool} {m : Nat} {e q : Int} {X : ℝ} (hk : Kept m sticky (X * 2 ^ (q - e)))
    (hq : sticky = true → e < q) : ∃ (n : Nat) (up nx : Bool), roundUnits mode s m e q sticky = (n + (if up then 1 else 0), nx) ∧
      (n : ℝ) ≤ X ∧ X < n + 1 ∧ (up = true ↔ GoesUp mode s n X) ∧ (nx = true ↔ (n : ℝ) ≠ X) := by
  unfold roundUnits
  by_cases hle : q ≤ e
  · have hs : sticky = false := Bool.eq_false_iff.mpr fun h => absurd (hq h) (not_lt.mpr hle)
    subst hs
    have hm : (m : ℝ) = X * 2 ^ (q - e) := (hk.eq_iff (k := m)).mpr ⟨rfl, rfl⟩
    have hX : ((m * 2 ^ (e - q).toNat : Nat) : ℝ) = X := by
      have hexp : ((e - q).toNat : Int) = e - q := Int.toNat_of_nonneg (by omega)
      rw [Nat.cast_mul, hm, Nat.cast_pow, Nat.cast_ofNat, ← zpow_natCast, hexp, mul_assoc, ← zpow_add₀ two_ne_zero]
      simp
    have hup : roundUp mode s m 0 0 false = false := by cases mode <;> simp [roundUp]
    refine ⟨m * 2 ^ (e - q).toNat, false, false, ?_, hX.le, ?_, ?_, ?_⟩
    · rw [if_pos hle, hup]
    · rw [hX]
      exact lt_add_one X
    · have := not_goesUp_exact mode s (m * 2 ^ (e - q).toNat)
      rw [hX] at this
      simp [this]
    · simp [hX]
  · have hsh : 0 < (q - e).toNat := by omega
    obtain ⟨j, hj⟩ := Nat.exists_eq_succ_of_ne_zero hsh.ne'
    have hj' : (q - e).toNat - 1 = j := by omega
    have hpow : 2 ^ (q - e).toNat = 2 * 2 ^ j := by rw [hj, pow_succ, Nat.mul_comm]
    have hexp : (2 : ℝ) ^ (q - e) = 2 * (2 ^ j : Nat) := by
      have : ((q - e).toNat : Int) = q - e := Int.toNat_of_nonneg (by omega)
      rw [← this, zpow_natCast, hj, pow_succ, Nat.cast_pow, Nat.cast_ofNat, mul_comm]
    have hdiv : m = 2 * 2 ^ j * (m / (2 * 2 ^ j)) + m % (2 * 2 ^ j) := (Nat.div_add_mod m (2 * 2 ^ j)).symm
    have hmod : m % (2 * 2 ^ j) < 2 * 2 ^ j := Nat.mod_lt _ (by positivity)
    set n := m / (2 * 2 ^ j)
    set rem := m % (2 * 2 ^ j)
    have hk' : Kept rem sticky (2 * (2 ^ j : Nat) * (X - n)) := by
      obtain ⟨hlo, hhi, hs⟩ := hk
      rw [hexp] at hlo hhi hs
      have hm : (m : ℝ) = 2 * (2 ^ j : Nat) * n + rem := by exact_mod_cast hdiv
      refine ⟨by linarith, by linarith, hs.trans (not_congr ?_)⟩
      constructor <;> intro h <;> linarith
    have hj : (0 : ℝ) < 2 * (2 ^ j : Nat) := by positivity
    refine ⟨n, roundUp mode s n rem (2 ^ j) sticky, rem != 0 || sticky, ?_, ?_, ?_, goesUp_iff (by positivity) hk', ?_⟩
    · rw [if_neg hle]
      dsimp only
      rw [hpow, hj']
    · have := hk'.1
      nlinarith [(Nat.cast_nonneg rem : (0 : ℝ) ≤ rem)]
    · have hle : ((rem : ℝ) + 1) ≤ 2 * (2 ^ j : Nat) := by exact_mod_cast hmod
      nlinarith [hk'.2.1]
    · rw [ne_eq, hk'.exact_iff (by positivity)]
      cases sticky <;> simp

theorem two_pow_bitLen_le {m : Nat} (h : m ≠ 0) : 2 ^ (bitLen m - 1) ≤ m := by
  rw [bitLen, if_neg h]
  exact Nat.log2_self_le h

theorem lt_two_pow_bitLen (m : Nat) : m < 2 ^ bitLen m := by
  by_cases h : m = 0
  · simp [h, bitLen]
  · rw [bitLen, if_neg h]
    exact Nat.lt_log2_self

theorem bitLen_pos {m : Nat} (h : m ≠ 0) : 0 < bitLen m := by
  rw [bitLen, if_neg h]
  exact Nat.succ_pos _

theorem Fmt.Regular.infCode_pos {f : Fmt} (h : f.Regular) : 0 < f.infCode := by
  have : 2 ^ 1 < 2 ^ f.e := Nat.pow_lt_pow_right (by decide) h.expo
  exact Nat.mul_pos (by omega) (Nat.two_pow_pos _)

/-! ## What a rounding delivers -/

/-- Below the least normal, and above the code before it, a magnitude x is tiny (R86), in the words of `Delivers`. -/
def TinyLast (f : Fmt) (mode : Mode) (s : Bool) (x : ℝ) : Prop :=
  match mode with
  | .rz => True
  | .rp => s = true ∨ ((2 : Nat) : ℝ) * x ≤ (2 * 2 ^ f.m - 1 : Nat)
  | .rm => s = false ∨ ((2 : Nat) : ℝ) * x ≤ (2 * 2 ^ f.m - 1 : Nat)
  | _ => ¬ ((4 * 2 ^ f.m - 1 : Nat) : ℝ) ≤ ((4 : Nat) : ℝ) * x

/-- Between the codes c and c + 1 a magnitude x is tiny (R86). -/
def TinyBelow (f : Fmt) (mode : Mode) (s : Bool) (c : Nat) (x : ℝ) : Prop := c + 1 < 2 ^ f.m ∨ c + 1 = 2 ^ f.m ∧ TinyLast f mode s x

/-- A magnitude above 0, compared as `Delivers` asks. -/
def DeliversReal (f : Fmt) (mode : Mode) (s : Bool) (x : ℝ) (r : Nat × Nat) : Prop :=
  Delivers f mode s (fun n k => (n : ℝ) ≤ k * x) (fun n k => (k : ℝ) * x ≤ n) r

theorem overflow_eq (f : Fmt) (mode : Mode) (s : Bool) :
    (if mode = .rn ∨ mode = .ra ∨ mode = .rp ∧ s = false ∨ mode = .rm ∧ s = true then f.infCode else f.infCode - 1) =
      if overflowInf mode s then f.infCode else f.infCode - 1 := by
  cases mode <;> cases s <;> rfl

/-- A magnitude from the code of infinity on overflows. -/
theorem delivers_overflow {f : Fmt} {mode : Mode} {s : Bool} {x : ℝ} (hpos : 0 < f.infCode) (hx : (f.units f.infCode : ℝ) ≤ x) :
    DeliversReal f mode s x (f.withSign s (if overflowInf mode s then f.infCode else f.infCode - 1), fOverflow + fInexact) := by
  have hsucc : f.infCode - 1 + 1 = f.infCode := Nat.sub_add_cancel hpos
  have hmono : (f.units (f.infCode - 1) : ℝ) ≤ f.units f.infCode := by
    exact_mod_cast f.units_strictMono.monotone (Nat.sub_le _ 1)
  refine ⟨f.infCode - 1, by omega, ?_, fun _ => hsucc, fun _ => ?_, fun h => absurd (.inl ?_) h⟩
  · show (f.units (f.infCode - 1) : ℝ) ≤ (1 : Nat) * x
    rw [Nat.cast_one, one_mul]
    exact hmono.trans hx
  · rw [overflow_eq]
  · show (f.units (f.infCode - 1 + 1) : ℝ) ≤ (1 : Nat) * x
    rw [hsucc, Nat.cast_one, one_mul]
    exact hx

/-- A magnitude from n units of 2^d on is not above them where it is n units. -/
theorem units_exact_iff {d n : Nat} {X : ℝ} (hlo : (n : ℝ) ≤ X) :
    ((1 : Nat) : ℝ) * (X * 2 ^ d) ≤ ((n * 2 ^ d : Nat) : ℝ) ↔ (n : ℝ) = X := by
  have hpos : (0 : ℝ) < 2 ^ d := by positivity
  push_cast
  rw [one_mul, mul_le_mul_iff_left₀ hpos]
  exact ⟨hlo.antisymm, fun h => h.ge⟩

/-- Between the codes c and c + 1, of values U and V, the words of `Delivers` for the choice say that the rounding goes up. -/
theorem goesUp_iff_compare {f : Fmt} {mode : Mode} {s : Bool} {d n : Nat} {X : ℝ} (hm : 1 ≤ f.m) (hlo : (n : ℝ) ≤ X) :
    (match mode with
      | .rz => False
      | .rp => ¬ ((1 : Nat) : ℝ) * (X * 2 ^ d) ≤ ((n * 2 ^ d : Nat) : ℝ) ∧ s = false
      | .rm => ¬ ((1 : Nat) : ℝ) * (X * 2 ^ d) ≤ ((n * 2 ^ d : Nat) : ℝ) ∧ s = true
      | .rn => ((n * 2 ^ d + (n + 1) * 2 ^ d : Nat) : ℝ) ≤ ((2 : Nat) : ℝ) * (X * 2 ^ d) ∧
          (¬ ((2 : Nat) : ℝ) * (X * 2 ^ d) ≤ ((n * 2 ^ d + (n + 1) * 2 ^ d : Nat) : ℝ) ∨ (d * 2 ^ f.m + n) % 2 = 1)
      | .ra => ((n * 2 ^ d + (n + 1) * 2 ^ d : Nat) : ℝ) ≤ ((2 : Nat) : ℝ) * (X * 2 ^ d)) ↔ GoesUp mode s n X := by
  have hpos : (0 : ℝ) < 2 ^ d := by positivity
  have hexact := units_exact_iff (d := d) hlo
  have hsum : ((n * 2 ^ d + (n + 1) * 2 ^ d : Nat) : ℝ) = (2 * n + 1) * 2 ^ d := by
    push_cast
    ring
  have hdouble : ((2 : Nat) : ℝ) * (X * 2 ^ d) = 2 * X * 2 ^ d := by
    push_cast
    ring
  have hodd : (d * 2 ^ f.m + n) % 2 = n % 2 := by
    obtain ⟨k, hk⟩ := Nat.exists_eq_add_of_le' hm
    rw [hk, pow_succ, ← Nat.mul_assoc, Nat.mul_add_mod_self_right]
  cases mode
  case rz => rfl
  case rp => exact and_congr (not_congr hexact) .rfl
  case rm => exact and_congr (not_congr hexact) .rfl
  case ra => simp only [GoesUp, hsum, hdouble, mul_le_mul_iff_left₀ hpos]
  case rn =>
    simp only [GoesUp, hsum, hdouble, hodd, mul_le_mul_iff_left₀ hpos, not_le]
    rw [le_iff_lt_or_eq]
    constructor
    · rintro ⟨hlt | heq, hup⟩
      · exact .inl hlt
      · exact hup.imp_right fun h => ⟨heq, h⟩
    · rintro (hlt | ⟨heq, h⟩)
      · exact ⟨.inl hlt, .inl hlt⟩
      · exact ⟨.inr heq, .inr h⟩

/-- A magnitude x of n to n + 1 units of 2^d, below the code of infinity, delivers the code that the rounding takes. -/
theorem delivers_enclosed {f : Fmt} (hm : 1 ≤ f.m) {mode : Mode} {s : Bool} {d n : Nat} {X : ℝ} {up nx tiny : Bool}
    (hd : d = 0 ∨ 2 ^ f.m ≤ n) (hn : n < 2 ^ (f.m + 1)) (hc : d * 2 ^ f.m + n < f.infCode) (hlo : (n : ℝ) ≤ X) (hhi : X < n + 1)
    (hup : up = true ↔ GoesUp mode s n X) (hnx : nx = true ↔ (n : ℝ) ≠ X)
    (htiny : (n : ℝ) ≠ X → (tiny = true ↔ TinyBelow f mode s (d * 2 ^ f.m + n) (X * 2 ^ d))) :
    DeliversReal f mode s (X * 2 ^ d) (if f.infCode ≤ d * 2 ^ f.m + n + (if up then 1 else 0) then
        (f.withSign s (if overflowInf mode s then f.infCode else f.infCode - 1), fOverflow + fInexact)
      else (f.withSign s (d * 2 ^ f.m + n + (if up then 1 else 0)), if nx then (if tiny then fUnderflow + fInexact else fInexact) else 0)) := by
  have hpos : (0 : ℝ) < 2 ^ d := by positivity
  have hU : f.units (d * 2 ^ f.m + n) = n * 2 ^ d := f.units_of hd hn.le
  have hV : f.units (d * 2 ^ f.m + n + 1) = (n + 1) * 2 ^ d := f.units_of (hd.imp_right Nat.le_succ_of_le) hn
  have hexact := units_exact_iff (d := d) hlo
  have hbelow : ¬ (((n + 1) * 2 ^ d : Nat) : ℝ) ≤ ((1 : Nat) : ℝ) * (X * 2 ^ d) := by
    push_cast
    rw [one_mul, mul_le_mul_iff_left₀ hpos]
    exact not_le.mpr hhi
  have hgoes := goesUp_iff_compare (f := f) (mode := mode) (s := s) (d := d) hm hlo
  rw [← hup] at hgoes
  refine ⟨d * 2 ^ f.m + n, hc, ?_, ?_, ?_, ?_⟩
  · rw [hU]
    push_cast
    rw [one_mul]
    exact mul_le_mul_of_nonneg_right hlo hpos.le
  · rw [hV]
    exact fun h => absurd h hbelow
  · rw [hV, hU]
    rintro (h | ⟨h, hinf⟩)
    · exact absurd h hbelow
    · rw [hgoes.mp h, if_pos rfl, if_pos hinf.ge, overflow_eq]
  · rw [hV, hU]
    intro hno
    have hin : ¬ f.infCode ≤ d * 2 ^ f.m + n + (if up then 1 else 0) := by
      split
      next h => exact fun hle => hno (.inr ⟨hgoes.mpr h, by omega⟩)
      next => omega
    rw [if_neg hin]
    refine ⟨fun h => ?_, fun h => ?_, fun h => ?_, fun h ht => ?_, fun h ht => ?_⟩
    · rw [hgoes.mp h, if_pos rfl]
    · rw [if_neg (mt hgoes.mpr h), Nat.add_zero]
    · exact if_neg fun hx => hnx.mp hx (hexact.mp h)
    · have hne := mt hexact.mpr h
      rw [hnx.mpr hne, if_pos rfl, if_pos ((htiny hne).mpr ht)]
    · have hne := mt hexact.mpr h
      rw [hnx.mpr hne, if_pos rfl, if_neg (mt (htiny hne).mp ht)]

/-- A magnitude x of n to n + 1 units of 2^d delivers the code that the rounding takes, or overflows. -/
theorem delivers_counted {f : Fmt} (hf : f.Regular) {mode : Mode} {s : Bool} {d n : Nat} {X : ℝ} {up nx tiny : Bool}
    (hd : d = 0 ∨ 2 ^ f.m ≤ n) (hn : n < 2 ^ (f.m + 1)) (hlo : (n : ℝ) ≤ X) (hhi : X < n + 1)
    (hup : up = true ↔ GoesUp mode s n X) (hnx : nx = true ↔ (n : ℝ) ≠ X)
    (htiny : (n : ℝ) ≠ X → (tiny = true ↔ TinyBelow f mode s (d * 2 ^ f.m + n) (X * 2 ^ d))) :
    DeliversReal f mode s (X * 2 ^ d) (if f.infCode ≤ d * 2 ^ f.m + n + (if up then 1 else 0) then
        (f.withSign s (if overflowInf mode s then f.infCode else f.infCode - 1), fOverflow + fInexact)
      else (f.withSign s (d * 2 ^ f.m + n + (if up then 1 else 0)), if nx then (if tiny then fUnderflow + fInexact else fInexact) else 0)) := by
  by_cases hc : d * 2 ^ f.m + n < f.infCode
  · exact delivers_enclosed (by have := hf.frac; omega) hd hn hc hlo hhi hup hnx htiny
  · have hle := Nat.not_lt.mp hc
    rw [if_pos (Nat.le_add_right_of_le hle)]
    refine delivers_overflow hf.infCode_pos ?_
    have hunits : (f.units f.infCode : ℝ) ≤ ((n * 2 ^ d : Nat) : ℝ) := by
      rw [← f.units_of hd hn.le]
      exact_mod_cast f.units_strictMono.monotone hle
    refine hunits.trans ?_
    push_cast
    exact mul_le_mul_of_nonneg_right hlo (by positivity)

end Sys2Proof.Fl
end

section
/-! Floats: what the model's rounding delivers, as a ratio and as a root, and what a pattern stands for (R84 to R86). -/

namespace Sys2Proof.Fl

/-- The model's rounding of a magnitude that is not zero, by the count of units it is rounded to. -/
theorem round_eq {f : Fmt} (hpos : 0 < f.infCode) {mode : Mode} {s sticky : Bool} {m n : Nat} {e q0 q : Int} {nx : Bool} (hm : m ≠ 0)
    (hq0 : q0 = (bitLen m : Int) + e - (f.m + 1)) (hq : q = if q0 < f.qmin then f.qmin else q0)
    (hr : roundUnits mode s m e q sticky = (n, nx)) :
    f.round mode s m e sticky = if f.infCode ≤ (q - f.qmin).toNat * 2 ^ f.m + n then
        (f.withSign s (if overflowInf mode s then f.infCode else f.infCode - 1), fOverflow + fInexact)
      else (f.withSign s ((q - f.qmin).toNat * 2 ^ f.m + n), if nx then
        (if decide (q0 < f.qmin ∧ (roundUnits mode s m e q0 sticky).1 < 2 ^ (f.qmin + f.m - q0).toNat) then fUnderflow + fInexact
          else fInexact) else 0) := by
  subst hq0
  unfold Fmt.round roundMag
  rw [if_neg (fun h => hm h.1)]
  dsimp only
  rw [← hq, hr]
  dsimp only
  have hcode : f.infCode - 1 < (q - f.qmin).toNat * 2 ^ f.m + n ↔ f.infCode ≤ (q - f.qmin).toNat * 2 ^ f.m + n := by omega
  by_cases hc : f.infCode ≤ (q - f.qmin).toNat * 2 ^ f.m + n
  · rw [if_pos (hcode.mpr hc), if_pos hc]
  · rw [if_neg (mt hcode.mp hc), if_neg hc]
    by_cases ht : (bitLen m : Int) + e - (f.m + 1) < f.qmin
    · simp [ht]
    · simp [ht]

/-- Rounded to half units, the magnitude x stays below the least normal where it is tiny: at the last code before it. -/
theorem lt_half_units_iff {f : Fmt} {mode : Mode} {s up : Bool} {n N : Nat} {x : ℝ} (hn : n + 1 = 2 ^ f.m) (hlo : (N : ℝ) ≤ 2 * x)
    (hhi : 2 * x < N + 1) (hN : N < 2 * 2 ^ f.m) (hup : up = true ↔ GoesUp mode s N (2 * x)) :
    N + (if up then 1 else 0) < 2 * 2 ^ f.m ↔ TinyBelow f mode s n x := by
  have hcases : TinyBelow f mode s n x ↔ TinyLast f mode s x := ⟨fun h => (h.resolve_left (by omega)).2, fun h => .inr ⟨hn, h⟩⟩
  have htwo : ((2 : Nat) : ℝ) = 2 := Nat.cast_ofNat
  have hfour : ((4 : Nat) : ℝ) = 4 := Nat.cast_ofNat
  simp only [hcases, TinyLast, htwo, hfour]
  by_cases hlast : N + 1 = 2 * 2 ^ f.m
  · rw [show 2 * 2 ^ f.m - 1 = N by omega, show 4 * 2 ^ f.m - 1 = 2 * N + 1 by omega]
    have hleft : N + (if up then 1 else 0) < 2 * 2 ^ f.m ↔ ¬ GoesUp mode s N (2 * x) := by
      rw [← hup]
      cases up <;> simp <;> omega
    rw [hleft]
    have hne : (N : ℝ) ≠ 2 * x ↔ ¬ 2 * x ≤ N := not_congr ⟨fun h => h.ge, hlo.antisymm⟩
    have hodd : N % 2 = 1 := by omega
    push_cast
    cases mode
    case rz => simp [GoesUp]
    case rp => simp only [GoesUp, hne]; cases s <;> simp
    case rm => simp only [GoesUp, hne]; cases s <;> simp
    case ra => simp only [GoesUp, not_le]; constructor <;> intro h <;> linarith
    case rn =>
      simp only [GoesUp, hodd, and_true, ← le_iff_lt_or_eq, not_le]
      constructor <;> intro h <;> linarith
  · have hle : (N : ℝ) + 1 ≤ (2 * 2 ^ f.m - 1 : Nat) := by exact_mod_cast (show N + 1 ≤ 2 * 2 ^ f.m - 1 by omega)
    have hquad : 2 * ((N : ℝ) + 1) < (4 * 2 ^ f.m - 1 : Nat) := by
      exact_mod_cast (show 2 * (N + 1) < 4 * 2 ^ f.m - 1 by omega)
    refine iff_of_true (by split <;> omega) ?_
    cases mode
    case rz => trivial
    case rp => exact .inr (hhi.le.trans hle)
    case rm => exact .inr (hhi.le.trans hle)
    case ra => exact not_le.mpr (by linarith)
    case rn => exact not_le.mpr (by linarith)

/-- A subnormal magnitude of x units, rounded with an unbounded exponent to units of 2^-j, stays below the least normal where it is tiny. -/
theorem lt_unbounded_iff {f : Fmt} (hm : 1 ≤ f.m) {mode : Mode} {s up : Bool} {n N j : Nat} {x : ℝ} (hj : 1 ≤ j) (hn : (n : ℝ) ≤ x)
    (hn' : x < n + 1) (hlo : (N : ℝ) ≤ x * 2 ^ j) (hhi : x * 2 ^ j < N + 1) (htop : x * 2 ^ j < 2 ^ (f.m + 1))
    (hup : up = true ↔ GoesUp mode s N (x * 2 ^ j)) : N + (if up then 1 else 0) < 2 ^ (f.m + j) ↔ TinyBelow f mode s n x := by
  have hN : N < 2 * 2 ^ f.m := by
    have : (N : ℝ) < 2 ^ (f.m + 1) := hlo.trans_lt htop
    rw [Nat.mul_comm, ← pow_succ]
    exact_mod_cast this
  obtain rfl | hj2 : j = 1 ∨ 2 ≤ j := by omega
  · rw [pow_one, mul_comm x 2] at hlo hhi htop hup
    rw [pow_succ, Nat.mul_comm (2 ^ f.m) 2]
    have hlt : n < 2 ^ f.m := by
      have : (n : ℝ) < 2 ^ f.m := by
        rw [pow_succ] at htop
        linarith
      exact_mod_cast this
    obtain hlast | hlow : n + 1 = 2 ^ f.m ∨ n + 1 < 2 ^ f.m := by omega
    · exact lt_half_units_iff hlast hlo hhi hN hup
    · refine iff_of_true ?_ (.inl hlow)
      have hle : (N : ℝ) < 2 * (n + 1 : Nat) := by
        push_cast
        linarith
      have : N < 2 * (n + 1) := by exact_mod_cast hle
      split <;> omega
  · refine iff_of_true ?_ (.inl ?_)
    · have : 2 ^ (f.m + 2) ≤ 2 ^ (f.m + j) := Nat.pow_le_pow_right (by decide) (by omega)
      rw [show 2 ^ (f.m + 2) = 4 * 2 ^ f.m by ring] at this
      have := Nat.two_pow_pos f.m
      split <;> omega
    · obtain ⟨k, hk⟩ := Nat.exists_eq_add_of_le' hm
      rw [hk] at htop ⊢
      have hx : (0 : ℝ) ≤ x := (Nat.cast_nonneg n).trans hn
      have hfour : (4 : ℝ) ≤ 2 ^ j := by
        calc (4 : ℝ) = 2 ^ 2 := by norm_num
          _ ≤ 2 ^ j := pow_le_pow_right₀ one_le_two hj2
      have hpow : (2 : ℝ) ^ (k + 1 + 1) = 4 * 2 ^ k := by ring
      have hlt : (n : ℝ) < 2 ^ k := by nlinarith
      have hnk : n < 2 ^ k := by exact_mod_cast hlt
      rw [pow_succ]
      omega

/-- The model's rounding of a magnitude kept as m and a sticky bit delivers the rounding of the exact number (R86, R89). -/
theorem round_delivers {f : Fmt} (hf : f.Regular) {mode : Mode} {s sticky : Bool} {m : Nat} {e : Int} {X : ℝ} (hm : m ≠ 0)
    (hk : Kept m sticky X) (hbits : sticky = true → f.m + 2 ≤ bitLen m) :
    DeliversReal f mode s (X * 2 ^ (e - f.qmin)) (f.round mode s m e sticky) := by
  obtain ⟨q0, hq0⟩ : ∃ q0, q0 = (bitLen m : Int) + e - (f.m + 1) := ⟨_, rfl⟩
  obtain ⟨q, hq⟩ : ∃ q, q = if q0 < f.qmin then f.qmin else q0 := ⟨_, rfl⟩
  have hmin : f.qmin ≤ q ∧ q0 ≤ q := by rw [hq]; split <;> omega
  have hst : sticky = true → e < q0 := fun h => by have := hbits h; omega
  have hscale (p : Int) : X * 2 ^ (e - p) * 2 ^ (p - e) = X := by
    rw [mul_assoc, ← zpow_add₀ two_ne_zero]
    simp
  obtain ⟨n, up, nx, hr, hlo, hhi, hup, hnx⟩ := roundUnits_spec (mode := mode) (s := s) (X := X * 2 ^ (e - q)) (q := q) (e := e)
    ((hscale q).symm ▸ hk) fun h => (hst h).trans_le hmin.2
  have hd : X * 2 ^ (e - f.qmin) = X * 2 ^ (e - q) * 2 ^ (q - f.qmin).toNat := by
    rw [← zpow_natCast, Int.toNat_of_nonneg (by omega), mul_assoc, ← zpow_add₀ two_ne_zero]
    simp
  -- in units of 2^q0 the magnitude has f.m + 1 bits
  have hY : (2 : ℝ) ^ f.m ≤ X * 2 ^ (e - q0) ∧ X * 2 ^ (e - q0) < 2 ^ (f.m + 1) := by
    have hexp : e - q0 = (f.m + 1 : Int) - bitLen m := by omega
    have hlen : ((bitLen m - 1 : Nat) : Int) = bitLen m - 1 := by have := bitLen_pos hm; omega
    have hpos : (0 : ℝ) < 2 ^ (e - q0) := by positivity
    have hm' : ((2 ^ (bitLen m - 1) : Nat) : ℝ) ≤ m := by exact_mod_cast two_pow_bitLen_le hm
    have hm'' : (m : ℝ) + 1 ≤ (2 ^ bitLen m : Nat) := by exact_mod_cast lt_two_pow_bitLen m
    constructor
    · calc (2 : ℝ) ^ f.m = ((2 ^ (bitLen m - 1) : Nat) : ℝ) * 2 ^ (e - q0) := by
            rw [Nat.cast_pow, Nat.cast_ofNat, ← zpow_natCast, ← zpow_natCast, ← zpow_add₀ two_ne_zero, hlen, hexp]
            congr 1
            ring
        _ ≤ X * 2 ^ (e - q0) := mul_le_mul_of_nonneg_right (hm'.trans hk.1) hpos.le
    · calc X * 2 ^ (e - q0) < ((2 ^ bitLen m : Nat) : ℝ) * 2 ^ (e - q0) := mul_lt_mul_of_pos_right (hk.2.1.trans_le hm'') hpos
        _ = 2 ^ (f.m + 1) := by
            rw [Nat.cast_pow, Nat.cast_ofNat, ← zpow_natCast, ← zpow_natCast, ← zpow_add₀ two_ne_zero, hexp]
            congr 1
            push_cast
            ring
  rw [round_eq hf.infCode_pos hm hq0 hq hr, hd, ← Nat.add_assoc]
  by_cases hsub : q0 < f.qmin
  · have hqmin : q = f.qmin := by rw [hq, if_pos hsub]
    subst hqmin
    obtain ⟨j, hj⟩ : ∃ j : Nat, (j : Int) = f.qmin - q0 := ⟨_, Int.toNat_of_nonneg (by omega)⟩
    have hYx : X * 2 ^ (e - q0) = X * 2 ^ (e - f.qmin) * 2 ^ j := by
      rw [← zpow_natCast, hj, mul_assoc, ← zpow_add₀ two_ne_zero]
      simp
    obtain ⟨N, upN, nxN, hrN, hloN, hhiN, hupN, -⟩ := roundUnits_spec (mode := mode) (s := s) (X := X * 2 ^ (e - q0)) (q := q0) (e := e)
      ((hscale q0).symm ▸ hk) hst
    rw [hYx] at hloN hhiN hupN hY
    have hm1 : 1 ≤ f.m := by have := hf.frac; omega
    have hlt : n < 2 ^ (f.m + 1) := by
      have hone : (1 : ℝ) ≤ 2 ^ j := one_le_pow₀ one_le_two
      have : (n : ℝ) < 2 ^ (f.m + 1) := by
        have h0 : (0 : ℝ) ≤ n := Nat.cast_nonneg n
        nlinarith [hY.2]
      exact_mod_cast this
    refine delivers_counted hf (.inl (by simp)) hlt hlo hhi hup hnx fun _ => ?_
    have htop : (f.qmin + f.m - q0).toNat = f.m + j := by omega
    have := lt_unbounded_iff hm1 (show 1 ≤ j by omega) hlo hhi hloN hhiN hY.2 hupN
    simpa [hsub, hrN, htop] using this
  · have hqq : q = q0 := by rw [hq, if_neg hsub]
    subst hqq
    have hge : 2 ^ f.m ≤ n := by
      have : (2 : ℝ) ^ f.m < n + 1 := hY.1.trans_lt hhi
      exact Nat.lt_succ_iff.mp (by exact_mod_cast this)
    have hlt : n < 2 ^ (f.m + 1) := by
      have : (n : ℝ) < 2 ^ (f.m + 1) := hlo.trans_lt hY.2
      exact_mod_cast this
    refine delivers_counted hf (.inr hge) hlt hlo hhi hup hnx fun _ => iff_of_false (by simp [hsub]) ?_
    rintro (h | ⟨h, -⟩) <;> omega

/-! ## Ratios and roots -/

theorem deliversRatio_of_real {f : Fmt} {mode : Mode} {s : Bool} {p q : Nat} {r : Nat × Nat} (hq : 0 < q)
    (h : DeliversReal f mode s (p / q) r) : DeliversRatio f mode s p q r := by
  have hpos : (0 : ℝ) < q := by exact_mod_cast hq
  have hle : (fun n k : Nat => (n : ℝ) ≤ k * (p / q)) = fun n k => n * q ≤ k * p := by
    funext n k
    rw [← mul_div_assoc, le_div_iff₀ hpos]
    exact propext (by exact_mod_cast Iff.rfl)
  have hge : (fun n k : Nat => (k : ℝ) * (p / q) ≤ n) = fun n k => k * p ≤ n * q := by
    funext n k
    rw [← mul_div_assoc, div_le_iff₀ hpos]
    exact propext (by exact_mod_cast Iff.rfl)
  unfold DeliversReal at h
  rwa [hle, hge] at h

theorem deliversRoot_of_real {f : Fmt} {mode : Mode} {p q : Nat} {r : Nat × Nat} (hq : 0 < q)
    (h : DeliversReal f mode false √(p / q) r) : DeliversRoot f mode p q r := by
  have hpos : (0 : ℝ) < q := by exact_mod_cast hq
  have hy : (0 : ℝ) ≤ p / q := by positivity
  have hsq (k : Nat) : ((k : ℝ) * √(p / q)) ^ 2 = k * k * p / q := by
    rw [mul_pow, Real.sq_sqrt hy]
    ring
  have hle : (fun n k : Nat => (n : ℝ) ≤ k * √(p / q)) = fun n k => n * n * q ≤ k * k * p := by
    funext n k
    rw [← sq_le_sq₀ (by positivity) (by positivity), hsq, le_div_iff₀ hpos, sq]
    exact propext (by exact_mod_cast Iff.rfl)
  have hge : (fun n k : Nat => (k : ℝ) * √(p / q) ≤ n) = fun n k => k * k * p ≤ n * n * q := by
    funext n k
    rw [← sq_le_sq₀ (by positivity) (by positivity), hsq, div_le_iff₀ hpos, sq]
    exact propext (by exact_mod_cast Iff.rfl)
  unfold DeliversReal at h
  rwa [hle, hge] at h

theorem kept_exact (m : Nat) : Kept m false m := ⟨le_rfl, lt_add_one _, by simp⟩

theorem round_zero (f : Fmt) (mode : Mode) (s : Bool) (e : Int) : f.round mode s 0 e false = (f.withSign s 0, 0) := rfl

/-- The rounding of an exact dyadic magnitude that is p ÷ q units. -/
theorem round_deliversRatio {f : Fmt} (hf : f.Regular) {mode : Mode} {s : Bool} {m p q : Nat} {e : Int} (hm : m ≠ 0) (hq : 0 < q)
    (hx : (p : ℝ) / q = m * 2 ^ (e - f.qmin)) : DeliversRatio f mode s p q (f.round mode s m e false) := by
  refine deliversRatio_of_real hq ?_
  rw [hx]
  exact round_delivers hf hm (kept_exact m) (by simp)

/-! ## What a pattern stands for -/

section
variable {f : Fmt} (hf : f.Regular) (a : Nat)
include hf

theorem Fmt.Regular.signBit_eq : f.signBit = 2 ^ f.e * 2 ^ f.m := by
  rw [Fmt.signBit, hf.width, Nat.add_sub_cancel, pow_add]

theorem Fmt.Regular.mag_eq : f.mag a = a / 2 ^ f.m % 2 ^ f.e * 2 ^ f.m + a % 2 ^ f.m := by
  rw [Fmt.mag, hf.signBit_eq, Nat.mul_comm (2 ^ f.e), Nat.mod_mul]
  ring

theorem Fmt.Regular.finite_iff : f.Finite a ↔ a / 2 ^ f.m % 2 ^ f.e < 2 ^ f.e - 1 := by
  have hfr : a % 2 ^ f.m < 2 ^ f.m := Nat.mod_lt _ (Nat.two_pow_pos _)
  rw [Fmt.Finite, hf.mag_eq, Fmt.infCode]
  constructor
  · intro h
    exact Nat.lt_of_mul_lt_mul_right (Nat.lt_of_le_of_lt (Nat.le_add_right _ _) h)
  · intro h
    have := Nat.mul_le_mul_right (2 ^ f.m) (Nat.succ_le_of_lt h)
    rw [Nat.succ_mul] at this
    omega

/-- The exponent field of a pattern that is not finite is all ones, and its fraction is what is above the code of infinity. -/
theorem Fmt.Regular.mag_of_not_finite (h : ¬ f.Finite a) : a / 2 ^ f.m % 2 ^ f.e = 2 ^ f.e - 1 ∧ f.mag a = f.infCode + a % 2 ^ f.m := by
  have hex : a / 2 ^ f.m % 2 ^ f.e < 2 ^ f.e := Nat.mod_lt _ (Nat.two_pow_pos _)
  rw [hf.finite_iff] at h
  have hones : a / 2 ^ f.m % 2 ^ f.e = 2 ^ f.e - 1 := by omega
  exact ⟨hones, by rw [hf.mag_eq, hones, Fmt.infCode]⟩

theorem Fmt.Regular.unpack_inf (h : f.IsInf a) : f.unpack a = .inf (f.sgn a) := by
  obtain ⟨hex, hmag⟩ := hf.mag_of_not_finite a (Nat.not_lt.mpr h.ge)
  have hfr : a % 2 ^ f.m = 0 := by
    have : f.mag a = f.infCode := h
    omega
  unfold Fmt.unpack
  simp only [hex, hfr, if_true]

theorem Fmt.Regular.unpack_nan (h : f.IsNan a) : f.unpack a = .nan (f.sgn a) (decide (f.Signals a)) (a % 2 ^ f.m) := by
  obtain ⟨hex, hmag⟩ := hf.mag_of_not_finite a (Nat.not_lt.mpr (Nat.le_of_lt h))
  have hfr : a % 2 ^ f.m ≠ 0 := by
    have : f.infCode < f.mag a := h
    omega
  have hbit : a % 2 ^ f.m / 2 ^ (f.m - 1) = a / 2 ^ (f.m - 1) % 2 := by
    obtain ⟨k, hk⟩ := Nat.exists_eq_add_of_le' (show 1 ≤ f.m by have := hf.frac; omega)
    rw [hk, Nat.add_sub_cancel, pow_succ, Nat.mod_mul_right_div_self]
  have hsig : f.Signals a ↔ a / 2 ^ (f.m - 1) % 2 = 0 := by
    rw [Fmt.Signals, Nat.testBit_eq_decide_div_mod_eq, decide_eq_false_iff_not]
    simp only [h, true_and]
    omega
  unfold Fmt.unpack
  simp only [hex, hfr, if_true, if_false, hbit, hsig]
  rfl

/-- A finite pattern stands for its sign and its units, as a number of at most f.m + 1 bits and an exponent. -/
theorem Fmt.Regular.unpack_finite (h : f.Finite a) : ∃ (m : Nat) (e : Int), f.unpack a = .fin (f.sgn a) m e ∧ f.qmin ≤ e ∧
    f.units (f.mag a) = m * 2 ^ (e - f.qmin).toNat := by
  rw [hf.finite_iff] at h
  have hfr : a % 2 ^ f.m < 2 ^ f.m := Nat.mod_lt _ (Nat.two_pow_pos _)
  have hsucc : 2 ^ (f.m + 1) = 2 ^ f.m + 2 ^ f.m := by rw [pow_succ]; omega
  unfold Fmt.unpack
  dsimp only
  rw [hf.mag_eq]
  cases hex : a / 2 ^ f.m % 2 ^ f.e with
  | zero =>
    rw [hex] at h
    refine ⟨a % 2 ^ f.m, f.qmin, by rw [if_neg (by omega), if_pos rfl], le_rfl, ?_⟩
    rw [f.units_of (.inl rfl) (by omega)]
    simp
  | succ d =>
    rw [hex] at h
    refine ⟨2 ^ f.m + a % 2 ^ f.m, f.qmin + ((d + 1 : Nat) - 1 : Int), by rw [if_neg (by omega), if_neg (by omega)], by omega, ?_⟩
    rw [Nat.succ_mul, Nat.add_assoc, f.units_of (.inr (Nat.le_add_right _ _)) (by omega)]
    congr 2
    omega

end

end Sys2Proof.Fl
end

section
/-! Floats: the operations on finite values, on zeros, infinities and NaN, and the conversions (O24). -/

namespace Sys2Proof.Fl

/-! ## Sums and products of finite values -/

theorem cast_two_pow_toNat {k : Int} (h : 0 ≤ k) : ((2 ^ k.toNat : Nat) : ℝ) = 2 ^ k := by
  rw [Nat.cast_pow, Nat.cast_ofNat, ← zpow_natCast, Int.toNat_of_nonneg h]

theorem sInt_shift (s : Bool) (m : Nat) {e q p : Int} (hq : p ≤ q) (he : q ≤ e) : sInt s m e p = sInt s m e q * 2 ^ (q - p).toNat := by
  have hexp : (e - p).toNat = (e - q).toNat + (q - p).toNat := by omega
  unfold sInt
  rw [hexp, pow_add]
  cases s
  · simp only [Bool.false_eq_true, if_false]
    ring
  · simp only [if_true]
    ring

theorem sInt_not (s : Bool) (m : Nat) (e q : Int) : sInt (!s) m e q = -sInt s m e q := by
  cases s
  · rfl
  · exact (neg_neg _).symm

/-- The exact sum of two dyadic values in units of 2^q delivers its rounding, or the zero of R89. -/
theorem addFin_delivers {f : Fmt} (hf : f.Regular) (mode : Mode) {s1 s2 : Bool} {m1 m2 : Nat} {e1 e2 q : Int} (h1 : q ≤ e1) (h2 : q ≤ e2)
    (hq : q ≤ f.qmin) {t : Int} (ht : t = sInt s1 m1 e1 q + sInt s2 m2 e2 q) :
    (t ≠ 0 → DeliversRatio f mode (decide (t < 0)) t.natAbs (2 ^ (f.qmin - q).toNat) (f.addFin mode s1 m1 e1 s2 m2 e2)) ∧
      (t = 0 → f.addFin mode s1 m1 e1 s2 m2 e2 = (f.withSign (if s1 = s2 then s1 else mode == .rm) 0, 0)) := by
  obtain ⟨p, hp⟩ : ∃ p, p = if e1 < e2 then e1 else e2 := ⟨_, rfl⟩
  have hqp : q ≤ p := by rw [hp]; split <;> assumption
  obtain ⟨u, hu⟩ : ∃ u, u = sInt s1 m1 e1 p + sInt s2 m2 e2 p := ⟨_, rfl⟩
  have htu : t = u * 2 ^ (p - q).toNat := by
    rw [ht, hu, add_mul, ← sInt_shift s1 m1 hqp (by rw [hp]; split <;> omega), ← sInt_shift s2 m2 hqp (by rw [hp]; split <;> omega)]
  have hpos : (0 : Int) < 2 ^ (p - q).toNat := by positivity
  have hzero : t = 0 ↔ u = 0 := by rw [htu, mul_eq_zero, or_iff_left hpos.ne']
  have hneg : t < 0 ↔ u < 0 := by
    have : u * 2 ^ (p - q).toNat < 0 * 2 ^ (p - q).toNat ↔ u < 0 := mul_lt_mul_iff_left₀ hpos
    rwa [zero_mul, ← htu] at this
  have habs : t.natAbs = u.natAbs * 2 ^ (p - q).toNat := by rw [htu, Int.natAbs_mul, Int.natAbs_pow]; rfl
  have hdef : f.addFin mode s1 m1 e1 s2 m2 e2 = if u = 0 then (f.withSign (if s1 = s2 then s1 else mode == .rm) 0, 0)
      else f.round mode (decide (u < 0)) u.natAbs p false := by
    rw [hu, hp]
    rfl
  rw [hdef]
  refine ⟨fun h => ?_, fun h => if_pos (hzero.mp h)⟩
  rw [if_neg (mt hzero.mpr h), decide_eq_decide.mpr hneg]
  refine round_deliversRatio hf (Int.natAbs_ne_zero.mpr (mt hzero.mpr h)) (Nat.two_pow_pos _) ?_
  rw [habs, Nat.cast_mul, cast_two_pow_toNat (by omega), cast_two_pow_toNat (by omega), mul_div_assoc, ← zpow_sub₀ two_ne_zero]
  congr 2
  ring

section
variable {f : Fmt} (hf : f.Regular)

theorem natAbs_value (f : Fmt) (a : Nat) : (f.value a).natAbs = f.units (f.mag a) := by
  unfold Fmt.value
  split <;> simp

include hf

theorem Fmt.Regular.qmin_neg : f.qmin < 0 := by
  have hpow : (2 : Int) ^ 1 ≤ 2 ^ (f.e - 1) := pow_le_pow_right₀ (by decide) (by have := hf.expo; omega)
  have := hf.frac
  rw [Fmt.qmin, hf.mid]
  omega

/-- A finite pattern's sign, number and exponent, with its value in the units of `Fmt.value`. -/
theorem Fmt.Regular.unpack_value {a : Nat} (h : f.Finite a) : ∃ (m : Nat) (e : Int), f.unpack a = .fin (f.sgn a) m e ∧ f.qmin ≤ e ∧
    f.value a = sInt (f.sgn a) m e f.qmin ∧ ((f.value a).natAbs : ℝ) = m * 2 ^ (e - f.qmin) ∧ (f.value a = 0 ↔ m = 0) := by
  obtain ⟨m, e, hun, hle, hunits⟩ := hf.unpack_finite a h
  have hval : f.value a = sInt (f.sgn a) m e f.qmin := by
    rw [Fmt.value, sInt, hunits]
    push_cast
    rfl
  refine ⟨m, e, hun, hle, hval, ?_, ?_⟩
  · rw [natAbs_value, hunits, Nat.cast_mul, cast_two_pow_toNat (by omega)]
  · rw [← Int.natAbs_eq_zero, natAbs_value, hunits, Nat.mul_eq_zero, or_iff_left (Nat.two_pow_pos _).ne']

/-- The sum of two finite values (R89, R140). -/
theorem add_finite (mode : Mode) {a b : Nat} (ha : f.Finite a) (hb : f.Finite b) :
    (f.value a + f.value b ≠ 0 →
      DeliversRatio f mode (decide (f.value a + f.value b < 0)) (f.value a + f.value b).natAbs 1 (f.add mode a b)) ∧
    (f.value a + f.value b = 0 → f.add mode a b = (f.withSign (if f.sgn a = f.sgn b then f.sgn a else mode == .rm) 0, 0)) := by
  obtain ⟨m, e, hua, hea, hva, -, -⟩ := hf.unpack_value ha
  obtain ⟨n, g, hub, hgb, hvb, -, -⟩ := hf.unpack_value hb
  have := addFin_delivers hf mode hea hgb le_rfl (congrArg₂ (· + ·) hva hvb)
  simpa [Fmt.add, hua, hub, Fmt.addV, Fmt.nanOf, Fmt.firstNan] using this

/-- The difference of two finite values (R89, R140). -/
theorem sub_finite (mode : Mode) {a b : Nat} (ha : f.Finite a) (hb : f.Finite b) :
    (f.value a - f.value b ≠ 0 →
      DeliversRatio f mode (decide (f.value a - f.value b < 0)) (f.value a - f.value b).natAbs 1 (f.sub mode a b)) ∧
    (f.value a - f.value b = 0 → f.sub mode a b = (f.withSign (if f.sgn a = f.sgn b then mode == .rm else f.sgn a) 0, 0)) := by
  obtain ⟨m, e, hua, hea, hva, -, -⟩ := hf.unpack_value ha
  obtain ⟨n, g, hub, hgb, hvb, -, -⟩ := hf.unpack_value hb
  have ht : f.value a - f.value b = sInt (f.sgn a) m e f.qmin + sInt (!f.sgn b) n g f.qmin := by
    rw [hva, hvb, sInt_not, sub_eq_add_neg]
  have hzero : (if f.sgn a = !f.sgn b then f.sgn a else mode == .rm) = if f.sgn a = f.sgn b then mode == .rm else f.sgn a := by
    cases f.sgn a <;> cases f.sgn b <;> rfl
  have := addFin_delivers hf mode hea hgb le_rfl ht
  rw [hzero] at this
  simpa [Fmt.sub, hua, hub, negV, Fmt.addV, Fmt.nanOf, Fmt.firstNan] using this

/-- The product of two finite values (R89, R140). -/
theorem mul_finite (mode : Mode) {a b : Nat} (ha : f.Finite a) (hb : f.Finite b) :
    (f.value a * f.value b ≠ 0 →
      DeliversRatio f mode (f.sgn a != f.sgn b) (f.value a * f.value b).natAbs (2 ^ (-f.qmin).toNat) (f.mul mode a b)) ∧
    (f.value a * f.value b = 0 → f.mul mode a b = (f.withSign (f.sgn a != f.sgn b) 0, 0)) := by
  obtain ⟨m, e, hua, -, -, hra, hza⟩ := hf.unpack_value ha
  obtain ⟨n, g, hub, -, -, hrb, hzb⟩ := hf.unpack_value hb
  have hdef : f.mul mode a b = f.round mode (f.sgn a != f.sgn b) (m * n) (e + g) false := by
    simp [Fmt.mul, hua, hub, Fmt.nanOf, Fmt.firstNan, valSign]
  rw [hdef, mul_eq_zero, hza, hzb, ← Nat.mul_eq_zero]
  constructor
  · intro h
    refine round_deliversRatio hf (fun hz => h ?_) (Nat.two_pow_pos _) ?_
    · rw [mul_eq_zero, hza, hzb, ← Nat.mul_eq_zero, hz]
    · rw [Int.natAbs_mul, Nat.cast_mul, hra, hrb, cast_two_pow_toNat (by have := hf.qmin_neg; omega), Nat.cast_mul,
        show e + g - f.qmin = (e - f.qmin) + (g - f.qmin) - -f.qmin by ring, zpow_sub₀ two_ne_zero (_ + _), zpow_add₀ two_ne_zero]
      ring
  · intro h
    rw [h]
    rfl

/-- The fused product and sum of three finite values (R89, R140). -/
theorem fma_finite (mode : Mode) {a b c : Nat} (ha : f.Finite a) (hb : f.Finite b) (hc : f.Finite c) {t : Int}
    (ht : t = f.value a * f.value b + f.value c * (2 ^ (-f.qmin).toNat : Nat)) :
    (t ≠ 0 → DeliversRatio f mode (decide (t < 0)) t.natAbs (2 ^ (-f.qmin).toNat) (f.fma mode a b c)) ∧
    (t = 0 → f.fma mode a b c =
      (f.withSign (if (f.sgn a != f.sgn b) = f.sgn c then f.sgn a != f.sgn b else mode == .rm) 0, 0)) := by
  obtain ⟨m, e, hua, hea, hva, -, -⟩ := hf.unpack_value ha
  obtain ⟨n, g, hub, hgb, hvb, -, -⟩ := hf.unpack_value hb
  obtain ⟨k, h, huc, hhc, hvc, -, -⟩ := hf.unpack_value hc
  have hneg := hf.qmin_neg
  have hprod : f.value a * f.value b = sInt (f.sgn a != f.sgn b) (m * n) (e + g) (2 * f.qmin) := by
    have hexp : (e + g - 2 * f.qmin).toNat = (e - f.qmin).toNat + (g - f.qmin).toNat := by omega
    rw [hva, hvb, sInt, sInt, sInt, hexp, pow_add, Nat.cast_mul]
    cases f.sgn a <;> cases f.sgn b <;> simp <;> ring
  have hsum : f.value c * (2 ^ (-f.qmin).toNat : Nat) = sInt (f.sgn c) k h (2 * f.qmin) := by
    rw [hvc, sInt_shift (f.sgn c) k (show 2 * f.qmin ≤ f.qmin by omega) hhc, show f.qmin - 2 * f.qmin = -f.qmin by ring]
    push_cast
    rfl
  have := addFin_delivers hf mode (s1 := f.sgn a != f.sgn b) (m1 := m * n) (show 2 * f.qmin ≤ e + g by omega)
    (show 2 * f.qmin ≤ h by omega) (by omega) (ht.trans (congrArg₂ (· + ·) hprod hsum))
  rw [show f.qmin - 2 * f.qmin = -f.qmin by ring] at this
  simpa only [Fmt.fma, hua, hub, huc, Fmt.nanOf, Fmt.firstNan, valSign] using this

end

/-! ## Quotients and roots of finite values -/

theorem lt_bitLen {n k : Nat} (h : 2 ^ k ≤ n) : k < bitLen n := by
  have hn : n ≠ 0 := by have := Nat.two_pow_pos k; omega
  rw [bitLen, if_neg hn]
  exact Nat.lt_succ_of_le ((Nat.le_log2 hn).mpr h)

theorem kept_div (n : Nat) {d : Nat} (hd : 0 < d) : Kept (n / d) (n % d != 0) ((n : ℝ) / d) := by
  have hpos : (0 : ℝ) < d := by exact_mod_cast hd
  have hdiv : (n : ℝ) = d * (n / d : Nat) + (n % d : Nat) := by exact_mod_cast (Nat.div_add_mod n d).symm
  have hmod : ((n % d : Nat) : ℝ) < d := by exact_mod_cast Nat.mod_lt n hd
  have h0 : (0 : ℝ) ≤ (n % d : Nat) := Nat.cast_nonneg _
  refine ⟨?_, ?_, ?_⟩
  · rw [le_div_iff₀ hpos]
    linarith
  · rw [div_lt_iff₀ hpos]
    linarith
  · rw [bne_iff_ne, ne_eq, ne_eq, eq_div_iff hpos.ne', not_iff_not]
    constructor
    · intro h
      rw [h, Nat.cast_zero] at hdiv
      linarith
    · intro h
      have : ((n % d : Nat) : ℝ) = 0 := by linarith
      exact_mod_cast this

/-- The quotient as the model keeps it, of p bits at least. -/
theorem divMag_spec {p m1 m2 : Nat} (e1 e2 : Int) (h1 : m1 ≠ 0) (h2 : m2 ≠ 0) (hp : 1 ≤ p) : ∃ (n : Nat) (e : Int) (st : Bool) (X : ℝ),
    divMag p m1 e1 m2 e2 = (n, e, st) ∧ Kept n st X ∧ n ≠ 0 ∧ p ≤ bitLen n ∧ X * 2 ^ e = m1 / m2 * 2 ^ (e1 - e2) := by
  obtain ⟨k, hk⟩ : ∃ k, k = p + bitLen m2 - bitLen m1 := ⟨_, rfl⟩
  have hpos : 0 < m2 := Nat.pos_of_ne_zero h2
  have hlen : bitLen m1 - 1 + k ≥ p - 1 + bitLen m2 := by have := bitLen_pos h1; omega
  have hle : 2 ^ (p - 1) ≤ m1 * 2 ^ k / m2 := by
    rw [Nat.le_div_iff_mul_le hpos]
    calc 2 ^ (p - 1) * m2 ≤ 2 ^ (p - 1) * 2 ^ bitLen m2 := Nat.mul_le_mul_left _ (lt_two_pow_bitLen m2).le
      _ = 2 ^ (p - 1 + bitLen m2) := (pow_add ..).symm
      _ ≤ 2 ^ (bitLen m1 - 1 + k) := Nat.pow_le_pow_right (by decide) hlen
      _ = 2 ^ (bitLen m1 - 1) * 2 ^ k := pow_add ..
      _ ≤ m1 * 2 ^ k := Nat.mul_le_mul_right _ (two_pow_bitLen_le h1)
  refine ⟨_, _, _, _, by rw [divMag, ← hk], kept_div (m1 * 2 ^ k) hpos, ?_, ?_, ?_⟩
  · have := Nat.two_pow_pos (p - 1)
    omega
  · have := lt_bitLen hle
    omega
  · rw [Nat.cast_mul, Nat.cast_pow, Nat.cast_ofNat, ← zpow_natCast, mul_div_right_comm, mul_assoc, ← zpow_add₀ two_ne_zero]
    congr 2
    ring

theorem isqrtAux_spec (k r n : Nat) (hlo : r * r ≤ n) (hhi : n < (r + 2 ^ k) * (r + 2 ^ k)) :
    isqrtAux k r n * isqrtAux k r n ≤ n ∧ n < (isqrtAux k r n + 1) * (isqrtAux k r n + 1) := by
  induction k generalizing r with
  | zero => exact ⟨hlo, hhi⟩
  | succ k ih =>
    rw [isqrtAux]
    by_cases h : (r + 2 ^ k) * (r + 2 ^ k) ≤ n
    · rw [if_pos h]
      exact ih _ h (by rwa [Nat.add_assoc, ← Nat.two_mul, ← Nat.pow_succ'])
    · rw [if_neg h]
      exact ih _ hlo (Nat.not_le.mp h)

theorem isqrt_spec (n : Nat) : isqrt n * isqrt n ≤ n ∧ n < (isqrt n + 1) * (isqrt n + 1) := by
  refine isqrtAux_spec _ 0 n (Nat.zero_le n) ?_
  rw [Nat.zero_add, ← pow_add]
  exact (lt_two_pow_bitLen n).trans_le (Nat.pow_le_pow_right (by decide) (by omega))

/-- The integer part of a root, of a number whose integer part is n. -/
theorem kept_isqrt {n : Nat} {sticky : Bool} {y : ℝ} (hlo : (n : ℝ) ≤ y) (hhi : y < n + 1)
    (hs : sticky = true ↔ (isqrt n * isqrt n : ℝ) ≠ y) : Kept (isqrt n) sticky √y := by
  obtain ⟨hle, hlt⟩ := isqrt_spec n
  have hle' : (isqrt n * isqrt n : ℝ) ≤ n := by exact_mod_cast hle
  have hlt' : (n : ℝ) + 1 ≤ (isqrt n + 1) * (isqrt n + 1) := by exact_mod_cast hlt
  have hy : 0 ≤ y := (Nat.cast_nonneg n).trans hlo
  refine ⟨?_, ?_, hs.trans (not_congr ?_)⟩
  · exact Real.le_sqrt_of_sq_le (by rw [sq]; exact hle'.trans hlo)
  · rw [Real.sqrt_lt' (by positivity), sq]
    exact hhi.trans_le hlt'
  · rw [eq_comm (b := √y), Real.sqrt_eq_iff_mul_self_eq hy (Nat.cast_nonneg _), eq_comm]

theorem le_isqrt {n k : Nat} (h : k * k ≤ n) : k ≤ isqrt n := by
  by_contra hlt
  have hk : isqrt n + 1 ≤ k := Nat.not_le.mp hlt
  have := Nat.mul_le_mul hk hk
  have := (isqrt_spec n).2
  omega

/-- An even power of two under the root. -/
theorem sqrt_mul_zpow_even {y : ℝ} {a h : Int} (hy : 0 ≤ y) (ha : a = h + h) : √(y * 2 ^ a) = √y * 2 ^ h := by
  rw [Real.sqrt_mul hy, ha, zpow_add₀ two_ne_zero, Real.sqrt_mul_self (by positivity)]

section
variable {f : Fmt} (hf : f.Regular)
include hf

/-- The quotient of two finite values (R89, R143). -/
theorem div_finite (mode : Mode) {a b : Nat} (ha : f.Finite a) (hb : f.Finite b) :
    (f.value a ≠ 0 → f.value b ≠ 0 → DeliversRatio f mode (f.sgn a != f.sgn b) ((f.value a).natAbs * 2 ^ (-f.qmin).toNat)
      (f.value b).natAbs (f.div mode a b)) ∧
    (f.value a = 0 → f.value b ≠ 0 → f.div mode a b = (f.withSign (f.sgn a != f.sgn b) 0, 0)) ∧
    (f.value a ≠ 0 → f.value b = 0 → f.div mode a b = (f.withSign (f.sgn a != f.sgn b) f.infCode, fDivZero)) ∧
    (f.value a = 0 → f.value b = 0 → f.div mode a b = (f.defNan, fInvalid)) := by
  obtain ⟨m, e, hua, -, -, hra, hza⟩ := hf.unpack_value ha
  obtain ⟨n, g, hub, -, -, hrb, hzb⟩ := hf.unpack_value hb
  have hneg := hf.qmin_neg
  rw [ne_eq, ne_eq, hza, hzb]
  refine ⟨fun hm hn => ?_, fun hm hn => ?_, fun hm hn => ?_, fun hm hn => ?_⟩
  · obtain ⟨r, h, st, X, hdiv, hk, hr, hlen, hX⟩ := divMag_spec e g hm hn (show 1 ≤ f.m + 5 by omega)
    have hdef : f.div mode a b = f.round mode (f.sgn a != f.sgn b) r h st := by
      simp [Fmt.div, hua, hub, Fmt.nanOf, Fmt.firstNan, valSign, hm, hn, hdiv]
    have hpos : 0 < (f.value b).natAbs := Int.natAbs_pos.mpr (mt hzb.mp hn)
    have hx : (((f.value a).natAbs * 2 ^ (-f.qmin).toNat : Nat) : ℝ) / (f.value b).natAbs = X * 2 ^ (h - f.qmin) := by
      rw [Nat.cast_mul, hra, hrb, cast_two_pow_toNat (by omega), sub_eq_add_neg h, zpow_add₀ two_ne_zero, ← mul_assoc, hX, mul_assoc,
        ← zpow_add₀ two_ne_zero, mul_div_mul_comm, ← zpow_sub₀ two_ne_zero, mul_assoc, ← zpow_add₀ two_ne_zero]
      congr 2
      ring
    refine deliversRatio_of_real hpos ?_
    rw [hdef, hx]
    exact round_delivers hf hr hk fun _ => by omega
  all_goals simp [Fmt.div, hua, hub, Fmt.nanOf, Fmt.firstNan, valSign, hm, hn]

/-- The pattern of 1. -/
theorem Fmt.Regular.one_facts : f.mag (f.bias.toNat * 2 ^ f.m) = f.bias.toNat * 2 ^ f.m ∧ f.sgn (f.bias.toNat * 2 ^ f.m) = false ∧
    f.Finite (f.bias.toNat * 2 ^ f.m) ∧ f.value (f.bias.toNat * 2 ^ f.m) = (2 ^ (-f.qmin).toNat : Nat) := by
  obtain ⟨k, hk⟩ := Nat.exists_eq_add_of_le' hf.expo
  have hmid : f.bias = 2 ^ (k + 1) - 1 := by rw [hf.mid, hk]; rfl
  have hpow : 1 ≤ 2 ^ k := Nat.one_le_two_pow
  have hbias : f.bias.toNat = 2 ^ (k + 1) - 1 := by
    have : f.bias = ((2 ^ (k + 1) - 1 : Nat) : Int) := by rw [hmid]; push_cast [Nat.one_le_two_pow]; rfl
    rw [this, Int.toNat_natCast]
  have he : 2 ^ f.e = 2 * 2 ^ (k + 1) := by rw [hk]; ring
  have hlt : f.bias.toNat < 2 ^ f.e := by omega
  have hsmall : f.bias.toNat * 2 ^ f.m < f.signBit := by
    rw [hf.signBit_eq]
    exact Nat.mul_lt_mul_of_pos_right hlt (Nat.two_pow_pos _)
  have hmag : f.mag (f.bias.toNat * 2 ^ f.m) = f.bias.toNat * 2 ^ f.m := Nat.mod_eq_of_lt hsmall
  have hsgn : f.sgn (f.bias.toNat * 2 ^ f.m) = false := by rw [Fmt.sgn, Nat.div_eq_of_lt hsmall]; rfl
  refine ⟨hmag, hsgn, ?_, ?_⟩
  · rw [Fmt.Finite, hmag, Fmt.infCode]
    exact Nat.mul_lt_mul_of_pos_right (by omega) (Nat.two_pow_pos _)
  · obtain ⟨d, hd⟩ := Nat.exists_eq_add_of_le' (show 1 ≤ f.bias.toNat by rw [hbias, pow_succ]; omega)
    have hq : (-f.qmin).toNat = f.m + d := by rw [Fmt.qmin]; omega
    rw [Fmt.value, hsgn, hmag, hd, Nat.succ_mul, f.units_of (.inr le_rfl) (Nat.pow_le_pow_right (by decide) (by omega)), hq, pow_add]
    rfl

/-- The reciprocal of a finite value (R89, R143). -/
theorem rcp_finite (mode : Mode) {a : Nat} (ha : f.Finite a) :
    (f.value a ≠ 0 → DeliversRatio f mode (f.sgn a) (2 ^ (-f.qmin).toNat * 2 ^ (-f.qmin).toNat) (f.value a).natAbs (f.rcp mode a)) ∧
    (f.value a = 0 → f.rcp mode a = (f.withSign (f.sgn a) f.infCode, fDivZero)) := by
  obtain ⟨-, hsgn, hfin, hval⟩ := hf.one_facts
  have hone : f.value (f.bias.toNat * 2 ^ f.m) ≠ 0 := by
    rw [hval]
    exact_mod_cast (Nat.two_pow_pos _).ne'
  obtain ⟨hdel, -, hinf, -⟩ := div_finite hf mode hfin ha
  rw [hsgn, Bool.false_bne] at hdel hinf
  rw [hval, Int.natAbs_natCast] at hdel
  exact ⟨hdel (hval ▸ hone), hinf hone⟩

/-- The square root of a positive finite value (R143). -/
theorem sqrt_finite (mode : Mode) {a : Nat} (ha : f.Finite a) (hs : f.sgn a = false) (h0 : f.value a ≠ 0) :
    DeliversRoot f mode ((f.value a).natAbs * 2 ^ (-f.qmin).toNat) 1 (f.sqrt mode a) := by
  obtain ⟨m, e, hua, -, -, hra, hza⟩ := hf.unpack_value ha
  have hm := mt hza.mpr h0
  have hneg := hf.qmin_neg
  obtain ⟨k, hk⟩ : ∃ k, k = 2 * (f.m + 4) + (if e % 2 = 0 then 0 else 1) := ⟨_, rfl⟩
  have heven : e - k = (e - k) / 2 + (e - k) / 2 := by rw [hk]; split <;> omega
  obtain ⟨n, hn⟩ : ∃ n, n = m * 2 ^ k := ⟨_, rfl⟩
  have hdef : f.sqrt mode a = f.round mode false (isqrt n) ((e - k) / 2) (isqrt n * isqrt n != n) := by
    rw [hn, hk]
    simp [Fmt.sqrt, hua, Fmt.nanOf, Fmt.firstNan, hm, hs]
  have hbig : 2 ^ (f.m + 4) ≤ isqrt n := by
    refine le_isqrt ?_
    calc 2 ^ (f.m + 4) * 2 ^ (f.m + 4) = 2 ^ (2 * (f.m + 4)) := by rw [← pow_add]; congr 1; ring
      _ ≤ 2 ^ k := Nat.pow_le_pow_right (by decide) (by rw [hk]; exact Nat.le_add_right _ _)
      _ ≤ n := by rw [hn]; exact Nat.le_mul_of_pos_left _ (Nat.pos_of_ne_zero hm)
  have hx : √((((f.value a).natAbs * 2 ^ (-f.qmin).toNat : Nat) : ℝ) / (1 : Nat)) = √n * 2 ^ ((e - k) / 2 - f.qmin) := by
    rw [← sqrt_mul_zpow_even (Nat.cast_nonneg n) (a := e - k - 2 * f.qmin) (by omega), Nat.cast_mul, hra, cast_two_pow_toNat (by omega),
      Nat.cast_one, div_one, hn, Nat.cast_mul, Nat.cast_pow, Nat.cast_ofNat, ← zpow_natCast (2 : ℝ) k, mul_assoc, mul_assoc,
      ← zpow_add₀ two_ne_zero, ← zpow_add₀ two_ne_zero]
    congr 3
    ring
  refine deliversRoot_of_real Nat.one_pos ?_
  rw [hdef, hx]
  refine round_delivers hf (by have := Nat.two_pow_pos (f.m + 4); omega) (kept_isqrt le_rfl (lt_add_one _) ?_)
    fun _ => by have := lt_bitLen hbig; omega
  rw [bne_iff_ne, ne_eq, ne_eq, not_iff_not]
  exact_mod_cast Iff.rfl

/-- The reciprocal square root of a positive finite value (R143). -/
theorem rsq_finite (mode : Mode) {a : Nat} (ha : f.Finite a) (hs : f.sgn a = false) (h0 : f.value a ≠ 0) :
    DeliversRoot f mode (2 ^ (-f.qmin).toNat * 2 ^ (-f.qmin).toNat * 2 ^ (-f.qmin).toNat) (f.value a).natAbs (f.rsq mode a) := by
  obtain ⟨m, e, hua, -, -, hra, hza⟩ := hf.unpack_value ha
  have hm := mt hza.mpr h0
  have hneg := hf.qmin_neg
  obtain ⟨j0, hj0⟩ : ∃ j0, j0 = 2 * (f.m + 5) + bitLen m := ⟨_, rfl⟩
  obtain ⟨j, hj⟩ : ∃ j, j = if (e + j0) % 2 = 0 then j0 else j0 + 1 := ⟨_, rfl⟩
  have heven : e + j = (e + j) / 2 + (e + j) / 2 := by rw [hj]; split <;> omega
  have hle : j0 ≤ j := by rw [hj]; split <;> omega
  obtain ⟨n, hn⟩ : ∃ n, n = 2 ^ j / m := ⟨_, rfl⟩
  have hdef : f.rsq mode a = f.round mode false (isqrt n) (-((e + j) / 2)) (isqrt n * isqrt n * m != 2 ^ j) := by
    rw [hn, hj, hj0]
    simp [Fmt.rsq, hua, Fmt.nanOf, Fmt.firstNan, hm, hs]
  have hmpos : 0 < m := Nat.pos_of_ne_zero hm
  have hbig : 2 ^ (f.m + 5) ≤ isqrt n := by
    refine le_isqrt ?_
    rw [hn, Nat.le_div_iff_mul_le hmpos]
    calc 2 ^ (f.m + 5) * 2 ^ (f.m + 5) * m ≤ 2 ^ (f.m + 5) * 2 ^ (f.m + 5) * 2 ^ bitLen m :=
          Nat.mul_le_mul_left _ (lt_two_pow_bitLen m).le
      _ = 2 ^ j0 := by rw [hj0, ← pow_add, ← pow_add]; congr 1; ring
      _ ≤ 2 ^ j := Nat.pow_le_pow_right (by decide) hle
  have hmR : (0 : ℝ) < m := by exact_mod_cast hmpos
  obtain ⟨hlo, hhi, -⟩ := kept_div (2 ^ j) hmpos
  rw [← hn] at hlo hhi
  have hx : √(((2 ^ (-f.qmin).toNat * 2 ^ (-f.qmin).toNat * 2 ^ (-f.qmin).toNat : Nat) : ℝ) / (f.value a).natAbs) =
      √((2 ^ j : Nat) / m) * 2 ^ (-((e + j) / 2) - f.qmin) := by
    rw [← sqrt_mul_zpow_even (by positivity) (a := -(e + j) - 2 * f.qmin) (by omega), Nat.cast_mul, Nat.cast_mul, hra,
      cast_two_pow_toNat (by omega), Nat.cast_pow, Nat.cast_ofNat, ← zpow_natCast (2 : ℝ) j, ← zpow_add₀ two_ne_zero,
      ← zpow_add₀ two_ne_zero, mul_comm (m : ℝ), ← div_div, ← zpow_sub₀ two_ne_zero, div_mul_eq_mul_div, ← zpow_add₀ two_ne_zero]
    congr 3
    ring
  have hpos : 0 < (f.value a).natAbs := Int.natAbs_pos.mpr h0
  refine deliversRoot_of_real hpos ?_
  rw [hdef, hx]
  refine round_delivers hf (by have := Nat.two_pow_pos (f.m + 5); omega) (kept_isqrt hlo hhi ?_)
    fun _ => by have := lt_bitLen hbig; omega
  rw [bne_iff_ne, ne_eq, ne_eq, not_iff_not, eq_div_iff hmR.ne']
  exact_mod_cast Iff.rfl

end

/-! ## Zeros, infinities and NaN -/

theorem isZero_fin (s : Bool) (m : Nat) (e : Int) : isZero (.fin s m e) = decide (m = 0) := by
  cases m <;> rfl

theorem firstNan_negV (f : Fmt) (v : Val) (l : List Val) : f.firstNan (negV v :: l) = f.firstNan (v :: l) := by
  cases v <;> rfl

theorem isSnan_negV (v : Val) : isSnan (negV v) = isSnan v := by
  cases v <;> rfl

theorem nanOf_negV (f : Fmt) (v w : Val) : f.nanOf [v, negV w] = f.nanOf [v, w] := by
  have hfirst : f.firstNan [v, negV w] = f.firstNan [v, w] := by
    cases v with
    | nan => rfl
    | inf => exact firstNan_negV f w []
    | fin => exact firstNan_negV f w []
  have hany : [v, negV w].any isSnan = [v, w].any isSnan := by simp only [List.any_cons, isSnan_negV]
  unfold Fmt.nanOf
  rw [hfirst, hany]

/-- A number with one bit set, by the bits above and below it. -/
theorem or_two_pow (x k : Nat) : x ||| 2 ^ k = x / 2 ^ (k + 1) * 2 ^ (k + 1) + 2 ^ k + x % 2 ^ k := by
  have hlow : x % 2 ^ k < 2 ^ k := Nat.mod_lt _ (Nat.two_pow_pos _)
  have hsplit : x / 2 ^ (k + 1) * 2 ^ (k + 1) + 2 ^ k + x % 2 ^ k = 2 ^ k * (2 * (x / 2 ^ (k + 1)) + 1) + x % 2 ^ k := by
    rw [pow_succ]
    ring
  have hhigh : x / 2 ^ k = 2 * (x / 2 ^ (k + 1)) + x / 2 ^ k % 2 := by
    rw [pow_succ, ← Nat.div_div_eq_div_mul]
    omega
  rw [hsplit]
  apply Nat.eq_of_testBit_eq
  intro i
  rw [Nat.testBit_or, Nat.testBit_two_pow, Nat.testBit_two_pow_mul_add _ hlow]
  by_cases hi : i < k
  · rw [if_pos hi, Nat.testBit_mod_two_pow, decide_eq_true hi, decide_eq_false hi.ne', Bool.true_and, Bool.or_false]
  · obtain ⟨d, rfl⟩ := Nat.exists_eq_add_of_le (Nat.not_lt.mp hi)
    rw [if_neg hi, Nat.add_sub_cancel_left]
    cases d with
    | zero => simp
    | succ d =>
      rw [decide_eq_false (by omega), Bool.or_false, Nat.testBit_succ, show (2 * (x / 2 ^ (k + 1)) + 1) / 2 = x / 2 ^ (k + 1) by omega,
        Nat.testBit_div_two_pow]
      congr 1
      omega

section
variable {f : Fmt} (hf : f.Regular)
include hf

/-- A NaN operand with its quiet bit set keeps its sign and its other bits (R85). -/
theorem Fmt.Regular.quiet_eq {a : Nat} (h : f.IsNan a) : f.quiet (f.sgn a) (a % 2 ^ f.m) = f.quieted a := by
  obtain ⟨k, hk⟩ := Nat.exists_eq_add_of_le' (show 1 ≤ f.m by have := hf.frac; omega)
  obtain ⟨hex, -⟩ := hf.mag_of_not_finite a (Nat.not_lt.mpr (Nat.le_of_lt h))
  have hpos := Nat.two_pow_pos f.m
  have hw : f.w = f.m + f.e + 1 := by rw [hf.width]; ring
  have hmod : a % 2 ^ f.w % 2 ^ k = a % 2 ^ f.m % 2 ^ k := by
    rw [Nat.mod_mod_of_dvd _ (pow_dvd_pow 2 (by omega)), Nat.mod_mod_of_dvd _ (pow_dvd_pow 2 (by omega))]
  have hdiv : a % 2 ^ f.w / 2 ^ f.m = (if f.sgn a then 2 ^ f.e else 0) + (2 ^ f.e - 1) := by
    have hsgn : a / 2 ^ (f.m + f.e) % 2 = if f.sgn a then 1 else 0 := by
      rw [Fmt.sgn, hf.signBit_eq, ← pow_add, Nat.add_comm f.e]
      obtain h | h := Nat.mod_two_eq_zero_or_one (a / 2 ^ (f.m + f.e)) <;> simp [h]
    rw [hw, Nat.add_assoc, pow_add 2 f.m, Nat.mod_mul_right_div_self, pow_succ, Nat.mod_mul, hex, Nat.div_div_eq_div_mul, ← pow_add, hsgn]
    split <;> omega
  rw [Fmt.quieted, hk, Nat.add_sub_cancel, or_two_pow, hmod, ← hk, hdiv, Fmt.quiet, Fmt.withSign, hf.signBit_eq, Fmt.infCode,
    show f.m - 1 = k by omega]
  split <;> ring

theorem Fmt.Regular.isSnan_unpack (a : Nat) : isSnan (f.unpack a) = decide (f.Signals a) := by
  by_cases h : f.IsNan a
  · rw [hf.unpack_nan a h]
    rfl
  · have hnot : ¬ f.Signals a := fun hs => h hs.1
    rw [decide_eq_false hnot]
    obtain hfin | hinf := Nat.lt_or_eq_of_le (Nat.not_lt.mp h)
    · obtain ⟨m, e, hun, -⟩ := hf.unpack_finite a hfin
      rw [hun]
      rfl
    · rw [hf.unpack_inf a hinf]
      rfl

theorem Fmt.Regular.firstNan_of_nan {a : Nat} (h : f.IsNan a) (l : List Val) : f.firstNan (f.unpack a :: l) = some (f.quieted a) := by
  rw [hf.unpack_nan a h, Fmt.firstNan, hf.quiet_eq h]

theorem Fmt.Regular.firstNan_of_not_nan {a : Nat} (h : ¬ f.IsNan a) (l : List Val) : f.firstNan (f.unpack a :: l) = f.firstNan l := by
  obtain hfin | hinf := Nat.lt_or_eq_of_le (Nat.not_lt.mp h)
  · obtain ⟨m, e, hun, -⟩ := hf.unpack_finite a hfin
    rw [hun]
    rfl
  · rw [hf.unpack_inf a hinf]
    rfl

/-- What two operands deliver of which one is NaN (R85, R86). -/
theorem Fmt.Regular.nanOf_two {a b : Nat} (h : f.IsNan a ∨ f.IsNan b) : f.nanOf [f.unpack a, f.unpack b] =
    some (if f.IsNan a then f.quieted a else f.quieted b, if f.Signals a ∨ f.Signals b then fInvalid else 0) := by
  have hfirst : f.firstNan [f.unpack a, f.unpack b] = some (if f.IsNan a then f.quieted a else f.quieted b) := by
    by_cases ha : f.IsNan a
    · rw [hf.firstNan_of_nan ha, if_pos ha]
    · rw [hf.firstNan_of_not_nan ha, hf.firstNan_of_nan (h.resolve_left ha), if_neg ha]
  simp [Fmt.nanOf, hfirst, hf.isSnan_unpack]

/-- What one operand that is NaN delivers (R85, R86). -/
theorem Fmt.Regular.nanOf_one {a : Nat} (h : f.IsNan a) :
    f.nanOf [f.unpack a] = some (f.quieted a, if f.Signals a then fInvalid else 0) := by
  simp [Fmt.nanOf, hf.firstNan_of_nan h, hf.isSnan_unpack]

/-- An operation on two operands, one of them NaN (R85). -/
theorem binary_nan (mode : Mode) {a b : Nat} (h : f.IsNan a ∨ f.IsNan b) :
    ∀ r ∈ [f.add mode a b, f.sub mode a b, f.mul mode a b, f.div mode a b, f.minmax false a b, f.minmax true a b],
      (f.IsNan a → r.1 = f.quieted a) ∧ (¬ f.IsNan a → r.1 = f.quieted b) ∧
      (f.Signals a ∨ f.Signals b → r.2 = fInvalid) ∧ (¬ f.Signals a → ¬ f.Signals b → r.2 = 0) := by
  have hnan := hf.nanOf_two h
  have hsub := (nanOf_negV f (f.unpack a) (f.unpack b)).trans hnan
  intro r hr
  have hval : r = (if f.IsNan a then f.quieted a else f.quieted b, if f.Signals a ∨ f.Signals b then fInvalid else 0) := by
    simp only [List.mem_cons, List.not_mem_nil, or_false] at hr
    obtain rfl | rfl | rfl | rfl | rfl | rfl := hr
    · simp only [Fmt.add, Fmt.addV, hnan]
    · simp only [Fmt.sub, Fmt.addV, hsub]
    · simp only [Fmt.mul, hnan]
    · simp only [Fmt.div, hnan]
    · simp only [Fmt.minmax, hnan]
    · simp only [Fmt.minmax, hnan]
  subst hval
  exact ⟨fun h => if_pos h, fun h => if_neg h, fun h => if_pos h, fun ha hb => if_neg (not_or.mpr ⟨ha, hb⟩)⟩

/-- The fused product and sum with a NaN operand (R85). -/
theorem fma_nan (mode : Mode) (a b c : Nat) : (f.IsNan a → (f.fma mode a b c).1 = f.quieted a) ∧
    (¬ f.IsNan a → f.IsNan b → (f.fma mode a b c).1 = f.quieted b) ∧
    (¬ f.IsNan a → ¬ f.IsNan b → f.IsNan c → (f.fma mode a b c).1 = f.quieted c) := by
  have hfma {n : Nat} (h : f.firstNan [f.unpack a, f.unpack b, f.unpack c] = some n) : (f.fma mode a b c).1 = n := by
    simp only [Fmt.fma, Fmt.nanOf, h]
  refine ⟨fun ha => hfma ?_, fun ha hb => hfma ?_, fun ha hb hc => hfma ?_⟩
  · exact hf.firstNan_of_nan ha _
  · rw [hf.firstNan_of_not_nan ha, hf.firstNan_of_nan hb]
  · rw [hf.firstNan_of_not_nan ha, hf.firstNan_of_not_nan hb, hf.firstNan_of_nan hc]

/-- An operation on one operand that is NaN (R85). -/
theorem unary_nan (mode : Mode) {a : Nat} (h : f.IsNan a) :
    ∀ r ∈ [f.rcp mode a, f.sqrt mode a, f.rsq mode a, f.exp2 mode a, f.log2 mode a, f.frint mode a],
      r.1 = f.quieted a ∧ (f.Signals a → r.2 = fInvalid) ∧ (¬ f.Signals a → r.2 = 0) := by
  have hnan := hf.nanOf_one h
  obtain ⟨-, -, hone, -⟩ := hf.one_facts
  have hnot : ¬ f.IsNan (f.bias.toNat * 2 ^ f.m) := Nat.not_lt.mpr (Nat.le_of_lt hone)
  have hrcp := hf.nanOf_two (.inr h : f.IsNan (f.bias.toNat * 2 ^ f.m) ∨ f.IsNan a)
  have hquiet : ¬ f.Signals (f.bias.toNat * 2 ^ f.m) := fun hs => hnot hs.1
  simp only [hnot, hquiet, if_false, false_or] at hrcp
  intro r hr
  have hval : r = (f.quieted a, if f.Signals a then fInvalid else 0) := by
    simp only [List.mem_cons, List.not_mem_nil, or_false] at hr
    obtain rfl | rfl | rfl | rfl | rfl | rfl := hr
    · simp only [Fmt.rcp, Fmt.div, hrcp]
    · simp only [Fmt.sqrt, hnan]
    · simp only [Fmt.rsq, hnan]
    · simp only [Fmt.exp2, hnan]
    · simp only [Fmt.log2, hnan]
    · simp only [Fmt.frint, hf.unpack_nan a h, hf.quiet_eq h, decide_eq_true_eq]
  subst hval
  exact ⟨rfl, fun h => if_pos h, fun h => if_neg h⟩

/-- Roots and logarithms of a negative value are invalid (R86). -/
theorem roots_negative (mode : Mode) {a : Nat} (ha : f.Finite a) (h0 : f.value a ≠ 0) (hs : f.sgn a = true) :
    f.sqrt mode a = (f.defNan, fInvalid) ∧ f.rsq mode a = (f.defNan, fInvalid) ∧ f.log2 mode a = (f.defNan, fInvalid) := by
  obtain ⟨m, e, hua, -, -, -, hza⟩ := hf.unpack_value ha
  have hm := mt hza.mpr h0
  simp [Fmt.sqrt, Fmt.rsq, Fmt.log2, hua, Fmt.nanOf, Fmt.firstNan, hm, hs]

/-- Roots and logarithms of a zero (R86, R89). -/
theorem roots_zero (mode : Mode) {a : Nat} (ha : f.Finite a) (h0 : f.value a = 0) :
    f.sqrt mode a = (f.withSign (f.sgn a) 0, 0) ∧ f.rsq mode a = (f.withSign (f.sgn a) f.infCode, fDivZero) ∧
      f.log2 mode a = (f.withSign true f.infCode, fDivZero) := by
  obtain ⟨m, e, hua, -, -, -, hza⟩ := hf.unpack_value ha
  have hm := hza.mp h0
  simp [Fmt.sqrt, Fmt.rsq, Fmt.log2, hua, Fmt.nanOf, Fmt.firstNan, hm]

/-- An infinity and a finite operand. -/
theorem inf_finite (mode : Mode) {a b : Nat} (ha : f.IsInf a) (hb : f.Finite b) :
    f.add mode a b = (f.withSign (f.sgn a) f.infCode, 0) ∧ f.sub mode a b = (f.withSign (f.sgn a) f.infCode, 0) ∧
    f.div mode a b = (f.withSign (f.sgn a != f.sgn b) f.infCode, 0) ∧ f.div mode b a = (f.withSign (f.sgn a != f.sgn b) 0, 0) ∧
    (f.value b ≠ 0 → f.mul mode a b = (f.withSign (f.sgn a != f.sgn b) f.infCode, 0)) ∧
    (f.value b = 0 → f.mul mode a b = (f.defNan, fInvalid)) := by
  have hua := hf.unpack_inf a ha
  obtain ⟨n, g, hub, -, -, -, hzb⟩ := hf.unpack_value hb
  have hnan : f.nanOf [.inf (f.sgn a), .fin (f.sgn b) n g] = none := rfl
  have hnan' : f.nanOf [.fin (f.sgn b) n g, .inf (f.sgn a)] = none := rfl
  have hmul : f.mul mode a b = if n = 0 then (f.defNan, fInvalid) else (f.withSign (f.sgn a != f.sgn b) f.infCode, 0) := by
    rw [Fmt.mul, hua, hub]
    simp only [hnan, isZero_fin, valSign]
    rw [show isZero (.inf (f.sgn a)) = false from rfl, Bool.false_or]
    simp only [decide_eq_true_eq]
  refine ⟨?_, ?_, ?_, ?_, ?_, ?_⟩
  · simp only [Fmt.add, hua, hub, Fmt.addV, hnan]
  · rw [Fmt.sub, hua, hub]
    rfl
  · simp only [Fmt.div, hua, hub, hnan, valSign]
  · simp only [Fmt.div, hua, hub, hnan', valSign, bne_comm (a := f.sgn b)]
  · exact fun h => hmul.trans (if_neg (mt hzb.mpr h))
  · exact fun h => hmul.trans (if_pos (hzb.mp h))

/-- Two infinities. -/
theorem inf_inf (mode : Mode) {a b : Nat} (ha : f.IsInf a) (hb : f.IsInf b) :
    f.add mode a b = (if f.sgn a != f.sgn b then (f.defNan, fInvalid) else (f.withSign (f.sgn a) f.infCode, 0)) ∧
    f.sub mode a b = (if f.sgn a != f.sgn b then (f.withSign (f.sgn a) f.infCode, 0) else (f.defNan, fInvalid)) ∧
    f.mul mode a b = (f.withSign (f.sgn a != f.sgn b) f.infCode, 0) ∧ f.div mode a b = (f.defNan, fInvalid) := by
  have hua := hf.unpack_inf a ha
  have hub := hf.unpack_inf b hb
  rw [Fmt.add, Fmt.sub, Fmt.mul, Fmt.div, hua, hub]
  cases f.sgn a <;> cases f.sgn b <;> exact ⟨rfl, rfl, rfl, rfl⟩

end

/-! ## Conversions -/

/-- A finite value converted to another format (R89, R144). -/
theorem cvtFF_finite {f g : Fmt} (hf : f.Regular) (hg : g.Regular) (mode : Mode) {a : Nat} (ha : f.Finite a) :
    (f.value a ≠ 0 → DeliversRatio g mode (f.sgn a) ((f.value a).natAbs * 2 ^ (f.qmin - g.qmin).toNat) (2 ^ (g.qmin - f.qmin).toNat)
      (cvtFF f g mode a)) ∧
    (f.value a = 0 → cvtFF f g mode a = (g.withSign (f.sgn a) 0, 0)) := by
  obtain ⟨m, e, hua, -, -, hra, hza⟩ := hf.unpack_value ha
  have hdef : cvtFF f g mode a = g.round mode (f.sgn a) m e false := by simp only [cvtFF, hua]
  rw [hdef]
  refine ⟨fun h => round_deliversRatio hg (mt hza.mpr h) (Nat.two_pow_pos _) ?_, fun h => by rw [hza.mp h, round_zero]⟩
  have hscale : ((2 ^ (f.qmin - g.qmin).toNat : Nat) : ℝ) / (2 ^ (g.qmin - f.qmin).toNat : Nat) = 2 ^ (f.qmin - g.qmin) := by
    obtain hle | hle := le_total f.qmin g.qmin
    · rw [show (f.qmin - g.qmin).toNat = 0 by omega, cast_two_pow_toNat (by omega), pow_zero, Nat.cast_one, one_div, ← zpow_neg]
      congr 1
      ring
    · rw [show (g.qmin - f.qmin).toNat = 0 by omega, cast_two_pow_toNat (by omega), pow_zero, Nat.cast_one, div_one]
  rw [Nat.cast_mul, hra, mul_div_assoc, hscale, mul_assoc, ← zpow_add₀ two_ne_zero]
  congr 2
  ring

/-- The payload of a NaN that is converted: the top bits of the fraction, the quiet bit set (R85). -/
theorem quiet_fraction {g : Fmt} (hg : g.Regular) (s : Bool) {x : Nat} (hx : x < 2 ^ g.m) :
    g.quiet s x = g.withSign s (g.infCode + (2 ^ (g.m - 1) ||| x)) := by
  obtain ⟨k, hk⟩ := Nat.exists_eq_add_of_le' (show 1 ≤ g.m by have := hg.frac; omega)
  have hk' : g.m - 1 = k := by omega
  have hdiv : x / 2 ^ (k + 1) = 0 := Nat.div_eq_of_lt (hk ▸ hx)
  rw [Fmt.quiet, hk', Nat.lor_comm, or_two_pow, hdiv, Nat.zero_mul, Nat.zero_add, Nat.add_assoc]

/-- A NaN converted to another format (R85, R144). -/
theorem cvtFF_nan {f g : Fmt} (hf : f.Regular) (hg : g.Regular) (mode : Mode) {a : Nat} (ha : f.IsNan a) :
    (cvtFF f g mode a).1 = g.withSign (f.sgn a) (g.infCode + (2 ^ (g.m - 1) |||
      if f.m ≤ g.m then a % 2 ^ f.m * 2 ^ (g.m - f.m) else a % 2 ^ f.m / 2 ^ (f.m - g.m))) ∧
    (f.Signals a → (cvtFF f g mode a).2 = fInvalid) ∧ (¬ f.Signals a → (cvtFF f g mode a).2 = 0) := by
  have hfr : a % 2 ^ f.m < 2 ^ f.m := Nat.mod_lt _ (Nat.two_pow_pos _)
  have hdef : cvtFF f g mode a = (g.quiet (f.sgn a)
      (if g.m ≤ f.m then a % 2 ^ f.m / 2 ^ (f.m - g.m) else a % 2 ^ f.m * 2 ^ (g.m - f.m)), if f.Signals a then fInvalid else 0) := by
    simp only [cvtFF, hf.unpack_nan a ha, decide_eq_true_eq]
  have hfrac : (if g.m ≤ f.m then a % 2 ^ f.m / 2 ^ (f.m - g.m) else a % 2 ^ f.m * 2 ^ (g.m - f.m)) =
      if f.m ≤ g.m then a % 2 ^ f.m * 2 ^ (g.m - f.m) else a % 2 ^ f.m / 2 ^ (f.m - g.m) := by
    obtain hlt | heq | hgt := lt_trichotomy f.m g.m
    · rw [if_neg (by omega), if_pos hlt.le]
    · rw [if_pos heq.ge, if_pos heq.le, heq, Nat.sub_self, pow_zero, Nat.div_one, Nat.mul_one]
    · rw [if_pos hgt.le, if_neg (by omega)]
  have hsmall : (if f.m ≤ g.m then a % 2 ^ f.m * 2 ^ (g.m - f.m) else a % 2 ^ f.m / 2 ^ (f.m - g.m)) < 2 ^ g.m := by
    split
    next hle =>
      calc a % 2 ^ f.m * 2 ^ (g.m - f.m) < 2 ^ f.m * 2 ^ (g.m - f.m) := Nat.mul_lt_mul_of_pos_right hfr (Nat.two_pow_pos _)
        _ = 2 ^ g.m := by rw [← pow_add, Nat.add_sub_cancel' hle]
    next hlt =>
      rw [Nat.div_lt_iff_lt_mul (Nat.two_pow_pos _), ← pow_add, Nat.add_sub_cancel' (by omega)]
      exact hfr
  rw [hdef, hfrac, quiet_fraction hg _ hsmall]
  exact ⟨rfl, fun h => if_pos h, fun h => if_neg h⟩

/-- An integer converted to a float (R89, R91). -/
theorem cvtIF_rounds {f : Fmt} (hf : f.Regular) (mode : Mode) (v : Int) :
    (v ≠ 0 → DeliversRatio f mode (decide (v < 0)) (v.natAbs * 2 ^ (-f.qmin).toNat) 1 (cvtIF f mode v)) ∧
    (v = 0 → cvtIF f mode v = (f.withSign false 0, 0)) := by
  constructor
  · intro h
    refine round_deliversRatio hf (Int.natAbs_ne_zero.mpr h) Nat.one_pos ?_
    rw [Nat.cast_mul, cast_two_pow_toNat (by have := hf.qmin_neg; omega), Nat.cast_one, div_one, zero_sub]
  · rintro rfl
    rfl

end Sys2Proof.Fl

namespace Sys2Proof.Machine
open Sys2Proof State

/-- Settles O24: the exact result is computed in the reals, and the model's rounding delivers the code of R89 of it. -/
theorem floatValuesRounded : Obligations.FloatValuesRounded := by
  intro f g mode a b c hmf hmg
  have hf := Fl.regular_of_mem hmf
  have hg := Fl.regular_of_mem hmg
  refine ⟨⟨rfl, rfl, rfl, rfl⟩, fun ha hb => ?_, fun ha => ⟨fun h0 => ?_, fun h0 => ?_⟩, fun ha => ?_, Fl.binary_nan hf mode,
    Fl.fma_nan hf mode a b c, Fl.unary_nan hf mode, Fl.cvtFF_finite hf hg mode, fun ha => ?_, fun ha _ => Fl.cvtFF_nan hf hg mode ha,
    Fl.cvtIF_rounds hf mode⟩
  · obtain ⟨hadd, hadd0⟩ := Fl.add_finite hf mode ha hb
    obtain ⟨hsub, hsub0⟩ := Fl.sub_finite hf mode ha hb
    obtain ⟨hmul, hmul0⟩ := Fl.mul_finite hf mode ha hb
    obtain ⟨hdiv, hdiv0, hinf, hinv⟩ := Fl.div_finite hf mode ha hb
    exact ⟨hadd, hadd0, hsub, hsub0, hmul, hmul0, hdiv, hdiv0, hinf, hinv, fun hc => Fl.fma_finite hf mode ha hb hc rfl⟩
  · exact ⟨(Fl.rcp_finite hf mode ha).1 h0, fun hs => ⟨Fl.sqrt_finite hf mode ha hs h0, Fl.rsq_finite hf mode ha hs h0⟩,
      Fl.roots_negative hf mode ha h0⟩
  · exact ⟨(Fl.rcp_finite hf mode ha).2 h0, Fl.roots_zero hf mode ha h0⟩
  · exact ⟨Fl.inf_finite hf mode ha, Fl.inf_inf hf mode ha⟩
  · simp only [Fl.cvtFF, hf.unpack_inf a ha]

end Sys2Proof.Machine
end
